-- ==== Sys2Proof/Word.lean ====
section
/-! DEFINITION. The word types of the model and their plainest facts.
The manual's own numbers (counts, indexes, times in ns, addresses while they are looked up) are `Nat`;
bytes in memory are `BitVec 8`, and a register or record word that software sees whole is `BitVec 64`. -/

namespace Sys2Proof

/-- One byte of memory (00_scope.md R3). -/
abbrev Byte := BitVec 8

/-- One 8-byte register or record word, little-endian in memory (R3, R4). -/
abbrev W64 := BitVec 64

end Sys2Proof
end

