-- ==== Sys2Proof/Syntax.lean ====
section
/-! DEFINITION. The commands of the block: one constructor of `Instr` per row of spec/opcode_table.json,
with the operands the row's rule gives it, and the messages and packets those operands are made of. -/

namespace Sys2Proof

/-- An owner, claimant or offeree: (module, partition, epoch), the module named by domain and endpoint (R90, R195). -/
structure Party where
  domain : Nat
  ep     : Nat
  part   : Nat
  epoch  : Nat
deriving DecidableEq, Repr, Inhabited

/-- An instruction in flight: its partition, its queue and the queue index of its base word (R188, R206 WORD). -/
structure IRef where
  part  : Nat
  queue : Nat
  idx   : Nat
deriving DecidableEq, Repr, Inhabited

/-- Who reaches a register page (R494). -/
inductive Accessor where
  | pf (group : Nat)      -- the physical function of a function group
  | vf (part : Nat)       -- the virtual function of a partition
  | ringmaster (part : Nat)
  | mgmt
deriving DecidableEq, Repr

/-- A page or window that an access targets (R435, R496, R497). -/
inductive Page where
  | module
  | part (p : Nat)
deriving DecidableEq, Repr

/-- A trapeze message other than FENCE, field by field as R97 lays it out. -/
structure TMsg where
  level     : Nat := 1
  ttype     : Nat
  status    : Nat := 0
  src       : Party
  tag       : Nat := 0
  handle    : Nat
  peer      : Party := ⟨0, 0, 0, 0⟩
  time      : Nat := 0
  hold      : Nat := 0
  state     : Nat := 0
  flags     : Nat := 0
  refs      : Nat := 0
  newHandle : Nat := 0
  toPart    : Nat := 0
  toEpoch   : Nat := 0
  offeree   : Party := ⟨0, 0, 0, 0⟩   -- QUERY_REPLY: beside the 64 bytes, which have no place for it (R108; log entry 96)
  size      : Option Nat := none      -- QUERY_REPLY: log2 of the frame's granules, beside the 64 bytes (R410; log entry 75)
deriving DecidableEq, Repr, Inhabited

/-- The claim of an ALLOC at a home. R98 gives the message no type and R97 no layout for its operands
(DESIGN CHOICE, log entry 8): it carries what R94, R107 and R213 need. -/
structure AllocMsg where
  src      : Party
  tag      : Nat
  home     : Nat × Nat          -- domain, endpoint of the home
  part     : Nat                -- partition of the home that takes the frames
  owner    : Party
  flags    : Nat
  sizeLog2 : Nat
  count    : Nat
deriving DecidableEq, Repr, Inhabited

/-- The claim of a SEAL at a home, with the chain hash the sealing module computed (R61, R278; log entry 8). -/
structure SealMsg where
  src    : Party
  tag    : Nat
  handle : Nat
  hashLo : Nat
  hashHi : Nat
deriving DecidableEq, Repr, Inhabited

/-- The claim of a FREE at a home, or with `add` the reference that an ENCODE adds to a data shard (R409 step 5; log
entry 8). -/
structure FreeMsg where
  src    : Party
  tag    : Nat
  handle : Nat
  add    : Bool := false
deriving DecidableEq, Repr, Inhabited

/-- The request of a MIGRATE to the source home: the destination, the flags for the new home and the bytes of the block
that lie below W, the only ones that are data (R68, R72, R111; log entry 8). -/
structure MigrateMsg where
  src    : Party
  tag    : Nat
  handle : Nat
  dest   : Party
  flags  : Nat
  rows   : List (Nat × Nat)     -- offsets and lengths
deriving DecidableEq, Repr, Inhabited

/-- MIGRATE_BEGIN with what step 1 of R111 says it sends: flags, size and owner (R97, R98). -/
structure BeginMsg where
  src      : Party
  tag      : Nat
  handle   : Nat                -- the block's handle at the source
  dest     : Party              -- destination module and partition
  owner    : Party
  flags    : Nat
  sizeLog2 : Nat
deriving DecidableEq, Repr, Inhabited

/-- A FENCE (R116). The signature is two 384-bit integers. -/
structure FenceMsg where
  level      : Nat := 1
  domain     : Nat
  ep         : Nat
  part       : Nat
  gate       : Bool
  noFloor    : Bool
  fenceEpoch : Nat
  issued     : Nat
  reserved   : List Byte       -- the signed bits that R116 reserves, as received: [63:28] of 0x08 in 5 bytes, 0x14–0x17, 0x20–0x3F
  sigR       : Nat
  sigS       : Nat
  sender     : Party           -- the steward's module, to which FENCE_ACK returns
deriving DecidableEq, Repr, Inhabited

/-- An ATTEND_REQ or ATTEND_RESP (R149): the header fields and the bytes that follow them. -/
structure AttendMsg where
  level  : Nat := 1
  status : Nat := 0
  src    : Party
  tpart  : Nat
  target : Nat × Nat
  tag    : Nat
  nent   : Nat
  nrows  : Nat
  body   : List Byte
deriving DecidableEq, Repr, Inhabited

/-- A Poltex packet (R335). `port` is the near port it arrived on. -/
structure Packet where
  port    : Nat
  level   : Nat := 1
  op      : Nat
  tc      : Nat
  seg     : Bool := false
  first   : Bool := true
  last    : Bool := true
  idx     : Bool := false
  src     : Nat
  dst     : Nat
  tag     : Nat
  aop     : Nat := 0
  aw      : Bool := false
  addr    : Nat
  plen    : Nat
  spart   : Nat := 0
  epoch   : Nat := 0
  status  : Nat := 0
  payload : List Byte := []
deriving DecidableEq, Repr, Inhabited

/-- A Tlaley packet (R363). `port` is the far port it arrived on, `ce` whether it was CE-marked (R373). -/
structure TPacket where
  port     : Nat
  level    : Nat := 1
  op       : Nat
  tc       : Nat := 0
  seg      : Bool := false
  first    : Bool := true
  last     : Bool := true
  dev      : Bool := false
  dconn    : Nat
  psn      : Nat := 0
  dcepoch  : Nat
  key      : Nat := 0
  raddr    : Nat := 0
  apsn     : Nat := 0
  syndrome : Nat := 0
  status   : Nat := 0
  delay    : Nat := 0
  spart    : Nat := 0
  pepoch   : Nat := 0
  ce       : Bool := false
  payload  : List Byte := []
deriving DecidableEq, Repr, Inhabited

/-- The connection record of OPEN, OPEN_ACK, CLOSE and CLOSE_ACK (R365). -/
structure ConnRecord where
  sdomain : Nat
  sep     : Nat
  tpart   : Nat
  pmtu    : Nat
  sconn   : Nat
  status  : Nat := 0
  scepoch : Nat
deriving DecidableEq, Repr, Inhabited

/-- A transcoder segment as it enters the receiving port (R248). -/
structure Segment where
  level     : Nat := 1
  wire      : Nat
  native    : Nat
  codec     : Bool
  width     : Nat
  reduce    : Bool
  rctx      : Nat
  nativeLen : Nat
  dest      : Nat
  body      : List Byte
deriving DecidableEq, Repr, Inhabited

/-- What a memory-controller access is made for: the reader or writer of R395 and R396. -/
inductive MemUser where
  | engine (w : IRef)
  | poltex (k : Packet)
  | tlaley (conn : Nat) (k : TPacket)
  | deviceRead (w : IRef)
  | barWindow (acc : Accessor) (part : Nat)
  | queueFetch (part queue : Nat)
  | frameRecord (granule : Nat)
  | journal (seq : Nat)
  | indexShadow (position : Nat)
  | forwarding (handle : Nat)
  | connIndex (conn : Nat)
  | selfTest
deriving DecidableEq, Repr

/-- One access of a memory-controller island (R38, R395). -/
inductive MemOp where
  | read (len : Nat)
  | write (data : List Byte)
deriving DecidableEq, Repr

/-- An error the pins put on one symbol of the word at a device address: (word address, symbol, value) (R391, R393). -/
structure PinNoise where
  word   : Nat
  symbol : Nat
  value  : Nat
deriving DecidableEq, Repr

/-- An access through a BAR2/3 window (R435, R498). -/
inductive BarOp where
  | read (len : Nat)
  | write (data : List Byte)
deriving DecidableEq, Repr

/-- How an act keeps its obligations in one ATTEND (R231): it does, it reads beyond the end of a unit's sequence, or it
breaks another of them. -/
inductive ActRun where
  | kept
  | beyond
  | broken
deriving DecidableEq, Repr

/-- Why a partition restarts (R443, R445 LAST_CAUSE). -/
inductive RestartCause where
  | software (acc : Accessor)
  | coreFailure
  | escalation
deriving DecidableEq, Repr

/-- Where an error is being handled: its containment context (R420, R424). -/
inductive ErrContext where
  | instr (w : IRef)
  | request (part idx : Nat)
  | queue (part queue : Nat)
  | partition (part : Nat)
deriving DecidableEq, Repr

/-- A rebuild request or reply between ringmasters (R415). -/
structure RebuildMsg where
  src        : Party
  shard      : Nat
  status     : Nat := 0
  tag        : Nat
  newHandle  : Nat := 0
  lost       : Nat := 0
  descriptor : List Byte := []
deriving DecidableEq, Repr, Inhabited

/-- The record that a releaser's ringmaster sends with a request it hands over, and the first token (R184, R65);
`image` is the 128-byte record and `verdict` the EMIT verdict (R168). `stripes` holds the descriptors of the stripes of its
blocks, each with whether it is the counted copy (R411). -/
structure HandOver where
  index   : Nat
  image   : List Byte
  verdict : List Byte
  stripes : List (List Byte × Bool) := []
deriving DecidableEq, Repr, Inhabited

/-- The outcome that a self-test or verification run in the module's own hardware brings to a boot step (R449):
what the memories, channels, PUF and lasers showed. -/
structure BootFindings where
  pufOk       : Bool := true        -- step 1: seed reconstructed and DeviceID key matches (R455, R456)
  failEngines : List Nat := []      -- step 4: positions AE[n] that failed
  failCores   : List Nat := []
  failChannel : Bool := false       -- step 6: a channel failed to train (R400)
  dramOk      : Bool := true        -- R470: every word zeroed under R469 step 4
  opticsOk    : Bool := true
  repair      : List Byte := []     -- step 4: map of spare columns and spare scratch macros that the start test wrote (R463)
deriving DecidableEq, Repr, Inhabited

/-- A management boot command (R513): the record slot named and the time supplied. -/
structure BootCmd where
  slot : Nat
  time : Option Nat
deriving DecidableEq, Repr, Inhabited

/-- The temperatures of one sample, °C (R519). -/
structure Temps where
  engines    : Int
  hub        : Int
  gddr       : Int
  optics     : Int
  regulators : Int
deriving DecidableEq, Repr, Inhabited

/-- The event and general messages of IEEE 1588 that a time receiver acts on (R379); `other` is every other one. -/
inductive PtpKind where
  | sync (twoStep : Bool)
  | followUp
  | delayResp
  | other
deriving DecidableEq, Repr, Inhabited

/-- A PTP message that a far port receives (R379): its sequence number, and in ns the time that it carries (origin, precise
origin or receive timestamp, TAI) and its correction. The MAC time-stamps its arrival. -/
structure PtpMsg where
  port   : Nat
  domain : Nat
  ipv6   : Bool
  kind   : PtpKind
  seq    : Nat
  time   : Int
  corr   : Int := 0
deriving DecidableEq, Repr, Inhabited

/-- Why a far port does not take a frame for a Tlaley packet (R356, R357, R364). -/
inductive FrameFault where
  | other                       -- neither Tlaley nor PTP
  | fragment
  | badChecksum                 -- UDP
  | tooLong                     -- above 9,216 bytes
  | reservedOp                  -- a Tlaley packet with a reserved OP
  | globalPause                 -- IEEE 802.3 PAUSE, which is ignored
deriving DecidableEq, Repr, Inhabited

/-- A doubleword of a function's configuration space: of its header, or of a capability or extended capability, named by its
identifier (R434 to R436). Where the capabilities stand, the manual does not say (log entry 44). -/
inductive ConfigDword where
  | header (off : Nat)
  | cap (id off : Nat)
  | ext (id off : Nat)
deriving DecidableEq, Repr, Inhabited

/-- What escalates a containment (R426). -/
inductive MachineryError where
  | bound                       -- a containment action has not completed within its bound
  | record                      -- an error record of it could not be written
  | logic                       -- a fault in the logic that carries it out
deriving DecidableEq, Repr, Inhabited

/-- A containment that escalates: whose, and why (R426). -/
structure ContainmentError where
  ctx : ErrContext
  why : MachineryError
deriving DecidableEq, Repr

/-- A wavelength that a far port takes out of service. `symbols` is the count of corrected symbols in one window that WL_LIMIT
judges; none for a wavelength that has lost its signal or lock (R359). -/
structure WavelengthFault where
  wavelength : Nat
  symbols    : Option Nat := none
deriving DecidableEq, Repr, Inhabited

/-- A frame that a far port does not take for a Tlaley packet, and the port (R356, R357, R364). -/
structure ForeignFrame where
  port : Nat
  why  : FrameFault
deriving DecidableEq, Repr, Inhabited

/-- A read of a doubleword of configuration space, or with `write` a write of that value (R434 to R436). -/
structure ConfigAccess where
  reg   : ConfigDword
  write : Option Nat := none
deriving DecidableEq, Repr, Inhabited

/-- A host group's physical function is reset; `down` says whether its link goes down too (R438, R507). -/
structure LinkLoss where
  group : Nat
  down  : Bool
deriving DecidableEq, Repr, Inhabited

/-- What a host link trains at: GT/s and lanes (R434). -/
structure HostTraining where
  rate  : Nat
  lanes : Nat
deriving DecidableEq, Repr, Inhabited

/-- The commands of the block, one per row of spec/opcode_table.json, in the table's order. An instruction row
names the issued instruction it runs; the operands are fields of that instruction's words (R194 to R223). -/
inductive Instr where
  -- instructions of the opcode tables (07_instruction_set.md)
  | nop (w : IRef)
  | fence (w : IRef)
  | wait (w : IRef)
  | signal (w : IRef)
  | timewait (w : IRef)
  | snap (w : IRef)
  | haltq (w : IRef)
  | alloc (w : IRef)
  | seal (w : IRef)
  | free (w : IRef)
  | release (w : IRef)
  | catch_ (w : IRef)
  | migrate (w : IRef)
  | query (w : IRef)
  | fenceep (w : IRef)
  | reclaim (w : IRef)
  -- (engine, granule) of each lead miss that timing brings (R239), and how the act keeps its obligations (R231)
  | attend (w : IRef) (misses : List (Nat × Nat)) (act : ActRun)
  | merge (w : IRef)
  | loadact (w : IRef)
  | append (w : IRef)
  | commit (w : IRef)
  | rollback (w : IRef)
  | emit (w : IRef)
  | step (w : IRef)
  | retire (w : IRef)
  | openreq (w : IRef)
  | xset (w : IRef)
  | xstat (w : IRef)
  | expand (w : IRef)
  | seek (w : IRef)
  | insert (w : IRef)
  | delete (w : IRef)
  | pair (w : IRef)
  | sweep (w : IRef)
  | load (w : IRef)
  | store (w : IRef)
  | atomic (w : IRef)
  | msg (w : IRef)
  | put (w : IRef)
  | get (w : IRef)
  | send (w : IRef)
  | connect (w : IRef)
  | disconnect (w : IRef)
  | encode (w : IRef)
  | rebuild (w : IRef)
  | verify (w : IRef)
  | admission (w : IRef)
  | charge (w : IRef)
  | refund (w : IRef)
  -- queues, semaphores and register writes with an effect of their own
  | instructionIssue (part : Nat)
  | instructionCommit (part queue : Nat)
  | semaphoreServe (part sem : Nat)
  | waitLimitExpiry (w : IRef)
  | doorbell (acc : Accessor) (part queue : Nat) (size : Nat) (upper : Bool) (value : W64)
  | qBaseWrite (acc : Accessor) (part queue : Nat) (completion : Bool) (value : W64)
  | qResume (acc : Accessor) (part queue : Nat)
  | semaphoreWrite (acc : Accessor) (part sem : Nat) (value : W64)
  | errqBaseWrite (acc : Accessor) (part : Nat) (value : W64)
  | bucketWrite (acc : Accessor) (part : Nat) (level : Bool) (value : W64)
  | meterWrite (acc : Accessor) (part : Nat) (cfg : Bool) (value : W64)
  | preempt (acc : Accessor) (part : Nat)
  | preemptDrained (part : Nat)
  | resume (acc : Accessor) (part : Nat)
  | restart (part : Nat) (cause : RestartCause)
  | gateArm (acc : Accessor)
  | gateDisarm (acc : Accessor)
  | gateEnableWrite (acc : Accessor) (value : W64)
  | snapArm (acc : Accessor)
  | counterClear (acc : Accessor)
  | injectArm (acc : Accessor) (value : W64)
  | registerWrite (acc : Accessor) (page : Page) (offset size : Nat) (values : List W64)
  | portIdlePoint (port : Nat)
  | barWindowAccess (acc : Accessor) (part : Nat) (offset : Nat) (op : BarOp)
  -- trapeze at the home and at the parties
  | releaseAtHome (m : TMsg)
  | catchAtHome (m : TMsg)
  | queryAtHome (m : TMsg)
  | allocAtHome (m : AllocMsg)
  | sealAtHome (m : SealMsg)
  | freeAtHome (m : FreeMsg)
  | migrateAtSource (m : MigrateMsg)
  | migrateBegin (m : BeginMsg)
  | migrateReady (m : TMsg)
  | migrateCopyDone (granule : Nat)
  | migrateCommit (m : TMsg) (hash : Option Nat)  -- a sealed block's chain hash, beside the 64 bytes (log entry 60)
  | migrateDone (m : TMsg)
  | migrateAbort (m : TMsg)
  | offer (m : TMsg)
  | confirm (m : TMsg) (hand : Option HandOver)
  | returned (m : TMsg)
  | reply (m : TMsg) (handles : List Nat)
  | queryReply (m : TMsg)
  | fenceMsg (f : FenceMsg)
  | fenceAck (m : TMsg)
  | fenceepLimit (w : IRef)
  | offerDeadline (granule : Nat)
  | migrationDeadline (granule : Nat)
  | lostHoldEnd (granule : Nat)
  | forwardingHoldEnd (handle : Nat)
  | outcomeWaitExpiry (part tag : Nat)
  | replyWaitExpiry (w : IRef) (dead : Bool)
  -- remote attention and the ringmaster's own work
  | attendReq (m : AttendMsg)
  | attendResp (m : AttendMsg)
  | remoteWaitExpiry (part tag : Nat) (dead : Bool)
  | lateBoundExpiry (w : IRef) (handle : Nat)
  | admitRetry (part : Nat)
  | rebuildRequestMsg (part : Nat) (m : RebuildMsg)
  | rebuildReplyMsg (part : Nat) (m : RebuildMsg)
  | rebuildWaitExpiry (part tag : Nat)
  | demotion (part : Nat)
  -- index
  | respreadDone (part : Nat)
  | mirrorSweep
  | ixTempSample (celsius : Nat)
  -- Poltex
  | poltexLoad (k : Packet)
  | poltexStore (k : Packet)
  | poltexAtomic (k : Packet)
  | poltexMsg (k : Packet)
  | atomicUnitApply (line : Nat)
  | data (k : Packet)
  | cpl (k : Packet)
  | lstate (k : Packet)
  | lstateTimer
  | deadBoundExpiry (tag : Nat)
  | flitReceive (port : Nat) (flit : List Byte)
  | linkTraining (port : Nat) (lanes : Nat) (partner level : Nat)
  | partnerTimeout (port : Nat)
  | laneFailure (port lane : Nat)
  | spareLaneTrained (port : Nat)
  -- transcoder arrivals
  | contributionSegment (part port : Nat) (src : Nat) (g : Segment)
  | roundLimitExpiry (part ctx : Nat)
  | segmentArrival (part port : Nat) (src : Nat) (g : Segment)
  -- Tlaley
  | write (k : TPacket)
  | readReq (k : TPacket)
  | readResp (k : TPacket)
  | sendPkt (k : TPacket)
  | ack (k : TPacket)
  | nak (k : TPacket)
  | echo (k : TPacket)
  | open_ (k : TPacket) (r : ConnRecord) (ip : List Byte)
  | openAck (k : TPacket) (r : ConnRecord)
  | close (k : TPacket) (r : ConnRecord) (ip : List Byte)
  | closeAck (k : TPacket) (r : ConnRecord)
  | openRetry (conn : Nat)
  | closeRetry (conn : Nat)
  | ackTimer (conn : Nat)
  | rtoExpiry (conn : Nat)
  | rnrDelayExpiry (conn : Nat)
  | ccPeriodEnd (conn : Nat)
  | stateFetchDone (conn : Nat) (ok : Bool)
  -- symbols: FEC symbols corrected in a millisecond, none where the receiver lost lock (R359)
  | wavelengthFailure (port : Nat) (fault : WavelengthFault)
  | spareWavelengthReady (port : Nat)
  | pfcFrame (port prio : Nat) (pause : Bool)
  | pfcPauseLimit (port prio : Nat)
  -- time
  | ptpMessage (m : PtpMsg)
  | ppsPulse (interval : Nat)
  | timeSourceLoss
  | timeCorrection
  -- shaping
  | portFrameSend (port : Nat)
  | pendingReexamine (part tc port : Nat)
  | wheelSlotRelease (slot : Nat)
  | overflowSlotRelease (slot : Nat)
  | gateEntryBoundary (port : Nat)
  | gateTakeover (port : Nat)
  | leafIdleForget (port : Nat) (part tc : Nat) (req : Option Nat)
  -- memory
  | mcAccess (addr : Nat) (op : MemOp) (user : MemUser) (noise : List PinNoise) (crcFails : Nat)
  | correctionCountClear
  | scrubGranule (channel : Nat) (noise : List PinNoise)
  | refreshSlot (channel : Nat)
  | dramTempSample (temps : List Nat)
  -- counters, containment
  | snapLatch
  | containmentTimeout (e : ContainmentError)
  | engineFailure (n : Nat)
  | coreFailure (n : Nat)
  | syFault
  -- host links and power
  | functionLevelReset (part : Nat)
  | hostLinkLoss (e : LinkLoss)
  | hostLinkUp (group : Nat) (trained : HostTraining)
  | enAssert
  | powerGood
  | powerLoss (enReleased : Bool)          -- EN released, or else a lockout or the overvoltage protection acts
  | rstNAssert
  -- management
  | moduleReset
  | bootStep (f : BootFindings)
  | bootCommand (c : BootCmd)
  | bootCommandTimeout
  | shutdownCommand
  | shutdownTestDone (misr : List Nat) (repair : List Byte) (units : List Nat)   -- units: groups that neither column nor macro spares repair
  | sanitiseCommand (releaseOwner byAuthority : Bool) (sigR sigS : Nat)
  | sanitiseDramDone (ok : Bool)
  | recertCommand (sigR sigS : Nat) (passed : Bool) (serial : Nat)
  | exportCommand (first last : Nat) (nonce : List Byte)
  | tenantCommand (body : List Byte)
  | firmwareInstall (image : List Byte)
  | firmwareActivate (slot : Nat)
  | compositionKeyInstall (x y : Nat) (signature : Option (Nat × Nat))
  | managementEventRead
  | pldmSensorRead
  | getVersion (offers13 : Bool)
  | getCapabilities
  | negotiateAlgorithms (p384sha384 : Bool)
  | getDigests
  | getCertificate (slot offset len : Nat)
  | challenge (slot : Nat) (nonce : List Byte)
  | getMeasurements (index : Nat) (signed : Bool) (nonce : List Byte)
  | periodic (energy : Nat)
  | sensorSample (t : Temps)
  -- prbs13: when the partner's pattern was detected on the spare (R358)
  | farPortTraining (port : Nat) (wavelengths : Nat) (prbs13 : Option Nat)
  | queueIssueStateFault (part queue : Nat)
  | configurationRequest (fn : Accessor) (access : ConfigAccess)
  | registerRead (acc : Accessor) (page : Page) (offset size : Nat)
  | undervoltageLockoutRelease
  | ref10mSignal (valid : Bool)
  | nonTlaleyFrame (frame : ForeignFrame)
deriving DecidableEq, Repr

end Sys2Proof
end

