-- ==== Sys2Proof/Decode.lean ====
section
/-! DEFINITION. Decoding a word by the bits of spec/opcode_table.json. The table gives no row any bits: its rows are
commands with operands (an address, a message, a packet), not words, so no word spells one (log entry 3). The
encodings that the manual does give (instruction words, messages, packets, records) are read where they are used. -/

namespace Sys2Proof

/-- The command that a word spells by the table's bits: none, since no row has any. -/
def decodeTableWord (_nbits _w : Nat) : Option Instr := none

end Sys2Proof
end

