-- ==== Sys2Proof/Machine/Bits.lean ====
section
/-! DEFINITION. Bit fields, little-endian bytes and signed readings (00_scope.md R3, R4). -/

namespace Sys2Proof.Machine

/-- Field [hi:lo] of a word, bit 0 least significant (R3). -/
def bits (w hi lo : Nat) : Nat := w / 2 ^ lo % 2 ^ (hi + 1 - lo)

/-- Bit i of a word. -/
def bit (w i : Nat) : Bool := w / 2 ^ i % 2 == 1

/-- A Bool as a one-bit field. -/
def flag (b : Bool) : Nat := if b then 1 else 0

/-- The n low bytes of a number, lowest offset first (R3). -/
def toLe (n : Nat) (v : Nat) : List Byte :=
  match n with
  | 0 => []
  | n + 1 => BitVec.ofNat 8 v :: toLe n (v / 256)

/-- The number that a little-endian byte string holds (R3). -/
def fromLe : List Byte → Nat
  | [] => 0
  | b :: bs => b.toNat + 256 * fromLe bs

/-- Bytes off to off + n − 1 of a record as a little-endian number; missing bytes read 0. -/
def leAt (bs : List Byte) (off n : Nat) : Nat := fromLe ((bs.drop off).take n)

/-- The two's complement reading of the n low bits. -/
def signed (n w : Nat) : Int :=
  let v := w % 2 ^ n
  if v < 2 ^ (n - 1) then (v : Int) else (v : Int) - (2 ^ n : Int)

/-- The n-bit two's complement word of an integer. -/
def unsignedOf (n : Nat) (v : Int) : Nat := (v % (2 ^ n : Int)).toNat

/-- Ceiling division; 0 when the divisor is 0. -/
def ceilDiv (a b : Nat) : Nat := if b = 0 then 0 else (a + b - 1) / b

/-- a rounded up to a multiple of b. -/
def alignUp (a b : Nat) : Nat := ceilDiv a b * b

/-- The indexes of the set bits among the n low bits, ascending. -/
def setBits (n w : Nat) : List Nat := (List.range n).filter (fun i => bit w i)

/-- The word with exactly the listed bits set. -/
def ofSetBits (is : List Nat) : Nat := is.eraseDups.foldl (fun a i => a + 2 ^ i) 0

/-- Bit i set to b. -/
def putBit (w i : Nat) (b : Bool) : Nat :=
  if bit w i == b then w else if b then w + 2 ^ i else w - 2 ^ i

/-- Field [hi:lo] of w replaced by v. -/
def putBits (w hi lo v : Nat) : Nat :=
  w - bits w hi lo * 2 ^ lo + v % 2 ^ (hi + 1 - lo) * 2 ^ lo

/-- Exclusive or of two numbers. -/
def xorN (a b : Nat) : Nat := Nat.xor a b

end Sys2Proof.Machine
end

