-- ==== Sys2Proof/Machine/Ecdsa.lean ====
section
/-! DEFINITION. Verification of an ECDSA P-384 signature over SHA-384 (FIPS 186-5), which the manual names for
fences (R116, R118), composition records (R431, R432), firmware (R452) and signed management commands (R469, R471). -/

namespace Sys2Proof.Machine

/-- The field prime of P-384. -/
def p384 : Nat := 2 ^ 384 - 2 ^ 128 - 2 ^ 96 + 2 ^ 32 - 1

/-- The order of P-384's base point. -/
def n384 : Nat :=
  0xFFFFFFFFFFFFFFFFFFFFFFFFFFFFFFFFFFFFFFFFFFFFFFFFC7634D81F4372DDF581A0DB248B0A77AECEC196ACCC52973

/-- The coefficient b of P-384. -/
def b384 : Nat :=
  0xB3312FA7E23EE7E4988E056BE3F82D19181D9C6EFE8141120314088F5013875AC656398D8A2ED19D2A85C8EDD3EC2AEF

/-- The base point's coordinates. -/
def g384 : Nat × Nat :=
  (0xAA87CA22BE8B05378EB1C71EF320AD746E1D3B628BA79B9859F741E082542A385502F25DBF55296C3A545E3872760AB7,
   0x3617DE4A96262C6F5D9E98BF9292DC29F8F41DBD289A147CE9DA3113B5F0B8C00A60B1CE1D7E819D7A431D7C90EA0E5F)

/-- a^e mod m over the low n bits of e, most significant first. -/
def powMod (a m e : Nat) : Nat → Nat → Nat
  | 0, acc => acc
  | n + 1, acc =>
    let sq := acc * acc % m
    powMod a m e n (if bit e n then sq * a % m else sq)

/-- The inverse modulo a prime. -/
def invMod (a m : Nat) : Nat := powMod (a % m) m (m - 2) 384 1

/-- (a − b) modulo p384. -/
def subP (a b : Nat) : Nat := (a + p384 - b % p384) % p384

/-- A point in Jacobian coordinates; z = 0 is the point at infinity. -/
structure JPoint where
  x : Nat
  y : Nat
  z : Nat

/-- Doubling, with a = −3. -/
def jDouble (q : JPoint) : JPoint :=
  if q.z = 0 ∨ q.y = 0 then ⟨1, 1, 0⟩ else
  let z2 := q.z * q.z % p384
  let m := 3 * (subP q.x z2) % p384 * ((q.x + z2) % p384) % p384
  let y2 := q.y * q.y % p384
  let s := 4 * q.x % p384 * y2 % p384
  let x3 := subP (m * m % p384) (2 * s)
  let y3 := subP (m * subP s x3 % p384) (8 * (y2 * y2 % p384))
  ⟨x3, y3, 2 * q.y % p384 * q.z % p384⟩

/-- Sum of two points. -/
def jAdd (a b : JPoint) : JPoint :=
  if a.z = 0 then b
  else if b.z = 0 then a
  else
    let za := a.z * a.z % p384
    let zb := b.z * b.z % p384
    let u1 := a.x * zb % p384
    let u2 := b.x * za % p384
    let s1 := a.y * zb % p384 * b.z % p384
    let s2 := b.y * za % p384 * a.z % p384
    if u1 = u2 then (if s1 = s2 then jDouble a else ⟨1, 1, 0⟩)
    else
      let h := subP u2 u1
      let r := subP s2 s1
      let h2 := h * h % p384
      let h3 := h2 * h % p384
      let v := u1 * h2 % p384
      let x3 := subP (subP (r * r % p384) h3) (2 * v)
      let y3 := subP (r * subP v x3 % p384) (s1 * h3)
      ⟨x3, y3, a.z * b.z % p384 * h % p384⟩

/-- k · q over the low n bits of k, most significant first. -/
def jMul (q : JPoint) (k : Nat) : Nat → JPoint → JPoint
  | 0, acc => acc
  | n + 1, acc =>
    let d := jDouble acc
    jMul q k n (if bit k n then jAdd d q else d)

/-- Does (r, s) sign the message under the public key (x, y) (FIPS 186-5). -/
def ecdsaVerify (x y : Nat) (msg : List Byte) (r s : Nat) : Bool :=
  if r = 0 ∨ s = 0 ∨ n384 ≤ r ∨ n384 ≤ s then false
  else if p384 ≤ x ∨ p384 ≤ y ∨ y * y % p384 ≠ (x * x % p384 * x + p384 * 3 - 3 * x + b384) % p384 then false
  else
    let e := fromBe (sha384 msg)
    let w := invMod s n384
    let u1 := e * w % n384
    let u2 := r * w % n384
    let inf : JPoint := ⟨1, 1, 0⟩
    let q := jAdd (jMul ⟨g384.1, g384.2, 1⟩ u1 384 inf) (jMul ⟨x, y, 1⟩ u2 384 inf)
    if q.z = 0 then false
    else
      let zi := invMod q.z p384
      q.x * (zi * zi % p384) % p384 % n384 == r

end Sys2Proof.Machine
end

