-- ==== Sys2Proof/Config.lean ====
section
/-! DEFINITION. What an implementation fixes and the manual leaves open. Every constant here is opaque: no proof can
see its value, so a statement about the machine holds whatever it is (log entries name each). -/

namespace Sys2Proof.Config

/-- The frame that a home proposes for an allocation: which of the free aligned runs it takes (R53, R74 leave the
choice open; log entry 7). -/
opaque framePick : Nat → Nat

/-- The lead or lag of an island's copy of device time after a correction, before it is held to 4 ns (R29; log entry 21). -/
opaque islandSkew : Nat → Nat

/-- A 64-bit value that the manual leaves open: the pointers of a queue that was torn down (R421), a random tag. -/
opaque freeWord : Nat → Nat

/-- A byte that the manual leaves open: the destination memory of a restart-class instruction between its issue and its
commit (R209), by the serial of that time and the address (log entry 23); a byte of a message whose layout the manual does
not give, by the message's serial and the offset (log entry 104). -/
opaque freeByte : Nat → Nat → Byte

/-- SHIFT of a dynamic KQ-INT8 group that holds a NaN or an infinity: R251 gives its elements but no SHIFT (log entry 24). -/
opaque kqNanShift : Byte

/-- Ciphertext under a partition's key (R457), by partition, module start, host address and plaintext (log entry 13). -/
opaque hostCipher : Nat → Nat → Nat → List Byte → List Byte

/-- Public key of Eogal's firmware signing, held in the boot ROM (R452; log entry 12). -/
opaque firmwareKey : Nat × Nat

/-- Public key of Eogal's refurbishment authority (R469; log entry 12). -/
opaque authorityKey : Nat × Nat

/-- The bytes that a signed management command covers, by its kind, its flag and the module nonce: the manual gives no
layout (R469, R470; log entry 12). -/
opaque commandBytes : Nat → Bool → Nat → List Byte

/-- The certificate chain of slot 0 (R456) by module start, and the boot ROM's hash (R459; log entry 12). -/
opaque certChain : Nat → List Byte
opaque romHash : List Byte

/-- A device's correction baseline from production, per 1,000 powered hours (R468; log entry 4). -/
opaque prodBaseline : Nat → Nat

/-- The engine, among those of the partition, that takes the units of an entry (R147; log entry 73). -/
opaque unitEngine : Nat → Nat

/-- The stream of that engine that a block's granules arrive in (R30, R34). -/
opaque unitStream : Nat → Nat

/-- Lead misses in the units of an attend request that the inbox serves, as engine and cycle (R239; log entry 73). -/
opaque inboxMisses : Nat → List (Nat × Nat)

/-- Does an act break an obligation in the units of an attend request that the inbox serves (R231; log entry 73). -/
opaque inboxBroken : Nat → Bool

/-- Does the far end of a link report planning mode when the port reaches an idle point (R268, R269; log entry 106). -/
opaque peerPlans : Nat → Bool

/-- Can the final record of a module that stops be written (R423; log entry 154). -/
opaque finalRecordKept : Nat → Bool

/-- Events in one tick of a source that the pace inside an engine or the network-on-chip decides, by serial, counter unit and
counter (R476; log entry 88). -/
opaque stallEvents : Nat → Nat → Nat → Nat

end Sys2Proof.Config
end

