-- ==== Sys2Proof/Machine/Float.lean ====
section
/-! DEFINITION. The rounded arithmetic of R524 and R135 to R137: binary32 with round-to-nearest-even, subnormal
inputs read as 0, results below 2^−126 written as +0, every NaN the canonical quiet NaN; exp2; the FP8 and BF16 element formats. -/

namespace Sys2Proof.Machine

/-- A floating-point value: NaN, an infinity, or (−1)^neg · mag · 2^exp, exactly. -/
inductive Fp where
  | nan
  | inf (neg : Bool)
  | fin (neg : Bool) (mag : Nat) (exp : Int)
deriving DecidableEq, Repr

/-- +0. -/
def fpZero : Fp := .fin false 0 0

/-- −∞, the m of the empty triple (R125). -/
def fpNegInf : Fp := .inf true

/-- mag · 2^exp with the exponent brought to e, for e at or below exp. -/
def fpAlign (mag : Nat) (exp e : Int) : Nat := mag * 2 ^ (exp - e).toNat

/-- mag · 2^exp (a little more when sticky) rounded to nearest-even to p significant bits, exponent unbounded. -/
def roundSig (p : Nat) (mag : Nat) (exp : Int) (sticky : Bool) : Nat × Int :=
  if mag = 0 then (0, 0) else
  let len := mag.log2 + 1
  if len ≤ p then (mag, exp)
  else
    let d := len - p
    let q := mag / 2 ^ d
    let r := mag % 2 ^ d
    let half := 2 ^ (d - 1)
    let up := decide (r > half) || (r == half && (sticky || q % 2 == 1))
    ((if up then q + 1 else q), exp + d)

/-- mag · 2^exp as an exact power-of-two comparison: is it below 2^k. -/
def belowPow (mag : Nat) (exp k : Int) : Bool :=
  mag == 0 || decide (((mag.log2 : Int)) + exp < k)

/-- The rounding of R524 to p significant bits with binary32's exponent range. -/
def fpRound (p : Nat) (neg : Bool) (mag : Nat) (exp : Int) (sticky : Bool := false) : Fp :=
  let (m, e) := roundSig p mag exp sticky
  if belowPow m e (-126) then fpZero
  else if belowPow m e 128 then .fin neg m e
  else .inf neg

/-- The value of a binary32 pattern; a subnormal reads as 0 (R524). -/
def fpOf32 (w : Nat) : Fp :=
  let neg := bit w 31
  let e := bits w 30 23
  let f := bits w 22 0
  if e = 255 then (if f = 0 then .inf neg else .nan)
  else if e = 0 then .fin neg 0 0
  else .fin neg (2 ^ 23 + f) ((e : Int) - 150)

/-- The binary32 pattern of a value already rounded to 24 bits (R524). -/
def fpTo32 : Fp → Nat
  | .nan => 0x7FC00000
  | .inf neg => flag neg * 2 ^ 31 + 0x7F800000
  | .fin neg mag exp =>
    if mag = 0 then 0 else
    let l := mag.log2
    let m := if l ≤ 23 then mag * 2 ^ (23 - l) else mag / 2 ^ (l - 23)
    let e := exp + l
    flag neg * 2 ^ 31 + (e + 127).toNat * 2 ^ 23 + (m - 2 ^ 23)

/-- Rounded sum. -/
def fpAdd (a b : Fp) (p : Nat := 24) : Fp :=
  match a, b with
  | .nan, _ => .nan
  | _, .nan => .nan
  | .inf x, .inf y => if x == y then .inf x else .nan
  | .inf x, .fin .. => .inf x
  | .fin .., .inf y => .inf y
  | .fin na ma ea, .fin nb mb eb =>
    let e := min ea eb
    let x : Int := (if na then -1 else 1) * (fpAlign ma ea e : Int)
    let y : Int := (if nb then -1 else 1) * (fpAlign mb eb e : Int)
    let z := x + y
    fpRound p (decide (z < 0)) z.natAbs e

/-- The value with its sign changed. -/
def fpNeg : Fp → Fp
  | .nan => .nan
  | .inf x => .inf (!x)
  | .fin n m e => .fin (!n) m e

/-- Rounded difference. -/
def fpSub (a b : Fp) : Fp := fpAdd a (fpNeg b)

/-- The exact product, before any rounding. -/
def fpMulExact (a b : Fp) : Fp :=
  match a, b with
  | .nan, _ => .nan
  | _, .nan => .nan
  | .inf x, .inf y => .inf (x != y)
  | .inf x, .fin n m _ => if m = 0 then .nan else .inf (x != n)
  | .fin n m _, .inf y => if m = 0 then .nan else .inf (n != y)
  | .fin na ma ea, .fin nb mb eb => .fin (na != nb) (ma * mb) (ea + eb)

/-- A value rounded under R524. -/
def fpRnd (a : Fp) (p : Nat := 24) : Fp :=
  match a with
  | .fin n m e => fpRound p n m e
  | x => x

/-- Rounded product. -/
def fpMul (a b : Fp) : Fp := fpRnd (fpMulExact a b)

/-- Fused multiply-add with one rounding (R137). -/
def fpFma (a b c : Fp) : Fp := fpAdd (fpMulExact a b) c

/-- Correctly rounded quotient of finite or special values (R143). -/
def fpDiv (a b : Fp) : Fp :=
  match a, b with
  | .nan, _ => .nan
  | _, .nan => .nan
  | .inf _, .inf _ => .nan
  | .inf x, .fin n _ _ => .inf (x != n)
  | .fin .., .inf _ => fpZero
  | .fin na ma ea, .fin nb mb eb =>
    if mb = 0 then (if ma = 0 then .nan else .inf (na != nb))
    else
      let s := 64 + mb.log2
      let num := ma * 2 ^ s
      let q := num / mb
      fpRound 24 (na != nb) (2 * q) (ea - eb - s - 1) (num % mb != 0)

/-- a < b for values neither of which is NaN. -/
def fpLt (a b : Fp) : Bool :=
  match a, b with
  | .nan, _ => false
  | _, .nan => false
  | .inf x, .inf y => x && !y
  | .inf x, .fin .. => x
  | .fin .., .inf y => !y
  | .fin na ma ea, .fin nb mb eb =>
    let e := min ea eb
    let x : Int := (if na then -1 else 1) * (fpAlign ma ea e : Int)
    let y : Int := (if nb then -1 else 1) * (fpAlign mb eb e : Int)
    decide (x < y)

/-- The larger of two values neither of which is NaN. -/
def fpMax (a b : Fp) : Fp := if fpLt a b then b else a

/-- ln 2 in units of 2^−192, rounded down. -/
def ln2Fixed : Nat := 4350955369971217654477563090224794165364344896676135745069

/-- Taylor terms of e^y added to acc, y and the sums in units of 2^−192: t is term n − 1. -/
def expSum (y : Nat) : Nat → Nat → Nat → Nat → Nat
  | 0, _, _, acc => acc
  | fuel + 1, n, t, acc =>
    let t' := t * y / 2 ^ 192 / n
    expSum y fuel (n + 1) t' (acc + t')

/-- exp2 of R136: 2^x rounded to nearest-even and flushed under R524. The fraction's power is summed to 192 bits,
far below half a unit of the 24-bit result (DEDUCED, log entry 14). -/
def fpExp2 (x : Fp) : Fp :=
  match x with
  | .nan => .nan
  | .inf neg => if neg then fpZero else .inf false
  | .fin neg mag exp =>
    if mag = 0 then .fin false 1 0
    else if belowPow mag exp 9 then
      let z : Int := (if neg then -1 else 1) * ((fpAlign mag exp (-192) : Nat) : Int)
      let k := z / (2 ^ 192 : Int)
      let f := (z % (2 ^ 192 : Int)).toNat
      if f = 0 then fpRound 24 false 1 k
      else fpRound 24 false (expSum (f * ln2Fixed / 2 ^ 192) 64 1 (2 ^ 192) (2 ^ 192)) (k - 192) true
    else if neg then fpZero else .inf false

/-- The value of an FP8 E4M3 code: bias 7, no infinities, code 0x7F a NaN (R249). -/
def fpOfE4m3 (b : Nat) : Fp :=
  let neg := bit b 7
  let e := bits b 6 3
  let m := bits b 2 0
  if e = 15 ∧ m = 7 then .nan
  else if e = 0 then .fin neg m (-9)
  else .fin neg (8 + m) ((e : Int) - 10)

/-- The value of an FP8 E5M2 code: bias 15 (R249). -/
def fpOfE5m2 (b : Nat) : Fp :=
  let neg := bit b 7
  let e := bits b 6 2
  let m := bits b 1 0
  if e = 31 then (if m = 0 then .inf neg else .nan)
  else if e = 0 then .fin neg m (-16)
  else .fin neg (4 + m) ((e : Int) - 17)

/-- The value of an FP4 E2M1 code: bias 1 (R249). -/
def fpOfE2m1 (b : Nat) : Fp :=
  let neg := bit b 3
  let e := bits b 2 1
  let m := bits b 0 0
  if e = 0 then .fin neg m (-1) else .fin neg (2 + m) ((e : Int) - 2)

/-- The value of a BF16 pattern. -/
def fpOfBf16 (w : Nat) : Fp := fpOf32 (w % 65536 * 65536)

/-- A value rounded to BF16 (R137, R138). -/
def fpToBf16 (a : Fp) : Nat := fpTo32 (fpRnd a 8) / 65536

/-- The nearest integer to mag · 2^exp, ties to even. -/
def roundNat (mag : Nat) (exp : Int) : Nat :=
  if 0 ≤ exp then mag * 2 ^ exp.toNat
  else
    let d := (-exp).toNat
    let q := mag / 2 ^ d
    let r := mag % 2 ^ d
    let half := 2 ^ (d - 1)
    if decide (r > half) || (r == half && q % 2 == 1) then q + 1 else q

/-- Rounding to an FP element format with man mantissa bits, least normal exponent emin and largest magnitude code
maxCode, ties to even, subnormal elements included: the magnitude code and whether it was clipped (R250). -/
def elemCode (man : Nat) (emin : Int) (maxCode : Nat) (mag : Nat) (exp : Int) : Nat × Bool :=
  if mag = 0 then (0, false) else
  let e := max ((mag.log2 : Int) + exp) emin
  let q := roundNat mag (exp - e + man)
  let code := ((e - emin).toNat) * 2 ^ man + q
  if maxCode < code then (maxCode, true) else (code, false)

/-- e4m3 of R137: nearest E4M3 value of a finite value, saturating. -/
def fpE4m3 (a : Fp) : Fp :=
  match a with
  | .fin neg m e =>
    match fpOfE4m3 (elemCode 3 (-6) 0x7E m e).1 with
    | .fin _ m' e' => .fin neg m' e'
    | x => x
  | x => x

/-- The tree sum of R135 and R137: sums of the pairs, then of the pairs of those sums, each addition rounded. -/
def treeLevel : List Fp → List Fp
  | a :: b :: r => fpAdd a b :: treeLevel r
  | l => l

/-- The binary-tree sum of a list, by at most fuel levels. -/
def treeSum : Nat → List Fp → Fp
  | _, [] => fpZero
  | _, [a] => a
  | 0, a :: _ => a
  | fuel + 1, l => treeSum fuel (treeLevel l)

end Sys2Proof.Machine
end

