-- ==== Sys2Proof/Machine/Gf.lean ====
section
/-! DEFINITION. Arithmetic in GF(2^4) and GF(2^8), the memory code of R390 to R394 and the stripe arithmetic of R407
and R412. -/

namespace Sys2Proof.Machine

/-- Product of two polynomials over GF(2) of n bits, reduced modulo poly of degree n: shift and add over fuel bits of b. -/
def gfMulStep (n poly : Nat) : Nat → Nat → Nat → Nat → Nat
  | 0, _, _, acc => acc
  | fuel + 1, a, b, acc =>
    let acc' := if b % 2 = 1 then Nat.xor acc a else acc
    let a2 := 2 * a
    let a' := if a2 < 2 ^ n then a2 else Nat.xor a2 poly
    gfMulStep n poly fuel a' (b / 2) acc'

/-- Multiplication in GF(2^4) modulo x^4 + x + 1 (R390). -/
def gf16Mul (a b : Nat) : Nat := gfMulStep 4 0x13 4 a b 0

/-- Inverse in GF(2^4); 0 for 0. -/
def gf16Inv (a : Nat) : Nat :=
  match (List.range 16).find? (fun b => gf16Mul a b == 1) with
  | some b => b
  | none => 0

/-- gmul of R407: multiplication in GF(2^8) modulo 0x11D. -/
def gmul (a b : Nat) : Nat := gfMulStep 8 0x11D 8 a b 0

/-- a to the power n in GF(2^8). -/
def gpow (a : Nat) : Nat → Nat
  | 0 => 1
  | n + 1 => gmul (gpow a n) a

/-- gdiv of R412: u times v to the power 254. -/
def gdiv (u v : Nat) : Nat := gmul u (gpow v 254)

/-- A column or syndrome: its four field elements. -/
structure Col where
  a : Nat
  b : Nat
  c : Nat
  d : Nat
deriving DecidableEq, Repr

/-- Sum of two columns. -/
def colAdd (u v : Col) : Col := ⟨xorN u.a v.a, xorN u.b v.b, xorN u.c v.c, xorN u.d v.d⟩

/-- A column times a field element. -/
def colScale (e : Nat) (u : Col) : Col := ⟨gf16Mul e u.a, gf16Mul e u.b, gf16Mul e u.c, gf16Mul e u.d⟩

/-- Column h_j of the check matrix: symbols 0 to 31 data nibbles, 32 to 35 check nibbles c0 to c3 (R390). -/
def hCol (j : Nat) : Col :=
  if j < 32 then
    let x := j % 16
    let y := if j < 16 then 2 else 3
    ⟨1, x, y, xorN (xorN (gf16Mul x x) (gf16Mul x y)) (gf16Mul 8 (gf16Mul y y))⟩
  else if j = 32 then ⟨0, 0, 0, 1⟩
  else if j = 33 then ⟨1, 0, 0, 0⟩
  else if j = 34 then ⟨1, 1, 0, 1⟩
  else ⟨1, 0, 1, 8⟩

/-- The syndrome of a list of symbol errors (R393: H·v of a valid word plus its errors). -/
def syndrome (es : List (Nat × Nat)) : Col :=
  es.foldl (fun acc e => colAdd acc (colScale e.2 (hCol e.1))) ⟨0, 0, 0, 0⟩

/-- Data nibble k of a word: DQ pin k over its four beats (R391). -/
def dataNibble (bs : List Byte) (k : Nat) : Nat :=
  ([0, 1, 2, 3].map (fun b => (bs.getD (4 * b + k / 8) 0).toNat / 2 ^ (k % 8) % 2 * 2 ^ b)).sum

/-- The check nibbles c0 to c3 that the controller writes with a word (R392). -/
def encodeWord (bs : List Byte) : List Nat :=
  let s := syndrome ((List.range 32).map (fun k => (k, dataNibble bs k)))
  [xorN (xorN s.d s.b) (gf16Mul 8 s.c), xorN (xorN s.a s.b) s.c, s.b, s.c]

/-- Check nibbles laid in a 16-byte check unit: nibble n on pin n, as a data nibble is (R391). -/
def unitBytes (nibbles : List Nat) : List Byte :=
  (List.range 16).map (fun i => BitVec.ofNat 8 (((List.range 8).map (fun j =>
    nibbles.getD (8 * (i % 4) + j) 0 / 2 ^ (i / 4) % 2 * 2 ^ j)).sum))

/-- Two error lists added symbol by symbol; symbols whose errors cancel drop out. Kept ascending by symbol. -/
def addErrors (xs ys : List (Nat × Nat)) : List (Nat × Nat) :=
  (List.range 36).filterMap (fun j =>
    let f := fun (acc : Nat) (e : Nat × Nat) => if e.1 = j then xorN acc e.2 else acc
    let v := ys.foldl f (xs.foldl f 0)
    if v = 0 then none else some (j, v))

/-- What the controller makes of a word (R393, R394). -/
inductive Decoded where
  | good
  | corrected (fixes : List (Nat × Nat))
  | uncorrectable
deriving DecidableEq, Repr

/-- The single-symbol correction of steps 2 and 3 of R393, if one applies. -/
def decodeSingle (s : Col) : Option (Nat × Nat) :=
  if s.a ≠ 0 then
    let i := gf16Inv s.a
    let x := gf16Mul s.b i
    let y := gf16Mul s.c i
    let z := gf16Mul s.d i
    if (y = 2 ∨ y = 3) ∧ z = xorN (xorN (gf16Mul x x) (gf16Mul x y)) (gf16Mul 8 (gf16Mul y y)) then
      some ((if y = 2 then x else 16 + x), s.a)
    else if x = 0 ∧ y = 0 ∧ z = 0 then some (33, s.a)
    else if x = 1 ∧ y = 0 ∧ z = 1 then some (34, s.a)
    else if x = 0 ∧ y = 1 ∧ z = 8 then some (35, s.a)
    else none
  else if s.b = 0 ∧ s.c = 0 ∧ s.d ≠ 0 then some (32, s.d)
  else none

/-- The erasure decoding of R394: values (e_a, e_b) for data nibble p and check nibble p mod 4. -/
def decodeErasures (s : Col) (a b : Nat) : Option (List (Nat × Nat)) :=
  let cands := (List.range 256).map (fun v => (v / 16, v % 16))
  match cands.find? (fun v => colAdd (colScale v.1 (hCol a)) (colScale v.2 (hCol b)) == s) with
  | some v => some ([(a, v.1), (b, v.2)].filter (fun e => e.2 != 0))
  | none => none

/-- Decoding of a word with syndrome s: wMod8 is W mod 8, retired the channel's retired pin (R393, R394). -/
def decodeWord (s : Col) (wMod8 : Nat) (retired : Option Nat) : Decoded :=
  if s = ⟨0, 0, 0, 0⟩ then .good
  else
    match decodeSingle s with
    | some e => .corrected [e]
    | none =>
      match retired with
      | none => .uncorrectable
      | some p =>
        if wMod8 = p / 4 then
          match decodeErasures s p (32 + p % 4) with
          | some es => .corrected es
          | none => .uncorrectable
        else .uncorrectable

/-- The pin, 0 to 31, that carries a symbol of a word (R391). -/
def pinOf (wMod8 j : Nat) : Nat := if j < 32 then j else 4 * wMod8 + (j - 32)

/-- The bytes of a word with the data-nibble errors of a list put in (R391). -/
def applyErrors (bs : List Byte) (es : List (Nat × Nat)) : List Byte :=
  bs.zipIdx.map (fun (v, i) =>
    (es.foldl (fun (acc : Nat) e =>
      if e.1 < 32 ∧ e.1 / 8 = i % 4 ∧ bit e.2 (i / 4) then xorN acc (2 ^ (e.1 % 8)) else acc) v.toNat : Nat) |> BitVec.ofNat 8)

/-- P of R407 over one byte offset. -/
def parityP (ds : List Nat) : Nat := ds.foldl xorN 0

/-- Q of R407 over one byte offset: data byte i is multiplied by 2^i. -/
def parityQ (ds : List Nat) : Nat :=
  ds.zipIdx.foldl (fun acc e => xorN acc (gmul (gpow 2 e.2) e.1)) 0

end Sys2Proof.Machine
end

