-- ==== Sys2Proof/Machine/AMap.lean ====
section
/-! DEFINITION. Finite maps from numbers as sorted lists of pairs: the plain-data form of every sparse table of
the machine. Keys rise strictly, so that equal maps are equal lists. -/

namespace Sys2Proof.Machine

/-- A sparse table: (key, value) pairs, keys strictly rising. -/
abbrev AMap (α : Type) := List (Nat × α)

namespace AMap

/-- The value at a key, if the table lists one. -/
def find? {α : Type} : AMap α → Nat → Option α
  | [], _ => none
  | (k, v) :: m, i => if k = i then some v else find? m i

/-- The value at a key, or d. -/
def getD {α : Type} (m : AMap α) (i : Nat) (d : α) : α :=
  match find? m i with
  | some v => v
  | none => d

/-- The table with v at key i, keys kept rising. -/
def insert {α : Type} : AMap α → Nat → α → AMap α
  | [], i, v => [(i, v)]
  | (k, u) :: m, i, v =>
    if i < k then (i, v) :: (k, u) :: m
    else if k = i then (i, v) :: m
    else (k, u) :: insert m i v

/-- The table without key i. -/
def erase {α : Type} : AMap α → Nat → AMap α
  | [], _ => []
  | (k, u) :: m, i => if k = i then m else (k, u) :: erase m i

/-- The table with the value at i changed by f, taking d where none is listed. -/
def modify {α : Type} (m : AMap α) (i : Nat) (d : α) (f : α → α) : AMap α :=
  insert m i (f (getD m i d))

/-- The keys listed, rising. -/
def keys {α : Type} (m : AMap α) : List Nat := m.map Prod.fst

/-- The keys rise strictly. -/
def wf {α : Type} : AMap α → Bool
  | [] => true
  | [_] => true
  | (a, _) :: (b, v) :: m => decide (a < b) && wf ((b, v) :: m)

end AMap
end Sys2Proof.Machine
end

