-- ==== Sys2Proof/Machine/State.lean ====
section
/-! DEFINITION. The state of the block as plain data: every register, table, queue, counter, mode and pin that the
manual gives the module, the reasons a step can stop, and the state right after reset. Structure fields carry their
reset value as their default; INVENTORY.md lists each with its rule. -/

namespace Sys2Proof.Machine

/-! ## Outputs -/

/-- What an observer outside the module sees. -/
inductive Out where
  | regRead (acc : Accessor) (value : W64)
  | barRead (data : List Byte)
  | completerAbort (acc : Accessor)
  | configRetry (fn : Accessor)
  | configReply (fn : Accessor) (value : Nat)
  | configAbsent (fn : Accessor)                              -- no such capability (R434)
  | msix (group : Nat) (vf : Option Nat) (vector : Nat)
  | trapeze (dest : Nat × Nat) (m : TMsg)
  | allocMsg (m : AllocMsg)
  | sealMsg (dest : Nat × Nat) (m : SealMsg)
  | freeMsg (dest : Nat × Nat) (m : FreeMsg)
  | migrateMsg (dest : Nat × Nat) (m : MigrateMsg)
  | beginMsg (m : BeginMsg)
  | fenceTo (dest : Nat × Nat) (f : FenceMsg)
  | attend (request : Bool) (m : AttendMsg)
  | allocReply (dest : Nat × Nat) (m : TMsg) (handles : List Nat)
  | rebuildMsg (dest : Nat × Nat × Nat) (request : Bool) (m : RebuildMsg)
  | handOver (dest : Nat × Nat × Nat) (h : HandOver)
  | packet (k : Packet)
  | tpacket (k : TPacket)
  | connMsg (op : Nat) (k : TPacket) (r : ConnRecord)
  | segment (dest : Nat × Nat) (port : Nat) (g : Segment)
  | segAnswer (port src status : Nat)
  | flit (port seq : Nat) (lanes : List (Nat × List Byte))   -- the bytes on each physical lane (R329)
  | tlp (group addr : Nat) (data : List Byte)                 -- a write packet on the host port (R180, R307)
  | ethernet (port : Nat) (frame : List Byte)                  -- a frame of a far port (R360)
  | pfc (port prio : Nat) (pause : Bool)                       -- XOFF or XON for a priority of a far port (R361)
  | linkReport (group rate : Nat)                              -- a host link that cannot reach 16 GT/s (R434)
  | mgmt (what : String) (values : List Nat) (data : List Byte)
  | bootFailed (step cause : Nat)
deriving DecidableEq, Repr

/-! ## Requests and queues -/

/-- What a copy of device data is for (R378): the migration of a frame of this home, or a shard that an instruction places. -/
inductive CopyOf where
  | frame (granule : Nat)
  | shard (w : IRef)
deriving DecidableEq, Repr, Inhabited

/-- States of a request record (R65). -/
inductive RState where
  | free | prefill | running | preempted | paused | ended
deriving DecidableEq, Repr, Inhabited

/-- A request record (R65) with the ringmaster's counts for it (R177, R181). -/
structure Rec where
  rgen      : Nat := 0
  customer  : Nat := 0
  cls       : Nat := 0
  geom      : Nat := 0
  state     : RState := .free
  c         : Nat := 0
  w         : Nat := 0
  depth     : Nat := 0
  mbatch    : Nat := 0
  layers    : Nat := 0
  stride    : Nat := 0
  btable    : Nat := 0
  tokens    : Nat := 0
  ring      : Nat := 0
  ringLog2  : Nat := 0
  ringHost  : Nat := 0
  sealed    : Nat := 0
  model     : Nat := 0
  admitted  : Nat := 0
  prompt    : Nat := 0
  pool      : Nat := 0
  lastHash  : Nat := 0          -- LASTHASH_LO and LASTHASH_HI, 128 bits
  prod      : Nat := 0          -- ring entries written (R178 PROD)
  cons      : Nat := 0          -- cached CONS (R181)
  emitted   : Nat := 0          -- R178 EMITTED
  rejectRun : Nat := 0          -- consecutive all-reject steps (R177)
  stepsAt   : Nat := 0          -- steps at this depth (R177)
  accepted  : Nat := 0
  proposed  : Nat := 0
  filled    : Bool := false     -- OPENREQ has filled it (R301)
  caught    : Bool := false     -- caught since the last step, in the join group (R162)
  returning : Bool := false     -- its tail is migrating back (R165)
  offers    : AMap Nat := []        -- offers made of a block of it, by handle (R184)
  stalled   : Bool := false     -- waits for rebuilds (R416)
  layerSealed : AMap Nat := []  -- leading block positions sealed of a layer, where more than SEALED (R60)
  hashes    : AMap Nat := []    -- chain hashes computed for positions at or above SEALED (R61)
  stepK     : Nat := 0          -- k of its running step (R159, R167)
deriving DecidableEq, Repr, Inhabited

/-- Where the triples of one entry lie, with its request and the handles it named (R131, R155; log entry 33). -/
structure TripleSrc where
  start   : Nat
  len     : Nat
  req     : Option Nat          -- none: the entry names no request
  handles : List Nat
deriving DecidableEq, Repr, Inhabited

/-- What an instruction's commit makes visible, in order (R201, R205). -/
inductive Effect where
  | devWrite (addr : Nat) (data : List Byte)
  | setW (idx w : Nat)                              -- APPEND (R169)
  | commitReq (idx : Nat) (entries : List Nat)      -- COMMIT with the entries it takes (R171)
  | rollbackReq (idx : Nat)                         -- R169
  | emitReq (idx : Nat) (entry : Nat)               -- R169
  | retireReq (idx : Nat) (final : Nat)             -- R169
  | openReq (idx : Nat) (r : Rec)                   -- the record that OPENREQ fills (R170)
  | stepped (mb limit addr : Nat)                   -- the phases of a STEP and its table (R158, R167)
  | reclaimed (handle : Nat)                        -- RECLAIM (R63, R107)
  | sealed (idx layer block hash : Nat)             -- a block sealed: SEALED and LASTHASH follow (R60, R278)
  | sealMove (idx layer block handle flags : Nat)   -- R74: a SHARED or NET block moves to a cache-pool home
  | jobStatus (jobs : List (Nat × Nat × List Nat))  -- request, output status and the blocks it speaks of, of each MERGE job (R155)
  | charge (customer : Nat) (amount : Nat)          -- R304, in 1/256 token
  | refund (customer : Nat) (amount : Nat)
  | admitted (idx : Nat) (amount : Nat)              -- R301
  | semAdd (sem value : Nat)
  | semSet (sem value : Nat)
  | stampTime                                       -- RESULT := device time at commit (R211)
  | snapArm (time : Option Nat)                     -- R477
  | bindAct (engines : List Nat) (key slot len : Nat)
  | setStream (port stream : Nat) (image : List Byte)
  | setReduce (ctx : Nat) (image : List Byte)
  | statsRead (near : Bool) (port stream addr : Nat) (clear : Bool)   -- XSTAT (R260)
  | putHandle (addr handle : Nat)                   -- a descriptor or table word written
  | triples (src : TripleSrc)                       -- an ATTEND's entry for a request stands in memory (R131, R155)
  | groupRead (block handle : Nat)                  -- a shared sealed block read remotely in a group (R419)
  | stripeKept (addr : Nat)                         -- the descriptor that ENCODE filled is a counted copy (R411)
  | halted (queue : Nat)                            -- HALTQ of its own queue (R211)
deriving DecidableEq, Repr

/-- A message an instruction waits an answer to: its tag, its place in a list form, the handle or endpoint, and
the answer's status and value. -/
structure Await where
  tag    : Nat
  pos    : Nat
  handle : Nat
  status : Option Nat := none
  value  : Nat := 0
deriving DecidableEq, Repr, Inhabited

/-- An instruction that has issued and not yet committed (R197). -/
structure Issued where
  idx      : Nat                     -- queue index of the base word
  words    : List Nat                -- its 8-byte words (R194)
  status   : Option Nat := none      -- decided when its work finishes (R205)
  result   : Nat := 0
  effects  : List Effect := []
  awaits   : List Await := []
  started  : Bool := false           -- its messages have been sent
  issuedAt : Nat := 0                -- device time of issue
  doneAt   : Nat := 0                -- device time at which its work finished (R424)
  sentAt   : Nat := 0                -- device time its messages were sent
  tookSem  : Nat := 0                -- semaphore whose token its inline WAIT took; 0: none
  stuck    : Bool := false           -- its completion record could not be written (CAUSE 0x06)
  aux      : Nat := 0                -- a number the meaning keeps between its steps
  late     : List Nat := []          -- survivors in a lower tier that missed LATE_BOUND (R414)
  checks   : List (Nat × Nat × Nat) := []   -- an ATTEND's blocks as checked at the issue of their reads: handle, status, granule (R134)
  order    : Nat := 0                -- the partition's count of issues when it issued (R173)
  image    : List Byte := []         -- an ATTEND's descriptor as taken at its start, VISIBLE holding each bound B (R133)
  held     : List Nat := []          -- shards read, or parity handles, of a stripe instruction (R409, R412); of a SEEK, that the repeated search of its next key waits (R272)
  bad      : List Nat := []          -- shards found lost by a stripe instruction (R410, R413); granules that failed the code in an ATTEND (R34)
  undefs   : List Nat := []          -- serials of the destination memory it leaves undefined until its commit (R209)
  due      : Nat := 0                -- deadline of the answers to its messages, or of the lower-tier reads it has issued, as set when they went out (R122, R157)
deriving DecidableEq, Repr, Inhabited

/-- A command queue and its registers (R187 to R192). -/
structure Queue where
  base      : Nat := 0
  cbase     : Nat := 0
  enable    : Bool := false
  haltOnErr : Bool := false
  haltPend  : Option Bool := none    -- class B value awaiting the next issue (R189)
  ringHost  : Bool := false
  cplHost   : Bool := false
  hostFn    : Nat := 0
  sizeLog2  : Nat := 6
  csizeLog2 : Nat := 4
  weight    : Nat := 16
  weightPend : Option Nat := none
  cause     : Nat := 0               -- 0: not halted (R191)
  head      : Nat := 0
  tail      : Nat := 0
  cprod     : Nat := 0
  ccons     : Nat := 0
  next      : Nat := 0               -- index of the next word to issue
  issued    : List Issued := []      -- oldest first
  waiting   : Bool := false          -- its next instruction waits for its inline token
  granted   : Nat := 0               -- semaphore whose token its next instruction has taken
  credit    : Int := 0               -- smooth weighted round-robin credit (R193)
  frozen    : Option Nat := none     -- base word of the first abandoned instruction: HEAD stays there (R208)
deriving DecidableEq, Repr, Inhabited

/-- A semaphore (R199). -/
structure Sem where
  value    : Nat := 0
  overflow : Bool := false
deriving DecidableEq, Repr, Inhabited

/-- A waiter on a semaphore: an inline WAIT of a queue (idx = none) or a WAIT instruction (R200). -/
structure Waiter where
  sem   : Nat
  queue : Nat
  idx   : Option Nat
  need  : Nat
deriving DecidableEq, Repr, Inhabited

/-! ## Partitions -/

/-- Partition states (R439, R445). -/
inductive PState where
  | notStarted | running | preempting | preempted | restarting
deriving DecidableEq, Repr, Inhabited

/-- The software-written fields of EQ_GEOM (R50). -/
structure Geom where
  tCode   : Nat := 0
  format  : Nat := 0
  hkvLog2 : Nat := 0
  dCode   : Nat := 0
  valid   : Bool := false
deriving DecidableEq, Repr, Inhabited

/-- CC_STEP_CFG (R185). -/
structure StepCfg where
  maxDepth  : Nat := 8
  rejectRun : Nat := 4
  acceptRun : Nat := 16
  acceptPct : Nat := 75
  adapt     : Bool := true
  probe     : Nat := 64
deriving DecidableEq, Repr, Inhabited

/-- CC_PLACE (R76). -/
structure Place where
  base   : Nat := 0
  nlists : Nat := 0
  enable : Bool := false
deriving DecidableEq, Repr, Inhabited

/-- What the ringmaster knows of a cache-role home since it loaded the table: granules allocated less those freed,
and whether the home has answered NO_SPACE (R75). -/
structure HomeUse where
  domain : Nat
  ep     : Nat
  part   : Nat
  used   : Int := 0
  none_  : Bool := false
deriving DecidableEq, Repr, Inhabited

/-- An error record queue (R488). -/
structure ErrQueue where
  base     : Nat := 0
  enable   : Bool := false
  host     : Bool := false
  hostFn   : Nat := 0
  sizeLog2 : Nat := 6
  prod     : Nat := 0
  cons     : Nat := 0
  overflow : Nat := 0
deriving DecidableEq, Repr, Inhabited

/-- A token bucket (R298, R299). -/
structure Bucket where
  level   : Int := 0
  rate    : Nat := 0
  burst   : Nat := 0
  mode    : Nat := 0
  frac    : Nat := 0
  last    : Nat := 0
  charged : Int := 0
deriving DecidableEq, Repr, Inhabited

/-- A space of a partition (R368, R382). -/
structure Space where
  valid    : Bool := false
  read     : Bool := false
  write    : Bool := false
  check    : Nat := 0
  length   : Nat := 0
  base     : Nat := 0
  basePend : Option Nat := none
deriving DecidableEq, Repr, Inhabited

/-- A straggler entry (R418, R427). -/
structure Straggler where
  domain : Nat
  ep     : Nat
  lastUs : Nat
  quiet  : Nat := 0
deriving DecidableEq, Repr, Inhabited

/-- A remote attention request that this partition waits an answer to (R148, R151). -/
structure Remote where
  tag     : Nat
  w       : IRef
  target  : Nat × Nat
  tpart   : Nat
  entries : List Nat
  sentAt  : Nat
  due     : Nat := 0      -- REMOTE_WAIT as it stood when the request went out (R151, R157)
  mb      : Option Nat := none   -- micro-batch of its queue's last STEP (R418)
deriving DecidableEq, Repr, Inhabited

/-- A trapeze outcome that a party waits for, and until when (R109). -/
structure Outcome where
  tag      : Nat
  handle   : Nat
  deadline : Nat
  asked    : Bool := false          -- a QUERY has been sent for it
  move     : Bool := false          -- of a MIGRATE, or of a lost home's block, not of an offer (R111, R121)
deriving DecidableEq, Repr, Inhabited

/-- A frame that the ringmaster has asked for in place of a lost one: the ALLOC's tag and the block-table entry it will
fill (R121 step 3). -/
structure Recovering where
  tag   : Nat
  req   : Nat
  layer : Nat
  block : Nat
  tried : List (Nat × Nat) := []   -- homes asked so far, and the one that lost it
  due   : Nat := 0                 -- until when the answer is waited for (R212)
deriving DecidableEq, Repr, Inhabited

/-- A seal that the ringmaster has asked another module's home for (R113, R164, R176): the SEAL's tag, the block and its
chain hash. -/
structure SealOut where
  tag    : Nat
  req    : Nat
  layer  : Nat
  block  : Nat
  handle : Nat
  hash   : Nat
  due    : Nat            -- until when the next STEP waits for the answer (R176)
deriving DecidableEq, Repr, Inhabited

/-- EC_CFG (R427). -/
structure EcCfg where
  stragPct    : Nat := 200
  stragMin    : Nat := 50
  stragClear  : Nat := 16
  moveLimit   : Nat := 256
  rebuildWait : Nat := 10
deriving DecidableEq, Repr, Inhabited

/-- A rebuild that this partition's ringmaster asked for (R416). -/
structure RebuildWait where
  tag    : Nat
  req    : Nat            -- request index that waits
  descr  : Nat            -- device address of the stripe descriptor
  shard  : Nat
  tries  : Nat
  due    : Nat            -- when REBUILD_WAIT ends (R416, R427)
  homes  : List (Nat × Nat)
deriving DecidableEq, Repr, Inhabited

/-- A block on its way between homes for this partition as owner or issuer (R111, R164, R165, R74). -/
structure Moving where
  handle : Nat
  req    : Nat
  layer  : Nat
  block  : Nat
  back   : Bool           -- returning to this module (R165)
  new    : Option Nat := none
  pool   : Option ((Nat × Nat × Nat) × Nat) := none   -- the home of the placement list that takes it, and its granules (R75)
  again  : Bool := false  -- its return ended with MIGRATE_ABORT and starts again at the next STEP (R164, R165)
  orphan : Bool := false  -- its request has been retired: the block is freed where the move ends (R158)
  rehome : Option (Nat × Nat × Nat) := none   -- copied away from a straggler: the home its group entries go to (R419)
deriving DecidableEq, Repr, Inhabited

/-- A reduce context (R254, R256 to R258, R260). -/
structure RCtx where
  enable  : Bool := false
  wire    : Nat := 0
  rmode   : Bool := false
  half    : Bool := false
  outfmt  : Nat := 0
  rshift  : Nat := 0
  sem     : Nat := 0
  mult    : Nat := 0
  k       : Nat := 0
  nblk    : Nat := 0
  expE    : Nat := 0
  expScale : Nat := 0
  expShift : Nat := 0
  acc     : Nat := 0
  cnt     : Nat := 0
  out     : Nat := 0
  status  : Nat := 0
  limit   : Nat := 0
  rounds  : Nat := 0
  started : Option Nat := none      -- device time of the round's first contribution
  clippedRound : Nat := 0
  missing : Nat := 0
  total   : Nat := 0
  clipped : Nat := 0
  doneBlks : List Nat := []         -- blocks finalised in this round
deriving DecidableEq, Repr, Inhabited

/-- A partition: everything its register page and its context hold. -/
structure Part where
  state      : PState := .notStarted
  resumeHeld : Bool := false
  lastCause  : Nat := 0
  restarts   : Nat := 0
  epoch      : Nat := 0
  fenced     : Bool := false
  queues     : AMap Queue := []
  sems       : AMap Sem := []
  waiters    : List Waiter := []
  inboxCredit : Int := 0
  geoms      : AMap Geom := []
  lateBound  : Nat := 200
  remoteWait : Nat := 1000
  inboxMib   : Nat := 16
  leadMisses : Nat := 0
  strictFaults : Nat := 0
  stepCfg    : StepCfg := {}
  stepPend   : Option StepCfg := none
  waste      : Nat := 0
  pauses     : Nat := 0
  preempts   : Nat := 0
  save       : Nat := 0
  saveAt     : Nat := 0             -- CC_SAVE as read when the pre-emption began (R445)
  saved      : Bool := false        -- the pointers stand in the save area (R440, R441)
  errq       : ErrQueue := {}
  place      : Place := {}
  placePend  : Option Place := none
  homeUse    : List HomeUse := []   -- granules used at the homes of the placement table (R75)
  sized      : AMap Nat := []       -- granules of the frames allocated at those homes, by handle (R75)
  winTable   : Nat := 0
  winLen     : Nat := 0
  winFn      : Nat := 0
  winEnable  : Bool := false
  winCache   : AMap Nat := []       -- host-window table entries read since the partition started (R82)
  demoting   : Bool := false        -- demotion has begun and not yet reached its end (R78)
  recs       : AMap Rec := []
  rgenBase   : Nat := 0             -- RGEN of a record that is not listed: partition restarts advance it (R443)
  stepQueue  : AMap Nat := []       -- queue that issued the last STEP of a micro-batch (R420)
  buckets    : AMap Bucket := []
  promptWt   : Nat := 64
  refundPol  : Nat := 1
  bindings   : AMap (List (Nat × Nat)) := []   -- engine → (act key, first slot) (R227)
  verifyAll  : Bool := false
  shiftLimit : Nat := 64
  respread   : Bool := false
  classWt    : AMap Nat := []       -- class → weight; 16 where not listed (R324)
  regLevels  : AMap Nat := []       -- regulator levels in thousandths (R321)
  regLast    : AMap Nat := []
  spaces     : AMap Space := []
  barWait  : List (Accessor × Nat × BarOp) := []   -- window accesses that wait for the host regulator (R321)
  connHostFn : Nat := 0
  connHost   : Nat := 0
  ec         : EcCfg := {}                    -- EC_CFG as written
  ecNow      : EcCfg := {}                    -- EC_CFG as the last step took it (R427)
  rebuilds   : Nat := 0
  stripesLost : Nat := 0
  stragglers : List Straggler := []
  respTimes  : List (Nat × (Nat × Nat) × Nat) := []   -- micro-batch, target and ns, measured since its last step (R418)
  queueMb    : AMap Nat := []                 -- the micro-batch of a queue's last STEP (R418; log entry 151)
  rehomed    : List (Nat × Nat × (Nat × Nat × Nat)) := []   -- blocks copied away from stragglers: handle, new handle, new home (R419)
  rctxs      : AMap RCtx := []
  attendInbox : List AttendMsg := []
  inbox      : List (List Byte) := []          -- message inbox (R338)
  remotes    : List Remote := []
  outcomes   : List Outcome := []
  moving     : List Moving := []
  recovering : List Recovering := []
  rebuildsOut : List RebuildWait := []
  rebuildIn  : List (Nat × RebuildMsg) := []   -- requests this cache-role ringmaster serves, by REBUILD's descriptor address
  offersIn   : List TMsg := []                 -- OFFERs received (R102)
  refused    : List (Nat × Nat) := []          -- (request, offer again at) of refused ADMITs (R303)
  steps      : AMap Nat := []                  -- step number of each micro-batch (R167)
  lastMb     : Option Nat := none              -- micro-batch of the newest step (R21)
  sealsOut   : List SealOut := []              -- seals asked of other homes (R113, R176)
  inboxBad   : List Nat := []                  -- granules that failed the code for the request being served (R34)
  inboxDue   : Option Nat := none              -- the request being served reads a lower tier: its deadline (R150, R153)
  inboxChecks : List (Nat × Nat × Nat) := []   -- its blocks as checked: handle, status, granule (R134, R150)
  stripes    : List (Nat × Bool) := []         -- stripe descriptors that it holds: the address, or 2^64 and above the number of a copy received; is it the counted copy (R411)
  netCopies  : AMap (List Byte) := []          -- copies received with a request, by number (R411; log entry 153)
  groups     : List (Nat × Nat) := []          -- block index and handle of shared sealed blocks read remotely in groups since the last step (R419)
  sources    : List TripleSrc := []            -- triples written for requests, newest first (R155)
  nextTag    : Nat := 1
  issues     : Nat := 0                        -- instructions issued so far
deriving DecidableEq, Repr, Inhabited

/-! ## The home -/

/-- Frame states (R96). An interior granule has no record of its own in the model: the frame that covers it is found
from its first granule. -/
inductive FState where
  | free | open_ | offered | sealed | migrating | lost
deriving DecidableEq, Repr, Inhabited

/-- A frame record (R95). -/
structure Frame where
  state     : FState := .free
  sizeLog2  : Nat := 0
  committed : Bool := false
  flags     : Nat := 0
  inbound   : Bool := false
  gen       : Nat := 1
  refs      : Nat := 0
  owner     : Party := ⟨0, 0, 0, 0⟩
  offeree   : Party := ⟨0, 0, 0, 0⟩
  deadline  : Nat := 0
  peer      : Nat := 0
  hash      : Nat := 0
  lastRead  : Nat := 0              -- device time of the last read, for R78
deriving DecidableEq, Repr, Inhabited

/-- A journal entry (R114). -/
structure Journal where
  time   : Nat
  handle : Nat
  old    : FState
  new    : FState
  event  : Nat
  owner  : Party
  seq    : Nat
deriving DecidableEq, Repr, Inhabited

/-- A forwarding entry (R79). -/
structure Forward where
  oldHandle : Nat
  newHandle : Nat
  until_    : Nat
  lost      : Bool := false         -- its entry was read and is uncorrectable (R396)
deriving DecidableEq, Repr, Inhabited

/-- A migration that this module is source or destination of (R111). -/
structure Migration where
  granule  : Nat                    -- first granule of the frame here
  asSource : Bool
  dest     : Party                  -- destination (as source) or source module (as destination)
  asker    : Party                  -- who issued the MIGRATE
  tag      : Nat
  rows     : List (Nat × Nat)       -- bytes of the frame below W, as offsets and lengths (R68, R111)
  deadline : Nat
  ready    : Bool := false          -- MIGRATE_READY has come; the copy runs
  flags    : Nat := 0
  keepSealed : Bool := false        -- a sealed block's migration (R79)
deriving DecidableEq, Repr, Inhabited

/-- The home: frame records, floors, journal, forwarding (R93, R95, R114, R79). -/
structure Home where
  frames    : AMap Frame := []      -- by first granule; FREE with GEN 1 where not listed
  floors    : List (Party × Nat) := []   -- (identity with epoch 0, floor)
  gateOpen  : Bool := false
  badFences : Nat := 0
  badCopies : List CopyOf := []          -- copies whose data did not arrive (R112)
  fences    : Nat := 0
  journal   : List Journal := []    -- newest first, at most 8,388,608
  jseq      : Nat := 0
  forwards  : List Forward := []
  migrations : List Migration := []
  offerHold : Nat := 2000
  migrateLimit : Nat := 1000
  replyWait : Nat := 10
  lostHold  : Nat := 10000
  fwdHold   : Nat := 10
  demRefused : Nat := 0
  staleEvents : Nat := 0            -- trapeze events of a retired epoch, discarded (R106)
deriving DecidableEq, Repr, Inhabited

/-! ## Memory -/

/-- Memory contents: (address, byte) pairs, addresses strictly rising, no byte 0 listed; an address not listed
reads 0 (R449 step 6 writes zeros). -/
abbrev Memory := List Host.Cell

/-- The stored error of one symbol of a code word: (symbol 0 to 35, value 1 to 15) (R390, R405). -/
abbrev WordError := List (Nat × Nat)

/-- Memory whose contents the manual leaves undefined: the destination of a restart-class instruction from its issue to
its commit (R209). `serial` tells one such time from another. -/
structure Undef where
  start  : Nat
  len    : Nat
  serial : Nat
deriving DecidableEq, Repr, Inhabited

/-- A GDDR7 channel (R394, R397, R398, R402, R404). -/
structure Channel where
  retired    : Option Nat := none
  second     : Option Nat := none
  counts     : AMap Nat := []       -- corrections per pin since the last clear
  uncorr     : List Nat := []       -- device times of recent uncorrectable accesses
  crcRun     : Nat := 0             -- consecutive accesses whose CRC retries were exhausted
  hot        : Bool := false        -- hot refresh plan in force (R238)
  hotNext    : Bool := false        -- plan from the next interval start
  slots      : Nat := 0             -- refresh slots taken
  scrubPos   : Nat := 0             -- next granule of the sweep: channel address / 256
  period     : Nat := 24            -- scrub period in force, hours
  passes     : Nat := 0             -- passes completed; MC_SCRUB shows the least of the 24, modulo 2^32
deriving DecidableEq, Repr, Inhabited

/-- A device's error counts (R404). -/
structure DevErr where
  corrected : Nat := 0
  uncorr    : Nat := 0
  lastPin   : Nat := 0
deriving DecidableEq, Repr, Inhabited

/-- MC_INJECT (R405). -/
structure Inject where
  channel : Nat := 0
  symbol  : Nat := 0
  value   : Nat := 0
  armed   : Bool := false
  symbol2 : Nat := 0
  value2  : Nat := 0
deriving DecidableEq, Repr, Inhabited

/-- The memory system. -/
structure Mem where
  dram      : Memory := []
  errors    : AMap WordError := []  -- by device word address (device address / 16)
  undef     : List Undef := []      -- memory whose contents are undefined now (R209), newest first
  channels  : AMap Channel := []
  devErr    : AMap DevErr := []
  scrubPend : Option Nat := none
  scrubPeriod : Nat := 24
  retireLimit : Nat := 256
  inject    : Inject := {}
deriving DecidableEq, Repr, Inhabited

/-! ## Composition, flash, lifecycle -/

/-- A slice entry (R430). -/
structure Slice where
  engines   : Nat := 0
  cores     : Nat := 0
  chMask    : Nat := 0
  shareBase : Nat := 0
  shareSize : Nat := 0
  base      : Nat := 0
  coldPct   : Nat := 0
  npDed     : Nat := 0
  npShared  : Nat := 0
  fpDed     : Nat := 0
  fpShared  : Nat := 0
  hostFn    : Nat := 0
  vf        : Bool := false
  weight    : Nat := 0
  records   : Nat := 0
  ixBase    : Nat := 0
  ixSize    : Nat := 0
  connBase  : Nat := 0
  connSize  : Nat := 0
  actBase   : Nat := 0
  actSlots  : Nat := 0
  xsBase    : Nat := 0
  xsSize    : Nat := 0
  hostQ     : Nat := 0
  regs      : List Nat := []        -- TS_REG[0..3]
deriving DecidableEq, Repr, Inhabited

/-- A composition record read into its fields (R429 to R431). -/
structure Comp where
  role      : Nat := 0
  serial    : Nat := 0
  domain    : Nat := 0
  endpoint  : Nat := 0
  udpPort   : Nat := 0
  prioHi    : Nat := 0
  prioLo    : Nat := 0
  vlan      : Nat := 0
  baseMac   : Nat := 0
  ipv6      : Bool := false
  ip        : List Byte := []
  parts     : Nat := 0
  bifurcation : Nat := 0
  stewardFn : Nat := 0
  fenceX    : Nat := 0
  fenceY    : Nat := 0
  slices    : AMap Slice := []
  binds     : AMap (Nat × Nat) := []     -- endpoint → (KIND, PART)
  domains   : List Nat := []             -- domains listed for R378
deriving DecidableEq, Repr, Inhabited

/-- A firmware slot (R452), as its header and the digest of its body read. -/
structure FwSlot where
  image : List Byte := []
deriving DecidableEq, Repr, Inhabited

/-- An entry of the service record (R464, R465): type, validity of the time, body and signature. -/
structure LogEntry where
  etype     : Nat
  timeValid : Bool
  seq       : Nat
  time      : Nat
  minutes   : Nat
  prev      : List Byte
  body      : List Byte
  signature : Nat
deriving DecidableEq, Repr, Inhabited

/-- The result of the newest shutdown self-test, as the SHUTDOWN entry holds it (R463, R465). -/
structure SelfTest where
  seq     : Nat
  time    : Nat
  pass    : Bool
  failing : List Nat                    -- failing groups
deriving DecidableEq, Repr, Inhabited

/-- The flash device (R448). Not changed by a reset. -/
structure Flash where
  slotA       : FwSlot := {}
  slotB       : FwSlot := {}
  active      : Nat := 0
  rollback    : Nat := 0
  epochs      : AMap Nat := []          -- partition epoch counters (R91)
  starts      : Nat := 0                -- module start count (R365)
  sanitising  : Option (Bool × Bool) := none   -- sanitisation state: RELEASE_OWNER, by authority (R469)
  compKey     : Option (Nat × Nat) := none
  comps       : AMap (List Byte) := []  -- composition store, 64 slots
  lastComp    : Option Nat := none
  prodOk      : Bool := true            -- production data verify (R450)
  calOk       : Bool := true            -- stored calibration verifies
  golden      : List Nat := []          -- golden MISR value of each group (R463)
  logbook     : List LogEntry := []     -- newest first
  nextSeq     : Nat := 0
  roomUsed    : Nat := 0                -- bytes of the 64 MiB area in use
  dropped     : Nat := 0
  poweredNs   : Nat := 0                -- powered time since manufacture
  cycles      : Nat := 0                -- power cycles
  thermal     : Nat := 0                -- thermal cycles
  bins        : AMap Nat := []          -- samples of 100 µs per temperature bin (R465, R519)
  lastCorr    : AMap Nat := []          -- corrections already reported per device
  retired     : AMap Nat := []          -- retired pin of a channel (R394)
  hwFailed    : List (Bool × Nat) := [] -- (isCore, position) failed in operation since the last start (R42)
  finals      : List (List Byte) := []  -- final records, newest first (R486)
  stops       : Nat := 0
  finalSeen   : Bool := true            -- the newest final record has its FAULT entry
  baseline    : AMap Nat := []          -- RECERT baseline per device (R468)
  shutdown    : Option SelfTest := none
  repair      : List Byte := []         -- map of spare columns and spare scratch macros that the newest start brought into service (R39, R463)
deriving DecidableEq, Repr, Inhabited

/-- SY_STATE.STATE (R473). -/
inductive SyState where
  | boot | test | ready | shutdown | stopped | sanitising
deriving DecidableEq, Repr, Inhabited

/-- The boot flow and SY's registers (R449, R473). -/
structure Life where
  sy        : SyState := .boot
  quick     : Bool := false
  fail      : Nat := 0
  cause     : Nat := 0
  stepDone  : Nat := 0                  -- last step of R449 completed
  bootCmd   : Option BootCmd := none
  cmdClosed : Bool := false             -- no boot command is accepted any more (R513)
  goodAt    : Nat := 0                  -- device time of power good or of the reset
  slot      : Nat := 0
  fallback  : Bool := false
  svn       : Nat := 0
  version   : Nat := 0
  grade     : Nat := 0
  reasons   : Nat := 0
  held      : Bool := false             -- a shutdown command is held (R460)
  removable : Bool := false             -- reported that power may be removed (R460)
  aeSpare   : Option Nat := none        -- engine number that AE[16] serves (R44)
  aeAbsent  : List Nat := []
  ccSpare   : Option Nat := none
  ccAbsent  : List Nat := []
  portDown  : Bool := false             -- a port went DOWN since the start (R468)
  uncorrWin : Nat := 0                  -- uncorrectable words in the window (R468)
  timeValid : Bool := false             -- device time derives from a supplied or disciplined time (R464)
  recert    : Option (Bool × Nat) := none   -- this start is a re-certification run: its outcome and the authority's serial (R471)
  lasers    : Bool := false
  testing   : Bool := false             -- the shutdown self-test runs (R460)
  present   : Nat := 0                  -- engine numbers present when the partitions started, as a mask (R234, R235)
deriving DecidableEq, Repr, Inhabited

/-- What a host has set in the configuration space of a group's functions: SR-IOV VF Enable and NumVFs, and base addresses
(R435, R436). -/
structure HostFn where
  vfEnable : Bool := false
  numVfs   : Nat := 0
  bar0     : Nat := 0
  vfBar0   : Nat := 0
  vfBar2   : Nat := 0
deriving DecidableEq, Repr, Inhabited

/-- Contacts and input stage (R505 to R522). -/
structure Power where
  vin     : Bool := true
  lockout : Bool := false               -- undervoltage or overvoltage lockout acts
  en      : Bool := true
  rails   : Bool := true                -- rails are good
  pgood   : Bool := true
  rstN    : Bool := true
  alert   : Bool := false               -- ALERT_N asserted
  links   : List Nat := []              -- function groups whose host link is up
  rates   : AMap Nat := []              -- their rates in GT/s (R434)
  lanes   : AMap Nat := []              -- lanes that they trained (R434)
  fns     : AMap HostFn := []           -- their functions, as the host has configured them (R435, R436)
  temps   : Temps := ⟨0, 0, 0, 0, 0⟩
  tempMin : Option Int := none          -- last minimum of the hottest reading since power-on, and the peak after it (R465)
  tempPeak : Int := 0
  rising  : Bool := false
deriving DecidableEq, Repr, Inhabited

/-- SPDM responder and waiting management events (R459, R517). -/
structure Mgmt where
  version    : Bool := false            -- GET_VERSION answered with 1.3
  capable    : Bool := false
  negotiated : Bool := false
  events     : List Nat := []
deriving DecidableEq, Repr, Inhabited

/-! ## Fabric and network -/

/-- Port states (R354, R381). -/
inductive PortState where
  | noPartner | training | up | down
deriving DecidableEq, Repr, Inhabited

/-- A frame that waits to be sent: its length on the wire and before coding (R268), what it carries, the device message
that is complete with it (R338), and of a Tlaley frame the sender's connection number, whether it goes over IPv6, and the
peer's address (R360). -/
structure TxFrame where
  len  : Nat
  plan : Nat
  what : Out
  also : Option Out := none
  via  : Nat × Bool × List Byte := (0, false, [])
  seg  : Option (Bool × Bool) := none   -- of a segment's frame: does the segment begin, and end, with it (R269)
deriving DecidableEq, Repr

/-- A flit that a port sends: its SEQ, the class and units of the credits that it returns, and its stream bytes (R329). -/
structure Flit where
  seq    : Nat
  cls    : Nat
  units  : Nat
  stream : List Byte
deriving DecidableEq, Repr, Inhabited

/-- A near port (R329 to R334, R354). -/
structure NearPort where
  state     : PortState := .noPartner
  width     : Nat := 0
  spareUsed : Bool := false
  spareBad  : Bool := false
  spareBusy : Bool := false             -- being brought in (R334)
  failed    : Nat := 0
  level     : Nat := 0
  partner   : Nat := 0
  replays   : Nat := 0
  expSeq    : Nat := 0                  -- expected SEQ (R330)
  nak       : Bool := false             -- NAK set in the next flit
  acked     : Nat := 0                  -- last ACK received from the partner
  sendSeq   : Nat := 0                  -- SEQ of the next flit sent
  replay    : List Flit := []           -- flits sent and not yet acknowledged (R330)
  unacked   : List (Nat × TxFrame) := []     -- frames sent and not yet acknowledged, with the SEQ of their last flit (R342)
  tx        : List Byte := []           -- packet stream that no flit has taken yet
  txByte    : Nat := 0                  -- lane-stream bytes sent at this width, modulo 840 (R329)
  rxByte    : Nat := 0                  -- lane-stream bytes received at this width, modulo 840
  lanes     : List Nat := []            -- physical lane of each active logical lane (R329, R334)
  spareAt   : Nat := 0                  -- logical lane that the spare will take (R334)
  quietUntil : Nat := 0                 -- until then a width handshake runs and no new flit is sent (R334)
  corrs     : List (Nat × Nat × Nat) := []   -- device time, physical lane and number of symbols corrected in the last 1 ms (R333)
  rxUsed    : AMap Nat := []            -- receive buffer in use per class, 64-byte units (R331)
  owed      : AMap Nat := []            -- credits to return per class
  trainAt   : Nat := 0                  -- since when it trains (R332)
  stream    : List Byte := []           -- packet stream received and not yet complete
  credits   : AMap Nat := []            -- credits returned by the partner, per class, 64-byte units
  protoErr  : Nat := 0
  creditMode : Bool := true             -- XC_PORT_CFG.CREDIT_MODE, EFFECTIVE and PEER_PLANNING (R269)
  effective : Bool := true
  peerPlan  : Bool := true
  modePend  : Option Bool := none
  rxPlan    : List (Packet × Nat) := []      -- units of the packets of the receive buffer that are charged before coding (R268)
  segIn     : List (Nat × Nat × Nat) := []   -- segments being taken in: source, class and bytes before coding still to come (R268, R269)
deriving DecidableEq, Repr, Inhabited

/-- A transaction that this module issued on Poltex (R336, R350). -/
structure Txn where
  tag      : Nat
  w        : Option IRef                -- none: a device message
  op       : Nat
  target   : Nat
  addr     : Nat
  len      : Nat
  dst      : Nat := 0                   -- local destination of a LOAD
  plane    : Nat := 0                   -- near port it left by
  paths    : Nat := 0                   -- the path set P when it was sent (R341, R342)
  stale    : Bool := false              -- P has changed for its target since (R342)
  req      : Option Nat := none         -- request that its instruction names (R318)
  part     : Nat                        -- issuing partition
  tc       : Nat
  deadline : Nat := 0
  dev      : Option Out := none         -- the device message it carries
  copy     : Option CopyOf := none      -- the copy whose data it carries
deriving DecidableEq, Repr

/-- A page of a STORE, or a MSG, that no near port's transcoder has taken yet: what it is cut into is settled when it enters
one (R245, R246). -/
structure Cargo where
  range : Option (Nat × Nat) := none    -- the destination range of its STORE
  wide  : Bool := false                 -- SIZE256
  tag   : Nat := 0                      -- message tag of a MSG
  bytes : List Byte
deriving DecidableEq, Repr

/-- A transaction held until the earlier ones to its target are answered (R342): with its frames, or what will be cut. -/
structure Held where
  txn    : Txn
  frames : List TxFrame
  cargo  : Option Cargo := none
deriving DecidableEq, Repr

/-- A store or atomic at the atomic units (R348): a segment's STORE holds the bytes of its whole train. One that is not in its
units' merge buffers waits in the receive buffer, where the packet `held` keeps its place. -/
structure LineOp where
  pkt    : Packet
  held   : Option Packet := none
  inUnit : Bool := true
deriving DecidableEq, Repr, Inhabited

/-- Poltex: ports, transactions, trains (R326 to R355). -/
structure Poltex where
  ports     : AMap NearPort := []
  deadBound : Nat := 4
  laneLimit : Nat := 4096
  masks     : AMap Nat := []            -- planes last reported by an endpoint (R355)
  heard     : List Nat := []            -- endpoints whose LSTATE has come
  txns      : List Txn := []
  held      : List Held := []
  protoErr  : Nat := 0                  -- protocol errors of messages whose link is not known
  trains    : List (Nat × Nat × List Byte) := []   -- (source, class, bytes so far) (R338)
  lineOps   : List LineOp := []         -- waiting at the atomic units, oldest first
  nextTag   : Nat := 0
  late      : Nat := 0                  -- late responses discarded
  lastLstate : Nat := 0
deriving DecidableEq, Repr, Inhabited

/-- A send stream's settings (R247) and counters (R260). -/
structure Stream where
  enable   : Bool := false
  part     : Nat := 0
  mode     : Nat := 0
  classes  : Nat := 0
  wire     : Nat := 0
  native   : Nat := 0
  compress : Bool := false
  expDelta : Bool := false
  kqDynamic : Bool := false
  reduce   : Bool := false
  rctx     : Nat := 0
  kqScale  : Nat := 0
  kqShift  : Int := 0
  fixedE   : Nat := 0
  destEp   : Nat := 0
  destDomain : Nat := 0
  anyDest  : Bool := false
  winBase  : Nat := 0
  winLen   : Nat := 0
  image    : Nat := 0
  total    : Nat := 0
  clipped  : Nat := 0
  nanBlocks : Nat := 0
deriving DecidableEq, Repr, Inhabited

/-- A far port (R356 to R361, R381). -/
structure FarPort where
  nexthop   : Nat := 0
  state     : PortState := .noPartner
  crinum    : Bool := false
  spareUsed : Bool := false
  spareBad  : Bool := false
  spareBusy : Bool := false
  failed    : Nat := 0
  pausedHi  : Option Nat := none        -- since when PRIO_HI is paused
  pausedLo  : Option Nat := none
  pauseNoted : List Nat := []           -- priorities whose pause of 10 ms has been recorded
  creditMode : Bool := true
  effective : Bool := true
  peerPlan  : Bool := true
  modePend  : Option Bool := none
  discarded : Nat := 0
  segIn     : List Nat := []            -- connections whose segments are being taken in (R269)
  prbs      : Bool := false             -- PRBS13 is sent on the spare wavelength (R358)
  trainAt   : Nat := 0                  -- start of training (R358)
  pauses    : Nat := 0                  -- pauses of 10 ms counted (R361)
  rx        : List (Out × Nat) := []    -- frames that wait in the receive buffers, with their bytes, in order of arrival (R361)
  xoffHi    : Bool := false             -- XOFF sent for PRIO_HI (R361)
  xoffLo    : Bool := false
deriving DecidableEq, Repr, Inhabited

/-- Connection states (R366). -/
inductive CState where
  | free | opening | open_ | closing | failed
deriving DecidableEq, Repr, Inhabited

/-- A transfer in flight on a connection: its instruction or device message and the PSNs it took (R371, R372). -/
structure Xfer where
  w     : Option IRef                   -- none: a device message
  op    : Nat                           -- 1 WRITE, 2 READ_REQ, 4 SEND
  first : Nat                           -- first PSN
  npsn  : Nat                           -- PSNs it takes
  src   : Nat := 0                      -- local source, or destination of a GET
  len   : Nat
  raddr : Nat := 0
  key   : Nat := 0
  tc    : Nat
  dev   : Option Out := none            -- a device message (R378)
  status : Nat := 0                     -- status of its first refusal
  begun : Bool := false                 -- its first packet has been sent: its claim is settled
  claim : Option (Nat × Nat × Stream) := none   -- port, number and settings of the stream that claims it, kept to the end (R246)
  data  : List Byte := []               -- a device message, or a copy's data, as bytes (R338, R378)
  copy  : Option CopyOf := none         -- the copy whose data it carries
  req   : Option Nat := none            -- request that its instruction names (R318)
deriving DecidableEq, Repr

/-- A packet held in the miss buffer; a CLOSE with its record and the address that it came from (R376). -/
structure HeldPacket where
  pkt   : TPacket
  close : Option (ConnRecord × List Byte) := none
deriving DecidableEq, Repr, Inhabited

/-- A Tlaley connection (R365 to R377). -/
structure Conn where
  state     : CState := .free
  part      : Nat := 0
  peer      : Party := ⟨0, 0, 0, 0⟩
  rebuilds  : Nat := 0                  -- rebuild count of the number (R365)
  lcepoch   : Nat := 0
  rconn     : Nat := 0
  rcepoch   : Nat := 0
  pmtu      : Nat := 0                  -- code
  ipv6      : Bool := false
  ports     : Nat := 0
  rip       : List Byte := []
  level     : Nat := 1
  device    : Bool := false             -- a device connection (R378)
  descr     : Nat := 0
  opener    : Option IRef := none       -- the CONNECT that waits
  closer    : Option IRef := none       -- the DISCONNECT that waits
  tries     : Nat := 0
  triedAt   : Nat := 0
  sendNext  : Nat := 0                  -- next PSN to send
  sentTo    : Nat := 0                  -- PSN after the last one ever sent (R371, R372)
  allocated : Nat := 0                  -- PSN after the last transfer's
  una       : Nat := 0                  -- first unacknowledged PSN
  expected  : Nat := 0
  nakSent   : Bool := false
  sinceAck  : Nat := 0                  -- packets accepted since the last ACK
  firstUnackedAt : Option Nat := none
  timeouts  : Nat := 0
  progressAt : Nat := 0
  rtoAt     : Nat := 0                  -- when the running retransmission timeout ends (R371, R380)
  rnrUntil  : Option Nat := none
  rnrPsn    : Nat := 0
  rho       : Nat := 1600000
  alphaNum  : Nat := 1                  -- α = alphaNum / 16 ^ alphaExp, exact (R374)
  alphaExp  : Nat := 0
  periodAt  : Option Nat := none
  echoSentAt : Option Nat := none
  onChip    : Bool := true
  held      : List HeldPacket := []     -- packets held in the miss buffer (R376)
  refusing  : Bool := false             -- NAK NOT_READY sent; packets discarded until installed
  message   : List Byte := []           -- message being reassembled
  broken    : Bool := false             -- a packet of the segment being taken in was refused: the rest of it is not applied (R369)
  resps     : List TPacket := []        -- READ_RESPs that wait for their turn at the connection's rate (R374)
  paceAt    : Nat := 0                  -- earliest time of its next packet at its rate (R374)
  xfers     : List Xfer := []
  echoes    : Nat := 0
deriving DecidableEq, Repr, Inhabited

/-- An answer to an OPEN that the module keeps (R365). -/
structure OpenAnswer where
  sdomain : Nat
  sep     : Nat
  sconn   : Nat
  scepoch : Nat
  record  : ConnRecord                  -- the record of its OPEN_ACK
deriving DecidableEq, Repr, Inhabited

/-- The exchange with the grandmaster in progress (R379): the last Sync's number, origin and arrival, and the Delay_Req's
number and departure. -/
structure PtpClock where
  seq    : Nat := 0
  origin : Option Int := none
  arrive : Int := 0
  reqSeq : Nat := 0
  sentAt : Option Int := none
deriving DecidableEq, Repr, Inhabited

/-- The far-port side of the module (R356 to R383). -/
structure Tlaley where
  ports      : AMap FarPort := []
  wlLimit    : Nat := 4096
  rto        : Nat := 64
  retryLimit : Nat := 7
  rnrDelay   : Nat := 20
  aiRate     : Nat := 1000
  ccEnable   : Bool := true
  ptpPort    : Nat := 0
  ptpEnable  : Bool := false
  ptpIpv6    : Bool := false
  ptpDomain  : Nat := 0
  ptpLocked  : Bool := false
  ptpOffset  : Int := 0
  ptpClock   : PtpClock := {}
  conns      : AMap Conn := []
  answers    : List OpenAnswer := []    -- newest first, at most 4,096
  discarded  : Nat := 0
  protoErr   : Nat := 0
deriving DecidableEq, Repr, Inhabited

/-- The time base's source (R518). -/
structure TimeBase where
  ppsRun     : Nat := 0                 -- consecutive good pulses
  ppsLocked  : Bool := false
  ref10m     : Bool := false
  holdover   : Bool := false            -- the chosen source has ceased
  correction : Int := 0                 -- ns still to be slewed
  slewed     : Nat := 0                 -- corrections of 1 µs since the last ns slewed
  hold       : Bool := false            -- the next nanosecond does not count: a slew backwards
deriving DecidableEq, Repr, Inhabited

/-! ## Index -/

/-- An index entry (R270, R274, R275): value and mask of 144 bits, the value stored with masked bits cleared. -/
structure IxEntry where
  value  : Nat
  mask   : Nat
  band   : Nat
  result : Nat
deriving DecidableEq, Repr, Inhabited

/-- The index with its shadow (R270 to R295). A position not listed is a hole. -/
structure Index where
  array     : AMap IxEntry := []
  shadow    : AMap IxEntry := []
  shadowBad : List Nat := []            -- positions whose shadow is uncorrectable
  sweepPeriod : Nat := 20
  sweepForce : Nat := 20                -- the period of the sweep under way (R295)
  sweepEnable : Bool := true
  sweepAt   : Nat := 0                  -- time from which the running sweep period counts
  repaired  : Nat := 0
  invalidated : Nat := 0
  ruleLost  : Bool := false
  temp      : Nat := 0
  step      : Nat := 0
  refused   : Nat := 0
deriving DecidableEq, Repr, Inhabited

/-! ## Time and shaping -/

/-- A frame queued at a port (R307, R318): its class queue and leaf and, once stamped, its stamp and the OVERHEAD then in
force (R325). -/
structure QFrame where
  part    : Nat
  tc      : Nat
  req     : Option Nat
  frame   : TxFrame
  stamp   : Option (Nat × Int) := none
deriving DecidableEq, Repr

/-- A meter (R308, R324). Levels in millibits. -/
structure Meter where
  enable : Bool := false
  policy : Bool := false
  cir    : Nat := 0
  pir    : Nat := 0
  cbs    : Nat := 0
  pbs    : Nat := 0
  c      : Nat := 0
  p      : Nat := 0
  last   : Nat := 0
deriving DecidableEq, Repr, Inhabited

/-- Where a class queue that is not eligible waits (R310, R313). -/
inductive Parked where
  | pending (eligible : Nat)
  | main (slot eligible : Nat)
  | overflow (slot eligible : Nat)
  | zeroRate
deriving DecidableEq, Repr, Inhabited

/-- A gate entry (R315). -/
structure GateEntry where
  duration : Nat := 0
  mask     : Nat := 0
deriving DecidableEq, Repr, Inhabited

/-- A port in TS (R315 to R320, R325). -/
structure TsPort where
  overhead : Option Int := none         -- written OVERHEAD; none: the reset value
  frames   : List QFrame := []          -- in order of arrival
  vtime    : Nat := 0
  lastStamp : List (Nat × Nat × Option Nat × Nat × Nat) := []  -- leaf (part, class, request), stamp, time sent
  trains   : List ((Nat × Nat) × (Nat × Nat × Option Nat)) := []   -- trains begun and not ended: (class, destination), leaf (R338)
  segOut   : List (Nat × Nat) := []     -- segments being sent: class and destination, or connection and class (R269)
  parked   : List ((Nat × Nat) × Parked) := []                 -- (part, class) queues that wait, in order of parking
  bank0    : AMap GateEntry := []
  bank1    : AMap GateEntry := []
  enable   : Bool := false
  nent     : Nat := 0
  base     : Nat := 0
  armed    : Option (Nat × Nat) := none -- NENT and base as taken at ARM
  armedAt  : Nat := 0                   -- the port's time at the ARM, or when ENABLE became 1
  running  : Option (Nat × Nat) := none -- NENT of the running list and T0
  entry    : Nat := 0                   -- entry in force
  entryAt  : Nat := 0                   -- when it came into force
  bank     : Nat := 0                   -- active bank
  overruns : Nat := 0
deriving DecidableEq, Repr, Inhabited

/-- The shapers (R306 to R325). -/
structure Shaper where
  ports    : AMap TsPort := []
  meters   : AMap Meter := []           -- by (partition × 8 + class) × 64 + port
  parkedMain : Nat := 0
  parkedOvf  : Nat := 0
deriving DecidableEq, Repr, Inhabited

/-! ## Counters and errors -/

/-- A counter unit (R474, R475, R487). -/
structure Unit where
  src      : List Nat := [0, 0, 0, 0]
  enable   : Nat := 0
  instance_ : Nat := 31
  part     : Nat := 0
  filter   : Bool := false
  value    : List Nat := [0, 0, 0, 0]
  wrapped  : Nat := 0
  shadow   : List Nat := [0, 0, 0, 0]
  shadowNo : Nat := 0
deriving DecidableEq, Repr, Inhabited

/-- An error record without its ring's TAG (R479). -/
structure ErrRec where
  code    : Nat
  level   : Nat := 0
  nested  : Bool := false
  part    : Nat := 0
  queue   : Option Nat := none
  req     : Option (Nat × Nat) := none
  status  : Nat := 0
  detail  : Nat := 0
  time    : Nat := 0
  address : Nat := 0
  seq     : Nat := 0
  chain   : Nat := 0
deriving DecidableEq, Repr, Inhabited

/-- An error that is being handled (R424): its context, level and record, when it began and how many chained. -/
structure Handling where
  ctx     : ErrContext
  level   : Nat
  seq     : Nat
  since   : Nat
  toLog   : Bool
  toPart  : Option Nat
  chained : Nat := 0
  broken  : Bool := false               -- one of its records could not be written (R426)
  until_  : Option (Nat × Nat) := none  -- group and address of the header whose writing completes it (R424)
deriving DecidableEq, Repr

/-- Counters, snapshots and the device error log (R474 to R487). -/
structure Counters where
  units    : AMap Unit := []
  snapTime : Nat := 0
  refused  : Bool := false
  latches  : List (Nat × Nat) := []     -- pending (number, time), in order of arming
  latched  : List (Nat × Nat) := []     -- (number, island) that a pending latch has reached (R29, R478)
  nextNo   : Nat := 1
  done     : Nat := 0
  log      : List ErrRec := []          -- newest first
  prod     : Nat := 0
  cons     : Nat := 0
  overwritten : Nat := 0
  handling : List Handling := []
deriving DecidableEq, Repr, Inhabited

/-! ## Engines -/

/-- What an attention engine holds between instructions beside its act store (R30 to R34): scratch and accumulators, zero
after the engine changed partition and else of undefined contents that the serial of a free value names; and the granules
that stand in the rings of its eight streams, of 64 KiB each: by stream, oldest first. -/
structure Engine where
  last    : Option Nat := none          -- partition whose instruction it ran last (R32)
  scratch : Option Nat := none          -- none: 6 MiB of zeros; a serial: undefined contents (R31)
  accums  : Option Nat := none          -- likewise
  rings   : AMap (List Nat) := []       -- by stream 0 to 7: granules by device address / 256, at most 256 each
deriving DecidableEq, Repr, Inhabited

/-! ## The machine -/

/-- The whole module. -/
structure State where
  pending  : List Instr := []
  now      : Nat := 0                   -- device time of TS, ns (R5, R29)
  islands  : AMap Int := []             -- offset of each island's copy from TS, ns (R29)
  freeCtr  : Nat := 0                   -- the model's own: free values drawn
  out      : List Out := []             -- the model's own: outputs, oldest first
  noc      : List Out := []             -- messages on their way inside the module
  reported : List Out := []             -- device messages whose target the transport has reported dead (R110, R151)
  power    : Power := {}
  life     : Life := {}
  flash    : Flash := {}
  mgmt     : Mgmt := {}
  comp     : Option Comp := none
  parts    : AMap Part := []
  engines  : AMap Engine := []          -- attention engines by number (R30 to R34)
  acts     : AMap (List Byte) := []     -- act store: engine × 64 + slot → its 4 KiB (R225)
  home     : Home := {}
  mem      : Mem := {}
  host     : AMap Memory := []          -- host memory of each function group
  poltex   : Poltex := {}
  tlaley   : Tlaley := {}
  time     : TimeBase := {}
  streams  : AMap Stream := []          -- (port × 256 + stream), ports 0–15 near, 16–31 far
  index    : Index := {}
  shaper   : Shaper := {}
  counters : Counters := {}
  selectors : List (Accessor × Nat × Nat) := []   -- (accessor, selector register's offset, value) (R495)
deriving DecidableEq, Repr, Inhabited

/-- Why a command stops the model. -/
inductive Fault where
  /-- Raised by no meaning in this model: a command whose effect the manual gives always has a next state. Kept as the
  one named reason for a stop under the grounds of the assumption log. Safe: it only stops. -/
  | unreachable
deriving DecidableEq, Repr

/-- Why a command is refused. -/
inductive Refusal where
  /-- Raised by the dispatch for a command without a meaning yet. Safe: it only stops. -/
  | notModelled (mnemonic : String)
deriving DecidableEq, Repr

/-- The module right after reset (R447): power good has come, the boot flow has not begun (R449), every register
holds its reset value, DRAM reads zeros, no command waits. Log entries 1 and 4 name what the manual leaves open. -/
def State.reset : State := {}

end Sys2Proof.Machine
end

