-- ==== Sys2Proof/Machine/Codec.lean ====
section
/-! DEFINITION. The transcoder's arithmetic: narrowing and expanding (09_link_transcoder.md R249 to R253), the
sparse-run codec (R261 to R263), the rescale of a reduced block (R256), segments as bytes (R248), and the flit code
of 12_rack_fabric.md R329 and R330. -/

namespace Sys2Proof.Machine

/-! ## Native elements -/

/-- Bytes of a native element: BF16 or FP32 (R247). -/
def nativeWidth (native : Nat) : Nat := if native = 0 then 2 else 4

/-- The value of a native element; a subnormal reads as 0 (R250). -/
def nativeVal (native : Nat) (bs : List Byte) : Fp :=
  if native = 0 then fpOfBf16 (fromLe bs) else fpOf32 (fromLe bs)

/-- A list split into pieces of n, the last one shorter. -/
def pieces {α : Type} (n : Nat) (l : List α) : List (List α) := chunks n (l.length / n + 1) l |>.filter (fun c => !c.isEmpty)

/-- A list brought to n elements. -/
def padTo {α : Type} (n : Nat) (z : α) (l : List α) : List α := l.take n ++ List.replicate (n - l.length) z

/-! ## Narrowing (R250, R251) -/

/-- What narrowing gives: wire bytes, clipped elements, blocks or groups sent as NaN. -/
structure Narrowed where
  bytes   : List Byte
  clipped : Nat
  nans    : Nat
deriving DecidableEq, Repr

/-- Is a value NaN or infinite. -/
def notFinite : Fp → Bool
  | .fin _ _ _ => false
  | _ => true

/-- The largest magnitude of a list of finite values, as a non-negative value. -/
def amaxOf (xs : List Fp) : Fp :=
  xs.foldl (fun a x => match x with
    | .fin _ m e => if m = 0 then a else fpMax a (.fin false m e)
    | _ => a) fpZero

/-- emax of an MX wire format (R249). -/
def wireEmax (wire : Nat) : Int := if wire = 1 then 8 else if wire = 2 then 15 else if wire = 4 then 2 else 0

/-- elem of R250: the element code of mag · 2^exp with a sign, and whether it was clipped. -/
def mxElem (wire : Nat) (neg : Bool) (mag : Nat) (exp : Int) : Nat × Bool :=
  if wire = 3 then
    let q := roundNat mag (exp + 6)
    let c := min q 127
    (if neg && c != 0 then 256 - c else c, decide (127 < q))
  else
    let r := if wire = 1 then elemCode 3 (-6) 0x7E mag exp
             else if wire = 2 then elemCode 2 (-14) 0x7B mag exp
             else elemCode 1 0 0x7 mag exp
    ((if neg then (if wire = 4 then 8 else 128) else 0) + r.1, r.2)

/-- An MX block: scale byte, element codes, clipped count, NaN block (R250). `fixedE` is FIXED_E of a REDUCE stream. -/
def mxBlock (wire : Nat) (fixedE : Option Nat) (xs : List Fp) : Nat × List Nat × Nat × Bool :=
  if xs.any notFinite then (fixedE.getD 0xFF, xs.map (fun _ => 0), 0, true)
  else
    match amaxOf xs with
    | .fin _ m e =>
      let auto := if m = 0 then 0
        else (max 0 (min 254 ((m.log2 : Int) + e - wireEmax wire + 127))).toNat
      let scale := fixedE.getD auto
      let qs := xs.map (fun x => match x with
        | .fin neg mg ex => if m = 0 then (0, false) else mxElem wire neg mg (ex + 127 - (scale : Int))
        | _ => (0, false))
      (scale, qs.map Prod.fst, (qs.filter Prod.snd).length, false)
    | _ => (0, xs.map (fun _ => 0), 0, false)

/-- num / den rounded to the nearest integer, ties to even. -/
def roundRat (num den : Nat) : Nat :=
  if den = 0 then 0
  else
    let q := num / den
    let r := num % den
    if decide (den < 2 * r) || (2 * r == den && q % 2 == 1) then q + 1 else q

/-- |x| ≤ n · 2^k for a finite magnitude mag · 2^exp. -/
def magLe (mag : Nat) (exp : Int) (n : Nat) (k : Int) : Bool :=
  if k ≤ exp then decide (mag * 2 ^ (exp - k).toNat ≤ n) else decide (mag ≤ n * 2 ^ (k - exp).toNat)

/-- SHIFT of a dynamic KQ-INT8 group: the smallest from −128 to 127 that covers amax, or 127 (R251). -/
def kqShiftFor (mag : Nat) (exp : Int) (scale : Nat) : Int :=
  match (List.range 256).find? (fun (i : Nat) => magLe mag exp (127 * scale) ((i : Int) - 128)) with
  | some i => (i : Int) - 128
  | none => 127

/-- A KQ-INT8 element: q with clipping (R251). -/
def kqElem (scale : Nat) (shift : Int) (neg : Bool) (mag : Nat) (exp : Int) : Nat × Bool :=
  let q := if shift ≤ exp then roundRat (mag * 2 ^ (exp - shift).toNat) scale
           else roundRat mag (scale * 2 ^ (shift - exp).toNat)
  let c := min q 127
  (if neg && c != 0 then 256 - c else c, decide (127 < q))

/-- Settings that narrowing reads. -/
structure NarrowCfg where
  wire      : Nat
  fixedE    : Option Nat := none
  kqDynamic : Bool := false
  kqScale   : Nat := 1
  kqShift   : Int := 0
deriving DecidableEq, Repr

/-- Nibbles packed two to a byte, the even element low (R252). -/
def packNibbles : List Nat → List Nat
  | a :: b :: r => (a + 16 * b) :: packNibbles r
  | [a] => [a]
  | [] => []

/-- A byte list of numbers below 256. -/
def toBytes (l : List Nat) : List Byte := l.map (fun n => BitVec.ofNat 8 n)

/-- One group of 256 elements on the wire (R252). -/
def narrowGroup (cfg : NarrowCfg) (xs : List Fp) : Narrowed :=
  let xs := padTo 256 fpZero xs
  if cfg.wire = 5 then
    if xs.any notFinite then
      let shift : Byte := if cfg.kqDynamic then Config.kqNanShift else BitVec.ofInt 8 cfg.kqShift
      ⟨toBytes [cfg.kqScale % 256, cfg.kqScale / 256] ++ [shift, 0]
        ++ toBytes (List.replicate 256 0), 0, 1⟩
    else
      let shift := match amaxOf xs with
        | .fin _ m e => if cfg.kqDynamic then kqShiftFor m e cfg.kqScale else cfg.kqShift
        | _ => cfg.kqShift
      let qs := xs.map (fun x => match x with
        | .fin neg m e => if m = 0 then (0, false) else kqElem cfg.kqScale shift neg m e
        | _ => (0, false))
      ⟨toBytes [cfg.kqScale % 256, cfg.kqScale / 256] ++ [BitVec.ofInt 8 shift, 0] ++ toBytes (qs.map Prod.fst),
        (qs.filter Prod.snd).length, 0⟩
  else
    let bs := (pieces 32 xs).map (mxBlock cfg.wire cfg.fixedE)
    let codes := (bs.map (fun b => b.2.1)).flatten
    ⟨toBytes (bs.map Prod.fst) ++ toBytes (if cfg.wire = 4 then packNibbles codes else codes),
      (bs.map (fun b => b.2.2.1)).sum, (bs.filter (fun b => b.2.2.2)).length⟩

/-- A run of native elements narrowed, group by group (R250 to R252). -/
def narrow (cfg : NarrowCfg) (xs : List Fp) : Narrowed :=
  ((pieces 256 xs).map (narrowGroup cfg)).foldl
    (fun a g => ⟨a.bytes ++ g.bytes, a.clipped + g.clipped, a.nans + g.nans⟩) ⟨[], 0, 0⟩

/-! ## Expansion (R253) -/

/-- Wire bytes of a group (R249). -/
def groupBytes (wire : Nat) : Nat := if wire = 4 then 136 else if wire = 5 then 260 else 264

/-- Wire bytes of the body that narrows a number of elements. -/
def narrowLen (wire elems : Nat) : Nat := ceilDiv elems 256 * groupBytes wire

/-- A value scaled by 2^k. -/
def fpScale (x : Fp) (k : Int) : Fp :=
  match x with
  | .fin neg m e => .fin neg m (e + k)
  | y => y

/-- An INT8 code as a value. -/
def fpOfInt8 (b : Nat) : Fp := if b < 128 then .fin false b 0 else .fin true (256 - b) 0

/-- The values of one group on the wire, 256 of them. -/
def expandGroup (wire : Nat) (g : List Nat) : List Fp :=
  if wire = 5 then
    let scale := g.getD 0 0 + 256 * g.getD 1 0
    let shift := signed 8 (g.getD 2 0)
    ((g.drop 4).take 256).map (fun q => match fpOfInt8 q with
      | .fin neg m e => .fin neg (m * scale) (e + shift)
      | y => y)
  else
    let codes := if wire = 4 then (((g.drop 8).take 128).map (fun b => [b % 16, b / 16])).flatten else (g.drop 8).take 256
    (List.range 256).map (fun i =>
      let e := g.getD (i / 32) 0
      if e = 0xFF then .nan
      else
        let c := codes.getD i 0
        let v := if wire = 1 then fpOfE4m3 c else if wire = 2 then fpOfE5m2 c
                 else if wire = 3 then fpScale (fpOfInt8 c) (-6) else fpOfE2m1 c
        fpScale v ((e : Int) - 127))

/-- A magnitude at or above 2^128 becomes an infinity, one below 2^−126 becomes +0 (R253). -/
def expandClamp (x : Fp) : Fp :=
  match x with
  | .fin neg m e =>
    if belowPow m e (-126) then fpZero
    else if belowPow m e 128 then .fin neg m e else .inf neg
  | y => y

/-- The native bytes of an expanded value. -/
def nativeBytes (native : Nat) (x : Fp) : List Byte :=
  if native = 0 then toLe 2 (fpToBf16 (expandClamp x)) else toLe 4 (fpTo32 (expandClamp x))

/-- A narrowed body expanded to n native bytes (R253). -/
def expandBody (wire native : Nat) (body : List Byte) (n : Nat) : List Byte :=
  let vals := ((pieces (groupBytes wire) (body.map BitVec.toNat)).map (expandGroup wire)).flatten
  ((vals.map (nativeBytes native)).flatten).take n

/-! ## The sparse-run codec (R261 to R263) -/

/-- Element width in bytes of a WIDTH code; none where it is reserved. -/
def codecWidth (w : Nat) : Option Nat := if w = 0 then some 1 else if w = 1 then some 2 else if w = 2 then some 4 else none

/-- Exponent field of a BF16 or FP32 element. -/
def expField (w v : Nat) : Nat := if w = 2 then bits v 14 7 else bits v 30 23

/-- Mantissa bits of MODE 2. -/
def modeM (w : Nat) : Nat := if w = 2 then 7 else 23

/-- The fields of MODE 2 as one bit stream. -/
def fieldStream (w base : Nat) (vs : List Nat) : Nat :=
  let m := modeM w
  let f := m + 5
  ((vs.zip (List.range vs.length)).map (fun e =>
    ((e.1 / 2 ^ (8 * w - 1)) * 2 ^ (4 + m) + (expField w e.1 - base) * 2 ^ m + e.1 % 2 ^ m) * 2 ^ (e.2 * f))).sum

/-- A 256-byte block coded as the encoder of R262 chooses. -/
def encodeBlock (wcode : Nat) (expDelta : Bool) (blk : List Byte) : List Byte :=
  let w := (codecWidth wcode).getD 1
  let es := (pieces w blk).map fromLe
  let nz := es.filter (· != 0)
  let ne := 256 / w
  let hdr := fun (mode base : Nat) => toBytes [mode + 4 * wcode, base]
  if nz.isEmpty then hdr 3 0
  else
    let bitmap := toLe (ne / 8) (((es.zip (List.range ne)).map (fun e => if e.1 = 0 then 0 else 2 ^ e.2)).sum)
    let exps := nz.map (expField w)
    let base := exps.foldl min (exps.headD 0)
    let eligible := expDelta && w != 1 && exps.all (fun e => decide (e ≤ base + 15))
    let len1 := 2 + ne / 8 + nz.length * w
    let len2 := 2 + ne / 8 + ceilDiv (nz.length * (modeM w + 5)) 8
    if 258 ≤ len1 ∧ (!eligible ∨ 258 ≤ len2) then hdr 0 0 ++ blk
    else if len1 ≤ len2 ∨ !eligible then hdr 1 0 ++ bitmap ++ (nz.map (toLe w)).flatten
    else hdr 2 base ++ bitmap ++ toLe (ceilDiv (nz.length * (modeM w + 5)) 8) (fieldStream w base nz)

/-- A body coded block by block, the last one padded with zeros. -/
def encodeBody (wcode : Nat) (expDelta : Bool) (body : List Byte) : List Byte :=
  ((pieces 256 body).map (fun b => encodeBlock wcode expDelta (padTo 256 0 b))).flatten

/-- The elements that a bitmap places: the next listed value where the bit is set, else 0. -/
def spread : List Bool → List Nat → List Nat
  | [], _ => []
  | true :: bs, v :: vs => v :: spread bs vs
  | true :: bs, [] => 0 :: spread bs []
  | false :: bs, vs => 0 :: spread bs vs

/-- One coded block: its 256 bytes and what follows it; none where it is malformed (R261, R263). -/
def decodeBlock (wcode : Nat) (bs : List Byte) : Option (List Byte × List Byte) :=
  match bs with
  | b0 :: b1 :: rest =>
    let mode := bits b0.toNat 1 0
    let wc := bits b0.toNat 3 2
    match codecWidth wc with
    | none => none
    | some w =>
      if wc ≠ wcode then none
      else if mode = 3 then some (List.replicate 256 0, rest)
      else if mode = 0 then
        if rest.length < 256 then none else some (rest.take 256, rest.drop 256)
      else if mode = 2 ∧ w = 1 then none
      else
        let ne := 256 / w
        let map := (List.range ne).map (fun i => bit (fromLe (rest.take (ne / 8))) i)
        let nz := (map.filter id).length
        let f := modeM w + 5
        let n := ne / 8 + (if mode = 1 then nz * w else ceilDiv (nz * f) 8)
        if rest.length < n then none
        else
          let tail := (rest.drop (ne / 8)).take (n - ne / 8)
          let vals := if mode = 1 then (pieces w tail).map fromLe
            else
              let stream := fromLe tail
              let m := modeM w
              (List.range nz).map (fun k =>
                let x := stream / 2 ^ (k * f) % 2 ^ f
                (x / 2 ^ (4 + m)) * 2 ^ (8 * w - 1)
                  + ((b1.toNat + x / 2 ^ m % 16) % 256) * 2 ^ m + x % 2 ^ m)
          some (((spread map vals).map (toLe w)).flatten, rest.drop n)
  | _ => none

/-- n coded blocks decoded in order: the bytes and what follows them. -/
def decodeBlocks (wcode : Nat) : Nat → List Byte → Option (List Byte × List Byte)
  | 0, bs => some ([], bs)
  | n + 1, bs =>
    match decodeBlock wcode bs with
    | none => none
    | some (blk, rest) =>
      match decodeBlocks wcode n rest with
      | none => none
      | some (out, r) => some (blk ++ out, r)

/-- A coded body that must hold exactly n blocks (R263). -/
def decodeBody (wcode n : Nat) (bs : List Byte) : Option (List Byte) :=
  match decodeBlocks wcode n bs with
  | some (out, []) => some out
  | _ => none

/-! ## Segments (R248) -/

/-- Bytes of a segment's body before coding. -/
def uncodedLen (g : Segment) : Nat :=
  if g.wire = 0 then g.nativeLen else narrowLen g.wire (g.nativeLen / nativeWidth g.native)

/-- A segment as bytes: its 16-byte header and its body. -/
def segmentBytes (g : Segment) : List Byte :=
  toLe 8 (g.level % 16 + g.wire % 16 * 2 ^ 4 + g.native % 4 * 2 ^ 8 + flag g.codec * 2 ^ 10 + g.width % 4 * 2 ^ 11
    + flag g.reduce * 2 ^ 13 + g.rctx % 64 * 2 ^ 14 + g.nativeLen % 2 ^ 32 * 2 ^ 32)
  ++ toLe 8 (g.dest % 2 ^ 48 + g.body.length % 2 ^ 16 * 2 ^ 48) ++ g.body

/-- The segment that bytes hold, with WIRE_LEN as it stands. -/
def segmentOf (bs : List Byte) : Segment × Nat :=
  let a := leAt bs 0 8
  let b := leAt bs 8 8
  ({ level := bits a 3 0, wire := bits a 7 4, native := bits a 9 8, codec := bit a 10, width := bits a 12 11,
     reduce := bit a 13, rctx := bits a 19 14, nativeLen := bits a 63 32, dest := bits b 47 0, body := bs.drop 16 },
   bits b 63 48)

/-- The body of a segment as narrowed or native bytes; none where it is malformed (R263). -/
def segmentBody (g : Segment) : Option (List Byte) :=
  if g.codec then
    match decodeBody g.width (ceilDiv (uncodedLen g) 256) g.body with
    | some bs => some (bs.take (uncodedLen g))
    | none => none
  else if g.body.length = uncodedLen g then some g.body else none

/-! ## The rescale of a reduced block (R256) -/

/-- p / 2^n rounded: ties away from zero, or to even. -/
def rshiftRound (p : Int) (n : Nat) (even : Bool) : Int :=
  let m := p.natAbs
  let q := if n = 0 then m else if even then roundNat m (-(n : Int)) else (m + 2 ^ (n - 1)) / 2 ^ n
  if p < 0 then -(q : Int) else (q : Int)

/-- One output element: its bytes and whether OUTFMT limited it. -/
def rescale (c : RCtx) (acc : Int) : List Byte × Bool :=
  if c.rmode then
    let s : Fp := fpRnd (.fin (decide (acc < 0)) acc.natAbs 0)
    let y := fpMul s (fpOf32 c.mult)
    (if c.outfmt = 1 then toLe 2 (fpToBf16 y) else toLe 4 (fpTo32 y), false)
  else
    let y := rshiftRound (acc * signed 32 c.mult) c.rshift c.half
    let w := if c.outfmt = 0 then 8 else if c.outfmt = 1 then 16 else 32
    let hi : Int := 2 ^ (w - 1) - 1
    let lo : Int := -(2 ^ (w - 1))
    let z := max lo (min hi y)
    (toLe (w / 8) (unsignedOf w z), z != y)

/-- Bytes of one output element. -/
def outWidth (c : RCtx) : Nat :=
  if c.rmode then (if c.outfmt = 1 then 2 else 4) else (if c.outfmt = 0 then 1 else if c.outfmt = 1 then 2 else 4)

/-! ## The flit code RS(136,130) (R329, R330) -/

/-- Syndrome j of a codeword: its value at α^j, the first byte the highest degree. -/
def rsSyndrome (cw : List Nat) (j : Nat) : Nat := cw.foldl (fun a b => xorN (gmul a (gpow 2 j)) b) 0

/-- α^e for the byte at index i of a codeword of n bytes. -/
def rsLoc (n i : Nat) : Nat := gpow 2 (n - 1 - i)

/-- Changes that correct a codeword with at most two symbol errors; none where it is uncorrectable. -/
def rsCorrect (cw : List Nat) : Option (List (Nat × Nat)) :=
  let s := (List.range 6).map (rsSyndrome cw)
  let at_ := fun (i : Nat) => s.getD i 0
  if s.all (· == 0) then some []
  else
    let n := cw.length
    let one := (List.range n).find? (fun i =>
      at_ 0 != 0 && (List.range 5).all (fun k => at_ (k + 1) == gmul (at_ k) (rsLoc n i)))
    match one with
    | some i => some [(i, at_ 0)]
    | none =>
      let det := xorN (gmul (at_ 1) (at_ 1)) (gmul (at_ 0) (at_ 2))
      if det = 0 then none
      else
        let s1 := gdiv (xorN (gmul (at_ 1) (at_ 2)) (gmul (at_ 0) (at_ 3))) det
        let s2 := gdiv (xorN (gmul (at_ 2) (at_ 2)) (gmul (at_ 1) (at_ 3))) det
        if xorN (gmul s1 (at_ 3)) (gmul s2 (at_ 2)) ≠ at_ 4 ∨ xorN (gmul s1 (at_ 4)) (gmul s2 (at_ 3)) ≠ at_ 5 then none
        else
          match (List.range n).filter (fun i =>
              let x := rsLoc n i
              xorN (xorN (gmul x x) (gmul s1 x)) s2 == 0) with
          | [i, j] =>
            let xi := rsLoc n i
            let xj := rsLoc n j
            let ej := gdiv (xorN (at_ 1) (gmul (at_ 0) xi)) (xorN xi xj)
            some [(i, xorN (at_ 0) ej), (j, ej)]
          | _ => none

/-- Codeword c of a flit: its data bytes 2i + c and its check bytes 260 + 2j + c (R329). -/
def flitCodeword (flit : List Nat) (c : Nat) : List Nat :=
  (List.range 130).map (fun i => flit.getD (2 * i + c) 0) ++ (List.range 6).map (fun j => flit.getD (260 + 2 * j + c) 0)

/-- The generator of the flit code, Π (x − α^i) for i from 0 to 5, in decreasing degree (R329). -/
def rsGenerator : List Nat :=
  (List.range 6).foldl (fun p i => List.zipWith xorN (p ++ [0]) (0 :: p.map (gmul (gpow 2 i)))) [1]

/-- One data byte taken into the remainder of a division by the generator. -/
def rsShift (rem : List Nat) (b : Nat) : List Nat :=
  let f := xorN b (rem.headD 0)
  List.zipWith xorN (rem.drop 1 ++ [0]) ((rsGenerator.drop 1).map (gmul f))

/-- The check bytes of a codeword's data: the coefficients of m(x)·x^6 mod g(x), in decreasing degree (R329). -/
def rsCheck (m : List Nat) : List Nat := m.foldl rsShift [0, 0, 0, 0, 0, 0]

/-- A flit of a link word and 256 bytes of packet stream, with its check bytes interleaved (R329). -/
def flitEncode (lw : Nat) (body : List Byte) : List Byte :=
  let h := toLe 4 lw ++ padTo 256 0 body
  let v := h.map BitVec.toNat
  let check := fun (c : Nat) => rsCheck ((List.range 130).map (fun i => v.getD (2 * i + c) 0))
  h ++ toBytes ((List.range 12).map (fun j => (check (j % 2)).getD (j / 2) 0))

/-- The symbols of a flit that correction changes, as offsets and changes; none where a codeword is uncorrectable (R330). -/
def flitErrors (flit : List Byte) : Option (List (Nat × Nat)) :=
  let f := padTo 272 0 (flit.map BitVec.toNat)
  let at_ := fun (c i : Nat) => if i < 130 then 2 * i + c else 260 + 2 * (i - 130) + c
  match rsCorrect (flitCodeword f 0), rsCorrect (flitCodeword f 1) with
  | some e0, some e1 => some (e0.map (fun e => (at_ 0 e.1, e.2)) ++ e1.map (fun e => (at_ 1 e.1, e.2)))
  | _, _ => none

/-- Link word and packet stream of a flit after correction; none where a codeword is uncorrectable (R330). -/
def flitDecode (flit : List Byte) : Option (Nat × List Byte) :=
  (flitErrors flit).map (fun es =>
    let g := toBytes (es.foldl (fun g e => g.set e.1 (xorN (g.getD e.1 0) e.2)) (padTo 272 0 (flit.map BitVec.toNat)))
    (leAt g 0 4, (g.drop 4).take 256))

end Sys2Proof.Machine
end

