-- ==== Sys2Proof/Machine/Flags.lean ====
section
/-! DEFINITION. The codes of the manual: completion statuses (R207), error records (R480), counter events (R476),
islands (R474). The block has no condition flags. -/

namespace Sys2Proof.Machine

/-! ## Completion statuses (R207) -/

namespace St
abbrev ok : Nat := 0x00
abbrev staleHandle : Nat := 0x01
abbrev notOwner : Nat := 0x02
abbrev busy : Nat := 0x03
abbrev noOffer : Nat := 0x04
abbrev notOpen : Nat := 0x05
abbrev lost : Nat := 0x06
abbrev fenced : Nat := 0x07
abbrev moved : Nat := 0x08
abbrev fencePending : Nat := 0x09
abbrev badSignature : Nat := 0x0A
abbrev noSpace : Nat := 0x0B
abbrev readOnly : Nat := 0x0C
abbrev expired : Nat := 0x20
abbrev withdrawn : Nat := 0x21
abbrev offereeFenced : Nat := 0x22
abbrev noAttend : Nat := 0x30
abbrev badDescriptor : Nat := 0x31
abbrev notHome : Nat := 0x32
abbrev uncorrectable : Nat := 0x33
abbrev tierLate : Nat := 0x34
abbrev tierFailed : Nat := 0x35
abbrev homeLost : Nat := 0x36
abbrev badLevel : Nat := 0x40
abbrev badOpcode : Nat := 0x41
abbrev badLength : Nat := 0x42
abbrev notInRole : Nat := 0x43
abbrev badOperand : Nat := 0x44
abbrev address : Nat := 0x45
abbrev absent : Nat := 0x46
abbrev notSteward : Nat := 0x47
abbrev timeout : Nat := 0x48
abbrev badGeometry : Nat := 0x49
abbrev badFormat : Nat := 0x4A
abbrev badFlags : Nat := 0x4B
abbrev staleRequest : Nat := 0x4C
abbrev notRunning : Nat := 0x4D
abbrev length : Nat := 0x4E
abbrev noReservation : Nat := 0x4F
abbrev ringFull : Nat := 0x50
abbrev notFull : Nat := 0x51
abbrev sealOrder : Nat := 0x52
abbrev notSealed : Nat := 0x53
abbrev migrateAbort : Nat := 0x54
abbrev leadMiss : Nat := 0x55
abbrev badAct : Nat := 0x56
abbrev budget : Nat := 0x57
abbrev notFound : Nat := 0x58
abbrev indexFull : Nat := 0x59
abbrev deadTarget : Nat := 0x5A
abbrev remoteNak : Nat := 0x5B
abbrev noConnection : Nat := 0x5C
abbrev stripeLost : Nat := 0x5D
end St

/-! ## Islands (R474) -/

namespace Isl
abbrev eq (n : Nat) : Nat := n
abbrev mc (m : Nat) : Nat := 4 + m
abbrev np : Nat := 10
abbrev fp : Nat := 11
abbrev hp : Nat := 12
abbrev cc : Nat := 13
abbrev ix : Nat := 14
abbrev ts : Nat := 15
abbrev nc : Nat := 16
abbrev sy : Nat := 17
end Isl

/-- Clock of an island in kHz (R26). -/
def islandKHz (i : Nat) : Nat :=
  if i < 4 then 1800000
  else if i < 10 then 1125000
  else if i = 10 ∨ i = 11 then 1600000
  else if i = 12 ∨ i = 15 then 1000000
  else if i = 13 then 1200000
  else if i = 14 then 900000
  else if i = 16 then 2000000
  else 400000

/-- The island that holds a counter unit (R474). -/
def unitIsland (u : Nat) : Nat :=
  if u < 160 then u / 40
  else if u < 256 then 4 + (u - 160) / 16
  else if u < 272 then 10
  else if u < 288 then 11
  else if u < 292 then 12
  else if u < 300 then 13
  else if u < 304 then 14
  else if u < 312 then 15
  else if u < 316 then 16
  else 17

/-- Does a source code belong to an island: its events are detected there (R475, R476). Codes 0 and 1 belong to any. -/
def codeInIsland (code island : Nat) : Bool :=
  if code ≤ 1 then true
  else if 0x010 ≤ code ∧ code ≤ 0x015 then decide (island < 4)
  else if 0x020 ≤ code ∧ code ≤ 0x025 then decide (4 ≤ island ∧ island < 10)
  else if 0x030 ≤ code ∧ code ≤ 0x036 then island == 10
  else if 0x040 ≤ code ∧ code ≤ 0x048 then island == 11
  else if 0x050 ≤ code ∧ code ≤ 0x052 then island == 12
  else if 0x060 ≤ code ∧ code ≤ 0x067 then island == 13
  else if 0x070 ≤ code ∧ code ≤ 0x073 then island == 14
  else if 0x080 ≤ code ∧ code ≤ 0x084 then island == 15
  else if 0x090 ≤ code ∧ code ≤ 0x091 then island == 16
  else if 0x0A0 ≤ code ∧ code ≤ 0x0A2 then island == 17
  else true

/-- Roles (R18). -/
abbrev rolePrompt : Nat := 0
abbrev roleGeneration : Nat := 1
abbrev roleCache : Nat := 2

end Sys2Proof.Machine
end

