-- ==== Sys2Proof/Machine/Ops.lean ====
section
/-! DEFINITION. Named operations over the state that every family uses: memory with its code, host memory,
partitions and their queues, event counting, error records, outputs, and the stop of the module
(15_resilience.md R423, 18_counters_and_errors.md R486). -/

namespace Sys2Proof.Machine

/-! ## Time -/

/-- The clock cycles of an island that begin in the nanosecond after t (R26). -/
def cyclesAt (island t : Nat) : Nat :=
  (t + 1) * islandKHz island / 1000000 - t * islandKHz island / 1000000

/-- Device time as an island's copy shows it (R29). -/
def localTime (s : State) (island : Nat) : Nat := ((s.now : Int) + AMap.getD s.islands island 0).toNat

/-! ## Memory bytes -/

/-- The byte that a memory holds at an address; an address not listed reads 0 (R449 step 6; log entry 11). -/
def memGet : Memory → Nat → Byte
  | [], _ => 0
  | (k, v) :: m, a => if k = a then v else memGet m a

/-- The memory with one byte written, in its canonical form: addresses rising, zeros not listed. -/
def memPut : Memory → Nat → Byte → Memory
  | [], a, b => if b = 0 then [] else [(a, b)]
  | (k, v) :: m, a, b =>
    if a < k then (if b = 0 then (k, v) :: m else (a, b) :: (k, v) :: m)
    else if a = k then (if b = 0 then m else (a, b) :: m)
    else (k, v) :: memPut m a b

/-- The n bytes from an address. -/
def memGetN (m : Memory) (a n : Nat) : List Byte := (List.range n).map (fun i => memGet m (a + i))

/-- The memory with bytes written from an address on. -/
def memPutN : Memory → Nat → List Byte → Memory
  | m, _, [] => m
  | m, a, b :: bs => memPutN (memPut m a b) (a + 1) bs

/-- The canonical form: addresses strictly rising and no byte 0 listed. -/
def memWf : Memory → Bool
  | [] => true
  | [(_, v)] => v != 0
  | (a, v) :: (b, w) :: m => decide (a < b) && v != 0 && memWf ((b, w) :: m)

/-! ## Composition -/

/-- The composition record in force, or one with nothing composed. -/
def compOf (s : State) : Comp := s.comp.getD {}

/-- A partition's slice (R430). -/
def sliceOf (s : State) (p : Nat) : Slice := AMap.getD (compOf s).slices p {}

/-- Is a partition composed (R429 PARTS). -/
def composed (s : State) (p : Nat) : Bool := s.comp.isSome && decide (p < 16) && bit (compOf s).parts p

/-- The module's name: domain and endpoint. -/
def me (s : State) : Nat × Nat := ((compOf s).domain, (compOf s).endpoint)

/-- The module's role (R18). -/
def roleOf (s : State) : Nat := (compOf s).role

/-- The module is ready and runs commands from outside (R473 STATE READY). -/
def ready (s : State) : Bool := s.life.sy == .ready

/-- A partition's state. -/
def partOf (s : State) (p : Nat) : Part := AMap.getD s.parts p {}

/-- The state with a partition replaced. -/
def setPart (s : State) (p : Nat) (x : Part) : State := { s with parts := AMap.insert s.parts p x }

/-- The state with a partition changed. -/
def modPart (s : State) (p : Nat) (f : Part → Part) : State := setPart s p (f (partOf s p))

/-- A partition's identity as an owner (R90). -/
def selfParty (s : State) (p : Nat) : Party := ⟨(me s).1, (me s).2, p, (partOf s p).epoch⟩

/-- A home has refused a claim of a partition's epoch with FENCED: CC_EPOCH.FENCED (R91, R120, R124). -/
def noteFenced (s : State) (p st : Nat) : State :=
  if st = St.fenced then modPart s p (fun P => { P with fenced := true }) else s

/-- A queue. -/
def queueOf (P : Part) (q : Nat) : Queue := AMap.getD P.queues q {}

/-- The partition with a queue replaced. -/
def setQueue (P : Part) (q : Nat) (x : Queue) : Part := { P with queues := AMap.insert P.queues q x }

/-- The state with a queue changed. -/
def modQueue (s : State) (p q : Nat) (f : Queue → Queue) : State :=
  modPart s p (fun P => setQueue P q (f (queueOf P q)))

/-- Channels of a slice, slot i first (R86). -/
def channelsOf (sl : Slice) : List Nat := setBits 24 sl.chMask

/-- First device address of a partition's range (R86). -/
def rangeBase (s : State) (p : Nat) : Nat := (sliceOf s p).base * 0x10000000

/-- Length of a partition's range (R87). -/
def rangeLen (s : State) (p : Nat) : Nat :=
  (channelsOf (sliceOf s p)).length * (sliceOf s p).shareSize * 0x10000000

/-- Number of request records of a partition (R64, R430). -/
def recordCount (s : State) (p : Nat) : Nat := 64 * (sliceOf s p).records

/-- First address of the request-record table, at the top of the range (R64). -/
def recordTable (s : State) (p : Nat) : Nat := rangeBase s p + rangeLen s p - 128 * recordCount s p

/-- First address of the bucket table: 2 MiB immediately below, in the prompt and generation roles (R297). -/
def bucketTable (s : State) (p : Nat) : Nat :=
  recordTable s p - (if roleOf s = roleCache then 0 else 0x200000)

/-- Do n bytes at an address lie in a partition's range. -/
def inRange (s : State) (p a n : Nat) : Bool :=
  composed s p && decide (rangeBase s p ≤ a) && decide (a + n ≤ rangeBase s p + rangeLen s p)

/-- May a partition's instructions, hosts and fabric partners use n bytes at an address: within its range and off the
request-record and bucket tables (R64, R84, R297). -/
def mayAccess (s : State) (p a n : Nat) : Bool := inRange s p a n && decide (a + n ≤ bucketTable s p)

/-- The partition whose range holds an address. -/
def rangeOwner (s : State) (a : Nat) : Option Nat := (List.range 16).find? (fun p => inRange s p a 1)

/-- Channel and channel address of a device address in a partition's range (R88, R89). -/
def channelIn (s : State) (p d : Nat) : Nat × Nat :=
  let sl := sliceOf s p
  let chans := channelsOf sl
  let n := chans.length
  if n = 0 then (0, 0) else
  let a := d - rangeBase s p
  let f := xorN (xorN (bits a 13 8) (bits a 19 14)) (xorN (bits a 25 20) (bits a 31 26))
  let i := f % n
  let ss := a / 0x4000
  let c := (i + ss) % n
  let u := ss / n
  let v := ss % n
  let m := fun (x : Nat) => (64 - x + n - 1) / n
  let before := (List.range v).foldl (fun acc j => acc + m ((c + n - j % n) % n)) 0
  let rank := f / n
  let loc := u * 64 + before + rank
  (chans.getD c 0, sl.shareBase * 0x10000000 + loc * 256 + a % 256)

/-- Channel and channel address of any DRAM address: allocatable (R89) or check region (R387). An allocatable address that
lies in no partition's range has no channel by R89; the model takes channel 0 at the address (DESIGN CHOICE, log entry 91). -/
def channelOf (s : State) (d : Nat) : Nat × Nat :=
  if 0x2A00000000 ≤ d ∧ d < 0x3000000000 then
    (d / 0x40000000 - 168, 0x1C0000000 + d % 0x40000000)
  else
    match rangeOwner s d with
    | some p => channelIn s p d
    | none => (0, d)

/-- Device address of a private offset (R388, R389). -/
def privateAddr (off : Nat) : Nat :=
  0x2A00000000 + off / 256 % 24 * 0x40000000 + 0x38000000 + off / 256 / 24 * 256 + off % 256

/-- The private offset of a device address of the check region; none in the check units and the reserved 32 KiB (R388,
R389). -/
def privateOffset (d : Nat) : Option Nat :=
  let x := d % 0x40000000
  if 0x2A00000000 ≤ d ∧ d < 0x3000000000 ∧ 0x38000000 ≤ x ∧ x < 0x3F1C0000 then
    some (((x - 0x38000000) / 256 * 24 + (d / 0x40000000 - 168)) * 256 + d % 256)
  else none

/-! ## Outputs -/

/-- The state with an output added. -/
def emitOut (s : State) (o : Out) : State := { s with out := s.out ++ [o] }

/-- The state with a fresh free value drawn. -/
def draw (s : State) : State := { s with freeCtr := s.freeCtr + 1 }

/-- Partitions with a virtual function in group g, ascending (R436). -/
def vfsOf (s : State) (g : Nat) : List Nat :=
  (List.range 16).filter (fun p => composed s p && (sliceOf s p).vf && (sliceOf s p).hostFn == g)

/-- Index of a partition's virtual function within its group, from 1; 0 without one (R436, R502). -/
def vfIndex (s : State) (p : Nat) : Nat :=
  if composed s p && (sliceOf s p).vf then (vfsOf s (sliceOf s p).hostFn).findIdx (· == p) + 1 else 0

/-- Number of host links (R429 BIFURCATION). -/
def hostLinks (s : State) : Nat :=
  match (compOf s).bifurcation with
  | 0 => 1
  | 1 => 2
  | _ => 4

/-- Is a function group's host link up. -/
def linkUp (s : State) (g : Nat) : Bool := s.power.links.contains g

/-- The functions of a group as its host has configured them. -/
def hostFnOf (s : State) (g : Nat) : HostFn := AMap.getD s.power.fns g {}

/-- Has the host enabled a partition's virtual function: VF Enable is set and NumVFs reaches it (R436). -/
def vfEnabled (s : State) (p : Nat) : Bool :=
  let f := hostFnOf s (sliceOf s p).hostFn
  f.vfEnable && decide (1 ≤ vfIndex s p ∧ vfIndex s p ≤ f.numVfs)

/-- Raise an MSI-X vector of a partition's virtual function once it is enabled (R435, R436); a link that is down carries none
(R438, R522). -/
def raiseVf (s : State) (p vector : Nat) : State :=
  if vfEnabled s p && linkUp s (sliceOf s p).hostFn then
    emitOut s (.msix (sliceOf s p).hostFn (some (vfIndex s p)) vector)
  else s

/-- Raise a vector of every physical function whose link is up (R485, R522). -/
def raisePfs (s : State) (vector : Nat) : State :=
  ((List.range (hostLinks s)).filter (linkUp s)).foldl (fun s g => emitOut s (.msix g none vector)) s

/-! ## Counting events (R475, R476) -/

/-- Counter i of a list of values advanced by n, modulo 2^48, with its WRAPPED bit. -/
def bumpAt (u : Unit) (i n : Nat) : Unit :=
  let v := u.value.getD i 0 + n
  { u with value := u.value.set i (v % 2 ^ 48)
           wrapped := if 2 ^ 48 ≤ v then putBit u.wrapped i true else u.wrapped }

/-- A unit of an island after n events of a source (R475). -/
def unitCount (island code : Nat) (inst part : Option Nat) (n : Nat) (u : Unit) : Unit :=
  let instOk := u.instance_ == 31 || inst.isNone || inst == some u.instance_
  let partOk := !u.filter || part == some u.part
  if instOk && partOk && codeInIsland code island then
    [0, 1, 2, 3].foldl (fun u i => if bit u.enable i && u.src.getD i 0 == code then bumpAt u i n else u) u
  else u

/-- n events of a source in an island, of an instance and attributed to a partition where the table says so (R476). -/
def countEv (s : State) (island code : Nat) (inst part : Option Nat) (n : Nat := 1) : State :=
  { s with counters := { s.counters with
      units := s.counters.units.map
        (fun e => (e.1, if unitIsland e.1 = island then unitCount island code inst part n e.2 else e.2)) } }

/-! ## Host memory -/

/-- A group's host memory with the writes that still wait at the host port: a read does not pass the device's own posted
writes (R180, R306). -/
def hostView (s : State) (g : Nat) : Memory :=
  ((AMap.getD s.shaper.ports 32 {}).frames).foldl (fun m f => match f.frame.what with
    | .tlp h a bs => if h = g then memPutN m a bs else m
    | _ => m) (AMap.getD s.host g [])

/-- n bytes of a group's host memory; none while its link is down (R438). -/
def hostRead (s : State) (g a n : Nat) : Option (List Byte) :=
  if linkUp s g then some (memGetN (hostView s g) a n) else none

/-- A write into a group's host memory; none while its link is down (log entry 10). -/
def hostWrite (s : State) (g a : Nat) (bs : List Byte) : Option State :=
  if linkUp s g then
    some { s with host := AMap.insert s.host g (memPutN (AMap.getD s.host g []) a bs) }
  else none

/-- A write packet of control traffic, which no meter, gate, arbiter or regulator holds at the host port: it leaves at once
(R306, R321; log entry 128). -/
def hostPost (s : State) (g a : Nat) (bs : List Byte) : Option State :=
  (hostWrite s g a bs).map (fun s => emitOut (countEv s Isl.hp 0x050 (some g) none) (.tlp g a bs))

/-- Counts a TLP of a function's access that the host port receives (R476). -/
def hostTlp (s : State) : Accessor → State
  | .pf g => countEv s Isl.hp 0x051 (some g) none
  | .vf p => countEv s Isl.hp 0x051 (some (sliceOf s p).hostFn) none
  | _ => s

/-! ## The device error log -/

/-- A record written to the device error log (R485). -/
def errToLog (s : State) (r : ErrRec) : State × Nat :=
  let c := s.counters
  let seq := c.prod % 2 ^ 16
  let r' := { r with seq := seq, chain := if r.nested then r.chain else seq }
  let full := 1024 ≤ (c.prod + 2 ^ 32 - c.cons) % 2 ^ 32
  let s1 := { s with counters := { c with
    log := (r' :: c.log).take 1024, prod := (c.prod + 1) % 2 ^ 32,
    overwritten := if full then (c.overwritten + 1) % 2 ^ 32 else c.overwritten } }
  let s2 := if full then countEv s1 Isl.sy 0x0A2 none none else s1
  (countEv (raisePfs s2 0) Isl.sy 0x0A0 none (some r.part), seq)

/-! ## The service record -/

/-- Types of logbook entries (R465). -/
abbrev etStart : Nat := 0x01
abbrev etShutdown : Nat := 0x02
abbrev etPeriodic : Nat := 0x03
abbrev etSpare : Nat := 0x04
abbrev etFirmware : Nat := 0x05
abbrev etSanitise : Nat := 0x06
abbrev etTenant : Nat := 0x07
abbrev etCompose : Nat := 0x08
abbrev etRecert : Nat := 0x09
abbrev etFault : Nat := 0x0A

/-- Bytes of the service-record area (R448). -/
abbrev logArea : Nat := 0x4000000

/-- Bytes of an entry (R464). -/
def entryLength (body : List Byte) : Nat := 0x50 + body.length + 96

/-- An entry as bytes: header, body and signature (R464). -/
def entryBytes (e : LogEntry) : List Byte :=
  toLe 8 (e.etype % 2 ^ 16 + 1 * 2 ^ 16 + flag e.timeValid * 2 ^ 20 + entryLength e.body % 2 ^ 32 * 2 ^ 32)
    ++ toLe 8 e.seq ++ toLe 8 e.time ++ toLe 8 (e.minutes % 2 ^ 32) ++ e.prev ++ e.body ++ toLe 96 e.signature

/-- SHA-384 of the newest entry, zeros where there is none (R464 PREV, R459). -/
def logHead (s : State) : List Byte :=
  match s.flash.logbook with
  | [] => List.replicate 48 0
  | e :: _ => sha384 (entryBytes e)

/-- An entry appended to the service record, linked to the one before it and signed (log entry 12). PERIODIC and TENANT
entries need 1 MiB of room, the others room for themselves; an entry without room is dropped and counted (R464, R466). -/
def logService (s : State) (etype : Nat) (body : List Byte) : State :=
  let f := s.flash
  let body := padTo (alignUp body.length 16) 0 body
  let left := logArea - f.roomUsed
  if left < entryLength body ∨ ((etype = etPeriodic ∨ etype = etTenant) ∧ left < 0x100000) then
    { s with flash := { f with dropped := f.dropped + 1 } }
  else
    let e : LogEntry := { etype := etype, timeValid := s.life.timeValid, seq := f.nextSeq, time := s.now
                          minutes := f.poweredNs / 60000000000, prev := logHead s, body := body
                          signature := Config.freeWord s.freeCtr }
    draw { s with flash := { f with logbook := e :: f.logbook, nextSeq := f.nextSeq + 1
                                    roomUsed := f.roomUsed + entryLength body } }

/-- A SPARE entry (R465): kind, unit and index. -/
def logSpare (s : State) (kind unit index : Nat) : State :=
  logService s etSpare (toLe 16 (kind % 16 + unit % 256 * 2 ^ 8 + index % 2 ^ 16 * 2 ^ 16))

/-! ## DRAM with its code (R390 to R396) -/

/-- A channel's state. -/
def chan (s : State) (c : Nat) : Channel := AMap.getD s.mem.channels c {}

/-- The state with a channel changed. -/
def modChan (s : State) (c : Nat) (f : Channel → Channel) : State :=
  { s with mem := { s.mem with channels := AMap.insert s.mem.channels c (f (chan s c)) } }

/-- W mod 8 of the code word at a channel address (R391). -/
def wordMod8 (chaddr : Nat) : Nat := chaddr / 16 % 8

/-- Granule index of the code word at a channel address, and where the check units of its area begin (R388, R391). -/
def checkPlace (chaddr : Nat) : Nat × Nat :=
  if chaddr < 0x1F8000000 then (chaddr / 256, 0x1C0000000) else ((chaddr - 0x1F8000000) / 256, 0x1FF1C0000)

/-- Channel address of the check unit of the code word at a channel address (R391). -/
def checkUnit (chaddr : Nat) : Nat :=
  (checkPlace chaddr).2 + (16 * (checkPlace chaddr).1 + chaddr % 256 / 16) / 8 * 16

/-- The stored symbol errors of the code word at a device address that is a multiple of 16 (log entry 18). -/
def storedErrors (s : State) (a : Nat) : WordError := AMap.getD s.mem.errors (a / 16) []

/-- The check nibbles that stand with the word at a: those of its data, with the errors stored on them (R392; log entry 18). -/
def storedChecks (s : State) (a : Nat) : List Nat :=
  (encodeWord (memGetN s.mem.dram a 16)).zipIdx.map (fun e =>
    (storedErrors s a).foldl (fun v x => if x.1 = 32 + e.2 then xorN v x.2 else v) e.1)

/-- What the controller makes of the word at a, with further errors put on it by the pins in this access. -/
def decodeAt (s : State) (a : Nat) (noise : WordError) : Decoded :=
  let es := addErrors (storedErrors s a) noise
  if es.isEmpty then .good
  else
    let c := channelOf s a
    decodeWord (syndrome es) (wordMod8 c.2) (chan s c.1).retired

/-- A device's error counts changed. -/
def modDev (s : State) (d : Nat) (f : DevErr → DevErr) : State :=
  { s with mem := { s.mem with devErr := AMap.modify s.mem.devErr d {} f } }

/-- A corrected symbol counted against its pin: the device's counts, retirement of the channel's first pin that comes to
RETIRE_LIMIT, and a record each time that another one reaches it (R394, R404). -/
def countCorrection (s : State) (c pin : Nat) : State :=
  let d := 2 * c + pin / 16
  let s1 := countEv (modDev s d (fun e => { e with corrected := (e.corrected + 1) % 2 ^ 32, lastPin := pin }))
    (Isl.mc (c / 4)) 0x022 (some (c % 4)) none
  let n := AMap.getD (chan s1 c).counts pin 0 + 1
  let s2 := modChan s1 c (fun x => { x with counts := AMap.insert x.counts pin n })
  let x := chan s2 c
  if s.mem.retireLimit = 0 ∨ n < s.mem.retireLimit then s2
  else
    match x.retired with
    | none =>
      let s3 := modChan s2 c (fun x => { x with retired := some pin })
      logSpare { s3 with flash := { s3.flash with retired := AMap.insert s3.flash.retired c pin } } 6 c pin
    | some p =>
      if p = pin ∨ (n ≠ s.mem.retireLimit ∧ x.second.isSome) then s2
      else
        (errToLog (modChan s2 c (fun x => { x with second := some pin }))
          { code := 0x08, detail := c + 32 * pin, time := s.now }).1

/-- The corrections that decoding a word made, counted against its channel. -/
def countWord (s : State) (a : Nat) (noise : WordError) : State :=
  match decodeAt s a noise with
  | .corrected es =>
    let c := channelOf s a
    es.foldl (fun s e => countCorrection s c.1 (pinOf (wordMod8 c.2) e.1)) s
  | _ => s

/-- Addresses of the code words that n bytes at a touch. -/
def wordsOf (a n : Nat) : List Nat :=
  if n = 0 then [] else (List.range ((a + n - 1) / 16 - a / 16 + 1)).map (fun i => (a / 16 + i) * 16)

/-- Accesses to the channels of n bytes whose data passed its CRC: they end a run of exhausted retries (R397). -/
def endRuns (s : State) (a n : Nat) : State :=
  if s.mem.channels.all (fun e => e.2.crcRun == 0) then s
  else (((wordsOf a n).map (· / 256)).eraseDups.filter (· < 0x30000000)).foldl (fun s g =>
    modChan s (channelOf s (256 * g)).1 (fun x => { x with crcRun := 0 })) s

/-- Reads of n bytes that the code could deliver: their corrections count, and they end runs of exhausted retries (R394,
R397). -/
def tookRead (s : State) (a n : Nat) : State :=
  endRuns (if s.mem.errors.isEmpty then s else (wordsOf a n).foldl (fun s w => countWord s w []) s) a n

/-- One byte of DRAM as it stands; a free value where the contents are undefined (R209). -/
def rawByte (m : Mem) (a : Nat) : Byte :=
  match m.undef.find? (fun u => decide (u.start ≤ a ∧ a < u.start + u.len)) with
  | some u => Config.freeByte u.serial a
  | none => memGet m.dram a

/-- The n bytes of DRAM from an address. -/
def rawBytes (m : Mem) (a n : Nat) : List Byte :=
  if m.undef.isEmpty then memGetN m.dram a n else (List.range n).map (fun i => rawByte m (a + i))

/-- A region without the bytes of another. -/
def carve (u : Undef) (a n : Nat) : List Undef :=
  if a + n ≤ u.start ∨ u.start + u.len ≤ a then [u]
  else
    (if u.start < a then [{ u with len := a - u.start }] else [])
    ++ (if a + n < u.start + u.len then [{ u with start := a + n, len := u.start + u.len - (a + n) }] else [])

/-- DRAM with bytes written: their contents are defined again. -/
def putRaw (m : Mem) (a : Nat) (bs : List Byte) : Mem :=
  { m with dram := memPutN m.dram a bs, undef := (m.undef.map (fun u => carve u a bs.length)).flatten }

/-- The state in which n bytes from an address are undefined (R209). -/
def makeUndef (s : State) (a n : Nat) : State :=
  if n = 0 then s
  else draw { s with mem := { s.mem with undef := ⟨a, n, s.freeCtr⟩ :: s.mem.undef } }

/-- The 16 bytes that the controller delivers for the word at a; none where it is uncorrectable (R393). -/
def wordBytes (s : State) (a : Nat) (noise : WordError) : Option (List Byte) :=
  let raw := rawBytes s.mem a 16
  match decodeAt s a noise with
  | .good => some raw
  | .corrected fs => some (applyErrors raw (addErrors (addErrors (storedErrors s a) noise) fs))
  | .uncorrectable => none

/-- Device bytes read through the code; none where a word is uncorrectable (R396). -/
def devRead (s : State) (a n : Nat) : Option (List Byte) :=
  if s.mem.errors.isEmpty then some (rawBytes s.mem a n)
  else
    let ws := (wordsOf a n).map (fun w => wordBytes s w [])
    if ws.any (·.isNone) then none
    else some (((ws.map (·.getD [])).flatten.drop (a % 16)).take n)

/-- Words touched by n bytes at a that are uncorrectable as they stand. -/
def badWords (s : State) (a n : Nat) : List Nat :=
  if s.mem.errors.isEmpty then [] else (wordsOf a n).filter (fun w => decodeAt s w [] == .uncorrectable)

/-- An 8-byte word of device memory; 0 where it is uncorrectable (callers check badWords). -/
def devWord (s : State) (a : Nat) : Nat := fromLe ((devRead s a 8).getD [])

/-- Injected errors of R405 for the first whole word of a write. -/
def injected (i : Inject) : WordError :=
  addErrors [(min i.symbol 35, if i.value = 0 then 1 else i.value)]
    (if i.value2 = 0 then [] else [(min i.symbol2 35, i.value2)])

/-- A whole word stored at w, in whatever table it lies: its stored errors are gone, or an armed injection for its channel
takes their place (R395, R405). -/
def storeWord (s : State) (w : Nat) : State :=
  let inj := s.mem.inject
  let hit := inj.armed && min inj.channel 23 == (channelOf s w).1
  { s with mem := { s.mem with
      errors := if hit then AMap.insert s.mem.errors (w / 16) (injected inj) else AMap.erase s.mem.errors (w / 16)
      inject := if hit then { inj with armed := false } else inj } }

/-- The words of a private record written anew. -/
def rewriteWords (s : State) (a n : Nat) : State := (wordsOf a n).foldl storeWord s

/-- The write of bytes that lie within one code word at w, from offset off: a whole word clears its errors, a part of
a correctable word is merged into the corrected word, a part of an uncorrectable word is not applied (R395). -/
def writeWord (s : State) (w off : Nat) (bs : List Byte) : State × Bool :=
  if bs.length = 16 then (storeWord { s with mem := putRaw s.mem w bs } w, true)
  else
    match wordBytes s w [] with
    | none => (s, false)
    | some old =>
      let base := if (storedErrors s w).isEmpty then s.mem else putRaw s.mem w old
      let s1 := countWord s w []
      ({ s1 with mem := { s1.mem with dram := (putRaw base (w + off) bs).dram, undef := (putRaw base (w + off) bs).undef
                                      errors := AMap.erase s.mem.errors (w / 16) } }, true)

/-- Bytes written word by word; the answer says whether every word took its bytes. -/
def devWriteWords : State → Nat → List Byte → List Nat → State × Bool
  | s, _, _, [] => (s, true)
  | s, a, bs, w :: ws =>
    let lo := max a w
    let hi := min (a + bs.length) (w + 16)
    let r := writeWord s w (lo - w) ((bs.drop (lo - a)).take (hi - lo))
    let r' := devWriteWords r.1 a bs ws
    (r'.1, r.2 && r'.2)

/-- Bytes written to device memory: the answer is false when a part-written word was uncorrectable (R395). -/
def devWrite (s : State) (a : Nat) (bs : List Byte) : State × Bool :=
  let s := endRuns s a bs.length
  if s.mem.errors.isEmpty && !s.mem.inject.armed then
    ({ s with mem := putRaw s.mem a bs }, true)
  else devWriteWords s a bs (wordsOf a bs.length)

/-- Bytes written, whatever the words said. -/
def devPut (s : State) (a : Nat) (bs : List Byte) : State := (devWrite s a bs).1

/-! ## Rings in device or host memory -/

/-- A read of a ring or record that lies in a group's host memory or in the partition's range. -/
def ringRead (s : State) (p : Nat) (host : Bool) (g a n : Nat) : Option (List Byte) :=
  if host then hostRead s g a n else if inRange s p a n then devRead s a n else none

/-- A write to such a ring; none where it cannot complete (log entry 22). -/
def ringWrite (s : State) (p : Nat) (host : Bool) (g a : Nat) (bs : List Byte) : Option State :=
  if host then hostPost s g a bs
  else if inRange s p a bs.length then
    let r := devWrite s a bs
    if r.2 then some r.1 else none
  else none

/-! ## Error records (R479 to R485) -/

/-- A value held between bounds. -/
def clampN (lo hi v : Nat) : Nat := max lo (min hi v)

/-- The 32 bytes of an error record with its ring's TAG (R479). -/
def errBytes (r : ErrRec) (tag : Nat) : List Byte :=
  toLe 8 (r.code + r.level * 2 ^ 8 + flag r.nested * 2 ^ 11 + r.part % 16 * 2 ^ 12 + r.queue.getD 0 % 64 * 2 ^ 16
    + flag r.queue.isSome * 2 ^ 22 + flag r.req.isSome * 2 ^ 23 + r.status % 256 * 2 ^ 24
    + r.detail % 2 ^ 24 * 2 ^ 32 + tag % 256 * 2 ^ 56)
  ++ toLe 8 r.time ++ toLe 8 r.address
  ++ toLe 8 ((r.req.getD (0, 0)).1 % 2 ^ 20 + (r.req.getD (0, 0)).2 % 2 ^ 12 * 2 ^ 20 + r.seq % 2 ^ 16 * 2 ^ 32
    + r.chain % 2 ^ 16 * 2 ^ 48)

/-- TAG of record j in a ring of n records (R206, R479). -/
def ringTag (j n : Nat) : Nat := (j / n + 1) % 256

/-- The state with a partition's error queue changed. -/
def modErrq (s : State) (p : Nat) (f : ErrQueue → ErrQueue) : State :=
  modPart s p (fun P => { P with errq := f P.errq })

/-- A record lost: OVERFLOW counts it (R483). -/
def errLost (s : State) (p : Nat) : State :=
  countEv (modErrq s p (fun e => { e with overflow := (e.overflow + 1) % 2 ^ 32 })) Isl.sy 0x0A1 none (some p)

/-- A record written to a partition's error record queue: the state, its SEQ where written, and whether the write
could not complete (R481, R483). SEQ is the record's index modulo 2^16. -/
def errToPart (s : State) (p : Nat) (r : ErrRec) : State × Option Nat × Bool :=
  let e := (partOf s p).errq
  let n := 2 ^ clampN 6 16 e.sizeLog2
  let seq := e.prod % 2 ^ 16
  let r' := { r with seq := seq, chain := if r.nested then r.chain else seq }
  if !e.enable || (e.prod + 2 ^ 32 - e.cons) % 2 ^ 32 == n then (errLost s p, none, false)
  else
    match ringWrite s p e.host e.hostFn (e.base + e.prod % n * 32) (errBytes r' (ringTag e.prod n)) with
    | none => (errLost s p, none, true)
    | some s1 =>
      let s2 := modErrq s1 p (fun e => { e with prod := (e.prod + 1) % 2 ^ 32 })
      (countEv (raiseVf s2 p 64) Isl.sy 0x0A0 none (some p), some seq, false)

/-- The handling in progress for a context (R424). -/
def handlingOf (s : State) (ctx : ErrContext) : Option Handling :=
  s.counters.handling.find? (fun h => h.ctx == ctx)

/-- An error of level 0 without a record of its own that is being handled: an instruction whose work ended with an error before
now and whose completion record is not written (R424). -/
def quietHandling (s : State) : ErrContext → Option Handling
  | .instr w =>
    match (queueOf (partOf s w.part) w.queue).issued.find? (fun i => i.idx == w.idx) with
    | some i =>
      if i.status.any (· != St.ok) && decide (i.doneAt < s.now) then some ⟨.instr w, 0, 0, i.doneAt, false, some w.part, 0, false, none⟩
      else none
    | none => none
  | _ => none

/-- The error of a context that is being handled, with or without a record of its own (R424). -/
def handlingIn (s : State) (ctx : ErrContext) : Option Handling := (handlingOf s ctx).orElse (fun _ => quietHandling s ctx)

/-- The handling of a context ends: its containment action is complete (R424). One whose record could not be written
stays, and escalates (R426). -/
def handled (s : State) (ctx : ErrContext) : State :=
  { s with counters := { s.counters with
      handling := s.counters.handling.filter (fun h => h.ctx != ctx || h.broken) } }

/-- The handling of a context takes a new value. -/
def setHandling (s : State) (h : Handling) : State :=
  { s with counters := { s.counters with handling := s.counters.handling.filter (fun x => x.ctx != h.ctx) ++ [h] } }

/-- A record written to its destinations: the partition's queue, the log, or both (R481). The answer holds the SEQ
that a chained record names and whether a write could not complete. -/
def errWrite (s : State) (toPart : Option Nat) (toLog : Bool) (r : ErrRec) : State × Nat × Bool :=
  let a := match toPart with
    | some p => errToPart s p r
    | none => (s, none, false)
  if toLog then
    let b := errToLog a.1 r
    (b.1, a.2.1.getD b.2, a.2.2)
  else (a.1, a.2.1.getD 0, a.2.2)

/-- Report an error: written, or chained to the error that its context is already handling (R424, R425, R484). -/
def report (s : State) (ctx : Option ErrContext) (toPart : Option Nat) (toLog : Bool) (r : ErrRec) : State :=
  let r := { r with time := s.now }
  match ctx with
  | none => (errWrite s toPart toLog r).1
  | some c =>
    match handlingIn s c with
    | some h =>
      if 8 ≤ h.chained then
        match h.toPart with
        | some p => errLost s p
        | none => s
      else
        let w := errWrite s h.toPart h.toLog { r with nested := true, chain := h.seq }
        setHandling w.1 { h with chained := h.chained + 1, broken := h.broken || w.2.2, level := max h.level r.level }
    | none =>
      let w := errWrite s toPart toLog r
      { w.1 with counters := { w.1.counters with
          handling := w.1.counters.handling ++ [⟨c, r.level, w.2.1, s.now, toLog, toPart, 0, w.2.2, none⟩] } }

/-- A violation (R444): code 0x03 with the address and the path it came by. -/
def violation (s : State) (toPart : Option Nat) (path : Nat) (src : Nat × Nat) (addr : Nat)
    (ctx : Option ErrContext := none) (queue : Option Nat := none) (status : Nat := 0) : State :=
  report s ctx toPart toPart.isNone
    { code := 0x03, part := toPart.getD 0, queue := queue, status := status, address := addr
      detail := path % 4 + (src.1 * 1024 + src.2) % 2 ^ 22 * 4 }

/-! ## Uncorrectable words (R393, R396) -/

/-- Syndrome as R480 lays it in DETAIL of code 0x06. -/
def syndromeDetail (c : Nat) (v : Col) : Nat := c + (v.a + 16 * v.b + 256 * v.c + 4096 * v.d) * 32

/-- An uncorrectable word met by a reader: the error record, the counts of both devices of the channel (R396). The
record goes to the reader's partition, or to the log for the scrubber and the private tables. -/
def uncorrectableAt (s : State) (a : Nat) (noise : WordError) (part : Option Nat) (ctx : Option ErrContext)
    (queue : Option Nat) : State :=
  let c := channelOf s a
  let v := syndrome (addErrors (storedErrors s a) noise)
  let bump := fun (e : DevErr) => { e with uncorr := min 0xFFFF (e.uncorr + 1) }
  let s1 := modDev (modDev s (2 * c.1) bump) (2 * c.1 + 1) bump
  let s2 := countEv s1 (Isl.mc (c.1 / 4)) 0x023 (some (c.1 % 4)) none
  let s3 := { s2 with life := { s2.life with uncorrWin := s2.life.uncorrWin + 1 } }
  report s3 ctx part part.isNone
    { code := 0x06, part := part.getD 0, queue := queue, status := St.uncorrectable, address := c.2
      detail := syndromeDetail c.1 v }

/-! ## The module stops (R423, R486) -/

/-- Encoding of SY_STATE.STATE (R473). -/
def syCode : SyState → Nat
  | .boot => 0
  | .test => 1
  | .ready => 2
  | .shutdown => 3
  | .stopped => 4
  | .sanitising => 5

/-- SY_STATE (R473). -/
def syStateWord (s : State) : Nat :=
  syCode s.life.sy + flag s.life.quick * 2 ^ 3 + s.life.fail % 16 * 2 ^ 8 + s.life.cause % 16 * 2 ^ 12

/-- The final record (R486): trigger is the code 0x15 record with its cause. -/
def finalRecord (s : State) (cause : Nat) : List Byte :=
  let trigger := errBytes { code := 0x15, level := 4, detail := cause, time := s.now } 0
  let newest := s.counters.prod - 1
  let last := (List.range 6).map (fun i =>
    match s.counters.log[i]? with
    | some r => errBytes r (ringTag (newest - i) 1024)
    | none => List.replicate 32 0)
  toLe 8 (0x4B464E4C + (s.flash.stops + 1) % 2 ^ 32 * 2 ^ 32) ++ toLe 8 s.now ++ toLe 8 (syStateWord s) ++ toLe 8 newest
    ++ trigger ++ last.flatten

/-- The contacts and ports as they are in reset: no partner, no host link, lasers off (R423). -/
def quietPorts (s : State) : State :=
  { s with
    poltex := { s.poltex with ports := s.poltex.ports.map (fun e => (e.1, { e.2 with state := .noPartner, width := 0, level := 0 })) }
    tlaley := { s.tlaley with ports := s.tlaley.ports.map (fun e => (e.1, { e.2 with state := .noPartner, prbs := false })) }
    power := { s.power with links := [], fns := [] }
    life := { s.life with lasers := false } }

/-- MODULE_STOP: the final record goes to flash where it can be written, every island but SY is held in reset (R423). -/
def stopModule (s : State) (cause : Nat) : State :=
  let f := s.flash
  let f1 := if Config.finalRecordKept s.freeCtr then { f with finals := (finalRecord s cause :: f.finals).take 16384, stops := f.stops + 1, finalSeen := false }
    else f
  let s1 := draw { s with flash := f1 }
  quietPorts { s1 with life := { s1.life with sy := .stopped } }

/-! ## Channel failure (R397) -/

/-- An access to a channel noted: whether it met an uncorrectable word and whether its CRC retries were exhausted. The
module stops after more than 64 of the first in 1 ms, or 16 consecutive of the second (R397). -/
def noteAccess (s : State) (c : Nat) (uncorr exhausted : Bool) : State :=
  let s1 := modChan s c (fun x => { x with
    uncorr := (if uncorr then [s.now] else []) ++ x.uncorr.filter (fun t => decide (s.now < t + 1000000))
    crcRun := if exhausted then x.crcRun + 1 else 0 })
  let x := chan s1 c
  if (64 < x.uncorr.length ∨ 16 ≤ x.crcRun) ∧ s1.life.sy ≠ .stopped then stopModule s1 1 else s1

/-- What a read of n bytes meets, noted: every uncorrectable word is recorded, every correction counted (R394, R396, R397). -/
def noteRead (s : State) (a n : Nat) (part : Option Nat) (ctx : Option ErrContext) (queue : Option Nat) : State :=
  let bad := badWords s a n
  let s1 := bad.foldl (fun s w => uncorrectableAt s w [] part ctx queue) (tookRead s a n)
  ((bad.map (fun w => w / 256)).eraseDups).foldl (fun s g => noteAccess s (channelOf s (256 * g)).1 true false) s1

end Sys2Proof.Machine
end

