-- ==== Sys2Proof/Machine/Operands.lean ====
section
/-! DEFINITION. The instruction word (R194, R195), the opcode tables (R211 to R224) and the checks that the device
makes at issue (R196). -/

namespace Sys2Proof.Machine

/-! ## Fields of the words -/

/-- 8-byte word i of an instruction; 0 where it has no such word. -/
def wordAt (ws : List Nat) (i : Nat) : Nat := ws.getD i 0

def opcodeOf (ws : List Nat) : Nat := bits (wordAt ws 0) 7 0
def levelOf (ws : List Nat) : Nat := bits (wordAt ws 0) 11 8
def lenOf (ws : List Nat) : Nat := bits (wordAt ws 0) 15 12
def waitOf (ws : List Nat) : Nat := bits (wordAt ws 0) 19 16
def signalOf (ws : List Nat) : Nat := bits (wordAt ws 0) 23 20
def cplOf (ws : List Nat) : Bool := bit (wordAt ws 0) 31

/-- Opcode flag by its bit number in the base word, 24 to 30. -/
def flagOf (ws : List Nat) (i : Nat) : Bool := bit (wordAt ws 0) i

/-- Operand A, bits [31:0]. -/
def opA (ws : List Nat) : Nat := bits (wordAt ws 0) 63 32

/-- Operand B. -/
def opB (ws : List Nat) : Nat := wordAt ws 1

/-- A device address in operand B: bits [47:0] (R195). -/
def addrB (ws : List Nat) : Nat := bits (wordAt ws 1) 47 0

/-- Extension word k, from 1: its bytes 0–7 and 8–15. -/
def extLo (ws : List Nat) (k : Nat) : Nat := wordAt ws (2 * k)
def extHi (ws : List Nat) (k : Nat) : Nat := wordAt ws (2 * k + 1)

/-- A device address in an extension word: bits [47:0]. -/
def extAddr (ws : List Nat) (k : Nat) : Nat := bits (extLo ws k) 47 0

/-- Request reference in operand A: INDEX and RGEN (R195). -/
def reqIndex (ws : List Nat) : Nat := bits (opA ws) 19 0
def reqGen (ws : List Nat) : Nat := bits (opA ws) 31 20

/-- A party in its 8-byte format (R195). -/
def partyOfWord (w : Nat) : Party := ⟨bits w 11 0, bits w 21 12, bits w 25 22, bits w 63 32⟩

/-- Traffic class of the Fabric and Remote groups: flags [30:28], 0 selects TC7 (R210). -/
def classOf (ws : List Nat) : Nat :=
  let c := bits (wordAt ws 0) 30 28
  if c = 0 then 7 else c

/-! ## The opcode tables -/

/-- Words of an opcode: LEN without and with flag 24, for the assigned opcodes (R211 to R224). -/
def opLen (op : Nat) : Option (Nat × Nat) :=
  if op ≤ 0x06 then some (1, 1)
  else if op = 0x10 ∨ op = 0x12 ∨ op = 0x14 ∨ op = 0x15 ∨ op = 0x16 then some (1, 2)
  else if op = 0x11 ∨ op = 0x18 then some (1, 1)
  else if op = 0x13 then some (2, 3)
  else if op = 0x17 then some (2, 2)
  else if 0x20 ≤ op ∧ op ≤ 0x22 then some (1, 1)
  else if 0x30 ≤ op ∧ op ≤ 0x36 then some (1, 1)
  else if op = 0x40 ∨ op = 0x41 then some (1, 1)
  else if op = 0x42 ∨ op = 0x50 then some (2, 2)
  else if 0x51 ≤ op ∧ op ≤ 0x54 then some (1, 1)
  else if 0x60 ≤ op ∧ op ≤ 0x63 then some (2, 2)
  else if 0x70 ≤ op ∧ op ≤ 0x72 then some (2, 2)
  else if op = 0x73 ∨ op = 0x74 then some (1, 1)
  else if 0x80 ≤ op ∧ op ≤ 0x82 then some (1, 1)
  else if 0x90 ≤ op ∧ op ≤ 0x92 then some (1, 1)
  else none

/-- Is an instruction of restart class (R208 and the Class column); the others drain. -/
def restartClass (ws : List Nat) : Bool :=
  let op := opcodeOf ws
  if op ≤ 0x06 then true
  else if op = 0x16 then true
  else if 0x20 ≤ op ∧ op ≤ 0x22 then true
  else if op = 0x41 then !flagOf ws 24
  else if op = 0x42 ∨ op = 0x50 ∨ op = 0x54 ∨ op = 0x60 ∨ op = 0x71 ∨ op = 0x81 ∨ op = 0x82 then true
  else false

/-- Does a role execute an opcode (R20). -/
def roleRuns (role op : Nat) : Bool :=
  let g := op / 16
  if g = 2 then role == roleGeneration || role == roleCache
  else if g = 3 then role == roleGeneration || (role == rolePrompt && (op == 0x35 || op == 0x36))
  else if g = 8 then role == roleCache || op == 0x80 || op == 0x82
  else if g = 9 then role == rolePrompt || role == roleGeneration
  else true

/-- Is an instruction an issue barrier of queue q (R198). -/
def issueBarrier (q : Nat) (ws : List Nat) : Bool :=
  let op := opcodeOf ws
  op == 0x01 || op == 0x02 || op == 0x04 || (op == 0x06 && bits (opA ws) 5 0 == q)

/-! ## Geometry (R49 to R51) -/

/-- T, H_kv, d, element bytes of a geometry entry; none when a code is reserved. -/
def geomShape (g : Geom) : Option (Nat × Nat × Nat × Nat) :=
  if g.tCode = 3 ∨ g.format = 3 ∨ g.hkvLog2 = 7 ∨ g.dCode = 3 then none
  else some (16 * 2 ^ g.tCode, 2 ^ g.hkvLog2, 64 * 2 ^ g.dCode, if g.format = 0 then 2 else 1)

/-- S of R49. -/
def blockBytes (sh : Nat × Nat × Nat × Nat) : Nat := sh.1 * sh.2.1 * sh.2.2.1 * 2 * sh.2.2.2

/-- Does a geometry give a size from 16 KiB to 1 MiB; S is a product of powers of two. -/
def geomFits (g : Geom) : Bool :=
  match geomShape g with
  | none => false
  | some sh => decide (0x4000 ≤ blockBytes sh ∧ blockBytes sh ≤ 0x100000)

/-- BAD of EQ_GEOM (R50). -/
def geomBad (g : Geom) : Bool := g.valid && !geomFits g

/-- A geometry entry that instructions may name: its shape and SIZE_LOG2 (R51). -/
def usableGeom (s : State) (p gi : Nat) : Option ((Nat × Nat × Nat × Nat) × Nat) :=
  let g := AMap.getD (partOf s p).geoms gi {}
  if g.valid && geomFits g then
    match geomShape g with
    | some sh => some (sh, (blockBytes sh / 0x4000).log2)
    | none => none
  else none

/-! ## Request records -/

/-- The record at an index. -/
def recOf (s : State) (p i : Nat) : Rec := AMap.getD (partOf s p).recs i { rgen := (partOf s p).rgenBase }

/-- The state with a record written. -/
def setRec (s : State) (p i : Nat) (r : Rec) : State :=
  modPart s p (fun P => { P with recs := AMap.insert P.recs i r })

/-- Does an opcode name a request in operand A (R218, R223). -/
def namesRequest (op : Nat) : Bool :=
  op == 0x11 || (decide (0x30 ≤ op ∧ op ≤ 0x36) && op != 0x34) || op == 0x90

/-! ## Checks at issue (R196 steps 6 to 8) -/

/-- Final statuses that RETIRE takes: 0x03, or 0x40 plus an error code of R99 or R131 (R218). -/
def finalStatusOk (b : Nat) : Bool :=
  b == 0x03 || decide (0x41 ≤ b ∧ b ≤ 0x4C) || decide (0x60 ≤ b ∧ b ≤ 0x62) || decide (0x70 ≤ b ∧ b ≤ 0x76)

/-- Ports that a partition holds: dedicated and shared (R430). -/
def nearPorts (s : State) (p : Nat) : Nat := Nat.lor (sliceOf s p).npDed (sliceOf s p).npShared
def farPorts (s : State) (p : Nat) : Nat := Nat.lor (sliceOf s p).fpDed (sliceOf s p).fpShared

/-- May a partition name a stream of a port in XSET or XSTAT (R244): port 0–15 near, 16–31 far. -/
def streamOk (s : State) (p port stream : Nat) (xset : Bool) : Bool :=
  let near := port < 16
  let held := if near then bit (nearPorts s p) port else bit (farPorts s p) (port - 16)
  let shared := if near then bit (sliceOf s p).npShared port else bit (sliceOf s p).fpShared (port - 16)
  if 0x80 ≤ stream ∧ stream ≤ 0xBF then true
  else if stream < 0x80 then
    held && (!shared || decide ((sliceOf s p).xsBase ≤ stream ∧ stream < (sliceOf s p).xsBase + (sliceOf s p).xsSize))
  else if stream = 0xFF then held && !xset
  else false

/-- Is an endpoint number one of level 1; 128 to 1,023 are reserved for later levels (R7, R339). -/
def endpointOk (n : Nat) : Bool := decide (n < 128)

/-- The endpoint of a party operand (R195). -/
def partyEp (w : Nat) : Nat := bits w 21 12

/-- Step 6 of R196: operand values in their ranges, semaphores not 0, addresses aligned. -/
def operandsOk (s : State) (p : Nat) (ws : List Nat) : Bool :=
  let op := opcodeOf ws
  let a := opA ws
  let b := opB ws
  let reqOk := !namesRequest op || decide (reqIndex ws < recordCount s p)
  let one := fun (lo hi v : Nat) => decide (lo ≤ v ∧ v ≤ hi)
  reqOk && (match op with
    | 0x02 => one 1 15 (bits a 3 0) && one 1 0xFFFFFFFF (bits b 31 0)
    | 0x03 => one 1 15 (bits a 3 0)
    | 0x10 => one 1 1024 (bits a 26 16) && b % 8 == 0 && (!flagOf ws 24 || endpointOk (partyEp (extLo ws 1)))
    | 0x12 => !flagOf ws 24 || one 1 4095 (bits a 11 0)
    | 0x13 => (!flagOf ws 24 || one 1 4095 (bits a 27 16)) && endpointOk (partyEp (extLo ws 1))
    | 0x14 => !flagOf ws 24 || one 1 4095 (bits a 27 16)
    | 0x15 => !flagOf ws 24 || endpointOk (partyEp (extLo ws 1))
    | 0x17 => one 1 4095 (bits a 11 0) && b % 8 == 0
    | 0x20 => b % 64 == 0
    | 0x21 => b % 64 == 0
    | 0x22 => one 0 63 (bits a 23 16) && b % 64 == 0
    | 0x31 => b % 8 == 0
    | 0x33 => b % 8 == 0
    | 0x34 => one 1 4096 (bits a 20 8) && b % 16 == 0
    | 0x35 => finalStatusOk (bits b 7 0)
    | 0x36 => b % 64 == 0
    | 0x40 => streamOk s p (bits a 4 0) (bits a 15 8) true && b % 64 == 0
    | 0x41 => streamOk s p (bits a 4 0) (bits a 15 8) false
    | 0x42 => one 0 127 (bits (extLo ws 1) 57 48)
    | 0x50 => one 1 4096 (bits a 15 0) && b % 8 == 0
    | 0x51 => one 1 4096 (bits a 15 0) && b % 8 == 0
    | 0x52 => one 1 4096 (bits a 15 0) && b % 8 == 0
    | 0x53 => b % 8 == 0
    | 0x60 => one 0 127 (bits a 9 0) && one 1 65535 (bits a 31 16) && b % 64 == 0
    | 0x61 => one 0 127 (bits a 9 0) && one 1 65535 (bits a 31 16) && b % 64 == 0
    | 0x62 => one 0 127 (bits a 9 0) && one 0 5 (bits a 13 10) && b % (if bit a 14 then 8 else 4) == 0
    | 0x63 => one 0 127 (bits a 9 0) && one 1 4096 (bits a 31 16) && bits (extLo ws 1) 31 0 != 0xFFFFFFFF
    | 0x70 => one 1 0xFFFFFFFF (bits (extHi ws 1) 31 0)
    | 0x71 => one 1 0xFFFFFFFF (bits (extHi ws 1) 31 0)
    | 0x72 => one 1 0xFFFFFFFF (bits (extLo ws 1) 31 0)
    | 0x80 => b % 64 == 0
    | 0x81 => b % 64 == 0
    | 0x82 => b % 64 == 0
    | _ => true)

/-- Bytes of an APPEND's staging area: n rows of one layer (R169). -/
def stagingBytes (s : State) (p : Nat) (ws : List Nat) : Nat :=
  match usableGeom s p (recOf s p (reqIndex ws)).geom with
  | some (sh, _) => 2 * bits (wordAt ws 0) 27 24 * sh.2.1 * sh.2.2.1 * sh.2.2.2
  | none => 0

/-- Step 7 of R196: the memory that the instruction's own operands name, as (address, bytes). -/
def operandRegions (s : State) (p : Nat) (ws : List Nat) : List (Nat × Nat) :=
  let op := opcodeOf ws
  let a := opA ws
  let b := addrB ws
  match op with
  | 0x10 => [(b, 8 * bits a 26 16)]
  | 0x12 => if flagOf ws 24 then [(b, 8 * bits a 11 0), (extAddr ws 1, bits a 11 0)] else []
  | 0x13 => if flagOf ws 24 then [(b, 8 * bits a 27 16), (extAddr ws 2, bits a 27 16)] else []
  | 0x14 => if flagOf ws 24 then [(b, 8 * bits a 27 16), (extAddr ws 1, bits a 27 16)] else []
  | 0x16 => if flagOf ws 24 then [(extAddr ws 1, 64)] else []
  | 0x17 => [(b, 160), (extAddr ws 1, 8 * bits a 11 0)]
  | 0x20 => [(b, 64)]
  | 0x21 => [(b, 64)]
  | 0x22 => [(b, 128)]
  | 0x30 => [(b, stagingBytes s p ws)]
  | 0x31 => [(b, 88)]
  | 0x33 => [(b, 24)]
  | 0x34 => [(b, 16 * (1 + bits a 20 8))]
  | 0x36 => [(b, 128)]
  | 0x40 => [(b, 64)]
  | 0x41 => [(b, 16)]
  | 0x42 => (b, bits a 31 0) :: (if bits (extLo ws 1) 57 48 = (me s).2 then [(extAddr ws 1, bits (extHi ws 1) 31 0)] else [])
  | 0x50 => [(b, 24 * bits a 15 0), (extAddr ws 1, 16 * bits a 15 0)]
  | 0x51 => [(b, 48 * bits a 15 0)]
  | 0x52 => [(b, 48 * bits a 15 0)]
  | 0x53 => [(b, 96)]
  | 0x60 => [(extAddr ws 1, 64 * bits a 31 16)]
  | 0x61 => [(extAddr ws 1, 64 * bits a 31 16)]
  | 0x63 => [(b, bits a 31 16)]
  | 0x70 => [(b, bits (extHi ws 1) 31 0)]
  | 0x71 => [(b, bits (extHi ws 1) 31 0)]
  | 0x72 => [(b, bits (extLo ws 1) 31 0)]
  | 0x73 => [(b, 48)]
  | 0x80 => [(b, 192)]
  | 0x81 => [(b, 192)]
  | 0x82 => [(b, 192)]
  | _ => []

/-- The first operand address where the partition may not access (R84, R85). -/
def badRegion (s : State) (p : Nat) (ws : List Nat) : Option Nat :=
  ((operandRegions s p ws).find? (fun r => !mayAccess s p r.1 r.2)).map Prod.fst

/-- Engine numbers absent now (R42, R44). -/
def engineAbsent (s : State) (n : Nat) : Bool := s.life.aeAbsent.contains n

/-- Engine numbers of a partition's slice. -/
def enginesOf (s : State) (p : Nat) : List Nat := setBits 16 (sliceOf s p).engines

/-- Engine numbers of a partition that are present. -/
def presentEngines (s : State) (p : Nat) : List Nat := (enginesOf s p).filter (fun n => !engineAbsent s n)

/-- Step 8 of R196: does the instruction name an absent engine of its partition. -/
def namesAbsent (s : State) (p : Nat) (ws : List Nat) : Bool :=
  opcodeOf ws == 0x22 &&
    (setBits 16 (bits (opA ws) 15 0)).any (fun n => (enginesOf s p).contains n && engineAbsent s n)

/-- The checks of R196 from step 2 on, in order: the status that the first failed one decides; none where all pass. -/
def issueStatus (s : State) (p : Nat) (ws : List Nat) : Option Nat :=
  let op := opcodeOf ws
  if levelOf ws ≠ 1 then some St.badLevel
  else
    match opLen op with
    | none => some St.badOpcode
    | some (n0, n1) =>
      if lenOf ws ≠ (if flagOf ws 24 then n1 else n0) then some St.badLength
      else if !roleRuns (roleOf s) op then some St.notInRole
      else if !operandsOk s p ws then some St.badOperand
      else if (badRegion s p ws).isSome then some St.address
      else if namesAbsent s p ws then some St.absent
      else none

end Sys2Proof.Machine
end

