-- ==== Sys2Proof/Machine/Placement.lean ====
section
/-! DEFINITION. Placement lists (R75, R76) and the ringmaster's choice of homes and offerees (R74, R184, R408). -/

namespace Sys2Proof.Machine

/-- An entry of a placement list (R75). -/
structure PlaceEntry where
  domain   : Nat
  ep       : Nat
  part     : Nat
  kind     : Nat
  capacity : Nat
deriving DecidableEq, Repr, Inhabited

/-- The class B boundary of CC_PLACE: the pending value takes effect, the table is read again and every estimate is
reset (R76). -/
def placeBoundary (s : State) (p : Nat) : State :=
  match (partOf s p).placePend with
  | none => s
  | some v => modPart s p (fun P => { P with place := v, placePend := none, homeUse := [] })

/-- The entries of list l, empty where the table is not in use (R75, R76). A list at or above the number of lists
stands for list 0. -/
def placeList (s : State) (p l : Nat) : List PlaceEntry :=
  let pl := (partOf s p).place
  if !pl.enable then [] else
  let l := if pl.nlists < l then 0 else l
  let base := pl.base + l * 512
  if !inRange s p base 512 then [] else
  let n := bits (devWord s base) 5 0
  (List.range n).map (fun i =>
    let w := devWord s (base + 8 + 8 * i)
    ⟨bits w 11 0, bits w 21 12, bits w 25 22, bits w 27 26, bits w 63 32⟩)

/-- The ringmaster's free-granule estimate for an entry (R75). -/
def estimateOf (s : State) (p : Nat) (e : PlaceEntry) : Nat :=
  match (partOf s p).homeUse.find? (fun h => h.domain == e.domain && h.ep == e.ep && h.part == e.part) with
  | none => e.capacity
  | some h => if h.none_ then 0 else ((e.capacity : Int) - h.used).toNat

/-- The use of a home changed. -/
def modHomeUse (s : State) (p : Nat) (home : Nat × Nat × Nat) (f : HomeUse → HomeUse) : State :=
  modPart s p (fun P =>
    let hit := fun (h : HomeUse) => h.domain == home.1 && h.ep == home.2.1 && h.part == home.2.2
    if P.homeUse.any hit then { P with homeUse := P.homeUse.map (fun h => if hit h then f h else h) }
    else { P with homeUse := P.homeUse ++ [f { domain := home.1, ep := home.2.1, part := home.2.2 }] })

/-- Granules allocated at a home, or freed there when negative (R75). -/
def useHome (s : State) (p : Nat) (home : Nat × Nat × Nat) (g : Int) : State :=
  modHomeUse s p home (fun h => { h with used := h.used + g })

/-- A home answered NO_SPACE: its estimate is 0 until the table is next loaded (R75). -/
def homeFull (s : State) (p : Nat) (home : Nat × Nat × Nat) : State :=
  modHomeUse s p home (fun h => { h with none_ := true })

/-- Is a module a straggler of the partition (R418). -/
def isStraggler (s : State) (p domain ep : Nat) : Bool :=
  (partOf s p).stragglers.any (fun g => g.domain == domain && g.ep == ep)

/-- The entry with the largest estimate, the earlier of equals (R74, R75). -/
def bestEntry (s : State) (p : Nat) : List PlaceEntry → Option PlaceEntry
  | [] => none
  | e :: es =>
    match bestEntry s p es with
    | none => some e
    | some b => if estimateOf s p b ≤ estimateOf s p e then some e else some b

/-- The cache-pool home that R74 chooses from a list, stragglers and the modules of `avoid` passed over. -/
def chooseHome (s : State) (p l : Nat) (avoid : List (Nat × Nat)) : Option PlaceEntry :=
  bestEntry s p ((placeList s p l).filter (fun e =>
    e.kind == 0 && !isStraggler s p e.domain e.ep && !avoid.contains (e.domain, e.ep)))

/-- The generation-node entries of a list, in order (R184). -/
def generationNodes (s : State) (p l : Nat) : List PlaceEntry :=
  (placeList s p l).filter (fun e => e.kind == 1)

end Sys2Proof.Machine
end

