-- ==== Sys2Proof/Machine/Inflight.lean ====
section
/-! DEFINITION. Instructions in flight: how a row finds the issued instruction it runs, ends its work with a status, a
result and the effects that its commit makes visible (R197, R201, R205), and how the record order of R173 holds it. -/

namespace Sys2Proof.Machine

/-- The answer of every command: a next state. -/
abbrev Answer := Host.Outcome State Fault Refusal

/-- The issued instruction that a reference names. -/
def issuedOf (s : State) (w : IRef) : Option Issued :=
  (queueOf (partOf s w.part) w.queue).issued.find? (fun i => i.idx == w.idx)

/-- An issued instruction changed at a time, which is kept where its work finishes with the change (R424). -/
def changeIssued (now : Nat) (f : Issued → Issued) (i : Issued) : Issued :=
  if i.status.isNone && (f i).status.isSome then { f i with doneAt := now } else f i

/-- The issued instruction changed. -/
def modIssued (s : State) (w : IRef) (f : Issued → Issued) : State :=
  modQueue s w.part w.queue (fun q => { q with
    issued := q.issued.map (fun i => if i.idx == w.idx then changeIssued s.now f i else i) })

/-- Its work is finished: status, result and the effects of its commit (R205). -/
def finish (s : State) (w : IRef) (status result : Nat) (effects : List Effect := []) : State :=
  modIssued s w (fun i => { i with status := some status, result := result, effects := effects })

/-- The memory that an instruction's finished work will write is undefined until its commit (R209). -/
def undefWrites (s : State) (w : IRef) (effects : List Effect) : State :=
  effects.foldl (fun s e => match e with
    | .devWrite a bs => modIssued (makeUndef s a bs.length) w (fun i => { i with undefs := s.freeCtr :: i.undefs })
    | _ => s) s

/-- Finished with an error and no other effect; RESULT is 0 (R206). -/
def failWith (s : State) (w : IRef) (status : Nat) : State := finish s w status 0

/-- Run a row on the instruction it names: the module is ready, the instruction has issued, has this opcode and has
not finished; otherwise nothing happens (log entries 5, 17). -/
def withInstr (s : State) (w : IRef) (op : Nat) (f : Issued → State) : Answer :=
  if ready s then
    match issuedOf s w with
    | some i => if i.status.isNone && opcodeOf i.words == op then .next (f i) else .next s
    | none => .next s
  else .next s

/-- Does an instruction work on a request's record: a serving instruction that names it, or a STEP of its micro-batch while
the record is in use (R173). -/
def namesRecord (s : State) (p idx : Nat) (i : Issued) : Bool :=
  let op := opcodeOf i.words
  let r := recOf s p idx
  if op = 0x34 then r.state != .free && r.mbatch == bits (opA i.words) 7 0
  else decide (0x30 ≤ op ∧ op ≤ 0x36) && reqIndex i.words == idx

/-- Uncommitted instructions of a partition that work on a request's record, with their queues. -/
def namingRequest (s : State) (p idx : Nat) : List (Nat × Issued) :=
  ((partOf s p).queues.map (fun e => (e.2.issued.filter (namesRecord s p idx)).map (fun i => (e.1, i)))).flatten

/-- Does another instruction hold the request's record (R69, R173): one on the same request that has finished and waits for
its commit, or that issued before this one and has not finished. -/
def heldByOther (s : State) (w : IRef) (i : Issued) : Bool :=
  (namingRequest s w.part (reqIndex i.words)).any (fun e =>
    !(e.1 == w.queue && e.2.idx == w.idx) &&
      (e.2.status.isSome || decide (e.2.order < i.order)))

/-- The containment context of an instruction. -/
def ctxOf (w : IRef) : Option ErrContext := some (.instr w)

/-- A violation by an instruction's own address: the instruction completes with ADDRESS and the access is logged (R85,
R196 step 7). -/
def addressFault (s : State) (w : IRef) (a : Nat) : State :=
  failWith (violation s (some w.part) 1 (me s) a (ctxOf w) (some w.queue) St.address) w St.address

/-- An uncorrectable word met by an instruction's own read (R396). -/
def readFault (s : State) (w : IRef) (a n : Nat) : State :=
  failWith (noteRead s a n (some w.part) (ctxOf w) (some w.queue)) w St.uncorrectable

/-- A fresh message tag of a partition. -/
def takeTag (s : State) (p : Nat) : State × Nat :=
  let t := (partOf s p).nextTag
  (modPart s p (fun P => { P with nextTag := (P.nextTag + 1) % 2 ^ 32 }), t)

/-- The instruction that awaits an answer with a tag, and the await (R97 TAG). -/
def awaiting (s : State) (p tag : Nat) : Option (IRef × Issued × Await) :=
  ((partOf s p).queues.map (fun e =>
    (e.2.issued.map (fun i =>
      (i.awaits.filter (fun a => a.tag == tag)).map (fun a => ((⟨p, e.1, i.idx⟩ : IRef), i, a)))).flatten)).flatten.head?

/-- An await answered. -/
def answerAwait (s : State) (w : IRef) (tag status value : Nat) : State :=
  modIssued s w (fun i => { i with awaits := i.awaits.map (fun a =>
    if a.tag == tag then { a with status := some status, value := value } else a) })

end Sys2Proof.Machine
end

