-- ==== Sys2Proof/Machine/Messages.lean ====
section
/-! DEFINITION. Messages and Poltex packets as bytes (04_trapeze_handover.md R97, R116, 05_attention_engines.md R149,
12_rack_fabric.md R335), and Tlaley frames (13_remote_access.md R356 to R365).
What is read takes the listed fields alone and what is written holds 0 in every reserved field (R6, R48). -/

namespace Sys2Proof.Machine

/-! ## Messages -/

/-- A party in the place of PART and EPOCH at 0x00 and SRC_DOMAIN and SRC_EP at 0x08 (R97, R149). -/
def partyWord (x : Party) : Nat := x.domain % 2 ^ 12 + x.ep % 2 ^ 10 * 2 ^ 12 + x.part % 16 * 2 ^ 22 + x.epoch % 2 ^ 32 * 2 ^ 32

/-- A trapeze message as its 64 bytes (R97). -/
def tmsgBytes (m : TMsg) : List Byte :=
  toLe 8 (m.level % 16 + m.ttype % 256 * 2 ^ 4 + m.status % 256 * 2 ^ 12 + m.src.part % 16 * 2 ^ 20 + m.src.epoch % 2 ^ 32 * 2 ^ 32)
    ++ toLe 8 (m.src.domain % 2 ^ 12 + m.src.ep % 2 ^ 10 * 2 ^ 12 + m.tag % 2 ^ 32 * 2 ^ 32)
    ++ toLe 8 m.handle ++ toLe 8 (partyWord m.peer) ++ toLe 8 m.time
    ++ toLe 8 (m.hold % 2 ^ 16 + m.state % 16 * 2 ^ 16 + m.flags % 64 * 2 ^ 20 + m.refs % 2 ^ 16 * 2 ^ 32)
    ++ toLe 8 m.newHandle ++ toLe 8 (m.toPart % 16 + m.toEpoch % 2 ^ 32 * 2 ^ 32)

/-- An ATTEND_REQ or ATTEND_RESP as bytes (R149). -/
def attendBytes (request : Bool) (m : AttendMsg) : List Byte :=
  toLe 8 (m.level % 16 + (if request then 0x20 else 0x21) * 2 ^ 4 + m.status % 256 * 2 ^ 12 + m.src.part % 16 * 2 ^ 20
      + m.tpart % 16 * 2 ^ 24 + m.src.epoch % 2 ^ 32 * 2 ^ 32)
    ++ toLe 8 (m.src.domain % 2 ^ 12 + m.src.ep % 2 ^ 10 * 2 ^ 12 + m.tag % 2 ^ 32 * 2 ^ 32)
    ++ toLe 8 ((64 + m.body.length) % 2 ^ 32 + m.nent % 2 ^ 16 * 2 ^ 32 + m.nrows % 2 ^ 16 * 2 ^ 48)
    ++ List.replicate 40 0 ++ m.body

/-- The bytes 0x08 to 0x3F of a FENCE, which its signature covers (R116). -/
def fenceSigned (f : FenceMsg) : List Byte :=
  toLe 8 (f.domain % 2 ^ 12 + f.ep % 2 ^ 10 * 2 ^ 12 + f.part % 16 * 2 ^ 22 + flag f.gate * 2 ^ 26 + flag f.noFloor * 2 ^ 27
    + leAt f.reserved 0 5 % 2 ^ 36 * 2 ^ 28)
  ++ toLe 8 (f.fenceEpoch % 2 ^ 32 + leAt f.reserved 5 4 * 2 ^ 32) ++ toLe 8 f.issued ++ padTo 32 0 (f.reserved.drop 9)

/-- A FENCE as its 160 bytes (R116). -/
def fenceMessage (f : FenceMsg) : List Byte :=
  toLe 8 (f.level % 16 + 0x10 * 2 ^ 4) ++ fenceSigned f ++ toLe 48 f.sigR ++ toLe 48 f.sigS

/-- MIGRATE_BEGIN in the layout of R97: PEER names the owner, FLAGS the flags. R97 has no place for the size that R111 sends,
which travels in STATE (DESIGN CHOICE, log entry 60). -/
def beginAsTmsg (m : BeginMsg) : TMsg :=
  { ttype := 0x09, src := m.src, tag := m.tag, handle := m.handle, peer := m.owner, state := m.sizeLog2, flags := m.flags }

/-- A rebuild request or reply as bytes (R415). -/
def rebuildBytes (request : Bool) (m : RebuildMsg) : List Byte :=
  toLe 8 (0x45435242 + (if request then 1 else 2) * 2 ^ 32 + m.shard % 16 * 2 ^ 36 + m.status % 256 * 2 ^ 40)
    ++ toLe 8 m.tag ++ toLe 8 m.newHandle ++ toLe 8 (m.lost % 2 ^ 16) ++ List.replicate 32 0
    ++ (if request then padTo 192 0 m.descriptor else [])

/-- A device message of n bytes: as the manual lays it out, or bytes left open where it gives no layout (R97, R116, R149;
log entry 104). -/
def outBytes (serial n : Nat) : Out → List Byte
  | .trapeze _ m => tmsgBytes m
  | .beginMsg m => tmsgBytes (beginAsTmsg m)
  | .allocReply _ m _ => tmsgBytes m
  | .rebuildMsg _ request m => rebuildBytes request m
  | .fenceTo _ f => fenceMessage f
  | .attend request m => attendBytes request m
  | _ => (List.range n).map (Config.freeByte serial)

/-! ## Poltex packets (R335) -/

/-- Bytes of a packet: header, identity extension and payload. -/
def packetSize (k : Packet) : Nat := 16 + (if k.idx then 16 else 0) + k.payload.length

/-- A packet of the stream, filled to the next 16-byte boundary (R335). A response has its STATUS in the place of ADDR. -/
def packetBytes (k : Packet) : List Byte :=
  let head := toLe 8 (k.level % 16 + k.op % 16 * 2 ^ 4 + k.tc % 8 * 2 ^ 8 + flag k.seg * 2 ^ 11 + flag k.first * 2 ^ 12
      + flag k.last * 2 ^ 13 + flag k.idx * 2 ^ 14 + k.src % 2 ^ 10 * 2 ^ 16 + k.dst % 2 ^ 10 * 2 ^ 26 + k.tag % 2 ^ 16 * 2 ^ 36
      + k.aop % 16 * 2 ^ 52 + flag k.aw * 2 ^ 56)
    ++ toLe 8 (k.addr % 2 ^ 48 + k.plen % 2 ^ 9 * 2 ^ 48)
  let ext := if k.idx then toLe 8 (k.spart % 16 + k.epoch % 2 ^ 32 * 2 ^ 32) ++ toLe 8 0 else []
  head ++ ext ++ padTo (alignUp k.payload.length 16) 0 k.payload

/-- An IDLE that fills the stream: it belongs to no partition and transaction (R335, R336; log entry 107). -/
def idleBytes (src dst : Nat) : List Byte :=
  packetBytes { port := 0, op := 0, tc := 0, first := false, last := false, idx := true, src := src, dst := dst, tag := 0
                addr := 0, plen := 0 }

/-- The packet that stream bytes hold: header, identity extension and payload (R335). -/
def packetOf (port : Nat) (bs : List Byte) : Packet :=
  let a := leAt bs 0 8
  let b := leAt bs 8 8
  let idx := bit a 14
  let op := bits a 7 4
  let plen := bits b 56 48
  let x := leAt bs 0x10 8
  let at_ := if idx then 32 else 16
  { port := port, level := bits a 3 0, op := op, tc := bits a 10 8, seg := bit a 11, first := bit a 12, last := bit a 13
    idx := idx, src := bits a 25 16, dst := bits a 35 26, tag := bits a 51 36, aop := bits a 55 52, aw := bit a 56
    addr := bits b 47 0, plen := plen, spart := if idx then bits x 3 0 else 0, epoch := if idx then bits x 63 32 else 0
    status := bits b 7 0, payload := if op ≤ 1 then [] else (bs.drop at_).take plen }

/-- Bytes of the packet at the head of a stream, with its padding to the next 16-byte boundary. -/
def packetSpan (bs : List Byte) : Nat :=
  let a := leAt bs 0 8
  let op := bits a 7 4
  16 + (if bit a 14 then 16 else 0) + alignUp (if op ≤ 1 then 0 else bits (leAt bs 8 8) 56 48) 16

/-- The complete packets at the head of a stream, and what is left of it. -/
def parsePackets (port : Nat) : Nat → List Byte → List Packet × List Byte
  | 0, bs => ([], bs)
  | fuel + 1, bs =>
    if bs.length < 16 ∨ bs.length < packetSpan bs then ([], bs)
    else
      let r := parsePackets port fuel (bs.drop (packetSpan bs))
      (packetOf port bs :: r.1, r.2)

/-! ## Tlaley frames (R356 to R365) -/

/-- The connection record as its 16 bytes (R365). -/
def recordBytes (r : ConnRecord) : List Byte :=
  toLe 8 (r.sdomain % 2 ^ 12 + r.sep % 2 ^ 10 * 2 ^ 12 + r.tpart % 16 * 2 ^ 22 + r.pmtu % 4 * 2 ^ 26 + r.sconn % 2 ^ 20 * 2 ^ 32
    + r.status % 256 * 2 ^ 52) ++ toLe 8 (r.scepoch % 2 ^ 32)

/-- A Tlaley packet's 32-byte header (R363). -/
def headerBytes (k : TPacket) (plen : Nat) : List Byte :=
  let w2 := if k.op ≤ 2 then k.raddr % 2 ^ 48
    else if k.op = 5 ∨ k.op = 7 then k.apsn % 2 ^ 24
    else if k.op = 6 then k.apsn % 2 ^ 24 + k.syndrome % 2 ^ 8 * 2 ^ 24 + k.status % 2 ^ 8 * 2 ^ 32 + k.delay % 2 ^ 16 * 2 ^ 40
    else 0
  toLe 8 (k.level % 16 + k.op % 16 * 2 ^ 4 + k.tc % 8 * 2 ^ 8 + flag k.seg * 2 ^ 11 + flag k.first * 2 ^ 12 + flag k.last * 2 ^ 13
      + flag k.dev * 2 ^ 14 + k.dconn % 2 ^ 20 * 2 ^ 16 + k.psn % 2 ^ 24 * 2 ^ 36)
    ++ toLe 8 (k.dcepoch % 2 ^ 32 + (if k.dev then 0 else k.key % 2 ^ 32 * 2 ^ 32))
    ++ toLe 8 w2 ++ toLe 8 (plen % 2 ^ 13 + k.spart % 16 * 2 ^ 16 + k.pepoch % 2 ^ 32 * 2 ^ 32)

/-- The Tlaley packet that an output is: header, payload, traffic class (R363 to R365). -/
def tlaleyPacket : Out → Option (List Byte × Nat)
  | .tpacket k => some (headerBytes k k.payload.length ++ k.payload, k.tc)
  | .connMsg _ k r => some (headerBytes k 16 ++ recordBytes r, 0)
  | _ => none

/-- Sum of the 16-bit words of a byte string. -/
def wordSum : List Byte → Nat
  | [] => 0
  | [a] => a.toNat * 256
  | a :: b :: t => a.toNat * 256 + b.toNat + wordSum t

/-- The Internet checksum of a byte string: the complement of its ones' complement sum. -/
def inetChecksum (bs : List Byte) : Nat :=
  let x := wordSum bs
  0xFFFF - (if x = 0 then 0 else (x - 1) % 0xFFFF + 1)

/-- One bit of the CRC of IEEE 802.3. -/
def crcBits : Nat → Nat → Nat
  | 0, c => c
  | n + 1, c => crcBits n (if c % 2 = 1 then Nat.xor (c / 2) 0xEDB88320 else c / 2)

/-- The frame check sequence of IEEE 802.3 (R360). -/
def frameCheck (bs : List Byte) : Nat :=
  Nat.xor (bs.foldl (fun c b => crcBits 8 (Nat.xor c b.toNat)) 0xFFFFFFFF) 0xFFFFFFFF

/-- The IP header before n bytes of UDP: DSCP 0, no options, no fragment, and the ECN field given, which is 2, ECT(0), on every
Tlaley packet (R356, R360). The hop limit, and the IPv4 identification and IPv6 flow label, are left open (log entry 123). -/
def ipHeader (v6 : Bool) (ecn serial n : Nat) (src dst : List Byte) : List Byte :=
  let hops := Config.freeByte serial 0
  if v6 then toBe 4 (6 * 2 ^ 28 + ecn % 4 * 2 ^ 20 + Config.freeWord serial % 2 ^ 20) ++ toBe 2 n ++ [17#8, hops] ++ src ++ dst
  else
    let head := fun (sum : Nat) => [0x45#8] ++ toBe 1 (ecn % 4) ++ toBe 2 (20 + n) ++ toBe 2 (Config.freeWord serial % 2 ^ 16) ++ [0#8, 0#8, hops, 17#8]
      ++ toBe 2 sum ++ src ++ dst
    head (inetChecksum (head 0))

/-- A UDP datagram with its checksum over the pseudo-header (R356, R360). -/
def udpBytes (v6 : Bool) (src dst : List Byte) (from_ to_ : Nat) (data : List Byte) : List Byte :=
  let n := 8 + data.length
  let pseudo := src ++ dst ++ (if v6 then toBe 4 n ++ toBe 4 17 else toBe 2 17 ++ toBe 2 n)
  let head := fun (sum : Nat) => toBe 2 from_ ++ toBe 2 to_ ++ toBe 2 n ++ toBe 2 sum
  let x := inetChecksum (pseudo ++ head 0 ++ data)
  head (if x = 0 then 0xFFFF else x) ++ data

/-- A far port. -/
def farPort (s : State) (n : Nat) : FarPort := AMap.getD s.tlaley.ports n {}

/-- The Ethernet frame of a UDP datagram that far port n sends at a priority: header with tag, IP, UDP and the FCS (R357,
R360). -/
def udpFrame (s : State) (n prio ecn : Nat) (v6 : Bool) (to_ : List Byte) (sport dport : Nat) (data : List Byte) : List Byte :=
  let c := compOf s
  let len := if v6 then 16 else 4
  let src := padTo len 0 (c.ip.take len)
  let dst := padTo len 0 (to_.take len)
  let udp := udpBytes v6 src dst sport dport data
  let body := toBe 6 (farPort s n).nexthop ++ toBe 6 (c.baseMac + n) ++ toBe 2 0x8100
    ++ toBe 2 (prio % 8 * 2 ^ 13 + c.vlan % 2 ^ 12) ++ toBe 2 (if v6 then 0x86DD else 0x0800)
    ++ ipHeader v6 ecn s.freeCtr udp.length src dst ++ udp
  body ++ toLe 4 (frameCheck body)

/-- The frame of a Tlaley packet on far port n: its priority is that of its class, its UDP source port that of its connection
(R356, R360). -/
def ethernetFrame (s : State) (n : Nat) (via : Nat × Bool × List Byte) (pkt : List Byte) (tc : Nat) : List Byte :=
  let c := compOf s
  udpFrame s n (if tc ≤ 3 then c.prioHi else c.prioLo) 2 via.2.1 via.2.2 (0xC000 + via.1 % 16384) c.udpPort pkt

/-- A Delay_Req of IEEE 1588-2019 with a sequence number in a PTP domain. Its layout is that standard's (PRESUMED, log entry
147); the clock's identity is left open. -/
def delayReqBytes (serial domain seq : Nat) : List Byte :=
  [0x01#8, 0x12#8] ++ toBe 2 44 ++ toBe 1 domain ++ List.replicate 15 0 ++ (List.range 8).map (fun i => Config.freeByte serial (1 + i))
    ++ toBe 2 1 ++ toBe 2 seq ++ [1#8, 0x7F#8] ++ List.replicate 10 0

/-- The frame of a Delay_Req: priority 7, UDP port 319, to the group address of PTP (R360, R379; log entry 147). -/
def delayReqFrame (s : State) (n : Nat) (v6 : Bool) (domain seq : Nat) : List Byte :=
  udpFrame s n 7 0 v6 (if v6 then [0xFF#8, 0x0E#8] ++ List.replicate 12 0 ++ [0x01#8, 0x81#8] else [224#8, 0#8, 1#8, 129#8]) 319 319
    (delayReqBytes s.freeCtr domain seq)

end Sys2Proof.Machine
end

