-- ==== Sys2Proof/Machine/Link.lean ====
section
/-! DEFINITION. The sending side of a near port's link: the packet stream, flits with their link word, lanes, the replay
buffer and credits (12_rack_fabric.md R329 to R334, R336). -/

namespace Sys2Proof.Machine

/-- A near port's state. -/
def nearPort (s : State) (n : Nat) : NearPort := AMap.getD s.poltex.ports n {}

/-- The state with a near port changed. -/
def modNear (s : State) (n : Nat) (f : NearPort → NearPort) : State :=
  { s with poltex := { s.poltex with ports := AMap.insert s.poltex.ports n (f (nearPort s n)) } }

/-- A protocol error of a near port's link (R47, R336, R339). -/
def protocolError (s : State) (port : Nat) : State :=
  countEv (modNear s port (fun n => { n with protoErr := n.protoErr + 1 })) Isl.np 0x033 (some port) none

/-- The class whose credits the next flit returns, the lowest with any, and how many units, at most 15 (R329, R331; log
entry 109). -/
def creditsBack (n : NearPort) : Nat × Nat :=
  match (List.range 8).find? (fun c => decide (0 < AMap.getD n.owed c 0)) with
  | some c => (c, min 15 (AMap.getD n.owed c 0))
  | none => (0, 0)

/-- The link word of a flit (R329). -/
def linkWord (n : NearPort) (f : Flit) : Nat :=
  f.seq % 4096 + (n.expSeq + 4095) % 4096 * 2 ^ 12 + flag n.nak * 2 ^ 24 + f.cls % 8 * 2 ^ 25 + f.units % 16 * 2 ^ 28

/-- The bytes of a flit on each active lane: byte k of the lane stream goes to logical lane k mod w (R329). -/
def onLanes (n : NearPort) (flit : List Byte) : List (Nat × List Byte) :=
  n.lanes.zipIdx.map (fun e => (e.1, (flit.zipIdx.filter (fun b => (n.txByte + b.2) % n.lanes.length == e.2)).map Prod.fst))

/-- A flit on the lanes: a request for replay goes with it (R329, R330). -/
def laneFlit (s : State) (port : Nat) (f : Flit) : State :=
  let n := nearPort s port
  let s1 := modNear s port (fun n => { n with nak := false, txByte := (n.txByte + 272) % 840 })
  emitOut (countEv s1 Isl.np 0x030 (some port) none) (.flit port f.seq (onLanes n (flitEncode (linkWord n f) f.stream)))

/-- A new flit: it takes the next SEQ and credits that the port owes, and stays in the replay buffer with them until it is
acknowledged, so that a flit that is replayed returns the same credits (R330, R331). -/
def newFlit (s : State) (port : Nat) (body : List Byte) : State :=
  let n := nearPort s port
  let c := creditsBack n
  let f : Flit := { seq := n.sendSeq, cls := c.1, units := c.2, stream := body }
  modNear (laneFlit s port f) port (fun n => { n with
    sendSeq := (f.seq + 1) % 4096, replay := n.replay ++ [f]
    owed := if c.2 = 0 then n.owed else AMap.insert n.owed c.1 (AMap.getD n.owed c.1 0 - c.2) })

/-- Whole flits taken from the packet stream. -/
def drainTx (port : Nat) : Nat → State → State
  | 0, s => s
  | fuel + 1, s =>
    let tx := (nearPort s port).tx
    if tx.length < 256 then s
    else drainTx port fuel (newFlit (modNear s port (fun n => { n with tx := tx.drop 256 })) port (tx.take 256))

/-- The next flit leaves though no packet waits to fill it: IDLE packets do (R336). -/
def idleFlit (s : State) (port : Nat) : State :=
  let n := nearPort s port
  let k := ceilDiv (256 - n.tx.length) 32
  drainTx port 2 (modNear s port (fun n => { n with tx := n.tx ++ (List.replicate k (idleBytes (me s).2 n.partner)).flatten }))

/-- May a near port send new flits with this many bytes of packet: its replay buffer has room for them and no width
handshake runs (R330, R334). -/
def linkReady (s : State) (port size : Nat) : Bool :=
  let n := nearPort s port
  decide (n.replay.length + ceilDiv (n.tx.length + size) 256 ≤ 2048 ∧ n.quietUntil ≤ s.now)

/-- Bytes that a frame puts into the packet stream. -/
def streamBytes : Out → List Byte
  | .packet k => packetBytes k
  | _ => []

/-- A frame joins the packet stream of a near port with its credits taken; it is kept until the flit of its last byte is
acknowledged (R330, R331). `units` are the credits, `more` whether another frame waits. -/
def linkSend (s : State) (port tc units : Nat) (f : TxFrame) (more : Bool) : State :=
  let s1 := modNear s port (fun n =>
    let tx := n.tx ++ streamBytes f.what
    { n with tx := tx, credits := AMap.insert n.credits tc (AMap.getD n.credits tc 0 - units)
             unacked := n.unacked ++ [((n.sendSeq + (tx.length - 1) / 256) % 4096, f)] })
  let s2 := drainTx port (((nearPort s1 port).tx.length) / 256) s1
  if more || (nearPort s2 port).tx.isEmpty then s2 else idleFlit s2 port

/-- Unacknowledged flits leave again, in order, from the first one (R330, R334). -/
def replayFlits (s : State) (port : Nat) : State := (nearPort s port).replay.foldl (fun s f => laneFlit s port f) s

/-- The lanes changed: after a handshake whose length the manual bounds by 2 µs the unacknowledged flits leave again at the
new width (R334; log entry 110). -/
def widthChange (s : State) (port : Nat) (lanes : List Nat) : State :=
  let hs := Config.freeWord s.freeCtr % 2001
  replayFlits (modNear (draw s) port (fun n => { n with
    lanes := lanes, width := lanes.length, txByte := 0, rxByte := 0, quietUntil := s.now + hs })) port

end Sys2Proof.Machine
end

