-- ==== Sys2Proof/Machine/Shape.lean ====
section
/-! DEFINITION. The shapers: queues of frames at the ports, fairness stamps, meters, the ferris wheel, gates, the
shared-port regulator and the port's choice of its next frame (11_admission_and_shaping.md R306 to R325, R331, R360). -/

namespace Sys2Proof.Machine

/-- A port in TS: 0–15 near, 16–31 far, 32 the host port (R325). -/
def tsPort (s : State) (port : Nat) : TsPort := AMap.getD s.shaper.ports port {}

/-- The state with a TS port changed. -/
def modTs (s : State) (port : Nat) (f : TsPort → TsPort) : State :=
  { s with shaper := { s.shaper with ports := AMap.insert s.shaper.ports port (f (tsPort s port)) } }

/-- OVERHEAD in force at a port (R325). -/
def overheadOf (s : State) (port : Nat) : Int :=
  max (-64) ((tsPort s port).overhead.getD (if 16 ≤ port ∧ port ≤ 31 then 24 else 0))

/-- Does a link run in planning mode (R268). -/
def planning (s : State) (port : Nat) : Bool :=
  if port < 16 then (nearPort s port).effective
  else if port < 32 then (AMap.getD s.tlaley.ports (port - 16) {}).effective
  else false

/-- The size that a port charges for a frame: before coding in planning mode, as coded in service mode (R268). -/
def frameSize (s : State) (port : Nat) (f : TxFrame) : Nat := if planning s port then f.plan else f.len

/-- A frame's length for meters, gates and stamps: its size plus the OVERHEAD it was stamped with, at least 1 (R307, R325). -/
def frameLen (s : State) (port : Nat) (f : QFrame) : Nat :=
  max 1 ((frameSize s port f.frame : Int) + match f.stamp with
    | some x => x.2
    | none => overheadOf s port).toNat

/-- A frame's length by R307 at the OVERHEAD in force, at least 1. -/
def wireLen (s : State) (port : Nat) (f : TxFrame) : Nat := max 1 ((frameSize s port f : Int) + overheadOf s port).toNat

/-- The island whose copy of device time a port's gates follow (R315). -/
def portIsland (port : Nat) : Nat := if port < 16 then Isl.np else if port < 32 then Isl.fp else Isl.hp

/-! ## Leaves and stamps (R318, R319) -/

/-- A leaf: partition, class and, for a frame whose instruction names a request, that request. -/
abbrev Leaf := Nat × Nat × Option Nat

/-- A frame's stamp. -/
def stampOf (f : QFrame) : Nat := (f.stamp.map Prod.fst).getD 0

/-- The leaf of a frame. -/
def leafOf (f : QFrame) : Leaf := (f.part, f.tc, f.req)

/-- The leaves with a frame queued, each once; TC0 is outside the arbiter (R306). -/
def backlogged (t : TsPort) : List Leaf := ((t.frames.filter (fun f => f.tc != 0)).map leafOf).eraseDups

/-- The head frame of a leaf. -/
def leafHead (t : TsPort) (l : Leaf) : Option QFrame := t.frames.find? (fun f => leafOf f == l)

/-- WEIGHT of a partition (R324 TS_PART_WT). -/
def partWeight (s : State) (p : Nat) : Nat := max 1 (sliceOf s p).weight

/-- Weight of a class of a partition: TS_CLASS_WT, 0 acting as 1 (R324). -/
def classWeight (s : State) (p tc : Nat) : Nat := max 1 (AMap.getD (partOf s p).classWt tc 16)

/-- a precedes b as 64-bit serial numbers (R319). -/
def stampBefore (a b : Nat) : Bool :=
  let d := (b + 2 ^ 64 - a % 2 ^ 64) % 2 ^ 64
  d != 0 && decide (d < 2 ^ 63)

/-- The stamp of a leaf's last frame; the port's virtual time where it is forgotten (R319). -/
def lastStampOf (t : TsPort) (l : Leaf) : Nat :=
  match t.lastStamp.find? (fun e => (e.1, e.2.1, e.2.2.1) == l) with
  | some e => e.2.2.2.1
  | none => t.vtime

/-- The stamp of a frame of length n that becomes the head of its leaf (R319). -/
def stampFor (s : State) (t : TsPort) (l : Leaf) (n : Nat) : Nat :=
  let ls := backlogged t
  let parts := (ls.map Prod.fst).eraseDups
  let sp := (parts.map (partWeight s)).sum
  let classes := ((ls.filter (fun x => x.1 == l.1)).map (fun x => x.2.1)).eraseDups
  let sc := (classes.map (classWeight s l.1)).sum
  let nr := (ls.filter (fun x => x.1 == l.1 && x.2.1 == l.2.1)).length
  let inc := ceilDiv (n * sp * sc * nr * 65536) (partWeight s l.1 * classWeight s l.1 l.2.1)
  let fp := lastStampOf t l
  ((if stampBefore t.vtime fp then fp else t.vtime) + inc) % 2 ^ 64

/-- The head frame of a leaf stamped, if it is not yet. -/
def stampHead (s : State) (port : Nat) (l : Leaf) : State :=
  let t := tsPort s port
  match leafHead t l with
  | none => s
  | some f =>
    if f.stamp.isSome || f.tc == 0 then s
    else
      let st := stampFor s t l (frameLen s port f)
      modTs s port (fun t => { t with
        frames := (t.frames.foldl (fun (acc : List QFrame × Bool) g =>
          if !acc.2 && leafOf g == l then (acc.1 ++ [{ g with stamp := some (st, overheadOf s port) }], true)
          else (acc.1 ++ [g], acc.2)) ([], false)).1
        lastStamp := t.lastStamp.filter (fun e => (e.1, e.2.1, e.2.2.1) != l) ++ [(l.1, l.2.1, l.2.2, st, s.now)] })

/-! ## Meters (R308, R309, R311) -/

/-- Key of a meter. -/
def meterKey (part tc port : Nat) : Nat := (part * 8 + tc) * 64 + port

/-- A meter refilled at device time now; a PIR below CIR acts as CIR (R308, R311). -/
def meterAt (m : Meter) (now : Nat) : Meter :=
  { m with c := min (m.cbs * 8000) (m.c + m.cir * (now - m.last))
           p := min (m.pbs * 8000) (m.p + max m.cir m.pir * (now - m.last))
           last := now }

/-- Colours of R308. -/
inductive Colour where
  | green | yellow | red
deriving DecidableEq, Repr

/-- A bucket covers a need, or is full and too small ever to (R308). -/
def bucketCovers (level size need : Nat) : Bool := decide (need ≤ level) || (level == size && decide (size < need))

/-- Colour of a frame of length n under a refilled meter. -/
def colourOf (m : Meter) (n : Nat) : Colour :=
  if !m.enable then .green
  else
    let need := n * 8000
    let pOk := bucketCovers m.p (m.pbs * 8000) need
    if bucketCovers m.c (m.cbs * 8000) need && pOk then .green
    else if pOk then .yellow
    else .red

/-- Does the colour meet the policy (R308). -/
def colourOk (m : Meter) (c : Colour) : Bool :=
  match c with
  | .green => true
  | .yellow => m.policy
  | .red => false

/-- What a frame that is sent takes (R308). -/
def meterTake (m : Meter) (n : Nat) : Meter :=
  if !m.enable then m
  else
    match colourOf m n with
    | .green => { m with c := m.c - n * 8000, p := m.p - n * 8000 }
    | _ => { m with p := m.p - n * 8000 }

/-- Eligible time of a head frame whose colour does not meet the policy; none where a needed bucket has rate 0 (R309). -/
def eligibleAt (m : Meter) (n : Nat) : Option Nat :=
  let need := n * 8000
  let one := fun (level size rate : Nat) =>
    if bucketCovers level size need then some m.last
    else if rate = 0 then none else some (m.last + ceilDiv (need - level) rate)
  let ep := one m.p (m.pbs * 8000) (max m.cir m.pir)
  if m.policy then ep
  else
    match one m.c (m.cbs * 8000) m.cir, ep with
    | some a, some b => some (max a b)
    | _, _ => none

/-! ## Gates (R315 to R317) -/

/-- Entry i of a port's bank. -/
def gateEntry (t : TsPort) (bank i : Nat) : GateEntry := AMap.getD (if bank = 0 then t.bank0 else t.bank1) i {}

/-- Duration of an entry; 0 acts as 1 (R325). -/
def entryNs (e : GateEntry) : Nat := max 1 e.duration

/-- Is a class open in entry i of the active bank. -/
def entryOpen (t : TsPort) (i tc : Nat) : Bool := tc == 0 || bit (gateEntry t t.bank i).mask tc

/-- Cycle time of the running list of nent + 1 entries (R315). -/
def cycleNs (t : TsPort) (bank nent : Nat) : Nat :=
  ((List.range (nent + 1)).map (fun i => entryNs (gateEntry t bank i))).sum

/-- Time for which a class stays open from the start of entry i, over at most fuel entries; the flag says that it
never closes (R317). -/
def runFrom (t : TsPort) (nent tc : Nat) : Nat → Nat → Nat × Bool
  | 0, _ => (0, true)
  | fuel + 1, i =>
    if entryOpen t i tc then
      let r := runFrom t nent tc fuel (if i < nent then i + 1 else 0)
      (entryNs (gateEntry t t.bank i) + r.1, r.2)
    else (0, false)

/-- When the armed list takes over the running one: the first cycle boundary at or after its base that the ARM does not find
passed (R316). -/
def takeoverAt (t : TsPort) : Option Nat :=
  match t.armed with
  | none => none
  | some (_, base) =>
    match t.running with
    | some (nent, t0) => some (t0 + alignUp (max base t.armedAt - t0) (cycleNs t t.bank nent))
    | none => if t.enable then some (max base t.armedAt) else none

/-- Lanes that a group's host link has trained, at most those of its BIFURCATION (R434). -/
def hostLanes (s : State) (g : Nat) : Nat := AMap.getD s.power.lanes g 0

/-- The function group that a frame of the host port goes to. -/
def frameGroup : Out → Nat
  | .tlp g _ _ => g
  | _ => 0

/-- Can a frame of length n be transmitted in a time: at 200 bytes per ns on near and far ports, at the raw rate of its link
on the host port (R317, R434; log entry 108). -/
def fitsIn (s : State) (port : Nat) (o : Out) (n ns : Nat) : Bool :=
  if port < 32 then decide (n ≤ 200 * ns)
  else decide (8 * n ≤ AMap.getD s.power.rates (frameGroup o) 0 * hostLanes s (frameGroup o) * ns)

/-- What is left of the run of a class in which a port stands; none where nothing ends it (R317). -/
def runLeft (s : State) (port nent tc : Nat) : Option Nat :=
  let t := tsPort s port
  let lt := localTime s (portIsland port)
  let run := runFrom t nent tc (nent + 1) t.entry
  let fin := if run.2 then none else some (t.entryAt + run.1)
  ((match fin, takeoverAt t with
    | some a, some b => some (min a b)
    | some a, none => some a
    | none, b => b).map (· - lt))

/-- May a frame of class tc and length n start now, and is it an overrun (R317). -/
def gateAllows (s : State) (port tc n : Nat) (o : Out) : Bool × Bool :=
  let t := tsPort s port
  match t.running with
  | none => (true, false)
  | some (nent, t0) =>
    if tc = 0 then (true, false)
    else if !entryOpen t t.entry tc then (false, false)
    else
      let fits := match runLeft s port nent tc with
        | some ns => fitsIn s port o n ns
        | none => true
      if fits then (true, false)
      else
        let longest := ((List.range (nent + 1)).map (fun i => (runFrom t nent tc (nent + 1) i).1)).foldl max 0
        let first := t.entryAt == t0 || !entryOpen t (if t.entry = 0 then nent else t.entry - 1) tc
        let ran := !fitsIn s port o n longest && first && localTime s (portIsland port) == t.entryAt
        (ran, ran)

/-! ## Regulators (R321) -/

/-- RATE and BURST of regulator i, BURST in thousandths of a byte or search (R321). -/
def regOf (s : State) (p i : Nat) : Nat × Nat :=
  let w := (sliceOf s p).regs.getD i 0
  (bits w 23 0, bits w 47 24 * 1024000)

/-- Level of a partition's regulator for a place (a port), brought up to date. -/
def regLevel (s : State) (p i place : Nat) : Nat :=
  let r := regOf s p i
  let P := partOf s p
  min r.2 (AMap.getD P.regLevels (i * 64 + place) r.2 + r.1 * (s.now - AMap.getD P.regLast (i * 64 + place) s.now))

/-- Does an item of a size pass (R321): RATE 0 is no limit, and a full bucket passes an item larger than BURST. -/
def regPasses (s : State) (p i place size : Nat) : Bool :=
  let r := regOf s p i
  r.1 == 0 || decide (size * 1000 ≤ regLevel s p i place) || regLevel s p i place == r.2

/-- The regulator after an item. -/
def regTake (s : State) (p i place size : Nat) : State :=
  if (regOf s p i).1 = 0 then s
  else
    let l := regLevel s p i place
    modPart s p (fun P => { P with regLevels := AMap.insert P.regLevels (i * 64 + place) (l - size * 1000)
                                   regLast := AMap.insert P.regLast (i * 64 + place) s.now })

/-- Does a partition share a port (R430). -/
def sharesPort (s : State) (p port : Nat) : Bool :=
  if port < 16 then bit (sliceOf s p).npShared port
  else if port < 32 then bit (sliceOf s p).fpShared (port - 16)
  else false

/-! ## The ferris wheel (R310, R312, R313) -/

/-- Where a class queue with eligible time e waits, and the wheel counts that this adds (R310, R313). Slots are held
as the number of their interval since time 0. -/
def parkPlace (now e pendingCount : Nat) : Parked :=
  if e ≤ now + 2000 ∧ pendingCount < 512 then .pending e
  else if e < now + 0x100000 then .main (ceilDiv e 128) e
  else if e < now + 1024 * 0x100000 then .overflow (e / 0x100000) e
  else .overflow (now / 0x100000 + 1023) e

/-- The state with a class queue waiting at a port, counted (R309, R313, R325). -/
def park (s : State) (port part tc : Nat) (k : Parked) : State :=
  let s1 := modTs s port (fun t => { t with parked := t.parked.filter (fun e => e.1 != (part, tc)) ++ [((part, tc), k)] })
  match k with
  | .pending _ => s1
  | .main _ _ =>
    countEv { s1 with shaper := { s1.shaper with parkedMain := (s1.shaper.parkedMain + 1) % 2 ^ 32 } }
      Isl.ts 0x081 (some port) (some part)
  | .overflow _ _ =>
    countEv { s1 with shaper := { s1.shaper with parkedOvf := (s1.shaper.parkedOvf + 1) % 2 ^ 32 } }
      Isl.ts 0x082 (some port) (some part)
  | .zeroRate => countEv s1 Isl.ts 0x080 (some port) (some part)

/-- The class queue's head frame: the head, among its leaves, with the smallest stamp (R308, R320). -/
def classHead (t : TsPort) (part tc : Nat) : Option QFrame :=
  ((backlogged t).filter (fun l => l.1 == part && l.2.1 == tc)).foldl
    (fun acc l =>
      match leafHead t l, acc with
      | some f, some g => if stampBefore (stampOf f) (stampOf g) then some f else some g
      | some f, none => some f
      | none, a => a) none

/-- A class queue's meter, refilled. -/
def meterOf (s : State) (part tc port : Nat) : Meter :=
  meterAt (AMap.getD s.shaper.meters (meterKey part tc port) {}) s.now

/-- The meter examines a class queue: it leaves its place, and waits again where its head frame is not eligible (R308
to R310). -/
def examine (s : State) (port part tc : Nat) : State :=
  let s0 := modTs s port (fun t => { t with parked := t.parked.filter (fun e => e.1 != (part, tc)) })
  let t := tsPort s0 port
  match classHead t part tc with
  | none => s0
  | some f =>
    let m := meterOf s0 part tc port
    let n := frameLen s0 port f
    if colourOk m (colourOf m n) then s0
    else
      match eligibleAt m n with
      | none => park s0 port part tc .zeroRate
      | some e =>
        let cnt := (t.parked.filter (fun x => match x.2 with | .pending _ => true | _ => false)).length
        park s0 port part tc (parkPlace s0.now e cnt)

/-- Does a class queue wait in the pending set or on a wheel. -/
def isParked (t : TsPort) (part tc : Nat) : Bool := t.parked.any (fun e => e.1 == (part, tc))

/-- A frame queued at a port; the head of a class queue that does not wait is examined (R308, R309, R319). -/
def enqueueFrame (s : State) (port part tc : Nat) (req : Option Nat) (f : TxFrame) : State :=
  let q : QFrame := { part := part, tc := tc, req := req, frame := f }
  let s1 := stampHead (modTs s port (fun t => { t with frames := t.frames ++ [q] })) port (leafOf q)
  if tc = 0 || isParked (tsPort s1 port) part tc then s1 else examine s1 port part tc

/-- A frame whose size coding does not change, queued at a port. -/
def enqueue (s : State) (port part tc : Nat) (req : Option Nat) (len : Nat) (what : Out) : State :=
  enqueueFrame s port part tc req { len := len, plan := len, what := what }

/-! ## The port's choice (R320) -/

/-- Is the priority of a class paused at a far port: TC0 to TC3 travel at PRIO_HI, the others at PRIO_LO (R360, R361). -/
def pfcPaused (s : State) (port tc : Nat) : Bool :=
  if 16 ≤ port ∧ port ≤ 31 then
    let f : FarPort := AMap.getD s.tlaley.ports (port - 16) {}
    if tc ≤ 3 then f.pausedHi.isSome else f.pausedLo.isSome
  else false

/-- Link credits that a frame takes at a near port: ceil(length / 64) units of its class (R268, R331). -/
def creditUnits (s : State) (port : Nat) (f : TxFrame) : Nat := ceilDiv (frameSize s port f) 64

/-- Can a near port's link take a frame: credits of its class, room for replay (R330, R331, R334). -/
def linkTakes (s : State) (port tc : Nat) (f : TxFrame) : Bool :=
  if port < 16 then
    decide (creditUnits s port f ≤ AMap.getD (nearPort s port).credits tc 0) && linkReady s port (streamBytes f.what).length
  else true

/-- The train that a frame belongs to: class and destination (R338). -/
def trainKey : Out → Option (Nat × Nat)
  | .packet k => if k.op = 4 ∨ (k.op = 2 ∧ k.seg) then some (k.tc, k.dst) else none
  | _ => none

/-- Does a frame keep apart the trains of one class to one destination: no other leaf's train to it is under way at its port,
and none at another port (R338). -/
def trainFree (s : State) (port : Nat) (f : QFrame) : Bool :=
  match trainKey f.frame.what with
  | none => true
  | some k => s.shaper.ports.all (fun q => q.2.trains.all (fun e => e.1 != k || (q.1 == port && e.2 == leafOf f)))

/-- The segments being sent by a port after a frame (R269): the key of a near one is its class and destination, that of a far
one its connection and class. -/
def segmentsAfter (t : TsPort) (f : QFrame) : List (Nat × Nat) :=
  match f.frame.seg with
  | none => t.segOut
  | some (_, ends) =>
    let key := match f.frame.what with
      | .packet k => (k.tc, k.dst)
      | _ => (f.frame.via.1, f.tc)
    let rest := t.segOut.filter (fun e => e != key)
    if ends then rest else rest ++ [key]

/-- Has a port a CREDIT_MODE that waits for its idle point: it starts no new segment until then (R269). -/
def modePending (s : State) (port : Nat) : Bool :=
  if port < 16 then (nearPort s port).modePend.isSome
  else if port < 32 then (AMap.getD s.tlaley.ports (port - 16) {}).modePend.isSome
  else false

/-- May a frame start on its link now, whatever its shaping: pause, credits, trains and segments (R269, R331, R338, R361). -/
def mayStart (s : State) (port : Nat) (f : QFrame) : Bool :=
  !pfcPaused s port f.tc && linkTakes s port f.tc f.frame && trainFree s port f
    && !(modePending s port && f.frame.seg.any Prod.fst)

/-- Is a port up. -/
def portUp (s : State) (port : Nat) : Bool :=
  if port < 16 then (AMap.getD s.poltex.ports port {}).state == .up
  else if port < 32 then (AMap.getD s.tlaley.ports (port - 16) {}).state == .up
  else true

/-- The regulator that a frame of a partition meets at a port, with its place: the shared port's, or the host link's (R321). -/
def portRegulator (s : State) (p port : Nat) : Option Nat :=
  if port = 32 then some 1 else if sharesPort s p port then some 2 else none

/-- May a leaf's head frame be sent now (R318). -/
def leafEligible (s : State) (port : Nat) (f : QFrame) : Bool :=
  let t := tsPort s port
  let n := frameLen s port f
  let m := meterOf s f.part f.tc port
  !isParked t f.part f.tc && colourOk m (colourOf m n) && (gateAllows s port f.tc n f.frame.what).1
    && (match portRegulator s f.part port with
        | some i => regPasses s f.part i port n
        | none => true)
    && mayStart s port f

/-- Does f go before g: smaller stamp, then lower partition, lower class, the class leaf, lower request (R320). -/
def frameBefore (f g : QFrame) : Bool :=
  let a := stampOf f
  let b := stampOf g
  if a = b then
    decide (f.part < g.part) || (f.part == g.part &&
      (decide (f.tc < g.tc) || (f.tc == g.tc &&
        (match f.req, g.req with
         | none, some _ => true
         | some i, some j => decide (i < j)
         | _, _ => false))))
  else stampBefore a b

/-- The frame that the port sends next (R320): TC0 first, in order of arrival. -/
def nextFrame (s : State) (port : Nat) : Option QFrame :=
  let t := tsPort s port
  match t.frames.find? (fun f => f.tc == 0 && mayStart s port f) with
  | some f => some f
  | none =>
    ((backlogged t).filterMap (leafHead t)).foldl
      (fun acc f =>
        if leafEligible s port f then
          (match acc with
           | some g => if frameBefore f g then some f else some g
           | none => some f)
        else acc) none

/-- A list without the first frame equal to f. -/
def dropFrame (f : QFrame) : List QFrame → List QFrame
  | [] => []
  | g :: gs => if g = f then gs else g :: dropFrame f gs

/-- A request's header has been written: where it was the last of a containment, the error is handled (R424). -/
def settleHeader (s : State) (g a : Nat) : State :=
  { s with counters := { s.counters with handling := s.counters.handling.filter (fun h => h.until_ != some (g, a) || h.broken) } }

/-- The link after a frame: a near port's takes it into its stream, a far port's counts it, and the write that the host port
sends takes effect in host memory (R306, R330, R331, R476). -/
def linkTake (s : State) (port : Nat) (f : QFrame) : State :=
  if port < 16 then linkSend s port f.tc (creditUnits s port f.frame) f.frame (!(tsPort s port).frames.isEmpty)
  else if port < 32 then
    let s1 := countEv s Isl.fp 0x040 (some (port - 16)) none
    match tlaleyPacket f.frame.what with
    | some (pkt, tc) => emitOut (draw s1) (.ethernet (port - 16) (ethernetFrame s1 (port - 16) f.frame.via pkt tc))
    | none => s1
  else
    let s1 := countEv s Isl.hp 0x050 (some (frameGroup f.frame.what)) none
    match f.frame.what with
    | .tlp g a bs => settleHeader ((hostWrite s1 g a bs).getD s1) g a
    | _ => s1

/-- The trains under way after a frame (R338). -/
def trainsAfter (t : TsPort) (f : QFrame) : List ((Nat × Nat) × Leaf) :=
  match trainKey f.frame.what, f.frame.what with
  | some k, .packet p =>
    let rest := t.trains.filter (fun e => e.1 != k)
    if p.last then rest else rest ++ [(k, leafOf f)]
  | _, _ => t.trains

/-- The meter of a frame of `n` bytes takes its length, and the regulator of its port, where one limits it (R308, R321); TC0
bypasses both (R306). -/
def chargeFrame (s : State) (port n : Nat) (f : QFrame) : State :=
  if f.tc = 0 then s else
    let m := meterOf s f.part f.tc port
    let s1 := { s with shaper := { s.shaper with
      meters := if m.enable then AMap.insert s.shaper.meters (meterKey f.part f.tc port) (meterTake m n)
                else s.shaper.meters } }
    match portRegulator s1 f.part port with
    | some i => regTake s1 f.part i port n
    | none => s1

/-- A frame leaves its port: meters and regulator take, the virtual time follows its stamp, the next frame of its leaf
is stamped and examined (R308, R309, R319, R320). -/
def sendFrame (s : State) (port : Nat) (f : QFrame) : State :=
  let n := frameLen s port f
  let overran := (gateAllows s port f.tc n f.frame.what).2
  let s1 := modTs s port (fun t => { t with
    frames := dropFrame f t.frames
    trains := trainsAfter t f
    segOut := segmentsAfter t f
    vtime := if f.tc = 0 then t.vtime else (f.stamp.map Prod.fst).getD t.vtime
    overruns := if overran then (t.overruns + 1) % 2 ^ 32 else t.overruns
    lastStamp := t.lastStamp.map (fun e => if (e.1, e.2.1, e.2.2.1) == leafOf f then (e.1, e.2.1, e.2.2.1, e.2.2.2.1, s.now) else e) })
  let s2 := if overran then countEv s1 Isl.ts 0x083 (some port) (some f.part) else s1
  let s3 := chargeFrame s2 port n f
  let s4 := stampHead s3 port (leafOf f)
  let s5 := if f.tc = 0 then s4 else examine s4 port f.part f.tc
  let s6 := emitOut (linkTake s5 port f) f.frame.what
  match f.frame.also with
  | some o => emitOut s6 o
  | none => s6

/-! ## The meanings -/

/-- PENDING_REEXAMINE: at its eligible time a queue of the pending set is examined again (R308, R310). -/
def execPendingReexamine (part tc port : Nat) (s : State) : Answer :=
  if ready s then
    match (tsPort s port).parked.find? (fun e => e.1 == (part, tc)) with
    | some (_, .pending e) => if e ≤ s.now then .next (examine s port part tc) else .next s
    | _ => .next s
  else .next s

/-- The queues of every port that wait in a place, in order of port and parking. -/
def waitersIn (s : State) (hit : Parked → Bool) : List (Nat × Nat × Nat) :=
  ((List.range 33).map (fun n => ((tsPort s n).parked.filter (fun x => hit x.2)).map (fun x => (n, x.1.1, x.1.2)))).flatten

/-- WHEEL_SLOT_RELEASE: a main-wheel slot whose interval has begun gives back its queues, and the meter examines each
(R314). -/
def execWheelSlotRelease (slot : Nat) (s : State) : Answer :=
  if ready s then
    .next ((waitersIn s (fun k => match k with
        | .main i _ => i % 8192 == slot % 8192 && decide (i * 128 ≤ s.now)
        | _ => false)).foldl (fun s q => examine s q.1 q.2.1 q.2.2) s)
  else .next s

/-- OVERFLOW_SLOT_RELEASE: queues of an overflow slot whose interval has begun move to the main wheel; one parked from
beyond the horizon is examined again (R313). -/
def execOverflowSlotRelease (slot : Nat) (s : State) : Answer :=
  if ready s then
    let due := fun (k : Parked) => match k with
      | .overflow i _ => i % 1024 == slot % 1024 && decide (i * 0x100000 ≤ s.now)
      | _ => false
    .next ((waitersIn s due).foldl (fun s q =>
      match (tsPort s q.1).parked.find? (fun e => e.1 == (q.2.1, q.2.2) && due e.2) with
      | some (_, .overflow i e) =>
        if e < (i + 1) * 0x100000 then park s q.1 q.2.1 q.2.2 (.main (ceilDiv e 128) e)
        else examine s q.1 q.2.1 q.2.2
      | _ => s) s)
  else .next s

/-- Start a gate list at its entry 0 (R316). -/
def startList (t : TsPort) (nent base : Nat) (bank : Nat) : TsPort :=
  { t with running := some (nent, base), bank := bank, entry := 0, entryAt := base, armed := none }

/-- GATE_ENTRY_BOUNDARY: the end of the entry in force brings the next one, at the cycle's end entry 0 (R315). -/
def execGateEntryBoundary (port : Nat) (s : State) : Answer :=
  let t := tsPort s port
  match t.running with
  | none => .next s
  | some (nent, _) =>
    let fin := t.entryAt + entryNs (gateEntry t t.bank t.entry)
    if ready s && decide (fin ≤ localTime s (portIsland port)) then
      .next (modTs s port (fun t => { t with entry := if t.entry < nent then t.entry + 1 else 0, entryAt := fin }))
    else .next s

/-- GATE_TAKEOVER: the armed list takes over at its time (R29, R316). -/
def execGateTakeover (port : Nat) (s : State) : Answer :=
  let t := tsPort s port
  match t.armed, takeoverAt t with
  | some (nent, _), some at_ =>
    let lt := localTime s (portIsland port)
    if ready s && t.enable && decide (at_ ≤ lt) then
      .next (modTs s port (fun t => startList t nent at_ (if t.bank = 0 then 1 else 0)))
    else .next s
  | _, _ => .next s

/-- LEAF_IDLE_FORGET: a leaf idle for 1 s forgets its last stamp (R319). -/
def execLeafIdleForget (port part tc : Nat) (req : Option Nat) (s : State) : Answer :=
  let t := tsPort s port
  let l : Leaf := (part, tc, req)
  if ready s && !(backlogged t).contains l then
    .next (modTs s port (fun t => { t with lastStamp := t.lastStamp.filter (fun e =>
      !((e.1, e.2.1, e.2.2.1) == l && decide (e.2.2.2.2 + 1000000000 ≤ s.now))) }))
  else .next s

end Sys2Proof.Machine
end

