-- ==== Sys2Proof/Machine/Net.lean ====
section
/-! DEFINITION. Sending: Poltex paths and transactions (12_rack_fabric.md R341, R342, R350), Tlaley connections and
transfers (13_remote_access.md R365 to R378), and the one way by which a device message leaves (R23, R98, R378). -/

namespace Sys2Proof.Machine

/-! ## Handles (R54) -/

abbrev hGen (h : Nat) : Nat := bits h 63 54
abbrev hDomain (h : Nat) : Nat := bits h 53 42
abbrev hEp (h : Nat) : Nat := bits h 41 32
abbrev hFrame (h : Nat) : Nat := bits h 31 0

/-- The module that a handle names as home. -/
def hHome (h : Nat) : Nat × Nat := (hDomain h, hEp h)

/-- A handle of a frame of module m with a tag. -/
def mkHandle (m : Nat × Nat) (gen frame : Nat) : Nat :=
  gen % 1024 * 2 ^ 54 + m.1 % 4096 * 2 ^ 42 + m.2 % 1024 * 2 ^ 32 + frame % 2 ^ 32

/-! ## Poltex paths -/

/-- The planes whose near port is live, as a mask (R341). -/
def livePlanes (s : State) : Nat := ofSetBits ((List.range 16).filter (fun n => (nearPort s n).state == .up))

/-- The mask most recently received from an endpoint, every plane when none has arrived (R341). -/
def heardMask (s : State) (t : Nat) : Nat :=
  if s.poltex.heard.contains t then AMap.getD s.poltex.masks t 0 else 0xFFFF

/-- The path set P of a partition's transactions to endpoint t (R341). -/
def pathSet (s : State) (p t : Nat) : Nat :=
  Nat.land (Nat.land (livePlanes s) (nearPorts s p)) (heardMask s t)

/-- The hash f of R341 over address a, target t and source s. -/
def planeHash (a t src : Nat) : Nat :=
  let v := bits a 47 12 + t * 2 ^ 36 + src * 2 ^ 46
  (List.range 10).foldl (fun x i => xorN x (bits v (6 * i + 5) (6 * i))) 0

/-- The plane that R341 computes in a path set; none where P is empty. -/
def planeOf (P a t src : Nat) : Option Nat :=
  let ps := setBits 16 P
  if ps.isEmpty then none else ps[planeHash a t src % ps.length]?

/-- Dead-target bound in ns (R353). -/
def deadBoundNs (s : State) : Nat := 1000 * clampN 1 64 s.poltex.deadBound

/-- A frame's content with the port it leaves by. -/
def atPort (port : Nat) : Out → Out
  | .packet k => .packet { k with port := port }
  | .tpacket k => .tpacket { k with port := port }
  | .segment d _ g => .segment d port g
  | o => o

/-! ## Send streams and what they claim (R244 to R248) -/

/-- A send stream of a port, 0 to 15 near and 16 to 31 far. -/
def streamOf (s : State) (port n : Nat) : Stream := AMap.getD s.streams (port * 256 + n) {}

/-- The state with a stream changed. -/
def modStream (s : State) (port n : Nat) (f : Stream → Stream) : State :=
  { s with streams := AMap.insert s.streams (port * 256 + n) (f (streamOf s port n)) }

/-- Does a stream leave what it claims unchanged (R247). -/
def passesThrough (x : Stream) : Bool := x.wire == 0 && !x.compress

/-- Can a transfer of n bytes at a destination offset travel as segments of a stream: whole native elements, and whole
32-element blocks of its context with REDUCE (R248; log entry 27). -/
def segmentable (x : Stream) (off n : Nat) : Bool :=
  n % nativeWidth x.native == 0
    && (!x.reduce || ((off - x.winBase) % (32 * nativeWidth x.native) == 0 && n % (32 * nativeWidth x.native) == 0))

/-- The lowest-numbered send stream of a port that claims a transfer (R245): its partition, class, target, and the
destination range where the transfer has one. A MSG or SEND has none, and counts as inside every window (log entry 127). -/
def claimOf (s : State) (p port tc : Nat) (target : Nat × Nat) (range : Option (Nat × Nat)) : Option (Nat × Stream) :=
  (((List.range 128).map (fun n => (n, streamOf s port n))).find? (fun e =>
    let x := e.2
    x.enable && x.mode == 0 && x.part == p && bit x.classes tc
      && (x.anyDest || (x.destEp == target.2 && (decide (port < 16) || x.destDomain == target.1)))
      && (match range with
          | some (a, n) => decide (x.winBase ≤ a ∧ a + n ≤ x.winBase + x.winLen)
          | none => true)))

/-- How a stream narrows (R250, R251). -/
def narrowCfg (x : Stream) : NarrowCfg :=
  { wire := x.wire, fixedE := if x.reduce && x.wire == 3 then some x.fixedE else none
    kqDynamic := x.kqDynamic, kqScale := x.kqScale, kqShift := x.kqShift }

/-- A segment as a stream sends it, its length before coding, and what its narrowing counted. -/
structure SentSegment where
  seg      : Segment
  uncoded  : Nat
  elems    : Nat
  clipped  : Nat
  nans     : Nat
deriving DecidableEq, Repr

/-- One segment: native bytes narrowed, then coded (R248). -/
def makeSegment (x : Stream) (dest : Nat) (data : List Byte) : SentSegment :=
  let nw := nativeWidth x.native
  let n : Narrowed := if x.wire = 0 then ⟨data, 0, 0⟩ else narrow (narrowCfg x) ((pieces nw data).map (nativeVal x.native))
  let width := if x.wire ≠ 0 then 0 else if x.native = 0 then 1 else 2
  let d := if x.reduce then ((dest - x.winBase) / (32 * nw)) % 2 ^ 20 else dest
  { seg := { wire := x.wire, native := x.native, codec := x.compress, width := width, reduce := x.reduce, rctx := x.rctx
             nativeLen := data.length, dest := d
             body := if x.compress then encodeBody width x.expDelta n.bytes else n.bytes }
    uncoded := n.bytes.length, elems := if x.wire = 0 then 0 else data.length / nw, clipped := n.clipped, nans := n.nans }

/-- Counters of a stream after a segment (R260). -/
def countSegment (x : Stream) (g : SentSegment) : Stream :=
  { x with total := min (2 ^ 48 - 1) (x.total + g.elems), clipped := min (2 ^ 48 - 1) (x.clipped + g.clipped)
           nanBlocks := min 0xFFFF (x.nanBlocks + g.nans) }

/-- Payload bytes that planning mode charges for a segment: its header and its body before coding (R268). -/
def plannedBytes (g : SentSegment) : Nat := (segmentBytes g.seg).length - g.seg.body.length + g.uncoded

/-- The aligned pieces of a transfer of n bytes at a remote offset: 256-byte ones where SIZE256 is set and they are
aligned, else 64-byte ones (R221); as (offset, bytes). -/
def linePieces (size256 : Bool) : Nat → Nat → Nat → List (Nat × Nat)
  | 0, _, _ => []
  | fuel + 1, off, n =>
    if n = 0 then []
    else
      let k := if size256 && off % 256 == 0 && decide (256 ≤ n) then 256 else min n 64
      (off, k) :: linePieces size256 fuel (off + k) (n - k)

/-- The stream that claims a transfer to an endpoint on the path that an address takes now (R245, R341): port, number and
settings. A stream that leaves its traffic unchanged claims nothing here. -/
def nearClaim (s : State) (p tc target addr : Nat) (range : Option (Nat × Nat)) : Option (Nat × Nat × Stream) :=
  match planeOf (pathSet s p target) addr target (me s).2 with
  | none => none
  | some port =>
    match claimOf s p port tc ((me s).1, target) range with
    | some (n, x) => if passesThrough x then none else some (port, n, x)
    | none => none

/-- Bytes of a Poltex packet with its identity extension (R335). -/
def packetLen (payload : Nat) : Nat := 32 + payload

/-- The header fields that a module's own packet carries (R335). -/
def ownPacket (s : State) (p op tc dst tag addr plen : Nat) (payload : List Byte) : Packet :=
  { port := 0, op := op, tc := tc, idx := true, src := (me s).2, dst := dst, tag := tag, addr := addr, plen := plen,
    spart := p, epoch := (partOf s p).epoch, payload := payload }

/-- The transport reports a device message's target dead (R110, R151). -/
def reportDead (s : State) (o : Out) : State := { s with reported := s.reported ++ [o] }

/-- Has an instruction a transaction not yet answered. -/
def fabricPending (s : State) (w : IRef) : Bool :=
  s.poltex.txns.any (fun t => t.w == some w) || s.poltex.held.any (fun h => h.txn.w == some w)

/-- A fabric instruction whose transactions are all sent and answered finishes with the first refusal met, or
DEAD_TARGET (R221, R350); RESULT keeps its value on an error for LOAD and ATOMIC alone. -/
def closeFabric (s : State) (w : IRef) : State :=
  if fabricPending s w then s
  else modIssued s w (fun i =>
    if i.started && i.status.isNone then
      { i with status := some i.aux
               result := if i.aux ≠ 0 ∧ opcodeOf i.words ≠ 0x60 ∧ opcodeOf i.words ≠ 0x62 then 0 else i.result }
    else i)

/-- A copy's data did not arrive: its migration ends (R112). -/
def noteCopy (s : State) (c : Option CopyOf) (status : Nat) : State :=
  match c with
  | some x => if status = St.ok then s else { s with home := { s.home with badCopies := x :: s.home.badCopies } }
  | none => s

/-- A transaction's answer taken by its instruction: data of a LOAD, the old value of an ATOMIC, a refusal (R346). -/
def answerTxn (s : State) (t : Txn) (status : Nat) (payload : List Byte) : State :=
  match t.w with
  | none => noteCopy s t.copy status
  | some w =>
    closeFabric (modIssued (noteFenced s w.part status) w (fun i =>
      { i with
        aux := if i.aux = 0 then status else i.aux
        result := if t.op = 3 ∧ status = St.ok then fromLe payload else i.result
        effects := if t.op = 1 ∧ status = St.ok ∧ t.len ≠ 0 then i.effects ++ [.devWrite t.dst payload] else i.effects })) w

/-- What a dead transaction gives its instruction (R350): all-ones data or old value, and DEAD_TARGET. -/
def deadForInstr (s : State) (t : Txn) : State :=
  match t.w with
  | none => s
  | some w =>
    closeFabric (modIssued s w (fun i =>
      { i with
        aux := St.deadTarget
        result := if t.op = 1 then i.result + t.len / 64 else if t.op = 3 then 2 ^ (8 * t.len) - 1 else i.result
        effects := if t.op = 1 then i.effects ++ [.devWrite t.dst (List.replicate t.len 0xFF)] else i.effects })) w

/-- A transaction is declared dead: counted, recorded, and answered in the target's place (R350). -/
def deadTxn (s : State) (t : Txn) : State :=
  let s1 := { s with poltex := { s.poltex with txns := s.poltex.txns.filter (fun x => x.tag != t.tag) } }
  let s2 := countEv s1 Isl.np 0x035 (some t.plane) (some t.part)
  let s3 := report s2 (t.w.map ErrContext.instr) (some t.part) false
    { code := 0x05, part := t.part, queue := t.w.map (·.queue), status := St.deadTarget, address := t.addr
      detail := t.target }
  match t.dev with
  | some o => reportDead s3 o
  | none => deadForInstr (noteCopy s3 t.copy St.deadTarget) t

/-- The frame of one packet. -/
def packetFrame (k : Packet) : TxFrame :=
  { len := packetLen k.payload.length, plan := packetLen k.payload.length, what := .packet k }

/-- The packets of a train (R338) that carry a segment or a message. `planned` bytes of payload are charged in planning mode
(R268); `also` is the device message that is complete with the last packet. -/
def trainFrames (s : State) (p op tc target addr : Nat) (seg : Bool) (bs : List Byte) (planned : Nat) (also : Option Out) :
    List TxFrame :=
  let ps := pieces 256 bs
  ((List.range ps.length).zip ps).map (fun e =>
    let lastOne := e.1 + 1 == ps.length
    let left := planned - 256 * e.1
    let k : Packet := { ownPacket s p op tc target 0 addr e.2.length e.2 with seg := seg, first := e.1 == 0, last := lastOne }
    { len := packetLen e.2.length, plan := packetLen (if lastOne then left else min 256 left), what := .packet k
      also := if lastOne then also else none, seg := if seg then some (e.1 == 0, lastOne) else none })

/-- A transaction sent on its path now (R341); with no path it is declared dead (R342). The frames queue at the plane's
port in order. -/
def launchTxn (s : State) (t : Txn) (frames : List TxFrame) : State :=
  let P := pathSet s t.part t.target
  match planeOf P (if t.op = 4 then 0 else t.addr) t.target (me s).2 with
  | none => deadTxn s { t with tag := 0x10000 }
  | some plane =>
    let tag := s.poltex.nextTag % 65536
    let t' := { t with tag := tag, plane := plane, paths := P, deadline := s.now + deadBoundNs s }
    let s1 := { s with poltex := { s.poltex with txns := s.poltex.txns ++ [t'], nextTag := (tag + 1) % 65536 } }
    let withTag := fun (o : Out) => match o with
      | .packet k => .packet { k with tag := tag }
      | o => o
    frames.foldl (fun s f => enqueueFrame s plane t.part t.tc t.req { f with what := atPort plane (withTag f.what) }) s1

/-- The unanswered transactions whose path set has changed since they were sent are marked: until the last of them is
answered or dead, their source sends no new one to their target (R342). -/
def notePaths (s : State) : State :=
  { s with poltex := { s.poltex with
      txns := s.poltex.txns.map (fun t => { t with stale := t.stale || t.paths != pathSet s t.part t.target }) } }

/-- Must a transaction wait: P has changed for its target and an earlier transaction is unanswered (R342). -/
def mustHold (s : State) (p target : Nat) : Bool :=
  s.poltex.txns.any (fun t => t.target == target && t.part == p && t.stale)

/-- Must a new transaction of a partition to a target be held behind those before it (R342). -/
def holds (s : State) (p target : Nat) : Bool :=
  mustHold s p target || s.poltex.held.any (fun h => h.txn.target == target && h.txn.part == p)

/-- Send a transaction, or hold it (R342). -/
def sendTxn (s : State) (t : Txn) (frames : List TxFrame) : State :=
  if holds s t.part t.target then { s with poltex := { s.poltex with held := s.poltex.held ++ [{ txn := t, frames := frames }] } }
  else launchTxn s t frames

/-- A page of a STORE, or a MSG, sent as it stands: plain transactions, or one train (R221, R338). -/
def launchPlain (s : State) (t : Txn) (c : Cargo) : State :=
  if t.op = 4 then launchTxn s t (trainFrames s t.part 4 t.tc t.target c.tag false c.bytes c.bytes.length none)
  else
    (linePieces c.wide (c.bytes.length + 1) t.addr c.bytes.length).foldl (fun s e =>
      launchTxn s { t with addr := e.1, len := e.2 }
        [packetFrame (ownPacket s t.part 2 t.tc t.target 0 e.1 e.2 ((c.bytes.drop (e.1 - t.addr)).take e.2))]) s

/-- A page of a STORE, or a MSG, enters the near port that its path takes now: where a stream of that port claims it, it
leaves as a segment under the settings that the stream has then, in one train whose packets carry DEST or the message's tag
(R245, R246, R248, R338, R347). -/
def launchCargo (s : State) (t : Txn) (c : Cargo) : State :=
  match nearClaim s t.part t.tc t.target (if t.op = 4 then 0 else t.addr) c.range with
  | none => launchPlain s t c
  | some (port, n, x) =>
    if (if t.op = 4 then c.bytes.length % nativeWidth x.native == 0 && !x.reduce else segmentable x t.addr c.bytes.length) then
      let g := makeSegment x (if t.op = 4 then 0 else t.addr) c.bytes
      let s1 := modStream s port n (fun x => countSegment x g)
      launchTxn s1 { t with len := g.seg.nativeLen }
        (trainFrames s1 t.part t.op t.tc t.target (if t.op = 4 then c.tag else g.seg.dest) true (segmentBytes g.seg)
          (plannedBytes g) none)
    else launchPlain s t c

/-- A page of a STORE, or a MSG, sent or held (R342). -/
def sendCargo (s : State) (t : Txn) (c : Cargo) : State :=
  if holds s t.part t.target then
    { s with poltex := { s.poltex with held := s.poltex.held ++ [{ txn := t, frames := [], cargo := some c }] } }
  else launchCargo s t c

/-- The held transactions that need wait no longer are sent, in order (R342). -/
def releaseHeld (s : State) : State :=
  s.poltex.held.foldl (fun s h =>
    if holds s h.txn.part h.txn.target then { s with poltex := { s.poltex with held := s.poltex.held ++ [h] } }
    else match h.cargo with
      | some c => launchCargo s h.txn c
      | none => launchTxn s h.txn h.frames) { s with poltex := { s.poltex with held := [] } }

/-! ## Tlaley connections -/

/-- A connection. -/
def connOf (s : State) (n : Nat) : Conn := AMap.getD s.tlaley.conns n {}

/-- The state with a connection changed. -/
def modConn (s : State) (n : Nat) (f : Conn → Conn) : State :=
  { s with tlaley := { s.tlaley with conns := AMap.insert s.tlaley.conns n (f (connOf s n)) } }

/-- The state with a far port changed. -/
def modFar (s : State) (n : Nat) (f : FarPort → FarPort) : State :=
  { s with tlaley := { s.tlaley with ports := AMap.insert s.tlaley.ports n (f (farPort s n)) } }

/-- Far ports that are UP, as a mask. -/
def liveFar (s : State) : Nat := ofSetBits ((List.range 16).filter (fun n => (farPort s n).state == .up))

/-- First number and size of a partition's run of connections (R382). -/
def connRun (s : State) (p : Nat) : Nat × Nat := ((sliceOf s p).connBase * 1024, (sliceOf s p).connSize * 1024)

/-- The lowest FREE number of a partition's run (R365). -/
def lowestFree (s : State) (p : Nat) : Option Nat :=
  let run := connRun s p
  ((List.range (min run.2 (s.tlaley.conns.length + 1))).map (· + run.1)).find? (fun n => (connOf s n).state == .free)

/-- The epoch of the k-th open of a number since the module start (R365). -/
def connEpochOf (s : State) (k : Nat) : Nat := s.flash.starts % 4096 * 2 ^ 20 + k % 2 ^ 20

/-- No segment of a connection is being sent or taken in any more (R269). -/
def dropSegs (s : State) (n : Nat) : State :=
  { s with
    shaper := { s.shaper with ports := s.shaper.ports.map (fun e =>
      if 16 ≤ e.1 ∧ e.1 < 32 then (e.1, { e.2 with segOut := e.2.segOut.filter (fun x => x.1 != n) }) else e) }
    tlaley := { s.tlaley with ports := s.tlaley.ports.map (fun e => (e.1, { e.2 with segIn := e.2.segIn.filter (· != n) })) } }

/-- A connection returned to FREE; its rebuild count stays with the number (R365). -/
def freeConn (s : State) (n : Nat) : State := modConn (dropSegs s n) n (fun c => { rebuilds := c.rebuilds })

/-- The live set of a connection: its PORTS that its partition holds and that are UP (R377). -/
def liveSet (s : State) (c : Conn) : List Nat := setBits 16 (Nat.land (Nat.land c.ports (farPorts s c.part)) (liveFar s))

/-- The live set of a connection, and its port in it (R377). -/
def connPort (s : State) (n : Nat) : Option Nat :=
  let ps := liveSet s (connOf s n)
  if ps.isEmpty then none else ps[n % ps.length]?

/-- Bytes of a Tlaley frame around its payload: tag, IP, UDP, Tlaley header and FCS (R360, R362). -/
def tlaleyHeader (ipv6 : Bool) : Nat := if ipv6 then 102 else 82

/-- A frame of connection n with so many bytes of payload (R360). -/
def connFrame (n : Nat) (c : Conn) (len : Nat) (what : Out) : TxFrame :=
  { len := tlaleyHeader c.ipv6 + len, plan := tlaleyHeader c.ipv6 + len, what := what, via := (n, c.ipv6, c.rip) }

/-- PMTU in bytes (R362, R365). -/
def pmtuBytes (c : Conn) : Nat := 1024 * 2 ^ c.pmtu

/-- A control packet of a connection queued at its port; with no live port it is lost. -/
def sendControl (s : State) (n tc : Nat) (k : TPacket) : State :=
  let c := connOf s n
  match connPort s n with
  | none => s
  | some port => enqueueFrame s (16 + port) c.part tc none (connFrame n c 0
      (.tpacket { k with port := port, level := c.level, tc := tc, dconn := c.rconn, dcepoch := c.rcepoch,
                         dev := c.device, spart := c.part, pepoch := (partOf s c.part).epoch }))

/-- OPEN, OPEN_ACK, CLOSE or CLOSE_ACK with its connection record (R364, R365). -/
def sendConnMsg (s : State) (n op : Nat) (c : Conn) (r : ConnRecord) : State :=
  let k : TPacket := { port := 0, level := c.level, op := op, dev := c.device,
                       dconn := if op = 8 then 0 else c.rconn, dcepoch := if op = 8 then 0 else c.rcepoch,
                       spart := c.part, pepoch := (partOf s c.part).epoch }
  match connPort s n with
  | none => s
  | some port => enqueueFrame s (16 + port) c.part 0 none (connFrame n c 16 (.connMsg op { k with port := port } r))

/-- The connection record that this end of a connection sends (R365). -/
def recordOf (s : State) (n status : Nat) : ConnRecord :=
  let c := connOf s n
  { sdomain := (me s).1, sep := (me s).2, tpart := c.peer.part, pmtu := c.pmtu, sconn := n, status := status
    scepoch := c.lcepoch }

/-- OPEN sent: the first time, or again (R365). -/
def sendOpen (s : State) (n : Nat) : State :=
  let s1 := modConn s n (fun c => { c with tries := c.tries + 1, triedAt := s.now })
  sendConnMsg s1 n 8 (connOf s1 n) (recordOf s1 n 0)

/-- A number taken for a new connection in state OPENING (R365, R366). -/
def takeConn (s : State) (n : Nat) (c : Conn) : State :=
  modConn s n (fun old => { c with state := .opening, rebuilds := old.rebuilds + 1, lcepoch := connEpochOf s (old.rebuilds + 1) })

/-- PSNs from b up to a, modulo 2^24. -/
def psnSub (a b : Nat) : Nat := (a + 2 ^ 24 - b % 2 ^ 24) % 2 ^ 24

/-- p is behind e (R370). -/
def psnBehind (p e : Nat) : Bool := let d := psnSub e p; decide (1 ≤ d ∧ d ≤ 2 ^ 23)

/-- RTO in ns (R380). -/
def rtoNs (s : State) : Nat := 1000 * max 1 s.tlaley.rto

/-- A transfer queued on a connection, with the PSNs that follow those of the transfer before it. -/
def addXfer (s : State) (n : Nat) (x : Xfer) : State :=
  modConn s n (fun c => { c with
    xfers := c.xfers ++ [{ x with first := c.allocated }]
    allocated := (c.allocated + x.npsn) % 2 ^ 24
    progressAt := if c.xfers.isEmpty then s.now else c.progressAt
    rtoAt := if c.xfers.isEmpty then s.now + rtoNs s else c.rtoAt })

/-! ## Room on chip (R375) -/

/-- Connections whose state is held on chip (R375). -/
def onChipLimit : Nat := 65536

/-- Connection of a Remote instruction. -/
def connNumber (ws : List Nat) : Nat := bits (opA ws) 19 0

/-- The connections that issued instructions name (R222). -/
def namedConns (s : State) : List Nat :=
  s.parts.flatMap (fun P => P.2.queues.flatMap (fun q => (q.2.issued.filter (fun i => decide (0x70 ≤ opcodeOf i.words ∧
    opcodeOf i.words ≤ 0x74) && opcodeOf i.words != 0x73)).map (fun i => connNumber i.words)))

/-- May a connection's state be written back: nothing unacknowledged, issued or still to send (R375). -/
def evictable (named : List Nat) (n : Nat) (c : Conn) : Bool :=
  !named.contains n && (c.state == .open_ || c.state == .failed) && c.onChip && c.xfers.isEmpty && c.opener.isNone && c.closer.isNone
    && c.firstUnackedAt.isNone && c.resps.isEmpty

/-- Can a connection's state be written to the host table of its partition (R375, R438). -/
def hostTableUp (s : State) (c : Conn) : Bool := linkUp s (partOf s c.part).connHostFn

/-- The host table's place for a connection's 256 bytes (R375). -/
def hostTableAddr (s : State) (n : Nat) (c : Conn) : Nat := (partOf s c.part).connHost + (n - (connRun s c.part).1) * 256

/-- The least recently used of the connections that may be written back; `progressAt` is its time of last use. -/
def lruConn (named : List Nat) : List (Nat × Conn) → Option (Nat × Conn)
  | [] => none
  | e :: es =>
    match lruConn named es with
    | none => if evictable named e.1 e.2 then some e else none
    | some b => if evictable named e.1 e.2 && decide (e.2.progressAt ≤ b.2.progressAt) then some e else some b

/-- Room made for one more connection's state: the 256 bytes that go to the host table are private to the device, and so left
open (R375; log entry 148). -/
def makeRoom (s : State) : State :=
  if (s.tlaley.conns.filter (fun e => e.2.state != .free && e.2.onChip)).length < onChipLimit then s
  else
    match lruConn (namedConns s) (s.tlaley.conns.filter (fun e => hostTableUp s e.2)) with
    | some e =>
      modConn ((hostPost (draw s) (partOf s e.2.part).connHostFn (hostTableAddr s e.1 e.2)
        ((List.range 256).map (Config.freeByte s.freeCtr))).getD s) e.1 (fun c => { c with onChip := false })
    | none => s

/-! ## Device connections (R378) -/

/-- A connection of a partition to a partition of a module, with DEV or without: the one in use, or a new one, opened on first
use. The manual does not say where the device finds the peer's address: any address (log entry 122). -/
def peerConn (device : Bool) (s : State) (p tpart : Nat) (dest : Nat × Nat) : State × Option Nat :=
  match List.find? (fun (e : Nat × Conn) => e.2.device == device && e.2.part == p && e.2.peer.domain == dest.1 && e.2.peer.ep == dest.2
      && e.2.peer.part == tpart && (e.2.state == .opening || e.2.state == .open_)) s.tlaley.conns with
  | some e => (s, some e.1)
  | none =>
    match lowestFree s p with
    | none => (s, none)
    | some n =>
      let c : Conn := { part := p, peer := ⟨dest.1, dest.2, tpart, 0⟩, pmtu := 2, ipv6 := (compOf s).ipv6, ports := 0xFFFF
                        rip := (List.range (if (compOf s).ipv6 then 16 else 4)).map (Config.freeByte s.freeCtr), device := device }
      (sendOpen (takeConn (makeRoom (draw s)) n c) n, some n)

/-- The device connection of a partition to a partition of a module (R378). -/
def deviceConn (s : State) (p tpart : Nat) (dest : Nat × Nat) : State × Option Nat := peerConn true s p tpart dest

/-- Fail the device messages of a connection: the transport reports their target dead (R371). -/
def reportXfers (s : State) (xs : List Xfer) : State :=
  xs.foldl (fun s x => match x.dev with
    | some o => reportDead s o
    | none => s) s

/-! ## Device messages -/

/-- A device message on its way (R23, R98, R338, R378): over the network-on-chip to this module, as a train of packets by a
near port within the domain, on a device connection to another domain. `len` is its length in bytes; `req` is the request
that its instruction names, if it names one. -/
def sendMsg (s : State) (p tc : Nat) (dest : Nat × Nat) (tpart len : Nat) (o : Out) (req : Option Nat := none) : State :=
  if dest = me s then { s with noc := s.noc ++ [o] }
  else
    let bs := outBytes s.freeCtr len o
    let s := draw s
    if dest.1 = (me s).1 then
      let addr := 0xFFFFFFFF + tpart * 2 ^ 32
      sendTxn s { tag := 0, w := none, op := 4, target := dest.2, addr := addr, len := len, part := p, tc := tc, dev := some o
                  req := req } (trainFrames s p 4 tc dest.2 addr false bs bs.length (some o))
    else
      match deviceConn s p tpart dest with
      | (s1, none) => reportDead s1 o
      | (s1, some n) =>
        addXfer s1 n { w := none, op := 4, first := 0, npsn := max 1 (ceilDiv bs.length (pmtuBytes (connOf s1 n))), len := bs.length, tc := tc
                       dev := some o, data := bs, req := req }

/-- Traffic class of a trapeze message: TC0 for FENCE_ACK and QUERY, TC2 for every other (R97, R210; log entry 92). -/
def trapezeClass (m : TMsg) : Nat := if m.ttype = 0x11 ∨ m.ttype = 0x07 then 0 else 2

/-- A trapeze message (R97). -/
def sendTrapeze (s : State) (p : Nat) (dest : Nat × Nat) (m : TMsg) : State :=
  sendMsg s p (trapezeClass m) dest m.toPart 64 (.trapeze dest m)

/-! ## Copies of device data (R111, R378, R409) -/

/-- The data of a copy on its way to a frame at another home, as (offset in the frame, bytes): STOREs within the domain, WRITEs
with DEV 1 on a device connection to another. At this module it is written at once. -/
def sendCopy (s : State) (p tc : Nat) (dest : Nat × Nat) (tpart handle : Nat) (rows : List (Nat × List Byte)) (c : CopyOf) : State :=
  let base := hFrame handle * 0x4000
  if dest = me s then rows.foldl (fun s r => devPut s (base + r.1) r.2) s
  else if dest.1 = (me s).1 then
    rows.foldl (fun s r => (linePieces true (r.2.length + 1) (base + r.1) r.2.length).foldl (fun s e =>
      sendTxn s { tag := 0, w := none, op := 2, target := dest.2, addr := e.1, len := e.2, part := p, tc := tc, copy := some c }
        [packetFrame (ownPacket s p 2 tc dest.2 0 e.1 e.2 ((r.2.drop (e.1 - base - r.1)).take e.2))]) s) s
  else
    match deviceConn s p tpart dest with
    | (s1, none) => noteCopy s1 (some c) St.noConnection
    | (s1, some n) => rows.foldl (fun s r => addXfer s n { w := none, op := 1, first := 0, npsn := max 1 (ceilDiv r.2.length (pmtuBytes (connOf s1 n)))
                                                           len := r.2.length, raddr := base + r.1, tc := tc, data := r.2
                                                           copy := some c }) s1

/-- Is data of a copy still on its way. -/
def copyPending (s : State) (c : CopyOf) : Bool :=
  s.poltex.txns.any (fun t => t.copy == some c) || s.poltex.held.any (fun h => h.txn.copy == some c)
    || s.tlaley.conns.any (fun e => e.2.xfers.any (fun x => x.copy == some c))

/-- Did data of a copy not arrive (R112). -/
def copyFailed (s : State) (c : CopyOf) : Bool := s.home.badCopies.contains c

/-- What is known of a copy that has ended is forgotten. -/
def forgetCopy (s : State) (c : CopyOf) : State :=
  { s with home := { s.home with badCopies := s.home.badCopies.filter (· != c) } }

/-! ## The network-on-chip (R36, R37) -/

/-- Traffic class of a message that waits on the network-on-chip (R97, R149, R210, R335). -/
def nocClass : Out → Nat
  | .fenceTo _ _ => 0
  | .trapeze _ m => trapezeClass m
  | .attend _ _ => 3
  | .migrateMsg _ _ => 4
  | .rebuildMsg _ _ _ => 6
  | .packet k => k.tc
  | .tpacket k => k.tc
  | _ => 2

/-- Does a message travel in its class's response channel (R36): DATA and CPL among the packets. -/
def nocResponse : Out → Bool
  | .trapeze _ m => m.ttype == 0x06 || m.ttype == 0x08 || m.ttype == 0x11
  | .allocReply _ _ _ => true
  | .attend request _ => !request
  | .rebuildMsg _ request _ => !request
  | .packet k => k.op == 8 || k.op == 9
  | _ => false

/-- Source and destination attachment of a message: a near port for what came in by one, else the control cores; a
memory controller for LOAD, STORE and ATOMIC, else the control cores. -/
def nocEnds : Out → Nat × Bool
  | .packet k => (1 + k.port, decide (1 ≤ k.op ∧ k.op ≤ 3))
  | _ => (0, false)

/-- Do two messages take one virtual channel between the same attachments: the network delivers these in order (R37). -/
def sameLane (a b : Out) : Bool :=
  nocClass a == nocClass b && nocResponse a == nocResponse b && decide (nocEnds a = nocEnds b)

/-- Lines of 64 bytes that a request touches (R343, R348): a segment's STORE, once its train is whole, those of its native
range; a contribution none. -/
def opLines (k : Packet) : List Nat :=
  let g := (segmentOf k.payload).1
  let r := if k.op = 2 ∧ k.seg then (g.dest, if g.reduce then 0 else min 4096 g.nativeLen)
    else (k.addr, max 1 (if k.op = 3 then (if k.aw then 8 else 4) else if k.op = 1 then k.plen else k.payload.length))
  if r.2 = 0 then [] else (List.range ((r.1 + r.2 - 1) / 64 - r.1 / 64 + 1)).map (r.1 / 64 + ·)

/-- Do two accesses touch a common line. -/
def shareLine (a b : Packet) : Bool := (opLines a).any (opLines b).contains

/-- Does an operation that came before touch a line of this one. -/
def lineBusy (earlier : List LineOp) (k : Packet) : Bool := earlier.any (fun o => shareLine o.pkt k)

/-- The operations that wait for a busy line or a full merge buffer (R348). -/
def waitingOps (ops : List LineOp) : List Packet := (ops.filter (fun o => !o.inUnit)).map (·.pkt)

/-- Must a packet wait in the receive buffer: behind an operation of its port and class that waits there, or, where it reads
its lines outside the atomic units, behind an earlier store or atomic of its source and class to one of them (R343, R348). -/
def waitsBehind (s : State) (k : Packet) : Bool :=
  (waitingOps s.poltex.lineOps).any (fun o => o.port == k.port && o.tc == k.tc)
    || (k.op == 1 && s.poltex.lineOps.any (fun o => o.pkt.src == k.src && o.pkt.tc == k.tc && shareLine o.pkt k))

/-- The bytes of a source's train of a class so far. -/
def trainOf (s : State) (src tc : Nat) : List Byte :=
  match s.poltex.trains.find? (fun t => t.1 == src && t.2.1 == tc) with
  | some t => t.2.2
  | none => []

/-- Room of a partition's message inbox (R338). -/
def inboxRoom (s : State) (p n : Nat) : Bool := decide (((partOf s p).inbox.map List.length).sum + n ≤ 0x40000)

/-- Can the receiver not take a message now: a packet that waits for its lines, or a MSG whose inbox is full (R338, R348). -/
def nocStuck (s : State) : Out → Bool
  | .packet k =>
    let bs := (if k.first then [] else trainOf s k.src k.tc) ++ k.payload
    waitsBehind s k || (k.op == 4 && k.last && bits k.addr 31 0 != 0xFFFFFFFF
      && !inboxRoom s (bits k.addr 35 32) (if k.seg then (segmentOf bs).1.nativeLen else bs.length))
  | _ => false

/-- Is a message that waits the first of its lane (R37). -/
def nocHead (s : State) (o : Out) : Bool := (s.noc.takeWhile (fun x => x != o)).all (fun x => !sameLane x o)

/-- May the row of a message run: no earlier message of its lane waits (R37), and none of TC0, which has strict priority, that
its receiver can take (R36). A message that does not wait on the network-on-chip came from a row of its own (log entry 9). -/
def nocFirst (s : State) (o : Out) : Bool :=
  !s.noc.contains o ||
    (nocHead s o && (nocClass o == 0 || s.noc.all (fun x => nocClass x != 0 || nocStuck s x || !nocHead s x)))

/-- A message taken off the network-on-chip by the row that acts on it (log entry 9). -/
def dropNoc (o : Out) : List Out → List Out
  | [] => []
  | x :: xs => if x = o then xs else x :: dropNoc o xs

/-- The state without a message that the row now acts on. -/
def takeNoc (s : State) (o : Out) : State := { s with noc := dropNoc o s.noc }

/-- Is a message one whose target the transport has reported dead, by the party's tag (R110, R151). -/
def outTag : Out → Option (Nat × Nat)
  | .trapeze _ m => some (m.src.part, m.tag)
  | .allocMsg m => some (m.src.part, m.tag)
  | .sealMsg _ m => some (m.src.part, m.tag)
  | .freeMsg _ m => some (m.src.part, m.tag)
  | .migrateMsg _ m => some (m.src.part, m.tag)
  | .attend true m => some (m.src.part, m.tag)
  | .rebuildMsg _ true m => some (m.src.part, m.tag)
  | _ => none

/-- Has the transport reported dead the target of a partition's message with a tag. -/
def reportedDead (s : State) (p tag : Nat) : Bool := s.reported.any (fun o => outTag o == some (p, tag))

/-- The report acted upon. -/
def clearReport (s : State) (p tag : Nat) : State :=
  { s with reported := s.reported.filter (fun o => outTag o != some (p, tag)) }

end Sys2Proof.Machine
end

