-- ==== Sys2Proof/Machine/Queues.lean ====
section
/-! DEFINITION. Semaphores and their waiters (07_instruction_set.md R199 to R202) and the Control group (R204, R211). -/

namespace Sys2Proof.Machine

/-! ## Semaphores (R199 to R202) -/

/-- A semaphore of a partition. -/
def semOf (s : State) (p sem : Nat) : Sem := AMap.getD (partOf s p).sems sem {}

/-- The state with a semaphore replaced. -/
def setSem (s : State) (p sem : Nat) (x : Sem) : State :=
  modPart s p (fun P => { P with sems := AMap.insert P.sems sem x })

/-- Tokens added to a semaphore: cut off at 0xFFFF_FFFF with OVERFLOW and an error record (R202); semaphore 0 is none. -/
def semAdd (s : State) (p sem n : Nat) : State :=
  if sem = 0 then s
  else
    let x := semOf s p sem
    if x.value + n ≤ 0xFFFFFFFF then setSem s p sem { x with value := x.value + n }
    else
      report (setSem s p sem { value := 0xFFFFFFFF, overflow := true }) none (some p) false
        { code := 0x01, part := p, address := sem }

/-- The first waiter on a semaphore. -/
def firstWaiter (s : State) (p sem : Nat) : Option Waiter := (partOf s p).waiters.find? (fun x => x.sem == sem)

/-- A list without the first element equal to x. -/
def dropWaiter (x : Waiter) : List Waiter → List Waiter
  | [] => []
  | y :: ys => if y = x then ys else y :: dropWaiter x ys

/-- A waiter takes its tokens: an inline WAIT lets its queue's next instruction issue, a WAIT instruction finishes with
the value after the take (R198, R200, R211). -/
def grant (s : State) (p : Nat) (x : Waiter) : State :=
  let v := (semOf s p x.sem).value - x.need
  let s1 := setSem s p x.sem { semOf s p x.sem with value := v }
  let s2 := modPart s1 p (fun P => { P with waiters := dropWaiter x P.waiters })
  match x.idx with
  | none => modQueue s2 p x.queue (fun q => { q with waiting := false, granted := x.sem })
  | some i => finish s2 ⟨p, x.queue, i⟩ St.ok v

/-- Waiters on one semaphore served in order of arrival, at most fuel of them (R200). -/
def serveSem (s : State) (p sem : Nat) : Nat → State
  | 0 => s
  | fuel + 1 =>
    match firstWaiter s p sem with
    | none => s
    | some x => if x.need ≤ (semOf s p sem).value then serveSem (grant s p x) p sem fuel else s

/-- Every waiter on a semaphore that can be served now, served. -/
def serve (s : State) (p sem : Nat) : State := serveSem s p sem (partOf s p).waiters.length

/-- SEMAPHORE_SERVE: waiters on one semaphore take their tokens in order of arrival (R198, R200). -/
def execSemaphoreServe (p sem : Nat) (s : State) : Answer :=
  if ready s && (partOf s p).state == .running then .next (serve s p sem) else .next s

/-! ## The Control group (R204, R211) -/

/-- NOP (0x00; R211). -/
def execNop (w : IRef) (s : State) : Answer := withInstr s w 0x00 fun _ => finish s w St.ok 0

/-- Has a queue an unacknowledged Poltex STORE, ATOMIC or MSG, or Tlaley PUT or SEND (R204). -/
def fabricBusy (s : State) (p q : Nat) : Bool :=
  let mine := fun (w : Option IRef) => match w with
    | some r => r.part == p && r.queue == q
    | none => false
  s.poltex.txns.any (fun t => mine t.w && t.op != 1) || s.poltex.held.any (fun h => mine h.txn.w && h.txn.op != 1)
    || s.tlaley.conns.any (fun e => e.2.xfers.any (fun x => mine x.w && x.op != 2))

/-- FENCE (0x01; R204, R211): it has issued after every earlier instruction committed; with FABRIC it waits for every
acknowledgement too. -/
def execFence (w : IRef) (s : State) : Answer :=
  withInstr s w 0x01 fun i =>
    if flagOf i.words 24 && fabricBusy s w.part w.queue then s else finish s w St.ok 0

/-- WAIT (0x02; R200, R211): it takes its place among the waiters, and its tokens as soon as they cover it. -/
def execWait (w : IRef) (s : State) : Answer :=
  withInstr s w 0x02 fun i =>
    let sem := bits (opA i.words) 3 0
    let here := (partOf s w.part).waiters.any (fun x => x.queue == w.queue && x.idx == some w.idx)
    let s1 := if here then s else modPart s w.part (fun P => { P with waiters := P.waiters ++
      [{ sem := sem, queue := w.queue, idx := some w.idx, need := bits (opB i.words) 31 0 }] })
    serve s1 w.part sem

/-- WAIT_LIMIT_EXPIRY: a WAIT whose limit passes before it takes its tokens completes with TIMEOUT and takes nothing
(R211). -/
def execWaitLimitExpiry (w : IRef) (s : State) : Answer :=
  withInstr s w 0x02 fun i =>
    let limit := bits (opB i.words) 63 32
    if limit ≠ 0 ∧ i.issuedAt + limit * 1000 ≤ s.now then
      let left := (partOf s w.part).waiters.filter (fun x => !(x.queue == w.queue && x.idx == some w.idx))
      failWith (modPart s w.part (fun P => { P with waiters := left })) w St.timeout
    else s

/-- SIGNAL (0x03; R202, R211). -/
def execSignal (w : IRef) (s : State) : Answer :=
  withInstr s w 0x03 fun i =>
    let sem := bits (opA i.words) 3 0
    let v := bits (opB i.words) 31 0
    finish s w St.ok 0 [if flagOf i.words 24 then .semSet sem v else .semAdd sem v]

/-- TIMEWAIT (0x04; R29, R211): it acts in the CC island, and at once when its time has been reached. -/
def execTimewait (w : IRef) (s : State) : Answer :=
  withInstr s w 0x04 fun i =>
    let target := if flagOf i.words 24 then i.issuedAt + opB i.words else opB i.words
    if target ≤ localTime s Isl.cc then finish s w St.ok 0 [.stampTime] else s

/-- SNAP (0x05; R211, R477): the latch is armed at its commit. -/
def execSnap (w : IRef) (s : State) : Answer :=
  withInstr s w 0x05 fun i =>
    finish s w St.ok 0 [.snapArm (if flagOf i.words 24 then none else some (opB i.words))]

/-- HALTQ (0x06; R191, R211): another queue is halted now, which `aux` notes in case that the HALTQ is abandoned, and the HALTQ
ends when that queue is not active; its own queue is halted at its commit, which waits for every earlier instruction. -/
def execHaltq (w : IRef) (s : State) : Answer :=
  withInstr s w 0x06 fun i =>
    let q := bits (opA i.words) 5 0
    if q = w.queue then
      match (queueOf (partOf s w.part) q).issued.head? with
      | some h => if h.idx = i.idx then finish s w St.ok 0 [.halted q] else s
      | none => s
    else
      let halts := (queueOf (partOf s w.part) q).cause == 0
      let s0 := if halts then modIssued s w (fun i => { i with aux := 1 }) else s
      let s1 := modQueue s0 w.part q (fun x => if x.cause = 0 then { x with cause := 0x02 } else x)
      if (queueOf (partOf s1 w.part) q).issued.isEmpty then finish s1 w St.ok 0 else s1

end Sys2Proof.Machine
end

