-- ==== Sys2Proof/Machine/Home.lean ====
section
/-! DEFINITION. The home: frame records and tags, the checks of R94, the transition table R107, migration, the journal
and fencing (04_trapeze_handover.md R93 to R123, 03_state_blocks.md R53 to R63, R78, R79). -/

namespace Sys2Proof.Machine

/-! ## Frame records -/

/-- The record of a granule: FREE with tag 1 where nothing else is kept (R55, R58). -/
def frameAt (s : State) (g : Nat) : Frame := AMap.getD s.home.frames g {}

/-- The state with a frame record replaced. -/
def setFrame (s : State) (g : Nat) (f : Frame) : State :=
  { s with home := { s.home with frames := AMap.insert s.home.frames g f } }

/-- Granules of a frame. -/
def frameGranules (f : Frame) : Nat := 2 ^ f.sizeLog2

/-- The frame in use that covers a granule, by its first granule. -/
def coveringFrame (s : State) (g : Nat) : Option (Nat × Frame) :=
  List.find? (fun (e : Nat × Frame) =>
    e.2.state != .free && decide (e.1 ≤ g ∧ g < e.1 + frameGranules e.2)) s.home.frames

/-- Entry of a partition's host-window table for a 2 MiB unit: the host address of one that is VALID. An entry that the
device has read since the partition started is the one it read then (R82). -/
def windowEntry (s : State) (p x : Nat) : Option Nat :=
  let P := partOf s p
  if x < min 524288 P.winLen ∧ inRange s p (P.winTable + 8 * x) 8 then
    let w := (AMap.find? P.winCache x).getD (devWord s (P.winTable + 8 * x))
    if bit w 0 then some (bits w 63 21 * 2 ^ 21) else none
  else none

/-- The device reads a host-window entry and keeps it (R82). -/
def cacheWindow (s : State) (p x : Nat) : State :=
  let P := partOf s p
  if (AMap.find? P.winCache x).isSome ∨ !inRange s p (P.winTable + 8 * x) 8 then s
  else modPart s p (fun P => { P with winCache := AMap.insert P.winCache x (devWord s (P.winTable + 8 * x)) })

/-- The host-window entry that an access to a frame uses, read and kept (R82); other frames need none. -/
def cacheFrame (s : State) (g : Nat) : State :=
  if 0x80000000 ≤ g ∧ g ≤ 0xBFFFFFFF then cacheWindow s (g / 0x4000000 - 32) (g % 0x4000000 / 128) else s

/-- Does a frame index name a frame record of this home (R82, R85). -/
def namesFrame (s : State) (g : Nat) : Bool :=
  if g < 0xA80000 then true
  else if 0x80000000 ≤ g ∧ g ≤ 0xBFFFFFFF then
    let p := g / 0x4000000 - 32
    composed s p && (windowEntry s p (g % 0x4000000 / 128)).isSome
  else false

/-- The tag after a tag (R55). -/
def nextGen (g : Nat) : Nat := if 1023 ≤ g then 1 else g + 1

/-- The partition of this home that a frame lies in. -/
def framePart (s : State) (g : Nat) : Nat :=
  if 0x80000000 ≤ g then g / 0x4000000 - 32 else (rangeOwner s (g * 0x4000)).getD 0

/-- The home as a sender of trapeze messages. -/
def homeParty (s : State) (g : Nat) : Party := selfParty s (framePart s g)

/-- A frame's handle at its current tag. -/
def handleOf (s : State) (g : Nat) : Nat := mkHandle (me s) (frameAt s g).gen g

/-! ## The journal (R114) -/

/-- The state with a journal entry for an event, written before any message that announces it (R114). -/
def journal (s : State) (handle : Nat) (old new : FState) (event : Nat) (owner : Party) : State :=
  let e : Journal := { time := s.now, handle := handle, old := old, new := new, event := event, owner := owner
                       seq := s.home.jseq % 2 ^ 32 }
  { s with home := { s.home with journal := (e :: s.home.journal).take 8388608, jseq := s.home.jseq + 1 } }

/-- A frame changed by an event, with its journal entry (R114). -/
def transition (s : State) (g : Nat) (f : Frame) (event : Nat) : State :=
  let old := frameAt s g
  journal (setFrame s g f) (handleOf s g) old.state f.state event f.owner

/-- A frame freed: its tag advances, its record is otherwise empty (R55, R107). -/
def freeFrame (s : State) (g : Nat) (event : Nat) : State :=
  transition s g { gen := nextGen (frameAt s g).gen } event

/-! ## Regions and allocation (R53, R71, R74) -/

/-- Granules of the part of a partition's range that frames may take: up to its tables. -/
def frameRegion (s : State) (p : Nat) : Nat × Nat :=
  ((rangeBase s p + 0x3FFF) / 0x4000, bucketTable s p / 0x4000)

/-- Granules of the cold region of a cache-role partition: COLD_PCT of the partition's memory, as far as its tables leave
room (R71, R86, R430). -/
def coldGranules (s : State) (p : Nat) : Nat :=
  let r := frameRegion s p
  if roleOf s = roleCache then min (r.2 - r.1) (rangeLen s p / 0x4000 * min 100 (sliceOf s p).coldPct / 100) else 0

/-- The main region: first granule and end. -/
def mainRegion (s : State) (p : Nat) : Nat × Nat :=
  let r := frameRegion s p
  (r.1, r.2 - coldGranules s p)

/-- The cold region: first granule and end. R71 gives its size only; it lies at the top of the frames' part of the range,
below the tables (DESIGN CHOICE, log entry 93). -/
def coldRegion (s : State) (p : Nat) : Nat × Nat :=
  let r := frameRegion s p
  (r.2 - coldGranules s p, r.2)

/-- May a frame of k granules be placed at g in a region: aligned, inside, over free granules (R53). -/
def runFree (s : State) (lo hi k g : Nat) : Bool :=
  g % k == 0 && decide (lo ≤ g ∧ g + k ≤ hi) &&
    s.home.frames.all (fun e => e.2.state == .free || decide (g + k ≤ e.1 ∨ e.1 + frameGranules e.2 ≤ g))

/-- The lowest place for a frame of k granules in a region. -/
def lowestRun (s : State) (lo hi k : Nat) : Option Nat :=
  let cands := alignUp lo k :: (s.home.frames.filter (fun e => e.2.state != .free)).map (fun e => alignUp (e.1 + frameGranules e.2) k)
  (cands.filter (runFree s lo hi k)).foldl (fun a g => match a with
    | none => some g
    | some b => some (min b g)) none

/-- The place that the home takes: its own proposal where it is one that R53 allows, else the lowest (log entry 7). -/
def chooseRun (s : State) (lo hi k : Nat) : Option Nat :=
  let g := Config.framePick s.freeCtr
  if runFree s lo hi k g then some g else lowestRun s lo hi k

/-- One frame allocated in a region: the state and its handle (R53, R55, R107). -/
def allocFrame (s : State) (lo hi sizeLog2 : Nat) (mk : Nat → Frame) (event : Nat) : Option (State × Nat) :=
  match chooseRun s lo hi (2 ^ sizeLog2) with
  | none => none
  | some g =>
    let s1 := transition (draw s) g (mk (frameAt s g).gen) event
    some (s1, mkHandle (me s) (frameAt s g).gen g)

/-- n frames allocated, or none: what was allocated before a failure is freed again (R213). -/
def allocFrames (lo hi sizeLog2 : Nat) (mk : Nat → Frame) : Nat → State → List Nat → State × Option (List Nat)
  | 0, s, hs => (s, some hs)
  | n + 1, s, hs =>
    match allocFrame s lo hi sizeLog2 mk 0x01 with
    | none => (hs.foldl (fun s h => freeFrame s (hFrame h) 0x08) s, none)
    | some (s1, h) => allocFrames lo hi sizeLog2 mk n s1 (hs ++ [h])

/-! ## Floors and the checks of R94 -/

/-- Are two parties one identity: module and partition, whatever the epoch. -/
def sameIdentity (a b : Party) : Bool := a.domain == b.domain && a.ep == b.ep && a.part == b.part

/-- The fence floor of an identity (R93). -/
def floorOf (s : State) (x : Party) : Nat :=
  match s.home.floors.find? (fun e => sameIdentity e.1 x) with
  | some e => e.2
  | none => 0

/-- Is a party in another module than this. -/
def foreign (s : State) (x : Party) : Bool := (x.domain, x.ep) != me s

/-- Checks 2 and 3 of R94 on a claimant: the gate, then the floor. -/
def claimCheck (s : State) (x : Party) : Option Nat :=
  if foreign s x && !s.home.gateOpen then some St.fencePending
  else if x.epoch ≤ floorOf s x then some St.fenced
  else none

/-- The forwarding entry of an old handle (R79). -/
def forwardOf (s : State) (h : Nat) : Option Forward := s.home.forwards.find? (fun e => e.oldHandle == h)

/-- A frame's record as its deadlines leave it: what a reader finds once device time has reached one, also before the
row of that deadline has come (R104, R107, R111). -/
def frameNow (s : State) (g : Nat) : Frame :=
  let f := frameAt s g
  let freed : Frame := { gen := nextGen f.gen }
  if f.deadline = 0 ∨ s.now < f.deadline then f
  else
    match f.state with
    | .offered =>
      if f.owner.epoch ≤ floorOf s f.owner then
        { f with state := .lost, offeree := ⟨0, 0, 0, 0⟩, deadline := f.deadline + max 1 s.home.lostHold * 1000000 }
      else { f with state := .open_, offeree := ⟨0, 0, 0, 0⟩, deadline := 0 }
    | .lost => freed
    | .migrating => if f.inbound || f.committed then freed else { f with state := .open_, deadline := 0, peer := 0 }
    | _ => f

/-- Check 1 of R94 on a handle: the status that it fails with and the new handle that MOVED names. A forwarding entry
answers until its hold has passed (R79). -/
def handleCheck (s : State) (h : Nat) : Option (Nat × Nat) :=
  match forwardOf s h with
  | some e =>
    if e.lost || (e.until_ != 0 && decide (e.until_ ≤ s.now)) then some (St.staleHandle, 0) else some (St.moved, e.newHandle)
  | none =>
    let f := frameNow s (hFrame h)
    if hGen h = 0 ∨ !namesFrame s (hFrame h) ∨ f.state = .free ∨ f.gen ≠ hGen h then some (St.staleHandle, 0)
    else none

/-- Checks 1 to 4 of R94 on a claim that names a frame; `lostToo` is false for FREE and RECLAIM. -/
def claimStatus (s : State) (h : Nat) (x : Party) (lostToo : Bool) : Option (Nat × Nat) :=
  match handleCheck s h with
  | some e => some e
  | none =>
    match claimCheck s x with
    | some st => some (st, 0)
    | none => if lostToo && (frameNow s (hFrame h)).state == .lost then some (St.lost, 0) else none

/-- The transition table's answer to a read or write of a frame by a claimant (R107). -/
def frameAccess (f : Frame) (x : Party) (write : Bool) : Nat :=
  match f.state with
  | .free => St.staleHandle
  | .open_ => if f.owner = x then St.ok else St.notOwner
  | .offered => if f.owner = x then (if write then St.busy else St.ok) else St.notOwner
  | .sealed => if write then St.readOnly else St.ok
  | .migrating => if f.owner = x then (if f.committed then St.moved else St.busy) else St.notOwner
  | .lost => St.lost

/-- A read or write by handle: every check of R94 and R107; the status and the new handle of MOVED. -/
def accessByHandle (s : State) (h : Nat) (x : Party) (write : Bool) : Nat × Nat :=
  match claimStatus s h x true with
  | some e => e
  | none =>
    let f := frameNow s (hFrame h)
    let st := frameAccess f x write
    (st, if st = St.moved then f.peer else 0)

/-- A read or write by address in a granule (R345): checked as an access to the frame that covers it, if any. -/
def accessByGranule (s : State) (g : Nat) (x : Party) (write : Bool) : Nat :=
  match coveringFrame s g with
  | none => St.ok
  | some (b, _) =>
    if (forwardOf s (handleOf s b)).isSome then ((handleCheck s (handleOf s b)).getD (St.moved, 0)).1
    else
      match claimCheck s x with
      | some st => st
      | none => frameAccess (frameNow s b) x write

/-- A frame read: its time of last read, for demotion (R78). -/
def touchFrame (s : State) (g : Nat) : State := setFrame s g { frameAt s g with lastRead := s.now }

/-! ## Messages of the home -/

/-- A message from the home to a party. -/
def tellParty (s : State) (g : Nat) (to_ : Party) (m : TMsg) : State :=
  sendTrapeze s (framePart s g) (to_.domain, to_.ep)
    { m with src := homeParty s g, toPart := to_.part, toEpoch := to_.epoch }

/-- REPLY to a request message (R97, R98): the asker's identity and tag come back. -/
def replyTo (s : State) (src : Party) (tag handle : Nat) (status : Nat) (peer : Party := ⟨0, 0, 0, 0⟩)
    (time flags refs newHandle : Nat := 0) : State :=
  tellParty s (hFrame handle) src
    { ttype := 0x06, status := status, src := src, tag := tag, handle := handle, peer := peer, time := time
      flags := flags, refs := refs, newHandle := newHandle }

/-- A message of a level other than 1 that reached its row: discarded and counted with the protocol errors of messages whose
link is not known (R46, R47, R98). -/
def strayMsg (s : State) : State := { s with poltex := { s.poltex with protoErr := s.poltex.protoErr + 1 } }

/-- Refusal of a request: NOT_OWNER names the current owner, MOVED the new handle (R97). -/
def refuse (s : State) (src : Party) (tag handle : Nat) (e : Nat × Nat) : State :=
  replyTo s src tag handle e.1 (if e.1 = St.notOwner then (frameAt s (hFrame handle)).owner else ⟨0, 0, 0, 0⟩) 0 0 0 e.2

/-- RETURNED to the releaser and the offeree (R105, R107). -/
def returnedToBoth (s : State) (g : Nat) (handle : Nat) (status : Nat) (owner offeree : Party) : State :=
  let m : TMsg := { ttype := 0x05, status := status, src := owner, handle := handle, time := s.now }
  tellParty (tellParty s g owner { m with peer := offeree }) g offeree { m with peer := owner }

/-- Lost hold in ns (R122). -/
def lostHoldNs (s : State) : Nat := max 1 s.home.lostHold * 1000000

/-- A frame enters LOST: the hold begins, and RETURNED with LOST goes to the recorded owner (R107). A SEALED frame records no
owner: its RETURNED goes to the party of all zeros (log entry 139). -/
def loseFrame (s : State) (g : Nat) (event : Nat) : State :=
  let f := frameAt s g
  let h := handleOf s g
  let s1 := transition s g { f with state := .lost, deadline := s.now + lostHoldNs s, inbound := false
                                    committed := false, offeree := ⟨0, 0, 0, 0⟩, peer := 0 } event
  tellParty s1 g f.owner { ttype := 0x05, status := St.lost, src := f.owner, handle := h, time := s.now }

/-! ## Migrations under way (R79, R111) -/

/-- The migration that a frame of this home takes part in. -/
def migrationOf (s : State) (g : Nat) (asSource : Bool) : Option Migration :=
  s.home.migrations.find? (fun x => x.granule == g && x.asSource == asSource)

/-- The migration ended. -/
def dropMigration (s : State) (g : Nat) (asSource : Bool) : State :=
  { s with home := { s.home with
      migrations := s.home.migrations.filter (fun x => !(x.granule == g && x.asSource == asSource))
      badCopies := if asSource then s.home.badCopies.filter (· != .frame g) else s.home.badCopies } }

/-- The migration changed. -/
def modMigration (s : State) (g : Nat) (asSource : Bool) (f : Migration → Migration) : State :=
  { s with home := { s.home with migrations :=
                       s.home.migrations.map (fun x => if x.granule == g && x.asSource == asSource then f x else x) } }

/-- MIGRATE_ABORT to the other home and to the asker (R98, R112). -/
def sendAbort (s : State) (g : Nat) (x : Migration) (status handle peer : Nat) : State :=
  let m : TMsg := { ttype := 0x0D, status := status, src := homeParty s g, tag := x.tag, handle := peer, newHandle := handle }
  let s1 := sendTrapeze s (framePart s g) (x.dest.domain, x.dest.ep) { m with src := homeParty s g }
  tellParty s1 g x.asker { m with handle := if x.asSource then handle else peer }

/-- The source's copy ends without a move (R79, R112): MIGRATE_ABORT to the destination and the asker. -/
def abortAtSource (s : State) (g : Nat) (x : Migration) (status : Nat) (event : Nat := 0x0C) : State :=
  let f := frameAt s g
  let h := handleOf s g
  let s1 := dropMigration s g true
  let s2 := if f.state = .migrating then
      transition s1 g { f with state := .open_, deadline := 0, peer := 0, committed := false } event
    else s1
  sendAbort s2 g x status h f.peer

/-- The copy of a sealed block that is freed before it has committed ends (R79). -/
def endCopy (s : State) (g : Nat) : State :=
  match migrationOf s g true with
  | some x => abortAtSource s g x St.migrateAbort
  | none => s

/-- Forwarding hold in ns (R122). -/
def fwdHoldNs (s : State) : Nat := max 1 s.home.fwdHold * 100000000

/-- The forwarding hold of a handle begins (R79). -/
def beginHold (s : State) (h : Nat) : State :=
  { s with home := { s.home with forwards := s.home.forwards.map (fun e =>
                       if e.oldHandle = h then { e with until_ := s.now + fwdHoldNs s } else e) } }

/-! ## Deadlines (R79, R104, R107, R111, R112) -/

/-- An offer whose deadline has been reached ends: the frame is OPEN again and both parties hear EXPIRED, or it is LOST where
its releaser is fenced; the journal then has the expiry too (R104, R107; DESIGN CHOICE, log entry 94). -/
def offerLapse (s : State) (g : Nat) : State :=
  let f := frameAt s g
  if f.state == .offered && decide (f.deadline ≤ s.now) then
    if f.owner.epoch ≤ floorOf s f.owner then loseFrame s g 0x04
    else
      let h := handleOf s g
      let s1 := transition s g { f with state := .open_, offeree := ⟨0, 0, 0, 0⟩, deadline := 0 } 0x04
      returnedToBoth s1 g h St.expired f.owner f.offeree
  else s

/-- A LOST frame whose hold has ended is freed and its tag advances (R107). -/
def lostLapse (s : State) (g : Nat) : State :=
  let f := frameAt s g
  if f.state == .lost && decide (f.deadline ≤ s.now) then freeFrame s g 0x10 else s

/-- A migration whose deadline passes before its home's next step ends: a source that has committed frees its frame, a sealed
one begins its forwarding hold, and before that both homes abort (R107, R111, R112). -/
def migrationLapse (s : State) (g : Nat) : State :=
  match migrationOf s g true with
  | some x =>
    if s.now < x.deadline then s
    else if (frameAt s g).committed then freeFrame (dropMigration s g true) g 0x08
    else if (forwardOf s (handleOf s g)).isSome then beginHold (dropMigration s g true) (handleOf s g)
    else abortAtSource s g x St.migrateAbort
  | none =>
    match migrationOf s g false with
    | some x =>
      if s.now < x.deadline then s
      else
        let f := frameAt s g
        sendAbort (freeFrame (dropMigration s g false) g 0x0C) g x St.migrateAbort (handleOf s g) f.peer
    | none => s

/-- A forwarding hold that has passed ends: the old frame is freed and its handle becomes stale (R79). -/
def forwardLapse (s : State) (h : Nat) : State :=
  match forwardOf s h with
  | some e =>
    if e.until_ != 0 && decide (e.until_ ≤ s.now) then
      let s1 := { s with home := { s.home with forwards := s.home.forwards.filter (fun x => x.oldHandle != h) } }
      if (frameAt s1 (hFrame h)).gen = hGen h ∧ (frameAt s1 (hFrame h)).state ≠ .free then freeFrame s1 (hFrame h) 0x08 else s1
    else s
  | none => s

/-- What stands in a frame's record is brought up to device time: every deadline that has been reached is acted on before
a message for the frame is (R104). -/
def lapse (s : State) (h : Nat) : State :=
  lostLapse (offerLapse (migrationLapse (forwardLapse s h) (hFrame h)) (hFrame h)) (hFrame h)

/-- MIGRATION_DEADLINE (R107, R111, R112). -/
def execMigrationDeadline (g : Nat) (s : State) : Answer := if ready s then .next (migrationLapse s g) else .next s

/-- OFFER_DEADLINE (R104, R107). -/
def execOfferDeadline (g : Nat) (s : State) : Answer := if ready s then .next (offerLapse s g) else .next s

/-- LOST_HOLD_END (R107). -/
def execLostHoldEnd (g : Nat) (s : State) : Answer := if ready s then .next (lostLapse s g) else .next s

/-- FORWARDING_HOLD_END (R79). -/
def execForwardingHoldEnd (h : Nat) (s : State) : Answer := if ready s then .next (forwardLapse s h) else .next s

/-! ## RELEASE, CATCH, QUERY (R101 to R109) -/

/-- The hold of a RELEASE in ns (R97, R122). -/
def holdNs (s : State) (hold : Nat) : Nat :=
  1000 * (if hold = 0 then max 10 s.home.offerHold else max 10 hold)

/-- Run an event that a message brings to a frame of this home: in its turn on the network-on-chip (R36, R37), and after the
frame's deadlines (R104). A message of another level is discarded and counted; its link is not known here (R46, R47). -/
def homeEvent (m : TMsg) (s : State) (f : State → State) : Answer :=
  let o := Out.trapeze (me s) m
  if !ready s || !nocFirst s o then .next s
  else if m.level ≠ 1 then .next (strayMsg (takeNoc s o))
  else .next (f (lapse (takeNoc s o) m.handle))

/-- RELEASE_AT_HOME (R102, R105, R107). -/
def execReleaseAtHome (m : TMsg) (s : State) : Answer :=
  homeEvent m s fun s =>
    let g := hFrame m.handle
    match claimStatus s m.handle m.src true with
    | some e => (refuse s m.src m.tag m.handle e)
    | none =>
      let f := frameAt s g
      let own := f.owner = m.src
      let self := sameIdentity m.peer m.src
      match f.state with
      | .sealed => (refuse s m.src m.tag m.handle (St.notOpen, 0))
      | .open_ =>
        if !own then (refuse s m.src m.tag m.handle (St.notOwner, 0))
        else if self then (replyTo s m.src m.tag m.handle St.ok)
        else
          let dl := s.now + holdNs s m.hold
          let s1 := transition s g { f with state := .offered, offeree := m.peer, deadline := dl } 0x02
          let s2 := tellParty s1 g m.peer { ttype := 0x02, src := m.src, tag := m.tag, handle := m.handle
                                            peer := m.src, time := dl }
          (replyTo s2 m.src m.tag m.handle St.ok ⟨0, 0, 0, 0⟩ dl)
      | .offered =>
        if !own then (refuse s m.src m.tag m.handle (St.notOwner, 0))
        else if self then
          let s1 := transition s g { f with state := .open_, offeree := ⟨0, 0, 0, 0⟩, deadline := 0 } 0x05
          (replyTo (returnedToBoth s1 g m.handle St.withdrawn f.owner f.offeree) m.src m.tag m.handle St.ok)
        else (refuse s m.src m.tag m.handle (St.busy, 0))
      | .migrating => (refuse s m.src m.tag m.handle (if own then St.busy else St.notOwner, 0))
      | _ => (refuse s m.src m.tag m.handle (St.lost, 0))

/-- Does a CATCH meet R103. -/
def catchMeets (s : State) (f : Frame) (x : Party) : Bool :=
  f.state == .offered && sameIdentity f.offeree x && (f.offeree.epoch == x.epoch || f.offeree.epoch == 0)
    && decide (s.now < f.deadline)

/-- CATCH_AT_HOME (R103, R107). A CONFIRM sent again to a catcher that already owns the frame names it as the other party
too, whose name is no longer kept, and the time of its sending (DESIGN CHOICE, log entry 95). -/
def execCatchAtHome (m : TMsg) (s : State) : Answer :=
  homeEvent m s fun s =>
    let g := hFrame m.handle
    match claimStatus s m.handle m.src true with
    | some e => (refuse s m.src m.tag m.handle e)
    | none =>
      let f := frameAt s g
      if catchMeets s f m.src then
        let s1 := transition s g { f with state := .open_, owner := m.src, offeree := ⟨0, 0, 0, 0⟩, deadline := 0 } 0x03
        let c : TMsg := { ttype := 0x04, src := m.src, handle := m.handle, time := s.now, state := 1 }
        let s2 := tellParty s1 g m.src { c with tag := m.tag, peer := f.owner }
        (tellParty s2 g f.owner { c with peer := m.src })
      else
        match f.state with
        | .open_ =>
          if f.owner = m.src then
            (tellParty s g m.src { ttype := 0x04, src := m.src, tag := m.tag, handle := m.handle, time := s.now
                                   state := 1, peer := f.owner })
          else (refuse s m.src m.tag m.handle (St.noOffer, 0))
        | .sealed => (refuse s m.src m.tag m.handle (St.notOpen, 0))
        | .lost => (refuse s m.src m.tag m.handle (St.lost, 0))
        | _ => (refuse s m.src m.tag m.handle (St.noOffer, 0))

/-- STATE code of R96. -/
def stateCode : FState → Nat
  | .free => 0
  | .open_ => 1
  | .offered => 2
  | .sealed => 3
  | .migrating => 4
  | .lost => 5

/-- Status of a QUERY_REPLY (R108). -/
def queryStatus (s : State) (h : Nat) : Nat × Nat :=
  match handleCheck s h with
  | some e => e
  | none => (if (frameAt s (hFrame h)).state = .lost then St.lost else St.ok, 0)

/-- Does a granule lie inside a larger frame: code 7 of R96, INTERIOR. -/
def interior (s : State) (g : Nat) : Bool :=
  match coveringFrame s g with
  | some e => e.1 != g
  | none => false

/-- STATE of the record of a granule (R96). -/
def granuleState (s : State) (g : Nat) : Nat := if interior s g then 7 else stateCode (frameAt s g).state

/-- QUERY_AT_HOME: answered in every state, without the checks of R94 (R94, R108). R97 gives QUERY_REPLY no place for the
offeree that R108 names too: it goes beside the 64 bytes (DEDUCED, log entry 96). -/
def execQueryAtHome (m : TMsg) (s : State) : Answer :=
  homeEvent m s fun s =>
    let g := hFrame m.handle
    let f := frameAt s g
    let e := queryStatus s m.handle
    tellParty s g m.src { ttype := 0x08, status := e.1, src := m.src, tag := m.tag, handle := m.handle
                          peer := f.owner, time := f.deadline, state := granuleState s g, newHandle := e.2
                          offeree := if f.state = .offered then f.offeree else ⟨0, 0, 0, 0⟩, size := some f.sizeLog2 }

/-! ## ALLOC, SEAL, FREE (R53, R60 to R63, R94, R107) -/

/-- The answer to an ALLOC, with the handles allocated. -/
def allocReplyTo (s : State) (m : AllocMsg) (status : Nat) (handles : List Nat) : State :=
  let t : TMsg := { ttype := 0x06, status := status, src := selfParty s m.part, tag := m.tag
                    handle := 0, newHandle := handles.headD 0, toPart := m.src.part, toEpoch := m.src.epoch }
  let dest := (m.src.domain, m.src.ep)
  sendMsg s m.part 2 dest m.src.part 64 (.allocReply dest t handles)

/-- ALLOC_AT_HOME: checks 2 and 3 of R94 on the owner to be, then all the frames or none (R53, R94, R213). -/
def execAllocAtHome (m : AllocMsg) (s : State) : Answer :=
  if !ready s || !nocFirst s (.allocMsg m) then .next s
  else
    let s := takeNoc s (.allocMsg m)
    match claimCheck s m.owner with
    | some st => .next (allocReplyTo s m st [])
    | none =>
      if !composed s m.part then .next (allocReplyTo s m St.noSpace [])
      else
        let r := mainRegion s m.part
        let a := allocFrames r.1 r.2 m.sizeLog2 (fun gen =>
          { state := .open_, sizeLog2 := m.sizeLog2, flags := m.flags, gen := gen, owner := m.owner }) m.count s []
        match a.2 with
        | some hs => .next (allocReplyTo a.1 m St.ok hs)
        | none => .next (allocReplyTo a.1 m St.noSpace [])

/-- SEAL_AT_HOME (R60, R61, R63, R107): the block becomes SEALED with REFS 1 and its hash, and has no owner. Until it is
read its seal, or its arrival by migration, counts as its last read (DESIGN CHOICE, log entry 97). -/
def execSealAtHome (m : SealMsg) (s : State) : Answer :=
  if !ready s || !nocFirst s (.sealMsg (me s) m) then .next s
  else
    let s := lapse (takeNoc s (.sealMsg (me s) m)) m.handle
    let g := hFrame m.handle
    match claimStatus s m.handle m.src true with
    | some e => .next (refuse s m.src m.tag m.handle e)
    | none =>
      let f := frameAt s g
      if f.state = .open_ ∧ f.owner = m.src then
        let s1 := transition s g { f with state := .sealed, refs := 1, hash := m.hashLo + m.hashHi * 2 ^ 64
                                          owner := ⟨0, 0, 0, 0⟩, lastRead := s.now } 0x07
        .next (replyTo s1 m.src m.tag m.handle St.ok ⟨0, 0, 0, 0⟩ 0 f.flags)
      else if f.state = .sealed ∨ f.owner = m.src then .next (refuse s m.src m.tag m.handle (St.busy, 0))
      else .next (refuse s m.src m.tag m.handle (St.notOwner, 0))

/-- One count of a sealed block given up, or an open or lost frame freed (R63, R107): the status and REFS after. -/
def freeAt (s : State) (h : Nat) (x : Party) : State × Nat × Nat :=
  let g := hFrame h
  let f := frameAt s g
  match f.state with
  | .open_ => if f.owner = x then (freeFrame s g 0x08, St.ok, 0) else (s, St.notOwner, 0)
  | .offered => (s, St.busy, 0)
  | .sealed =>
    if f.refs = 65535 then (s, St.ok, 65535)
    else if 1 < f.refs then (setFrame s g { f with refs := f.refs - 1 }, St.ok, f.refs - 1)
    else (freeFrame (endCopy s g) g 0x08, St.ok, 0)
  | .migrating => (s, St.busy, 0)
  | .lost => if f.owner.domain = x.domain ∧ f.owner.ep = x.ep then (freeFrame s g 0x08, St.ok, 0) else (s, St.lost, 0)
  | .free => (s, St.staleHandle, 0)

/-- One reference added to a sealed block for a stripe (R409 step 5): the state and the status. -/
def addRef (s : State) (h : Nat) (x : Party) : State × Nat :=
  match claimStatus s h x true with
  | some e => (s, e.1)
  | none =>
    let f := frameAt s (hFrame h)
    if f.state = .sealed then (setFrame s (hFrame h) { f with refs := min 65535 (f.refs + 1) }, St.ok) else (s, St.notSealed)

/-- The answer to a FREE that was carried out. Its 64 bytes are those of a REPLY, REFS 0 among them (R97); the references left
and the granules freed travel beside them (R75, R212; log entry 66). -/
def freeReplyTo (s : State) (m : FreeMsg) (refs granules : Nat) : State :=
  let p := framePart s (hFrame m.handle)
  let dest := (m.src.domain, m.src.ep)
  sendMsg s p 2 dest m.src.part 64 (.allocReply dest
    { ttype := 0x06, status := St.ok, src := homeParty s (hFrame m.handle), tag := m.tag, handle := m.handle
      toPart := m.src.part, toEpoch := m.src.epoch } [refs, granules])

/-- Does an ATTEND or an inbox request that has issued its reads of a frame's block not have them all yet: a FREE or a migration
that comes now takes effect after them (R59, R134). -/
def beingRead (s : State) (g : Nat) : Bool :=
  let reads := fun (cs : List (Nat × Nat × Nat)) => cs.any (fun c => c.2.1 == St.ok && c.2.2 == g)
  s.parts.any (fun P => reads P.2.inboxChecks || P.2.queues.any (fun q => q.2.issued.any (fun i => reads i.checks)))

/-- A message stays where it waits, or comes to wait (R36). -/
def stayNoc (s : State) (o : Out) : State := if s.noc.contains o then s else { s with noc := s.noc ++ [o] }

/-- FREE_AT_HOME: checks 1 to 3, then R63 and R107; a message that adds a reference adds one (R409). One for a block that is
being read waits (R134). -/
def execFreeAtHome (m : FreeMsg) (s : State) : Answer :=
  if !ready s || !nocFirst s (.freeMsg (me s) m) then .next s
  else if !m.add && beingRead s (hFrame m.handle) then .next (stayNoc s (.freeMsg (me s) m))
  else if m.add then
    let a := addRef (lapse (takeNoc s (.freeMsg (me s) m)) m.handle) m.handle m.src
    .next (replyTo a.1 m.src m.tag m.handle a.2)
  else
    let s := lapse (takeNoc s (.freeMsg (me s) m)) m.handle
    match claimStatus s m.handle m.src false with
    | some e => .next (refuse s m.src m.tag m.handle e)
    | none =>
      let n := frameGranules (frameAt s (hFrame m.handle))
      let r := freeAt s m.handle m.src
      if r.2.1 = St.ok then .next (freeReplyTo r.1 m r.2.2 (if (frameAt r.1 (hFrame m.handle)).state = .free then n else 0))
      else .next (refuse r.1 m.src m.tag m.handle (r.2.1, 0))

/-! ## Migration (R111, R112, R79) -/

/-- Migration limit in ns (R122). -/
def migrateNs (s : State) : Nat := 1000 * max 100 s.home.migrateLimit

/-- All bytes of a frame, as one row of a copy. -/
def wholeFrame (f : Frame) : List (Nat × Nat) := [(0, 0x4000 * frameGranules f)]

/-- Rows of a copy as far as a frame holds them. -/
def clipRows (f : Frame) (rows : List (Nat × Nat)) : List (Nat × Nat) :=
  let n := 0x4000 * frameGranules f
  rows.map (fun r => (min r.1 n, min r.2 (n - min r.1 n)))

/-- MIGRATE_AT_SOURCE: step 1 of R111, or the copy of a sealed block of R79. One for a block that is being read waits (R134). -/
def execMigrateAtSource (m : MigrateMsg) (s : State) : Answer :=
  if !ready s || !nocFirst s (.migrateMsg (me s) m) then .next s
  else if beingRead s (hFrame m.handle) then .next (stayNoc s (.migrateMsg (me s) m))
  else
    let s0 := s
    let s := lapse (takeNoc s (.migrateMsg (me s) m)) m.handle
    let g := hFrame m.handle
    match claimStatus s m.handle m.src true with
    | some e => .next (refuse s m.src m.tag m.handle e)
    | none =>
      let f := frameAt s g
      let mg : Migration := { granule := g, asSource := true, dest := m.dest, asker := m.src, tag := m.tag, rows := clipRows f m.rows
                              deadline := s.now + migrateNs s, flags := m.flags }
      let begin_ := fun (s : State) (owner : Party) =>
        sendMsg s (framePart s g) 2 (m.dest.domain, m.dest.ep) m.dest.part 64
          (.beginMsg { src := homeParty s g, tag := m.tag, handle := m.handle, dest := m.dest, owner := owner
                       flags := m.flags, sizeLog2 := f.sizeLog2 })
      let add := fun (s : State) (x : Migration) => { s with home := { s.home with migrations := s.home.migrations ++ [x] } }
      match f.state with
      | .open_ =>
        if f.owner = m.src then
          let s1 := transition s g { f with state := .migrating, inbound := false, committed := false
                                            deadline := mg.deadline } 0x09
          .next (begin_ (add s1 mg) f.owner)
        else .next (refuse s m.src m.tag m.handle (St.notOwner, 0))
      | .sealed =>
        if (migrationOf s g true).isSome then .next (refuse s m.src m.tag m.handle (St.busy, 0))
        else if 65536 ≤ s.home.forwards.length then .next s0
        else .next (begin_ (add s { mg with keepSealed := true, rows := wholeFrame f }) m.src)
      | .lost => .next (refuse s m.src m.tag m.handle (St.lost, 0))
      | _ => .next (refuse s m.src m.tag m.handle (St.busy, 0))

/-- The frame held for a returning tail block makes room for the block itself (R165). -/
def freeHeld (s : State) (p handle : Nat) : State :=
  match (partOf s p).moving.find? (fun x => x.back && x.handle == handle && x.new.isSome) with
  | some x =>
    let s1 := match x.new with
      | some h => freeFrame s (hFrame h) 0x08
      | none => s
    modPart s1 p (fun P => { P with moving := P.moving.map (fun y => if y.handle = handle then { y with new := none } else y) })
  | none => s

/-- MIGRATE_BEGIN at the destination: step 2 of R111. -/
def execMigrateBegin (m : BeginMsg) (s : State) : Answer :=
  if !ready s || !nocFirst s (.beginMsg m) then .next s
  else
    let p := m.dest.part
    let s := freeHeld (takeNoc s (.beginMsg m)) p m.handle
    let src := (m.src.domain, m.src.ep)
    let r := mainRegion s p
    let dl := s.now + migrateNs s
    let a := if composed s p then allocFrame s r.1 r.2 m.sizeLog2 (fun gen =>
        { state := .migrating, inbound := true, sizeLog2 := m.sizeLog2, flags := m.flags, gen := gen, owner := m.owner
          deadline := dl, peer := m.handle }) 0x09 else none
    match a with
    | none =>
      let t : TMsg := { ttype := 0x0D, status := St.noSpace, src := selfParty s p, tag := m.tag, handle := m.handle }
      let s1 := sendTrapeze s p src t
      .next (sendTrapeze s1 p (m.owner.domain, m.owner.ep) { t with toPart := m.owner.part, toEpoch := m.owner.epoch })
    | some (s1, h) =>
      let mg : Migration := { granule := hFrame h, asSource := false, dest := m.src, asker := m.owner, tag := m.tag
                              rows := [], deadline := dl, flags := m.flags }
      let s2 := { s1 with home := { s1.home with migrations := s1.home.migrations ++ [mg] } }
      .next (sendTrapeze s2 p src { ttype := 0x0A, src := selfParty s2 p, tag := m.tag, handle := m.handle, newHandle := h })

/-- MIGRATE_READY that names no source frame answers an ENCODE that places a parity shard (R409; log entry 34). -/
def readyForParity (s : State) (tag newHandle : Nat) : State :=
  match ((List.range 16).filterMap (fun p => awaiting s p tag)).find? (fun a => opcodeOf a.2.1.words == 0x80) with
  | some a => answerAwait s a.1 tag St.ok newHandle
  | none => s

/-! ## Frames' bytes, and lower tiers (R71, R77, R82, R153) -/

/-- Is a frame in the cold region or the host tier (R71, R77). -/
def lowerTier (s : State) (g : Nat) : Bool :=
  decide (0x80000000 ≤ g) || (let c := coldRegion s (framePart s g); decide (c.1 ≤ g ∧ g < c.2))

/-- The handle that an access with h reads by, after the forwarding entry (R79). -/
def followed (s : State) (h : Nat) : Nat := match forwardOf s h with
  | some e => e.newHandle
  | none => h

/-- Does a read of a host-tier frame fail: its link is down (R153). -/
def tierFails (s : State) (g : Nat) : Bool := decide (0x80000000 ≤ g) && !linkUp s (partOf s (framePart s g)).winFn

/-- Bytes of a frame by offset and length, through the code; none where a word is uncorrectable or the frame's tier fails. -/
def rowBytes (s : State) (g : Nat) : List (Nat × Nat) → Option (List Byte)
  | [] => some []
  | r :: rs =>
    match (if tierFails s g then none else devRead s (g * 0x4000 + r.1) r.2), rowBytes s g rs with
    | some bs, some cs => some (bs ++ cs)
    | _, _ => none

/-- All the bytes of a frame of this home. -/
def frameBytes (s : State) (g : Nat) : Option (List Byte) := rowBytes s g (wholeFrame (frameAt s g))

/-- The rows of a copy with their bytes; none where a row cannot be read. -/
def copyRows (s : State) (g : Nat) : List (Nat × Nat) → Option (List (Nat × List Byte))
  | [] => some []
  | r :: rs =>
    match rowBytes s g [r], copyRows s g rs with
    | some bs, some cs => some ((r.1, bs) :: cs)
    | _, _ => none

/-- MIGRATE_READY at the source: the copy of the rows below W starts, in TC4 (step 3 of R111). A copy that cannot be read ends the
migration (R79, R112). -/
def execMigrateReady (m : TMsg) (s : State) : Answer :=
  homeEvent m s fun s =>
    let g := hFrame m.handle
    if m.handle = 0 then readyForParity s m.tag m.newHandle
    else
      match handleCheck s m.handle, migrationOf s g true with
      | none, some x =>
        let s1 := setFrame (modMigration s g true (fun x => { x with ready := true })) g { frameAt s g with peer := m.newHandle }
        let s2 := x.rows.foldl (fun s r => noteRead s (g * 0x4000 + r.1) r.2 (some (framePart s g)) none none) s1
        match copyRows s1 g x.rows with
        | none => abortAtSource s2 g x St.migrateAbort
        | some rows => sendCopy s2 (framePart s g) 4 (x.dest.domain, x.dest.ep) x.dest.part m.newHandle rows (.frame g)
      | _, _ => s

/-- MIGRATE_COPY_DONE: step 4 of R111, once all data of the copy has arrived; where some did not the migration ends (R112), and a
sealed block waits for a forwarding entry (R79). -/
def execMigrateCopyDone (g : Nat) (s : State) : Answer :=
  if !ready s then .next s
  else
    let s := cacheFrame (migrationLapse s g) g
    match migrationOf s g true with
    | none => .next s
    | some x =>
      let f := frameAt s g
      if copyFailed s (.frame g) then .next (abortAtSource s g x St.migrateAbort)
      else if !x.ready ∨ copyPending s (.frame g) ∨ f.committed ∨ (forwardOf s (handleOf s g)).isSome
          ∨ (x.keepSealed ∧ 65536 ≤ s.home.forwards.length) then .next s
      else
        let h := handleOf s g
        let dest := (x.dest.domain, x.dest.ep)
        let m : TMsg := { ttype := 0x0B, src := homeParty s g, tag := x.tag, handle := f.peer, newHandle := h
                          refs := if x.keepSealed then f.refs else 0 }
        let s1 := if x.keepSealed then
            { s with home := { s.home with forwards := s.home.forwards ++ [⟨h, f.peer, 0, false⟩] } }
          else transition s g { f with committed := true } 0x0A
        .next (sendMsg s1 (framePart s g) 2 dest x.dest.part 64 (.trapeze dest m))

/-- May a module write into a frame: the source of the migration that fills it (R111, R378). -/
def fillsFrame (s : State) (b : Nat) (who : Party) : Bool :=
  (frameAt s b).state == .migrating && (frameAt s b).inbound
    && (migrationOf s b false).any (fun x => (x.dest.domain, x.dest.ep) == (who.domain, who.ep))

/-- The chain hash with which a sealed block arrives: the source frame's within a module; from another module what came beside
the 64 bytes, or it is open (R79; log entry 60). -/
def arrivedHash (s : State) (x : Migration) (source : Nat) (hash : Option Nat) : Nat :=
  if (x.dest.domain, x.dest.ep) = me s then (frameAt s (hFrame source)).hash else hash.getD (Config.freeWord s.freeCtr)

/-- MIGRATE_COMMIT at the destination: step 5 of R111; a sealed block arrives SEALED with the source's REFS and chain hash (R79). -/
def execMigrateCommit (m : TMsg) (hash : Option Nat) (s : State) : Answer :=
  homeEvent m s fun s =>
    let g := hFrame m.handle
    match handleCheck s m.handle, migrationOf s g false with
    | none, some x =>
      let f := frameAt s g
      if f.state ≠ .migrating then s
      else
        let f' := if m.refs ≠ 0 then { f with state := FState.sealed, refs := m.refs, hash := arrivedHash s x m.newHandle hash
                                              owner := ⟨0, 0, 0, 0⟩, lastRead := s.now }
                  else { f with state := FState.open_ }
        let s2 := dropMigration (transition (draw s) g { f' with inbound := false, deadline := 0, peer := 0 } 0x0B) g false
        let d : TMsg := { ttype := 0x0C, src := homeParty s2 g, tag := x.tag, handle := m.newHandle, newHandle := m.handle }
        let s3 := sendTrapeze s2 (framePart s g) (x.dest.domain, x.dest.ep) d
        tellParty s3 g x.asker d
    | _, _ => s

/-- MIGRATE_DONE at the source: step 6 of R111, or the forwarding hold of R79. -/
def doneAtSource (s : State) (m : TMsg) : State :=
  let g := hFrame m.handle
  match (if (frameAt s g).gen = hGen m.handle then migrationOf s g true else none) with
  | none => s
  | some x =>
    if x.keepSealed then beginHold (dropMigration s g true) m.handle
    else if (frameAt s g).gen = hGen m.handle ∧ (frameAt s g).committed then freeFrame (dropMigration s g true) g 0x08
    else s

/-- MIGRATE_ABORT at a home: the source returns to OPEN unless it has committed, the destination frees its frame
(R111, R112). -/
def abortAtHome (s : State) (m : TMsg) : State :=
  let g := if m.handle ≠ 0 then hFrame m.handle
    else match s.home.migrations.find? (fun x => !x.asSource && (frameAt s x.granule).peer == m.newHandle) with
      | some x => x.granule
      | none => 0
  if (m.handle ≠ 0 ∧ (frameAt s g).gen ≠ hGen m.handle) ∨ (m.handle = 0 ∧ m.newHandle = 0) then s
  else
    match migrationOf s g true with
    | some x =>
      let f := frameAt s g
      if f.committed ∨ (forwardOf s m.handle).isSome then s
      else if x.keepSealed then dropMigration s g true
      else dropMigration (transition s g { f with state := .open_, deadline := 0, peer := 0 } 0x0C) g true
    | none =>
      match migrationOf s g false with
      | some _ => freeFrame (dropMigration s g false) g 0x0C
      | none => s

/-! ## Fencing (R116 to R119) -/

/-- The FENCE that 160 bytes hold, sent by a party (R116). -/
def fenceOf (bs : List Byte) (sender : Party) : FenceMsg :=
  let a := leAt bs 8 8
  { level := bits (leAt bs 0 8) 3 0, domain := bits a 11 0, ep := bits a 21 12, part := bits a 25 22, gate := bit a 26
    noFloor := bit a 27, fenceEpoch := leAt bs 0x10 4, issued := leAt bs 0x18 8
    reserved := toLe 5 (bits a 63 28) ++ (bs.drop 0x14).take 4 ++ (bs.drop 0x20).take 32
    sigR := leAt bs 0x40 48, sigS := leAt bs 0x70 48, sender := sender }

/-- The floor of an identity raised (R118). -/
def raiseFloor (s : State) (x : Party) (e : Nat) : State :=
  let key : Party := { x with epoch := 0 }
  { s with home := { s.home with floors :=
                       (key, max (floorOf s x) e) :: s.home.floors.filter (fun y => !sameIdentity y.1 x) } }

/-- The fence rows of R107 on one frame, for an identity whose floor has been raised (R118). -/
def fenceFrame (x : Party) (s : State) (g : Nat) : State :=
  let f := frameAt s g
  let fl := floorOf s x
  let ownHit := sameIdentity f.owner x && decide (f.owner.epoch ≤ fl)
  let offHit := sameIdentity f.offeree x && (f.offeree.epoch == 0 || decide (f.offeree.epoch ≤ fl))
  match f.state with
  | .open_ => if ownHit then loseFrame s g 0x0D else s
  | .offered =>
    if offHit then
      let h := handleOf s g
      let s1 := transition s g { f with state := .open_, offeree := ⟨0, 0, 0, 0⟩, deadline := 0 } 0x06
      returnedToBoth s1 g h St.offereeFenced f.owner f.offeree
    else s
  | .migrating =>
    if ownHit && !f.committed then
      let h := handleOf s g
      match migrationOf s g (!f.inbound) with
      | some mg => loseFrame (sendAbort (dropMigration s g (!f.inbound)) g mg St.fenced h f.peer) g 0x0D
      | none => loseFrame s g 0x0D
    else s
  | _ => s

/-- A fence of an identity applied: its floor rises, then every frame that records it is treated (R118), after the deadlines
that have passed at it (R104). -/
def applyFence (s : State) (x : Party) (e : Nat) : State :=
  let s1 := raiseFloor s x e
  (AMap.keys s1.home.frames).foldl (fun s g => fenceFrame x (lapse s (handleOf s g)) g) s1

/-- FENCE_ACK to the steward's module (R97, R118). -/
def fenceAckTo (s : State) (f : FenceMsg) (status : Nat) : State :=
  let p := ((List.range 16).find? (composed s)).getD 0
  sendTrapeze s p (f.sender.domain, f.sender.ep)
    { ttype := 0x11, status := status, src := selfParty s p, handle := 0, peer := ⟨f.domain, f.ep, f.part, 0⟩
      time := s.now, toPart := f.sender.part }

/-- FENCE_MSG (R118, R119): a bad signature discards the fence; a good one raises the floor, treats the frames, opens
the gate with GATE, and is acknowledged. -/
def execFenceMsg (f : FenceMsg) (s : State) : Answer :=
  let o := Out.fenceTo (me s) f
  if !ready s || !nocFirst s o then .next s
  else if f.level ≠ 1 then .next (strayMsg (takeNoc s o))
  else
    let s := takeNoc s o
    if !ecdsaVerify (compOf s).fenceX (compOf s).fenceY (fenceSigned f) f.sigR f.sigS then
      let s1 := { s with home := { s.home with badFences := min 0xFFFF (s.home.badFences + 1) } }
      let s2 := report s1 none none true { code := 0x0D, status := St.badSignature, detail := f.domain * 1024 + f.ep }
      .next (fenceAckTo s2 f St.badSignature)
    else
      let s1 := if f.noFloor then s else applyFence s ⟨f.domain, f.ep, f.part, 0⟩ f.fenceEpoch
      let s2 := { s1 with home := { s1.home with fences := (s1.home.fences + 1) % 2 ^ 32
                                                 gateOpen := s1.home.gateOpen || f.gate } }
      .next (fenceAckTo s2 f St.ok)

end Sys2Proof.Machine
end

