-- ==== Sys2Proof/Machine/Turnstile.lean ====
section
/-! DEFINITION. The turnstile: buckets, admission, charges and refunds (11_admission_and_shaping.md R297 to R305). -/

namespace Sys2Proof.Machine

/-- A bucket brought up to date at device time now (R298). -/
def bucketAt (b : Bucket) (now : Nat) : Bucket :=
  let a := b.rate * 256 * (now - b.last) + b.frac
  { b with level := min (b.level + (a / 1000000000 : Nat)) ((b.burst * 256 : Nat) : Int)
           frac := a % 1000000000, last := now }

/-- The lowest LEVEL, −2^47 (R298). -/
def bucketFloor : Int := -(2 ^ 47 : Int)

/-- A customer's bucket, up to date. -/
def bucketOf (s : State) (p c : Nat) : Bucket := bucketAt (AMap.getD (partOf s p).buckets c {}) s.now

/-- The state with a bucket stored. -/
def setBucket (s : State) (p c : Nat) (b : Bucket) : State :=
  modPart s p (fun P => { P with buckets := AMap.insert P.buckets c b })

/-- A charge in 1/256 token: unmetered buckets count it and keep LEVEL (R299, R304). -/
def chargeBucket (b : Bucket) (amt : Nat) : Bucket :=
  { b with level := if b.mode = 0 then b.level else max bucketFloor (b.level - (amt : Int))
           charged := b.charged + (amt : Int) }

/-- A refund, capped at BURST × 256; counted in full (R304). -/
def refundBucket (b : Bucket) (amt : Nat) : Bucket :=
  { b with level := if b.mode = 0 then b.level else min (b.level + (amt : Int)) ((b.burst * 256 : Nat) : Int)
           charged := b.charged - (amt : Int) }

/-- Charge a customer (R300, R304). -/
def charge (s : State) (p c amt : Nat) : State := setBucket s p c (chargeBucket (bucketOf s p c) amt)

/-- Refund a customer (R300, R304). -/
def refund (s : State) (p c amt : Nat) : State := setBucket s p c (refundBucket (bucketOf s p c) amt)

/-- Prompt-token weight in force (R323). -/
def promptWeight (s : State) (p : Nat) : Nat := min 1024 (partOf s p).promptWt

/-- Tokens per block of a record's geometry (R50). -/
def tokensPerBlock (s : State) (p : Nat) (r : Rec) : Nat :=
  16 * 2 ^ (AMap.getD (partOf s p).geoms r.geom {}).tCode

/-- Prompt part of the first-step reservation (R301). -/
def promptPart (s : State) (p : Nat) (r : Rec) : Nat :=
  promptWeight s p * (r.prompt - r.sealed * tokensPerBlock s p r)

/-- First-step reservation R in 1/256 token (R301). -/
def reservation (s : State) (p : Nat) (r : Rec) : Nat := promptPart s p r + 256 * (r.depth + 1)

/-- Does ADMIT pass (R299, R301). -/
def admits (b : Bucket) (need : Nat) : Bool :=
  b.mode == 0 || (b.mode == 1 && decide ((need : Int) ≤ b.level))

/-- LEVEL shifted right arithmetically by 8, as a 64-bit word (R301). -/
def levelTokens (b : Bucket) : Nat := unsignedOf 64 (b.level / 256)

/-- Key of turnstile order: CLASS, LEVEL descending, ADMITTED or arrival, INDEX (R302). -/
structure TurnKey where
  cls   : Nat
  level : Int
  time  : Nat
  idx   : Nat
deriving DecidableEq, Repr

/-- Turnstile order: a ranks before b (R302). -/
def turnBefore (a b : TurnKey) : Bool :=
  decide (a.cls < b.cls) || (a.cls == b.cls &&
    (decide (b.level < a.level) || (a.level == b.level &&
      (decide (a.time < b.time) || (a.time == b.time && decide (a.idx < b.idx))))))

/-- A request's key; arrival stands for ADMITTED where it is not yet admitted (R302). -/
def turnKey (s : State) (p i : Nat) (arrival : Option Nat) : TurnKey :=
  let r := recOf s p i
  let b := bucketOf s p r.customer
  ⟨r.cls, if b.mode = 0 then 0 else b.level, arrival.getD r.admitted, i⟩

/-- Insert a request into a list in turnstile order. -/
def turnInsert (k : Nat → TurnKey) (i : Nat) : List Nat → List Nat
  | [] => [i]
  | j :: js => if turnBefore (k i) (k j) then i :: j :: js else j :: turnInsert k i js

/-- Requests in turnstile order. -/
def turnSort (k : Nat → TurnKey) : List Nat → List Nat
  | [] => []
  | i :: is => turnInsert k i (turnSort k is)

/-- When a refused request may be offered again; none where only a write to its bucket can bring it back (R303). -/
def retryAt (s : State) (b : Bucket) (need : Nat) : Option Nat :=
  if b.rate = 0 then none
  else some (s.now + ceilDiv ((((need : Int) - b.level).toNat) * 1000000000) (256 * b.rate))

/-- The ringmaster holds a refused request in the order of first arrival (R302, R303); a time that no clock reaches stands for a bucket without a rate. -/
def holdRefused (s : State) (p i : Nat) (b : Bucket) (need : Nat) : State :=
  let at_ := (retryAt s b need).getD (2 ^ 64)
  let keep := fun (l : List (Nat × Nat)) =>
    if l.any (fun e => e.1 == i) then l.map (fun e => if e.1 = i then (i, at_) else e) else l ++ [(i, at_)]
  modPart s p (fun P => { P with refused := keep P.refused })

/-- The commit of an ADMIT that passed: the prompt part is taken, the request enters PREFILL (R301). -/
def admitCommit (s : State) (p i amt : Nat) : State :=
  let r := recOf s p i
  let s1 := charge s p r.customer amt
  let s2 := setRec s1 p i { r with state := .prefill, admitted := s.now }
  modPart s2 p (fun P => { P with refused := P.refused.filter (fun e => e.1 != i) })

/-- A write to a bucket brings back the refused requests of its customer that only a write can bring back (R303). -/
def refusedAfterWrite (s : State) (p c : Nat) : State :=
  modPart s p (fun P => { P with refused := P.refused.map (fun e =>
    if e.2 = 2 ^ 64 ∧ (AMap.getD P.recs e.1 {}).customer = c then (e.1, s.now) else e) })

/-! ## The meanings -/

/-- What the ADMITs that have passed and not yet committed will take from a customer's bucket (R300, R301). -/
def admitting (s : State) (p customer : Nat) : Nat :=
  ((partOf s p).queues.map (fun q => (q.2.issued.map (fun i => (i.effects.map (fun e => match e with
    | .admitted idx amt => if (recOf s p idx).customer = customer then amt else 0
    | _ => 0)).sum)).sum)).sum

/-- A bucket as an ADMIT sees it: at the level that the ADMITs before it leave (R298 to R301). -/
def bucketLeft (s : State) (p customer : Nat) : Bucket :=
  let b := bucketOf s p customer
  if b.mode = 0 then b else { b with level := b.level - (admitting s p customer : Int) }

/-- ADMIT (0x90; R223, R300, R301, R303). -/
def execAdmission (w : IRef) (s : State) : Answer :=
  withInstr s w 0x90 fun i =>
    let s := placeBoundary s w.part
    let idx := reqIndex i.words
    let r := recOf s w.part idx
    if heldByOther s w i then s
    else if r.rgen ≠ reqGen i.words then failWith s w St.staleRequest
    else if r.state ≠ .free then failWith s w St.badOperand
    else
      let b := bucketLeft s w.part r.customer
      let need := reservation s w.part r
      if admits b need then finish s w St.ok 0 [.admitted idx (promptPart s w.part r)]
      else
        let s1 := holdRefused (countEv s Isl.ts 0x084 none (some w.part)) w.part idx b need
        finish s1 w St.budget (levelTokens b)

/-- Amount of CHARGE and REFUND: 256 per token, or the prompt weight with PROMPT (R304). -/
def amountOf (s : State) (p : Nat) (ws : List Nat) : Nat :=
  (if flagOf ws 24 then promptWeight s p else 256) * bits (opB ws) 31 0

/-- CHARGE (0x91; R223, R304). -/
def execCharge (w : IRef) (s : State) : Answer :=
  withInstr s w 0x91 fun i =>
    finish s w St.ok 0 [.charge (bits (opA i.words) 15 0) (amountOf s w.part i.words)]

/-- REFUND (0x92; R223, R304). -/
def execRefund (w : IRef) (s : State) : Answer :=
  withInstr s w 0x92 fun i =>
    finish s w St.ok 0 [.refund (bits (opA i.words) 15 0) (amountOf s w.part i.words)]

/-- The refused requests whose time has come, in turnstile order; order of arrival stands for ADMITTED (R302, R303). -/
def retryOrder (s : State) (p : Nat) : List Nat :=
  let due := (partOf s p).refused.filter (fun e => decide (e.2 ≤ s.now))
  let pos := fun i => ((partOf s p).refused.map Prod.fst).findIdx (· == i)
  turnSort (fun i => turnKey s p i (some (pos i))) (due.map Prod.fst)

/-- ADMIT_RETRY: the ringmaster offers its refused requests again in turnstile order (R302, R303). -/
def execAdmitRetry (p : Nat) (s : State) : Answer :=
  if ready s && (partOf s p).state == .running then
    .next ((retryOrder s p).foldl (fun s i =>
      let r := recOf s p i
      if r.state ≠ .free ∨ !r.filled then
        modPart s p (fun P => { P with refused := P.refused.filter (fun e => e.1 != i) })
      else
        let b := bucketLeft s p r.customer
        let need := reservation s p r
        if admits b need then admitCommit s p i (promptPart s p r)
        else holdRefused (countEv s Isl.ts 0x084 none (some p)) p i b need) (placeBoundary s p))
  else .next s

end Sys2Proof.Machine
end

