-- ==== Sys2Proof/Machine/Requests.lean ====
section
/-! DEFINITION. Requests: block tables, chain hashes, sealing, carousel rings, endings and the moves of blocks that the
ringmaster starts (03_state_blocks.md R64 to R75, 06_speculation_and_streams.md R164 to R182, 10_prefix_index.md R278). -/

namespace Sys2Proof.Machine

/-! ## Block tables (R65, R66) -/

/-- Tokens per block of a request's geometry (R50). -/
abbrev tokensOf (s : State) (p : Nat) (r : Rec) : Nat := tokensPerBlock s p r

/-- Address of the block-table entry of block j of layer l (R66). -/
def entryAddr (r : Rec) (l j : Nat) : Nat := r.btable + (l * r.stride + j) * 8

/-- The handle at a block-table entry; the null handle where the entry lies where the partition may not read. -/
def handleAt (s : State) (p : Nat) (r : Rec) (l j : Nat) : Nat :=
  if mayAccess s p (entryAddr r l j) 8 then devWord s (entryAddr r l j) else 0

/-- A block-table entry written. -/
def putEntry (s : State) (p : Nat) (r : Rec) (l j h : Nat) : State :=
  if mayAccess s p (entryAddr r l j) 8 then devPut s (entryAddr r l j) (toLe 8 h) else s

/-- Is a handle the null handle (R55). -/
def isNull (h : Nat) : Bool := hGen h == 0

/-! ## Chain hashes (R278) -/

/-- The bytes that the chain hash of a position covers. -/
def chainMessage (prev model : Nat) (ids : List Byte) : List Byte := toLe 16 prev ++ toLe 8 model ++ ids

/-- The first 16 digest bytes as a number: digest byte 0 is bits [7:0] (R278). -/
def chainOf (msg : List Byte) : Nat := fromLe ((sha384 msg).take 16)

/-- The chain hash of position j of a request; none where a token id cannot be read. -/
def chainHash (s : State) (p : Nat) (r : Rec) (j : Nat) : Option Nat :=
  match AMap.find? r.hashes j with
  | some h => some h
  | none =>
    let t := tokensOf s p r
    let prev := if j = 0 then 0 else if j = r.sealed then r.lastHash else AMap.getD r.hashes (j - 1) 0
    match devRead s (r.tokens + 4 * j * t) (4 * t) with
    | some ids => some (chainOf (chainMessage prev r.model ids))
    | none => none

/-- Leading sealed blocks of a layer. -/
def layerSealedOf (r : Rec) (l : Nat) : Nat := max r.sealed (AMap.getD r.layerSealed l 0)

/-- A record after block j of a layer is sealed: SEALED advances when every layer of the position is (R60, R214). -/
def afterSeal (r : Rec) (l j hash : Nat) : Rec :=
  let r1 := { r with layerSealed := AMap.insert r.layerSealed l (j + 1), hashes := AMap.insert r.hashes j hash }
  if j = r1.sealed ∧ (List.range r1.layers).all (fun x => decide (j < layerSealedOf r1 x)) then
    { r1 with sealed := j + 1, lastHash := hash
              hashes := r1.hashes.filter (fun e => decide (j < e.1))
              layerSealed := r1.layerSealed.filter (fun e => decide (j + 1 < e.2)) }
  else r1

/-! ## Moves that the ringmaster starts (R74, R164, R165) -/

/-- The bytes of a block of a geometry that hold its first n rows: n rows of each head in the K plane and in the V plane
(R52, R68). -/
def rowsBelow (sh : Nat × Nat × Nat × Nat) (n : Nat) : List (Nat × Nat) :=
  let row := sh.2.2.1 * sh.2.2.2
  if sh.1 ≤ n then [(0, blockBytes sh)]
  else if n = 0 then []
  else (List.range (2 * sh.2.1)).map (fun x => (x * sh.1 * row, n * row))

/-- The bytes of block j of a request that lie below W (R68). -/
def dataRows (s : State) (p : Nat) (r : Rec) (j : Nat) : List (Nat × Nat) :=
  match usableGeom s p r.geom with
  | some (sh, _) => rowsBelow sh (r.w - j * sh.1)
  | none => []

/-- Every (layer, block) of the block table from block b on, up to a block. -/
def blocksFrom (r : Rec) (b e : Nat) : List (Nat × Nat) :=
  ((List.range r.layers).map (fun l => (List.range (e - b)).map (fun i => (l, b + i)))).flatten

/-- Handles of a request's block table with their places. -/
def tableHandles (s : State) (p : Nat) (r : Rec) : List (Nat × Nat × Nat) :=
  (blocksFrom r 0 r.stride).map (fun e => (e.1, e.2, handleAt s p r e.1 e.2))

/-- Requests whose records are in use. -/
def liveRequests (s : State) (p : Nat) : List Nat :=
  ((partOf s p).recs.filter (fun e => e.2.state != .free && e.2.state != .ended)).map Prod.fst

/-- Requests with a block table: those in use, the ENDED ones that no STEP has retired yet, and those that OPENREQ has filled
(R67, R158, R170). -/
def tabledRequests (s : State) (p : Nat) : List Nat :=
  ((partOf s p).recs.filter (fun e => e.2.state != .free || e.2.filled)).map Prod.fst

/-- The request of a partition whose block table names a handle, with the place. -/
def namedBy (s : State) (p h : Nat) : Option (Nat × Nat × Nat) :=
  ((tabledRequests s p).map (fun i => ((tableHandles s p (recOf s p i)).filter (fun e => e.2.2 == h)).map (fun e => (i, e.1, e.2.1)))).flatten.head?

/-- What a migration copies of a block by its handle: the rows below W of the request that names it; of a block that no
request names all of it, however large (R49, R68, R111). -/
def rowsOf (s : State) (p h : Nat) : List (Nat × Nat) :=
  match namedBy s p h with
  | some (i, _, j) => dataRows s p (recOf s p i) j
  | none => [(0, 0x100000)]

/-- A MIGRATE message from a partition to a block's home, in TC4 (R210). -/
def sendMigrate (s : State) (p handle : Nat) (dest : Party) (flags : Nat) (rows : List (Nat × Nat)) : State × Nat :=
  let (s1, tag) := takeTag s p
  (sendMsg s1 p 4 (hHome handle) 0 64
    (.migrateMsg (hHome handle) { src := selfParty s1 p, tag := tag, handle := handle, dest := dest, flags := flags, rows := rows }), tag)

/-- The ringmaster moves a block of a request to a home, and remembers whose block-table entry it will replace. -/
def startMove (s : State) (p idx l j handle : Nat) (dest : Party) (flags : Nat) (back : Bool) (hold : Option Nat)
    (pool : Option ((Nat × Nat × Nat) × Nat) := none) (rehome : Option (Nat × Nat × Nat) := none) : State :=
  let (s1, _) := sendMigrate s p handle dest flags (dataRows s p (recOf s p idx) j)
  modPart s1 p (fun P => { P with moving := P.moving ++ [{ handle := handle, req := idx, layer := l, block := j, back := back, new := hold, pool := pool, rehome := rehome }] })

/-- A block moved to the cache-pool home that R74 chooses from a list; with no home nothing moves (R75). -/
def moveToPool (s : State) (p idx l j handle flags list : Nat) : State :=
  match chooseHome s p list [] with
  | none => s
  | some e =>
    let size := match usableGeom s p (recOf s p idx).geom with
      | some (_, k) => 2 ^ k
      | none => 1
    startMove (useHome s p (e.domain, e.ep, e.part) (size : Nat)) p idx l j handle ⟨e.domain, e.ep, e.part, 0⟩ flags false none
      (some ((e.domain, e.ep, e.part), size))

/-- The granules of frames allocated at another home, kept by handle (R75). -/
def sizeHandles (s : State) (p : Nat) (hs : List Nat) (n : Nat) : State :=
  modPart s p (fun P => { P with sized := hs.foldl (fun a h => AMap.insert a h n) P.sized })

/-- Is a module known as a cache-role home: this module by its role, another by any list of the placement table (R74; how the
ringmaster knows it is the model's choice, log entry 137). -/
def isCacheHome (s : State) (p : Nat) (m : Nat × Nat) : Bool :=
  if m = me s then roleOf s == roleCache
  else (List.range ((partOf s p).place.nlists + 1)).any (fun l =>
    (placeList s p l).any (fun e => e.kind == 0 && (e.domain, e.ep) == m))

/-- After a seal: a block with SHARED or NET whose home is not a cache-role module moves to one (R74). -/
def moveIfShared (s : State) (p idx l j handle flags : Nat) : State :=
  let pool := (recOf s p idx).pool
  if (bit flags 3 || bit flags 4) && !isCacheHome s p (hHome handle) then moveToPool s p idx l j handle flags pool
  else s

/-! ## Freeing (R63, R175) -/

/-- A frame that this module's own home freed counts no more at its entry of the placement table (R75). -/
def creditHere (s : State) (p g n : Nat) : State :=
  let home := ((me s).1, (me s).2, framePart s g)
  if (partOf s p).homeUse.any (fun u => (u.domain, u.ep, u.part) == home) then useHome s p home (-(n : Int)) else s

/-- A handle freed by its owner or referrer: at once at this home, by message elsewhere, where the answer tells what was
freed (R75); a local refusal is answered by nothing. -/
def freeHandle (s : State) (p h : Nat) : State :=
  if isNull h then s
  else if hHome h = me s then
    let s0 := lapse s h
    match claimStatus s0 h (selfParty s0 p) false with
    | some e => noteFenced s0 p e.1
    | none =>
      let n := frameGranules (frameAt s0 (hFrame h))
      let s1 := (freeAt s0 h (selfParty s0 p)).1
      if (frameAt s1 (hFrame h)).state = .free then creditHere s1 p (hFrame h) n else s1
  else
    let (s1, tag) := takeTag s p
    sendMsg s1 p 2 (hHome h) 0 64 (.freeMsg (hHome h) { src := selfParty s1 p, tag := tag, handle := h })

/-- Frames of blocks that start at or above a bound are freed, and their entries become null (R175). -/
def freeFrom (s : State) (p idx bound : Nat) : State :=
  let r := recOf s p idx
  let b := ceilDiv bound (tokensOf s p r)
  (blocksFrom r b r.stride).foldl (fun s e =>
    let h := handleAt s p r e.1 e.2
    if isNull h then s else putEntry (freeHandle s p h) p r e.1 e.2 0) s

/-! ## Sealing by the ringmaster (R74, R113, R176) -/

/-- Reply wait in ns (R122). -/
def replyWaitNs (s : State) : Nat := max 1 s.home.replyWait * 10000

/-- An outcome that the party will ask for at a time (R109). -/
def expectOutcome (s : State) (p tag handle deadline : Nat) (move : Bool := false) : State :=
  modPart s p (fun P => { P with outcomes := P.outcomes ++ [{ tag := tag, handle := handle, deadline := deadline, move := move }] })

/-- The outcome of a handle has arrived. -/
def outcomeCame (s : State) (p handle : Nat) : State :=
  modPart s p (fun P => { P with outcomes := P.outcomes.filter (fun o => o.handle != handle) })

/-- Seal one block at this home: the state, the status and the block's flags (R60, R107). -/
def sealLocal (s : State) (p h hash : Nat) : State × Nat × Nat :=
  let s := lapse s h
  match claimStatus s h (selfParty s p) true with
  | some e => (noteFenced s p e.1, e.1, 0)
  | none =>
    let f := frameAt s (hFrame h)
    if f.state = .open_ then
      if f.owner = selfParty s p then
        (transition s (hFrame h) { f with state := .sealed, refs := 1, hash := hash, owner := ⟨0, 0, 0, 0⟩
                                          lastRead := s.now } 0x07, St.ok, f.flags)
      else (s, St.notOwner, 0)
    else (s, St.busy, 0)

/-- A block of a request has been sealed: its record says so, and a SHARED or NET block moves to the cache pool (R60, R74). -/
def sealDone (s : State) (p idx l j h hash flags : Nat) : State :=
  moveIfShared (setRec s p idx (afterSeal (recOf s p idx) l j hash)) p idx l j h flags

/-- SEAL asked of another module's home; without an answer the ringmaster asks for the outcome (R74, R109). -/
def askSeal (s : State) (p idx l j h hash : Nat) : State :=
  let (s1, tag) := takeTag s p
  let s2 := sendMsg s1 p 2 (hHome h) 0 64 (.sealMsg (hHome h)
    { src := selfParty s1 p, tag := tag, handle := h, hashLo := hash % 2 ^ 64, hashHi := hash / 2 ^ 64 })
  expectOutcome (modPart s2 p (fun P => { P with sealsOut := P.sealsOut ++ [⟨tag, idx, l, j, h, hash, s.now + replyWaitNs s⟩] }))
    p tag h (s.now + replyWaitNs s)

/-- Seal block j of a layer unless it is sealed: at once at this home; another home is asked, and until it has answered the
block is BUSY. A block that has no frame just now, because a lost one is being replaced (R121), is BUSY too. -/
def sealLayer (s : State) (p idx l j hash : Nat) : State × Nat :=
  let r := recOf s p idx
  let h := handleAt s p r l j
  if j < layerSealedOf r l then (s, St.ok)
  else if isNull h ∨ (partOf s p).sealsOut.any (fun x => x.handle == h) then (s, St.busy)
  else if hHome h ≠ me s then (askSeal s p idx l j h hash, St.busy)
  else
    let a := sealLocal s p h hash
    if a.2.1 = St.ok then (sealDone a.1 p idx l j h hash a.2.2, St.ok) else (a.1, a.2.1)

/-- The status that decides between two: one other than OK and BUSY first, then BUSY (R176). -/
def worse (a b : Nat) : Nat := if a = St.ok ∨ (a = St.busy ∧ b ≠ St.ok) then b else a

/-- Seal block j in every layer (R176): the status that decides. -/
def sealLayers (p idx j hash : Nat) : List Nat → State → State × Nat
  | [], s => (s, St.ok)
  | l :: ls, s =>
    let a := sealLayer s p idx l j hash
    let b := sealLayers p idx j hash ls a.1
    (b.1, worse a.2 b.2)

/-- Seal every full block of a request, at most fuel of them, in ascending order; after a seal that does not succeed no
later block is attempted (R113, R176): the last status. -/
def sealFull (p idx : Nat) : Nat → State → State × Nat
  | 0, s => (s, St.ok)
  | fuel + 1, s =>
    let r := recOf s p idx
    let j := r.sealed
    if (j + 1) * tokensOf s p r ≤ r.c ∧ j < r.stride then
      match chainHash s p r j with
      | none => (s, St.uncorrectable)
      | some hash =>
        let a := sealLayers p idx j hash (List.range r.layers) s
        if a.2 = St.ok ∧ r.sealed < (recOf a.1 p idx).sealed then sealFull p idx fuel a.1 else a
    else (s, St.ok)

/-- Full blocks of a request not yet sealed. -/
def fullBlocks (s : State) (p : Nat) (r : Rec) : Nat := r.c / max 1 (tokensOf s p r) - r.sealed

/-- Seal every full block of a request: the last status. -/
def sealRequest (s : State) (p idx : Nat) : State × Nat := sealFull p idx (fullBlocks s p (recOf s p idx)) s

/-- Does the ringmaster still wait for another home's seal of a block of a request (R176). -/
def sealPending (s : State) (p idx : Nat) : Bool :=
  (partOf s p).sealsOut.any (fun x => x.req == idx && decide (s.now < x.due))

/-! ## Carousel rings (R178 to R182) -/

/-- Ring states of R178. -/
abbrev ringActive : Nat := 1
abbrev ringPaused : Nat := 2
abbrev ringWaiting : Nat := 3
abbrev ringEnded : Nat := 4

/-- Entries of a ring. -/
def ringSize (r : Rec) : Nat := 2 ^ r.ringLog2

/-- A write into a request's ring memory, in TC1 on the host port (R210, R306): a packet of 16 bytes and the data that takes
its turn there, in the request's leaf where the instruction names the request and else in the class leaf (R318); lost where
its host cannot be reached (log entry 108). -/
def ringPut (s : State) (p : Nat) (leaf : Option Nat) (r : Rec) (off : Nat) (bs : List Byte) : State :=
  if linkUp s r.ringHost then enqueue s 32 p 1 leaf (16 + bs.length) (.tlp r.ringHost (r.ring + off) bs) else s

/-- The carousel entry word i for a token word: END as given, TAG by index (R179). Bits [51] TRUNC, [50] ERROR and [49]
STOP come with the word. -/
def carouselWord (r : Rec) (i word : Nat) (last : Bool) : Nat :=
  bits word 47 0 + flag last * 2 ^ 48 + bits word 51 49 * 2 ^ 49 + (i / ringSize r + 1) % 256 * 2 ^ 56

/-- One ring entry written (R179). -/
def putCarousel (s : State) (p : Nat) (leaf : Option Nat) (r : Rec) (i word : Nat) (last : Bool) : State :=
  ringPut s p leaf r (0x40 + i % ringSize r * 8) (toLe 8 (carouselWord r i word last))

/-- The header's state word written (R178). -/
def putRingState (s : State) (p : Nat) (leaf : Option Nat) (r : Rec) (st final : Nat) : State :=
  ringPut s p leaf r 0x10 (toLe 8 (st + final * 256 + r.emitted % 2 ^ 32 * 2 ^ 32))

/-- PROD written (R180). -/
def putProd (s : State) (p : Nat) (leaf : Option Nat) (r : Rec) : State := ringPut s p leaf r 0x00 (toLe 8 (r.prod % 2 ^ 32))

/-- Free entries by the cached CONS (R181). -/
def ringFree (r : Rec) : Nat := ringSize r - (r.prod + 2 ^ 32 - r.cons) % 2 ^ 32

/-- CONS read again from host memory when fewer than n entries are free by the cached one (R181). -/
def refreshCons (s : State) (p idx n : Nat) : State :=
  let r := recOf s p idx
  if n ≤ ringFree r then s
  else
    match hostRead s r.ringHost (r.ring + 8) 4 with
    | some bs => setRec s p idx { r with cons := fromLe bs }
    | none => s

/-! ## Endings (R182, R305, R420) -/

/-- A request ends: the ending entry where one is due and fits, then the header with STATE 4, FINAL and ENDTIME (R182).
`entry` is the ending entry's word when it carries no token, `leaf` the leaf of its ring writes. -/
def endRequest (s : State) (p idx : Nat) (leaf : Option Nat) (final : Nat) (entry : Option Nat) : State :=
  let s0 := refreshCons s p idx 1
  let r := recOf s0 p idx
  let s1 := match entry with
    | none => s0
    | some w =>
      if 0 < ringFree r then
        setRec (putCarousel s0 p leaf r r.prod w true) p idx { r with prod := (r.prod + 1) % 2 ^ 32 }
      else s0
  let r1 := { recOf s1 p idx with state := RState.ended, caught := false, stalled := false }
  let s2 := ringPut (putProd (setRec s1 p idx r1) p leaf r1) p leaf r1 0x18 (toLe 8 s.now)
  putRingState s2 p leaf r1 ringEnded final

/-- The word of an ending entry without a token: TOKEN all ones, with ERROR or TRUNC as given (R179, R182). -/
def endWord (error trunc : Bool) : Nat := 0xFFFFFFFF + flag error * 2 ^ 50 + flag trunc * 2 ^ 51

/-- Tokens that an error ending refunds under TS_TURN_CFG.REFUND (R305). -/
def refundTokens (s : State) (p idx : Nat) : Nat :=
  let r := recOf s p idx
  match (partOf s p).refundPol with
  | 1 => r.emitted
  | 2 =>
    match hostRead s r.ringHost (r.ring + 8) 4 with
    | some bs => (r.prod + 2 ^ 32 - fromLe bs) % 2 ^ 32
    | none => 0
  | _ => 0

/-- A request is retired with a final status: ended, with the refund of an error ending in the generation role (R182,
R305). -/
def retire (s : State) (p idx : Nat) (leaf : Option Nat) (final : Nat) : State :=
  let error := 0x40 ≤ final
  let s1 := if error ∧ roleOf s = roleGeneration then
      let n := refundTokens s p idx
      if n = 0 then s else refund s p (recOf s p idx).customer (256 * n)
    else s
  endRequest s1 p idx leaf final (some (endWord error false))

/-- A record returned to FREE: its references are stale from now on, and no request of it waits for admission (R65, R303). -/
def freeRecord (s : State) (p idx : Nat) : State :=
  modPart (setRec s p idx { rgen := ((recOf s p idx).rgen + 1) % 4096 }) p (fun P => { P with
    refused := P.refused.filter (fun e => e.1 != idx) })

/-- The frame held for a block that was to return is free again (R165). -/
def freeHold (s : State) (x : Moving) : State :=
  match x.new with
  | some h => freeFrame s (hFrame h) 0x08
  | none => s

/-- Moves of a request's blocks under way. -/
def tailMoves (s : State) (p idx : Nat) : List Moving := (partOf s p).moving.filter (fun m => m.req == idx && !m.orphan)

/-- Phase 1 of STEP for one request: open frames freed, references to sealed blocks dropped, the record FREE (R158). The
frames held for its return are freed too; a block on its way is freed where it arrives. -/
def dropRequest (s : State) (p idx : Nat) : State :=
  let r := recOf s p idx
  let moves := tailMoves s p idx
  let s1 := (tableHandles s p r).foldl (fun s e =>
    if isNull e.2.2 then s
    else putEntry (if moves.any (fun m => m.handle == e.2.2 && !m.again) then s else freeHandle s p e.2.2) p r e.1 e.2.1 0) s
  let s2 := modPart (moves.foldl freeHold s1) p (fun P => { P with
    moving := (P.moving.filter (fun m => m.req != idx || m.orphan || !m.again)).map
                (fun m => if m.req = idx then { m with orphan := true, new := none } else m)
    sealsOut := P.sealsOut.filter (fun x => x.req != idx)
    recovering := P.recovering.filter (fun x => x.req != idx) })
  freeRecord s2 p idx

/-- Is a request's header still to be written: it waits at the host port, or its host's link is down (R424, R438). -/
def headerOut (s : State) (r : Rec) : Bool :=
  !linkUp s r.ringHost || (tsPort s 32).frames.any (fun f => match f.frame.what with
    | .tlp g a _ => g == r.ringHost && a == r.ring + 0x10
    | _ => false)

/-- Level 1: a request ends with an error, with its record of containment (R155, R420, R480 code 0x0F), which is handled once the
ending entry and the header are written (R424). An error met while it is handled is chained (R425). -/
def failRequest (s : State) (p idx status : Nat) : State :=
  let r := recOf s p idx
  let err : ErrRec := { code := 0x0F, level := 1, part := p, req := some (idx, r.rgen), status := status }
  if r.state = .free ∨ r.state = .ended then
    if (handlingOf s (.request p idx)).isSome then report s (some (.request p idx)) (some p) false err else s
  else
    let s1 := retire (report s (some (.request p idx)) (some p) false err) p idx none (0x40 + status)
    if headerOut s1 r then { s1 with counters := { s1.counters with handling := s1.counters.handling.map (fun h =>
      if h.ctx = .request p idx then { h with until_ := some (r.ringHost, r.ring + 0x10) } else h) } }
    else handled s1 (.request p idx)

/-- Sealing work of a request done; after a status other than OK and BUSY it ends with an error (R155, R176). -/
def sealOn (s : State) (p idx : Nat) : State :=
  let a := sealRequest s p idx
  if a.2 = St.ok ∨ a.2 = St.busy then a.1 else failRequest a.1 p idx a.2

end Sys2Proof.Machine
end

