-- ==== Sys2Proof/Machine/Party.lean ====
section
/-! DEFINITION. The State group: ALLOC, SEAL, FREE, RELEASE, CATCH, MIGRATE, QUERY, FENCEEP and RECLAIM at the party that
issues them (07_instruction_set.md R212 to R216, 04_trapeze_handover.md R101 to R111, R117), and the waits for their
answers. -/

namespace Sys2Proof.Machine

/-- The time that an instruction's messages have to be answered. -/
def answerLimit (s : State) (op : Nat) : Nat :=
  if op = 0x15 then migrateNs s + 2 * replyWaitNs s else replyWaitNs s

/-- Messages sent: the instruction awaits their answers until a deadline that is set now (R122). -/
def awaitAll (s : State) (w : IRef) (as : List Await) (aux : Nat := 0) : State :=
  modIssued s w (fun i => { i with started := true, sentAt := s.now, due := s.now + answerLimit s (opcodeOf i.words)
                                   awaits := as, aux := aux })

/-- The request that an instruction's messages belong to: the one that SEAL names by operand (R195, R318). -/
def msgRequest (s : State) (w : IRef) : Option Nat :=
  (issuedOf s w).bind (fun i => if opcodeOf i.words = 0x11 then some (reqIndex i.words) else none)

/-- A request message for a handle, with a fresh tag: the state and the await. -/
def sendFor (s : State) (w : IRef) (pos h : Nat) (tc len : Nat) (mk : Party → Nat → Out) : State × Await :=
  let (s1, tag) := takeTag s w.part
  (sendMsg s1 w.part tc (hHome h) 0 len (mk (selfParty s1 w.part) tag) (msgRequest s w), { tag := tag, pos := pos, handle := h })

/-- One message per handle, in list order (R215). -/
def sendEach (w : IRef) (tc len : Nat) (mk : Nat → Party → Nat → Out) : List (Nat × Nat) → State → List Await → State × List Await
  | [], s, as => (s, as)
  | (pos, h) :: hs, s, as =>
    let a := sendFor s w pos h tc len (mk h)
    sendEach w tc len mk hs a.1 (as ++ [a.2])

/-- Handles numbered by their place in the list. -/
def numbered (hs : List Nat) : List (Nat × Nat) := (List.range hs.length).zip hs

/-- 8-byte words of a byte string. -/
def wordList (bs : List Byte) : List Nat := (pieces 8 bs).map fromLe

/-- The handles that an instruction names: operand B, or a list of n at that address; none where it cannot be read. -/
def handlesOf (s : State) (ws : List Nat) (n : Nat) : Option (List Nat) :=
  if flagOf ws 24 then (devRead s (addrB ws) (8 * n)).map wordList else some [opB ws]

/-! ## Answers gathered (R213 to R216) -/

/-- The first status that is not OK, in order. -/
def firstBad : List Nat → Nat
  | [] => St.ok
  | x :: xs => if x = St.ok then firstBad xs else x

/-- Statuses of the awaits in list order. -/
def statusesOf (i : Issued) : List Nat := i.awaits.map (fun a => a.status.getD St.timeout)

/-- Awaits not OK. -/
def badCount (i : Issued) : Nat := ((statusesOf i).filter (· != St.ok)).length

/-- The entry bytes that FENCEEP writes: [39:32] of each home's entry (R216). -/
def fenceMarks (listAt : Nat) (i : Issued) : List Effect :=
  i.awaits.map (fun a => .devWrite (listAt + 8 * a.pos + 4) [BitVec.ofNat 8 (a.status.getD 0xFF)])

/-- What a State instruction gives once every message is answered: status, result and effects (R212 to R216). -/
def settled (i : Issued) : Nat × Nat × List Effect :=
  let ws := i.words
  let sts := statusesOf i
  let st := firstBad sts
  let bytes := toBytes sts
  let value := (i.awaits.map (·.value)).headD 0
  match opcodeOf ws with
  | 0x10 => (st, if st = St.ok then value else 0, if st = St.ok then i.effects else [])
  | 0x11 =>
    let idx := reqIndex ws
    let j := bits (opB ws) 31 0
    let layer := fun (pos : Nat) => if flagOf ws 24 then pos else bits (opB ws) 47 32
    let ok := i.awaits.filter (fun a => a.status == some St.ok)
    (st, if flagOf ws 24 then ok.length else 0,
      (ok.map (fun a => [Effect.sealed idx (layer a.pos) j i.aux, .sealMove idx (layer a.pos) j a.handle a.value])).flatten)
  | 0x12 =>
    if flagOf ws 24 then (st, badCount i, [.devWrite (extAddr ws 1) bytes])
    else (st, if st = St.ok then value else 0, [])
  | 0x13 => (st, badCount i, if flagOf ws 24 then [.devWrite (extAddr ws 2) bytes] else [])
  | 0x14 => (st, badCount i, if flagOf ws 24 then [.devWrite (extAddr ws 1) bytes] else [])
  | 0x15 => (st, if st = St.ok then value else 0, [])
  | 0x16 => (st, value, i.effects)
  | 0x17 =>
    let late := i.awaits.any (·.status.isNone)
    let st' := if late then St.timeout else st
    (st', if st' = St.ok then (i.awaits.filter (fun a => a.status == some St.ok)).length else 0, fenceMarks (extAddr ws 1) i)
  | _ => (st, 0, i.effects)

/-- Is a SEAL with ALL still asking the homes whether its layers can be sealed (R214). -/
def sealAsking (i : Issued) : Bool := opcodeOf i.words == 0x11 && !i.held.isEmpty

/-- The instruction finishes once it has no unanswered message, or at once when forced. -/
def settle (s : State) (w : IRef) (force : Bool := false) : State :=
  match issuedOf s w with
  | none => s
  | some i =>
    if i.status.isSome || !i.started || sealAsking i || (i.awaits.any (·.status.isNone) && !force) then s
    else
      let r := settled i
      finish s w r.1 r.2.1 r.2.2

/-! ## ALLOC (R72 to R75, R213) -/

/-- The home and partition where an allocation with some flags goes: this module, or for WARM outside the cache role the
home that R74 chooses; none where the placement list has none. -/
def allocHome (s : State) (p flags list : Nat) : Option ((Nat × Nat) × Nat) :=
  if bit flags 1 && roleOf s != roleCache then
    (chooseHome s p list []).map (fun e => ((e.domain, e.ep), e.part))
  else some (me s, p)

/-- ALLOC (0x10; R212, R213). -/
def execAlloc (w : IRef) (s : State) : Answer :=
  withInstr s w 0x10 fun i =>
    if i.started then s
    else
      let ws := i.words
      let flags := bits (opA ws) 5 0
      if bit flags 0 && bit flags 1 then failWith s w St.badFlags
      else
        match usableGeom s w.part (bits (opA ws) 9 6) with
        | none => failWith s w St.badGeometry
        | some (_, size) =>
          match allocHome s w.part flags 0 with
          | none => failWith s w St.noSpace
          | some (home, part) =>
            let owner := if flagOf ws 24 then partyOfWord (extLo ws 1) else selfParty s w.part
            let (s1, tag) := takeTag s w.part
            let m : AllocMsg := { src := selfParty s1 w.part, tag := tag, home := home, part := part, owner := owner
                                  flags := flags, sizeLog2 := size, count := bits (opA ws) 26 16 }
            awaitAll (sendMsg s1 w.part 2 home part 64 (.allocMsg m)) w
              [{ tag := tag, pos := 0, handle := mkHandle home 0 part }] size

/-! ## SEAL (R60, R61, R66, R214) -/

/-- May the owner seal a frame of this home now (R60, R94, R107). -/
def sealable (s : State) (p h : Nat) : Nat :=
  match claimStatus s h (selfParty s p) true with
  | some e => e.1
  | none =>
    let f := frameNow s (hFrame h)
    if f.state = .open_ then (if f.owner = selfParty s p then St.ok else St.notOwner) else St.busy

/-- The checks of R60 for a layer: NOT_FULL, SEAL_ORDER, then what its home finds, at once for a frame of this home; `asked`
is what another home has answered. -/
def sealCheck (s : State) (p : Nat) (r : Rec) (l j asked : Nat) : Nat :=
  if r.c < (j + 1) * tokensOf s p r then St.notFull
  else if layerSealedOf r l < j then St.sealOrder
  else
    let h := handleAt s p r l j
    if isNull h then St.staleHandle else if hHome h = me s then sealable s p h else asked

/-- The layers that a SEAL names. -/
def sealedLayers (r : Rec) (ws : List Nat) : List Nat :=
  if flagOf ws 24 then List.range r.layers else [bits (opB ws) 47 32]

/-- What the home of a layer's block has answered to the query of a SEAL with ALL. -/
def askedStatus (i : Issued) (l : Nat) : Nat :=
  match i.awaits.find? (fun a => a.pos == l) with
  | some a => a.status.getD St.timeout
  | none => St.ok

/-- The QUERYs by which a SEAL with ALL checks its layers at other homes, before it seals any (R214). -/
def sealQueries (s : State) (w : IRef) (r : Rec) (j : Nat) (ls : List Nat) : State :=
  let hs := (ls.map (fun l => (l, handleAt s w.part r l j))).filter (fun e => !isNull e.2 && hHome e.2 != me s)
  let a := sendEach w 2 64 (fun h src tag => .trapeze (hHome h) { ttype := 0x07, src := src, tag := tag, handle := h }) hs s []
  modIssued (awaitAll a.1 w a.2) w (fun i => { i with held := [1] })

/-- The SEALs of the layers sent to their homes. -/
def sealSend (s : State) (w : IRef) (r : Rec) (j : Nat) (ls : List Nat) : State :=
  match chainHash s w.part r j with
  | none => readFault s w (r.tokens + 4 * j * tokensOf s w.part r) (4 * tokensOf s w.part r)
  | some hash =>
    let a := sendEach w 2 64 (fun h src tag => .sealMsg (hHome h)
      { src := src, tag := tag, handle := h, hashLo := hash % 2 ^ 64, hashHi := hash / 2 ^ 64 })
      (numbered (ls.map (fun l => handleAt s w.part r l j))) s []
    modIssued (awaitAll a.1 w a.2 hash) w (fun i => { i with held := [] })

/-- SEAL (0x11; R60, R212, R214). -/
def execSeal (w : IRef) (s : State) : Answer :=
  withInstr s w 0x11 fun i =>
    let r := recOf s w.part (reqIndex i.words)
    let j := bits (opB i.words) 31 0
    let ls := sealedLayers r i.words
    let st := firstBad (ls.map (fun l => sealCheck s w.part r l j (askedStatus i l)))
    if i.started then
      if !sealAsking i ∨ i.awaits.any (·.status.isNone) then s
      else if st ≠ St.ok then failWith s w st
      else sealSend s w r j ls
    else if r.rgen ≠ reqGen i.words then failWith s w St.staleRequest
    else if r.stride ≤ j ∨ ls.isEmpty ∨ ls.any (fun l => decide (r.layers ≤ l)) then failWith s w St.badOperand
    else if flagOf i.words 24 && decide (st ≠ St.notFull) && ls.any (fun l =>
        let h := handleAt s w.part r l j
        !isNull h && hHome h != me s) then sealQueries s w r j ls
    else if st ≠ St.ok then failWith s w st
    else sealSend s w r j ls

/-! ## FREE, RELEASE, CATCH (R101, R103, R215) -/

/-- FREE (0x12; R63, R212, R215). -/
def execFree (w : IRef) (s : State) : Answer :=
  withInstr s w 0x12 fun i =>
    if i.started then s
    else
      match handlesOf s i.words (bits (opA i.words) 11 0) with
      | none => readFault s w (addrB i.words) (8 * bits (opA i.words) 11 0)
      | some hs =>
        let a := sendEach w 2 64 (fun h src tag => .freeMsg (hHome h) { src := src, tag := tag, handle := h }) (numbered hs) s []
        awaitAll a.1 w a.2

/-- Bytes of the frame that a handle names: at another home as many as a frame may have (R49, R53). -/
def frameSpan (s : State) (h : Nat) : Nat × Nat :=
  (hFrame h * 0x4000, if hHome h = me s then 0x4000 * frameGranules (frameAt s (hFrame h)) else 0x100000)

/-- Do two spans of bytes meet. -/
def spansMeet (a b : Nat × Nat) : Bool := decide (a.1 < b.1 + b.2 ∧ b.1 < a.1 + a.2)

/-- Device memory that a drain-class instruction writes beside blocks and records: the handles of ALLOC, the status lists of FREE,
RELEASE, CATCH and FENCEEP, the step table, statistics, and the records and descriptors written back (R212, R215 to R220). -/
def writeRegions (ws : List Nat) : List (Nat × Nat) :=
  let n := bits (opA ws) 27 16
  match opcodeOf ws with
  | 0x10 => [(addrB ws, 8 * bits (opA ws) 26 16)]
  | 0x12 => if flagOf ws 24 then [(extAddr ws 1, bits (opA ws) 11 0)] else []
  | 0x13 => if flagOf ws 24 then [(extAddr ws 2, n)] else []
  | 0x14 => if flagOf ws 24 then [(extAddr ws 1, n)] else []
  | 0x17 => [(extAddr ws 1, 8 * bits (opA ws) 11 0)]
  | 0x34 => [(addrB ws, 16 * (1 + bits (opA ws) 20 8))]
  | 0x41 => [(addrB ws, 16)]
  | 0x51 => [(addrB ws, 48 * bits (opA ws) 15 0)]
  | 0x52 => [(addrB ws, 48 * bits (opA ws) 15 0)]
  | 0x53 => [(addrB ws, 96)]
  | 0x80 => [(addrB ws, 192)]
  | _ => []

/-- Does an instruction write to the frame that a handle names: an APPEND to its block, a STORE, ATOMIC, EXPAND or PUT to its
home, and any instruction that writes device memory or has destination memory there (R101, R203, R209). -/
def writesFrame (s : State) (p : Nat) (i : Issued) (h : Nat) : Bool :=
  let ws := i.words
  let op := opcodeOf ws
  let n := bits (opA ws) 31 16
  let r := recOf s p (reqIndex ws)
  s.mem.undef.any (fun u => i.undefs.contains u.serial && hHome h == me s && spansMeet (u.start, u.len) (frameSpan s h))
    || (op == 0x30 && (List.range (bits (wordAt ws 0) 27 24)).any (fun t =>
          handleAt s p r (bits (opB ws) 63 48) ((r.c + t) / max 1 (tokensOf s p r)) == h))
    || ((op == 0x61 || op == 0x62) && ((me s).1, bits (opA ws) 9 0) == hHome h
          && spansMeet (addrB ws, if op = 0x61 then 64 * n else 8) (frameSpan s h))
    || (op == 0x42 && ((me s).1, bits (extLo ws 1) 57 48) == hHome h
          && spansMeet (extAddr ws 1, bits (extHi ws 1) 31 0) (frameSpan s h))
    || (op == 0x70 && (let c := connOf s (connNumber ws); (c.peer.domain, c.peer.ep) == hHome h))
    || (hHome h == me s && (writeRegions ws).any (fun r => spansMeet r (frameSpan s h)))

/-- Is an earlier write of the same queue to one of the named frames not yet complete (R101, R203). -/
def earlierWrites (s : State) (w : IRef) (hs : List Nat) : Bool :=
  ((queueOf (partOf s w.part) w.queue).issued.takeWhile (fun i => i.idx != w.idx)).any (fun i => hs.any (writesFrame s w.part i))

/-- The requests between prefill and decode that some handles belong to. -/
def handOvers (s : State) (p : Nat) (hs : List Nat) : List Nat :=
  ((hs.filterMap (fun h => (namedBy s p h).map (fun e => e.1))).eraseDups).filter (fun x => (recOf s p x).state == .prefill)

/-- At the hand-over from prefill to decode every full block of the requests is sealed before the tail is released (R113): the
status of the last seal, BUSY while one does not succeed yet. One that fails for good ends its request (log entry 144). -/
def sealBefore (p : Nat) : List Nat → State → State × Nat
  | [], s => (s, St.ok)
  | x :: xs, s =>
    let a := sealRequest s p x
    let b := sealBefore p xs (if a.2 = St.ok ∨ a.2 = St.busy then a.1 else failRequest a.1 p x a.2)
    (b.1, worse a.2 b.2)

/-- RELEASE (0x13; R101, R102, R113, R212, R215). -/
def execRelease (w : IRef) (s : State) : Answer :=
  withInstr s w 0x13 fun i =>
    let ws := i.words
    match handlesOf s ws (bits (opA ws) 27 16) with
    | none => if i.started then s else readFault s w (addrB ws) (8 * bits (opA ws) 27 16)
    | some hs =>
      if i.started || earlierWrites s w hs then s
      else
        let b := sealBefore w.part (handOvers s w.part hs) s
        if b.2 = St.busy then b.1
        else if b.2 ≠ St.ok then failWith b.1 w b.2
        else
          let a := sendEach w 2 64 (fun h src tag => .trapeze (hHome h)
            { ttype := 0x01, src := src, tag := tag, handle := h, peer := partyOfWord (extLo ws 1), hold := bits (opA ws) 15 0 })
            (numbered hs) b.1 []
          awaitAll a.1 w a.2

/-- CATCH (0x14; R103, R212, R215). -/
def execCatch (w : IRef) (s : State) : Answer :=
  withInstr s w 0x14 fun i =>
    if i.started then s
    else
      let ws := i.words
      match handlesOf s ws (bits (opA ws) 27 16) with
      | none => readFault s w (addrB ws) (8 * bits (opA ws) 27 16)
      | some hs =>
        let a := sendEach w 2 64 (fun h src tag => .trapeze (hHome h) { ttype := 0x03, src := src, tag := tag, handle := h })
          (numbered hs) s []
        awaitAll a.1 w a.2

/-! ## MIGRATE, QUERY, RECLAIM (R74, R108, R111) -/

/-- A home that R74 chose for a MIGRATE and the granules it takes there, as the number that the instruction keeps (R75). -/
def chosenAs (home : Nat × Nat × Nat) (n : Nat) : Nat :=
  1 + home.1 % 2 ^ 12 + home.2.1 % 2 ^ 10 * 2 ^ 12 + home.2.2 % 16 * 2 ^ 22 + n * 2 ^ 26

/-- The home and the granules that such a number stands for. -/
def chosenOf (x : Nat) : (Nat × Nat × Nat) × Nat :=
  let y := x - 1
  ((bits y 11 0, bits y 21 12, bits y 25 22), y / 2 ^ 26)

/-- MIGRATE (0x15; R111, R212). -/
def execMigrate (w : IRef) (s : State) : Answer :=
  withInstr s w 0x15 fun i =>
    if i.started then s
    else
      let ws := i.words
      let h := opB ws
      let flags := bits (opA ws) 5 0
      let dest := if flagOf ws 24 then some { partyOfWord (extLo ws 1) with epoch := 0 }
        else (allocHome s w.part flags 0).map (fun e => ⟨e.1.1, e.1.2, e.2, 0⟩)
      if bit flags 0 && bit flags 1 then failWith s w St.badFlags
      else
        match dest with
        | none => failWith s w St.noSpace
        | some d =>
          let (s1, tag) := sendMigrate s w.part h d flags (rowsOf s w.part h)
          let home := (d.domain, d.ep, d.part)
          let n := if hHome h = me s then frameGranules (frameAt s (hFrame h)) else AMap.getD (partOf s w.part).sized h 0
          if flagOf ws 24 ∨ (d.domain, d.ep) = me s then awaitAll s1 w [{ tag := tag, pos := 0, handle := h }]
          else awaitAll (useHome s1 w.part home (n : Int)) w [{ tag := tag, pos := 0, handle := h }] (chosenAs home n)

/-- QUERY (0x16; R108, R212). -/
def execQuery (w : IRef) (s : State) : Answer :=
  withInstr s w 0x16 fun i =>
    if i.started then s
    else
      let a := sendFor s w 0 (opB i.words) 2 64 (fun src tag => .trapeze (hHome (opB i.words))
        { ttype := 0x07, src := src, tag := tag, handle := opB i.words })
      awaitAll a.1 w [a.2]

/-- The status that RECLAIM gives at this home (R94, R107). -/
def reclaimStatus (s : State) (p h : Nat) : Nat :=
  if hHome h ≠ me s then St.notHome
  else
    match claimStatus s h (selfParty s p) false with
    | some e => e.1
    | none =>
      let f := frameAt s (hFrame h)
      if f.state = .lost ∨ (f.state = .sealed ∧ f.refs = 65535) then St.ok else St.notOpen

/-- A RECLAIM at its commit: the frame is freed, where it still may be, and a migration of the block that has not committed ends
with MIGRATE_ABORT (R63, R79, R107, R205). -/
def reclaimReq (s : State) (p h : Nat) : State :=
  if reclaimStatus s p h = St.ok then freeFrame (endCopy s (hFrame h)) (hFrame h) 0x0E else s

/-- RECLAIM (0x18; R63, R107, R212). -/
def execReclaim (w : IRef) (s : State) : Answer :=
  withInstr s w 0x18 fun i =>
    let s := if hHome (opB i.words) = me s then lapse s (opB i.words) else s
    let st := reclaimStatus s w.part (opB i.words)
    if st = St.ok then finish s w St.ok 0 [.reclaimed (opB i.words)] else failWith (noteFenced s w.part st) w st

/-! ## FENCEEP (R117, R216) -/

/-- May a queue submit FENCEEP: a host queue of a partition whose host is the steward's (R117, R437). -/
def isSteward (s : State) (p q : Nat) : Bool :=
  bit (sliceOf s p).hostQ q && (sliceOf s p).vf && (sliceOf s p).hostFn == (compOf s).stewardFn

/-- Module of a home-list entry (R216). -/
def homeOfEntry (x : Nat) : Nat × Nat := (bits x 11 0, bits x 21 12)

/-- The FENCE sent to every home of a list; each await names the home. -/
def sendFences (p : Nat) (f : FenceMsg) : List (Nat × Nat) → State → List Await → State × List Await
  | [], s, as => (s, as)
  | (pos, x) :: xs, s, as =>
    let dest := homeOfEntry x
    sendFences p f xs (sendMsg s p 0 dest 0 160 (.fenceTo dest f))
      (as ++ [{ tag := 2 ^ 32, pos := pos, handle := dest.1 * 1024 + dest.2 }])

/-- FENCEEP (0x17; R117, R212, R216). -/
def execFenceep (w : IRef) (s : State) : Answer :=
  withInstr s w 0x17 fun i =>
    if i.started then s
    else if !isSteward s w.part w.queue then failWith s w St.notSteward
    else
      let ws := i.words
      let n := bits (opA ws) 11 0
      match devRead s (addrB ws) 160, devRead s (extAddr ws 1) (8 * n) with
      | some fb, some lb =>
        let f := fenceOf fb (selfParty s w.part)
        let a := sendFences w.part f (numbered (wordList lb)) s []
        awaitAll a.1 w a.2 ((f.domain * 1024 + f.ep) * 16 + f.part)
      | none, _ => readFault s w (addrB ws) 160
      | _, none => readFault s w (extAddr ws 1) (8 * n)

/-- FENCE_ACK: a home's answer to a FENCE of this steward's module (R117, R216). -/
def execFenceAck (m : TMsg) (s : State) : Answer :=
  let o := Out.trapeze (me s) m
  if !ready s || !nocFirst s o then .next s
  else if m.level ≠ 1 then .next (strayMsg (takeNoc s o))
  else
    let s := takeNoc s o
    let p := m.toPart
    let home := m.src.domain * 1024 + m.src.ep
    let fenced := (m.peer.domain * 1024 + m.peer.ep) * 16 + m.peer.part
    let hits := ((partOf s p).queues.map (fun e => (e.2.issued.filter (fun i =>
      i.status.isNone && opcodeOf i.words == 0x17 && i.started && i.aux == fenced
        && i.awaits.any (fun a => a.handle == home && a.status.isNone))).map (fun i => (⟨p, e.1, i.idx⟩ : IRef)))).flatten
    match hits.head? with
    | none => .next s
    | some w =>
      let s1 := modIssued s w (fun i => { i with awaits := i.awaits.map (fun a =>
                                            if a.handle = home ∧ a.status.isNone then { a with status := some m.status } else a) })
      .next (settle s1 w)

/-- FENCEEP_LIMIT: 10 ms after the sending, homes that have not answered are marked 0xFF (R117, R216). -/
def execFenceepLimit (w : IRef) (s : State) : Answer :=
  withInstr s w 0x17 fun i =>
    if i.started && decide (i.sentAt + 10000000 ≤ s.now) then settle s w true else s

/-! ## Waits for answers (R103, R109 to R111, R212) -/

/-- Does an await end now: its time has passed, or the transport has reported its home dead. ALLOC, SEAL, FREE and
RELEASE wait without limit on this module's own home. -/
def awaitEnds (s : State) (p : Nat) (i : Issued) (dead : Bool) (a : Await) : Bool :=
  let op := opcodeOf i.words
  let local_ := hHome a.handle == me s
  let timed := decide (i.due ≤ s.now) && !(local_ && decide (0x10 ≤ op ∧ op ≤ 0x13))
  a.status.isNone && (timed || (dead && op != 0x14 && reportedDead s p a.tag))

/-- When the ringmaster asks for the outcome of a message that timed out (R109, R111). -/
def outcomeDeadline (s : State) (i : Issued) : Option Nat :=
  match opcodeOf i.words with
  | 0x13 => some (i.due + holdNs s (bits (opA i.words) 15 0) + replyWaitNs s)
  | 0x14 => some s.now
  | 0x15 => some s.now
  | _ => none

/-- REPLY_WAIT_EXPIRY: answers that have not come in time, or whose home the transport reports dead, are TIMEOUT (R103,
R110, R111, R212). -/
def execReplyWaitExpiry (w : IRef) (dead : Bool) (s : State) : Answer :=
  if ready s then
    match issuedOf s w with
    | none => .next s
    | some i =>
      let op := opcodeOf i.words
      if i.status.isSome ∨ !((i.started && decide (0x10 ≤ op ∧ op ≤ 0x16)) || decide (0x80 ≤ op ∧ op ≤ 0x82)) then .next s
      else
        let gone := i.awaits.filter (awaitEnds s w.part i dead)
        let s1 := gone.foldl (fun s a =>
          let s' := clearReport (answerAwait s w a.tag St.timeout 0) w.part a.tag
          match outcomeDeadline s i with
          | some t => expectOutcome s' w.part a.tag a.handle t (op == 0x15)
          | none => s') s
        .next (settle s1 w)
  else .next s

end Sys2Proof.Machine
end

