-- ==== Sys2Proof/Machine/Serving.lean ====
section
/-! DEFINITION. The Serving group: APPEND, COMMIT, ROLLBACK, EMIT, RETIRE, OPENREQ and STEP with its four phases
(06_speculation_and_streams.md R158 to R186, 15_resilience.md R418, R419). -/

namespace Sys2Proof.Machine

/-! ## Effects on a request at a commit (R169 to R177) -/

/-- Rejected positions counted (R174). -/
def addWaste (s : State) (p n : Nat) : State :=
  if n = 0 then s
  else countEv (modPart s p (fun P => { P with waste := (P.waste + n) % 2 ^ 48 })) Isl.cc 0x062 none (some p) n

/-- MAX_DEPTH in force (R185). -/
def maxDepth (c : StepCfg) : Nat := min 8 c.maxDepth

/-- The draft depth after a COMMIT of n entries of a step with k drafts (R177). -/
def adaptDepth (c : StepCfg) (r : Rec) (k n : Nat) : Rec :=
  if !c.adapt then r
  else
    let run := if 1 ≤ k ∧ n = 1 then r.rejectRun + 1 else 0
    let steps := r.stepsAt + 1
    let acc := r.accepted + (n - 1)
    let prop := r.proposed + k
    let change := fun (d : Nat) => { r with depth := d, rejectRun := 0, stepsAt := 0, accepted := 0, proposed := 0 }
    if max 1 c.rejectRun ≤ run then change (r.depth / 2)
    else if r.depth = 0 then
      if c.probe ≠ 0 ∧ c.probe ≤ steps then change (min 1 (maxDepth c)) else { r with stepsAt := steps }
    else if max 1 c.acceptRun ≤ steps then
      let d := min (2 * r.depth) (maxDepth c)
      if min 100 c.acceptPct * prop < acc * 100 ∧ d ≠ r.depth then change d
      else { r with rejectRun := run, stepsAt := 0, accepted := 0, proposed := 0 }
    else { r with rejectRun := run, stepsAt := steps, accepted := acc, proposed := prop }

/-- Does an entry end its request: STOP or TRUNC (R171). -/
def entryEnds (e : Nat) : Bool := bit e 49 || bit e 51

/-- FINAL of an ending by an entry (R182). -/
def entryFinal (e : Nat) : Nat := if bit e 49 then 0x01 else 0x02

/-- An entry as it is written: ERROR clear, END on the ending one (R168, R171, R182). -/
def entryWord (e : Nat) : Nat := putBit e 50 false

/-- Token history written from a position on (R171, R172). -/
def putHistory (s : State) (r : Rec) (pos : Nat) (es : List Nat) : State :=
  devPut s (r.tokens + 4 * pos) ((es.map (fun e => toLe 4 (bits e 31 0))).flatten)

/-- Ring entries written from PROD on (R179, R180). -/
def putEntries (p idx : Nat) (r : Rec) : List Nat → Nat → State → State
  | [], _, s => s
  | e :: es, i, s => putEntries p idx r es (i + 1) (putCarousel s p (some idx) r i (entryWord e) (entryEnds e))

/-- The ring after an emission: PROD, then ENDTIME at the end of the request, then the state word (R180). With the first token
of a request that is still in PREFILL, as in every emission that does not end its request, STATE is ACTIVE (log entry 131). -/
def putHeader (s : State) (p idx : Nat) (r : Rec) (ended : Option Nat) : State :=
  let s1 := putProd s p (some idx) r
  match ended with
  | some final => putRingState (ringPut s1 p (some idx) r 0x18 (toLe 8 s.now)) p (some idx) r ringEnded final
  | none => putRingState s1 p (some idx) r ringActive 0

/-- An emission of entries by a request: ring, header, charge, and the request's end with STOP or TRUNC (R180, R182,
R183). `r1` is the record as it becomes but for PROD, EMITTED and STATE. -/
def emission (s : State) (p idx : Nat) (r1 : Rec) (es : List Nat) : State :=
  let last := es.getLastD 0
  let r2 := { r1 with prod := (r1.prod + es.length) % 2 ^ 32, emitted := (r1.emitted + es.length) % 2 ^ 32
                      state := if entryEnds last then RState.ended else r1.state }
  let s1 := putEntries p idx r1 es r1.prod s
  let s2 := putHeader (setRec s1 p idx r2) p idx r2 (if entryEnds last then some (entryFinal last) else none)
  charge s2 p r1.customer (256 * es.length)

/-- COMMIT at its commit: C and W, history, ring, waste, frames beyond W freed, DEPTH, charge, and the seals of full
blocks (R169, R171, R174 to R177, R183). -/
def commitReq (s : State) (p idx : Nat) (es : List Nat) : State :=
  let r := recOf s p idx
  let n := es.length
  let r1 := { adaptDepth (partOf s p).stepCfg r r.stepK n with c := r.c + n, w := r.c + n }
  let s1 := emission (putHistory s r (r.c + 1) es) p idx r1 es
  sealOn (freeFrom (addWaste s1 p (r.w - (r.c + n))) p idx (r.c + n)) p idx

/-- ROLLBACK at its commit (R169, R174, R175). -/
def rollbackReq (s : State) (p idx : Nat) : State :=
  let r := recOf s p idx
  freeFrom (addWaste (setRec s p idx { r with w := r.c }) p (r.w - r.c)) p idx r.c

/-- EMIT at its commit (R169, R172). -/
def emitReq (s : State) (p idx : Nat) (e : Nat) : State :=
  let r := recOf s p idx
  emission (putHistory s r r.c [e]) p idx r [e]

/-- RETIRE at its commit (R169, R182, R305); in the prompt role the request is retired at once. One that is ENDED already keeps
its end, and in the prompt role its frames and its record are freed all the same (log entry 130). -/
def retireReq (s : State) (p idx final : Nat) : State :=
  let r := recOf s p idx
  if r.state = .free then freeRecord s p idx
  else
    let s1 := if r.state = .ended then s else retire s p idx (some idx) final
    if roleOf s = rolePrompt then dropRequest s1 p idx else s1

/-! ## The instructions (R168 to R171) -/

/-- What every serving instruction checks first: the record's order (R173), its generation, its state. -/
def withRequest (s : State) (w : IRef) (i : Issued) (allowed : RState → Bool) (f : Rec → State) : State :=
  let r := recOf s w.part (reqIndex i.words)
  if heldByOther s w i then s
  else if r.rgen ≠ reqGen i.words then failWith s w St.staleRequest
  else if !allowed r.state then failWith s w St.notRunning
  else f r

/-- Positions whose frames an APPEND writes, with their handles. -/
def appendHandles (s : State) (p : Nat) (r : Rec) (l n : Nat) : List Nat :=
  let t := tokensOf s p r
  ((List.range n).map (fun i => (r.c + i) / t)).eraseDups.map (fun j => if j < r.stride then handleAt s p r l j else 0)

/-- The writes of an APPEND: row t of every head, K plane and V plane (R52, R169). -/
def appendWrites (s : State) (p : Nat) (r : Rec) (l n : Nat) (sh : Nat × Nat × Nat × Nat) (rows : List Byte) : List Effect :=
  let T := sh.1
  let hkv := sh.2.1
  let rb := sh.2.2.1 * sh.2.2.2
  ((List.range n).map (fun t =>
    let pos := r.c + t
    let base := hFrame (handleAt s p r l (pos / T)) * 0x4000
    ((List.range 2).map (fun pl =>
      (List.range hkv).map (fun h =>
        Effect.devWrite (base + pl * (blockBytes sh / 2) + (h * T + pos % T) * rb)
          ((rows.drop (pl * n * hkv * rb + (h * n + t) * rb)).take rb)))).flatten)).flatten

/-- A write to a sealed block is logged as a violation (R62). -/
def noteReadOnly (s : State) (w : IRef) (st addr : Nat) : State :=
  if st = St.readOnly then violation s (some w.part) 1 (me s) addr (ctxOf w) (some w.queue) st else s

/-- APPEND (0x30; R169, R218). -/
def execAppend (w : IRef) (s : State) : Answer :=
  withInstr s w 0x30 fun i =>
    withRequest s w i (· == .running) fun r =>
      let n := bits (wordAt i.words 0) 27 24
      let l := bits (opB i.words) 63 48
      if r.layers ≤ l then failWith s w St.badOperand
      else if n = 0 ∨ r.depth + 1 < n ∨ (r.c < r.w ∧ n ≠ r.w - r.c) then failWith s w St.length
      else
        match usableGeom s w.part r.geom with
        | none => failWith s w St.badGeometry
        | some (sh, _) =>
          let hs := appendHandles s w.part r l n
          if hs.any isNull then failWith s w St.noReservation
          else if hs.any (fun h => hHome h != me s) then failWith s w St.notHome
          else
            let st := firstBad (hs.map (fun h => (accessByHandle s h (selfParty s w.part) true).1))
            if st ≠ St.ok then failWith (noteReadOnly (noteFenced s w.part st) w st (hFrame (hs.headD 0) * 0x4000)) w st
            else
              match devRead s (addrB i.words) (stagingBytes s w.part i.words) with
              | none => readFault s w (addrB i.words) (stagingBytes s w.part i.words)
              | some rows =>
                let w' := if r.w = r.c then r.c + n else r.w
                finish s w St.ok (w' * 2 ^ 32)
                  (appendWrites s w.part r l n sh rows ++ [.setW (reqIndex i.words) w'])

/-- The entries that COMMIT takes from a verdict of N entries: up to the first with STOP or TRUNC (R171). -/
def takeEntries : List Nat → List Nat
  | [] => []
  | e :: es => if entryEnds e then [e] else e :: takeEntries es

/-- COMMIT (0x31; R169, R171, R218). -/
def execCommit (w : IRef) (s : State) : Answer :=
  withInstr s w 0x31 fun i =>
    withRequest s w i (· == .running) fun r =>
      let idx := reqIndex i.words
      match devRead s (addrB i.words) 88 with
      | none => readFault s w (addrB i.words) 88
      | some v =>
        let N := bits (leAt v 0 8) 3 0
        if N = 0 ∨ 9 < N then failWith s w St.badOperand
        else
          let es := takeEntries ((wordList (v.drop 0x10)).take N)
          let n := es.length
          if r.w = r.c ∨ r.w - r.c < n then failWith s w St.length
          else if !mayAccess s w.part (r.tokens + 4 * (r.c + 1)) (4 * n) then addressFault s w (r.tokens + 4 * (r.c + 1))
          else
            let s1 := refreshCons s w.part idx n
            if ringFree (recOf s1 w.part idx) < n then failWith s1 w St.ringFull
            else
              let r1 := adaptDepth (partOf s w.part).stepCfg r r.stepK n
              finish s1 w St.ok (n + r1.depth * 2 ^ 4 + flag (entryEnds (es.getLastD 0)) * 2 ^ 8 + (r.c + n) % 2 ^ 32 * 2 ^ 32)
                [.commitReq idx es]

/-- ROLLBACK (0x32; R169, R218). -/
def execRollback (w : IRef) (s : State) : Answer :=
  withInstr s w 0x32 fun i =>
    withRequest s w i (· == .running) fun r =>
      finish s w St.ok (r.w - r.c + r.c % 2 ^ 32 * 2 ^ 32) [.rollbackReq (reqIndex i.words)]

/-- The status that the checks of EMIT on a verdict give (R169, R172, R181), and the state, in which CONS has been read again. -/
def emitStatus (s : State) (p idx : Nat) (v : List Byte) : State × Nat :=
  let r := recOf s p idx
  let s1 := refreshCons s p idx 1
  if bits (leAt v 0 8) 3 0 ≠ 1 then (s, St.badOperand)
  else if r.w ≠ r.c then (s, St.length)
  else if !mayAccess s p (r.tokens + 4 * r.c) 4 then (s, St.address)
  else if ringFree (recOf s1 p idx) < 1 then (s1, St.ringFull)
  else (s1, St.ok)

/-- EMIT (0x33; R169, R172, R218). -/
def execEmit (w : IRef) (s : State) : Answer :=
  withInstr s w 0x33 fun i =>
    withRequest s w i (fun st => st == .running || st == .prefill) fun r =>
      let idx := reqIndex i.words
      match devRead s (addrB i.words) 24 with
      | none => readFault s w (addrB i.words) 24
      | some v =>
        let a := emitStatus s w.part idx v
        if a.2 = St.address then addressFault s w (r.tokens + 4 * r.c)
        else if a.2 ≠ St.ok then failWith a.1 w a.2
        else finish a.1 w St.ok (r.c % 2 ^ 32 * 2 ^ 32) [.emitReq idx (leAt v 0x10 8)]

/-- RETIRE (0x35; R169, R182, R218). -/
def execRetire (w : IRef) (s : State) : Answer :=
  withInstr s w 0x35 fun i =>
    withRequest s w i (fun _ => true) fun _ =>
      finish s w St.ok 0 [.retireReq (reqIndex i.words) (bits (opB i.words) 7 0)]

/-- The record that a template fills (R65, R170). -/
def fillRecord (old : Rec) (t : List Byte) (install : Bool) : Rec :=
  let f := fun (off hi lo : Nat) => bits (leAt t off 8) hi lo
  { rgen := old.rgen, customer := f 0x00 47 32, cls := f 0x00 50 48, geom := f 0x00 59 56
    state := if install then .prefill else .free, c := f 0x08 31 0, w := f 0x08 63 32, depth := f 0x10 3 0
    mbatch := f 0x10 15 8, layers := f 0x10 31 16, stride := f 0x10 63 32, btable := f 0x18 63 0, tokens := f 0x20 63 0
    ring := f 0x28 63 0, ringLog2 := f 0x30 4 0, ringHost := f 0x30 6 5, sealed := f 0x30 63 32, model := f 0x38 63 0
    admitted := if install then f 0x40 63 0 else 0, prompt := f 0x48 31 0, pool := f 0x48 39 32
    lastHash := leAt t 0x50 16, filled := true, caught := install }

/-- Fields of a filled record in their ranges (R170). -/
def templateOk (r : Rec) : Bool :=
  decide (4 ≤ r.ringLog2 ∧ r.ringLog2 ≤ 16 ∧ r.depth ≤ 8 ∧ r.layers ≠ 0 ∧ r.stride ≠ 0)
    && r.btable % 8 == 0 && r.tokens % 4 == 0 && r.ring % 64 == 0

/-- The status that the checks of OPENREQ on a filled record give: its fields, its geometry, and the relations of C, W and SEALED
(R51, R67, R170). -/
def templateStatus (s : State) (p : Nat) (r : Rec) : Nat :=
  if !templateOk r then St.badOperand
  else
    match usableGeom s p r.geom with
    | none => St.badGeometry
    | some (sh, _) => if r.w < r.c ∨ r.c + 9 < r.w ∨ r.c < r.sealed * sh.1 then St.length else St.ok

/-- OPENREQ (0x36; R170, R218). -/
def execOpenreq (w : IRef) (s : State) : Answer :=
  withInstr s w 0x36 fun i =>
    let idx := reqIndex i.words
    let old := recOf s w.part idx
    if heldByOther s w i then s
    else if old.rgen ≠ reqGen i.words then failWith s w St.staleRequest
    else if old.state ≠ .free then failWith s w St.badOperand
    else
      match devRead s (addrB i.words) 128 with
      | none => readFault s w (addrB i.words) 128
      | some t =>
        let r := fillRecord old t (flagOf i.words 24)
        let st := templateStatus s w.part r
        if st = St.ok then finish s w St.ok (idx + r.rgen * 2 ^ 20) [.openReq idx r] else failWith s w st

/-! ## STEP: stragglers and moves (R418, R419) -/

/-- Insertion of a number into a rising list. -/
def insertNat (x : Nat) : List Nat → List Nat
  | [] => [x]
  | y :: ys => if x ≤ y then x :: y :: ys else y :: insertNat x ys

/-- Numbers in rising order. -/
def sortNats : List Nat → List Nat
  | [] => []
  | x :: xs => insertNat x (sortNats xs)

/-- The largest response time of each target measured in the step, in ns. -/
def stepTimes (ts : List ((Nat × Nat) × Nat)) : List ((Nat × Nat) × Nat) :=
  ((ts.map (·.1)).eraseDups).map (fun m => (m, ((ts.filter (fun t => t.1 == m)).map (·.2)).foldl max 0))

/-- Targets flagged at a step of a micro-batch, with their response times in ns (R418). -/
def flaggedTargets (P : Part) (mb : Nat) : List ((Nat × Nat) × Nat) :=
  let ts := stepTimes ((P.respTimes.filter (fun t => t.1 == mb)).map (·.2))
  if ts.length < 3 then []
  else
    let median := (sortNats (ts.map Prod.snd)).getD ((ts.length - 1) / 2) 0
    ts.filter (fun t => decide (max 100 P.ecNow.stragPct * median < t.2 * 100 ∧ 1000 * P.ecNow.stragMin < t.2))

/-- The table with a straggler entered: into a free place, else in place of the one flagged least recently (R418). -/
def enterStraggler (l : List Straggler) (x : Straggler) : List Straggler :=
  if l.length < 16 then l ++ [x]
  else
    let worst := (l.map (·.quiet)).foldl max 0
    let k := l.findIdx (fun g => g.quiet == worst)
    l.set k x

/-- The straggler table at a step of a micro-batch: flagged targets renewed or entered, the others one step quieter (R418,
R427). -/
def updateStragglers (s : State) (p mb : Nat) : State :=
  modPart s p (fun P =>
    let fl := flaggedTargets P mb
    let kept := (P.stragglers.map (fun g =>
      match fl.find? (fun f => f.1 == (g.domain, g.ep)) with
      | some f => { g with lastUs := min 0xFFFF (f.2 / 1000), quiet := 0 }
      | none => { g with quiet := min 255 (g.quiet + 1) })).filter (fun g => decide (g.quiet < max 1 P.ecNow.stragClear))
    let fresh := fl.filter (fun f => !P.stragglers.any (fun g => (g.domain, g.ep) == f.1))
    { P with stragglers := fresh.foldl (fun l f => enterStraggler l ⟨f.1.1, f.1.2, min 0xFFFF (f.2 / 1000), 0⟩) kept
             respTimes := P.respTimes.filter (fun t => t.1 != mb) })

/-- A step takes EC_CFG as it stands (R427). -/
def ecBoundary (s : State) (p : Nat) : State := modPart s p (fun P => { P with ecNow := P.ec })

/-- Handles in ascending block index. -/
def sortBlocks (l : List (Nat × Nat)) : List (Nat × Nat) :=
  ((sortNats (l.map Prod.fst)).eraseDups.map (fun j => l.filter (fun e => e.1 == j))).flatten

/-- Shared sealed blocks of prefix groups at a straggler are copied to other homes, at most MOVE_LIMIT per step (R419). -/
def moveFromStragglers (s : State) (p : Nat) : State :=
  let P := partOf s p
  let due := (sortBlocks P.groups).filter (fun e =>
    isStraggler s p (hHome e.2).1 (hHome e.2).2 && !P.moving.any (fun m => m.handle == e.2))
  let s1 := (due.eraseDups.take P.ecNow.moveLimit).foldl (fun s e =>
    match chooseHome s p 0 [hHome e.2] with
    | none => s
    | some d =>
      let home := (d.domain, d.ep, d.part)
      let size := AMap.find? (partOf s p).sized e.2
      startMove (useHome s p home ((size.getD 0 : Nat) : Int)) p (2 ^ 20) 0 e.1 e.2 ⟨d.domain, d.ep, d.part, 0⟩ 0x02 false none
        (size.map (fun n => (home, n))) (some home)) s
  modPart s1 p (fun P => { P with groups := [] })

/-! ## STEP: reservations (R159) -/

/-- k of a request for this step: lowered where the block table has no room for more (R159). -/
def stepDepth (s : State) (p : Nat) (r : Rec) : Nat := min r.depth (r.stride * tokensOf s p r - 1 - r.c)

/-- Places of the block table that a reservation still needs a frame for (R159). -/
def missing (s : State) (p : Nat) (r : Rec) : List (Nat × Nat) :=
  let t := max 1 (tokensOf s p r)
  (blocksFrom r (r.c / t) (min r.stride ((r.c + stepDepth s p r) / t + 1))).filter (fun e => isNull (handleAt s p r e.1 e.2))

/-- n frames of a request's geometry allocated HOT at this module, all or none: the state, in which those of a failed
allocation have been freed again, and their handles (R159, R165). -/
def takeFrames (s : State) (p : Nat) (r : Rec) (n : Nat) : State × Option (List Nat) :=
  match usableGeom s p r.geom with
  | none => (s, if n = 0 then some [] else none)
  | some (_, size) =>
    let reg := mainRegion s p
    allocFrames reg.1 reg.2 size (fun gen =>
      { state := .open_, sizeLog2 := size, flags := 1, gen := gen, owner := selfParty s p }) n s []

/-- Handles written into places of a block table. -/
def putEntriesAt (s : State) (p : Nat) (r : Rec) (ps : List (Nat × Nat)) (hs : List Nat) : State :=
  (ps.zip hs).foldl (fun s e => putEntry s p r e.1.1 e.1.2 e.2) s

/-- A request's part in a STEP: its index, the places it needed frames for, and whether it is reserved. -/
structure Taking where
  idx      : Nat
  places   : List (Nat × Nat)
  reserved : Bool
deriving DecidableEq, Repr

/-- Reserve one request (R159, R161). -/
def reserveOne (s : State) (p idx : Nat) : State × Taking :=
  let r := recOf s p idx
  let ps := missing s p r
  let a := takeFrames s p r ps.length
  match a.2 with
  | some hs => (putEntriesAt a.1 p r ps hs, ⟨idx, ps, true⟩)
  | none => (a.1, ⟨idx, ps, false⟩)

/-- Reserve a list of requests in order. -/
def reserveAll (p : Nat) : List Nat → State → List Taking → State × List Taking
  | [], s, ts => (s, ts)
  | i :: is, s, ts =>
    let a := reserveOne s p i
    reserveAll p is a.1 (ts ++ [a.2])

/-- The frames a request reserved at this step given back (R161). -/
def unreserve (s : State) (p : Nat) (t : Taking) : State :=
  if !t.reserved then s
  else
    let r := recOf s p t.idx
    t.places.foldl (fun s e => putEntry (freeHandle s p (handleAt s p r e.1 e.2)) p r e.1 e.2 0) s

/-! ## STEP: priority, ring room and rows (R160, R181, R525) -/

/-- Does request a rank above b: class, then ADMITTED, then INDEX (R160). -/
def ranksAbove (s : State) (p a b : Nat) : Bool :=
  let x := recOf s p a
  let y := recOf s p b
  decide (x.cls < y.cls) || (x.cls == y.cls &&
    (decide (x.admitted < y.admitted) || (x.admitted == y.admitted && decide (a < b))))

/-- Insertion in priority order. -/
def rankInsert (s : State) (p i : Nat) : List Nat → List Nat
  | [] => [i]
  | j :: js => if ranksAbove s p i j then i :: j :: js else j :: rankInsert s p i js

/-- Requests in priority order. -/
def rankSort (s : State) (p : Nat) : List Nat → List Nat
  | [] => []
  | i :: is => rankInsert s p i (rankSort s p is)

/-- Requests of a micro-batch whose state satisfies a test, by index. -/
def batchWith (s : State) (p mb : Nat) (f : Rec → Bool) : List Nat :=
  ((partOf s p).recs.filter (fun e => e.2.mbatch == mb && e.2.state != .free && f e.2)).map Prod.fst

/-- Ring room for k + 1 entries, after CONS has been read again where needed; none while its host link is down (R181,
R438). -/
def ringRoom (s : State) (p idx : Nat) : State × Bool :=
  let r := recOf s p idx
  let n := stepDepth s p r + 1
  let s1 := refreshCons s p idx n
  (s1, linkUp s1 r.ringHost && decide (n ≤ ringFree (recOf s1 p idx)))

/-- A continuing request paused: counted once when it enters PAUSED (R181, R186). -/
def pauseRequest (s : State) (p idx : Nat) : State :=
  let r := recOf s p idx
  if r.state = .paused then s
  else
    let s1 := setRec s p idx { r with state := .paused }
    let s2 := modPart s1 p (fun P => { P with pauses := (P.pauses + 1) % 2 ^ 32 })
    putRingState (countEv s2 Isl.cc 0x063 none (some p)) p none r ringPaused 0

/-- A request made RUNNING, with its ring ACTIVE (R162, R181). -/
def runRequest (s : State) (p idx : Nat) : State :=
  let r := recOf s p idx
  putRingState (setRec s p idx { r with state := .running, caught := false }) p none r ringActive 0

/-- What phase 2 decides of the continuing requests. -/
structure Phase2 where
  run     : List Nat          -- placed in the step, in priority order
  rows    : Nat
  paused  : Nat
  full    : Bool              -- a request's rows did not fit: it and all later ones are left out (R525)
deriving DecidableEq, Repr

/-- Phase 2 over the continuing requests in priority order: rejected drafts, truncation, ring room, rows (R159, R166,
R181, R525). -/
def placeAll (p limit : Nat) : List Nat → State → Phase2 → State × Phase2
  | [], s, a => (s, a)
  | i :: is, s, a =>
    let r := recOf s p i
    let s1 := if r.c < r.w then addWaste (setRec s p i { r with w := r.c }) p (r.w - r.c) else s
    let r1 := recOf s1 p i
    if r1.stride * tokensOf s1 p r1 ≤ r1.c then
      placeAll p limit is (endRequest s1 p i none 0x02 (some (endWord false true))) a
    else if a.full then placeAll p limit is s1 a
    else
      let room := ringRoom s1 p i
      if !room.2 then placeAll p limit is (pauseRequest room.1 p i) { a with paused := a.paused + 1 }
      else
        let rows := stepDepth room.1 p r1 + 1
        if limit < a.rows + rows then placeAll p limit is room.1 { a with full := true }
        else
          let s2 := if r1.state = .paused then runRequest room.1 p i else room.1
          placeAll p limit is s2 { a with run := a.run ++ [i], rows := a.rows + rows }

/-! ## STEP: pre-emption and return (R164, R165) -/

/-- Tail frames of a request: entries of its unsealed blocks that hold a frame. -/
def tailFrames (s : State) (p : Nat) (r : Rec) : List (Nat × Nat × Nat) :=
  (tableHandles s p r).filter (fun e => decide (layerSealedOf r e.1 ≤ e.2.1) && !isNull e.2.2)

/-- The tail frames that lie at no cache-role home set out for one (R164); one whose migration is under way is left. -/
def sendTail (s : State) (p idx : Nat) : State :=
  let r := recOf s p idx
  (tailFrames s p r).foldl (fun s e =>
    if !isCacheHome s p (hHome e.2.2) ∧ !(tailMoves s p idx).any (fun m => m.handle == e.2.2) then
      moveToPool s p idx e.1 e.2.1 e.2.2 0x02 r.pool
    else s) s

/-- preempt(v) of R164: the answer says whether the request was pre-empted rather than ended. -/
def preemptRequest (s : State) (p idx : Nat) : State × Bool :=
  let r := recOf s p idx
  let s1 := addWaste (setRec s p idx { r with w := r.c }) p (r.w - r.c)
  let a := sealRequest (freeFrom s1 p idx r.c) p idx
  if a.2 = St.lost ∨ a.2 = St.fenced ∨ a.2 = St.staleHandle ∨ a.2 = St.notOwner then (failRequest a.1 p idx a.2, false)
  else
    let s3 := sendTail a.1 p idx
    let r3 := recOf s3 p idx
    let s4 := putRingState (setRec s3 p idx { r3 with state := .preempted }) p none r3 ringWaiting 0
    (countEv (modPart s4 p (fun P => { P with preempts := (P.preempts + 1) % 2 ^ 32 })) Isl.cc 0x064 none (some p), true)

/-- Phase 4: while some request is unreserved, the lowest-ranked one that needs a frame is pre-empted and the
unreserved ones are tried again (R161). -/
def phase4 (p : Nat) : Nat → State → List Taking → Nat → State × List Taking × Nat
  | 0, s, ts, n => (s, ts, n)
  | fuel + 1, s, ts, n =>
    if ts.all (·.reserved) then (s, ts, n)
    else
      match (ts.filter (fun t => !t.places.isEmpty)).getLast? with
      | none => (s, ts, n)
      | some v =>
        let a := preemptRequest (unreserve s p v) p v.idx
        let b := (ts.filter (fun t => t.idx != v.idx)).foldl (fun (acc : State × List Taking) t =>
          if t.reserved then (acc.1, acc.2 ++ [t])
          else
            let x := reserveOne acc.1 p t.idx
            (x.1, acc.2 ++ [x.2])) (a.1, [])
        phase4 p fuel b.1 b.2 (if a.2 then n + 1 else n)

/-- Is a pre-empted request ready to return: no move under way, no tail frame left here (R165), and none that replaces a lost
one still to come (R121 step 5, R184). -/
def readyToReturn (s : State) (p idx : Nat) : Bool :=
  (tailMoves s p idx).isEmpty && (tailFrames s p (recOf s p idx)).all (fun e => hHome e.2.2 != me s)
    && !(partOf s p).recovering.any (fun x => x.req == idx)

/-- A tail block set out for this module, into a frame held for it (R165). -/
def bringBack (s : State) (p idx : Nat) (e : Nat × Nat × Nat) (hold : Option Nat) : State :=
  startMove s p idx e.1 e.2.1 e.2.2 ⟨(me s).1, (me s).2, p, 0⟩ 0x01 true hold

/-- A pre-empted request admitted: its reservation and the frames for its tail are held, and its tail migrates back;
with no tail it is RUNNING at once (R165). The answer says whether it was admitted; where it was not, the frames taken for it
have been freed again. -/
def admitBack (s : State) (p idx : Nat) : State × Bool :=
  let tail := tailFrames s p (recOf s p idx)
  let a := reserveOne s p idx
  if !a.2.reserved then (a.1, false)
  else
    let b := takeFrames a.1 p (recOf s p idx) tail.length
    match b.2 with
    | none => (unreserve b.1 p a.2, false)
    | some hs =>
      let s2 := setRec b.1 p idx { recOf b.1 p idx with returning := !tail.isEmpty }
      let s3 := (tail.zip hs).foldl (fun s e => bringBack s p idx e.1 (some e.2)) s2
      (if tail.isEmpty then runRequest s3 p idx else s3, true)

/-- Returns that ended with MIGRATE_ABORT started again, each with a frame held for it where one is free (R164, R165). -/
def returnAgain (s : State) (p mb : Nat) : State :=
  ((partOf s p).moving.filter (fun m => m.again && !m.orphan && (recOf s p m.req).mbatch == mb)).foldl (fun s m =>
    let s1 := modPart s p (fun P => { P with moving := P.moving.filter (fun x => x.handle != m.handle) })
    let a := if m.new.isSome then (s1, m.new.map (fun h => [h])) else takeFrames s1 p (recOf s1 p m.req) 1
    bringBack a.1 p m.req (m.layer, m.block, m.handle) (a.2.bind List.head?)) s

/-- What comes of a request that would join: it does not fit, it is on its way back, or it runs (R162). -/
inductive Joined where
  | stops | returns | runs
deriving DecidableEq, Repr, Inhabited

/-- Phase 3 for one request, with `rows` rows left: its rows and ring entries must fit, a pre-empted one is brought back,
another must reserve its places (R162, R525). One whose C has reached STRIDE x T does not fit: R159, which ends such a request,
speaks of continuing ones alone (DESIGN CHOICE, log entry 141). -/
def joinOne (s : State) (p i rows : Nat) : Joined × State :=
  let r := recOf s p i
  let room := ringRoom s p i
  if rows < stepDepth s p r + 1 ∨ !room.2 ∨ r.stride * tokensOf s p r ≤ r.c then (.stops, room.1)
  else if r.state = .preempted then
    let a := admitBack room.1 p i
    (if a.2 then .returns else .stops, a.1)
  else
    let a := reserveOne room.1 p i
    if !a.2.reserved then (.stops, a.1) else (.runs, runRequest a.1 p i)

/-- Phase 3 over the joining requests, up to the first that does not fit: the state, those that run, and how many were
admitted (R162, R525). -/
def phase3 (p : Nat) : List Nat → State → Nat → List Nat → Nat → State × List Nat × Nat
  | [], s, _, run, n => (s, run, n)
  | i :: is, s, rows, run, n =>
    let a := joinOne s p i rows
    match a.1 with
    | .stops => (a.2, run, n)
    | .returns => phase3 p is a.2 rows run (n + 1)
    | .runs => phase3 p is a.2 (rows - (stepDepth s p (recOf s p i) + 1)) (run ++ [i]) (n + 1)

/-! ## STEP (R158 to R167) -/

/-- Joining requests of a micro-batch: pre-empted ones ready to return by ADMITTED, then caught ones in turnstile
order (R162). -/
def joining (s : State) (p mb : Nat) : List Nat :=
  let back := batchWith s p mb (fun r => r.state == .preempted && !r.returning && !r.stalled)
  let g1 := (back.filter (readyToReturn s p))
  let byAdmitted := turnSort (fun i => ⟨0, 0, (recOf s p i).admitted, i⟩) g1
  let g2 := turnSort (fun i => turnKey s p i none) (batchWith s p mb (fun r => r.state == .prefill && r.caught && !r.stalled))
  byAdmitted ++ g2

/-- The entries of a step table (R167). -/
def tableEntries (s : State) (p : Nat) : List Nat → Nat → List Byte
  | [], _ => []
  | i :: is, q =>
    let r := recOf s p i
    toLe 8 (i + r.rgen * 2 ^ 20 + r.stepK * 2 ^ 32) ++ toLe 8 (r.c % 2 ^ 32 + q * 2 ^ 32)
      ++ tableEntries s p is (q + r.stepK + 1)

/-- Sealing work left over from earlier commits, before the step (R176); full blocks of running and paused requests. -/
def sealLeftovers (s : State) (p mb : Nat) : State :=
  (batchWith s p mb (fun r => r.state == .running || r.state == .paused)).foldl (fun s i => sealOn s p i) s

/-- Must a STEP of a micro-batch wait: an earlier STEP of it, or an earlier serving instruction on one of its requests, is
still to commit (R166, R173), or another home still seals a block of one (R176). -/
def stepHeld (s : State) (p : Nat) (i : Issued) (mb : Nat) : Bool :=
  ((partOf s p).queues.any (fun e => e.2.issued.any (fun x =>
    let op := opcodeOf x.words
    decide (x.order < i.order) &&
      ((op == 0x34 && bits (opA x.words) 7 0 == mb)
        || (decide (0x30 ≤ op ∧ op ≤ 0x35) && op != 0x34 && (recOf s p (reqIndex x.words)).mbatch == mb
              && (recOf s p (reqIndex x.words)).state != .free)))))
    || (batchWith s p mb (fun _ => true)).any (sealPending s p)

/-- The micro-batch that a STEP names. -/
def batchOf (i : Issued) : Nat := bits (opA i.words) 7 0

/-- Is it another micro-batch's turn: in the generation role the steps of a partition's micro-batches alternate, so a STEP of the
micro-batch that stepped last lets another's STEP that can run go first. That there are two at least is what its software
names (R21). -/
def othersTurn (s : State) (p mb : Nat) : Bool :=
  roleOf s == roleGeneration && (partOf s p).lastMb == some mb
    && (partOf s p).queues.any (fun e => e.2.issued.any (fun x =>
      opcodeOf x.words == 0x34 && x.status.isNone && batchOf x != mb && !stepHeld s p x (batchOf x)))

/-- Does a STEP wait (R21, R166, R173, R176). -/
def stepMustWait (s : State) (w : IRef) (i : Issued) (mb : Nat) : Bool := stepHeld s w.part i mb || othersTurn s w.part mb

/-- The class B boundary of CC_STEP_CFG (R185). -/
def stepBoundary (s : State) (p : Nat) : State :=
  modPart s p (fun P => match P.stepPend with
    | some c => { P with stepCfg := c, stepPend := none }
    | none => P)

/-- The four phases: the requests that run, and how many were paused, pre-empted and admitted. A continuing request that waits
for rebuilds counts as paused (R181, R416). -/
def stepPhases (s : State) (p mb limit : Nat) : State × List Nat × Nat × Nat × Nat :=
  let s1 := (batchWith s p mb (fun r => r.state == .ended)).foldl (fun s i => dropRequest s p i) s
  let cont := rankSort s1 p (batchWith s1 p mb (fun r => (r.state == .running || r.state == .paused) && !r.stalled))
  let stalled := (batchWith s1 p mb (fun r => (r.state == .running || r.state == .paused) && r.stalled)).length
  let a := placeAll p limit cont s1 ⟨[], 0, stalled, false⟩
  let b := reserveAll p a.2.run a.1 []
  if b.2.all (·.reserved) then
    let c := phase3 p (joining b.1 p mb) b.1 (limit - a.2.rows) [] 0
    (c.1, a.2.run ++ c.2.1, a.2.paused, 0, c.2.2)
  else
    let c := phase4 p b.2.length b.1 b.2 0
    (c.1, (c.2.1.filter (·.reserved)).map (·.idx), a.2.paused, c.2.2, 0)

/-- The work of a STEP up to its commit: what its header says, and the requests that run (R158 to R167). -/
def stepWork (s : State) (p mb limit queue : Nat) : State × Nat × List Nat :=
  let s1 := moveFromStragglers (ecBoundary (updateStragglers (stepBoundary (placeBoundary s p) p) p mb) p) p
  let s2 := sealLeftovers (returnAgain s1 p mb) p mb
  let s3 := (batchWith s2 p mb (fun r => r.state == .preempted && !r.returning)).foldl (fun s i => sendTail s p i) s2
  let a := stepPhases s3 p mb limit
  let run := a.2.1
  let s4 := run.foldl (fun s i => setRec s p i { recOf s p i with stepK := stepDepth s p (recOf s p i) }) a.1
  (modPart s4 p (fun P => { P with steps := AMap.insert P.steps mb (AMap.getD P.steps mb 0 + 1)
                                   stepQueue := AMap.insert P.stepQueue mb queue, lastMb := some mb
                                   queueMb := AMap.insert P.queueMb queue mb }),
    run.length + a.2.2.1 * 2 ^ 16 + a.2.2.2.1 * 2 ^ 32 + a.2.2.2.2 * 2 ^ 48, run)

/-- A STEP at its commit: its phases run, and its table stands in memory; RESULT is the head of the table (R158, R167, R205). -/
def commitStep (s : State) (p mb limit addr queue : Nat) : State × Nat :=
  let a := stepWork s p mb limit queue
  let no := AMap.getD (partOf s p).steps mb 0
  (devPut a.1 addr (toLe 8 a.2.1 ++ toLe 8 no ++ tableEntries a.1 p a.2.2 0), a.2.1)

/-- STEP (0x34; R158, R166, R167, R218): it ends with OK; what it does becomes visible at its commit, and until then it holds
the records of its micro-batch (R173, R205; log entry 133). -/
def execStep (w : IRef) (s : State) : Answer :=
  withInstr s w 0x34 fun i =>
    if stepMustWait s w i (batchOf i) then s
    else finish s w St.ok 0 [.stepped (batchOf i) (bits (opA i.words) 20 8) (addrB i.words)]

end Sys2Proof.Machine
end

