-- ==== Sys2Proof/Machine/Wire.lean ====
section
/-! DEFINITION. Messages as bytes (04_trapeze_handover.md R97, 05_attention_engines.md R149) and accesses that arrive from outside at this module's memory
(12_rack_fabric.md R328, R345; 03_state_blocks.md R84, R85; 04_trapeze_handover.md R92). -/

namespace Sys2Proof.Machine

/-! ## Messages as bytes -/

/-- The trapeze message that 64 bytes hold (R97). -/
def tmsgOf (bs : List Byte) : TMsg :=
  let a := leAt bs 0x00 8
  let b := leAt bs 0x08 8
  let c := leAt bs 0x28 8
  let d := leAt bs 0x38 8
  { level := bits a 3 0, ttype := bits a 11 4, status := bits a 19 12
    src := ⟨bits b 11 0, bits b 21 12, bits a 23 20, bits a 63 32⟩, tag := bits b 63 32
    handle := leAt bs 0x10 8, peer := partyOfWord (leAt bs 0x18 8), time := leAt bs 0x20 8
    hold := bits c 15 0, state := bits c 19 16, flags := bits c 25 20, refs := bits c 47 32
    newHandle := leAt bs 0x30 8, toPart := bits d 3 0, toEpoch := bits d 63 32 }

/-- The message that bytes hold, and whether it is a request (R149). -/
def attendOf (target : Nat × Nat) (bs : List Byte) : Bool × AttendMsg :=
  let a := leAt bs 0x00 8
  let b := leAt bs 0x08 8
  let c := leAt bs 0x10 8
  (bits a 11 4 == 0x20,
   { level := bits a 3 0, status := bits a 19 12, src := ⟨bits b 11 0, bits b 21 12, bits a 23 20, bits a 63 32⟩
     tpart := bits a 27 24, target := target, tag := bits b 63 32, nent := bits c 47 32, nrows := bits c 63 48
     body := (bs.drop 64).take (bits c 31 0 - 64) })

/-- MIGRATE_BEGIN from its 64 bytes and the target partition that the transport names. -/
def beginOf (s : State) (tpart : Nat) (bs : List Byte) : BeginMsg :=
  let m := tmsgOf bs
  { src := m.src, tag := m.tag, handle := m.handle, dest := ⟨(me s).1, (me s).2, tpart, 0⟩, owner := m.peer, flags := m.flags
    sizeLog2 := m.state }

/-- The device message that a train's bytes hold, by its TYPE field, sent by a party of which the transport names module
and partition, to a partition; none where TYPE is reserved or LEVEL is not 1 (R46, R98, R149, R338). -/
def deviceMessageOf (s : State) (sender : Party) (tpart : Nat) (bs : List Byte) : Option Out :=
  let w := leAt bs 0 8
  let t := bits w 11 4
  if bits w 3 0 ≠ 1 then none
  else if t = 0x09 then some (.beginMsg (beginOf s tpart bs))
  else if (1 ≤ t ∧ t ≤ 0x0D) ∨ t = 0x11 then some (.trapeze (me s) (tmsgOf bs))
  else if t = 0x10 then some (.fenceTo (me s) (fenceOf bs sender))
  else if t = 0x20 ∨ t = 0x21 then
    let m := attendOf (me s) bs
    some (.attend m.1 m.2)
  else none

/-- Bytes of an ATTEND message (R149). -/
def attendLen (m : AttendMsg) : Nat := 64 + m.body.length

/-- Has a partition's attend inbox room for a request (R150, R157). -/
def attendRoom (s : State) (m : AttendMsg) : Bool :=
  decide (((partOf s m.tpart).attendInbox.map attendLen).sum + attendLen m ≤ 2 ^ 20 * max 1 (partOf s m.tpart).inboxMib)

/-- Must the train of a device message stay in the receive buffer: an ATTEND_REQ that a running partition's attend inbox, with
the requests on their way to it, has no room for (R150). -/
def attendHeld (s : State) (bs : List Byte) : Bool :=
  bits (leAt bs 0 8) 11 4 == 0x20 &&
    (let m := (attendOf (me s) bs).2
     let coming := s.noc.filterMap (fun o => match o with
       | .attend true x => if x.tpart = m.tpart then some (attendLen x) else none
       | _ => none)
     composed s m.tpart && (partOf s m.tpart).state == .running && roleOf s != rolePrompt
       && !attendRoom s { m with body := m.body ++ List.replicate coming.sum 0 })

/-- A message of R98 or R149 handed to its mechanism; one of another level or a reserved TYPE is discarded and counted as a
protocol error of its link by `err` (R46, R47, R98). -/
def handDevice (s : State) (sender : Party) (tpart : Nat) (bs : List Byte) (err : State → State) : State :=
  match deviceMessageOf s sender tpart bs with
  | some o => { s with noc := s.noc ++ [o] }
  | none => err s

/-! ## Accesses from outside -/

/-- Who makes an access: the partition of this module that it reaches, its identity, and whether it is an accelerator or
a host, whose writes to open blocks are refused (R92, R328, R345). -/
structure Access where
  part  : Nat
  who   : Party
  accel : Bool
deriving DecidableEq, Repr

/-- KIND and PART of an endpoint (R355, R431). -/
def bindOf (s : State) (ep : Nat) : Nat × Nat := AMap.getD (compOf s).binds ep (0, 0)

/-- The accessor of a Poltex request: an accelerator through a port of the partition that it is bound to, a module
through a port of the partition whose range holds the address; none where the access is a violation (R328; log
entry 25). -/
def poltexAccess (s : State) (k : Packet) : Option Access :=
  match bindOf s k.src with
  | (1, p) => if composed s p && bit (nearPorts s p) k.port then some ⟨p, selfParty s p, true⟩ else none
  | (2, _) =>
    match rangeOwner s k.addr with
    | some p => if k.idx && bit (nearPorts s p) k.port then some ⟨p, ⟨(me s).1, k.src, k.spart, k.epoch⟩, false⟩ else none
    | none => none
  | _ => none

/-- Is a frame an open block: OPEN, OFFERED or MIGRATING (R96). -/
def openBlock (f : Frame) : Bool := f.state == .open_ || f.state == .offered || f.state == .migrating

/-- The home's answer to an access by address: a write of an accelerator to an open block that passes the checks on its
partition is refused with NOT_OWNER, and the source of a migration fills its frame (R92, R94, R107, R111, R345). -/
def frameVerdict (s : State) (x : Access) (addr : Nat) (write : Bool) : Nat :=
  let g := addr / 0x4000
  match coveringFrame s g with
  | some (b, f) =>
    if write && !x.accel && fillsFrame s b x.who then St.ok
    else if x.accel && write && openBlock f && (forwardOf s (handleOf s b)).isNone then (claimCheck s x.who).getD St.notOwner
    else accessByGranule s g x.who write
  | none => accessByGranule s g x.who write

/-- The checks of R345 on n bytes at an address: permission, then the frame that covers them. -/
def accessVerdict (s : State) (x : Access) (addr n : Nat) (write : Bool) : Nat :=
  if !mayAccess s x.part addr n then St.address
  else
    match ((List.range ((addr + n - 1) / 0x4000 - addr / 0x4000 + 1)).map
        (fun i => frameVerdict s x (max addr ((addr / 0x4000 + i) * 0x4000)) write)).find? (· != St.ok) with
    | some st => st
    | none => St.ok

/-- A read by an accessor from outside: the bytes and the status, with the records of what it met (R345, R396). -/
def outsideRead (s : State) (x : Access) (addr n : Nat) : State × Nat × List Byte :=
  match devRead s addr n with
  | some bs =>
    let s0 := tookRead s addr n
    let s1 := match coveringFrame s0 (addr / 0x4000) with
      | some e => touchFrame s0 e.1
      | none => s0
    (s1, St.ok, bs)
  | none => (noteRead s addr n (some x.part) none none, St.uncorrectable, [])

/-- A write by an accessor from outside (R38, R395). -/
def outsideWrite (s : State) (x : Access) (addr : Nat) (bs : List Byte) : State × Nat :=
  let r := devWrite s addr bs
  if r.2 then (r.1, St.ok) else (noteRead r.1 addr bs.length (some x.part) none none, St.uncorrectable)

/-- The partition that a violation by an endpoint concerns: the one it is bound to, else the one whose range holds the
address (R444). -/
def concernedPart (s : State) (ep addr : Nat) : Option Nat :=
  match bindOf s ep with
  | (1, p) => if composed s p then some p else rangeOwner s addr
  | _ => rangeOwner s addr

end Sys2Proof.Machine
end

