-- ==== Sys2Proof/Machine/Transcoder.lean ====
section
/-! DEFINITION. The link transcoder (09_link_transcoder.md R243 to R266): send streams and what they claim, segments as
they leave and arrive, reduce contexts, statistics, weight images; and the Transcoder group (R219). -/

namespace Sys2Proof.Machine

/-! ## Send streams (R244 to R247) -/

/-- The stream that a 64-byte settings record describes (R247). -/
def streamOfImage (part : Nat) (bs : List Byte) : Stream :=
  let a := leAt bs 0x00 8
  let b := leAt bs 0x08 8
  { enable := bit a 0, part := part, mode := bits a 3 1, classes := bits a 11 4, wire := bits a 15 12
    native := bits a 17 16, compress := bit a 18, expDelta := bit a 19, kqDynamic := bit a 20, reduce := bit a 21
    rctx := bits a 27 22, kqScale := bits a 47 32, kqShift := signed 8 (bits a 55 48), fixedE := bits a 63 56
    destEp := bits b 9 0, destDomain := bits b 21 10, anyDest := bit b 22
    winBase := bits (leAt bs 0x10 8) 47 0, winLen := bits (leAt bs 0x18 8) 47 0, image := bits (leAt bs 0x20 8) 47 0 }

/-- May XSET take a stream record on a port: the endpoint that DEST names is one of level 1 (R7, R247, R339; log entry 26 for CLASSES bit 0 and FIXED_E 255). -/
def streamRecordOk (port : Nat) (x : Stream) : Bool :=
  !(decide (1 < x.mode) || decide (5 < x.wire) || decide (1 < x.native) || bit x.classes 0
    || (x.reduce && x.wire != 3 && x.wire != 5)
    || (x.reduce && x.kqDynamic)
    || (x.wire == 5 && x.kqScale == 0)
    || (x.reduce && x.wire == 3 && x.fixedE == 255)
    || (x.mode == 1 && decide (16 ≤ port))
    || (!x.anyDest && !endpointOk x.destEp))

/-- The segments of a transfer, each of up to 4,096 native bytes (R248). -/
def makeSegments (x : Stream) (dest : Nat) (data : List Byte) : List SentSegment :=
  let ps := pieces 4096 data
  ((List.range ps.length).zip ps).map (fun e => makeSegment x (dest + 4096 * e.1) e.2)

/-! ## Reduce contexts (R254 to R259) -/

/-- A reduce context of a partition. -/
def rctxOf (s : State) (p c : Nat) : RCtx := AMap.getD (partOf s p).rctxs c {}

/-- The state with a reduce context changed. -/
def modRctx (s : State) (p c : Nat) (f : RCtx → RCtx) : State :=
  modPart s p (fun P => { P with rctxs := AMap.insert P.rctxs c (f (AMap.getD P.rctxs c {})) })

/-- The context that a 64-byte record describes (R254). -/
def rctxOfImage (bs : List Byte) : RCtx :=
  let a := leAt bs 0x00 8
  let b := leAt bs 0x08 8
  { enable := bit a 0, wire := bits a 7 4, rmode := bit a 8, half := bit a 9, outfmt := bits a 11 10
    rshift := bits a 17 12, sem := bits a 21 18, mult := bits a 63 32, k := bits b 12 0, nblk := bits b 35 16
    expE := bits b 43 36, expScale := bits b 59 44, expShift := bits (leAt bs 0x10 8) 7 0, acc := leAt bs 0x18 8
    cnt := leAt bs 0x20 8, out := leAt bs 0x28 8, status := leAt bs 0x30 8, limit := bits (leAt bs 0x38 8) 31 0 }

/-- Are a context's fields values that R254 gives, and its addresses aligned. -/
def rctxRecordOk (c : RCtx) : Bool :=
  (c.wire == 3 || c.wire == 5) && decide (c.outfmt ≤ (if c.rmode then 1 else 2)) && decide (1 ≤ c.k ∧ c.k ≤ 4096)
    && decide (1 ≤ c.nblk) && c.acc % 256 == 0 && c.cnt % 8 == 0 && c.out % 256 == 0 && c.status % 16 == 0

/-- The memory that a context uses. -/
def rctxRegions (c : RCtx) : List (Nat × Nat) :=
  [(c.acc, c.nblk * 128), (c.cnt, c.nblk * 4 + 4), (c.out, c.nblk * 32 * outWidth c), (c.status, 16)]

/-- A 32-bit word of device memory. -/
def word32 (s : State) (a : Nat) : Nat := fromLe ((devRead s a 4).getD [])

/-- The round record written (R257). -/
def putRound (s : State) (c : RCtx) (rounds rstatus missing : Nat) : State :=
  devPut s c.status (toLe 8 (rounds % 2 ^ 32 + rstatus * 2 ^ 32) ++ toLe 8 (missing % 2 ^ 32 + c.clippedRound % 2 ^ 32 * 2 ^ 32))

/-- A block finalised: its outputs written, its accumulators and count zeroed, the done count advanced (R256). -/
def finaliseBlock (s : State) (p ci b : Nat) : State :=
  let c := rctxOf s p ci
  let accs := (List.range 32).map (fun i => signed 32 (word32 s (c.acc + b * 128 + 4 * i)))
  let outs := accs.map (rescale c)
  let s1 := devPut s (c.out + b * 32 * outWidth c) ((outs.map Prod.fst).flatten)
  let s2 := devPut (devPut s1 (c.acc + b * 128) (List.replicate 128 0)) (c.cnt + 4 * b) (toLe 4 0)
  let s3 := devPut s2 (c.cnt + 4 * c.nblk) (toLe 4 (word32 s2 (c.cnt + 4 * c.nblk) + 1))
  let clips := (outs.filter Prod.snd).length
  modRctx s3 p ci (fun c => { c with
    total := min (2 ^ 48 - 1) (c.total + 32), clipped := min (2 ^ 48 - 1) (c.clipped + clips)
    clippedRound := c.clippedRound + clips, doneBlks := c.doneBlks ++ [b] })

/-- The round ends: the done count is zeroed, the round record written, the semaphore signalled (R257, R258). -/
def endRound (s : State) (p ci rounds rstatus missing : Nat) : State :=
  let c := rctxOf s p ci
  let s1 := putRound (devPut s (c.cnt + 4 * c.nblk) (toLe 4 0)) c rounds rstatus missing
  let s2 := modRctx s1 p ci (fun c => { c with rounds := rounds, started := none, clippedRound := 0, missing := missing, doneBlks := [] })
  semAdd s2 p c.sem 1

/-- One block's 32 values added, its count advanced, and the block and the round finished where it was the last (R255 to
R257). -/
def addBlock (s : State) (p ci b : Nat) (qs : List Int) : State :=
  let c := rctxOf s p ci
  let s1 := ((List.range 32).zip qs).foldl (fun s e =>
    let a := c.acc + b * 128 + 4 * e.1
    devPut s a (toLe 4 (unsignedOf 32 (signed 32 (word32 s a) + e.2)))) s
  let n := word32 s1 (c.cnt + 4 * b) + 1
  let s2 := modRctx (devPut s1 (c.cnt + 4 * b) (toLe 4 n)) p ci (fun c => { c with started := some (c.started.getD s.now) })
  if n < c.k then s2
  else
    let s3 := finaliseBlock s2 p ci b
    if word32 s3 (c.cnt + 4 * c.nblk) < c.nblk then s3
    else endRound s3 p ci ((c.rounds + 1) % 2 ^ 32) 0 0

/-- The scales of a contribution's body: every scale byte, or every SCALE with its SHIFT (R252, R255). -/
def bodyScales (wire : Nat) (body : List Byte) : List Nat :=
  ((pieces (groupBytes wire) body).map (fun g =>
    if wire = 5 then [leAt g 0 3] else (g.take 8).map (·.toNat))).flatten

/-- The INT8 values of a contribution's body, 256 a group (R252). -/
def bodyValues (wire : Nat) (body : List Byte) : List Int :=
  ((pieces (groupBytes wire) body).map (fun g =>
    ((g.drop (if wire = 5 then 4 else 8)).take 256).map (fun q => signed 8 q.toNat))).flatten

/-- The record of a malformed segment (R263, code 0x0C), and the status that its sender gets. -/
def malformed (s : State) (p port : Nat) (g : Segment) : State × Nat :=
  (report s none (some p) false { code := 0x0C, part := p, status := St.badFormat, address := g.dest, detail := port },
    St.badFormat)

/-- The record of a refused contribution (R255, code 0x0A): the check that failed, 1 to 3. -/
def refuseContribution (s : State) (p : Nat) (g : Segment) (check : Nat) : State × Nat :=
  (report s none (some p) false
    { code := 0x0A, part := p, status := St.badOperand, address := g.dest, detail := g.rctx + check * 64 }, St.badOperand)

/-- A contribution segment at its target partition (R255): the status for its sender. -/
def takeContribution (s : State) (p port : Nat) (g : Segment) : State × Nat :=
  let c := rctxOf s p g.rctx
  let nw := nativeWidth g.native
  let blocks := ceilDiv g.nativeLen (32 * nw)
  let first := bits g.dest 19 0
  if g.nativeLen = 0 ∨ g.nativeLen % (32 * nw) ≠ 0 ∨ 4096 < g.nativeLen then malformed s p port g
  else if !c.enable ∨ c.nblk < first + blocks then refuseContribution s p g 1
  else if g.wire ≠ c.wire then refuseContribution s p g 2
  else
    match segmentBody g with
    | none => malformed s p port g
    | some body =>
      let want := if c.wire = 5 then c.expScale + c.expShift * 2 ^ 16 else c.expE
      if (bodyScales g.wire body).any (· != want) then refuseContribution s p g 3
      else
        let accs := (List.range blocks).any (fun i => !(badWords s (c.acc + (first + i) * 128) 128).isEmpty
                                                 || !(badWords s (c.cnt + 4 * (first + i)) 4).isEmpty)
        if accs then (noteRead s (c.acc + first * 128) (blocks * 128) (some p) none none, St.uncorrectable)
        else
          let vals := pieces 32 (bodyValues g.wire body)
          let s0 := tookRead (tookRead s (c.acc + first * 128) (blocks * 128)) (c.cnt + 4 * first) (4 * blocks)
          (((List.range blocks).zip vals).foldl (fun s e => addBlock s p g.rctx (first + e.1) e.2) s0, St.ok)

/-- The native bytes that a segment carries; none where it is malformed (R253, R263). -/
def segmentData (g : Segment) : Option (List Byte) :=
  if 5 < g.wire ∨ 1 < g.native ∨ g.nativeLen = 0 ∨ 4096 < g.nativeLen ∨ g.nativeLen % nativeWidth g.native ≠ 0 then none
  else
    match segmentBody g with
    | none => none
    | some body => some (if g.wire = 0 then body else expandBody g.wire g.native body g.nativeLen)

/-- The weight window of a near port that an address range meets: the stream, where one does (R266). -/
def weightWindow (s : State) (port a n : Nat) : Option Stream :=
  ((List.range 128).map (streamOf s port)).find? (fun x =>
    x.enable && x.mode == 1 && decide (a < x.winBase + x.winLen ∧ x.winBase < a + n))

/-- A segment that arrives at a port of a partition: added to its reduce context, or expanded and written as the native
STORE or PUT, but not into a weight window (R247, R253, R255, R266). The status for its sender. -/
def takeSegment (s : State) (x : Access) (port : Nat) (g : Segment) : State × Nat :=
  if g.reduce then takeContribution s x.part port g
  else
    match segmentData g with
    | none => malformed s x.part port g
    | some bs =>
      let st := if port < 16 ∧ (weightWindow s port g.dest bs.length).isSome then St.address
        else accessVerdict s x g.dest bs.length true
      if st ≠ St.ok then
        (violation s (some x.part) (if port < 16 then 2 else 3) (x.who.domain, x.who.ep) g.dest none none st, st)
      else outsideWrite s x g.dest bs

/-! ## Statistics (R260) -/

/-- CLIPPED, TOTAL and NANBLOCKS of a stream number of a port, or of a partition's reduce context. -/
def statsOf (s : State) (p port stream : Nat) : Nat × Nat × Nat :=
  if 0x80 ≤ stream ∧ stream ≤ 0xBF then
    let c := rctxOf s p (stream - 0x80)
    (c.clipped, c.total, 0)
  else
    let x := streamOf s port stream
    (x.clipped, x.total, x.nanBlocks)

/-- The counters zeroed. -/
def clearStats (s : State) (p port stream : Nat) : State :=
  if 0x80 ≤ stream ∧ stream ≤ 0xBF then modRctx s p (stream - 0x80) (fun c => { c with clipped := 0, total := 0 })
  else modStream s port stream (fun x => { x with clipped := 0, total := 0, nanBlocks := 0 })

/-- The share of clipped elements in units of 2^−32. -/
def clipShare (clipped total : Nat) : Nat := if total = 0 then 0 else min 0xFFFFFFFF (clipped * 2 ^ 32 / total)

/-- XSTAT at its commit: the record written, the counters zeroed with CLEAR, and RESULT (R260). -/
def readStats (s : State) (p port stream addr : Nat) (clear : Bool) : State × Nat :=
  let t := statsOf s p port stream
  let s1 := devPut s addr (toLe 8 t.1 ++ toLe 8 (t.2.1 + t.2.2 * 2 ^ 48))
  (if clear then clearStats s1 p port stream else s1, clipShare t.1 t.2.1)

/-- XSET of a send stream at its commit: settings taken, counters zeroed (R246, R260). -/
def setStream (s : State) (p port stream : Nat) (image : List Byte) : State :=
  modStream s port stream (fun _ => streamOfImage p image)

/-- XSET of a reduce context at its commit: a round in progress is abandoned with an ABORTED record, ACC and CNT are
zeroed, the counters too (R254, R260). -/
def setReduce (s : State) (p ci : Nat) (image : List Byte) : State :=
  let old := rctxOf s p ci
  let s1 := if old.started.isSome then putRound s old old.rounds 2 0 else s
  let c := rctxOfImage image
  let s2 := devPut (devPut s1 c.acc (List.replicate (c.nblk * 128) 0)) c.cnt (List.replicate (c.nblk * 4 + 4) 0)
  modRctx s2 p ci (fun _ => c)

/-! ## Weight images (R264 to R266) -/

/-- WIDTH, NATIVE_LEN and NCHUNK of an image; none where its header is at fault (R264). -/
def imageHeader (bs : List Byte) : Option (Nat × Nat × Nat) :=
  let a := leAt bs 0x00 8
  let b := leAt bs 0x08 8
  let width := bits a 37 36
  let n := bits b 31 0
  if bits a 31 0 = 0x4B574754 ∧ bits a 35 32 = 1 ∧ width ≠ 3 ∧ n ≠ 0 ∧ bits b 63 32 = ceilDiv n 4096 then
    some (width, n, bits b 63 32)
  else none

/-- Chunk c of an image of which `len` bytes may be read: its expanded bytes; none where a block is malformed or runs
past the image. The error distinguishes an uncorrectable word. -/
def imageChunk (s : State) (img len width nlen c : Nat) : Except Nat (List Byte) :=
  let off := word32 s (img + 0x40 + 4 * c)
  let want := min 4096 (nlen - 4096 * c)
  let nb := ceilDiv want 256
  if len ≤ off ∨ len < 0x40 + 4 * c + 4 then .error St.badFormat
  else
    match devRead s (img + off) (min (len - off) (nb * 290)) with
    | none => .error St.uncorrectable
    | some bs =>
      match decodeBlocks width nb bs with
      | some (out, _) => .ok (out.take want)
      | none => .error St.badFormat

/-- Chunks in order from c, n of them. -/
def imageChunks (s : State) (img len width nlen : Nat) : Nat → Nat → Except Nat (List Byte)
  | _, 0 => .ok []
  | c, n + 1 =>
    match imageChunk s img len width nlen c with
    | .error e => .error e
    | .ok bs =>
      match imageChunks s img len width nlen (c + 1) n with
      | .error e => .error e
      | .ok r => .ok (bs ++ r)

/-- A LOAD in a weight window: the expanded bytes, ADDRESS where it is only partly inside or runs past the image (R266). -/
def windowLoad (s : State) (x : Stream) (a n : Nat) : Except Nat (List Byte) :=
  if a < x.winBase ∨ x.winBase + x.winLen < a + n ∨ !mayAccess s x.part x.image 64 then .error St.address
  else
    match devRead s x.image 64 with
    | none => .error St.uncorrectable
    | some h =>
      match imageHeader h with
      | none => .error St.badFormat
      | some (width, nlen, _) =>
        let o := a - x.winBase
        if nlen < o + n then .error St.address
        else
          match imageChunks s x.image (rangeBase s x.part + rangeLen s x.part - x.image) width nlen
              (o / 4096) ((o + n - 1) / 4096 - o / 4096 + 1) with
          | .error e => .error e
          | .ok bs => .ok ((bs.drop (o % 4096)).take n)

/-- What a LOAD in a weight window reads of its image: the header, then the offset and the blocks of each chunk (R266, R394). -/
def windowReads (s : State) (x : Stream) (nlen a n : Nat) : List (Nat × Nat) :=
  let o := a - x.winBase
  (x.image, 64) :: ((List.range ((o + n - 1) / 4096 - o / 4096 + 1)).flatMap (fun k =>
    let c := o / 4096 + k
    [(x.image + 0x40 + 4 * c, 4), (x.image + word32 s (x.image + 0x40 + 4 * c), 290 * ceilDiv (min 4096 (nlen - 4096 * c)) 256)]))

/-- A LOAD in a weight window has read its image: the corrections that it met are counted (R394). -/
def windowTook (s : State) (x : Stream) (a n : Nat) : State :=
  match (devRead s x.image 64).bind imageHeader with
  | some (_, nlen, _) => (windowReads s x nlen a n).foldl (fun s r => tookRead s r.1 r.2) s
  | none => s

/-! ## The Transcoder group (R219) -/

/-- XSET (0x40; R219, R244, R247, R254). -/
def execXset (w : IRef) (s : State) : Answer :=
  withInstr s w 0x40 fun i =>
    let port := bits (opA i.words) 4 0
    let stream := bits (opA i.words) 15 8
    match devRead s (addrB i.words) 64 with
    | none => readFault s w (addrB i.words) 64
    | some image =>
      if stream < 0x80 then
        if streamRecordOk port (streamOfImage w.part image) then finish s w St.ok 0 [.setStream port stream image]
        else failWith s w St.badOperand
      else
        let c := rctxOfImage image
        if !rctxRecordOk c then failWith s w St.badOperand
        else
          match (rctxRegions c).find? (fun r => !mayAccess s w.part r.1 r.2) with
          | some r => addressFault s w r.1
          | none => finish s w St.ok 0 [.setReduce (stream - 0x80) image]

/-- XSTAT (0x41; R219, R260): the counters are read at its commit. -/
def execXstat (w : IRef) (s : State) : Answer :=
  withInstr s w 0x41 fun i =>
    let port := bits (opA i.words) 4 0
    finish s w St.ok 0 [.statsRead (decide (port < 16)) port (bits (opA i.words) 15 8) (addrB i.words) (flagOf i.words 24)]

/-- The STOREs of an EXPAND: 256 bytes where they are aligned, else 64, and what lies before or behind whole lines (R265). -/
def storePieces : Nat → Nat → List Byte → List (Nat × List Byte)
  | 0, _, _ => []
  | fuel + 1, off, bs =>
    if bs.isEmpty then []
    else
      let k := if off % 256 = 0 ∧ 256 ≤ bs.length then 256 else min bs.length (64 - off % 64)
      (off, bs.take k) :: storePieces fuel (off + k) (bs.drop k)

/-- One STORE transaction of bytes: plain for whole lines; fewer bytes, which have no plain STORE, travel as a segment that
holds them as they are (R248, R265, R336; log entry 112). -/
def sendStore (s : State) (w : IRef) (tc target off : Nat) (bs : List Byte) : State :=
  let t : Txn := { tag := 0, w := some w, op := 2, target := target, addr := off, len := bs.length, part := w.part, tc := tc }
  if bs.length % 64 = 0 then sendTxn s t [packetFrame (ownPacket s w.part 2 tc target 0 off bs.length bs)]
  else
    let g := segmentBytes { wire := 0, native := 0, codec := false, width := 1, reduce := false, rctx := 0, nativeLen := bs.length
                            dest := off, body := bs }
    sendTxn s t (trainFrames s w.part 2 tc target off true g g.length none)

/-- EXPAND (0x42; R219, R264, R265). -/
def execExpand (w : IRef) (s : State) : Answer :=
  withInstr s w 0x42 fun i =>
    if i.started then s
    else
      let img := addrB i.words
      let len := bits (opA i.words) 31 0
      let off := extAddr i.words 1
      let target := bits (extLo i.words 1) 57 48
      if len < 64 then failWith s w St.badFormat
      else
        match devRead s img 64 with
        | none => readFault s w img 64
        | some h =>
          match imageHeader h with
          | none => failWith s w St.badFormat
          | some (width, nlen, nchunk) =>
            if nlen ≠ bits (extHi i.words 1) 31 0 ∨ len < 0x40 + 4 * nchunk then failWith s w St.badFormat
            else
              match imageChunks s img len width nlen 0 nchunk with
              | .error e => if e = St.uncorrectable then readFault s w img len else failWith s w e
              | .ok bs =>
                if target = (me s).2 then finish s w St.ok nlen [.devWrite off bs]
                else
                  let s1 := (storePieces (bs.length + 1) off bs).foldl (fun s e => sendStore s w 5 target e.1 e.2) s
                  closeFabric (modIssued s1 w (fun i => { i with started := true, sentAt := s.now, result := nlen })) w

/-! ## Segments that arrive, and the round limit -/

/-- May an endpoint reach a partition through a port: at a near port an accelerator only the partition that it is bound to, a
module any that holds the port, no other endpoint any (R328); at a far port the partition that holds it. -/
def mayReach (s : State) (p port src : Nat) : Bool :=
  if port < 16 then
    bit (nearPorts s p) port && ((bindOf s src).1 == 2 || ((bindOf s src).1 == 1 && (bindOf s src).2 == p))
  else bit (farPorts s p) (port - 16)

/-- A segment of another level at a port: discarded, a protocol error of its link (R46, R47). -/
def segmentError (s : State) (port : Nat) : State :=
  if port < 16 then protocolError s port else { s with tlaley := { s.tlaley with protoErr := s.tlaley.protoErr + 1 } }

/-- A segment that enters a port of a partition from an endpoint, and the answer that its sender gets: ADDRESS, logged, where
it may not reach the partition there (R328). The row names no identity of the sender: its write is checked as one of the
partition's accelerators (log entry 28). -/
def arrive (p port src : Nat) (g : Segment) (s : State) : Answer :=
  if !ready s || !composed s p then .next s
  else if g.level ≠ 1 then .next (segmentError s port)
  else if !mayReach s p port src then
    let s1 := violation s (some p) (if port < 16 then 2 else 3) ((me s).1, src) g.dest none none St.address
    .next (emitOut s1 (.segAnswer port src St.address))
  else
    let r := takeSegment s ⟨p, selfParty s p, true⟩ port g
    .next (emitOut r.1 (.segAnswer port src r.2))

/-- SEGMENT_ARRIVAL (R248, R253, R263). -/
def execSegmentArrival (p port src : Nat) (g : Segment) (s : State) : Answer := arrive p port src { g with reduce := false } s

/-- CONTRIBUTION_SEGMENT (R255 to R257). -/
def execContributionSegment (p port src : Nat) (g : Segment) (s : State) : Answer := arrive p port src { g with reduce := true } s

/-- ROUND_LIMIT_EXPIRY (R258): every block not yet finalised is finalised with what it holds, the round ends INCOMPLETE
and the context is disabled. -/
def execRoundLimitExpiry (p ci : Nat) (s : State) : Answer :=
  let c := rctxOf s p ci
  match c.started with
  | none => .next s
  | some t =>
    if ready s && c.enable && c.limit != 0 && decide (t + c.limit * 1000 ≤ s.now) then
      let left := (List.range c.nblk).filter (fun b => !c.doneBlks.contains b)
      let s1 := left.foldl (fun s b => finaliseBlock s p ci b) s
      let s2 := endRound s1 p ci c.rounds 1 left.length
      let s3 := report s2 none (some p) false
        { code := 0x0B, part := p, detail := ci + min (2 ^ 18 - 1) left.length * 64 }
      .next (modRctx s3 p ci (fun c => { c with enable := false }))
    else .next s

end Sys2Proof.Machine
end

