-- ==== Sys2Proof/Machine/Attention.lean ====
section
/-! DEFINITION. The Attention group: ATTEND with its triples, remote requests and lower tiers, MERGE and LOADACT
(05_attention_engines.md R125 to R157, 08_schedule_contract.md R225 to R242). -/

namespace Sys2Proof.Machine

/-! ## Descriptors (R127, R128) -/

/-- The attend descriptor header (R127). -/
structure AttnHdr where
  nent   : Nat
  geom   : Nat
  qfmt   : Nat
  wfmt   : Nat
  pmode  : Nat
  ofmt   : Nat
  window : Nat
  sigma  : Nat
  kscale : Nat
  vscale : Nat
  hq     : Nat
  nrows  : Nat
  qbase  : Nat
  pbase  : Nat
deriving DecidableEq, Repr, Inhabited

/-- The header that 64 bytes hold. -/
def attnHdr (bs : List Byte) : AttnHdr :=
  let a := leAt bs 0x00 8
  let b := leAt bs 0x08 8
  let c := leAt bs 0x10 8
  { nent := bits a 15 0, geom := bits a 19 16, qfmt := bits a 21 20, wfmt := bits a 23 22, pmode := bits a 24 24
    ofmt := bits a 25 25, window := bits a 63 32, sigma := bits b 31 0, kscale := bits b 63 32
    vscale := bits c 31 0, hq := bits c 47 32, nrows := bits c 63 48, qbase := leAt bs 0x18 8, pbase := leAt bs 0x20 8 }

/-- The 64 bytes of a header. -/
def attnHdrBytes (h : AttnHdr) : List Byte :=
  toLe 8 (h.nent + h.geom * 2 ^ 16 + h.qfmt * 2 ^ 20 + h.wfmt * 2 ^ 22 + h.pmode * 2 ^ 24 + h.ofmt * 2 ^ 25 + h.window * 2 ^ 32)
    ++ toLe 8 (h.sigma + h.kscale * 2 ^ 32) ++ toLe 8 (h.vscale + h.hq * 2 ^ 32 + h.nrows * 2 ^ 48)
    ++ toLe 8 h.qbase ++ toLe 8 h.pbase ++ List.replicate 24 0

/-- An attend entry (R128). -/
structure AttnEnt where
  hlist   : Nat
  nblk    : Nat
  nq      : Nat
  first   : Nat
  qpos    : Nat
  visible : Nat
  qrow    : Nat
  req     : Nat
  rgen    : Nat
  useReq  : Bool
  tdomain : Nat
  tep     : Nat
  tpart   : Nat
deriving DecidableEq, Repr, Inhabited

/-- The entry that 48 bytes hold. -/
def attnEnt (bs : List Byte) : AttnEnt :=
  let b := leAt bs 0x08 8
  let c := leAt bs 0x10 8
  let d := leAt bs 0x18 8
  let e := leAt bs 0x20 8
  { hlist := leAt bs 0 8, nblk := bits b 15 0, nq := bits b 31 16, first := bits b 63 32, qpos := bits c 31 0
    visible := bits c 63 32, qrow := bits d 15 0, req := bits d 35 16, rgen := bits d 47 36, useReq := bit d 48
    tdomain := bits e 11 0, tep := bits e 21 12, tpart := bits e 25 22 }

/-- The 48 bytes of an entry. -/
def attnEntBytes (e : AttnEnt) : List Byte :=
  toLe 8 e.hlist ++ toLe 8 (e.nblk + e.nq * 2 ^ 16 + e.first * 2 ^ 32) ++ toLe 8 (e.qpos + e.visible * 2 ^ 32)
    ++ toLe 8 (e.qrow + e.req * 2 ^ 16 + e.rgen * 2 ^ 36 + flag e.useReq * 2 ^ 48)
    ++ toLe 8 (e.tdomain + e.tep * 2 ^ 12 + e.tpart * 2 ^ 22) ++ toLe 8 0

/-- Bytes of a partial triple (R126). -/
def tripleLen (ofmt d : Nat) : Nat := if ofmt = 0 then 8 + 4 * d else 8 + 2 * d

/-- Bytes of the triples of one entry (R131). -/
def entryLen (h : AttnHdr) (d : Nat) (e : AttnEnt) : Nat := e.nq * h.hq * tripleLen h.ofmt d

/-- base_e of R131. -/
def entryBase (h : AttnHdr) (d : Nat) (es : List AttnEnt) (e : Nat) : Nat := ((es.take e).map (entryLen h d)).foldl (· + ·) 0

/-- Bytes of the whole output, status bytes included (R131). -/
def outputLen (h : AttnHdr) (d : Nat) (es : List AttnEnt) : Nat := entryBase h d es es.length + es.length

/-- Bytes of a query buffer of n rows (R129). -/
def queryLen (qfmt hq d n : Nat) : Nat := if qfmt = 0 then n * hq * d * 2 else n * hq * d + n * hq * (d / 32)

/-! ## Elements and rows (R52, R129) -/

/-- Values of a row of elements: format 0 BF16, 1 E4M3, 2 E5M2 (R50, R127). -/
def elemsOf (fmt : Nat) (bs : List Byte) : List Fp :=
  if fmt = 0 then (pieces 2 bs).map (fun b => fpOfBf16 (fromLe b))
  else if fmt = 1 then bs.map (fun b => fpOfE4m3 b.toNat)
  else bs.map (fun b => fpOfE5m2 b.toNat)

/-- Query row r, head h: its elements and its scale bytes, none for BF16 (R129). -/
def queryRow (qfmt nrows hq d : Nat) (q : List Byte) (r h : Nat) : List Fp × List Nat :=
  let at_ := (r * hq + h) * d
  if qfmt = 0 then (elemsOf 0 ((q.drop (at_ * 2)).take (d * 2)), [])
  else (elemsOf qfmt ((q.drop at_).take d),
        ((q.drop (nrows * hq * d + (r * hq + h) * (d / 32))).take (d / 32)).map (·.toNat))

/-- Row t of head κ of a plane (R52). -/
def planeRow (fmt T d eb : Nat) (plane : List Byte) (k t : Nat) : List Fp :=
  elemsOf fmt ((plane.drop ((k * T + t) * d * eb)).take (d * eb))

/-! ## Scores and triples (R135 to R139) -/

/-- 2^(E − 127), a NaN for 0xFF (R135 step 3). -/
def scaleValue (e : Nat) : Fp := if e = 255 then .nan else .fin false 1 ((e : Int) - 127)

/-- Group sums of the products (R135 steps 1 to 3). -/
def groupSums (q k : List Fp) (scales : List Nat) : List Fp :=
  let sums := (pieces 32 ((q.zip k).map (fun e => fpMul e.1 e.2))).map (treeSum 5)
  if scales.isEmpty then sums else (sums.zip scales).map (fun e => fpMul e.1 (scaleValue e.2))

/-- The score of a query row against a key row (R135). -/
def score (sigma : Fp) (q k : List Fp) (scales : List Nat) : Fp := fpMul (treeSum 8 (groupSums q k scales)) sigma

/-- A partial triple (R125, R126). -/
structure Triple where
  m : Fp
  l : Fp
  o : List Fp
deriving DecidableEq, Repr

/-- The empty triple (R125). -/
def emptyTriple (d : Nat) : Triple := ⟨fpNegInf, fpZero, List.replicate d fpZero⟩

/-- The triple of a row-head that has met a NaN score (R139). -/
def nanTriple (d : Nat) : Triple := ⟨.nan, .nan, List.replicate d .nan⟩

/-- One block taken into a triple (R137): a score for each visible row, and the rows' values. -/
def takeBlock (pmode : Nat) (scores : List (Option Fp)) (values : List (List Fp)) (t : Triple) : Triple :=
  let seen := scores.filterMap id
  if t.m = .nan ∨ seen.contains .nan then nanTriple t.o.length
  else
    let mb := seen.foldl fpMax fpNegInf
    let mn := fpMax t.m mb
    if mn = fpNegInf then t
    else
      let a := if t.m = fpNegInf then fpZero else fpExp2 (fpSub t.m mn)
      let w := scores.map (fun x => x.map (fun v =>
        let p := fpExp2 (fpSub v mn)
        if pmode = 0 then fpE4m3 (fpMul p (.fin false 1 8)) else fpRnd p 8))
      let down := fun (x : Fp) => if pmode = 0 then fpMul x (.fin false 1 (-8)) else x
      let lb := down (treeSum 7 (w.map (fun x => x.getD fpZero)))
      let column := fun (j : Nat) => down (treeSum 7 ((w.zip values).map (fun e => match e.1 with
        | some x => fpMulExact x (e.2.getD j fpZero)
        | none => fpZero)))
      { m := mn, l := fpFma t.l a lb
        o := ((List.range t.o.length).zip t.o).map (fun e => fpFma e.2 a (column e.1)) }

/-- A triple as bytes (R126, R138). -/
def tripleBytes (ofmt : Nat) (t : Triple) : List Byte :=
  toLe 4 (fpTo32 t.m) ++ toLe 4 (fpTo32 t.l)
    ++ (t.o.map (fun x => if ofmt = 0 then toLe 4 (fpTo32 x) else toLe 2 (fpToBf16 x))).flatten

/-! ## Visibility (R132, R133) -/

/-- Is key position k visible to query position p under a bound and a window (R132). -/
def visible (bound window p k : Nat) : Bool := decide (k < bound ∧ k ≤ p ∧ (window = 0 ∨ p - k < window))

/-- Rows of block j of T tokens that some row of an entry sees. -/
def seenRows (window T : Nat) (e : AttnEnt) (j : Nat) : List Nat :=
  (List.range T).filter (fun t => (List.range e.nq).any (fun i => visible e.visible window (e.qpos + i) (j * T + t)))

/-! ## Reading blocks (R94, R131, R133, R153) -/

/-- Who runs an attend: its header, geometry, claimant, the partition it runs in, its context, and its blocks as the home has
checked them: handle, status, granule. -/
structure AttnRun where
  hdr   : AttnHdr
  fmt   : Nat
  sh    : Nat × Nat × Nat × Nat
  size  : Nat
  who   : Party
  part  : Nat
  ctx   : Option ErrContext
  queue : Option Nat
  checks : List (Nat × Nat × Nat)
  failed : List Nat                    -- granules that failed the code in this instruction's stream (R34)
  q     : List Byte

/-- The home's check of one block's handle (R131, R150): the status, the granule to read, and the checks' records. -/
def attnHandle (s : State) (r : AttnRun) (h : Nat) : State × Nat × Nat :=
  if isNull h then (s, St.staleHandle, 0)
  else if hHome h ≠ me s then (s, St.notHome, 0)
  else
    let a := accessByHandle s h r.who false
    let s1 := if a.1 = St.moved then countEv s Isl.cc 0x066 none (some r.part) else s
    let h1 := if a.1 = St.moved then a.2 else h
    if hHome h1 ≠ me s then (s1, St.notHome, 0)
    else
      let st := if a.1 = St.moved then (accessByHandle s1 h1 r.who false).1 else a.1
      let g := hFrame h1
      if st = St.notOwner then (violation s1 (some r.part) 1 (r.who.domain, r.who.ep) (g * 0x4000) r.ctx r.queue st, st, g)
      else if st ≠ St.ok then (if r.who = selfParty s r.part then noteFenced s1 r.part st else s1, st, g)
      else if (frameAt s1 g).sizeLog2 ≠ r.size then (s1, St.staleHandle, g)
      else if tierFails s1 g then (s1, St.tierFailed, g)
      else (touchFrame s1 g, St.ok, g)

/-- The blocks of an instruction checked, each once, as the reads of their first granules issue (R134). -/
def checkBlocks (r : AttnRun) : List Nat → State → List (Nat × Nat × Nat) → State × List (Nat × Nat × Nat)
  | [], s, cs => (s, cs)
  | h :: hs, s, cs =>
    if cs.any (fun c => c.1 == h) then checkBlocks r hs s cs
    else
      let a := attnHandle s r h
      checkBlocks r hs a.1 (cs ++ [(h, a.2)])

/-- Does a status end a lower tier's read of a block: it concerns every entry that names the block (R153; log entry 140). -/
def tierStatus (st : Nat) : Bool := st == St.tierLate || st == St.tierFailed

/-- Granule k of a block holds a row that is seen (R133). -/
def wantGranule (sh : Nat × Nat × Nat × Nat) (rows : List Nat) (k : Nat) : Bool :=
  let rb := sh.2.2.1 * sh.2.2.2
  let off := k * 256 % (blockBytes sh / 2)
  (List.range (255 / rb + 1)).any (fun i => rows.contains ((off / rb + i) % sh.1))

/-- The granules of a block at granule g that pass the code and are placed in a stream's ring (R34, R133). -/
def placedGranules (s : State) (sh : Nat × Nat × Nat × Nat) (g : Nat) (rows failed : List Nat) : List Nat :=
  ((List.range (blockBytes sh / 256)).map (fun k => g * 64 + k)).filter (fun x =>
    wantGranule sh rows (x - g * 64) && !failed.contains x && (devRead s (256 * x) 256).isSome)

/-- Granules placed in the ring of one of an engine's eight streams, which holds the newest 256 of them (R30, R34). -/
def placeGranules (s : State) (p : Nat) (xs : List Nat) : State :=
  match (presentEngines s p)[Config.unitEngine s.freeCtr % max 1 (presentEngines s p).length]? with
  | none => s
  | some n =>
    let e := AMap.getD s.engines n {}
    let stream := Config.unitStream s.freeCtr % 8
    let all := AMap.getD e.rings stream [] ++ xs
    { s with engines := AMap.insert s.engines n { e with rings := AMap.insert e.rings stream (all.drop (all.length - 256)) } }

/-- The bytes of a block at granule g, its unseen granules as zeros; none where a granule that is read is
uncorrectable (R133, R396). -/
def fetchBlock (s : State) (sh : Nat × Nat × Nat × Nat) (g : Nat) (rows failed : List Nat) : Option (List Byte) :=
  let parts := (List.range (blockBytes sh / 256)).map (fun k =>
    if wantGranule sh rows k then (if failed.contains (g * 64 + k) then none else devRead s (g * 0x4000 + 256 * k) 256)
    else some (List.replicate 256 0))
  if parts.any (·.isNone) then none else some (parts.map (·.getD [])).flatten

/-- The records of the uncorrectable granules that a block's read meets (R396). -/
def noteBlock (s : State) (r : AttnRun) (g : Nat) (rows : List Nat) : State :=
  (List.range (blockBytes r.sh / 256)).foldl (fun s k =>
    if wantGranule r.sh rows k then noteRead s (g * 0x4000 + 256 * k) 256 (some r.part) r.ctx r.queue else s) s

/-- What the read of one block came to: its index, its status, and where that is OK its granule. -/
structure BlockRead where
  block   : Nat
  status  : Nat
  granule : Nat
deriving DecidableEq, Repr

/-- Rows of block j that some entry of a group sees. -/
def groupRows (r : AttnRun) (es : List AttnEnt) (j : Nat) : List Nat :=
  (List.range r.sh.1).filter (fun t => es.any (fun e => (seenRows r.hdr.window r.sh.1 e j).contains t))

/-- The blocks of a group of entries read in ascending index, each block once whatever the number of its entries, as they were
checked (R131, R133, R147). A block that no entry sees is not read. -/
def readGroup (r : AttnRun) (es : List AttnEnt) : List Nat → Nat → State → List BlockRead → State × List BlockRead
  | [], _, s, bs => (s, bs)
  | h :: hs, j, s, bs =>
    let rows := groupRows r es j
    match r.checks.find? (fun c => c.1 == h) with
    | none => readGroup r es hs (j + 1) s bs
    | some (_, st, g) =>
      if rows.isEmpty && !tierStatus st then readGroup r es hs (j + 1) s bs
      else
        let s1 := if st = St.ok then placeGranules (noteBlock s r g rows) r.part (placedGranules s r.sh g rows r.failed) else s
        readGroup r es hs (j + 1) s1 (bs ++ [⟨j, st, g⟩])

/-- What an entry has of the blocks that were read: its status, that of the lowest block that failed, and its blocks' bytes. A
block whose lower-tier read came late or failed counts for every entry that names it (R131, R153; log entry 140). -/
def entryBlocks (s : State) (r : AttnRun) (e : AttnEnt) (bs : List BlockRead) : Nat × List (Nat × List Byte) :=
  bs.foldl (fun a b =>
    let rows := seenRows r.hdr.window r.sh.1 e b.block
    let bad := fun (st : Nat) => (if a.1 = St.ok then st else a.1, a.2)
    if tierStatus b.status then bad b.status
    else if rows.isEmpty then a
    else if b.status ≠ St.ok then bad b.status
    else
      match fetchBlock s r.sh b.granule rows r.failed with
      | none => bad St.uncorrectable
      | some x => (a.1, a.2 ++ [(b.block, x)])) (St.ok, [])

/-- Does a row of an entry see any position of it (R138). -/
def rowSees (window T : Nat) (e : AttnEnt) (i : Nat) : Bool :=
  (List.range e.nblk).any (fun n => (List.range T).any (fun t => visible e.visible window (e.qpos + i) ((e.first + n) * T + t)))

/-- The triple of row i and head h of an entry over its blocks (R135 to R139). -/
def rowTriple (r : AttnRun) (e : AttnEnt) (blocks : List (Nat × List Byte)) (i h : Nat) : Triple :=
  let T := r.sh.1
  let d := r.sh.2.2.1
  let eb := r.sh.2.2.2
  if !rowSees r.hdr.window T e i then emptyTriple d
  else
    let g := r.hdr.hq / r.sh.2.1
    let q := queryRow r.hdr.qfmt r.hdr.nrows r.hdr.hq d r.q (e.qrow + i) h
    let sigma := fpMul (fpOf32 r.hdr.sigma) (fpOf32 r.hdr.kscale)
    let pmode := if r.fmt = 0 then 1 else r.hdr.pmode
    let half := blockBytes r.sh / 2
    let t := blocks.foldl (fun t b =>
      let scores := (List.range T).map (fun x =>
        if visible e.visible r.hdr.window (e.qpos + i) (b.1 * T + x) then
          some (score sigma q.1 (planeRow r.fmt T d eb b.2 (h / g) x) q.2) else none)
      takeBlock pmode scores ((List.range T).map (planeRow r.fmt T d eb (b.2.drop half) (h / g))) t) (emptyTriple d)
    { t with o := t.o.map (fun x => fpMul x (fpOf32 r.hdr.vscale)) }

/-- The triples of an entry as bytes, and how many row-heads are NaN (R131, R139). -/
def entryTriples (r : AttnRun) (e : AttnEnt) (ok : Bool) (blocks : List (Nat × List Byte)) : List Byte × Nat :=
  let d := r.sh.2.2.1
  let ts := ((List.range e.nq).map (fun i => (List.range r.hdr.hq).map (fun h =>
    if ok then rowTriple r e blocks i h else emptyTriple d))).flatten
  ((ts.map (tripleBytes r.hdr.ofmt)).flatten, (ts.filter (fun t => t.m == .nan)).length)

/-- The key by which entries form a group: FIRSTBLK and the handle list (R147). -/
def groupKey (e : AttnEnt × Option (List Nat)) : Nat × Option (List Nat) := (e.1.first, e.2)

/-- Is every named block SEALED when its handle is checked (R147). -/
def allSealed (s : State) (hs : List Nat) : Bool :=
  hs.all (fun h => hHome h == me s && (frameNow s (hFrame (followed s h))).state == .sealed)

/-- The entries that one entry's blocks are read for: its group, or itself (R147). -/
def groupOf (s : State) (all : List (AttnEnt × Option (List Nat))) (e : AttnEnt × Option (List Nat)) : List AttnEnt :=
  match e.2 with
  | none => [e.1]
  | some hs => if allSealed s hs then (all.filter (fun x => groupKey x == groupKey e)).map Prod.fst else [e.1]

/-- The blocks of an entry read, unless they have been read for its group: what has been read so far, and the entry's part of
it. A handle list that cannot be read is UNCORRECTABLE for its entry alone (R131, R396). -/
def readEntry (r : AttnRun) (all : List (AttnEnt × Option (List Nat))) (s : State)
    (read : List ((Nat × Option (List Nat)) × List BlockRead)) (e : AttnEnt × Option (List Nat)) :
    State × List ((Nat × Option (List Nat)) × List BlockRead) × Nat × List (Nat × List Byte) :=
  match e.2 with
  | none => (noteRead s e.1.hlist (8 * e.1.nblk) (some r.part) r.ctx r.queue, read, St.uncorrectable, [])
  | some hs =>
    match (if allSealed s hs then read.find? (fun x => x.1 == groupKey e) else none) with
    | some x => (s, read, entryBlocks s r e.1 x.2)
    | none =>
      let a := readGroup r (groupOf s all e) hs e.1.first s []
      (a.1, read ++ [(groupKey e, a.2)], entryBlocks a.1 r e.1 a.2)

/-- Entries run in order at their executing module: the state, and of each the status, its triples and its NaN row-heads. -/
def runEntries (r : AttnRun) (all : List (AttnEnt × Option (List Nat))) : List (AttnEnt × Option (List Nat)) → State →
    List ((Nat × Option (List Nat)) × List BlockRead) → List (Nat × List Byte × Nat) → State × List (Nat × List Byte × Nat)
  | [], s, _, out => (s, out)
  | e :: es, s, read, out =>
    let a := readEntry r all s read e
    let t := entryTriples r e.1 (a.2.2.1 == St.ok) a.2.2.2
    runEntries r all es a.1 a.2.1 (out ++ [(a.2.2.1, t.1, t.2)])

/-! ## Checks of a descriptor (R130, R227) -/

/-- Header fields, other than GEOM, in their ranges (R130 step 1). -/
def hdrFieldsOk (h : AttnHdr) : Bool :=
  decide (1 ≤ h.nent ∧ h.nent ≤ 4096 ∧ h.qfmt ≠ 3 ∧ h.wfmt ≠ 3 ∧ 1 ≤ h.hq ∧ h.hq ≤ 1024 ∧ 1 ≤ h.nrows ∧ h.nrows ≤ 4096)

/-- The remaining header faults (R130 step 4). -/
def hdrShapeOk (h : AttnHdr) (hkv : Nat) : Bool :=
  decide (h.hq % hkv = 0 ∧ h.hq / hkv ≤ 64 ∧ h.qbase % 256 = 0 ∧ h.pbase % 256 = 0)

/-- An entry's fields (R130 step 4). -/
def entOk (s : State) (p : Nat) (h : AttnHdr) (e : AttnEnt) : Bool :=
  decide (1 ≤ e.nblk ∧ e.nblk ≤ 4096 ∧ 1 ≤ e.nq ∧ e.nq ≤ 1024 ∧ e.qrow + e.nq ≤ h.nrows ∧ e.hlist % 8 = 0)
    && (!e.useReq || decide (e.req < recordCount s p))

/-- The key of an attend (R225, R227). -/
def attendKey (h : AttnHdr) (g : Geom) : Nat :=
  let heads := h.hq / 2 ^ g.hkvLog2
  g.tCode + g.format * 4 + g.hkvLog2 * 16 + g.dCode * 128 + h.qfmt * 512
    + (if g.format = 0 then 1 else h.pmode) * 2048 + h.ofmt * 4096 + flag (h.window != 0) * 8192 + heads * 65536

/-- Does every present engine of a partition bind a key (R227). -/
def boundEverywhere (s : State) (p key : Nat) : Bool :=
  (presentEngines s p).all (fun n => (AMap.getD (partOf s p).bindings n []).any (fun b => b.1 == key))

/-- Is an entry local to a partition (R128). -/
def isLocal (s : State) (p : Nat) (e : AttnEnt) : Bool := (e.tdomain, e.tep) == me s && e.tpart == p

/-- Memory that an attend names, in the order of R130 step 5. -/
def attendRegions (d : Nat) (h : AttnHdr) (es : List AttnEnt) : List (Nat × Nat) :=
  es.map (fun e => (e.hlist, 8 * e.nblk))
    ++ [(h.qbase, queryLen h.qfmt h.hq d h.nrows), (h.pbase, outputLen h d es)]

/-- The engines of a partition begin an instruction of it: one that ran another partition's last is zeroed first (R32). -/
def takeEngines (s : State) (p : Nat) : State :=
  { s with engines := (presentEngines s p).foldl (fun m n =>
      let e := AMap.getD m n {}
      AMap.insert m n (if e.last = some p then e else { last := some p })) s.engines }

/-- The engines end an instruction: scratch and accumulators hold what its act left there, undefined for any other (R31). -/
def leaveEngines (s : State) (p : Nat) : State :=
  draw { s with engines := (presentEngines s p).foldl (fun m n =>
      AMap.insert m n { AMap.getD m n {} with scratch := some s.freeCtr, accums := some s.freeCtr }) s.engines }

/-! ## Remote requests (R148 to R151) -/

/-- The distinct targets of the remote entries, in order of their first entries. -/
def remoteTargets (s : State) (p : Nat) (es : List AttnEnt) : List (Nat × Nat × Nat) :=
  ((es.filter (fun e => !isLocal s p e)).map (fun e => (e.tdomain, e.tep, e.tpart))).eraseDups

/-- The MX blocks of query rows narrowed by the transcoder: scale, elements, elements clipped, and whether the block is sent
as NaN (R148, R250). -/
def wireBlocks (h : AttnHdr) (d : Nat) (q : List Byte) (rows : List Nat) (wire : Nat) : List (Nat × List Nat × Nat × Bool) :=
  let cells := (rows.map (fun r => (List.range h.hq).map (fun x => (r, x)))).flatten
  (cells.map (fun c =>
    let x := queryRow h.qfmt h.nrows h.hq d q c.1 c.2
    let gs := pieces 32 x.1
    let vals := if x.2.isEmpty then gs else (gs.zip x.2).map (fun e => e.1.map (fun v => fpMulExact v (scaleValue e.2)))
    vals.map (mxBlock wire none))).flatten

/-- Query rows in the wire format: as they are, or narrowed to MXFP8 by the transcoder (R148, R250). -/
def wireQuery (h : AttnHdr) (d : Nat) (q : List Byte) (rows : List Nat) (wire : Nat) : List Byte :=
  let cells := (rows.map (fun r => (List.range h.hq).map (fun x => (r, x)))).flatten
  if wire = h.qfmt then
    if wire = 0 then (cells.map (fun c => (q.drop ((c.1 * h.hq + c.2) * d * 2)).take (d * 2))).flatten
    else (cells.map (fun c => (q.drop ((c.1 * h.hq + c.2) * d)).take d)).flatten
      ++ (cells.map (fun c => (q.drop (h.nrows * h.hq * d + (c.1 * h.hq + c.2) * (d / 32))).take (d / 32))).flatten
  else
    let blocks := wireBlocks h d q rows wire
    (blocks.map (fun b => toBytes b.2.1)).flatten ++ toBytes (blocks.map (·.1))

/-- The wire format of a request to a target: the network-on-chip does not narrow (R128, R148). -/
def wireFormat (s : State) (h : AttnHdr) (target : Nat × Nat) : Nat :=
  if h.wfmt = 0 ∨ target = me s then h.qfmt else h.wfmt

/-- The rows that some entries use, ascending (R149). -/
def usedRows (nrows : Nat) (es : List AttnEnt) : List Nat :=
  (List.range nrows).filter (fun r => es.any (fun e => decide (e.qrow ≤ r ∧ r < e.qrow + e.nq)))

/-- Entries as they travel: HLIST an offset into the message, QROW an index into the query section (R149). -/
def wireEntries (rows : List Nat) (base : Nat) : List AttnEnt → List AttnEnt
  | [] => []
  | e :: es => { e with hlist := base, qrow := (rows.filter (· < e.qrow)).length, useReq := false }
      :: wireEntries rows (base + 8 * e.nblk) es

/-- The body of an ATTEND_REQ: header, entries, handles, query section (R149). -/
def requestBody (s : State) (h : AttnHdr) (d : Nat) (q : List Byte) (es : List (AttnEnt × List Nat))
    (target : Nat × Nat) : List Byte × Nat :=
  let rows := usedRows h.nrows (es.map Prod.fst)
  let wire := wireFormat s h target
  let h' : AttnHdr := { h with nent := es.length, qfmt := wire, wfmt := 0, nrows := rows.length, qbase := 0, pbase := 0 }
  (attnHdrBytes h' ++ ((wireEntries rows (128 + 48 * es.length) (es.map Prod.fst)).map attnEntBytes).flatten
    ++ (es.map (fun e => (e.2.map (toLe 8)).flatten)).flatten ++ wireQuery h d q rows wire, rows.length)

/-- The port that an ATTEND_REQ to a target leaves by, once it has been sent (R23, R341, R377). -/
def requestPort (s : State) (p : Nat) (t : Nat × Nat × Nat) : Option Nat :=
  if (t.1, t.2.1) = me s then none
  else if t.1 = (me s).1 then planeOf (pathSet s p t.2.1) 0 t.2.1 (me s).2
  else
    match (deviceConn s p t.2.2 (t.1, t.2.1)).2 with
    | some n => (connPort s n).map (· + 16)
    | none => none

/-- The narrowing of a query section counted in the attention stream of its port (R244, R260). -/
def countAttention (s : State) (p : Nat) (t : Nat × Nat × Nat) (blocks : List (Nat × List Nat × Nat × Bool)) : State :=
  match requestPort s p t with
  | none => s
  | some port => modStream s port 0xFF (fun x =>
      { x with total := min (2 ^ 48 - 1) (x.total + 32 * blocks.length)
               clipped := min (2 ^ 48 - 1) (x.clipped + (blocks.map (fun b => b.2.2.1)).sum)
               nanBlocks := min 0xFFFF (x.nanBlocks + (blocks.filter (fun b => b.2.2.2)).length) })

/-- REMOTE_WAIT in ns (R157). -/
def remoteWaitNs (s : State) (p : Nat) : Nat := 1000 * max 10 (partOf s p).remoteWait

/-- LATE_BOUND in ns (R153, R157). -/
def lateBoundNs (s : State) (p : Nat) : Nat := 1000 * max 1 (partOf s p).lateBound

/-- One ATTEND_REQ to each target (R148). It is of the step of the micro-batch that its queue stepped last: no ATTEND names one
(R418; DESIGN CHOICE, log entry 151). `es` holds the entries in descriptor order, with the handles of those that could be
read. -/
def sendRequests (w : IRef) (h : AttnHdr) (d : Nat) (q : List Byte) (es : List (AttnEnt × Option (List Nat))) :
    List (Nat × Nat × Nat) → State → State
  | [], s => s
  | t :: ts, s =>
    let target := (t.1, t.2.1)
    let mine := fun (e : AttnEnt) => (e.tdomain, e.tep, e.tpart) == t
    let carried := es.filterMap (fun e => if mine e.1 then e.2.map (fun hs => (e.1, hs)) else none)
    let b := requestBody s h d q carried target
    let (s1, tag) := takeTag s w.part
    let m : AttendMsg := { src := selfParty s1 w.part, tpart := t.2.2, target := target, tag := tag, nent := carried.length
                           nrows := b.2, body := b.1 }
    let places := (List.range es.length).filter (fun i => match es[i]? with
      | some e => mine e.1 && e.2.isSome
      | none => false)
    let s2 := modPart s1 w.part (fun P => { P with remotes := P.remotes ++
      [⟨tag, w, target, t.2.2, places, s1.now, s1.now + remoteWaitNs s1 w.part, AMap.find? P.queueMb w.queue⟩] })
    let s3 := sendMsg s2 w.part 3 target t.2.2 (64 + b.1.length) (.attend true m)
    let wire := wireFormat s h target
    sendRequests w h d q es ts
      (if wire = h.qfmt then s3 else countAttention s3 w.part t (wireBlocks h d q (usedRows h.nrows (carried.map Prod.fst)) wire))

/-! ## ATTEND (R127 to R140, R239, R240) -/

/-- The descriptor that an ATTEND holds. -/
def heldHdr (i : Issued) : AttnHdr := attnHdr i.image
def heldEnts (i : Issued) : List AttnEnt := (pieces 48 (i.image.drop 64)).map attnEnt

/-- T of a geometry entry. -/
def geomT (s : State) (p geom : Nat) : Nat := 16 * 2 ^ (AMap.getD (partOf s p).geoms geom {}).tCode

/-- d of a geometry entry. -/
def geomD (s : State) (p geom : Nat) : Nat := 64 * 2 ^ (AMap.getD (partOf s p).geoms geom {}).dCode

/-- The outcome of entry n placed (R131): triples, status byte, and the counts of RESULT. -/
def placeOutcome (h : AttnHdr) (d : Nat) (es : List AttnEnt) (n st : Nat) (bytes : List Byte) (nans : Nat) (i : Issued) : Issued :=
  { i with
    result := i.result + (if st = St.ok then 0 else 1) + nans * 2 ^ 16
    effects := i.effects ++ [.devWrite (h.pbase + entryBase h d es n) bytes,
                             .devWrite (h.pbase + entryBase h d es es.length + n) [BitVec.ofNat 8 st]] }

/-- Empty triples for an entry. -/
def emptyTriples (h : AttnHdr) (d : Nat) (e : AttnEnt) : List Byte :=
  (List.replicate (e.nq * h.hq) (tripleBytes h.ofmt (emptyTriple d))).flatten

/-- Handles of an entry's list, as they stand. -/
def entHandles (s : State) (e : AttnEnt) : Option (List Nat) := (devRead s e.hlist (8 * e.nblk)).map wordList

/-- What stays of the entries for the ringmaster: where each one's triples lie and what it named (R155). -/
def sourceMarks (h : AttnHdr) (d : Nat) (es : List (AttnEnt × Option (List Nat))) : List Effect :=
  ((List.range es.length).zip es).map (fun e =>
    Effect.triples ⟨h.pbase + entryBase h d (es.map Prod.fst) e.1, entryLen h d e.2.1,
      if e.2.1.useReq then some e.2.1.req else none, e.2.2.getD []⟩)

/-- Does the ringmaster know a block as open: it stands in a request's table and its layer is not sealed that far (R60). -/
def knownOpen (s : State) (p h : Nat) : Bool :=
  (namedBy s p h).any (fun e => decide (layerSealedOf (recOf s p e.1) e.2.1 ≤ e.2.2))

/-- Sealed blocks that two or more remote entries with one target, range and handle list share (R147, R419). -/
def groupMarks (s : State) (p : Nat) (es : List (AttnEnt × Option (List Nat))) : List Effect :=
  let remote := es.filter (fun e => !isLocal s p e.1 && e.2.isSome && !(e.2.getD []).any (knownOpen s p))
  let key := fun (e : AttnEnt × Option (List Nat)) => ((e.1.tdomain, e.1.tep, e.1.tpart), groupKey e)
  let shared := (remote.filter (fun e => decide (2 ≤ (remote.filter (fun f => key f == key e)).length)))
  (shared.map (fun e =>
    ((List.range e.1.nblk).zip (e.2.getD [])).map (fun x => Effect.groupRead (e.1.first + x.1) x.2))).flatten.eraseDups

/-- The place that a block was copied to from a straggler: its handle there and its home (R419). -/
def rehomedTo (s : State) (p h : Nat) : Option (Nat × (Nat × Nat × Nat)) :=
  ((partOf s p).rehomed.find? (fun e => e.1 == h || e.2.1 == h)).map (·.2)

/-- A group entry whose blocks have all been copied from a straggler to one home goes there, by the handles they have there
(R419). One that would become local does so only where it names those handles already and its act is bound. -/
def rehomeEntry (s : State) (p : Nat) (bound : Bool) (all : List (AttnEnt × Option (List Nat))) (e : AttnEnt × Option (List Nat)) :
    AttnEnt × Option (List Nat) :=
  let key := fun (x : AttnEnt × Option (List Nat)) => ((x.1.tdomain, x.1.tep, x.1.tpart), groupKey x)
  match (e.2.getD []).map (rehomedTo s p) with
  | some (_, d) :: _ =>
    let hs := (e.2.getD []).map (fun h => (rehomedTo s p h).getD (h, (0, 0, 0)))
    let x : AttnEnt := { e.1 with tdomain := d.1, tep := d.2.1, tpart := d.2.2 }
    if !isLocal s p e.1 && hs.all (fun y => y.2 == d) && decide (2 ≤ (all.filter (fun f => key f == key e)).length)
        && (!isLocal s p x || (bound && some (hs.map (·.1)) == e.2)) then (x, some (hs.map (·.1)))
    else e
  | _ => e

/-- Island and instance of an engine number: AE[16] stands in EQ1 (R41, R476). -/
def engineIsland (s : State) (n : Nat) : Nat × Nat := if s.life.aeSpare = some n then (1, 4) else (n / 4, n % 4)

/-- Lead misses of a partition's units counted (R239). -/
def countMisses (s : State) (p : Nat) (misses : List (Nat × Nat)) : State :=
  misses.foldl (fun s m =>
    let e := engineIsland s m.1
    countEv (modPart s p (fun P => { P with leadMisses := (P.leadMisses + 1) % 2 ^ 32 })) e.1 0x010 (some e.2) (some p)) s

/-- A lead miss in an ATTEND with STRICT: LEAD_MISS, its record, its remote answers unwanted (R240). -/
def strictFault (s : State) (w : IRef) (m : Nat × Nat) : State :=
  let s1 := modPart s w.part (fun P => { P with remotes := P.remotes.filter (fun r => r.w != w) })
  let s2 := report s1 (ctxOf w) (some w.part) false
    { code := 0x02, part := w.part, queue := some w.queue, status := St.leadMiss, address := m.1, detail := m.2 % 2 ^ 24 }
  failWith s2 w St.leadMiss

/-- The act reads beyond the end of its unit's sequence: BAD_ACT, its remote answers unwanted (R231). -/
def actFault (s : State) (w : IRef) : State :=
  failWith (modPart s w.part (fun P => { P with remotes := P.remotes.filter (fun r => r.w != w) })) w St.badAct

/-- Bytes of an entry's triples that an act's broken obligation leaves undefined (R231). -/
def freeTriples (serial at_ n : Nat) : List Byte := (List.range n).map (fun k => Config.freeByte serial (at_ + k))

/-- NaN row-heads in a run of triples: those whose m is a NaN (R139). -/
def nanHeads (len : Nat) (bs : List Byte) : Nat :=
  ((pieces len bs).filter (fun t => fpOf32 (leAt t 0 4) == .nan)).length

/-- The triples and NaN row-heads of local entry n: as computed, or undefined where the act broke an obligation (R231). -/
def actTriples (act : ActRun) (serial : Nat) (h : AttnHdr) (d : Nat) (es : List AttnEnt) (n : Nat) (bytes : List Byte)
    (nans : Nat) : List Byte × Nat :=
  if act = .broken then
    let free := freeTriples serial (h.pbase + entryBase h d es n) bytes.length
    (free, nanHeads (tripleLen h.ofmt d) free)
  else (bytes, nans)

/-- The ATTEND completes once its local entries are done and no remote answer is awaited (R148). -/
def attendEnd (s : State) (w : IRef) : State :=
  if (partOf s w.part).remotes.any (fun r => r.w == w) then s
  else modIssued s w (fun i => if i.started && i.aux == 1 && i.status.isNone then { i with status := some St.ok } else i)

/-- Blocks that a run of entries reads: those of which some entry sees a row. -/
def blocksRead (window T : Nat) (es : List (AttnEnt × Option (List Nat))) : List Nat :=
  (es.map (fun e => (((List.range e.1.nblk).zip (e.2.getD [])).filter (fun x =>
    !(seenRows window T e.1 (e.1.first + x.1)).isEmpty)).map Prod.snd)).flatten

/-- Does a handle name a block of this home in a lower tier (R152, R153). -/
def inLowerTier (s : State) (h : Nat) : Bool := hHome h == me s && lowerTier s (hFrame (followed s h))

/-- Lead misses among what the row reports: at present engines, and only where some block that is read lies in no lower tier,
since a wait for a lower tier is no lead miss (R152, R239). -/
def leadMissesOf (s : State) (p window T : Nat) (es : List (AttnEnt × Option (List Nat))) (misses : List (Nat × Nat)) :
    List (Nat × Nat) :=
  if (blocksRead window T es).any (fun h => !inLowerTier s h) then misses.filter (fun m => (presentEngines s p).contains m.1)
  else []

/-- How an instruction's local entries run, with their query rows. -/
def localRun (s : State) (w : IRef) (i : Issued) (sh : Nat × Nat × Nat × Nat) (size : Nat) (q : List Byte) : AttnRun :=
  let h := heldHdr i
  { hdr := h, fmt := (AMap.getD (partOf s w.part).geoms h.geom {}).format, sh := sh, size := size, who := selfParty s w.part
    part := w.part, ctx := ctxOf w, queue := some w.queue, checks := i.checks, failed := i.bad, q := q }

/-- The local entries of a started ATTEND, with their handle lists. -/
def localEntries (s : State) (p : Nat) (i : Issued) : List (AttnEnt × Option (List Nat)) :=
  ((heldEnts i).filter (isLocal s p)).map (fun e => (e, entHandles s e))

/-- The reads of the local entries are issued: their blocks are checked (R134, R153). -/
def attendIssue (s : State) (w : IRef) : State :=
  match issuedOf s w with
  | none => s
  | some i =>
    match usableGeom s w.part (heldHdr i).geom with
    | none => s
    | some (sh, size) =>
      let a := checkBlocks (localRun s w i sh size []) (blocksRead (heldHdr i).window sh.1 (localEntries s w.part i)) s []
      modIssued a.1 w (fun i => { i with checks := a.2 })

/-- The local entries run on the partition's engines. -/
def attendLocal (s : State) (w : IRef) (misses : List (Nat × Nat)) (act : ActRun) : State :=
  match issuedOf s w with
  | none => s
  | some i =>
    let h := heldHdr i
    let es := heldEnts i
    match usableGeom s w.part h.geom with
    | none => s
    | some (sh, size) =>
      let d := sh.2.2.1
      let own := ((List.range es.length).zip es).filter (fun e => isLocal s w.part e.2)
      let run := own.map (fun e => (e.2, entHandles s e.2))
      match devRead s h.qbase (queryLen h.qfmt h.hq d h.nrows) with
      | none => readFault s w h.qbase (queryLen h.qfmt h.hq d h.nrows)
      | some q =>
        let ms := leadMissesOf s w.part h.window sh.1 run misses
        let s1 := countMisses (if own.isEmpty then s else takeEngines s w.part) w.part ms
        match (if flagOf i.words 24 then ms.head? else none) with
        | some m => strictFault s1 w m
        | none =>
          if act = .beyond ∧ own ≠ [] then actFault s1 w
          else
          let serial := s1.freeCtr
          let s1 := { s1 with freeCtr := serial + 1 }
          let r := localRun s1 w i sh size q
          let c := if i.checks.isEmpty then checkBlocks r (blocksRead h.window sh.1 run) s1 [] else (s1, i.checks)
          let a := runEntries { r with checks := c.2 } run run c.1 [] []
          let s2 := (own.zip a.2).foldl (fun s e =>
            let t := actTriples act serial h d es e.1.1 e.2.2.1 e.2.2.2
            modIssued s w (placeOutcome h d es e.1.1 e.2.1 t.1 t.2)) a.1
          attendEnd (modIssued (if own.isEmpty then s2 else leaveEngines s2 w.part) w (fun i => { i with aux := 1, checks := [] })) w

/-- Do the local entries read a block in a lower tier: its read takes time, and LATE_BOUND may pass (R152, R153). -/
def readsLower (s : State) (p window T : Nat) (es : List (AttnEnt × Option (List Nat))) : Bool :=
  (blocksRead window T (es.filter (fun e => isLocal s p e.1))).any (inLowerTier s)

/-- The entries of a descriptor by their addresses. -/
def entryAddrs (at_ nent : Nat) : List Nat := (List.range nent).map (fun n => at_ + 64 + 48 * n)

/-- The entries that the partition may access, as they stand; none where one of them cannot be read. -/
def readEnts (s : State) (p : Nat) : List Nat → Option (List AttnEnt)
  | [] => some []
  | a :: as =>
    if mayAccess s p a 48 then
      match devRead s a 48, readEnts s p as with
      | some b, some es => some (attnEnt b :: es)
      | _, _ => none
    else readEnts s p as

/-- The checks of R130 that need the entries, in order: the rest of step 4 on those that can be read, step 5 on all memory that
the descriptor names, then steps 6 and 7. The status, or with ADDRESS the address. -/
def attendChecks (s : State) (p at_ : Nat) (h : AttnHdr) (es : List AttnEnt) : Option (Nat × Nat) :=
  match usableGeom s p h.geom with
  | none => some (St.badGeometry, 0)
  | some (sh, _) =>
    let g := AMap.getD (partOf s p).geoms h.geom {}
    if !es.all (entOk s p h) then some (St.badDescriptor, 0)
    else
      match ((entryAddrs at_ h.nent).map (fun a => (a, 48)) ++ attendRegions sh.2.2.1 h es).find? (fun (r : Nat × Nat) => !mayAccess s p r.1 r.2) with
      | some r => some (St.address, r.1)
      | none =>
        if es.any (fun e => e.useReq && (recOf s p e.req).rgen != e.rgen) then some (St.staleRequest, 0)
        else if es.any (isLocal s p) && !boundEverywhere s p (attendKey h g) then some (St.badAct, 0)
        else none

/-- The checks that need no entries (R130 steps 1 to 4). -/
def attendHdrChecks (s : State) (p : Nat) (h : AttnHdr) : Option Nat :=
  if !hdrFieldsOk h then some St.badDescriptor
  else
    match usableGeom s p h.geom with
    | none => some St.badGeometry
    | some (sh, _) =>
      if (AMap.getD (partOf s p).geoms h.geom {}).format = 0 ∧ h.qfmt ≠ 0 then some St.badFormat
      else if !hdrShapeOk h sh.2.1 then some St.badDescriptor
      else none

/-- The bound B of an entry written into VISIBLE (R133). -/
def boundEntry (s : State) (p : Nat) (e : AttnEnt) : AttnEnt :=
  if e.useReq then { e with visible := min e.visible (recOf s p e.req).w } else e

/-- Remote entries whose handle lists cannot be read are not sent: UNCORRECTABLE for each alone (R131, R396). -/
def refuseUnread (s : State) (w : IRef) (h : AttnHdr) (d : Nat) (es : List (AttnEnt × Option (List Nat))) : State :=
  ((List.range es.length).zip es).foldl (fun s e =>
    if isLocal s w.part e.2.1 || e.2.2.isSome then s
    else modIssued (noteRead s e.2.1.hlist (8 * e.2.1.nblk) (some w.part) (ctxOf w) (some w.queue)) w
      (placeOutcome h d (es.map Prod.fst) e.1 St.uncorrectable (emptyTriples h d e.2.1) 0)) s

/-- A checked ATTEND starts: what it keeps, its remote requests, then its local entries (R133, R148, R153). -/
def attendGo (s : State) (w : IRef) (h : AttnHdr) (d T : Nat) (es : List AttnEnt) (q : List Byte) (misses : List (Nat × Nat))
    (act : ActRun) : State :=
  let p := w.part
  let listed := (es.map (boundEntry s p)).zip (es.map (entHandles s))
  let actBound := boundEverywhere s p (attendKey h (AMap.getD (partOf s p).geoms h.geom {}))
  let bound := listed.map (rehomeEntry s p actBound listed)
  let serial := s.freeCtr
  let s1 := modIssued (makeUndef s h.pbase (outputLen h d es)) w (fun i => { i with
    started := true, sentAt := s.now, due := s.now + lateBoundNs s p
    effects := sourceMarks h d bound ++ groupMarks s p bound, undefs := serial :: i.undefs
    image := attnHdrBytes h ++ ((bound.map Prod.fst).map attnEntBytes).flatten })
  let sent := bound.filter (fun e => e.2.isSome)
  let s2 := sendRequests w h d q bound (remoteTargets s p (sent.map Prod.fst)) (refuseUnread s1 w h d bound)
  if readsLower s p h.window T bound then attendIssue s2 w else attendLocal s2 w misses act

/-- The ATTEND's start: its checks in the order of R130, then its work (R130, R133, R148). -/
def attendStart (s : State) (w : IRef) (i : Issued) (misses : List (Nat × Nat)) (act : ActRun) : State :=
  let p := w.part
  let at_ := addrB i.words
  match devRead s at_ 64 with
  | none => readFault s w at_ 64
  | some hb =>
    let h := attnHdr hb
    match attendHdrChecks s p h with
    | some st => failWith s w st
    | none =>
      match readEnts s p (entryAddrs at_ h.nent) with
      | none => readFault s w (at_ + 64) (48 * h.nent)
      | some es =>
        match attendChecks s p at_ h es with
        | some (st, a) => if st = St.address then addressFault s w a else failWith s w st
        | none =>
          let d := geomD s p h.geom
          match devRead s h.qbase (queryLen h.qfmt h.hq d h.nrows) with
          | none => readFault s w h.qbase (queryLen h.qfmt h.hq d h.nrows)
          | some q => attendGo s w h d (geomT s p h.geom) es q misses act

/-- ATTEND (0x20; R127 to R156, R217, R231). Its first run checks it and starts it; where lower-tier blocks are read, a second run
finds them placed. -/
def execAttend (w : IRef) (misses : List (Nat × Nat)) (act : ActRun) (s : State) : Answer :=
  withInstr s w 0x20 fun i =>
    if !i.started then attendStart s w i misses act
    else if i.aux = 0 then attendLocal s w misses act
    else attendEnd s w

/-! ## ATTEND_REQ at the target (R150) -/

/-- An ATTEND_RESP to a requester (R149). -/
def answerAttend (s : State) (m : AttendMsg) (status : Nat) (body : List Byte) : State :=
  let a : AttendMsg := { status := status, src := selfParty s m.tpart, tpart := m.src.part, target := (m.src.domain, m.src.ep)
                         tag := m.tag, nent := if status = St.ok then m.nent else 0, nrows := 0, body := body }
  sendMsg s m.tpart 3 (m.src.domain, m.src.ep) m.src.part (64 + body.length) (.attend false a)

/-- The entries that a request carries with their handles (R149). -/
def requestEntries (m : AttendMsg) : List (AttnEnt × List Nat) :=
  let h := attnHdr m.body
  ((pieces 48 ((m.body.drop 64).take (48 * h.nent))).map attnEnt).map (fun e =>
    (e, wordList ((m.body.drop (e.hlist - 64)).take (8 * e.nblk))))

/-- Does a target find a remote request malformed (R130, R131). -/
def requestMalformed (s : State) (m : AttendMsg) : Bool :=
  let h := attnHdr m.body
  let es := requestEntries m
  match attendHdrChecks s m.tpart h with
  | some _ => true
  | none =>
    let d := geomD s m.tpart h.geom
    m.nent != h.nent || m.nrows != h.nrows || es.length != h.nent
      || es.any (fun e => !entOk s m.tpart h e.1 || e.2.length != e.1.nblk)
      || decide (m.body.length < queryLen h.qfmt h.hq d h.nrows)

/-- The refusal of a whole request; none when it is accepted (R131, R150). -/
def requestRefusal (s : State) (m : AttendMsg) : Option Nat :=
  if !composed s m.tpart || (partOf s m.tpart).state != .running || roleOf s == rolePrompt then some St.noAttend
  else
    match claimCheck s m.src with
    | some st => some st
    | none =>
      if requestMalformed s m then some St.badDescriptor
      else
        let h := attnHdr m.body
        if boundEverywhere s m.tpart (attendKey h (AMap.getD (partOf s m.tpart).geoms h.geom {})) then none else some St.noAttend

/-- ATTEND_REQ: refused as a whole, or held in TPART's attend inbox; with a full inbox it waits where it is, which holds its
sender back (R150). -/
def execAttendReq (m : AttendMsg) (s : State) : Answer :=
  let o := Out.attend true m
  if !ready s || !nocFirst s o then .next s
  else if m.level ≠ 1 then .next (strayMsg (takeNoc s o))
  else
    match requestRefusal s m with
    | some st => .next (answerAttend (takeNoc s o) m st [])
    | none =>
      if attendRoom s m then
        .next (modPart (takeNoc s o) m.tpart (fun P => { P with attendInbox := P.attendInbox ++ [m] }))
      else .next (stayNoc s o)

/-- The query section of a request, after its handles (R149). -/
def requestQuery (m : AttendMsg) (d : Nat) : List Byte :=
  let h := attnHdr m.body
  m.body.drop (m.body.length - queryLen h.qfmt h.hq d h.nrows)

/-- The queue number by which rows name the request that a partition's attend inbox serves: after its 64 queues and the
ringmaster's own (R150, R415). -/
abbrev inboxQueue : Nat := 65

/-- How an inbox request's entries run. -/
def inboxRun (s : State) (m : AttendMsg) (sh : Nat × Nat × Nat × Nat) (size : Nat) (checks : List (Nat × Nat × Nat))
    (bad : List Nat) : AttnRun :=
  let h := attnHdr m.body
  { hdr := h, fmt := (AMap.getD (partOf s m.tpart).geoms h.geom {}).format, sh := sh, size := size, who := m.src, part := m.tpart
    ctx := none, queue := none, checks := checks, failed := bad, q := requestQuery m sh.2.2.1 }

/-- The entries of an inbox request as they run. -/
def inboxEntries (m : AttendMsg) : List (AttnEnt × Option (List Nat)) := (requestEntries m).map (fun e => (e.1, some e.2))

/-- The blocks of an inbox request checked (R134, R150). -/
def checkInbox (s : State) (m : AttendMsg) : State × List (Nat × Nat × Nat) :=
  match usableGeom s m.tpart (attnHdr m.body).geom with
  | none => (s, [])
  | some (sh, size) => checkBlocks (inboxRun s m sh size [] []) (blocksRead (attnHdr m.body).window sh.1 (inboxEntries m)) s []

/-- One inbox request run on the partition's engines and answered (R150), with its blocks as checked. The row names no lead miss
and no broken act of such a run, so both are free, and an act that reads beyond its unit's sequence, for which no answer is
named, does not occur in one (R231, R239; log entry 73). -/
def runAttendReq (s : State) (m : AttendMsg) (checks : List (Nat × Nat × Nat)) (bad : List Nat) : State :=
  let h := attnHdr m.body
  let p := m.tpart
  match usableGeom s p h.geom with
  | none => answerAttend s m St.badDescriptor []
  | some (sh, size) =>
    let r := inboxRun s m sh size checks bad
    let run := inboxEntries m
    let k := s.freeCtr
    let s1 := countMisses (takeEngines (draw s) p) p (leadMissesOf s p h.window sh.1 run (Config.inboxMisses k))
    let a := runEntries r run run s1 [] []
    let sts := toBytes (a.2.map (fun x => x.1))
    let triples := (a.2.map (fun x => x.2.1)).flatten
    answerAttend (leaveEngines a.1 p) m St.ok
      ((if Config.inboxBroken k then freeTriples k 0 triples.length else triples) ++ padTo (alignUp sts.length 8) 0 sts)

/-- The head of a partition's attend inbox served (R150). One that reads a lower tier is served in two runs: the first issues
its reads, with their deadline (R153). -/
def serveInbox (s : State) (p : Nat) : State :=
  let P := partOf s p
  match P.attendInbox with
  | [] => s
  | m :: ms =>
    let h := attnHdr m.body
    let lower := (blocksRead h.window (geomT s p h.geom) (inboxEntries m)).any (inLowerTier s)
    let done := fun (s : State) => modPart s p (fun P => { P with attendInbox := ms, inboxDue := none, inboxChecks := [], inboxBad := [] })
    if P.inboxDue.isSome then runAttendReq (done s) m P.inboxChecks P.inboxBad
    else
      let c := checkInbox s m
      if lower then modPart c.1 p (fun P => { P with inboxDue := some (s.now + lateBoundNs s p), inboxChecks := c.2 })
      else runAttendReq (done c.1) m c.2 P.inboxBad

/-! ## Answers to remote requests (R148, R151, R418) -/

/-- The status of one entry of a remote request: all of them empty (R131). -/
def refuseEntries (s : State) (r : Remote) (st : Nat) : State :=
  match issuedOf s r.w with
  | none => s
  | some i =>
    let h := heldHdr i
    let es := heldEnts i
    let d := geomD s r.w.part h.geom
    let s1 := r.entries.foldl (fun s n =>
      modIssued s r.w (placeOutcome h d es n st (emptyTriples h d (es.getD n default)) 0)) s
    attendEnd s1 r.w

/-- The triples and status bytes of a response placed (R131, R148). -/
def placeResponse (s : State) (r : Remote) (m : AttendMsg) : State :=
  match issuedOf s r.w with
  | none => s
  | some i =>
    let h := heldHdr i
    let es := heldEnts i
    let d := geomD s r.w.part h.geom
    let mine := r.entries.map (fun n => es.getD n default)
    let total := entryBase h d mine mine.length
    let s1 := ((List.range mine.length).zip r.entries).foldl (fun s e =>
      let x := mine.getD e.1 default
      let bytes := (m.body.drop (entryBase h d mine e.1)).take (entryLen h d x)
      let st := ((m.body.drop (total + e.1)).headD 0).toNat
      modIssued (noteFenced s r.w.part st) r.w (placeOutcome h d es e.2 st bytes (nanHeads (tripleLen h.ofmt d) bytes))) s
    attendEnd s1 r.w

/-- A remote request is no longer awaited. -/
def dropRemote (s : State) (p tag : Nat) : State :=
  modPart s p (fun P => { P with remotes := P.remotes.filter (fun r => r.tag != tag) })

/-- ATTEND_RESP (R148, R149, R151, R418): an unknown answer is discarded and counted, and so is one that comes after REMOTE_WAIT,
whose entries have HOME_LOST. -/
def execAttendResp (m : AttendMsg) (s : State) : Answer :=
  let o := Out.attend false m
  if !ready s || !nocFirst s o then .next s
  else if m.level ≠ 1 then .next (strayMsg (takeNoc s o))
  else
    let s := takeNoc s o
    let p := m.tpart
    match (partOf s p).remotes.find? (fun r => r.tag == m.tag && r.target == (m.src.domain, m.src.ep)) with
    | none => .next (countEv s Isl.cc 0x065 none (some p))
    | some r =>
      if r.due < s.now then .next (refuseEntries (dropRemote (countEv s Isl.cc 0x065 none (some p)) p m.tag) r St.homeLost) else
      let s1 := modPart (dropRemote s p m.tag) p (fun P =>
        { P with respTimes := P.respTimes ++ r.mb.toList.map (fun mb => (mb, r.target, s.now - r.sentAt)) })
      if m.status = St.ok then .next (placeResponse s1 r m) else .next (refuseEntries (noteFenced s1 p m.status) r m.status)

/-- REMOTE_WAIT_EXPIRY: no answer in time, or the target is reported dead: HOME_LOST (R151). -/
def execRemoteWaitExpiry (p tag : Nat) (dead : Bool) (s : State) : Answer :=
  match (partOf s p).remotes.find? (fun r => r.tag == tag) with
  | none => .next s
  | some r =>
    if ready s && (decide (r.due ≤ s.now) || (dead && reportedDead s p tag)) then
      .next (refuseEntries (clearReport (dropRemote s p tag) p tag) r St.homeLost)
    else .next s

/-! ## MERGE (R141 to R146) -/

/-- A source record of a MERGE job (R141). -/
structure MergeSrc where
  addr   : Nat
  staddr : Nat
  first  : Nat
  key    : Nat
  fmt    : Nat
deriving DecidableEq, Repr, Inhabited

def mergeSrc (bs : List Byte) : MergeSrc :=
  let c := leAt bs 0x10 8
  { addr := leAt bs 0 8, staddr := leAt bs 8 8, first := bits c 31 0, key := bits c 53 32, fmt := bits c 54 54 }

/-- A MERGE job (R141). -/
structure MergeJob where
  nsrc    : Nat
  out     : Nat
  nq      : Nat
  dest    : Nat
  dstatus : Nat
  srclist : Nat
deriving DecidableEq, Repr, Inhabited

def mergeJob (bs : List Byte) : MergeJob :=
  let a := leAt bs 0 8
  { nsrc := bits a 7 0, out := bits a 9 8, nq := bits a 31 16, dest := leAt bs 8 8, dstatus := leAt bs 16 8, srclist := leAt bs 24 8 }

/-- Insertion in merge order: ascending SRCKEY, then FIRSTBLK (R142). -/
def mergeInsert (x : MergeSrc) : List MergeSrc → List MergeSrc
  | [] => [x]
  | y :: ys => if x.key < y.key ∨ (x.key = y.key ∧ x.first ≤ y.first) then x :: y :: ys else y :: mergeInsert x ys

/-- Sources in merge order. -/
def mergeSort : List MergeSrc → List MergeSrc
  | [] => []
  | x :: xs => mergeInsert x (mergeSort xs)

/-- The triple that bytes hold; a BF16 o is widened exactly (R126, R142). -/
def tripleOf (fmt : Nat) (bs : List Byte) : Triple :=
  ⟨fpOf32 (leAt bs 0 4), fpOf32 (leAt bs 4 4),
   if fmt = 0 then (pieces 4 (bs.drop 8)).map (fun b => fpOf32 (fromLe b)) else (pieces 2 (bs.drop 8)).map (fun b => fpOfBf16 (fromLe b))⟩

/-- The merge of one row-head over the sources taken, in order (R142). -/
def mergeTriples (d : Nat) (ts : List Triple) : Triple :=
  if ts.any (fun t => t.m == .nan) then nanTriple d
  else
    let m := (ts.map (·.m)).foldl fpMax fpNegInf
    ts.foldl (fun (a : Triple) t =>
      let f := if t.m = fpNegInf then fpZero else fpExp2 (fpSub t.m m)
      { a with l := fpFma t.l f a.l, o := (t.o.zip a.o).map (fun e => fpFma e.1 f e.2) }) ⟨m, fpZero, List.replicate d fpZero⟩

/-- Is ls zero (R143). -/
def isZero (x : Fp) : Bool := match x with
  | .fin _ 0 _ => true
  | _ => false

/-- A merged row-head as its job writes it (R143). -/
def mergeOut (out : Nat) (t : Triple) : List Byte :=
  if out ≤ 1 then tripleBytes out t
  else (t.o.map (fun x =>
    let v := if isZero t.l then fpZero else fpDiv x t.l
    if out = 2 then toLe 4 (fpTo32 v) else toLe 2 (fpToBf16 v))).flatten

/-- Bytes of one row-head of a job's output. -/
def mergeOutLen (out d : Nat) : Nat := if out ≤ 1 then tripleLen out d else if out = 2 then 4 * d else 2 * d

/-- Are a job's own fields well formed (R141). -/
def jobFieldsOk (j : MergeJob) : Bool :=
  decide (1 ≤ j.nsrc ∧ j.nsrc ≤ 64 ∧ 1 ≤ j.nq ∧ j.nq ≤ 1024 ∧ j.dest % 256 = 0 ∧ j.srclist % 8 = 0)

/-- Have no two sources of a job equal SRCKEY and FIRSTBLK (R141). -/
def sourcesApart (srcs : List MergeSrc) : Bool := (srcs.map (fun x => (x.key, x.first))).eraseDups.length == srcs.length

/-- What a MERGE meets that ends it: memory that it may not access, or a word that cannot be read. -/
inductive MergeStop where
  | address (a : Nat)
  | unread (a n : Nat)

/-- Memory of a well-formed job (R141 to R143). -/
def jobRegions (d hq : Nat) (j : MergeJob) (srcs : List MergeSrc) : List (Nat × Nat) :=
  (j.dest, j.nq * hq * mergeOutLen j.out d) :: (j.dstatus, 1)
    :: (srcs.map (fun x => [(x.addr, j.nq * hq * tripleLen x.fmt d), (x.staddr, 1)])).flatten

/-- The entries whose triples a source record names (R155; log entry 33). -/
def entriesAt (P : Part) (x : MergeSrc) : List TripleSrc :=
  P.sources.filter (fun t => decide (t.start ≤ x.addr ∧ x.addr < t.start + t.len))

/-- The request that a job serves: that of a source whose triples an ATTEND wrote for it (R155; log entry 33). -/
def jobRequest (P : Part) (srcs : List MergeSrc) : Option Nat :=
  ((srcs.map (fun x => (entriesAt P x).filterMap (·.req))).flatten).head?

/-- The blocks that the entries of a job's sources with a status named (R155; log entry 33). -/
def jobBlocks (P : Part) (order : List (MergeSrc × Nat)) (st : Nat) : List Nat :=
  (((order.filter (fun e => e.2 == st)).map (fun e => ((entriesAt P e.1).map (·.handles)).flatten)).flatten).eraseDups

/-- A job's row-heads merged, each with its bytes and whether ls is 0 where OUT is 2 or 3, for which R143 says that it is
counted (DEDUCED, log entry 98). -/
def jobRows (s : State) (d hq : Nat) (j : MergeJob) (taken : List MergeSrc) : List (List Byte × Bool) :=
  (List.range (j.nq * hq)).map (fun n =>
    let t := mergeTriples d (taken.map (fun x =>
      tripleOf x.fmt ((devRead s (x.addr + n * tripleLen x.fmt d) (tripleLen x.fmt d)).getD [])))
    (mergeOut j.out t, decide (2 ≤ j.out) && isZero t.l))

/-- What a job comes to: its effects, its status, the request it serves, the blocks that its status speaks of, and its
row-heads with ls = 0. -/
structure JobDone where
  effects : List Effect
  status  : Nat
  req     : Option Nat := none
  blocks  : List Nat := []
  empties : Nat := 0
deriving DecidableEq, Repr

/-- The sources of a job, as far as they can be read. -/
def jobSources (s : State) (p : Nat) (j : MergeJob) : List MergeSrc :=
  if mayAccess s p j.srclist (32 * j.nsrc) then (pieces 32 ((devRead s j.srclist (32 * j.nsrc)).getD [])).map mergeSrc else []

/-- A malformed job: BAD_DESCRIPTOR at DSTATUS, and nothing else (R141). -/
def jobBad (j : MergeJob) (req : Option Nat) : JobDone :=
  { effects := [.devWrite j.dstatus [BitVec.ofNat 8 St.badDescriptor]], status := St.badDescriptor, req := req }

/-- A job whose sources stand in memory is done (R142 to R144). -/
def jobDone (s : State) (p d hq : Nat) (j : MergeJob) (srcs : List MergeSrc) : JobDone :=
  let order := (mergeSort srcs).map (fun x => (x, fromLe ((devRead s x.staddr 1).getD [])))
  let st := firstBad (order.map Prod.snd)
  let rows := jobRows s d hq j ((order.filter (fun e => e.2 == St.ok)).map Prod.fst)
  { effects := [.devWrite j.dest (rows.map Prod.fst).flatten, .devWrite j.dstatus [BitVec.ofNat 8 st]], status := st
    req := jobRequest (partOf s p) srcs, blocks := jobBlocks (partOf s p) order st, empties := (rows.filter Prod.snd).length }

/-- One job (R141 to R144): its own fields first, then its sources. Memory that the partition may not access, or that cannot be
read, ends the whole MERGE (DESIGN CHOICE, log entry 99). -/
def runJob (s : State) (p d hq : Nat) (j : MergeJob) : Except MergeStop JobDone :=
  if !mayAccess s p j.dstatus 1 then .error (.address j.dstatus)
  else if !jobFieldsOk j then .ok (jobBad j (jobRequest (partOf s p) (jobSources s p j)))
  else if !mayAccess s p j.srclist (32 * j.nsrc) then .error (.address j.srclist)
  else
    match devRead s j.srclist (32 * j.nsrc) with
    | none => .error (.unread j.srclist (32 * j.nsrc))
    | some lb =>
      let srcs := (pieces 32 lb).map mergeSrc
      if !sourcesApart srcs then .ok (jobBad j (jobRequest (partOf s p) srcs))
      else
        match (jobRegions d hq j srcs).find? (fun r => !mayAccess s p r.1 r.2) with
        | some r => .error (.address r.1)
        | none =>
          match ((jobRegions d hq j srcs).drop 2).find? (fun r => (devRead s r.1 r.2).isNone) with
          | some r => .error (.unread r.1 r.2)
          | none => .ok (jobDone s p d hq j srcs)

/-- Every job in order. -/
def runJobs (s : State) (p d hq : Nat) : List MergeJob → Except MergeStop (List JobDone)
  | [] => .ok []
  | j :: js =>
    match runJob s p d hq j with
    | .error e => .error e
    | .ok a =>
      match runJobs s p d hq js with
      | .error e => .error e
      | .ok as => .ok (a :: as)

/-- MERGE (0x21; R141 to R146, R155, R217). -/
def execMerge (w : IRef) (s : State) : Answer :=
  withInstr s w 0x21 fun i =>
    let p := w.part
    let at_ := addrB i.words
    match devRead s at_ 64 with
    | none => readFault s w at_ 64
    | some hb =>
      let njobs := bits (leAt hb 0 8) 15 0
      let dCode := bits (leAt hb 0 8) 17 16
      let hq := bits (leAt hb 0 8) 47 32
      if njobs = 0 ∨ 1024 < njobs ∨ dCode = 3 ∨ hq = 0 ∨ 1024 < hq then failWith s w St.badDescriptor
      else if !mayAccess s p (at_ + 64) (32 * njobs) then addressFault s w (at_ + 64)
      else
        match devRead s (at_ + 64) (32 * njobs) with
        | none => readFault s w (at_ + 64) (32 * njobs)
        | some jb =>
          match runJobs s p (64 * 2 ^ dCode) hq ((pieces 32 jb).map mergeJob) with
          | .error (.address a) => addressFault s w a
          | .error (.unread a n) => readFault s w a n
          | .ok rs =>
            let bad := (rs.filter (fun r => r.status != St.ok)).length
            let empties := (rs.map (·.empties)).foldl (· + ·) 0
            let jobs := rs.filterMap (fun r => r.req.map (fun q => (q, r.status, r.blocks)))
            let fx := (rs.map (·.effects)).flatten
            finish (undefWrites s w fx) w St.ok (bad + empties * 2 ^ 16) (fx ++ [.jobStatus jobs])

/-- The output area of an ATTEND by its descriptor as it stands (R131, R209). -/
def attendDest (s : State) (p at_ : Nat) : List (Nat × Nat) :=
  let h := attnHdr ((devRead s at_ 64).getD [])
  let es := (readEnts s p (entryAddrs at_ h.nent)).getD []
  if hdrFieldsOk h ∧ es.length = h.nent ∧ es ≠ [] then [(h.pbase, outputLen h (geomD s p h.geom) es)] else []

/-- The output areas and status bytes of a MERGE's jobs by its descriptor as it stands (R141, R209). -/
def mergeDest (s : State) (p at_ : Nat) : List (Nat × Nat) :=
  let hb := (devRead s at_ 64).getD []
  let n := bits (leAt hb 0 8) 15 0
  if 1024 < n ∨ !mayAccess s p (at_ + 64) (32 * n) then []
  else
    (((pieces 32 ((devRead s (at_ + 64) (32 * n)).getD [])).map mergeJob).filter jobFieldsOk).map (fun j =>
      [(j.dest, j.nq * bits (leAt hb 0 8) 47 32 * mergeOutLen j.out (64 * 2 ^ bits (leAt hb 0 8) 17 16)), (j.dstatus, 1)]) |>.flatten

/-! ## LOADACT (R225 to R229, R234) -/

/-- Engines of a partition that were present at its module's start (R234). -/
def startEngines (s : State) (p : Nat) : List Nat := (enginesOf s p).filter (bit s.life.present)

/-- Of these, the engines on the east die after spare mapping: quadrants 2 and 3, and AE[16] stands on the west die (R41). -/
def enginesEast (s : State) (p : Nat) : Nat :=
  ((startEngines s p).filter (fun n => decide (2 ≤ (engineIsland s n).1))).length

/-- Guaranteed rate of R234 as numerator and denominator, before its factor 3/4. -/
def leadRate (s : State) (p : Nat) : Nat × Nat :=
  let chans := channelsOf (sliceOf s p)
  let n := chans.length
  let e := (startEngines s p).length
  let ee := enginesEast s p
  let ne := (chans.filter (fun c => decide (12 ≤ c))).length
  let less := fun (a b : Nat × Nat) => if a.1 * b.2 ≤ b.1 * a.2 then a else b
  let two := less (n * 144, max 1 e) (256, 1)
  if (0 < ee ∨ 0 < ne) ∧ (ee < e ∨ ne < n) then less two (1536 * n, max 1 (max ((e - ee) * ne) (ee * (n - ne)))) else two

/-- AE_LEAD: PRIME, PERIOD16 and SPANS, of the engines present at the start (R234, R235). -/
def leadOf (s : State) (p : Nat) : Nat × Nat × Bool :=
  let r := leadRate s p
  let n := (channelsOf (sliceOf s p)).length
  let e := (startEngines s p).length
  let ee := enginesEast s p
  let ne := ((channelsOf (sliceOf s p)).filter (fun c => decide (12 ≤ c))).length
  let spans := (0 < ee ∨ 0 < ne) ∧ (ee < e ∨ ne < n)
  (if spans then 1620 else 1440, min 0xFFFF (ceilDiv (73728 * 4 * r.2) (10 * 3 * r.1)), decide spans)

/-- The checks of R226 on an image's header, other than DIGEST. -/
def actOk (s : State) (p stepping : Nat) (hb : List Byte) : Bool :=
  let len := leAt hb 0x0C 4
  let k := leAt hb 0x10 8
  let d := 64 * 2 ^ bits k 8 7
  let lead := leadOf s p
  leAt hb 0 4 == 0x4B414354 && leAt hb 4 1 == 1 && leAt hb 6 2 == 0x4801
    && decide (leAt hb 8 1 ≤ stepping ∧ stepping ≤ leAt hb 9 1)
    && len % 0x1000 == 0 && decide (0x1000 ≤ len ∧ len ≤ 0x40000)
    && decide (bits k 1 0 ≠ 3 ∧ bits k 3 2 ≠ 3 ∧ bits k 6 4 ≠ 7 ∧ bits k 8 7 ≠ 3 ∧ bits k 10 9 ≠ 3 ∧ bits k 15 14 = 0
        ∧ 1 ≤ bits k 22 16 ∧ bits k 22 16 ≤ 64)
    && decide (lead.1 ≤ leAt hb 0x18 2 ∧ lead.2.1 ≤ leAt hb 0x1A 2)
    && decide (1 ≤ leAt hb 0x1C 1 % 16 ∧ leAt hb 0x1C 1 % 16 ≤ 8)
    && decide (1 ≤ leAt hb 0x20 2 ∧ leAt hb 0x20 2 ≤ 1536)
    && leAt hb 0x22 2 == 786432 / d

/-- DIGEST over the header's first 64 bytes and the body (R225). -/
def actDigestOk (image : List Byte) : Bool :=
  sha384 (image.take 0x40 ++ image.drop 0x80) == (image.drop 0x40).take 48

/-- Engines that a LOADACT names: a mask, or with 0 every present engine of the partition (R217). -/
def actEngines (s : State) (p mask : Nat) : List Nat := if mask = 0 then presentEngines s p else setBits 16 mask

/-- Slots that a binding's act occupies: those of its image (R225, R226). -/
def bindingSlots (s : State) (engine slot : Nat) : Nat :=
  leAt (AMap.getD s.acts (engine * 64 + slot) []) 0x0C 4 / 0x1000

/-- Bindings of an engine whose slots overlap a run removed (R228). -/
def unbindSlots (s : State) (p engine slot n : Nat) : State :=
  modPart s p (fun P =>
    let kept := (AMap.getD P.bindings engine []).filter (fun b =>
      !decide (b.2 < slot + n ∧ slot < b.2 + max 1 (bindingSlots s engine b.2)))
    { P with bindings := AMap.insert P.bindings engine kept })

/-- An image copied into the slots of an engine (R226). -/
def copyAct (s : State) (engine slot : Nat) (image : List Byte) : State :=
  let ps := pieces 0x1000 image
  { s with acts := ((List.range ps.length).zip ps).foldl (fun m e => AMap.insert m (engine * 64 + slot + e.1) e.2) s.acts }

/-- The module's stepping (R2). -/
abbrev stepping : Nat := 0x21

/-- LOADACT (0x22; R226 to R229, R217): the bindings it overlaps go at its start, the act is bound at its commit. -/
def execLoadact (w : IRef) (s : State) : Answer :=
  withInstr s w 0x22 fun i =>
    let p := w.part
    let at_ := addrB i.words
    let slot := bits (opA i.words) 23 16
    let mask := bits (opA i.words) 15 0
    let engines := actEngines s p mask
    match devRead s at_ 128 with
    | none => readFault s w at_ 128
    | some hb =>
      let len := leAt hb 0x0C 4
      let n := len / 0x1000
      let sl := sliceOf s p
      if !actOk s p stepping hb then failWith s w St.badAct
      else if !engines.all ((enginesOf s p).contains ·) || slot < sl.actBase || sl.actBase + sl.actSlots < slot + n then
        failWith s w St.badOperand
      else if !mayAccess s p at_ len then addressFault s w at_
      else
        let s1 := engines.foldl (fun s e => unbindSlots s p e slot n) s
        match devRead s1 at_ len with
        | none => readFault s1 w at_ len
        | some image =>
          let s2 := engines.foldl (fun s e => copyAct s e slot image) s1
          if actDigestOk image then finish s2 w St.ok len [.bindAct engines (bits (leAt hb 0x10 8) 22 0) slot n]
          else failWith s2 w St.badAct

/-- The binding that a LOADACT's commit makes on each engine it names (R227). -/
def bindAct (s : State) (p : Nat) (engines : List Nat) (key slot : Nat) : State :=
  engines.foldl (fun s e => modPart s p (fun P =>
    let rest := (AMap.getD P.bindings e []).filter (fun b => b.1 != key)
    { P with bindings := AMap.insert P.bindings e (rest ++ [(key, slot)]) })) s

end Sys2Proof.Machine
end

