-- ==== Sys2Proof/Machine/Index.lean ====
section
/-! DEFINITION. The prefix index: searches, bands and holes, moves and re-spreads, the hall of mirrors and the thermal
throttle; SEEK, INSERT, DELETE, PAIR and SWEEP (10_prefix_index.md R270 to R295). -/

namespace Sys2Proof.Machine

/-! ## Runs and positions (R270, R389) -/

/-- First position of a partition's run and the position after its last, of the 262,144 that there are (R270). A record that
names a size of 0 or positions beyond them passes R432; the run then is what exists of it (log entry 117). -/
def ixRun (s : State) (p : Nat) : Nat × Nat :=
  let sl := sliceOf s p
  (1024 * min 256 sl.ixBase, 1024 * min 256 (sl.ixBase + sl.ixSize))

/-- Valid entries of a run, by position. -/
def runEntriesOf (m : AMap IxEntry) (lo hi : Nat) : AMap IxEntry := m.filter (fun e => decide (lo ≤ e.1 ∧ e.1 < hi))

/-- Address of a position's shadow (R389). -/
def shadowAddr (pos : Nat) : Nat := privateAddr (1184 * 2 ^ 20 + 64 * pos)

/-- The partition whose run holds a position. -/
def ixOwner (s : State) (pos : Nat) : Option Nat :=
  (List.range 16).find? (fun p => composed s p && decide ((ixRun s p).1 ≤ pos ∧ pos < (ixRun s p).2))

/-- Is a position's shadow uncorrectable (R289, R290). -/
def shadowLost (s : State) (pos : Nat) : Bool := s.index.shadowBad.contains pos || !(badWords s (shadowAddr pos) 64).isEmpty

/-- An entry stored or a position cleared. -/
def putPos (m : AMap IxEntry) (pos : Nat) : Option IxEntry → AMap IxEntry
  | some e => AMap.insert m pos e
  | none => AMap.erase m pos

/-- The shadow of a position written: its words are stored whole (R289, R395, R405). -/
def writeShadow (s : State) (pos : Nat) (e : Option IxEntry) : State :=
  rewriteWords { s with index := { s.index with shadow := putPos s.index.shadow pos e
                                                shadowBad := s.index.shadowBad.filter (· != pos) } } (shadowAddr pos) 64

/-- A position written: shadow and array (R289). -/
def writePos (s : State) (pos : Nat) (e : Option IxEntry) : State :=
  let s1 := writeShadow s pos e
  { s1 with index := { s1.index with array := putPos s1.index.array pos e } }

/-! ## Searches (R271, R281) -/

/-- Key bits that a search compares: bits [127:120] of a request-rule key are masked (R281). -/
def searchMask (key : Nat) : Nat := if bits key 143 128 = 2 then 2 ^ 144 - 1 - 255 * 2 ^ 120 else 2 ^ 144 - 1

/-- Does an entry match a key (R271). -/
def ixMatches (key : Nat) (e : IxEntry) : Bool :=
  Nat.land (Nat.land key e.mask) (searchMask key) == Nat.land e.value (searchMask key)

/-- The winning entry of a search in a run: the lowest position (R271). -/
def search (s : State) (p key : Nat) : Option (Nat × IxEntry) :=
  let r := ixRun s p
  List.find? (fun (e : Nat × IxEntry) => ixMatches key e.2) (runEntriesOf s.index.array r.1 r.2)

/-! ## Comparison with the shadow (R290) -/

/-- An entry of kind request rule. -/
def isRule (e : Option IxEntry) : Bool := match e with
  | some x => bits x.value 143 128 == 2
  | none => false

/-- One position compared: the state, and whether it was repaired or invalidated (R290). -/
def comparePos (s : State) (pos : Nat) : State × Bool :=
  let a := AMap.find? s.index.array pos
  if shadowLost s pos then
    let p := ixOwner s pos
    let s1 := writePos s pos none
    let s2 := { s1 with index := { s1.index with invalidated := min 0xFFFF (s1.index.invalidated + 1)
                                                 ruleLost := s1.index.ruleLost || isRule a } }
    (report s2 none p p.isNone { code := 0x09, part := p.getD 0, address := pos, detail := flag (isRule a) }, true)
  else
    let sh := AMap.find? s.index.shadow pos
    if a = sh then (s, false)
    else ({ s with index := { s.index with array := putPos s.index.array pos sh
                                           repaired := min 0xFFFF (s.index.repaired + 1) } }, true)

/-- Positions of a run that can differ from their shadow or hold a lost one. -/
def comparable (s : State) (lo hi : Nat) : List Nat :=
  let inRun := fun (x : Nat) => decide (lo ≤ x ∧ x < hi)
  ((AMap.keys s.index.array ++ AMap.keys s.index.shadow ++ s.index.shadowBad).filter inRun).eraseDups
    ++ (if s.mem.errors.isEmpty then [] else
          (List.range (hi - lo)).map (· + lo) |>.filter (fun x => shadowLost s x
            && (AMap.find? s.index.array x).isNone && (AMap.find? s.index.shadow x).isNone && !s.index.shadowBad.contains x))

/-- Every position of a run compared: the state, and repairs and invalidations (R291). -/
def sweepRun (s : State) (lo hi : Nat) : State × Nat :=
  (comparable s lo hi).foldl (fun a x =>
    let r := comparePos a.1 x
    (r.1, a.2 + (if r.2 then 1 else 0))) (s, 0)

/-- MIRROR_SWEEP: the background sweep compares every position of every run; a written SWEEP_PERIOD counts from the next one
(R291, R295). -/
def execMirrorSweep (s : State) : Answer :=
  if ready s && s.index.sweepEnable && decide (s.index.sweepAt + 100000000 * max 1 s.index.sweepForce ≤ s.now) then
    let s1 := ((List.range 16).filter (composed s)).foldl (fun s p => (sweepRun s (ixRun s p).1 (ixRun s p).2).1) s
    .next { s1 with index := { s1.index with sweepAt := s1.now, sweepForce := s1.index.sweepPeriod } }
  else .next s

/-! ## Thermal throttle (R293, R294) -/

/-- Threshold of a step. -/
def stepThreshold (k : Nat) : Nat := 90 + 5 * k

/-- The step after a sample: up while the next threshold is reached, down while 3 °C below this one's (R293). -/
def throttleStep (temp : Nat) (step : Nat) : Nat :=
  let up := ((List.range 4).filter (fun k => decide (stepThreshold (k + 1) ≤ temp))).length
  let keep := ((List.range 4).filter (fun k => decide (stepThreshold (k + 1) < temp + 3))).length
  max up (min step keep)

/-- IX_TEMP_SAMPLE (R293). -/
def execIxTempSample (celsius : Nat) (s : State) : Answer :=
  .next { s with index := { s.index with temp := celsius % 256, step := throttleStep celsius s.index.step } }

/-! ## SEEK (R272, R277, R292, R294) -/

/-- A result record (R277). -/
def seekRecord (hit : Option (Nat × IxEntry)) (verified repaired refused : Bool) : List Byte :=
  toLe 8 (match hit with
    | some e => e.2.result
    | none => 0)
  ++ toLe 8 ((match hit with
    | some e => e.1
    | none => 0) + flag hit.isSome * 2 ^ 24 + flag verified * 2 ^ 25 + flag repaired * 2 ^ 26 + flag refused * 2 ^ 27)

/-- A search that enters the array: charged to the index regulator and counted, with its winning entry (R271, R272, R321). -/
def searchOnce (s : State) (p key : Nat) : State × Option (Nat × IxEntry) :=
  let s1 := countEv (regTake s p 3 0 1) Isl.ix 0x070 none (some p)
  (s1, search s1 p key)

/-- The outcome of a search as its record: the state, the record and whether it hit. -/
def seekOutcome (s : State) (p : Nat) (hit : Option (Nat × IxEntry)) (verified repaired : Bool) : State × List Byte × Bool :=
  (if hit.isSome then countEv s Isl.ix 0x071 none (some p) else s, seekRecord hit (verified && hit.isSome) repaired false, hit.isSome)

/-- The search repeated after a repair or an invalidation: its hit is compared too, and VERIFIED says whether it was found
equal to its shadow (R290, R292; log entry 116). -/
def seekAgain (s : State) (p key : Nat) : State × List Byte × Bool :=
  let a := searchOnce s p key
  match a.2 with
  | none => seekOutcome a.1 p none false true
  | some e =>
    let c := comparePos a.1 e.1
    seekOutcome c.1 p a.2 (!c.2) true

/-- One search, or with `again` its repetition: the state, and the result record, whether it hit and whether it was refused; no
record where the repeated search has to wait for the index regulator (R272, R292, R294, R321). -/
def seekOne (s : State) (p key : Nat) (verify again : Bool) : State × Option (List Byte × Bool × Bool) :=
  if s.index.step = 4 then
    (countEv { regTake s p 3 0 1 with index := { s.index with refused := (s.index.refused + 1) % 2 ^ 32 } } Isl.ix 0x072 none (some p),
      some (seekRecord none false false true, false, true))
  else
    let done := fun (r : State × List Byte × Bool) => (r.1, some (r.2.1, r.2.2, false))
    if again then done (seekAgain s p key)
    else
      let a := searchOnce s p key
      match a.2 with
      | none => done (seekOutcome a.1 p none false false)
      | some e =>
        if verify then
          let c := comparePos a.1 e.1
          if !c.2 then done (seekOutcome c.1 p a.2 true false)
          else if regPasses c.1 p 3 0 1 then done (seekAgain c.1 p key)
          else (c.1, none)
        else done (seekOutcome a.1 p a.2 false false)

/-- The 144-bit key of a 24-byte key record (R277). -/
def keyOf (bs : List Byte) : Nat := leAt bs 0 16 + leAt bs 16 2 * 2 ^ 128

/-- What a run of searches has done: how many, their result bytes, the hits made before any refusal, whether there has been one,
and whether the repeated search of the next key waits (R294). -/
structure Seeks where
  bytes   : List Byte := []
  count   : Nat := 0
  hits    : Nat := 0
  refused : Bool := false
  again   : Bool := false

/-- Searches from a key on, as long as the index regulator passes them (R272, R321). -/
def seekFrom (p : Nat) (verify : Bool) : List Nat → State → Seeks → State × Seeks
  | [], s, x => (s, x)
  | k :: ks, s, x =>
    if !regPasses s p 3 0 1 then (s, x)
    else
      let a := seekOne s p k verify x.again
      match a.2 with
      | none => (a.1, { x with again := true })
      | some r => seekFrom p verify ks a.1
          { bytes := x.bytes ++ r.1, count := x.count + 1, hits := x.hits + if r.2.1 && !x.refused then 1 else 0
            refused := x.refused || r.2.2, again := false }

/-- SEEK (0x50; R272 to R279, R292, R294, R220). -/
def execSeek (w : IRef) (s : State) : Answer :=
  withInstr s w 0x50 fun i =>
    let p := w.part
    let n := bits (opA i.words) 15 0
    match devRead s (addrB i.words) (24 * n) with
    | none => readFault s w (addrB i.words) (24 * n)
    | some bs =>
      let keys := ((pieces 24 bs).map keyOf).drop i.aux
      let a := seekFrom p (flagOf i.words 24 || (partOf s p).verifyAll) keys s { refused := i.started, again := !i.held.isEmpty }
      let s1 := modIssued a.1 w (fun i => { i with
        aux := i.aux + a.2.count, result := i.result + a.2.hits, started := a.2.refused, held := if a.2.again then [1] else []
        effects := i.effects ++ [.devWrite (extAddr i.words 1 + 16 * i.aux) a.2.bytes] })
      if i.aux + a.2.count < n then s1
      else modIssued s1 w (fun i => { i with status := some (if i.started then St.busy else St.ok) })

/-! ## Entry records (R274 to R276) -/

/-- An entry record: its entry, OP and RESULT. -/
structure IxRecord where
  entry : IxEntry
  op    : Bool
  ok    : Bool
deriving DecidableEq, Repr, Inhabited

/-- The record that 48 bytes hold, and whether R276 accepts it. -/
def ixRecord (bs : List Byte) : IxRecord :=
  let c := leAt bs 0x10 8
  let kind := bits c 15 0
  let mask := leAt bs 0x18 16 + bits c 31 16 * 2 ^ 128
  let value := leAt bs 0 16 + kind * 2 ^ 128
  { entry := { value := Nat.land value mask, mask := mask, band := bits c 39 32, result := leAt bs 0x28 8 }
    op := bit c 40
    ok := (kind == 1 || kind == 2 || decide (0x8000 ≤ kind)) && bits c 31 16 == 0xFFFF
            && (kind != 1 || mask == 2 ^ 144 - 1) }

/-- REPLACED and the old RESULT written back into a record (R274). -/
def writeBack (addr word : Nat) (old : Nat) : List Effect :=
  [.devWrite (addr + 0x10) (toLe 8 (putBit word 41 true)), .devWrite (addr + 0x28) (toLe 8 old)]

/-- Equality of R275. -/
def sameEntry (a b : IxEntry) : Bool := a.value == b.value && a.mask == b.mask

/-! ## Placement (R282 to R286) -/

/-- A run as a working copy: its bounds and its entries by position. -/
structure RunCopy where
  lo   : Nat
  hi   : Nat
  ents : AMap IxEntry
deriving DecidableEq, Repr

/-- May an insert fill a position of a run (R284). -/
def mayFill (r : RunCopy) (x : Nat) : Bool := decide (7 * (r.hi - r.lo) ≤ 8 * r.ents.length) || (x - r.lo) % 8 != 7

/-- May an insert fill a hole (R284). -/
def holeAllowed (r : RunCopy) (x : Nat) : Bool := (AMap.find? r.ents x).isNone && mayFill r x

/-- The eligible range of a band: first position and end (R282). -/
def bandRange (r : RunCopy) (b : Nat) : Nat × Nat :=
  (((r.ents.filter (fun e => decide (e.2.band < b))).map (fun e => e.1 + 1)).foldl max r.lo,
   ((r.ents.filter (fun e => decide (b < e.2.band))).map Prod.fst).foldl min r.hi)

/-- The lowest allowed hole in a range, looked for at most n positions on. -/
def lowestHole (r : RunCopy) : Nat → Nat → Nat → Option Nat
  | 0, _, _ => none
  | n + 1, x, e => if x < e then (if holeAllowed r x then some x else lowestHole r n (x + 1) e) else none

/-- The highest allowed hole below a position, looked for at most n positions down. -/
def highestHole (r : RunCopy) : Nat → Nat → Option Nat
  | 0, _ => none
  | n + 1, x => if x ≤ r.lo then none else if holeAllowed r (x - 1) then some (x - 1) else highestHole r n (x - 1)

/-- The nearest allowed hole outside a range; the lower position of two equally near (R285). -/
def nearestHole (r : RunCopy) (range : Nat × Nat) : Option Nat :=
  let n := r.hi - r.lo
  match highestHole r n range.1, lowestHole r n range.2 r.hi with
  | some a, some b => if range.1 - a ≤ b + 1 - range.2 then some a else some b
  | some a, none => some a
  | none, x => x

/-- Entries between a hole and the edge of the range move one after another, each into the hole before it: the copy, the
place opened and the moves made (R283, R285). -/
def shiftInto (r : RunCopy) (hole : Nat) (range : Nat × Nat) : RunCopy × Nat × List (Nat × Nat) :=
  let between := if hole < range.1 then (AMap.keys r.ents).filter (fun x => decide (hole < x ∧ x < range.1))
    else ((AMap.keys r.ents).filter (fun x => decide (range.2 ≤ x ∧ x < hole))).reverse
  between.foldl (fun (a : RunCopy × Nat × List (Nat × Nat)) x =>
    match AMap.find? a.1.ents x with
    | some e => ({ a.1 with ents := AMap.insert (AMap.erase a.1.ents x) a.2.1 e }, x, a.2.2 ++ [(x, a.2.1)])
    | none => a) (r, hole, [])

/-- What placing an entry gives: the run with it and the moves made, a re-spread first, or a failure (R285). -/
inductive Placing where
  | placed (r : RunCopy) (moves : List (Nat × Nat))
  | respread
  | failed (status : Nat)

/-- An entry placed at a hole of its band (R285 steps 2 to 5); `spread` says that a re-spread has been made for it, after
which the moves are made however many they are (log entry 114). Moves through a position that R284 keeps as a hole are not made:
the re-spread opens it first (log entry 115). -/
def placeEntry (r : RunCopy) (e : IxEntry) (limit : Nat) (spread : Bool) : Placing :=
  let range := bandRange r e.band
  match lowestHole r (r.hi - r.lo) range.1 range.2 with
  | some x => .placed { r with ents := AMap.insert r.ents x e } []
  | none =>
    match nearestHole r range with
    | none => .failed St.indexFull
    | some h =>
      let a := shiftInto r h range
      let fills := !(mayFill r a.2.1 && a.2.2.all (fun m => mayFill r m.2))
      if (limit < a.2.2.length ∨ fills) ∧ !spread then .respread
      else .placed { a.1 with ents := AMap.insert a.1.ents a.2.1 e } a.2.2

/-- The entry of a run that a record's is equal to (R275). -/
def oldEntry (r : RunCopy) (e : IxEntry) : Option IxEntry := (List.find? (fun (x : Nat × IxEntry) => sameEntry x.2 e) r.ents).map Prod.snd

/-- The moves that a change needs, made on a run r, with the place of a new entry taken there; `r0` is the run before the
instruction (R285, R287, R288). -/
def planChange (r0 r : RunCopy) (x : IxRecord) (limit : Nat) (spread : Bool) : Placing :=
  match oldEntry r0 x.entry with
  | some y => if x.op || y.band == x.entry.band then .placed r [] else placeEntry r x.entry limit spread
  | none => if x.op then .failed St.notFound else placeEntry r x.entry limit spread

/-- A change applied after every move, in one cycle: the old entry removed, or its result written in place (R285, R287, R288).
`m` is the run after the moves. -/
def makeChange (m r : RunCopy) (x : IxRecord) (old : Option IxEntry) : RunCopy :=
  match old.bind (fun y => List.find? (fun (e : Nat × IxEntry) => e.2 == y) m.ents) with
  | none => r
  | some (k, y) =>
    if x.op || y.band != x.entry.band then { r with ents := AMap.erase r.ents k } else { r with ents := AMap.insert r.ents k x.entry }

/-- The outcome of one record on a run: the run, the moves, the replaced entry's result. -/
inductive Applying where
  | done (r : RunCopy) (moves : List (Nat × Nat)) (old : Option Nat)
  | respread
  | failed (status : Nat)

/-- A record applied to a run: its moves, then the change (R285, R287). -/
def applyChange (r : RunCopy) (x : IxRecord) (limit : Nat) (spread : Bool) : Applying :=
  match planChange r r x limit spread with
  | .placed m ms => .done (makeChange m m x (oldEntry r x.entry)) ms ((oldEntry r x.entry).map (·.result))
  | .respread => .respread
  | .failed st => .failed st

/-- The run of a partition as it stands. -/
def runCopy (s : State) (p : Nat) : RunCopy :=
  let r := ixRun s p
  ⟨r.1, r.2, runEntriesOf s.index.array r.1 r.2⟩

/-- A run written back: every position that changed, shadow and array (R289). -/
def writeRun (s : State) (r : RunCopy) (moves p : Nat) : State :=
  let old := runEntriesOf s.index.array r.lo r.hi
  let changed := ((AMap.keys old ++ AMap.keys r.ents).eraseDups).filter (fun x => AMap.find? old x != AMap.find? r.ents x)
  let s1 := changed.foldl (fun s x => writePos s x (AMap.find? r.ents x)) s
  if moves = 0 then s1 else countEv s1 Isl.ix 0x073 none (some p) moves

/-- SHIFT_LIMIT in force (R295). -/
def shiftLimit (s : State) (p : Nat) : Nat := max 1 (partOf s p).shiftLimit

/-- A re-spread of the partition's run begins (R286). -/
def beginRespread (s : State) (p : Nat) : State := modPart s p (fun P => { P with respread := true })

/-- Position of entry k of n in a re-spread run: seven of every eight while R284 keeps holes, else the holes spread one per
floor(size / holes) positions (R284, R286). -/
def spreadPos (lo size n k : Nat) : Nat :=
  if 8 * n < 7 * size then lo + k / 7 * 8 + k % 7
  else
    let holes := size - n
    if holes = 0 then lo + k
    else
      let step := size / holes
      if step ≤ 1 then lo + k else lo + (if k / (step - 1) < holes then k / (step - 1) * step + k % (step - 1) else k + holes)

/-- A run re-spread: its entries in their order at their new positions, and how many moved (R286). -/
def respreadRun (r : RunCopy) : RunCopy × Nat :=
  let n := r.ents.length
  let new := ((List.range n).zip r.ents).map (fun e => (spreadPos r.lo (r.hi - r.lo) n e.1, e.2.2))
  ({ r with ents := new }, ((new.zip r.ents).filter (fun e => e.1.1 != e.2.1)).length)

/-- RESPREAD_DONE: the run has taken its placement; the SWEEPs that asked for it end (R286, R220). -/
def execRespreadDone (p : Nat) (s : State) : Answer :=
  if ready s && (partOf s p).respread then
    let a := respreadRun (runCopy s p)
    let s1 := modPart (writeRun s a.1 a.2 p) p (fun P => { P with respread := false })
    .next (modPart s1 p (fun P => { P with queues := P.queues.map (fun e => (e.1, { e.2 with
      issued := e.2.issued.map (fun i =>
        if i.status.isNone && opcodeOf i.words == 0x54 && i.started then { i with status := some St.ok, result := a.2 } else i) })) }))
  else .next s

/-! ## INSERT, DELETE, PAIR, SWEEP (R285 to R291, R220) -/

/-- Records of INSERT from one on, written in list order: the state, the effects, how many were written, and how it ended:
none with a re-spread first (R285). -/
def insertFrom (p base : Nat) (spread : Bool) : List (Nat × List Byte) → State → List Effect → Nat →
    State × List Effect × Nat × Option Nat
  | [], s, fx, n => (s, fx, n, some St.ok)
  | (k, bs) :: rest, s, fx, n =>
    match applyChange (runCopy s p) { ixRecord bs with op := false } (shiftLimit s p) (spread && n == 0) with
    | .failed st => (s, fx, n, some st)
    | .respread => (beginRespread s p, fx, n, none)
    | .done r ms old =>
      let back := match old with
        | some x => writeBack (base + 48 * k) (leAt bs 0x10 8) x
        | none => []
      insertFrom p base spread rest (writeRun s r ms.length p) (fx ++ back) (n + 1)

/-- INSERT (0x51): aux is twice the records written, plus 1 after a re-spread for the next one. -/
def execInsert (w : IRef) (s : State) : Answer :=
  withInstr s w 0x51 fun i =>
    let p := w.part
    let n := bits (opA i.words) 15 0
    if (partOf s p).respread then s
    else
      match devRead s (addrB i.words) (48 * n) with
      | none => readFault s w (addrB i.words) (48 * n)
      | some bs =>
        let recs := pieces 48 bs
        if !i.started && recs.any (fun r => !(ixRecord r).ok) then failWith s w St.badOperand
        else
          let a := insertFrom p (addrB i.words) (i.aux % 2 == 1) (((List.range n).zip recs).drop (i.aux / 2)) s [] 0
          let s1 := modIssued a.1 w (fun i => { i with
            started := true, aux := 2 * (i.aux / 2 + a.2.2.1) + 1, result := i.result + a.2.2.1, effects := i.effects ++ a.2.1 })
          modIssued s1 w (fun i => { i with status := a.2.2.2 })

/-- Records of DELETE in list order: the state, the effects, how many were deleted, whether one was not found (R287). -/
def deleteFrom (p base : Nat) : List (Nat × List Byte) → State → List Effect → Nat → Bool → State × List Effect × Nat × Bool
  | [], s, fx, n, miss => (s, fx, n, miss)
  | (k, bs) :: rest, s, fx, n, miss =>
    match applyChange (runCopy s p) { ixRecord bs with op := true } (shiftLimit s p) false with
    | .done r _ old => deleteFrom p base rest (writeRun s r 0 p) (fx ++ writeBack (base + 48 * k) (leAt bs 0x10 8) (old.getD 0)) (n + 1) miss
    | _ => deleteFrom p base rest s fx n true

/-- DELETE (0x52). -/
def execDelete (w : IRef) (s : State) : Answer :=
  withInstr s w 0x52 fun i =>
    let p := w.part
    let n := bits (opA i.words) 15 0
    if (partOf s p).respread then s
    else
      match devRead s (addrB i.words) (48 * n) with
      | none => readFault s w (addrB i.words) (48 * n)
      | some bs =>
        let recs := pieces 48 bs
        if recs.any (fun r => !(ixRecord r).ok) then failWith s w St.badOperand
        else
          let a := deleteFrom p (addrB i.words) ((List.range n).zip recs) s [] 0 false
          finish a.1 w (if a.2.2.2 then St.notFound else St.ok) a.2.2.1 a.2.1

/-- PAIR (0x53): every move first, then both changes or neither (R288). -/
def execPair (w : IRef) (s : State) : Answer :=
  withInstr s w 0x53 fun i =>
    let p := w.part
    if (partOf s p).respread then s
    else
      match devRead s (addrB i.words) 96 with
      | none => readFault s w (addrB i.words) 96
      | some bs =>
        let a := ixRecord (bs.take 48)
        let b := ixRecord (bs.drop 48)
        let lim := shiftLimit s p
        let r := runCopy s p
        let again := modIssued (beginRespread s p) w (fun i => { i with started := true })
        if !a.ok || !b.ok then failWith s w St.badOperand
        else
          match planChange r r a lim i.started with
          | .failed st => failWith s w st
          | .respread => again
          | .placed m1 ms1 =>
            match planChange r m1 b lim i.started with
            | .failed st => failWith s w st
            | .respread => again
            | .placed m2 ms2 =>
              let oa := oldEntry r a.entry
              let ob := oldEntry r b.entry
              let back := fun (off : Nat) (o : Option IxEntry) => match o with
                | some x => writeBack (addrB i.words + off) (leAt bs (off + 0x10) 8) x.result
                | none => []
              finish (writeRun s (makeChange m2 (makeChange m2 m2 a oa) b ob) (ms1.length + ms2.length) p) w St.ok 0
                (back 0 oa ++ back 48 ob)

/-- SWEEP (0x54): a comparison of the run, or with RESPREAD a re-spread (R286, R291). -/
def execSweep (w : IRef) (s : State) : Answer :=
  withInstr s w 0x54 fun i =>
    let p := w.part
    if flagOf i.words 24 then
      if i.started then s else modIssued (beginRespread s p) w (fun i => { i with started := true })
    else
      let r := ixRun s p
      let a := sweepRun s r.1 r.2
      finish a.1 w St.ok a.2

end Sys2Proof.Machine
end

