-- ==== Sys2Proof/Machine/Fabric.lean ====
section
/-! DEFINITION. The Fabric group: LOAD, STORE, ATOMIC and MSG at the module that issues them (07_instruction_set.md
R210, R221; 12_rack_fabric.md R335 to R351). -/

namespace Sys2Proof.Machine

/-- Endpoint of a Fabric instruction. -/
def fabricTarget (ws : List Nat) : Nat := bits (opA ws) 9 0

/-- The instruction's transactions are all sent: it ends when the last is answered (R350). -/
def allSent (s : State) (w : IRef) : State :=
  closeFabric (modIssued s w (fun i => { i with started := true, sentAt := s.now })) w

/-- LOAD (0x60; R221). -/
def execLoad (w : IRef) (s : State) : Answer :=
  withInstr s w 0x60 fun i =>
    if i.started then s
    else
      let ws := i.words
      let off := addrB ws
      let lines := bits (opA ws) 31 16
      let tc := classOf ws
      let s1 := (linePieces (flagOf ws 24) lines off (64 * lines)).foldl (fun s e =>
        let k : Packet := { ownPacket s w.part 1 tc (fabricTarget ws) 0 e.1 e.2 [] with plen := e.2 }
        sendTxn s { tag := 0, w := some w, op := 1, target := fabricTarget ws, addr := e.1, len := e.2
                    dst := extAddr ws 1 + (e.1 - off), part := w.part, tc := tc } [packetFrame k]) s
      allSent s1 w

/-- The pieces of a range that lie in one 4 KiB page each: offset and bytes (R341). -/
def pagePieces (off : Nat) (bs : List Byte) : List (Nat × List Byte) :=
  let n0 := min bs.length (4096 - off % 4096)
  let rest := pieces 4096 (bs.drop n0)
  (if n0 = 0 then [] else [(off, bs.take n0)]) ++
    ((List.range rest.length).zip rest).map (fun e => (off + n0 + 4096 * e.1, e.2))

/-- One page of a STORE: it leaves by its near port's transcoder, or waits (log entry 27). -/
def storePage (s : State) (w : IRef) (ws : List Nat) (range : Nat × Nat) (off : Nat) (bs : List Byte) : State :=
  sendCargo s { tag := 0, w := some w, op := 2, target := fabricTarget ws, addr := off, len := bs.length, part := w.part
                tc := classOf ws } { range := some range, wide := flagOf ws 24, bytes := bs }

/-- STORE (0x61; R221, R245). -/
def execStore (w : IRef) (s : State) : Answer :=
  withInstr s w 0x61 fun i =>
    if i.started then s
    else
      let ws := i.words
      let n := 64 * bits (opA ws) 31 16
      match devRead s (extAddr ws 1) n with
      | none => readFault s w (extAddr ws 1) n
      | some bs => allSent ((pagePieces (addrB ws) bs).foldl (fun s e => storePage s w ws (addrB ws, n) e.1 e.2) s) w

/-- ATOMIC (0x62; R221, R346). -/
def execAtomic (w : IRef) (s : State) : Answer :=
  withInstr s w 0x62 fun i =>
    if i.started then s
    else
      let ws := i.words
      let wide := bit (opA ws) 14
      let tc := classOf ws
      let k : Packet := { ownPacket s w.part 3 tc (fabricTarget ws) 0 (addrB ws) 16 (toLe 8 (extLo ws 1) ++ toLe 8 (extHi ws 1))
                          with aop := bits (opA ws) 13 10, aw := wide }
      allSent (sendTxn s { tag := 0, w := some w, op := 3, target := fabricTarget ws, addr := addrB ws
                           len := if wide then 8 else 4, part := w.part, tc := tc } [packetFrame k]) w

/-- MSG (0x63; R221, R338). The instruction names no partition at the target: partition 0 (log entry 29). -/
def execMsg (w : IRef) (s : State) : Answer :=
  withInstr s w 0x63 fun i =>
    if i.started then s
    else
      let ws := i.words
      let n := bits (opA ws) 31 16
      let tc := classOf ws
      let target := fabricTarget ws
      let addr := bits (extLo ws 1) 31 0
      match devRead s (addrB ws) n with
      | none => readFault s w (addrB ws) n
      | some bs =>
        allSent (sendCargo s { tag := 0, w := some w, op := 4, target := target, addr := addr, len := n, part := w.part, tc := tc }
          { tag := addr, bytes := bs }) w

end Sys2Proof.Machine
end

