-- ==== Sys2Proof/Machine/Poltex.lean ====
section
/-! DEFINITION. Poltex at a near port (12_rack_fabric.md R326 to R355): packets that arrive, the atomic units, dead
targets, link state, flits, lanes and training. -/

namespace Sys2Proof.Machine

/-! ## Arrival of a packet -/

/-- A list without its first entry for a packet. -/
def dropPlan (k : Packet) : List (Packet × Nat) → List (Packet × Nat)
  | [] => []
  | x :: xs => if x.1 = k then xs else x :: dropPlan k xs

/-- A packet leaves the receive buffer: its credits go back to the sender (R331), as many as its arrival took (R268, R269). -/
def freeBuffer (s : State) (k : Packet) : State :=
  modNear s k.port (fun n =>
    let u := match n.rxPlan.find? (fun x => x.1 == k) with
      | some x => x.2
      | none => ceilDiv (packetSize k) 64
    { n with rxUsed := AMap.insert n.rxUsed k.tc (AMap.getD n.rxUsed k.tc 0 - u)
             owed := AMap.insert n.owed k.tc (AMap.getD n.owed k.tc 0 + u), rxPlan := dropPlan k n.rxPlan })

/-- A packet that may have its place in the receive buffer gives it up. -/
def letGo (s : State) (held : Option Packet) : State :=
  match held with
  | some k => freeBuffer s k
  | none => s

/-- Does a packet go on to the atomic units with its place in the receive buffer (R347, R348). -/
def joinsUnits (k : Packet) : Bool := k.op == 3 || (k.op == 2 && (!k.seg || k.last))

/-- A packet that enters a near port that is UP: it waits where it must (R37, R343, R348), is taken off the network-on-chip
and out of its receive buffer, and is discarded with a protocol error when its level is not the agreed one or its DST is
reserved (R47, R336, R339). A packet for another endpoint of the domain is served as one for this module: R24 forbids to
forward it and the manual says no more (log entry 111). -/
def onPacket (k : Packet) (s : State) (f : State → State) : Answer :=
  if !ready s || !nocFirst s (.packet k) then .next s
  else if (nearPort s k.port).state ≠ .up then .next (takeNoc s (.packet k))
  else if s.noc.contains (.packet k) then
    if waitsBehind s k then .next s
    else
      let bad := k.level != (nearPort s k.port).level || decide (128 ≤ k.dst)
      let s1 := takeNoc (if joinsUnits k && !bad then s else freeBuffer s k) (.packet k)
      .next (if bad then protocolError s1 k.port else f s1)
  else if waitsBehind s k || s.noc.any (fun x => sameLane x (.packet k)) then .next { s with noc := s.noc ++ [.packet k] }
  else if k.level ≠ (nearPort s k.port).level ∨ 128 ≤ k.dst then .next (protocolError s k.port)
  else .next (f s)

/-- A response leaves by the port that its request came by (log entry 30). -/
def respond (s : State) (k : Packet) (part op status : Nat) (payload : List Byte) : State :=
  enqueue s k.port part k.tc none (packetLen payload.length)
    (.packet { ownPacket s part op k.tc k.src k.tag status payload.length payload with port := k.port })

/-- Type of the answer to a request (R336). -/
def answerOp (k : Packet) : Nat := if k.op = 1 then 8 else 9

/-- A request refused: answered with the status, no effect, its address logged (R345, R444). -/
def denyPacket (s : State) (k : Packet) (st : Nat) : State :=
  let c := concernedPart s k.src k.addr
  respond (violation s c 2 ((me s).1, k.src) k.addr none none st) k (c.getD 0) (answerOp k) st []

/-- Is n a size that a LOAD or a plain STORE has, and the address aligned to it (R335, R336; log entry 112). -/
def lineSized (a n : Nat) : Bool := (n == 64 || n == 256) && a % n == 0

/-- Do n bytes at an address lie within one aligned granule of 256 bytes (R345). -/
def inGranule (a n : Nat) : Bool := decide (1 ≤ n) && a / 256 == (a + n - 1) / 256

/-- Bytes that a STORE or ATOMIC touches. -/
def requestLen (k : Packet) : Nat := if k.op = 3 then (if k.aw then 8 else 4) else if k.op = 1 then k.plen else k.payload.length

/-- The verdict on a LOAD, STORE or ATOMIC (R266, R345): the accessor, or the refusal's status. -/
def poltexVerdict (s : State) (k : Packet) : Except Nat Access :=
  let n := requestLen k
  match poltexAccess s k with
  | none => .error St.address
  | some x =>
    if !inGranule k.addr n ∨ (k.op ≠ 3 ∧ !lineSized k.addr n) then .error St.address
    else if k.op = 3 ∧ k.addr % n ≠ 0 then .error St.address
    else if k.op = 3 ∧ 5 < k.aop then .error St.badOperand
    else if k.op = 2 ∧ (weightWindow s k.port k.addr n).isSome then .error St.address
    else
      let st := accessVerdict s x k.addr n (k.op != 1)
      if st = St.ok then .ok x else .error st

/-- May the source of a packet use a weight window of a partition (R266, R328). -/
def mayUseWindow (s : State) (k : Packet) (p : Nat) : Bool :=
  bit (nearPorts s p) k.port &&
    (match bindOf s k.src with
     | (1, q) => q == p
     | (2, _) => k.idx
     | _ => false)

/-- POLTEX_LOAD (R266, R345, R346). -/
def execPoltexLoad (k : Packet) (s : State) : Answer :=
  let k := { k with op := 1 }
  onPacket k s fun s =>
    match weightWindow s k.port k.addr k.plen with
    | some x =>
      if !mayUseWindow s k x.part || !inGranule k.addr k.plen then denyPacket s k St.address
      else
        match windowLoad s x k.addr k.plen with
        | .ok bs => respond (windowTook s x k.addr k.plen) k x.part 8 St.ok bs
        | .error e =>
          if e = St.address then denyPacket s k e
          else if e = St.uncorrectable then respond (noteRead s x.image 64 (some x.part) none none) k x.part 8 e []
          else respond s k x.part 8 e []
    | none =>
      match poltexVerdict s k with
      | .error st => denyPacket s k st
      | .ok x =>
        let r := outsideRead s x k.addr k.plen
        respond r.1 k x.part 8 r.2.1 r.2.2

/-! ## Trains (R338) -/

/-- The train replaced; an empty one is not kept. -/
def setTrain (s : State) (src tc : Nat) (bs : List Byte) : State :=
  let ts := s.poltex.trains.filter (fun t => !(t.1 == src && t.2.1 == tc)) ++ (if bs.isEmpty then [] else [(src, tc, bs)])
  { s with poltex := { s.poltex with trains := ts } }

/-- The partition that a contribution from an endpoint reaches: an accelerator's, or the lowest one that holds the
arrival port (R255; log entry 25). -/
def contributionAccess (s : State) (k : Packet) : Option Access :=
  match bindOf s k.src with
  | (1, _) => poltexAccess s k
  | (2, _) =>
    match (List.range 16).find? (fun p => composed s p && bit (nearPorts s p) k.port) with
    | some p => some ⟨p, ⟨(me s).1, k.src, k.spart, k.epoch⟩, false⟩
    | none => none
  | _ => none

/-! ## Stores, atomics and the atomic units (R346 to R349) -/

/-- The atomic units that serve the lines of a request, one entry a line: EQ i serves channels 6i to 6i + 5 (R348). -/
def unitsOf (s : State) (k : Packet) : List Nat := (opLines k).map (fun l => (channelOf s (64 * l)).1 / 6)

/-- Lines in a unit's merge buffer. -/
def unitLines (s : State) (u : Nat) : Nat :=
  ((s.poltex.lineOps.filter (·.inUnit)).map (fun o => (unitsOf s o.pkt).count u)).sum

/-- May a store or atomic enter its units, behind those that came before: its lines are free, the merge buffers of 256 lines
have room, and no earlier one of its port and class waits (R348). -/
def mayEnter (s : State) (before : List LineOp) (k : Packet) : Bool :=
  !lineBusy before k && (waitingOps before).all (fun o => !(o.port == k.port && o.tc == k.tc))
    && (unitsOf s k).all (fun u => decide (unitLines s u + (unitsOf s k).count u ≤ 256))

/-- A store or atomic goes to its units, or waits in the receive buffer; a busy line is counted (R348). `held` is the packet
that has a place there. -/
def joinLine (s : State) (k : Packet) (held : Option Packet) : State :=
  let enters := mayEnter s s.poltex.lineOps k
  let s1 := if lineBusy s.poltex.lineOps k then countEv s (Isl.eq ((unitsOf s k).headD 0)) 0x015 none none else s
  let s2 := if enters then letGo s1 held else s1
  { s2 with poltex := { s2.poltex with
      lineOps := s2.poltex.lineOps ++ [{ pkt := k, held := if enters then none else held, inUnit := enters }] } }

/-- The i-th operation enters its units, if it waits and now may. -/
def admitOp (s : State) (i : Nat) : State :=
  match s.poltex.lineOps[i]? with
  | none => s
  | some o =>
    if !o.inUnit && mayEnter s (s.poltex.lineOps.take i) o.pkt then
      letGo { s with poltex := { s.poltex with lineOps := s.poltex.lineOps.set i { pkt := o.pkt } } } o.held
    else s

/-- The operations that wait enter their units, in order of arrival, as far as they now may (R348). -/
def admitOps (s : State) : State := (List.range s.poltex.lineOps.length).foldl admitOp s

/-- The access of a segment by the sender of its train (R255, R347). -/
def segmentAccess (s : State) (k : Packet) (g : Segment) : Option Access :=
  if g.reduce then contributionAccess s { k with addr := g.dest } else poltexAccess s { k with addr := g.dest }

/-- The last packet of a segment's train has come: a contribution is added, what is to be written goes to the atomic units
with the bytes of its whole train (R347, R348). -/
def segmentTrain (s : State) (k : Packet) (bs : List Byte) (held : Option Packet) : State :=
  let g := segmentOf bs
  if g.1.level ≠ 1 then protocolError (letGo s held) k.port
  else
    match segmentAccess s k g.1 with
    | none => denyPacket (letGo s held) k St.address
    | some x =>
      if g.2 ≠ g.1.body.length ∨ 4096 < g.1.nativeLen then
        let r := malformed (letGo s held) x.part k.port g.1
        respond r.1 k x.part 9 r.2 []
      else if g.1.reduce then
        let r := takeSegment (letGo s held) x k.port g.1
        respond r.1 k x.part 9 r.2 []
      else joinLine s { k with payload := bs } held

/-- POLTEX_STORE: to its line's atomic unit, with SEG by the port's transcoder once its train is whole (R345, R347, R348). -/
def execPoltexStore (k : Packet) (s : State) : Answer :=
  let k := { k with op := 2 }
  let held := if s.noc.contains (.packet k) then some k else none
  onPacket k s fun s =>
    if k.seg then
      let bs := (if k.first then [] else trainOf s k.src k.tc) ++ k.payload
      if k.last then segmentTrain (setTrain s k.src k.tc []) k bs held else setTrain s k.src k.tc bs
    else
      match poltexVerdict s k with
      | .error st => denyPacket (letGo s held) k st
      | .ok _ => joinLine s k held

/-- POLTEX_ATOMIC (R345, R346, R348). -/
def execPoltexAtomic (k : Packet) (s : State) : Answer :=
  let k := { k with op := 3 }
  let held := if s.noc.contains (.packet k) then some k else none
  onPacket k s fun s =>
    match poltexVerdict s k with
    | .error st => denyPacket (letGo s held) k st
    | .ok _ => joinLine s k held

/-- The new value of an atomic of `width` bits (R221, R346). -/
def atomicValue (aop width old opnd cmp : Nat) : Nat :=
  let m := 2 ^ width
  let so := signed width old
  let sn := signed width opnd
  match aop with
  | 0 => (old + opnd) % m
  | 1 => if sn < so then opnd else old
  | 2 => min old opnd
  | 3 => if so < sn then opnd else old
  | 4 => max old opnd
  | _ => if old = cmp then opnd else old

/-- A segment's STORE applied: its native bytes are written and its CPL follows (R253, R347). -/
def applySegmentOp (s : State) (k : Packet) : State :=
  let g := (segmentOf k.payload).1
  match segmentAccess s k g with
  | none => denyPacket s k St.address
  | some x =>
    let r := takeSegment s x k.port g
    respond r.1 k x.part 9 r.2 []

/-- A plain store or an atomic applied, and its CPL (R346, R349). -/
def applyPlainOp (s : State) (k : Packet) : State :=
  match poltexVerdict s k with
  | .error st => denyPacket s k st
  | .ok x =>
    if k.op = 2 then
      let r := outsideWrite s x k.addr k.payload
      respond r.1 k x.part 9 r.2 []
    else
      let n := requestLen k
      match devRead s k.addr n with
      | none => respond (noteRead s k.addr n (some x.part) none none) k x.part 9 St.uncorrectable []
      | some bs =>
        let old := fromLe bs
        let v := atomicValue k.aop (8 * n) old (leAt k.payload 0 n) (leAt k.payload 8 n)
        let r := outsideWrite (tookRead s k.addr n) x k.addr (toLe n v)
        respond r.1 k x.part 9 r.2 (if r.2 = St.ok then toLe 8 old else [])

/-- A store or atomic applied at its units (R346, R347, R349). -/
def applyLineOp (s : State) (k : Packet) : State := if k.op = 2 ∧ k.seg then applySegmentOp s k else applyPlainOp s k

/-- ATOMIC_UNIT_APPLY: a line's unit takes the store or atomic that it holds for it, and what waited for its lines enters
(R348, R349; log entry 113). -/
def execAtomicUnitApply (line : Nat) (s : State) : Answer :=
  if ready s then
    let ops := s.poltex.lineOps
    match ((List.range ops.length).zip ops).find? (fun e => (opLines e.2.pkt).contains line) with
    | none => .next s
    | some (i, o) =>
      if o.inUnit then
        .next (admitOps (applyLineOp { s with poltex := { s.poltex with lineOps := ops.eraseIdx i } } o.pkt))
      else .next s
  else .next s

/-! ## Messages (R338) -/

/-- A message delivered to a partition's inbox, for which vector 65 is raised (R338, R435). -/
def deliverInbox (s : State) (p : Nat) (bs : List Byte) : State :=
  raiseVf (modPart s p (fun P => { P with inbox := P.inbox ++ [bs] })) p 65

/-- The bytes of a message that came as a segment. -/
def messageBytes (seg : Bool) (bs : List Byte) : Option (List Byte) :=
  if seg then
    let g := segmentOf bs
    if g.2 = g.1.body.length then segmentData g.1 else none
  else some bs

/-- A complete MSG train: to its mechanism, or to the inbox of its target partition; none while that or the attend inbox is
full, when the source is held back by credits (R150, R338). A segment of another level is discarded as a protocol error (R46,
R47). -/
def deliverMsg (s : State) (k : Packet) (bs : List Byte) : Option State :=
  let tag := bits k.addr 31 0
  let tp := bits k.addr 35 32
  let b := bindOf s k.src
  let allowed := composed s tp && bit (nearPorts s tp) k.port && (b.1 == 2 || (b.1 == 1 && b.2 == tp))
  if tag = 0xFFFFFFFF then
    if b.1 = 2 then
      if attendHeld s bs then none
      else some (respond (handDevice s ⟨(me s).1, k.src, k.spart, k.epoch⟩ tp bs (fun s => protocolError s k.port)) k tp 9 St.ok [])
    else some (denyPacket s { k with addr := 0 } St.address)
  else if !allowed then some (denyPacket s k St.address)
  else if k.seg ∧ (segmentOf bs).1.level ≠ 1 then some (protocolError s k.port)
  else
    match messageBytes k.seg bs with
    | none =>
      let r := malformed s tp k.port (segmentOf bs).1
      some (respond r.1 k tp 9 r.2 [])
    | some m => if inboxRoom s tp m.length then some (respond (deliverInbox s tp m) k tp 9 St.ok []) else none

/-- The bytes that a MSG train may have: 16 MiB of device message, 4,096 of another (R338). -/
def trainBound (k : Packet) : Nat := if bits k.addr 31 0 = 0xFFFFFFFF then 0x1000000 else if k.seg then 0x4000 else 4096

/-- POLTEX_MSG (R338): reassembled by source and class; a train beyond its bound is discarded as a protocol error (log entry
105). A message for which its inbox has no room stays in the receive buffer. -/
def execPoltexMsg (k : Packet) (s : State) : Answer :=
  let k := { k with op := 4 }
  onPacket k s fun s1 =>
    let bs := (if k.first then [] else trainOf s1 k.src k.tc) ++ k.payload
    if trainBound k < bs.length then protocolError (setTrain s1 k.src k.tc []) k.port
    else if k.last then
      match deliverMsg (setTrain s1 k.src k.tc []) k bs with
      | some t => t
      | none => s
    else setTrain s1 k.src k.tc bs

/-! ## Answers and dead targets (R342, R346, R350) -/

/-- A response taken by its transaction, or discarded and counted as late (R350). -/
def takeAnswer (s : State) (k : Packet) : State :=
  match s.poltex.txns.find? (fun t => t.tag == k.tag && t.target == k.src) with
  | none => countEv { s with poltex := { s.poltex with late := s.poltex.late + 1 } } Isl.np 0x036 (some k.port) none
  | some t =>
    let s1 := { s with poltex := { s.poltex with txns := s.poltex.txns.filter (fun x => x.tag != t.tag) } }
    releaseHeld (answerTxn s1 t (bits k.addr 7 0) k.payload)

/-- DATA (R336, R346). -/
def execData (k : Packet) (s : State) : Answer :=
  let k := { k with op := 8 }
  onPacket k s fun s => takeAnswer s k

/-- CPL (R336, R346). -/
def execCpl (k : Packet) (s : State) : Answer :=
  let k := { k with op := 9 }
  onPacket k s fun s => takeAnswer s k

/-- DEAD_BOUND_EXPIRY (R350). -/
def execDeadBoundExpiry (tag : Nat) (s : State) : Answer :=
  if ready s then
    match s.poltex.txns.find? (fun t => t.tag == tag && decide (t.deadline ≤ s.now)) with
    | none => .next s
    | some t => .next (releaseHeld (deadTxn s t))
  else .next s

/-! ## Link state (R337) -/

/-- LSTATE to one endpoint on every live plane: the ports of its partition for an accelerator, every live port for a
module. -/
def sendLstateTo (s : State) (e : Nat × (Nat × Nat)) : State :=
  let live := livePlanes s
  let mask := if e.2.1 = 1 then Nat.land live (nearPorts s e.2.2) else live
  (setBits 16 live).foldl (fun s port =>
    enqueue s port e.2.2 0 none (packetLen 8)
      (.packet { ownPacket s e.2.2 0xC 0 e.1 0 0 8 (toLe 8 mask) with port := port })) s

/-- LSTATE to every listed endpoint (R337). -/
def sendLstate (s : State) : State :=
  ((compOf s).binds.filter (fun e => e.2.1 == 1 || e.2.1 == 2)).foldl sendLstateTo
    { s with poltex := { s.poltex with lastLstate := s.now } }

/-- LSTATE received: the planes that an endpoint reports (R337, R341, R355). -/
def execLstate (k : Packet) (s : State) : Answer :=
  let k := { k with op := 0xC }
  onPacket k s fun s =>
    if (bindOf s k.src).1 = 0 then s
    else
      let heard := if s.poltex.heard.contains k.src then s.poltex.heard else s.poltex.heard ++ [k.src]
      releaseHeld (notePaths { s with poltex := { s.poltex with masks := AMap.insert s.poltex.masks k.src (leAt k.payload 0 2), heard := heard } })

/-- LSTATE_TIMER: every 100 µs (R337). -/
def execLstateTimer (s : State) : Answer :=
  if ready s && decide (s.poltex.lastLstate + 100000 ≤ s.now) then .next (sendLstate s) else .next s

/-! ## Flits (R329 to R331) -/

/-- Packet types of R336 that carry something. -/
def knownOp (op : Nat) : Bool := (decide (1 ≤ op ∧ op ≤ 4)) || op == 8 || op == 9 || op == 0xC

/-- Units that an arriving packet takes of its class (R331), and the segments being taken in after it. In planning mode a
segment's packets take what they had before coding, the last one all that is left of it (R268). -/
def arrivalUnits (n : NearPort) (k : Packet) : Nat × List (Nat × Nat × Nat) :=
  if k.seg && (k.op == 2 || k.op == 4) then
    let others := n.segIn.filter (fun x => !(x.1 == k.src && x.2.1 == k.tc))
    let left := if k.first then 16 + uncodedLen (segmentOf k.payload).1
      else ((n.segIn.find? (fun x => x.1 == k.src && x.2.1 == k.tc)).map (fun x => x.2.2)).getD 0
    let mine := if n.effective then (if k.last then left else min 256 left) else k.payload.length
    (ceilDiv (packetSize { k with payload := [] } + mine) 64, if k.last then others else others ++ [(k.src, k.tc, left - 256)])
  else (ceilDiv (packetSize k) 64, n.segIn)

/-- A packet of the stream takes its place in the receive buffer of its class and is handed on; one of a reserved type or
another level is discarded as a protocol error, and its credits go back (log entry 109); IDLE fills the stream (R331, R336). -/
def handPacket (s : State) (k : Packet) : State :=
  let n := nearPort s k.port
  if k.level ≠ n.level ∨ !(k.op == 0 || knownOp k.op) then
    protocolError (modNear s k.port (fun n => { n with
      owed := AMap.insert n.owed k.tc (AMap.getD n.owed k.tc 0 + ceilDiv (packetSize k) 64) })) k.port
  else if k.op = 0 then s
  else
    let a := arrivalUnits n k
    let s1 := modNear s k.port (fun n => { n with
      rxUsed := AMap.insert n.rxUsed k.tc (AMap.getD n.rxUsed k.tc 0 + a.1), segIn := a.2
      rxPlan := if a.1 = ceilDiv (packetSize k) 64 then n.rxPlan else n.rxPlan ++ [(k, a.1)] })
    { s1 with noc := s1.noc ++ [.packet k] }

/-- Is a SEQ later than the acknowledged one. -/
def afterAck (ack seq : Nat) : Bool := decide (2048 ≤ (ack + 4096 - seq % 4096) % 4096)

/-- What the link word of a good flit says: the partner's acknowledgement and credits, and its request for replay from
ACK + 1 (R329 to R331). -/
def takeLinkWord (s : State) (port lw : Nat) : State :=
  let ack := bits lw 23 12
  let tc := bits lw 27 25
  let s1 := modNear s port (fun n =>
    { n with acked := ack
             replay := n.replay.filter (fun e => afterAck ack e.seq)
             unacked := n.unacked.filter (fun e => afterAck ack e.1)
             credits := AMap.insert n.credits tc (AMap.getD n.credits tc 0 + bits lw 31 28) })
  if bit lw 24 then replayFlits s1 port else s1

/-- The symbols that a flit's correction changed are counted on the lanes that carried them, over the last 1 ms (R333). -/
def noteCorrected (s : State) (port : Nat) (at_ : List Nat) : State :=
  modNear s port (fun n =>
    let lanes := at_.map (fun k => n.lanes.getD ((n.rxByte + k) % max 1 n.lanes.length) 0)
    { n with corrs := n.corrs.filter (fun c => decide (s.now < c.1 + 1000000))
                        ++ lanes.eraseDups.map (fun l => (s.now, l, (lanes.filter (· == l)).length)) })

/-- The lanes with more symbols corrected in the last 1 ms than LANE_LIMIT allows (R333, R353). -/
def noisyLanes (s : State) (port : Nat) : List Nat :=
  let n := nearPort s port
  n.lanes.filter (fun l => decide (max 1 s.poltex.laneLimit < ((n.corrs.filter (fun c => c.2.1 == l)).map (fun c => c.2.2)).sum))

/-! ## Training, lanes and the spare (R332 to R334) -/

/-- The transaction that a frame carries, where it is still unanswered. -/
def txnOfFrame (s : State) (o : Out) : Option Txn :=
  match o with
  | .packet k => if 1 ≤ k.op ∧ k.op ≤ 4 then s.poltex.txns.find? (fun t => t.tag == k.tag && t.target == k.dst) else none
  | _ => none

/-- A frame of a port that went down is sent again on its transaction's new path; with no path left the transaction is
dead (R342). Answers and link state are not sent again. -/
def resendFrame (s : State) (f : TxFrame) : State :=
  match txnOfFrame s f.what with
  | none => s
  | some t =>
    match planeOf (pathSet s t.part t.target) (if t.op = 4 then 0 else t.addr) t.target (me s).2 with
    | none => deadTxn s t
    | some plane =>
      let ts := s.poltex.txns.map (fun x => if x.tag = t.tag then { x with plane := plane } else x)
      let s1 := { s with poltex := { s.poltex with txns := ts } }
      enqueueFrame s1 plane t.part t.tc t.req { f with what := atPort plane f.what }

/-- A near port leaves the live set: it is DOWN until the next module start, its unacknowledged and waiting transactions
are sent again on new paths, the endpoints learn of it (R334, R337, R342). -/
def nearDown (s : State) (port : Nat) : State :=
  let sent := (nearPort s port).unacked.map Prod.snd
  let waiting := (tsPort s port).frames.map (·.frame)
  let s1 := modNear s port (fun n =>
    { n with state := .down, width := 0, level := 0, partner := 0, spareBusy := false, replay := [], unacked := [], tx := [],
             stream := [], lanes := [], rxPlan := [], segIn := [], spareUsed := false })
  let s2 := notePaths (modTs s1 port (fun t => { t with frames := [], trains := [], segOut := [], parked := [] }))
  let s3 := report { s2 with life := { s2.life with portDown := true } } none none true { code := 0x14, detail := port }
  sendLstate (releaseHeld ((sent ++ waiting).foldl resendFrame s3))

/-- A lane fails (R333, R334): lane 8 is the spare, which is bad from then on and serves no logical lane (R354; log entry 143);
the logical lane that an active lane leaves free is the one the spare will take. -/
def laneFails (s : State) (port lane : Nat) : State :=
  let n := nearPort s port
  let s1 := logSpare (modNear s port (fun n => { n with
    failed := putBit n.failed lane true, spareBad := n.spareBad || lane == 8 })) 4 port lane
  let at_ := (n.lanes.takeWhile (· != lane)).length
  let left := n.lanes.filter (· != lane)
  if lane = 8 ∧ !n.spareUsed then modNear s1 port (fun n => { n with spareBusy := false })
  else if n.width = 4 then nearDown s1 port
  else if !n.spareUsed ∧ !n.spareBad ∧ !n.spareBusy then
    widthChange (modNear s1 port (fun n => { n with spareBusy := true, spareAt := at_ })) port left
  else
    widthChange (modNear s1 port (fun n =>
      { n with spareUsed := n.spareUsed && lane != 8, spareAt := if at_ < n.spareAt then n.spareAt - 1 else n.spareAt })) port left

/-- LANE_FAILURE (R333, R334). -/
def execLaneFailure (port lane : Nat) (s : State) : Answer :=
  let n := nearPort s port
  if !ready s ∨ n.state ≠ .up ∨ 9 ≤ lane ∨ bit n.failed lane then .next s else .next (laneFails s port lane)

/-- SPARE_LANE_TRAINED: the spare takes the logical lane of the lane it replaces (R334). -/
def execSpareLaneTrained (port : Nat) (s : State) : Answer :=
  let n := nearPort s port
  if ready s && n.state == .up && n.spareBusy then
    let s1 := logSpare (modNear s port (fun n => { n with spareBusy := false, spareUsed := true })) 4 port 8
    .next (widthChange s1 port (n.lanes.take n.spareAt ++ [8] ++ n.lanes.drop n.spareAt))
  else .next s

/-! ## Flits that arrive (R329, R330, R333) -/

/-- The port's next flit, with its acknowledgement and credits, leaves if the link may send. -/
def answerFlit (s : State) (port : Nat) : State :=
  if (nearPort s port).state = .up ∧ linkReady s port 1 then idleFlit s port else s

/-- A flit discarded: replay is requested in the next flit (R330). -/
def badFlit (s : State) (port : Nat) : State :=
  let s1 := modNear s port (fun n => { n with nak := true, replays := min 0xFFFF (n.replays + 1) })
  answerFlit (countEv s1 Isl.np 0x032 (some port) none) port

/-- A flit with the expected SEQ: its link word, its corrections and its packets. -/
def goodFlit (s : State) (port lw : Nat) (body : List Byte) (fixed : List Nat) : State :=
  let s1 := takeLinkWord (noteCorrected (modNear s port (fun n =>
    { n with expSeq := (n.expSeq + 1) % 4096, nak := false })) port fixed) port lw
  let r := parsePackets port 64 ((nearPort s1 port).stream ++ body)
  let s2 := modNear s1 port (fun n => { n with stream := r.2 })
  answerFlit (r.1.foldl handPacket s2) port

/-- FLIT_RECEIVE: a flit corrected and taken in order, or discarded with a request for replay (R329, R330); a lane on which
too much was corrected fails (R333). -/
def execFlitReceive (port : Nat) (flit : List Byte) (s : State) : Answer :=
  if !ready s ∨ (nearPort s port).state ≠ .up then .next s
  else
    let s1 := countEv s Isl.np 0x031 (some port) none
    let s2 := match flitDecode flit, flitErrors flit with
      | some (lw, body), some es =>
        if bits lw 11 0 ≠ (nearPort s1 port).expSeq then badFlit (noteCorrected s1 port (es.map Prod.fst)) port
        else goodFlit s1 port lw body (es.map Prod.fst)
      | _, _ => badFlit s1 port
    let s3 := modNear s2 port (fun n => { n with rxByte := (n.rxByte + 272) % 840 })
    .next ((noisyLanes s3 port).foldl (fun s l => if (nearPort s port).state = .up then laneFails s port l else s) s3)

/-! ## Training (R332) -/

/-- The credits of a partner's receive buffers (R331). -/
def fullCredits : AMap Nat := (0, 256) :: (List.range 7).map (fun i => (i + 1, 1024))

/-- LINK_TRAINING: `lanes` is the mask of the lanes that trained (R332, R337, R354). Training sets CREDIT_MODE to 1, and a value
that was still pending is lost (R269; log entry 136). -/
def execLinkTraining (port lanes partner level : Nat) (s : State) : Answer :=
  let n := nearPort s port
  let good := setBits 9 lanes
  if !ready s ∨ 16 ≤ port ∨ level = 0 ∨ (n.state ≠ .training ∧ n.state ≠ .noPartner) then .next s
  else
    let bad := (List.range 9).filter (fun i => !bit lanes i)
    let s1 := bad.foldl (fun s i => logSpare s 4 port i) s
    if good.length < 4 then
      let s2 := modNear s1 port (fun n => { n with state := .down, failed := ofSetBits bad, spareBad := !bit lanes 8
                                                   creditMode := true, modePend := none })
      .next { s2 with life := { s2.life with portDown := true } }
    else
      let s2 := modNear s1 port (fun n =>
        { state := .up, width := min 8 good.length, level := 1, partner := partner, lanes := good.take 8
          spareUsed := decide (good.length < 9) && bit lanes 8, spareBad := !bit lanes 8, failed := ofSetBits bad, credits := fullCredits, replays := n.replays
          protoErr := n.protoErr, trainAt := n.trainAt })
      .next (sendLstate (releaseHeld (notePaths s2)))

/-- PARTNER_TIMEOUT: no partner has answered within 100 ms; the port keeps trying (R332). -/
def execPartnerTimeout (port : Nat) (s : State) : Answer :=
  if ready s && (nearPort s port).state == .training && decide ((nearPort s port).trainAt + 100000000 ≤ s.now) then .next (modNear s port (fun n => { n with state := .noPartner }))
  else .next s

end Sys2Proof.Machine
end

