-- ==== Sys2Proof/Machine/Remote.lean ====
section
/-! DEFINITION. The Remote group: PUT, GET, SEND, CONNECT and DISCONNECT at the module that issues them, and the packets
that a connection's transfers take (07_instruction_set.md R222; 13_remote_access.md R362 to R378). -/

namespace Sys2Proof.Machine

/-! ## Packets of a transfer -/

/-- One packet of a transfer: payload, offset of its first byte from the transfer's remote address, FIRST, LAST and SEG, and what
a claimed segment that begins here counts (R246, R260, R363). -/
structure XPacket where
  payload : List Byte
  offset  : Nat
  first   : Bool
  last    : Bool
  seg     : Option (Bool × Bool)        -- part of a segment: its first and its last packet
  counts  : Option SentSegment
deriving DecidableEq, Repr

/-- Bytes split into packets of a PMTU, at least one (R362, R364). -/
def mtuPieces (mtu : Nat) (bs : List Byte) : List (List Byte) := if bs.isEmpty then [[]] else pieces mtu bs

/-- The bytes of a transfer: a device message as it was formed; the source of an instruction's, read again for every
transmission (R371, R378). -/
def xferData (s : State) (x : Xfer) : List Byte :=
  if x.dev.isSome || x.copy.isSome then x.data else (devRead s x.src x.len).getD (rawBytes s.mem x.src x.len)

/-- The packets of a WRITE or SEND transfer (R245 to R248, R363): plain, or the segments of the stream that claims it. A
SEND's FIRST and LAST mark the message, a PUT's each segment (log entry 31). The bytes of a segment are numbered from its
destination on (log entry 146). -/
def xferPackets (s : State) (c : Conn) (x : Xfer) : List XPacket :=
  let data := xferData s x
  let mtu := pmtuBytes c
  match x.claim with
  | none =>
    let ps := mtuPieces mtu data
    ((List.range ps.length).zip ps).map (fun e => ⟨e.2, mtu * e.1, e.1 == 0, e.1 + 1 == ps.length, none, none⟩)
  | some (_, _, st) =>
    let segs := makeSegments st (if x.op = 1 then x.raddr else 0) data
    (((List.range segs.length).zip segs).map (fun e =>
      let qs := mtuPieces mtu (segmentBytes e.2.seg)
      ((List.range qs.length).zip qs).map (fun q =>
        let f := q.1 == 0 && (x.op == 1 || e.1 == 0)
        let l := q.1 + 1 == qs.length && (x.op == 1 || e.1 + 1 == segs.length)
        (⟨q.2, 4096 * e.1 + mtu * q.1, f, l, some (q.1 == 0, q.1 + 1 == qs.length), if q.1 = 0 then some e.2 else none⟩ : XPacket)))).flatten

/-- PSNs that a transfer takes (R364). -/
def xferPsns (s : State) (c : Conn) (x : Xfer) : Nat :=
  if x.op = 2 then max 1 (ceilDiv x.len (pmtuBytes c)) else (xferPackets s c x).length

/-- The send stream that claims a transfer of a connection that leaves by a port (R245, R247; log entry 27). -/
def farClaim (s : State) (port : Nat) (c : Conn) (x : Xfer) : Option (Nat × Nat × Stream) :=
  if x.w.isNone ∨ x.op = 2 then none
  else
    let range := if x.op = 1 then some (x.raddr, x.len) else none
    match claimOf s c.part (16 + port) x.tc (c.peer.domain, c.peer.ep) range with
    | some (k, st) =>
      let fits := if x.op = 1 then segmentable st x.raddr x.len else x.len % nativeWidth st.native == 0 && !st.reduce
      if passesThrough st || !fits then none else some (16 + port, k, st)
    | none => none

/-- The transfers that follow one whose PSNs become n in number take theirs after it. -/
def renumber (n : Nat) (x : Xfer) : List Xfer → List Xfer
  | [] => []
  | y :: ys =>
    if y.first = x.first then { x with npsn := n } :: ys.map (fun z => { z with first := (z.first + n + 2 ^ 24 - y.npsn) % 2 ^ 24 })
    else y :: renumber n x ys

/-- A transfer's first packet is about to leave by a port: the stream that claims it there is settled for all of it, and with
it the PSNs that it takes (R245, R246). -/
def beginXfer (s : State) (port n : Nat) (x : Xfer) : State :=
  if x.begun then s
  else
    let c := connOf s n
    let y := { x with begun := true, claim := farClaim s port c x }
    let k := xferPsns s c y
    modConn s n (fun c => { c with xfers := renumber k y c.xfers, allocated := (c.allocated + k + 2 ^ 24 - x.npsn) % 2 ^ 24 })

/-! ## Ends of transfers -/

/-- Transfers of an instruction on any connection. -/
def transfersOf (s : State) (w : IRef) : Bool := s.tlaley.conns.any (fun e => e.2.xfers.any (fun x => x.w == some w))

/-- An instruction whose transfers have all ended finishes with the first refusal met (R369, R372). -/
def closeRemote (s : State) (w : IRef) : State :=
  if transfersOf s w then s
  else modIssued s w (fun i => if i.started && i.status.isNone then { i with status := some i.aux } else i)

/-- A transfer ended with a status (R371, R372). -/
def endXfer (s : State) (x : Xfer) (status : Nat) : State :=
  match x.w with
  | some w => closeRemote (modIssued (noteFenced s w.part status) w (fun i => { i with aux := if i.aux = 0 then status else i.aux })) w
  | none =>
    match x.dev with
    | some o => if status = St.ok then s else reportDead s o
    | none => noteCopy s x.copy status

/-! ## The Remote group (R222) -/

/-- May a partition's instruction use a connection: a number of its run, not a device connection (R365, R378, R382). -/
def ownsConn (s : State) (p n : Nat) : Bool :=
  let run := connRun s p
  decide (run.1 ≤ n ∧ n < run.1 + run.2) && !(connOf s n).device

/-- Transfers queued for an instruction on its connection; it is then sent (R366, R371). -/
def startXfers (s : State) (w : IRef) (n : Nat) (xs : List Xfer) : State :=
  let s1 := xs.foldl (fun s x => addXfer s n { x with npsn := xferPsns s (connOf s n) x }) s
  modIssued s1 w (fun i => { i with started := true, sentAt := s.now })

/-- Run a Remote instruction on its open connection, whose state is on chip (R366, R375). -/
def withConn (w : IRef) (op : Nat) (s : State) (f : Issued → Nat → State) : Answer :=
  withInstr s w op fun i =>
    let n := connNumber i.words
    if i.started then s
    else if !ownsConn s w.part n ∨ (connOf s n).state ≠ .open_ then failWith s w St.noConnection
    else if !(connOf s n).onChip then s
    else f i n

/-- PUT (0x70; R222, R368, R372). -/
def execPut (w : IRef) (s : State) : Answer :=
  withConn w 0x70 s fun i n =>
    let ws := i.words
    let len := bits (extHi ws 1) 31 0
    let raddr := extAddr ws 1
    let tc := classOf ws
    if (devRead s (addrB ws) len).isNone then readFault s w (addrB ws) len
    else
      startXfers s w n [{ w := some w, op := 1, first := 0, npsn := 0, src := addrB ws, len := len, raddr := raddr
                          key := bits (extHi ws 1) 63 32, tc := tc }]

/-- The READ_REQs of a GET: no one of them takes more PSNs than may be unacknowledged (R371; log entry 31). -/
def getParts (mtu : Nat) : Nat → Nat → Nat → List (Nat × Nat)
  | 0, _, _ => []
  | fuel + 1, off, len =>
    if len ≤ 8192 * mtu then [(off, len)] else (off, 8192 * mtu) :: getParts mtu fuel (off + 8192 * mtu) (len - 8192 * mtu)

/-- GET (0x71; R222, R372). -/
def execGet (w : IRef) (s : State) : Answer :=
  withConn w 0x71 s fun i n =>
    let ws := i.words
    let len := bits (extHi ws 1) 31 0
    startXfers s w n ((getParts (pmtuBytes (connOf s n)) 1024 0 len).map (fun e =>
      { w := some w, op := 2, first := 0, npsn := 0, src := addrB ws + e.1, len := e.2, raddr := extAddr ws 1 + e.1
        key := bits (extHi ws 1) 63 32, tc := classOf ws }))

/-- SEND (0x72; R222, R378). -/
def execSend (w : IRef) (s : State) : Answer :=
  withConn w 0x72 s fun i n =>
    let ws := i.words
    let len := bits (extLo ws 1) 31 0
    let tc := classOf ws
    if (devRead s (addrB ws) len).isNone then readFault s w (addrB ws) len
    else
      startXfers s w n [{ w := some w, op := 4, first := 0, npsn := 0, src := addrB ws, len := len, tc := tc }]

/-! ## CONNECT and DISCONNECT -/

/-- CONNECT (0x73; R222, R365, R366). A target of the own domain is reached over Poltex alone (R23), so a connection to it is
refused (DEDUCED, log entry 120), as is one to an endpoint of a later level (R7, R339). -/
def execConnect (w : IRef) (s : State) : Answer :=
  withInstr s w 0x73 fun i =>
    if i.started then s
    else
      let a := addrB i.words
      match devRead s a 48 with
      | none => readFault s w a 48
      | some d =>
        let x := leAt d 0 8
        if bits x 27 26 = 3 ∨ bits x 11 0 = (me s).1 ∨ 128 ≤ bits x 21 12 then failWith s w St.badOperand
        else
          match lowestFree s w.part with
          | none => failWith s w St.noConnection
          | some n =>
            let ipv6 := bit x 28
            let c : Conn := { part := w.part, peer := ⟨bits x 11 0, bits x 21 12, bits x 25 22, 0⟩, pmtu := bits x 27 26
                              ipv6 := ipv6, ports := bits x 47 32, rip := (d.drop 0x20).take (if ipv6 then 16 else 4)
                              descr := a, opener := some w, progressAt := s.now }
            let s1 := sendOpen (takeConn (makeRoom s) n c) n
            modIssued s1 w (fun i => { i with
              started := true, sentAt := s.now, result := n
              effects := [.devWrite (a + 0x08) (toLe 8 (n + (connOf s1 n).lcepoch * 2 ^ 32))] })

/-- Does a connection still wait for an instruction on it that issued before one (R366). -/
def earlierOnConn (s : State) (w : IRef) (n : Nat) : Bool :=
  match issuedOf s w with
  | none => false
  | some d => (partOf s w.part).queues.any (fun q => q.2.issued.any (fun i =>
      decide (i.order < d.order) && decide (0x70 ≤ opcodeOf i.words ∧ opcodeOf i.words ≤ 0x72) && connNumber i.words == n))

/-- CLOSE sent: the first time, or again (R366). -/
def sendClose (s : State) (n : Nat) : State :=
  let s1 := modConn s n (fun c => { c with tries := c.tries + 1, triedAt := s.now })
  sendConnMsg s1 n 0xA (connOf s1 n) (recordOf s1 n 0)

/-- DISCONNECT (0x74; R222, R366): it waits for an evicted state and for every earlier instruction on the connection (R375). -/
def execDisconnect (w : IRef) (s : State) : Answer :=
  withInstr s w 0x74 fun i =>
    let n := connNumber i.words
    let c := connOf s n
    if i.started then s
    else if !ownsConn s w.part n then failWith s w St.noConnection
    else if c.state ≠ .free ∧ !c.onChip then s
    else
      match c.state with
      | .open_ =>
        if c.xfers.isEmpty ∧ !earlierOnConn s w n then
          let s1 := sendClose (modConn s n (fun c => { c with state := .closing, closer := some w, tries := 0 })) n
          modIssued s1 w (fun i => { i with started := true, sentAt := s.now })
        else s
      | .failed => finish (freeConn s n) w St.ok 0
      | _ => failWith s w St.noConnection

end Sys2Proof.Machine
end

