-- ==== Sys2Proof/Machine/Stripes.lean ====
section
/-! DEFINITION. The safety net: ENCODE, REBUILD and VERIFY, the rebuild messages between ringmasters and what the
ringmaster does with a lost home (15_resilience.md R406 to R417). -/

namespace Sys2Proof.Machine

/-! ## Stripe descriptors (R406, R409) -/

/-- The fields of a stripe descriptor (R406). -/
structure Stripe where
  k      : Nat
  size   : Nat
  lost   : Nat
  ppart  : Nat
  qpart  : Nat
  rrefs  : Nat
  shards : List Nat
deriving DecidableEq, Repr, Inhabited

/-- The descriptor that 192 bytes hold. -/
def stripeOf (bs : List Byte) : Stripe :=
  let a := leAt bs 0 8
  let b := leAt bs 8 8
  { k := bits a 3 0, size := bits a 6 4, lost := bits a 23 8, ppart := bits b 3 0, qpart := bits b 7 4
    rrefs := bits b 23 8, shards := wordList ((bs.drop 0x40).take 128) }

/-- The handle of a shard. -/
def shardAt (t : Stripe) (i : Nat) : Nat := t.shards.getD i 0

/-- The checks of R409 step 1 and R412; `encode` asks for null parity handles. -/
def stripeOk (t : Stripe) (encode : Bool) : Bool :=
  let used := t.shards.take (t.k + 2)
  decide (2 ≤ t.k ∧ t.k ≤ 14 ∧ t.size ≤ 6) && (used.take t.k).all (fun h => !isNull h)
    && (!encode || (used.drop t.k).all (fun h => isNull h && hFrame h == 0))
    && (used.map hHome).eraseDups.length == used.length

/-- The number that stands for a copy received with a request, in place of a descriptor's address. -/
abbrev copyBase : Nat := 2 ^ 64

/-- The descriptor of a stripe that the partition holds: in its memory, or a copy received (R411). -/
def stripeAt (s : State) (p d : Nat) : List Byte :=
  if copyBase ≤ d then AMap.getD (partOf s p).netCopies d [] else (devRead s d 192).getD []

/-- Bytes of a stripe's descriptor written. -/
def stripePut (s : State) (p d off : Nat) (bs : List Byte) : State :=
  if copyBase ≤ d then
    modPart s p (fun P =>
      let old := AMap.getD P.netCopies d []
      { P with netCopies := AMap.insert P.netCopies d (old.take off ++ bs ++ old.drop (off + bs.length)) })
  else devPut s (d + off) bs

/-- A copy received with a request (R411). -/
def takeCopy (s : State) (p : Nat) (bs : List Byte) (counted : Bool) : State :=
  modPart s p (fun P =>
    let d := max copyBase ((P.netCopies.map (fun e => e.1 + 1)).foldl max 0)
    { P with netCopies := AMap.insert P.netCopies d bs, stripes := P.stripes ++ [(d, counted)] })

/-- Is the partition the keeper of a stripe: it holds the counted copy (R411). -/
def keeps (s : State) (p d : Nat) : Bool := (partOf s p).stripes.any (fun e => e.1 == d && e.2)

/-- The shards of a stripe that the partition holds. -/
def stripeShards (s : State) (p d : Nat) : List Nat :=
  let t := stripeOf (stripeAt s p d)
  t.shards.take (t.k + 2)

/-- Bytes of a shard. -/
def shardBytes (t : Stripe) : Nat := 0x4000 * 2 ^ t.size

/-! ## Reading a shard by the device's own read path (R79, R409, R412) -/

/-- What reading a shard has come to: it waits, or it has ended with a status, its bytes and the handle they were read by,
after the forwarding entry that the read followed. -/
inductive ShardRead where
  | wait (s : State)
  | done (s : State) (status : Nat) (data : List Byte) (handle : Nat)

/-- The read ended: nothing of it is kept in the instruction. -/
def shardDone (s : State) (w : IRef) (st : Nat) (data : List Byte) (h : Nat := 0) : ShardRead :=
  .done (modIssued s w (fun i => { i with awaits := [], late := [], effects := [], aux := 0 })) st data h

/-- A shard that lies at this home. -/
def readHere (s : State) (w : IRef) (h size : Nat) (followed_ : Bool) : ShardRead :=
  let x := selfParty s w.part
  let a := claimStatus s h x true
  let moved := a.any (fun e => e.1 == St.moved) && !followed_
  let h1 := if moved then (a.getD (0, 0)).2 else h
  let s1 := if moved then countEv s Isl.cc 0x066 none (some w.part) else s
  match (if moved then claimStatus s1 h1 x true else a) with
  | some e => shardDone (noteFenced s1 w.part e.1) w e.1 []
  | none =>
    let f := frameAt s1 (hFrame h1)
    if hHome h1 ≠ me s then shardDone s1 w St.notHome []
    else if f.state ≠ .sealed then shardDone s1 w St.notSealed []
    else if f.sizeLog2 ≠ size then shardDone s1 w St.staleHandle []
    else if tierFails s1 (hFrame h1) then shardDone s1 w St.tierFailed []
    else
      match frameBytes s1 (hFrame h1) with
      | some bs => shardDone (touchFrame (tookRead s1 (hFrame h1 * 0x4000) (0x4000 * 2 ^ size)) (hFrame h1)) w St.ok bs h1
      | none => shardDone (noteRead s1 (hFrame h1 * 0x4000) (0x4000 * 2 ^ size) (some w.part) (ctxOf w) (some w.queue)) w St.uncorrectable []

/-- A query of a shard's state at its home. -/
def askShard (s : State) (w : IRef) (k h : Nat) : State :=
  let a := sendFor s w k h 6 64 (fun src tag => .trapeze (hHome h) { ttype := 0x07, src := src, tag := tag, handle := h })
  modIssued a.1 w (fun i => { i with awaits := [a.2], sentAt := s.now, due := s.now + replyWaitNs s })

/-- The data of a shard asked of its home: LOADs within the domain, a READ_REQ on a device connection to another (R23,
R378), in class TC6. A handle does not name the partition of its home that R378's connection is to: the read goes to
partition 0, as the QUERY before it did (DESIGN CHOICE, log entry 152). -/
def fetchShard (s : State) (w : IRef) (h n : Nat) : State :=
  let s0 := modIssued s w (fun i => { i with awaits := [], late := [1, h], effects := [], aux := 0, sentAt := s.now, due := s.now + lateBoundNs s w.part })
  let at_ := hFrame h * 0x4000
  let home := hHome h
  if home.1 = (me s).1 then
    (linePieces true (n / 256 + 1) at_ n).foldl (fun s e =>
      let k : Packet := { ownPacket s w.part 1 6 home.2 0 e.1 e.2 [] with plen := e.2 }
      sendTxn s { tag := 0, w := some w, op := 1, target := home.2, addr := e.1, len := e.2, dst := e.1 - at_, part := w.part, tc := 6 }
        [packetFrame k]) s0
  else
    match deviceConn s0 w.part 0 home with
    | (s1, none) => modIssued s1 w (fun i => { i with aux := St.noConnection })
    | (s1, some c) => addXfer s1 c { w := some w, op := 2, first := 0, npsn := max 1 (ceilDiv n 4096), src := 0, len := n, raddr := at_, tc := 6 }

/-- The bytes that an instruction's gathered answers hold. -/
def gathered (i : Issued) (n : Nat) : List Byte :=
  memGetN (i.effects.foldl (fun m e => match e with
    | .devWrite a bs => memPutN m a bs
    | _ => m) []) 0 n

/-- A status of a fabric read as the read path gives it: an unreachable home is lost (R413). -/
def readStatus (st : Nat) : Nat :=
  if st = St.deadTarget ∨ st = St.noConnection ∨ st = St.remoteNak ∨ st = St.timeout then St.homeLost else st

/-- The state and the size that a QUERY_REPLY gave (R410): bits 3 to 0, and above them the size plus 1, or 0 without one. -/
def replySize (value size : Nat) : Bool := value / 16 == 0 || value / 16 == size + 1

/-- One run of reading shard k of handle h (R409 step 2): the QUERY tells whether it is SEALED and of the stripe's size
(R410), then its data is fetched. A MOVED of either is followed once (R79). -/
def shardRead (s : State) (w : IRef) (i : Issued) (k h size : Nat) : ShardRead :=
  match i.awaits, i.late with
  | [], [] => if isNull h then shardDone s w St.staleHandle [] else if hHome h = me s then readHere s w h size false else .wait (askShard s w k h)
  | a :: _, [] =>
    match a.status with
    | none => .wait s
    | some st =>
      if st = St.ok then
        if a.value % 16 ≠ 3 then shardDone s w St.notSealed []
        else if !replySize a.value size then shardDone s w St.staleHandle []
        else .wait (fetchShard s w a.handle (0x4000 * 2 ^ size))
      else if st = St.moved ∧ a.handle = h then
        let s1 := countEv s Isl.cc 0x066 none (some w.part)
        if hHome a.value = me s then readHere s1 w a.value size true else .wait (askShard s1 w k a.value)
      else shardDone s w (readStatus st) []
  | _, late =>
    let at_ := late.getD 1 0
    if fabricPending s w || transfersOf s w then .wait s
    else if i.aux = St.moved ∧ at_ = h then
      .wait (askShard (modIssued s w (fun i => { i with awaits := [], late := [], effects := [], aux := 0 })) w k h)
    else shardDone s w (readStatus i.aux) (gathered i (0x4000 * 2 ^ size)) at_

/-! ## Placing a parity shard (R409 step 4) -/

/-- Flags of a shard that the net places: pool tier, SHARED and NET (R409, R413). -/
abbrev netFlags : Nat := 26

/-- A sealed frame of this home with bytes: the state and its handle, none without space. -/
def placeSealed (s : State) (p size refs : Nat) (bs : List Byte) : Option (State × Nat) :=
  let r := mainRegion s p
  match allocFrame s r.1 r.2 size (fun gen =>
      { state := .sealed, sizeLog2 := size, flags := netFlags, gen := gen, refs := refs, lastRead := s.now }) 0x01 with
  | none => none
  | some (s1, h) => some (devPut s1 (hFrame h * 0x4000) bs, h)

/-- What placing a parity shard has come to. -/
inductive Placed where
  | wait (s : State)
  | done (s : State) (status : Nat) (handle : Nat)

def placedDone (s : State) (w : IRef) (st h : Nat) : Placed :=
  .done (modIssued s w (fun i => { i with awaits := [], late := [] })) st h

/-- One run of placing a parity shard at a home: at this home at once, elsewhere as the device's own migration of a sealed
frame: MIGRATE_BEGIN, the copy, then MIGRATE_COMMIT with REFS 1 (R378; log entry 34). `late` holds the handle once the copy
runs, twice once it is committed. The home's estimate follows (R75). -/
def placeParity (s : State) (w : IRef) (i : Issued) (home : Nat × Nat) (part size : Nat) (bs : List Byte) : Placed :=
  if home = me s then
    match (if composed s part then placeSealed s part size 1 bs else none) with
    | some (s1, h) => placedDone s1 w St.ok h
    | none => placedDone s w St.noSpace 0
  else
    match i.awaits, i.late with
    | [], _ =>
      let (s1, tag) := takeTag s w.part
      let me_ := selfParty s1 w.part
      let s2 := sendMsg s1 w.part 6 home part 64 (.beginMsg { src := me_, tag := tag, handle := 0, dest := ⟨home.1, home.2, part, 0⟩
                                                              owner := me_, flags := netFlags, sizeLog2 := size })
      .wait (modIssued s2 w (fun i => { i with awaits := [{ tag := tag, pos := 0, handle := mkHandle home 0 0 }], sentAt := s.now, due := s.now + replyWaitNs s }))
    | a :: _, late =>
      match a.status with
      | none => .wait s
      | some st =>
        if st ≠ St.ok then placedDone s w st 0
        else
          match late with
          | [] =>
            let s1 := sendCopy (forgetCopy s (.shard w)) w.part 6 home part a.value [(0, bs)] (.shard w)
            .wait (modIssued s1 w (fun i => { i with late := [a.value] }))
          | [h] =>
            if copyFailed s (.shard w) then placedDone (forgetCopy s (.shard w)) w St.timeout 0
            else if copyPending s (.shard w) then .wait s
            else
              let m : TMsg := { ttype := 0x0B, src := selfParty s w.part, tag := a.tag, handle := h, newHandle := 0, refs := 1 }
              let s1 := sendMsg s w.part 6 home part 64 (.trapeze home m)
              .wait (modIssued s1 w (fun i => { i with awaits := [{ a with status := none }], late := [h, h], sentAt := s.now, due := s.now + replyWaitNs s }))
          | h :: _ => placedDone (sizeHandles (useHome s w.part (home.1, home.2, part) (2 ^ size : Nat)) w.part [h] (2 ^ size)) w St.ok h

/-! ## Parity and recovery (R407, R412) -/

/-- Bytes of shards, offset by offset. -/
def columns (n : Nat) (shards : List (List Byte)) : List (List Nat) :=
  (List.range n).map (fun x => shards.map (fun d => (d.getD x 0).toNat))

/-- P and Q of data shards (R407). -/
def parityOf (n : Nat) (data : List (List Byte)) : List Byte × List Byte :=
  let cs := columns n data
  (toBytes (cs.map parityP), toBytes (cs.map parityQ))

/-- Sum of gmul(2^i, d_i) over the data bytes held. -/
def weightedSum (ds : List (Nat × Nat)) : Nat := ds.foldl (fun a e => xorN a (gmul (gpow 2 e.1) e.2)) 0

/-- The data bytes of one offset from K survivors, as (shard, byte) (R412). -/
def recoverData (k : Nat) (held : List (Nat × Nat)) : List Nat :=
  let ds := held.filter (fun e => decide (e.1 < k))
  let P := (AMap.find? held k)
  let Q := (AMap.find? held (k + 1)).getD 0
  let sum := ds.foldl (fun a e => xorN a e.2) 0
  let missing := (List.range k).filter (fun i => (AMap.find? held i).isNone)
  let lost : List (Nat × Nat) := match missing with
    | [] => []
    | [a] => match P with
      | some p => [(a, xorN p sum)]
      | none => [(a, gmul (gpow 2 (255 - a)) (xorN Q (weightedSum ds)))]
    | a :: b :: _ =>
      let pr := xorN (P.getD 0) sum
      let qr := xorN Q (weightedSum ds)
      let da := gdiv (xorN qr (gmul (gpow 2 b) pr)) (xorN (gpow 2 a) (gpow 2 b))
      [(a, da), (b, xorN pr da)]
  (List.range k).map (fun i => match AMap.find? held i with
    | some v => v
    | none => AMap.getD lost i 0)

/-- One byte of shard j from K survivors (R412). -/
def recoverByte (k j : Nat) (held : List (Nat × Nat)) : Nat :=
  let ds := recoverData k held
  if j < k then ds.getD j 0 else if j = k then parityP ds else parityQ ds

/-- Shard j from the bytes of the survivors held. -/
def recoverShard (n k j : Nat) (idx : List Nat) (data : List (List Byte)) : List Byte :=
  toBytes ((columns n data).map (fun c => recoverByte k j (idx.zip c)))

/-! ## ENCODE, REBUILD, VERIFY (R409 to R417, R223) -/

/-- A stripe instruction's next stage, with what it has gathered; the deadline of a lower-tier read in it begins now (R157). -/
def nextStage (s : State) (w : IRef) (stage : Nat) (f : Issued → Issued) : State :=
  modIssued s w (fun i => f { i with result := stage, due := s.now + lateBoundNs s w.part })

/-- The address of a stripe instruction's descriptor, and the descriptor: in memory, or the copy of a rebuild request that
the ringmaster serves in its own queue, number 64 (R415; log entry 35). -/
def stripeBytes (s : State) (w : IRef) (i : Issued) : Option (List Byte) :=
  if w.queue = 64 then (AMap.find? (partOf s w.part).rebuildIn w.idx).map (·.descriptor) else devRead s (addrB i.words) 192

/-- Bits [23:8] of the descriptor's first word written (R406 LOST). -/
def putLost (at_ lost : Nat) : Effect := .devWrite (at_ + 1) (toLe 2 lost)

/-- One run of ENCODE. Stages 0 to K − 1 read the data shards, K and K + 1 place P and Q, then one stage adds a reference at each
data home, by the handle that the shard was read by (R409). `checks` holds those handles. -/
def encodeStage (s : State) (w : IRef) (i : Issued) (t : Stripe) : State :=
  let n := shardBytes t
  let stage := i.result
  let pq := parityOf n (pieces n i.image)
  if stage < t.k then
    match shardRead s w i stage (shardAt t stage) t.size with
    | .wait s1 => s1
    | .done s1 st data h =>
      if st = St.ok then nextStage s1 w (stage + 1) (fun i => { i with image := i.image ++ data, checks := i.checks ++ [(h, st, stage)] })
      else failWith s1 w st
  else if stage < t.k + 2 then
    let isP := stage == t.k
    match placeParity s w i (hHome (shardAt t stage)) (if isP then t.ppart else t.qpart) t.size (if isP then pq.1 else pq.2) with
    | .wait s1 => s1
    | .done s1 st h =>
      if st = St.ok then nextStage s1 w (stage + 1) (fun i => { i with held := i.held ++ [h] })
      else failWith (i.held.foldl (fun s x => freeHandle s w.part x) s1) w st
  else if stage < 2 * t.k + 2 then
    let x := stage - (t.k + 2)
    let h := ((i.checks.find? (fun e => e.2.2 == x)).map (·.1)).getD (shardAt t x)
    let after := fun (s : State) (st : Nat) => nextStage s w (stage + 1) (fun i => { i with
      awaits := [], bad := if st = St.ok then i.bad else i.bad ++ [x] })
    if hHome h = me s then
      let a := addRef s h (selfParty s w.part)
      after a.1 a.2
    else
      match i.awaits with
      | [] =>
        let a := sendFor s w x h 6 64 (fun src tag => .freeMsg (hHome h) { src := src, tag := tag, handle := h, add := true })
        modIssued a.1 w (fun i => { i with awaits := [a.2], sentAt := s.now, due := s.now + replyWaitNs s })
      | a :: _ => match a.status with
        | none => s
        | some st => after s st
  else
    let at_ := addrB i.words
    finish s w St.ok 0 [.putHandle (at_ + 0x40 + 8 * t.k) (i.held.getD 0 0), .putHandle (at_ + 0x48 + 8 * t.k) (i.held.getD 1 0),
                        putLost at_ (ofSetBits i.bad), .stripeKept at_]

/-- ENCODE (0x80; R409 to R411). -/
def execEncode (w : IRef) (s : State) : Answer :=
  withInstr s w 0x80 fun i =>
    match stripeBytes s w i with
    | none => readFault s w (addrB i.words) 192
    | some bs =>
      let t := stripeOf bs
      if !stripeOk t true then failWith s w St.badDescriptor else encodeStage s w i t

/-- Shards that count as lost when their read fails (R413). -/
def countsLost (st : Nat) : Bool := st == St.staleHandle || st == St.lost || st == St.homeLost || st == St.uncorrectable

/-- The next survivor to read from an index on: not shard j, not known lost (R412). -/
def nextSurvivor (t : Stripe) (j x : Nat) : Nat :=
  ((List.range (t.k + 2)).filter (fun c => decide (x ≤ c) && c != j && !bit t.lost c)).headD (t.k + 2)

/-- One run of REBUILD (R412 to R414). `bad` holds the survivors whose failure counts as a loss, `checks` the other survivors
that failed, whose LOST bits a STRIPE_LOST sets too. -/
def rebuildStage (s : State) (w : IRef) (i : Issued) (t : Stripe) (j : Nat) : State :=
  let at_ := if w.queue = 64 then 0 else addrB i.words
  let n := shardBytes t
  let lost := Nat.lor t.lost (ofSetBits i.bad)
  if i.held.length = t.k then
    match placeSealed s w.part t.size (max 1 (min 65534 t.rrefs)) (recoverShard n t.k j i.held (pieces n i.image)) with
    | none => failWith s w St.noSpace
    | some (s1, h) => finish s1 w St.ok h [.putHandle (at_ + 0x40 + 8 * j) h, putLost at_ (putBit lost j false)]
  else
    let c := nextSurvivor t j i.result
    if t.k + 2 ≤ c then finish s w St.stripeLost 0 [putLost at_ (Nat.lor lost (ofSetBits (i.checks.map (·.1))))]
    else
      match shardRead s w i c (shardAt t c) t.size with
      | .wait s1 => modIssued s1 w (fun i => { i with result := c })
      | .done s1 st data _ =>
        nextStage s1 w (c + 1) (fun i =>
          if st = St.ok then { i with held := i.held ++ [c], image := i.image ++ data }
          else if countsLost st then { i with bad := i.bad ++ [c] } else { i with checks := i.checks ++ [(c, st, 0)] })

/-- REBUILD (0x81; R412 to R414). -/
def execRebuild (w : IRef) (s : State) : Answer :=
  withInstr s w 0x81 fun i =>
    match stripeBytes s w i with
    | none => readFault s w (addrB i.words) 192
    | some bs =>
      let t := stripeOf bs
      let j := bits (opA i.words) 3 0
      if !stripeOk t false || decide (65534 < t.rrefs) then failWith s w St.badDescriptor
      else if t.k + 1 < j then failWith s w St.badOperand
      else rebuildStage s w i t j

/-- What an instruction still has on its way no longer concerns it. -/
def disown (s : State) (w : IRef) : State :=
  let drop := fun (o : Option IRef) => if o == some w then none else o
  { s with
    poltex := { s.poltex with
      txns := s.poltex.txns.map (fun t => { t with w := drop t.w })
      held := s.poltex.held.map (fun h => { h with txn := { h.txn with w := drop h.txn.w } }) }
    tlaley := { s.tlaley with conns := s.tlaley.conns.map (fun e => (e.1, { e.2 with xfers := e.2.xfers.map (fun x => { x with w := drop x.w }) })) } }

/-- A survivor in a lower tier that misses LATE_BOUND is passed over by this REBUILD; its LOST bit is not set (R414). That a
survivor of another home lies in a lower tier is for the command to say: no message tells its reader. -/
def lateSurvivor (s : State) (w : IRef) (i : Issued) (h : Nat) : State :=
  match stripeBytes s w i with
  | none => s
  | some bs =>
    let t := stripeOf bs
    let c := nextSurvivor t (bits (opA i.words) 3 0) i.result
    let here := i.late.isEmpty && hHome h == me s && lowerTier s (hFrame (followed s h))
    let away := !i.late.isEmpty && hHome (i.late.getD 1 0) != me s
    if i.awaits.isEmpty && (here || away) && decide (i.held.length < t.k ∧ c < t.k + 2) && shardAt t c == h
        && decide ((if i.due = 0 then i.issuedAt + lateBoundNs s w.part else i.due) ≤ s.now) then
      nextStage (disown s w) w (c + 1) (fun i => { i with late := [], effects := [], aux := 0 })
    else s

/-- The checks of an instruction after the deadline of the lower-tier read of a block: TIER_LATE, unless the read has failed
before (R153). -/
def markLate (s : State) (h : Nat) (cs : List (Nat × Nat × Nat)) : List (Nat × Nat × Nat) :=
  cs.map (fun c => if c.1 = h ∧ c.2.1 = St.ok ∧ lowerTier s c.2.2 then (c.1, St.tierLate, c.2.2) else c)

/-- A lower-tier block of the request that the attend inbox serves has come late (R150, R153). -/
def lateInbox (s : State) (p h : Nat) : State :=
  match (partOf s p).inboxDue with
  | some due => if due ≤ s.now then modPart s p (fun P => { P with inboxChecks := markLate s h P.inboxChecks }) else s
  | none => s

/-- LATE_BOUND_EXPIRY: a lower-tier block's deadline passes before an ATTEND, or a request of the attend inbox, has placed it
(R153), or before a REBUILD has read it (R414). -/
def execLateBoundExpiry (w : IRef) (h : Nat) (s : State) : Answer :=
  if w.queue = inboxQueue then .next (if ready s then lateInbox s w.part h else s)
  else if (issuedOf s w).any (fun i => opcodeOf i.words == 0x81) then withInstr s w 0x81 fun i => lateSurvivor s w i h
  else
    withInstr s w 0x20 fun i =>
      if i.started && i.aux == 0 && decide (i.due ≤ s.now) then modIssued s w (fun i => { i with checks := markLate s h i.checks })
      else s

/-- Bytes at which two byte strings differ. -/
def differing (a b : List Byte) : Nat := ((a.zip b).filter (fun e => e.1 != e.2)).length

/-- VERIFY (0x82; R417). -/
def execVerify (w : IRef) (s : State) : Answer :=
  withInstr s w 0x82 fun i =>
    match stripeBytes s w i with
    | none => readFault s w (addrB i.words) 192
    | some bs =>
      let t := stripeOf bs
      let n := shardBytes t
      if !stripeOk t false then failWith s w St.badDescriptor
      else if i.result < t.k + 2 then
        match shardRead s w i i.result (shardAt t i.result) t.size with
        | .wait s1 => s1
        | .done s1 st data _ =>
          if st = St.ok then nextStage s1 w (i.result + 1) (fun i => { i with image := i.image ++ data }) else failWith s1 w st
      else
        let all := pieces n i.image
        let pq := parityOf n (all.take t.k)
        finish s w St.ok (differing pq.1 (all.getD t.k []) + differing pq.2 (all.getD (t.k + 1) []))

/-! ## Rebuild messages (R415) -/

/-- A message taken from a partition's message inbox by its ringmaster. -/
def takeInbox (s : State) (p : Nat) (bs : List Byte) : State :=
  modPart s p (fun P => { P with inbox := P.inbox.erase bs })

/-- A rebuild message read by the ringmaster from the inbox; one of this module's own lands there first (R338, R415). -/
def takeRebuild (s : State) (p : Nat) (o : Out) (request : Bool) (m : RebuildMsg) : State :=
  let bs := rebuildBytes request m
  takeInbox (if s.noc.contains o then deliverInbox (takeNoc s o) p bs else s) p bs

/-- The connection without DEV on which the ringmaster's own messages go to a partition of another domain: one in use, or a new
one (DESIGN CHOICE, log entry 150). -/
def ringConn (s : State) (p : Nat) (to_ : Nat × Nat × Nat) : State × Option Nat := peerConn false s p to_.2.2 (to_.1, to_.2.1)

/-- A rebuild message on its way (R23, R415): to this module's own inbox over the network-on-chip, within the domain as a MSG
with a tag of its own choice, to another domain as a SEND with DEV 0 (log entry 150). -/
def sendRebuild (s : State) (p : Nat) (to_ : Nat × Nat × Nat) (request : Bool) (m : RebuildMsg) : State :=
  let bs := rebuildBytes request m
  if (to_.1, to_.2.1) = me s then { s with noc := s.noc ++ [.rebuildMsg to_ request m] }
  else if to_.1 = (me s).1 then
    let tag := fromLe ((List.range 4).map (Config.freeByte s.freeCtr)) % 0xFFFFFFFF
    let addr := tag + to_.2.2 * 2 ^ 32
    sendCargo (draw s) { tag := 0, w := none, op := 4, target := to_.2.1, addr := addr, len := bs.length, part := p, tc := 6 }
      { tag := addr, bytes := bs }
  else
    match ringConn s p to_ with
    | (s1, none) => s1
    | (s1, some n) =>
      let x : Xfer := { w := none, op := 4, first := 0, npsn := 0, len := bs.length, tc := 6, data := bs }
      addXfer s1 n { x with npsn := xferPsns s1 (connOf s1 n) x }

/-- A reply to a rebuild request (R415). -/
def replyRebuild (s : State) (p : Nat) (m : RebuildMsg) (status newHandle lost : Nat) : State :=
  let to_ := m.src
  sendRebuild s p (to_.domain, to_.ep, to_.part) false
    { src := selfParty s p, shard := m.shard, status := status, tag := m.tag, newHandle := newHandle, lost := lost }

/-- The words of the REBUILD that the ringmaster issues for a request: its descriptor is the ringmaster's own copy. -/
def rebuildWords (m : RebuildMsg) : List Nat := [0x81 + 1 * 2 ^ 8 + 1 * 2 ^ 12 + m.shard % 16 * 2 ^ 32, 0]

/-- REBUILD_REQUEST_MSG: the ringmaster copies the descriptor and issues REBUILD in its own queue (R415). -/
def execRebuildRequestMsg (p : Nat) (m : RebuildMsg) (s : State) : Answer :=
  let o : Out := .rebuildMsg ((me s).1, (me s).2, p) true m
  if !ready s || !composed s p || (partOf s p).state != .running || !nocFirst s o then .next s
  else
    let s1 := takeRebuild s p o true m
    if !roleRuns (roleOf s) 0x81 then .next (replyRebuild s1 p m St.notInRole 0 (leAt m.descriptor 1 2))
    else
      let q := queueOf (partOf s1 p) 64
      let i : Issued := { idx := q.next, words := rebuildWords m, issuedAt := s.now, order := (partOf s1 p).issues }
      .next (modPart s1 p (fun P =>
        { setQueue P 64 { q with issued := q.issued ++ [i], next := q.next + 1 } with
          rebuildIn := AMap.insert P.rebuildIn q.next m, issues := P.issues + 1 }))

/-- A REBUILD of the ringmaster's own queue ends: its reply is sent and the copy discarded (R415). -/
def endRebuildIn (s : State) (p : Nat) (i : Issued) : State :=
  match AMap.find? (partOf s p).rebuildIn i.idx with
  | none => s
  | some m =>
    let lost := i.effects.foldl (fun a e => match e with
      | .devWrite 1 bs => fromLe bs
      | _ => a) (leAt m.descriptor 1 2)
    let s1 := modPart s p (fun P => { P with rebuildIn := AMap.erase P.rebuildIn i.idx })
    replyRebuild s1 p m (i.status.getD 0) i.result lost

/-! ## Lost homes (R155, R416) -/

/-- Handle vectors of the partition's prefix entries: position and address with count (R280). -/
def indexVectors (s : State) (p : Nat) : List (Nat × Nat × Nat) :=
  let r := ixRun s p
  ((runEntriesOf s.index.array r.1 r.2).filter (fun e => bits e.2.value 143 128 == 1)).map
    (fun e => (e.1, bits e.2.result 47 0, bits e.2.result 63 48))

/-- Words of a handle vector that hold a handle: their addresses. -/
def vectorHits (s : State) (p h : Nat) : List Nat :=
  ((indexVectors s p).map (fun v =>
    if mayAccess s p v.2.1 (8 * v.2.2) then
      ((List.range v.2.2).map (fun l => v.2.1 + 8 * l)).filter (fun a => devWord s a == h) else [])).flatten

/-- Does a request's block table name a handle. -/
def tableNames (s : State) (p idx h : Nat) : Bool := (tableHandles s p (recOf s p idx)).any (fun e => e.2.2 == h)

/-- RREFS of a rebuild: the entries that name the shard, plus 1 when the partition is the stripe's keeper (R416). -/
def rebuildRefs (s : State) (p d h : Nat) : Nat :=
  ((tabledRequests s p).map (fun i => ((tableHandles s p (recOf s p i)).filter (fun e => e.2.2 == h)).length)).foldl (· + ·) 0
    + (vectorHits s p h).length + (if keeps s p d then 1 else 0)

/-- A handle replaced in every block table and handle vector of the partition (R416). -/
def replaceHandle (s : State) (p old new : Nat) : State :=
  let s1 := (tabledRequests s p).foldl (fun s i =>
    let r := recOf s p i
    ((tableHandles s p r).filter (fun e => e.2.2 == old)).foldl (fun s e => putEntry s p r e.1 e.2.1 new) s) s
  (vectorHits s1 p old).foldl (fun s a => devPut s a (toLe 8 new)) s1

/-- Stalled requests whose rebuilds are all answered go on (R416). -/
def unstall (s : State) (p : Nat) : State :=
  (liveRequests s p).foldl (fun s i =>
    let r := recOf s p i
    if r.stalled ∧ !(partOf s p).rebuildsOut.any (fun x =>
        tableNames s p i (shardAt (stripeOf (stripeAt s p x.descr)) x.shard)) then
      setRec s p i { r with stalled := false }
    else s) s

/-- A stripe treated as lost: its requests end with LOST, its prefix entries go (R416). -/
def loseStripe (s : State) (p descr : Nat) : State :=
  let t := stripeOf (stripeAt s p descr)
  let data := t.shards.take t.k
  let s1 := modPart s p (fun P => { P with stripesLost := min 0xFFFF (P.stripesLost + 1), stripes := P.stripes.filter (fun e => e.1 != descr)
                                           rebuildsOut := P.rebuildsOut.filter (fun x => x.descr != descr) })
  let s2 := (liveRequests s1 p).foldl (fun s i => if data.any (tableNames s p i) then failRequest s p i St.lost else s) s1
  let named := (indexVectors s2 p).filter (fun v =>
    mayAccess s2 p v.2.1 (8 * v.2.2) && (List.range v.2.2).any (fun l => data.contains (devWord s2 (v.2.1 + 8 * l))))
  unstall (named.foldl (fun s v => writePos s v.1 none) s2) p

/-- A rebuild asked of the next home, or the stripe lost after three (R408, R416). -/
def askRebuild (s : State) (p : Nat) (x : RebuildWait) : State :=
  let bs := stripeAt s p x.descr
  let t := stripeOf bs
  let h := shardAt t x.shard
  let used := ((t.shards.take (t.k + 2)).map hHome) ++ x.homes
  if 3 ≤ x.tries then loseStripe s p x.descr
  else
    match chooseHome s p (recOf s p x.req).pool used with
    | none => loseStripe s p x.descr
    | some e =>
      let (s1, tag) := takeTag s p
      let d := bs.take 9 ++ toLe 2 (min 65534 (rebuildRefs s p x.descr h)) ++ bs.drop 11
      let m : RebuildMsg := { src := selfParty s1 p, shard := x.shard, tag := tag, descriptor := d }
      let s2 := sendRebuild s1 p (e.domain, e.ep, e.part) true m
      modPart s2 p (fun P => { P with rebuildsOut := P.rebuildsOut ++
        [{ x with tag := tag, tries := x.tries + 1, due := s.now + 1000000 * max 1 (partOf s p).ecNow.rebuildWait, homes := x.homes ++ [(e.domain, e.ep)] }] })

/-- The stripes of the partition that hold a handle, with the shards to be rebuilt when it is lost: the handle's own, every
data shard known lost that the requests read, and, when the partition is the keeper, the parity shards known lost (R416). -/
def lostShards (s : State) (p h : Nat) : List (Nat × List Nat) :=
  ((partOf s p).stripes.filterMap (fun e =>
    let d := e.1
    let t := stripeOf (stripeAt s p d)
    let used := t.shards.take (t.k + 2)
    let wanted := fun (j : Nat) => used.getD j 0 == h
      || (bit t.lost j && ((decide (t.k ≤ j) && e.2) || (liveRequests s p).any (fun i => tableNames s p i (used.getD j 0))))
    if used.contains h then some (d, (List.range used.length).filter wanted) else none))

/-- HOME_LOST for blocks of a request: rebuilds are asked for, and the request waits for them (R155, R416). -/
def loseHomes (s : State) (p idx : Nat) (handles : List Nat) : State :=
  let wanted := ((handles.map (lostShards s p)).flatten.map (fun e => e.2.map (fun j => (e.1, j)))).flatten.eraseDups
  let fresh := wanted.filter (fun e => !(partOf s p).rebuildsOut.any (fun x => x.descr == e.1 && x.shard == e.2))
  let s1 := if wanted.isEmpty then s else setRec s p idx { recOf s p idx with stalled := true }
  let s2 := fresh.foldl (fun s e =>
    stripePut s p e.1 1 (toLe 2 (putBit (stripeOf (stripeAt s p e.1)).lost e.2 true))) s1
  fresh.foldl (fun s e => askRebuild s p ⟨0, idx, e.1, e.2, 0, s.now, []⟩) s2

/-- Is a handle a shard of a stripe that the partition holds: it was coded with NET (R155). -/
def codedNet (s : State) (p h : Nat) : Bool := !(lostShards s p h).isEmpty

/-- REBUILD_REPLY_MSG (R415, R416). -/
def execRebuildReplyMsg (p : Nat) (m : RebuildMsg) (s : State) : Answer :=
  let o : Out := .rebuildMsg ((me s).1, (me s).2, p) false m
  if !ready s || !nocFirst s o then .next s
  else
    let s0 := takeRebuild s p o false m
    match (partOf s0 p).rebuildsOut.find? (fun x => x.tag == m.tag) with
    | none => .next s0
    | some x =>
      let s1 := modPart s0 p (fun P => { P with rebuildsOut := P.rebuildsOut.filter (fun y => y.tag != m.tag) })
      let t := stripeOf (stripeAt s1 p x.descr)
      let lost := Nat.lor t.lost m.lost
      let old := shardAt t x.shard
      if m.status = St.ok then
        let s2 := replaceHandle s1 p old m.newHandle
        let s3 := stripePut (stripePut s2 p x.descr (0x40 + 8 * x.shard) (toLe 8 m.newHandle)) p x.descr 1 (toLe 2 (putBit lost x.shard false))
        .next (unstall (modPart s3 p (fun P => { P with rebuilds := (P.rebuilds + 1) % 2 ^ 32 })) p)
      else
        let s2 := stripePut s1 p x.descr 1 (toLe 2 lost)
        if m.status = St.stripeLost then .next (loseStripe s2 p x.descr) else .next (askRebuild s2 p x)

/-- REBUILD_WAIT_EXPIRY: no reply within REBUILD_WAIT: the next home is tried (R416). -/
def execRebuildWaitExpiry (p tag : Nat) (s : State) : Answer :=
  match (partOf s p).rebuildsOut.find? (fun x => x.tag == tag) with
  | none => .next s
  | some x =>
    if ready s && decide (x.due ≤ s.now) then
      .next (askRebuild (modPart s p (fun P => { P with rebuildsOut := P.rebuildsOut.filter (fun y => y.tag != tag) })) p x)
    else .next s

/-- The blocks that a job's status speaks of: with UNCORRECTABLE, of those of this home the ones that cannot be read (R155; log
entry 33). -/
def lostBlocks (s : State) (st : Nat) (hs : List Nat) : List Nat :=
  hs.filter (fun h => st != St.uncorrectable || hHome h != me s || (frameBytes s (hFrame h)).isNone)

/-- What the ringmaster does with the output status of a request's MERGE job (R155). -/
def jobOutcome (s : State) (p idx st : Nat) (blocks : List Nat) : State :=
  let r := recOf s p idx
  let hs := lostBlocks s st blocks
  let back := fun (s : State) => setRec (addWaste s p (r.w - r.c)) p idx { recOf s p idx with w := r.c }
  if roleOf s ≠ roleGeneration ∨ r.state ≠ .running ∨ st = St.ok then s
  else if st = St.homeLost ∨ (st = St.uncorrectable ∧ hs.any (codedNet s p)) then loseHomes (back s) p idx hs
  else if st = St.busy ∨ st = St.fencePending then back s
  else failRequest s p idx st

end Sys2Proof.Machine
end

