-- ==== Sys2Proof/Machine/Arrivals.lean ====
section
/-! DEFINITION. What the homes' messages do at a party and its ringmaster: REPLY, QUERY_REPLY, OFFER, CONFIRM, RETURNED,
MIGRATE_DONE and MIGRATE_ABORT, the outcomes waited for, and demotion (04_trapeze_handover.md R101 to R112, R121;
06_speculation_and_streams.md R165, R184; 03_state_blocks.md R78). -/

namespace Sys2Proof.Machine

/-! ## Delivery (R97, R106) -/

/-- Is a message for the current epoch of the partition that it names (R106). -/
def forEpoch (s : State) (m : TMsg) : Bool := m.toEpoch == 0 || m.toEpoch == (partOf s m.toPart).epoch

/-- Run an event of a party that a message brings: the module is ready, the message has its turn on the network-on-chip (R36,
R37), is of level 1 (R46) and names a current epoch; an event of a retired epoch is discarded and counted (R106). -/
def partyEvent (o : Out) (m : TMsg) (s : State) (f : State → State) : Answer :=
  if !ready s || !nocFirst s o then .next s
  else if m.level ≠ 1 then .next (strayMsg (takeNoc s o))
  else
    let s1 := takeNoc s o
    .next (if forEpoch s1 m then f s1
           else { s1 with home := { s1.home with staleEvents := s1.home.staleEvents + 1 } })

/-- An event that a trapeze message of its own brings. -/
def withEvent (m : TMsg) (s : State) (f : State → State) : Answer := partyEvent (.trapeze (me s) m) m s f

/-- NOT_OWNER answers to an instruction are logged as violations (R444). -/
def noteNotOwner (s : State) (w : IRef) (st h : Nat) : State :=
  if st = St.notOwner then violation s (some w.part) 1 (me s) (hFrame h * 0x4000) (ctxOf w) (some w.queue) st else s

/-! ## Hand-over (R102 to R105, R184) -/

/-- OFFER at the offeree (R102). -/
def execOffer (m : TMsg) (s : State) : Answer :=
  withEvent m s fun s =>
    modPart s m.toPart (fun P => { P with offersIn := P.offersIn.filter (fun o => o.handle != m.handle) ++ [m] })

/-- The offers of a handle forgotten. -/
def dropOffer (s : State) (p h : Nat) : State :=
  modPart s p (fun P => { P with offersIn := P.offersIn.filter (fun o => o.handle != h) })

/-- A record as its 128 bytes (R65). -/
def recImage (r : Rec) : List Byte :=
  toLe 8 (r.customer % 2 ^ 16 * 2 ^ 32 + r.cls % 8 * 2 ^ 48 + r.geom % 16 * 2 ^ 56 + 2 ^ 60) ++ toLe 8 (r.c % 2 ^ 32 + r.w % 2 ^ 32 * 2 ^ 32)
    ++ toLe 8 (r.depth % 16 + r.mbatch % 256 * 2 ^ 8 + r.layers % 2 ^ 16 * 2 ^ 16 + r.stride % 2 ^ 32 * 2 ^ 32)
    ++ toLe 8 r.btable ++ toLe 8 r.tokens ++ toLe 8 r.ring
    ++ toLe 8 (r.ringLog2 % 32 + r.ringHost % 4 * 2 ^ 5 + r.sealed % 2 ^ 32 * 2 ^ 32) ++ toLe 8 r.model ++ toLe 8 r.admitted
    ++ toLe 8 (r.prompt % 2 ^ 32 + r.pool % 256 * 2 ^ 32) ++ toLe 16 r.lastHash ++ List.replicate 32 0

/-- The stripes that hold a block of a request: all that this partition holds a copy of (R411). -/
def stripesOf (s : State) (p idx : Nat) : List Nat :=
  ((partOf s p).stripes.map (·.1)).filter (fun d => (stripeShards s p d).any (tableNames s p idx))

/-- Is a stripe one of the request's own: it holds no block that an entry of the index names (R411). -/
def privateStripe (s : State) (p d : Nat) : Bool := (stripeShards s p d).all (fun h => (vectorHits s p h).isEmpty)

/-- The record of a request that is handed over, as its releaser's ringmaster sends it with the offer of the first of its tail
frames, with its stripes (R184, R411). The manual gives the message no form and the first token no source: it goes beside the
messages, and the verdict's bytes are left open (DESIGN CHOICE, log entry 153). -/
def sendRecord (s : State) (p h : Nat) (to_ : Party) : State :=
  match namedBy s p h with
  | none => s
  | some (i, _, _) =>
    let r := recOf s p i
    if r.state ≠ .prefill ∨ r.caught ∨ ((tailFrames s p r).head?.map (fun e => e.2.2)) ≠ some h then s
    else
      let copies := (stripesOf s p i).map (fun d => (stripeAt s p d, keeps s p d && privateStripe s p d))
      emitOut (draw s) (.handOver (to_.domain, to_.ep, to_.part)
        { index := i, image := recImage r, verdict := (List.range 24).map (Config.freeByte s.freeCtr), stripes := copies })

/-- The catcher installs the record that the releaser sent, by OPENREQ's checks with INSTALL (R170), and EMITs its first token
by EMIT's (R184); it takes the copies of its stripes (R411). A record that fails them is not installed. -/
def installHand (s : State) (p : Nat) (x : HandOver) : State :=
  let old := recOf s p x.index
  let r := fillRecord old x.image true
  if old.state ≠ .free ∨ templateStatus s p r ≠ St.ok then s
  else
    let a := emitStatus (setRec (x.stripes.foldl (fun s e => takeCopy s p e.1 e.2) s) p x.index r) p x.index x.verdict
    if a.2 = St.ok then emitReq a.1 p x.index (leAt x.verdict 0x10 8) else a.1

/-- A list FREE that names every shard of a stripe dissolves it: the partition holds no copy of it any more (R411). -/
def dissolve (s : State) (p : Nat) (i : Issued) : State :=
  let hs := i.awaits.map (·.handle)
  modPart s p (fun P => { P with stripes := P.stripes.filter (fun e =>
    (stripeShards s p e.1).isEmpty || (stripeShards s p e.1).any (fun h => !hs.contains h)) })

/-- The copies of a handed-over request's private stripes are the catcher's (R411). -/
def giveStripes (s : State) (p idx : Nat) : State :=
  let gone := (stripesOf s p idx).filter (privateStripe s p)
  modPart s p (fun P => { P with stripes := P.stripes.filter (fun e => !gone.contains e.1) })

/-- The releaser gives up a block that was caught, and its record once it owns no tail frame (R184). -/
def giveUp (s : State) (p h : Nat) : State :=
  match namedBy s p h with
  | none => s
  | some (i, l, j) =>
    let s1 := putEntry s p (recOf s p i) l j 0
    if (tailFrames s1 p (recOf s1 p i)).isEmpty then freeRecord (giveStripes s1 p i) p i else s1

/-- The instruction that awaits an answer with a tag, answered and settled. -/
def answerInstr (s : State) (p tag status value : Nat) (fx : List Effect) : Option State :=
  match awaiting s p tag with
  | none => none
  | some (w, _, a) =>
    let s1 := answerAwait (noteNotOwner s w status a.handle) w tag status value
    some (settle (modIssued s1 w (fun i => { i with effects := i.effects ++ fx })) w)

/-- CONFIRM at the catcher: its CATCH completes, the offer and the wait are over, a record that came with it is installed. -/
def confirmCatcher (s : State) (m : TMsg) (hand : Option HandOver) : State :=
  let p := m.toPart
  let s1 := dropOffer (outcomeCame s p m.handle) p m.handle
  let s2 := (answerInstr s1 p m.tag St.ok 0 []).getD s1
  match hand with
  | some x => installHand s2 p x
  | none => s2

/-- CONFIRM (R103, R184): at the catcher, or at the releaser, which gives up its copy of the record. -/
def execConfirm (m : TMsg) (hand : Option HandOver) (s : State) : Answer :=
  withEvent m s fun s =>
    let p := m.toPart
    let catcher := hand.isSome || (match awaiting s p m.tag with
        | some (_, i, a) => opcodeOf i.words == 0x14 && a.handle == m.handle
        | none => false)
      || (partOf s p).offersIn.any (fun o => o.handle == m.handle)
    if catcher then confirmCatcher s m hand else giveUp (outcomeCame s p m.handle) p m.handle

/-- Offers made of a handle. -/
def offersOf (r : Rec) (h : Nat) : Nat := max 1 (AMap.getD r.offers h 1)

/-- The generation node after the one last tried (R184). -/
def nextNode (s : State) (p list : Nat) (last : Party) : Option PlaceEntry :=
  let ns := generationNodes s p list
  let k := ns.findIdx (fun e => e.domain == last.domain && e.ep == last.ep && e.part == last.part)
  let k' := if k < ns.length then k + 1 else 0
  ((ns.drop k') ++ (ns.take k')).find? (fun e => !(e.domain == last.domain && e.ep == last.ep && e.part == last.part))

/-- A block offered again to another generation node; after three offers the request is retired with the returned status
(R184), and before that where its list names no other generation node (log entry 142). -/
def offerAgain (s : State) (p idx h st : Nat) (last : Party) : State :=
  let r := recOf s p idx
  let n := offersOf r h
  match (if n < 3 then nextNode s p r.pool last else none) with
  | none => retireReq s p idx (0x40 + st)
  | some e =>
    let s1 := setRec s p idx { r with offers := AMap.insert r.offers h (n + 1) }
    let (s2, tag) := takeTag s1 p
    let m : TMsg := { ttype := 0x01, src := selfParty s2 p, tag := tag, handle := h, peer := ⟨e.domain, e.ep, e.part, 0⟩ }
    expectOutcome (sendRecord (sendMsg s2 p 2 (hHome h) 0 64 (.trapeze (hHome h) m)) p h m.peer) p tag h (s.now + holdNs s 0 + 2 * replyWaitNs s)

/-- The home that a lost tail block goes to, none of those tried: a cache-role one for a pre-empted request, else a generation
node (R121 step 3). -/
def recoverHome (s : State) (p : Nat) (r : Rec) (tried : List (Nat × Nat)) : Option PlaceEntry :=
  if r.state = .preempted then chooseHome s p r.pool tried
  else (generationNodes s p r.pool).find? (fun e => !tried.contains (e.domain, e.ep))

/-- log2 of the granules of a request's blocks. -/
def blockLog2 (s : State) (p : Nat) (r : Rec) : Nat :=
  match usableGeom s p r.geom with
  | some (_, k) => k
  | none => 0

/-- A lost tail block: a new home is chosen, none of those tried, and a frame asked of it, which software then fills; when no home
is left that has not been tried the request is retired with LOST (R121 step 3, R184). -/
def recoverBlock (s : State) (p idx l j : Nat) (tried : List (Nat × Nat)) : State :=
  let r := recOf s p idx
  if r.state = .free ∨ r.state = .ended then s
  else
    match recoverHome s p r tried with
    | none => retireReq s p idx (0x40 + St.lost)
    | some e =>
      let (s1, tag) := takeTag s p
      let m : AllocMsg := { src := selfParty s1 p, tag := tag, home := (e.domain, e.ep), part := e.part, owner := selfParty s1 p
                            flags := if r.state = .preempted then 2 else 1, sizeLog2 := blockLog2 s p r, count := 1 }
      let s2 := sendMsg s1 p 2 (e.domain, e.ep) e.part 64 (.allocMsg m)
      modPart (putEntry s2 p r l j 0) p (fun P => { P with recovering := P.recovering ++
        [{ tag := tag, req := idx, layer := l, block := j, tried := (e.domain, e.ep) :: tried, due := s.now + replyWaitNs s }] })

/-- RETURNED as its party acts on it (R184). -/
def returned (s : State) (p h st : Nat) (peer : Party) : State :=
  let s1 := outcomeCame s p h
  match namedBy s1 p h with
  | none => dropOffer s1 p h
  | some (i, l, j) =>
    if st = St.expired ∨ st = St.offereeFenced then offerAgain s1 p i h st peer
    else if st = St.lost then recoverBlock s1 p i l j [hHome h]
    else s1

/-- RETURNED (R104, R105, R107, R184). -/
def execReturned (m : TMsg) (s : State) : Answer := withEvent m s fun s => returned s m.toPart m.handle m.status m.peer

/-! ## REPLY and QUERY_REPLY (R102, R108, R109, R212) -/

/-- What a State instruction takes of the answer to one of its messages: the value, and the memory it will write. -/
def replyValue (i : Issued) (m : TMsg) (handles : List Nat) : Nat × List Effect :=
  match opcodeOf i.words with
  | 0x10 => (m.newHandle, ((List.range handles.length).zip handles).map (fun e => Effect.putHandle (addrB i.words + 8 * e.1) e.2))
  | 0x11 => (m.flags, [])
  | 0x12 => (handles.headD 0, [])
  | _ => (m.newHandle, [])

/-- The ringmaster's estimate of a home after the answer to an ALLOC (R75). -/
def noteAlloc (s : State) (p : Nat) (i : Issued) (m : TMsg) (handles : List Nat) : State :=
  if opcodeOf i.words ≠ 0x10 ∨ (m.src.domain, m.src.ep) = me s then s
  else
    let home := (m.src.domain, m.src.ep, m.src.part)
    if m.status = St.ok then sizeHandles (useHome s p home ((handles.length * 2 ^ i.aux : Nat) : Int)) p handles (2 ^ i.aux)
    else if m.status = St.noSpace then homeFull s p home else s

/-- The ringmaster's estimate of a home after the answer to a FREE: the granules of the frame that was freed there, if one was,
count no more (R75). -/
def noteFree (s : State) (p : Nat) (m : TMsg) (handles : List Nat) : State :=
  let home := (m.src.domain, m.src.ep, m.src.part)
  let n := handles.getD 1 0
  if m.status = St.ok ∧ n ≠ 0 ∧ (partOf s p).homeUse.any (fun u => (u.domain, u.ep, u.part) == home) then
    modPart (useHome s p home (-(n : Int))) p (fun P => { P with sized := AMap.erase P.sized m.handle })
  else s

/-- The outcome that the releaser of an accepted RELEASE waits for: DEADLINE plus the reply wait (R109). -/
def noteRelease (s : State) (p h : Nat) (m : TMsg) : State :=
  if m.status = St.ok ∧ m.time ≠ 0 then
    expectOutcome (outcomeCame s p h) p m.tag h (m.time + replyWaitNs s)
  else outcomeCame s p h

/-- The answer to an ALLOC that replaces a lost frame (R121): the home's estimate follows it (R75). -/
def noteRecovered (s : State) (p : Nat) (m : TMsg) (handles : List Nat) : State :=
  match (partOf s p).recovering.find? (fun x => x.tag == m.tag) with
  | none => s
  | some x =>
    let s1 := modPart s p (fun P => { P with recovering := P.recovering.filter (fun y => y.tag != m.tag) })
    let home := (m.src.domain, m.src.ep, m.src.part)
    let n := 2 ^ blockLog2 s p (recOf s p x.req)
    if m.status = St.ok then
      putEntry (sizeHandles (useHome s1 p home (n : Nat)) p handles n) p (recOf s1 p x.req) x.layer x.block (handles.headD 0)
    else recoverBlock (if m.status = St.noSpace then homeFull s1 p home else s1) p x.req x.layer x.block x.tried

/-- The estimates of the homes that moves were to go to have their granules back (R75). -/
def unuseHomes (p : Nat) : List Moving → State → State
  | [], s => s
  | x :: xs, s => unuseHomes p xs (match x.pool with
    | some e => useHome s p e.1 (-(e.2 : Int))
    | none => s)

/-- A move that the ringmaster started has come to nothing: its home's estimate has the granules back, and it is tried again at
the next STEP (R75, R164, R165). The block of a retired request is freed where it lies (R158). -/
def dropMove (s : State) (p h : Nat) : State :=
  let gone := (partOf s p).moving.filter (fun x => x.handle == h)
  let s1 := modPart (unuseHomes p gone s) p (fun P => { P with
    moving := (P.moving.filter (fun x => x.handle != h || (x.back && !x.orphan))).map
                (fun x => if x.handle = h then { x with again := true } else x) })
  if gone.any (·.orphan) then freeHandle s1 p h else s1

/-- The answer to a SEAL that the ringmaster asked of another home: the block is sealed and the next full blocks follow; after
BUSY it is tried again at the next STEP, after another status the request ends (R176). -/
def sealAnswer (s : State) (p : Nat) (m : TMsg) : State :=
  match (partOf s p).sealsOut.find? (fun x => x.tag == m.tag) with
  | none => s
  | some x =>
    let s1 := outcomeCame (modPart s p (fun P => { P with sealsOut := P.sealsOut.filter (fun y => y.tag != m.tag) })) p x.handle
    if m.status = St.ok then sealOn (sealDone s1 p x.req x.layer x.block x.handle x.hash m.flags) p x.req
    else if m.status = St.busy then s1
    else failRequest s1 p x.req m.status

/-- A REPLY that no instruction awaits: to a request of the ringmaster's own. -/
def replyToRingmaster (s : State) (p : Nat) (m : TMsg) (handles : List Nat) : State :=
  if (partOf s p).recovering.any (fun x => x.tag == m.tag) then noteRecovered s p m handles
  else if (partOf s p).sealsOut.any (fun x => x.tag == m.tag) then sealAnswer s p m
  else
    let s1 := if (partOf s p).outcomes.any (fun o => o.tag == m.tag) then noteRelease s p m.handle m else s
    if m.status = St.ok then noteFree s1 p m handles else dropMove s1 p m.handle

/-- The form in which a REPLY waits: with the handles or counts that it brings, or its 64 bytes alone (log entry 66). -/
def replyForm (s : State) (m : TMsg) (handles : List Nat) : Out :=
  if s.noc.contains (.allocReply (me s) m handles) then .allocReply (me s) m handles else .trapeze (me s) m

/-- REPLY (R97, R102, R109, R212): the instruction that sent the request, or the ringmaster's own request. -/
def execReply (m : TMsg) (handles : List Nat) (s : State) : Answer :=
  partyEvent (replyForm s m handles) m s fun s =>
    let p := m.toPart
    let s1 := noteFenced s p m.status
    match awaiting s1 p m.tag with
    | some (_, i, a) =>
      let op := opcodeOf i.words
      let s2 := noteAlloc s1 p i m handles
      let s3 := if op = 0x13 then noteRelease (if m.status = St.ok then sendRecord s2 p a.handle (partyOfWord (extLo i.words 1)) else s2) p a.handle m else if op = 0x14 then outcomeCame s2 p a.handle
        else if op = 0x12 then noteFree (dissolve s2 p i) p m handles else s2
      let v := replyValue i m handles
      (answerInstr s3 p m.tag m.status v.1 (if m.status = St.ok then v.2 else [])).getD s3
    | none => replyToRingmaster s1 p m handles

/-- RESULT of a QUERY (R212). -/
def queryResult (m : TMsg) : Nat :=
  m.state % 16 + m.peer.domain % 2 ^ 12 * 2 ^ 4 + m.peer.ep % 2 ^ 10 * 2 ^ 16 + m.peer.part % 16 * 2 ^ 26
    + m.peer.epoch % 2 ^ 32 * 2 ^ 30

/-! ## Ends of moves (R74, R111, R165, R184, R419) -/

/-- A block copied away from a straggler lies at its new home: its group entries go there from now on (R419). -/
def noteRehomed (s : State) (p old new : Nat) : Option (Nat × Nat × Nat) → State
  | none => s
  | some d => modPart s p (fun P => { P with
      rehomed := (P.rehomed.filter (fun e => e.1 != old && e.2.1 != old)) ++
        ((P.rehomed.filter (fun e => e.2.1 == old)).map (fun e => (e.1, new, d))) ++ [(old, new, d)] })

/-- A block's move has ended: the new handle stands where the old one did, and a pre-empted request whose whole tail has
returned runs (R165, R184). The block of a retired request is freed where it now lies (R158). -/
def moveDone (s : State) (p old new : Nat) : State :=
  match (partOf s p).moving.find? (fun x => x.handle == old) with
  | none => s
  | some x =>
    let s1 := modPart s p (fun P => { P with moving := P.moving.filter (fun y => y.handle != old) })
    if x.orphan then freeHandle s1 p new
    else
      let s1' := match x.pool with
        | some e => sizeHandles s1 p [new] e.2
        | none => s1
      let s2 := noteRehomed (replaceHandle s1' p old new) p old new x.rehome
      let r := recOf s2 p x.req
      if x.back ∧ r.returning ∧ r.state = .preempted ∧ (tailMoves s2 p x.req).isEmpty then
        runRequest (setRec s2 p x.req { r with returning := false }) p x.req
      else s2

/-- The frame that a MIGRATE moved counts at its new home (R75). -/
def noteMigrated (s : State) (m : TMsg) : State :=
  match awaiting s m.toPart m.tag with
  | some (_, i, _) =>
    if opcodeOf i.words ≠ 0x15 ∨ i.aux = 0 then s else sizeHandles s m.toPart [m.newHandle] (chosenOf i.aux).2
  | none => s

/-- The home that a move was refused by has no space, or has its granules back (R75). -/
def noteAborted (s : State) (m : TMsg) : State :=
  let s1 := if m.status = St.noSpace ∧ (m.src.domain, m.src.ep) ≠ me s then
      homeFull s m.toPart (m.src.domain, m.src.ep, m.src.part) else s
  match awaiting s m.toPart m.tag with
  | some (_, i, _) =>
    if opcodeOf i.words ≠ 0x15 ∨ i.aux = 0 then s1
    else useHome s1 m.toPart (chosenOf i.aux).1 (-((chosenOf i.aux).2 : Int))
  | none => s1

/-- MIGRATE_DONE (R111 step 6, R79, R184): at the source home, or at the party that asked. -/
def execMigrateDone (m : TMsg) (s : State) : Answer :=
  withEvent m s fun s =>
    if m.toEpoch = 0 then doneAtSource (lapse s m.handle) m
    else
      let s1 := noteMigrated (outcomeCame s m.toPart m.handle) m
      (answerInstr s1 m.toPart m.tag St.ok m.newHandle []).getD (moveDone s1 m.toPart m.handle m.newHandle)

/-- MIGRATE_ABORT (R111, R112, R164): at a home, or at the party that asked. A MIGRATE completes with MIGRATE_ABORT. -/
def execMigrateAbort (m : TMsg) (s : State) : Answer :=
  withEvent m s fun s =>
    if m.toEpoch = 0 then abortAtHome s m
    else
      let s1 := noteAborted (outcomeCame s m.toPart m.handle) m
      match awaiting s1 m.toPart m.tag with
      | some (_, i, _) =>
        let st := if opcodeOf i.words = 0x15 then St.migrateAbort else m.status
        (answerInstr s1 m.toPart m.tag st 0 []).getD s1
      | none => dropMove s1 m.toPart m.handle

/-! ## Outcomes (R109, R110) -/

/-- What the ringmaster makes of a QUERY_REPLY to its own QUERY, as of the outcome that did not come (R109). After a MIGRATE, MOVED
gives the new handle, and an OPEN frame shows that it did not move (R111). A releaser whose frame is OPEN and its own again has
EXPIRED; one whose frame has another owner, or is gone, has given it up. -/
def outcomeFrom (s : State) (p : Nat) (m : TMsg) (move : Bool) : State :=
  let h := m.handle
  let s1 := outcomeCame s p h
  let own := sameIdentity m.peer (selfParty s p)
  match (partOf s p).sealsOut.find? (fun x => x.handle == h) with
  | some x => sealAnswer s1 p { m with tag := x.tag, status := if m.status = St.ok then (if m.state = 3 then St.ok else St.busy) else m.status }
  | none =>
  if (partOf s p).moving.any (fun x => x.handle == h) then
    if m.status = St.moved then moveDone s1 p h m.newHandle
    else if m.status = St.lost then returned (dropMove s1 p h) p h St.lost m.peer
    else dropMove s1 p h
  else if m.status = St.lost then returned s1 p h St.lost m.peer
  else if m.status = St.moved ∧ (move ∨ own) then replaceHandle s1 p h m.newHandle
  else if move then s1
  else if (partOf s p).offersIn.any (fun o => o.handle == h) then
    if m.status = St.ok ∧ own then confirmCatcher s1 m none else dropOffer s1 p h
  else if m.status = St.ok ∧ own then (if m.state = 1 then returned s1 p h St.expired ⟨0, 0, 0, 0⟩ else s1)
  else giveUp s1 p h

/-- What a layer's home has answered to the query of a SEAL with ALL: can the party seal the block (R60, R214). -/
def sealFound (s : State) (p : Nat) (m : TMsg) : Nat :=
  if m.status ≠ St.ok then m.status
  else if m.state ≠ 1 then St.busy
  else if m.peer = selfParty s p then St.ok else St.notOwner

/-- QUERY_REPLY (R108, R109, R212). -/
def execQueryReply (m : TMsg) (s : State) : Answer :=
  withEvent m s fun s =>
    let p := m.toPart
    match awaiting s p m.tag with
    | some (_, i, _) =>
      if opcodeOf i.words = 0x16 then
        let fx := if flagOf i.words 24 then [Effect.devWrite (extAddr i.words 1) (tmsgBytes m)] else []
        (answerInstr s p m.tag m.status (queryResult m) fx).getD s
      else if opcodeOf i.words = 0x11 then (answerInstr s p m.tag (sealFound s p m) 0 []).getD s
      else (answerInstr s p m.tag m.status (if m.status = St.moved then m.newHandle else m.state % 16 + 16 * (m.size.elim 0 (· + 1))) []).getD s
    | none =>
      match (partOf s p).outcomes.find? (fun o => o.tag == m.tag && o.asked) with
      | some o => outcomeFrom s p m o.move
      | none => s

/-- Has a fence of a module's partitions reached this home (R118): a lost module's blocks are recovered after that (R120, R121). -/
def fencedModule (s : State) (m : Nat × Nat) : Bool := s.home.floors.any (fun x => (x.1.domain, x.1.ep) == m)

/-- The ringmaster asks a frame's home for its state (R108, R109). -/
def askHome (s : State) (p h : Nat) (move : Bool) : State :=
  let (s1, tag) := takeTag s p
  let m : TMsg := { ttype := 0x07, src := selfParty s1 p, tag := tag, handle := h }
  let s2 := sendTrapeze s1 p (hHome h) m
  modPart s2 p (fun P => { P with outcomes := P.outcomes ++
    [{ tag := tag, handle := h, deadline := s.now + replyWaitNs s, asked := true, move := move }] })

/-- A home is lost (R110): of the request whose frame it held, the tail frames that it held are recovered, and the homes of the
others are asked for theirs (R121 steps 2 and 3). -/
def homeLost (s : State) (p h : Nat) : State :=
  match namedBy s p h with
  | none => returned s p h St.lost ⟨0, 0, 0, 0⟩
  | some (i, _, _) =>
    (tailFrames s p (recOf s p i)).foldl (fun s e =>
      if hHome e.2.2 = hHome h then returned s p e.2.2 St.lost ⟨0, 0, 0, 0⟩ else askHome s p e.2.2 true)
      (if (tailFrames s p (recOf s p i)).any (fun e => e.2.2 == h) then s else returned s p h St.lost ⟨0, 0, 0, 0⟩)

/-- OUTCOME_WAIT_EXPIRY: the ringmaster asks the home; a home that does not answer in turn is lost, and recovery starts once the
steward's fence of it has come (R109, R110, R121). An ALLOC of recovery that has no answer in time goes to the next home. -/
def execOutcomeWaitExpiry (p tag : Nat) (s : State) : Answer :=
  match (partOf s p).recovering.find? (fun x => x.tag == tag) with
  | some x =>
    if !ready s || decide (s.now < x.due) then .next s
    else
      .next (recoverBlock (modPart s p (fun P => { P with recovering := P.recovering.filter (fun y => y.tag != tag) })) p
        x.req x.layer x.block x.tried)
  | none =>
    match (partOf s p).outcomes.find? (fun o => o.tag == tag) with
    | none => .next s
    | some o =>
      if !ready s || decide (s.now < o.deadline) then .next s
      else if o.asked then
        if hHome o.handle ≠ me s && !fencedModule s (hHome o.handle) then .next s
        else
          let s1 := modPart (outcomeCame s p o.handle) p (fun P => { P with sealsOut := P.sealsOut.filter (fun x => x.handle != o.handle) })
          .next (homeLost (dropMove s1 p o.handle) p o.handle)
      else .next (askHome (outcomeCame s p o.handle) p o.handle o.move)

/-! ## Demotion (R71, R77, R78, R82, R95, R457) -/

/-- Free granules of a partition's main region. -/
def mainFree (s : State) (p : Nat) : Nat :=
  let r := mainRegion s p
  (r.2 - r.1) - ((s.home.frames.filter (fun e => e.2.state != .free && decide (r.1 ≤ e.1 ∧ e.1 < r.2))).map
    (fun e => frameGranules e.2)).foldl (· + ·) 0

/-- Sealed frames of the main region that may be demoted, in order of least recent read (R78). -/
def demotable (s : State) (p : Nat) : List (Nat × Frame) :=
  let r := mainRegion s p
  let cs := List.filter (fun (e : Nat × Frame) => e.2.state == .sealed && decide (r.1 ≤ e.1 ∧ e.1 < r.2)
    && (bit e.2.flags 2 || bit e.2.flags 5) && (forwardOf s (handleOf s e.1)).isNone && (migrationOf s e.1 true).isNone) s.home.frames
  let times := sortNats ((cs.map (fun e => e.2.lastRead)).eraseDups)
  (times.map (fun t => cs.filter (fun e => e.2.lastRead == t))).flatten

/-- Host-tier frames of this home (R95). -/
def hostFrames (s : State) : Nat := (s.home.frames.filter (fun e => e.2.state != .free && decide (0x80000000 ≤ e.1))).length

/-- The lowest place for a frame of k granules in a partition's host window: within one valid entry (R82). -/
def hostPlace (s : State) (p k : Nat) : Option Nat :=
  let P := partOf s p
  let lo := 0x80000000 + p * 0x4000000
  let ok := fun (g : Nat) => (windowEntry s p ((g - lo) / 128)).isSome && runFree s lo (lo + 128 * min 524288 P.winLen) k g
  let cands := (((List.range (min 524288 P.winLen)).map (fun x => lo + 128 * x))
    ++ (s.home.frames.filter (fun e => decide (lo ≤ e.1 ∧ e.1 < lo + 0x4000000))).map (fun e => alignUp (e.1 + frameGranules e.2) k)).filter ok
  cands.foldl (fun a g => match a with
    | none => some g
    | some b => some (min b g)) none

/-- The byte offset in its partition's host window of granule g: a window has 2^26 granules, from 2^31 on (R82). -/
def hostOffset (g : Nat) : Nat := g % 0x4000000 * 0x4000

/-- A demoted block's bytes in host memory, encrypted (R82, R457; log entry 13): write packets of at most 512 bytes at the host
port, in TC4 and the class leaf (R306, R318, R434; log entry 108). -/
def writeHostFrame (s : State) (p g : Nat) (bs : List Byte) : State :=
  let off := hostOffset g
  match windowEntry s p (off / 0x200000) with
  | some base =>
    let a := base + off % 0x200000
    let ps := pieces 512 (padTo bs.length 0 (Config.hostCipher p s.flash.starts a bs))
    ((List.range ps.length).zip ps).foldl (fun s e =>
      enqueue s 32 p 4 none (16 + e.2.length) (.tlp (partOf s p).winFn (a + 512 * e.1) e.2)) s
  | none => s

/-- A block moved to a frame at g: sealed there with its REFS and hash, its old handle forwarding to the new one (R79). -/
def demoteTo (s : State) (g : Nat) (f : Frame) (new : Nat) (bs : List Byte) : State :=
  let old := handleOf s g
  let n := frameAt s new
  let s1 := transition s new { f with gen := n.gen, lastRead := f.lastRead } 0x0B
  let s2 := { s1 with mem := putRaw s1.mem (new * 0x4000) bs }
  { s2 with home := { s2.home with forwards := s2.home.forwards ++ [⟨old, handleOf s2 new, s.now + fwdHoldNs s, false⟩] } }

/-- One block demoted where a place is found: the lowest free place of its tier, since R78 names no place in it (DESIGN CHOICE,
log entry 100). A host tier that is full or off is a refusal (R78, R95). -/
def demoteOne (s : State) (p : Nat) (e : Nat × Frame) : State × Bool :=
  let k := frameGranules e.2
  match frameBytes s e.1 with
  | none => (noteRead s (e.1 * 0x4000) (0x4000 * k) none none none, false)
  | some bs =>
    let s := tookRead s (e.1 * 0x4000) (0x4000 * k)
    let c := coldRegion s p
    match (if bit e.2.flags 2 then lowestRun s c.1 c.2 k else none) with
    | some g => (demoteTo s e.1 e.2 g bs, true)
    | none =>
      if !bit e.2.flags 5 || !(partOf s p).winEnable || !linkUp s (partOf s p).winFn then (s, false)
      else if 4194304 ≤ hostFrames s then
        (countEv { s with home := { s.home with demRefused := (s.home.demRefused + 1) % 2 ^ 32 } } Isl.cc 0x067 none none, false)
      else
        match hostPlace s p k with
        | none => (s, false)
        | some g => (writeHostFrame (demoteTo (cacheFrame s g) e.1 e.2 g bs) p g bs, true)

/-- The first block in order that can be demoted is (R78). -/
def demoteFirst (p : Nat) : List (Nat × Frame) → State → State
  | [], s => s
  | e :: es, s =>
    let a := demoteOne s p e
    if a.2 then a.1 else demoteFirst p es a.1

/-- Does a partition demote now: from when its main region has fewer free granules than 1/16 of it until it has more than 1/8
(R78). -/
def demotes (s : State) (p : Nat) : Bool :=
  let r := mainRegion s p
  let free := mainFree s p
  decide (16 * free < r.2 - r.1) || ((partOf s p).demoting && decide (8 * free ≤ r.2 - r.1))

/-- DEMOTION: a cache-role partition whose main region has run low demotes a block; with every forwarding entry in use it waits
(R78, R79). -/
def execDemotion (p : Nat) (s : State) : Answer :=
  if ready s && composed s p && roleOf s == roleCache then
    let s1 := modPart s p (fun P => { P with demoting := demotes s p })
    .next (if demotes s p && decide (s.home.forwards.length < 65536) then demoteFirst p (demotable s p) s1 else s1)
  else .next s

end Sys2Proof.Machine
end

