-- ==== Sys2Proof/Machine/Tlaley.lean ====
section
/-! DEFINITION. Tlaley at a far port (13_remote_access.md R356 to R378): sending, packets that arrive, connections,
go-back-N, congestion, the miss buffer, wavelengths and priority pauses; and the sending of a port's next frame
(11_admission_and_shaping.md R306). -/

namespace Sys2Proof.Machine

/-! ## Sending -/

/-- The transfer that holds a PSN. -/
def xferAt (c : Conn) (psn : Nat) : Option Xfer := c.xfers.find? (fun x => decide (psnSub psn x.first < x.npsn))

/-- PSNs that a connection's next packet takes (R364). -/
def nextStep (c : Conn) : Nat :=
  match xferAt c c.sendNext with
  | some x => if x.op = 2 then x.npsn - psnSub c.sendNext x.first else 1
  | none => 1

/-- May a connection send its next packet by a far port now: no more than 8,192 PSNs stay unacknowledged (R371, R374, R376). -/
def maySend (s : State) (n port : Nat) : Bool :=
  let c := connOf s n
  connPort s n == some port && c.state == .open_ && c.onChip && c.rnrUntil.isNone && c.sendNext != c.allocated
    && decide (psnSub c.sendNext c.una + nextStep c ≤ 8192) && decide (c.paceAt ≤ s.now)

/-- Rate of a connection in Mb/s (R374). -/
def rateOf (s : State) (c : Conn) : Nat := if s.tlaley.ccEnable then max 1 c.rho else 1600000

/-- The frame that a connection sends at its next PSN by a port, how many PSNs it moves on by, and what a segment that
begins here counts. A READ_REQ asks for all that is still unanswered of its transfer (R268, R363, R364, R371, R378). -/
def nextPacket (s : State) (port : Nat) (c : Conn) (x : Xfer) : TxFrame × Nat × Option SentSegment :=
  let k := psnSub c.sendNext x.first
  let mtu := pmtuBytes c
  let h := tlaleyHeader c.ipv6
  let base : TPacket := { port := port, level := c.level, op := x.op, tc := x.tc, dev := c.device, dconn := c.rconn
                          psn := c.sendNext, dcepoch := c.rcepoch, key := x.key, spart := c.part
                          pepoch := (partOf s c.part).epoch }
  if x.op = 2 then
    ({ len := h + 8, plan := h + 8
       what := .tpacket { base with raddr := x.raddr + k * mtu, payload := toLe 8 (x.len - k * mtu) } }, x.npsn - k, none)
  else
    match (xferPackets s c x)[k]? with
    | none => ({ len := h, plan := h, what := .tpacket base }, 1, none)
    | some p =>
      let n := h + p.payload.length
      let plan := match p.counts with
        | some g => n + g.uncoded - g.seg.body.length
        | none => n
      ({ len := n, plan := plan, also := if p.last then x.dev else none, seg := p.seg
         what := .tpacket { base with raddr := if x.op = 1 then x.raddr + p.offset else 0, first := p.first, last := p.last
                                      seg := p.seg.isSome
                                      payload := p.payload } }, 1, p.counts)

/-- When a connection may send again after a frame, at its rate in frame length (R307, R374). -/
def paceAfter (s : State) (port : Nat) (c : Conn) (f : TxFrame) : Nat :=
  max s.now c.paceAt + ceilDiv (wireLen s (16 + port) f * 8000) (rateOf s c)

/-- A connection's next packet is queued at its port; the timeout runs from the first packet that is out unacknowledged (R245, R246, R260, R307, R374). -/
def sendNextPacket (s : State) (port n : Nat) : State :=
  match xferAt (connOf s n) (connOf s n).sendNext with
  | none => s
  | some x0 =>
    let s0 := beginXfer s port n x0
    let c := connOf s0 n
    let x := (xferAt c c.sendNext).getD x0
    let (f, step, counts) := nextPacket s0 port c x
    let s1 := match counts, x.claim with
      | some g, some (p, k, _) => modStream s0 p k (fun y => countSegment y g)
      | _, _ => s0
    let next := (c.sendNext + step) % 2 ^ 24
    let s2 := modConn s1 n (fun c => { c with
      sendNext := next
      sentTo := if psnSub c.sentTo c.una < psnSub next c.una then next else c.sentTo
      progressAt := if c.sentTo = c.una then s.now else c.progressAt
      rtoAt := if c.sentTo = c.una then s.now + rtoNs s else c.rtoAt
      paceAt := paceAfter s1 port c f })
    enqueueFrame s2 (16 + port) c.part x.tc x.req { f with via := (n, c.ipv6, c.rip) }

/-- The first READ_RESP that waits on a connection is queued at its port, at the connection's rate (R370, R374). -/
def sendNextResponse (s : State) (port n : Nat) : State :=
  let c := connOf s n
  match c.resps with
  | [] => s
  | k :: ks =>
    let f := connFrame n c k.payload.length (.tpacket { k with port := port })
    enqueueFrame (modConn s n (fun c => { c with resps := ks, paceAt := paceAfter s port c f })) (16 + port) c.part k.tc none f

/-- A connection's turn at a far port: a response that waits goes before its own packets (log entry 149). -/
def sendTurn (s : State) (port n : Nat) : State :=
  let c := connOf s n
  if !c.resps.isEmpty then
    if connPort s n == some port && c.onChip && decide (c.paceAt ≤ s.now) then sendNextResponse s port n else s
  else if maySend s n port then sendNextPacket s port n
  else s

/-- Every connection that may send by a far port queues its next packet. -/
def pump (s : State) (port : Nat) : State := (s.tlaley.conns.map Prod.fst).foldl (fun s n => sendTurn s port n) s

/-- PORT_FRAME_SEND: the connections of a far port queue their packets, the meter examines the heads of the port's class
queues, and the port sends its next frame (R306 to R320, R371). -/
def execPortFrameSend (port : Nat) (s : State) : Answer :=
  if ready s && portUp s port then
    let s := if 16 ≤ port ∧ port < 32 then pump s (port - 16) else s
    let queues := ((backlogged (tsPort s port)).map (fun l => (l.1, l.2.1))).eraseDups
    let s1 := (queues.filter (fun q => !isParked (tsPort s port) q.1 q.2)).foldl (fun s q => examine s port q.1 q.2) s
    match nextFrame s1 port with
    | none => .next s1
    | some f => .next (sendFrame s1 port f)
  else .next s

/-! ## Acknowledgement at the sender (R369 to R372) -/

/-- The first PSN whose READ_RESP has not come, where a READ_REQ that was not refused is unanswered. -/
def readLimit (c : Conn) : Option Nat :=
  match c.xfers.find? (fun x => x.op == 2 && x.status == 0) with
  | none => none
  | some x => if psnSub c.una x.first < x.npsn then some c.una else some x.first

/-- Every PSN before `upTo` is acknowledged, but for unanswered reads: the transfers that this ends (R370 to R372). -/
def ackTo (s : State) (n upTo : Nat) (past : Bool := false) : State :=
  let c := connOf s n
  let upTo := upTo % 2 ^ 24
  if psnSub c.sentTo c.una < psnSub upTo c.una then s
  else
    let target := match readLimit c with
      | some lim => if !past && decide (psnSub lim c.una < psnSub upTo c.una) then lim else upTo
      | none => upTo
    if target = c.una then s
    else
      let gone := c.xfers.takeWhile (fun x => decide (psnSub (x.first + x.npsn) c.una ≤ psnSub target c.una))
      let next := if psnSub c.sendNext c.una < psnSub target c.una then target else c.sendNext
      let s1 := modConn s n (fun c => { c with una := target, sendNext := next, xfers := c.xfers.drop gone.length, timeouts := 0, progressAt := s.now, rtoAt := s.now + rtoNs s })
      gone.foldl (fun s x => endXfer s x x.status) s1

/-- The sender goes back to the first unacknowledged PSN (R371). -/
def goBack (s : State) (n : Nat) : State :=
  let c := connOf s n
  countEv (modConn s n (fun c => { c with sendNext := c.una })) Isl.fp 0x042 (connPort s n) (some c.part)

/-- A connection fails: its transfers end with TIMEOUT and its device messages' targets are reported dead; one that was
closing is free (R366, R371). -/
def failConn (s : State) (n : Nat) : State :=
  let c := connOf s n
  match c.state with
  | .closing =>
    let s1 := freeConn s n
    match c.closer with
    | some w => finish s1 w St.ok 0
    | none => s1
  | .open_ =>
    let s1 := modConn (dropSegs s n) n (fun c => { c with
      state := .failed, xfers := [], held := [], rnrUntil := none, refusing := false, resps := [], message := [], broken := false })
    c.xfers.foldl (fun s x => endXfer s x St.timeout) s1
  | _ => s

/-! ## Packets at the receiver -/

/-- A frame discarded and counted (R357, R366). -/
def discardFrame (s : State) (port : Nat) : State :=
  countEv (modFar { s with tlaley := { s.tlaley with discarded := s.tlaley.discarded + 1 } } port
    (fun f => { f with discarded := f.discarded + 1 })) Isl.fp 0x048 (some port) none

/-- A protocol error of Tlaley (R364, R367). -/
def tlaleyError (s : State) (port : Nat) : State :=
  discardFrame { s with tlaley := { s.tlaley with protoErr := s.tlaley.protoErr + 1 } } port

/-- ACK with the PSN before the expected one (R370). -/
def sendAck (s : State) (n tc : Nat) : State :=
  let s1 := modConn s n (fun c => { c with sinceAck := 0, firstUnackedAt := none })
  sendControl s1 n tc { port := 0, op := 5, dconn := 0, dcepoch := 0, apsn := psnSub (connOf s n).expected 1 }

/-- NAK with a syndrome (R363). -/
def sendNak (s : State) (n tc syndrome apsn : Nat) (status delay : Nat := 0) : State :=
  sendControl s n tc { port := 0, op := 6, dconn := 0, dcepoch := 0, apsn := apsn, syndrome := syndrome, status := status, delay := delay }

/-- RNR_DELAY in force (R380). -/
def rnrDelay (s : State) : Nat := max 1 s.tlaley.rnrDelay

/-- ECHO for a CE-marked packet, at most one in 8 µs (R373). -/
def echoMark (s : State) (n : Nat) (k : TPacket) : State :=
  let c := connOf s n
  let soon := match c.echoSentAt with
    | some t => decide (s.now < t + 8000)
    | none => false
  if !k.ce || soon then s
  else
    let s1 := modConn s n (fun c => { c with echoSentAt := some s.now, echoes := c.echoes + 1 })
    countEv (sendControl s1 n k.tc { port := 0, op := 7, dconn := 0, dcepoch := 0, apsn := k.psn }) Isl.fp 0x043 (some k.port) (some c.part)

/-- A packet accepted: the expected PSN advances, and an ACK is due with LAST or after 16 packets (R370). -/
def accept (s : State) (n : Nat) (k : TPacket) (psns : Nat) : State :=
  let s1 := modConn s n (fun c => { c with
    expected := (c.expected + psns) % 2 ^ 24, nakSent := false, sinceAck := c.sinceAck + 1
    firstUnackedAt := some (c.firstUnackedAt.getD s.now), progressAt := if c.xfers.isEmpty then s.now else c.progressAt })
  if k.last ∨ 16 ≤ (connOf s1 n).sinceAck then sendAck s1 n k.tc else s1

/-- PSNs that a packet takes (R364). -/
def psnsOf (c : Conn) (k : TPacket) : Nat := if k.op = 2 then max 1 (ceilDiv (leAt k.payload 0 4) (pmtuBytes c)) else 1

/-- The space that a key names in a partition, and the device address of an offset, where R368 allows n bytes there. -/
def spaceAddress (s : State) (p key raddr n : Nat) (write : Bool) : Option Nat :=
  let e := AMap.getD (partOf s p).spaces (bits key 11 0) {}
  if e.valid && e.check == bits key 31 12 && (if write then e.write else e.read)
      && decide (raddr + n ≤ e.length * 0x200000) then some (e.base * 0x200000 + raddr)
  else none

/-- Who a connection's packets access this module as (R368). -/
def connAccess (c : Conn) (k : TPacket) : Access := ⟨c.part, ⟨c.peer.domain, c.peer.ep, k.spart, k.pepoch⟩, false⟩

/-- A remote access violation's record at one end (R369, code 0x04). -/
def remoteViolation (s : State) (c : Conn) (raddr : Nat) : State :=
  report s none (some c.part) false
    { code := 0x04, part := c.part, status := St.remoteNak, address := raddr, detail := c.peer.domain * 1024 + c.peer.ep }

/-- The segment that a connection takes in ends here, or with it goes on (R269). -/
def segmentIn (s : State) (n : Nat) (k : TPacket) : State :=
  if !k.seg then s
  else modFar s k.port (fun f => { f with segIn := if k.last then f.segIn.filter (· != n) else f.segIn.filter (· != n) ++ [n] })

/-- A packet refused by access (NAK ACCESS), its PSNs counted as received (R369). -/
def nakAccess (s : State) (n : Nat) (k : TPacket) : State :=
  let c := connOf s n
  accept (sendNak (remoteViolation s c k.raddr) n k.tc 3 k.psn) n k (psnsOf c k)

/-- A packet refused with a status (NAK REFUSED), its PSNs counted as received (R369, R444). -/
def nakRefused (s : State) (n : Nat) (k : TPacket) (st addr : Nat) : State :=
  let c := connOf s n
  let s1 := if st = St.notOwner ∨ st = St.readOnly then violation s (some c.part) 3 (c.peer.domain, c.peer.ep) addr none none st else s
  accept (sendNak s1 n k.tc 4 k.psn st) n k (psnsOf c k)

/-- Message bytes with a packet's payload added (R363 FIRST). -/
def messageWith (c : Conn) (k : TPacket) : List Byte := (if k.first then [] else c.message) ++ k.payload

/-- The device address that a WRITE names: by its space, or with DEV 1 itself, in a frame that a migration fills (R368,
R378). -/
def writeAddress (s : State) (c : Conn) (k : TPacket) (len : Nat) : Option Nat :=
  if k.dev then
    match coveringFrame s (k.raddr / 0x4000) with
    | some e => if fillsFrame s e.1 (connAccess c k).who then some k.raddr else none
    | none => none
  else spaceAddress s c.part k.key k.raddr len true

/-- A complete segment of a WRITE; one of another level is discarded as a protocol error (R46, R47, R247, R263, R368). -/
def applySegment (s : State) (n : Nat) (k : TPacket) (bs : List Byte) : State :=
  let c := connOf s n
  let g := segmentOf bs
  let s1 := modConn s n (fun c => { c with message := [] })
  if g.1.level ≠ 1 then accept (tlaleyError s1 k.port) n k 1
  else
  match spaceAddress s c.part k.key (if g.1.reduce then 0 else g.1.dest) (if g.1.reduce then 0 else g.1.nativeLen) true with
  | none => nakAccess s1 n k
  | some a =>
    let r := if g.2 ≠ g.1.body.length then malformed s1 c.part (16 + k.port) g.1
      else takeSegment s1 (connAccess c k) (16 + k.port) (if g.1.reduce then g.1 else { g.1 with dest := a })
    if r.2 = St.ok then accept r.1 n k 1
    else if r.2 = St.address then nakAccess r.1 n k
    else nakRefused r.1 n k r.2 a

/-- A packet of a segment in order: each is checked on its own at its arrival, and of a segment with a packet refused the rest
is not applied (R368, R369; log entry 146). -/
def applySegmentPacket (s : State) (n : Nat) (k : TPacket) : State :=
  let c := connOf s n
  if c.broken ∧ !k.first then accept (modConn s n (fun c => { c with broken := !k.last })) n k 1
  else
    let ok := match writeAddress s c k k.payload.length with
      | some a => mayAccess s c.part a k.payload.length
      | none => false
    if !ok then nakAccess (modConn s n (fun c => { c with message := [], broken := !k.last })) n k
    else if k.last then applySegment (modConn s n (fun c => { c with broken := false })) n k (messageWith c k)
    else accept (modConn s n (fun c => { c with message := messageWith c k, broken := false })) n k 1

/-- A WRITE in order (R368, R369). -/
def applyRemoteWrite (s : State) (n : Nat) (k : TPacket) : State :=
  let c := connOf s n
  if k.seg then applySegmentPacket s n k
  else
    match writeAddress s c k k.payload.length with
    | none => nakAccess s n k
    | some a =>
      let x := connAccess c k
      let st := if k.dev ∨ k.payload.isEmpty then St.ok else accessVerdict s x a k.payload.length true
      if st = St.address then nakAccess s n k
      else if st ≠ St.ok then nakRefused s n k st a
      else
        let r := outsideWrite s x a k.payload
        if r.2 = St.ok then accept r.1 n k 1 else nakRefused r.1 n k r.2 a

/-- The responses to a READ_REQ, which take their turns at the connection's rate (R364, R370, R374). -/
def sendResponses (s : State) (n : Nat) (k : TPacket) (bs : List Byte) : State :=
  let c := connOf s n
  let ps := mtuPieces (pmtuBytes c) bs
  modConn s n (fun c => { c with resps := c.resps ++ ((List.range ps.length).zip ps).map (fun e =>
    { port := 0, level := c.level, op := 3, tc := k.tc, first := e.1 == 0, last := e.1 + 1 == ps.length
      dev := c.device, dconn := c.rconn, psn := (k.psn + e.1) % 2 ^ 24, dcepoch := c.rcepoch, spart := c.part
      pepoch := (partOf s c.part).epoch, payload := e.2 }) })

/-- A GET's read of n bytes that meets MOVED within one frame follows it once where the new handle is of this home: the
status and the address to read (R79). A new handle of another home is not followed: the read ends with MOVED. -/
def followRead (s : State) (x : Access) (a n : Nat) : Nat × Nat :=
  match coveringFrame s (a / 0x4000) with
  | none => (St.moved, a)
  | some (b, f) =>
    match forwardOf s (handleOf s b) with
    | none => (St.moved, a)
    | some e =>
      let g := hFrame e.newHandle
      if hHome e.newHandle ≠ me s ∨ (b + frameGranules f) * 0x4000 < a + n then (St.moved, a)
      else
        match claimStatus s e.newHandle x.who true with
        | some r => (r.1, a)
        | none => (if tierFails s g then St.tierFailed else frameAccess (frameNow s g) x.who false, g * 0x4000 + (a - b * 0x4000))

/-- A READ_REQ in order, or again (R368 to R370): memory is read as it stands, behind one MOVED (R79). -/
def applyRead (s : State) (n : Nat) (k : TPacket) (again : Bool) : State :=
  let c := connOf s n
  let len := leAt k.payload 0 4
  let x := connAccess c k
  let a := if k.dev then some k.raddr else spaceAddress s c.part k.key k.raddr len false
  let done := fun (s : State) => if again then s else accept s n k (psnsOf c k)
  let refuseAccess := fun (s : State) =>
    if again then sendNak (remoteViolation s c k.raddr) n k.tc 3 k.psn else nakAccess s n k
  let refuseWith := fun (s : State) (st a : Nat) => if again then sendNak s n k.tc 4 k.psn st else nakRefused s n k st a
  match a with
  | none => refuseAccess s
  | some a =>
    let st0 := if len = 0 then St.address else accessVerdict s x a len false
    let followed := if st0 = St.moved then followRead s x a len else (st0, a)
    let s := if st0 = St.moved then countEv s Isl.cc 0x066 none (some c.part) else s
    let st := followed.1
    if st = St.address then refuseAccess s
    else if st ≠ St.ok then refuseWith s st a
    else
      let r := outsideRead s x followed.2 len
      if r.2.1 ≠ St.ok then refuseWith r.1 r.2.1 a else done (sendResponses r.1 n k r.2.2)

/-- The native bytes of a SEND whose message is segments (R248; log entry 31). -/
def segmentsData : Nat → List Byte → Option (List Byte)
  | 0, _ => none
  | fuel + 1, bs =>
    if bs.isEmpty then some []
    else
      let g := segmentOf bs
      if bs.length < 16 + g.2 then none
      else
        match segmentData { g.1 with body := g.1.body.take g.2 }, segmentsData fuel (bs.drop (16 + g.2)) with
        | some a, some b => some (a ++ b)
        | _, _ => none

/-- The NAK NOT_READY of a SEND whose inbox has no room when the miss buffer gives it up (log entry 32). -/
def sendNotReady (s : State) (n : Nat) (k : TPacket) : State :=
  countEv (sendNak s n k.tc 2 k.psn 0 (rnrDelay s)) Isl.fp 0x045 (some k.port) (some (connOf s n).part)

/-- A segment of another level in a message (R46, R47, R248). -/
def otherLevel : Nat → List Byte → Bool
  | 0, _ => false
  | fuel + 1, bs => !bs.isEmpty && ((segmentOf bs).1.level != 1 || otherLevel fuel (bs.drop (16 + (segmentOf bs).2)))

/-- A SEND in order: its message goes to the inbox, or with DEV 1 to its mechanism (R338, R378); one with a segment of another
level is discarded as a protocol error (R46, R47). -/
def applySend (s : State) (n : Nat) (k : TPacket) : State :=
  let c := connOf s n
  let bs := messageWith c k
  if !k.last then accept (modConn s n (fun c => { c with message := bs })) n k 1
  else
    let s1 := modConn s n (fun c => { c with message := [] })
    if k.dev then
      if attendHeld s bs then sendNotReady s n k
      else accept (handDevice s1 ⟨c.peer.domain, c.peer.ep, k.spart, k.pepoch⟩ c.part bs (fun s => tlaleyError s k.port)) n k 1
    else if k.seg && otherLevel (bs.length + 1) bs then accept (tlaleyError s1 k.port) n k 1
    else
      match (if k.seg then segmentsData (bs.length + 1) bs else some bs) with
      | none =>
        let r := malformed s1 c.part (16 + k.port) (segmentOf bs).1
        nakRefused r.1 n k r.2 0
      | some m =>
        if inboxRoom s1 c.part m.length then accept (deliverInbox s1 c.part m) n k 1
        else sendNotReady s n k

/-- A WRITE, READ_REQ or SEND by its PSN (R370). -/
def takeRequest (s : State) (n : Nat) (k : TPacket) : State :=
  let c := connOf s n
  if k.psn = c.expected then
    let s := segmentIn s n k
    if k.op = 1 then applyRemoteWrite s n k else if k.op = 2 then applyRead s n k false else applySend s n k
  else if psnBehind k.psn c.expected then
    if k.op = 2 then applyRead s n k true
    else countEv (sendAck s n k.tc) Isl.fp 0x046 (some k.port) (some c.part)
  else if c.nakSent then s
  else sendNak (modConn s n (fun c => { c with nakSent := true })) n k.tc 1 (psnSub c.expected 1)

/-- A READ_RESP that answers the next unanswered read PSN: its data is placed at the GET's commit, and every PSN before it
is acknowledged (R364, R371, R372). -/
def takeResponse (s : State) (n : Nat) (k : TPacket) : State :=
  let c := connOf s n
  if readLimit c ≠ some k.psn then s
  else
    match xferAt c k.psn with
    | none => s
    | some x =>
      let a := x.src + psnSub k.psn x.first * pmtuBytes c
      let s1 := match x.w with
        | some w => modIssued s w (fun i => { i with effects := i.effects ++ [.devWrite a k.payload] })
        | none => s
      ackTo s1 n (k.psn + 1) true

/-- A NAK (R363, R369 to R371, R376). -/
def takeNak (s : State) (n : Nat) (k : TPacket) : State :=
  let c := connOf s n
  match k.syndrome with
  | 1 => goBack (ackTo s n (k.apsn + 1)) n
  | 2 =>
    modConn s n (fun c => { c with rnrUntil := some (s.now + 1000 * k.delay), rnrPsn := k.apsn, timeouts := 0 })
  | _ =>
    if psnSub c.sentTo c.una ≤ psnSub k.apsn c.una then s
    else
      match xferAt c k.apsn with
      | none => s
      | some x =>
        let st := if k.syndrome = 3 then St.remoteNak else k.status
        let s1 := if k.syndrome = 3 then remoteViolation s c (x.raddr + psnSub k.apsn x.first * pmtuBytes c) else s
        let s2 := modConn s1 n (fun c => { c with xfers := c.xfers.map (fun y =>
                    if y.first = x.first then { y with status := if y.status = 0 then st else y.status } else y) })
        ackTo s2 n (if x.op = 2 then x.first + x.npsn else k.apsn + 1)

/-- An ECHO: α rises, ρ falls, and a period of 55 µs starts (R374). α is alphaNum / 16^alphaExp. -/
def takeEcho (s : State) (n port : Nat) : State :=
  let c := connOf s n
  let s1 := countEv s Isl.fp 0x044 (some port) (some c.part)
  if !s.tlaley.ccEnable then s1
  else
    let num := 15 * c.alphaNum + 16 ^ c.alphaExp
    let den := 16 ^ (c.alphaExp + 1)
    modConn s1 n (fun c => { c with
      alphaNum := num, alphaExp := c.alphaExp + 1
      rho := max 100 (c.rho * (2 * den - num) / (2 * den)), periodAt := some (s.now + 55000) })

/-- A packet of a connection whose state is on chip, by its type (R364). -/
def takePacket (s : State) (n : Nat) (k : TPacket) : State :=
  match k.op with
  | 1 => takeRequest s n k
  | 2 => takeRequest s n k
  | 3 => takeResponse s n k
  | 4 => takeRequest s n k
  | 5 => ackTo s n (k.apsn + 1)
  | 6 => takeNak s n k
  | 7 => takeEcho s n k.port
  | _ => s

/-- Bytes that the miss buffer holds (R376). -/
def missBytes (s : State) : Nat :=
  (s.tlaley.conns.map (fun e => (e.2.held.map (fun h => 32 + (if h.close.isSome then 16 else h.pkt.payload.length))).sum)).sum

/-- A packet of a connection whose state is off chip: held, or, where the miss buffer has no room for it, refused with all that
follow (R376). -/
def holdPacket (s : State) (n : Nat) (h : HeldPacket) : State :=
  let c := connOf s n
  if c.refusing then s
  else if missBytes s + 32 + (if h.close.isSome then 16 else h.pkt.payload.length) ≤ 0x400000 then
    modConn s n (fun c => { c with held := c.held ++ [h] })
  else sendNotReady (modConn s n (fun c => { c with refusing := true })) n h.pkt

/-- A packet that names a connection: discarded unless the connection is OPEN or CLOSING with its epoch and level; held
while its state is off chip (R366, R367, R373, R376, R378). -/
def enterConn (s : State) (k : TPacket) : State :=
  let n := k.dconn
  let c := connOf s n
  if (c.state ≠ .open_ ∧ c.state ≠ .closing) ∨ c.lcepoch ≠ k.dcepoch then discardFrame s k.port
  else
    let s1 := echoMark s n k
    if k.level ≠ c.level then tlaleyError s1 k.port
    else if k.dev ≠ c.device then discardFrame s1 k.port
    else if c.onChip then takePacket s1 n k
    else holdPacket s1 n { pkt := k }

/-! ## The receive buffers of a port (R361) -/

/-- Does a frame arrive at PRIO_HI (R360). -/
def rxHi : Out → Bool
  | .tpacket k => decide (k.tc ≤ 3)
  | _ => true

/-- Bytes that wait in a port's receive buffer of a priority (R361). -/
def rxBytes (f : FarPort) (hi : Bool) : Nat := ((f.rx.filter (fun e => rxHi e.1 == hi)).map Prod.snd).sum

/-- XOFF is sent for a priority whose buffer holds more than 512 KiB, XON once it holds less than 256 KiB (R361). -/
def flowControl (s : State) (port : Nat) : State :=
  let one := fun (s : State) (hi : Bool) =>
    let f := farPort s port
    let off := if hi then f.xoffHi else f.xoffLo
    let prio := if hi then (compOf s).prioHi else (compOf s).prioLo
    let turn := fun (b : Bool) =>
      emitOut (modFar s port (fun f => if hi then { f with xoffHi := b } else { f with xoffLo := b })) (.pfc port prio b)
    if !off ∧ 0x80000 < rxBytes f hi then turn true else if off ∧ rxBytes f hi < 0x40000 then turn false else s
  one (one s true) false

/-- Must a packet wait in the receive buffer: a SEND in order that is complete and whose inbox, or attend inbox, has no room for
it holds its sender back (R150, R338, R361). -/
def sendStuck (s : State) (k : TPacket) : Bool :=
  let c := connOf s k.dconn
  let bs := messageWith c k
  k.op == 4 && k.last && c.state == .open_ && c.onChip && c.lcepoch == k.dcepoch && k.dev == c.device && k.psn == c.expected
    && (if k.dev then attendHeld s bs
        else match (if k.seg then segmentsData (bs.length + 1) bs else some bs) with
          | some m => !inboxRoom s c.part m.length
          | none => false)

/-- A list without the first waiting frame equal to o. -/
def dropRx (o : Out) : List (Out × Nat) → List (Out × Nat)
  | [] => []
  | e :: es => if e.1 = o then es else e :: dropRx o es

/-- A frame's turn at a far port that is up. One that arrives is counted (R476); it waits behind the frames that wait in the
buffer of its priority, or there itself while its receiver has no room, and is lost where the buffer is full. The row of a frame
that waits acts once it is the first (R361). -/
def farTurn (s : State) (o : Out) (port len : Nat) (stuck : Bool) (act : State → State) : Answer :=
  if !ready s ∨ (farPort s port).state ≠ .up then .next s
  else
    let f := farPort s port
    let here := (f.rx.filter (fun e => rxHi e.1 == rxHi o)).map Prod.fst
    if here.contains o then
      if here.head? = some o ∧ !stuck then .next (act (flowControl (modFar s port (fun f => { f with rx := dropRx o f.rx })) port))
      else .next s
    else
      let s1 := countEv s Isl.fp 0x041 (some port) none
      if here.isEmpty ∧ !stuck then .next (act s1)
      else if rxBytes f (rxHi o) + len ≤ 0x100000 then
        .next (flowControl (modFar s1 port (fun f => { f with rx := f.rx ++ [(o, len)] })) port)
      else .next (discardFrame s1 port)

/-- A packet of a connection enters a far port. -/
def onTlaley (op : Nat) (k : TPacket) (s : State) : Answer :=
  let k := { k with op := op }
  farTurn s (.tpacket k) k.port (tlaleyHeader (connOf s k.dconn).ipv6 + k.payload.length) (sendStuck s k) (fun s => enterConn s k)

/-- WRITE (R368 to R370). -/
def execWrite (k : TPacket) (s : State) : Answer := onTlaley 1 k s

/-- READ_REQ (R364, R368 to R370). -/
def execReadReq (k : TPacket) (s : State) : Answer := onTlaley 2 k s

/-- READ_RESP (R364, R371). -/
def execReadResp (k : TPacket) (s : State) : Answer := onTlaley 3 k s

/-- SEND (R338, R370, R378). -/
def execSendPkt (k : TPacket) (s : State) : Answer := onTlaley 4 k s

/-- ACK (R370, R372). -/
def execAck (k : TPacket) (s : State) : Answer := onTlaley 5 k s

/-- NAK (R369 to R371, R376). -/
def execNak (k : TPacket) (s : State) : Answer := onTlaley 6 k s

/-- ECHO (R373, R374). -/
def execEcho (k : TPacket) (s : State) : Answer := onTlaley 7 k s

/-! ## Opening and closing (R365 to R367) -/

/-- A connection notice: the record followed by the peer's address, 64 bytes (R365). -/
def notice (s : State) (p : Nat) (r : ConnRecord) (ip : List Byte) : State :=
  deliverInbox s p (padTo 64 0 (recordBytes r ++ ip))

/-- OPEN_ACK or CLOSE_ACK to a peer at an address by a port: that of the connection, or, where there is none, that which its
message came by (R377). It is lost while the connection has no port. -/
def answerConn (s : State) (via : Option Nat) (k : TPacket) (op part level : Nat) (r0 r : ConnRecord) (ip : List Byte) : State :=
  let v6 := decide (4 < ip.length)
  let n := tlaleyHeader v6 + 16
  match via with
  | none => s
  | some port => enqueueFrame s (16 + port) part 0 none
      { len := n, plan := n, via := (r.sconn, v6, ip)
        what := .connMsg op { port := port, level := level, op := op, dev := k.dev, dconn := r0.sconn, dcepoch := r0.scepoch
                              spart := part, pepoch := (partOf s part).epoch } r }

/-- Bytes of the frame of an OPEN, OPEN_ACK, CLOSE or CLOSE_ACK. -/
def connMsgLen (ip : List Byte) : Nat := tlaleyHeader (decide (4 < ip.length)) + 16

/-- Is the sender of device traffic a module that the composition record lists: by its domain (R378, R431). -/
def listedDomain (s : State) (d : Nat) : Bool := (compOf s).domains.contains d

/-- An OPEN's answer, remembered among the last 4,096 (R365). -/
def answerOpen (s : State) (k : TPacket) (r : ConnRecord) (ip : List Byte) (status conn : Nat) : State :=
  let mine : ConnRecord := if status = St.ok then recordOf s conn 0
    else { sdomain := (me s).1, sep := (me s).2, tpart := k.spart, pmtu := r.pmtu, sconn := 0, status := status, scepoch := 0 }
  let a : OpenAnswer := ⟨r.sdomain, r.sep, r.sconn, r.scepoch, mine⟩
  let s1 := { s with tlaley := { s.tlaley with answers := (a :: s.tlaley.answers).take 4096 } }
  answerConn s1 (if status = St.ok then connPort s1 conn else some k.port) k 9 r.tpart 1 r mine ip

/-- The module's answer to an OPEN seen before, if it keeps it (R365). -/
def answerKept (s : State) (r : ConnRecord) : Option OpenAnswer :=
  s.tlaley.answers.find? (fun a => a.sdomain == r.sdomain && a.sep == r.sep && a.sconn == r.sconn && a.scepoch == r.scepoch)

/-- Does an OPEN wait for room for its notice: its partition would take it and the inbox is full (R338, R365). -/
def openStuck (s : State) (r : ConnRecord) : Bool :=
  (answerKept s r).isNone && composed s r.tpart && (partOf s r.tpart).state == .running && (lowestFree s r.tpart).isSome
    && !inboxRoom s r.tpart 64

/-- An OPEN that its port takes (R365 to R367); one from the own domain is a protocol error (R23, log entry 120). The same answer
goes to one seen before. -/
def takeOpen (k : TPacket) (r : ConnRecord) (ip : List Byte) (s : State) : State :=
  if k.level = 0 ∨ 4 ≤ k.level then tlaleyError s k.port
  else if r.sdomain = (me s).1 then tlaleyError s k.port
  else if k.dev ∧ !listedDomain s r.sdomain then discardFrame s k.port
  else
    match answerKept s r with
    | some a =>
      let open_ := a.record.status == St.ok && (connOf s a.record.sconn).lcepoch == a.record.scepoch
      answerConn s (if open_ then connPort s a.record.sconn else some k.port) k 9 r.tpart 1 r a.record ip
    | none =>
      if !composed s r.tpart ∨ (partOf s r.tpart).state ≠ .running then answerOpen s k r ip St.noAttend 0
      else
        match lowestFree s r.tpart with
        | none => answerOpen s k r ip St.noConnection 0
        | some n =>
          let c : Conn := { part := r.tpart, peer := ⟨r.sdomain, r.sep, k.spart, 0⟩, rconn := r.sconn, rcepoch := r.scepoch
                            pmtu := min 2 r.pmtu, ipv6 := decide (4 < ip.length), ports := 0xFFFF, rip := ip
                            device := k.dev, progressAt := s.now }
          let s1 := modConn (takeConn (makeRoom s) n c) n (fun c => { c with state := .open_ })
          answerOpen (notice s1 r.tpart r ip) k r ip St.ok n

/-- OPEN (R365 to R367). -/
def execOpen (k : TPacket) (r : ConnRecord) (ip : List Byte) (s : State) : Answer :=
  farTurn s (.connMsg 8 k r) k.port (connMsgLen ip) (openStuck s r) (takeOpen k r ip)

/-- An opening that ends without a connection: the number is free again, the CONNECT or the device messages learn of it
(R366). -/
def openFails (s : State) (n status : Nat) : State :=
  let c := connOf s n
  let s1 := c.xfers.foldl (fun s x => endXfer s x status) (freeConn s n)
  match c.opener with
  | some w => failWith s1 w status
  | none => s1

/-- An OPEN_ACK that its port takes (R365 to R367). -/
def takeOpenAck (k : TPacket) (r : ConnRecord) (s : State) : State :=
  let n := k.dconn
  let c := connOf s n
  if c.state ≠ .opening ∨ c.lcepoch ≠ k.dcepoch then discardFrame s k.port
  else if k.level ≠ 1 then tlaleyError s k.port
  else if r.status ≠ St.ok then openFails s n St.remoteNak
  else
    let s1 := modConn s n (fun c => { c with state := .open_, rconn := r.sconn, rcepoch := r.scepoch, level := k.level
                                             tries := 0, progressAt := s.now, opener := none })
    match c.opener with
    | none => s1
    | some w =>
      modIssued s1 w (fun i => { i with
        status := some St.ok, result := n
        effects := i.effects ++ [.devWrite (c.descr + 0x10) (toLe 8 (r.sconn + r.scepoch * 2 ^ 32))] })

/-- OPEN_ACK (R365 to R367). -/
def execOpenAck (k : TPacket) (r : ConnRecord) (s : State) : Answer :=
  farTurn s (.connMsg 9 k r) k.port (connMsgLen (connOf s k.dconn).rip) false (takeOpenAck k r)

/-- OPEN_RETRY: 100 µs without an answer (R365, R366). -/
def execOpenRetry (n : Nat) (s : State) : Answer :=
  let c := connOf s n
  if ready s && c.state == .opening && decide (c.triedAt + 100000 ≤ s.now) then
    if c.tries < 3 then .next (sendOpen s n) else .next (openFails s n St.timeout)
  else .next s

/-- A connection that its peer closed or that is closed: its instructions learn of it (R366). -/
def closedByPeer (s : State) (n : Nat) : State :=
  let c := connOf s n
  let s1 := freeConn s n
  match c.state with
  | .opening => openFails s n St.noConnection
  | .open_ => c.xfers.foldl (fun s x => endXfer s x St.noConnection) s1
  | .closing => match c.closer with
    | some w => finish s1 w St.ok 0
    | none => s1
  | _ => s1

/-- A CLOSE of a connection in use whose state is on chip (R366). -/
def closeNow (s : State) (k : TPacket) (r : ConnRecord) (ip : List Byte) : State :=
  let n := k.dconn
  let c := connOf s n
  let via := connPort s n
  let mine := recordOf s n 0
  let s1 := closedByPeer s n
  let s2 := if c.state == .open_ then notice s1 c.part r ip else s1
  if c.state == .closing then s2 else answerConn s2 via k 0xB c.part c.level r mine ip

/-- A CLOSE that its port takes: one for a FREE number is acknowledged, one of another epoch discarded, one for an evicted
connection held (R366, R367, R376). -/
def takeClose (k : TPacket) (r : ConnRecord) (ip : List Byte) (s : State) : State :=
  let n := k.dconn
  let c := connOf s n
  if c.state = .free then
    answerConn s (some k.port) k 0xB r.tpart 1 r { recordOf s n 0 with tpart := k.spart, sconn := n, scepoch := k.dcepoch } ip
  else if c.lcepoch ≠ k.dcepoch then discardFrame s k.port
  else if k.level ≠ c.level then tlaleyError s k.port
  else if !c.onChip then holdPacket s n { pkt := k, close := some (r, ip) }
  else closeNow s k r ip

/-- Does a CLOSE wait for room for its notice (R338, R366). -/
def closeStuck (s : State) (k : TPacket) : Bool :=
  let c := connOf s k.dconn
  c.state == .open_ && c.onChip && c.lcepoch == k.dcepoch && !inboxRoom s c.part 64

/-- CLOSE (R366). -/
def execClose (k : TPacket) (r : ConnRecord) (ip : List Byte) (s : State) : Answer :=
  farTurn s (.connMsg 0xA k r) k.port (connMsgLen ip) (closeStuck s k) (takeClose k r ip)

/-- A CLOSE_ACK that its port takes (R366). -/
def takeCloseAck (k : TPacket) (s : State) : State :=
  let n := k.dconn
  let c := connOf s n
  if c.state ≠ .closing ∨ c.lcepoch ≠ k.dcepoch then discardFrame s k.port
  else if k.level ≠ c.level then tlaleyError s k.port
  else closedByPeer s n

/-- CLOSE_ACK (R366). -/
def execCloseAck (k : TPacket) (r : ConnRecord) (s : State) : Answer :=
  farTurn s (.connMsg 0xB k r) k.port (connMsgLen (connOf s k.dconn).rip) false (takeCloseAck k)

/-- CLOSE_RETRY: 100 µs without an answer (R366). -/
def execCloseRetry (n : Nat) (s : State) : Answer :=
  let c := connOf s n
  if ready s && c.state == .closing && decide (c.triedAt + 100000 ≤ s.now) then
    if c.tries < 3 then .next (sendClose s n) else .next (closedByPeer s n)
  else .next s

/-! ## Timers (R370, R371, R374, R376) -/

/-- ACK_TIMER: 2 µs after the first unacknowledged packet was accepted (R370). -/
def execAckTimer (n : Nat) (s : State) : Answer :=
  match (connOf s n).firstUnackedAt with
  | some t => if ready s && decide (t + 2000 ≤ s.now) then .next (sendAck s n 0) else .next s
  | none => .next s

/-- RTO_EXPIRY: RTO without progress; after RETRY_LIMIT of them the connection fails (R371). -/
def execRtoExpiry (n : Nat) (s : State) : Answer :=
  let c := connOf s n
  if ready s && c.state == .open_ && !c.xfers.isEmpty && c.rnrUntil.isNone && decide (c.rtoAt ≤ s.now) then
    if max 1 s.tlaley.retryLimit ≤ c.timeouts + 1 then .next (failConn s n)
    else .next (goBack (modConn s n (fun c => { c with timeouts := c.timeouts + 1, rtoAt := s.now + rtoNs s })) n)
  else .next s

/-- RNR_DELAY_EXPIRY: the sender goes back to the PSN that the NAK named (R371, R376). -/
def execRnrDelayExpiry (n : Nat) (s : State) : Answer :=
  let c := connOf s n
  match c.rnrUntil with
  | some t =>
    if ready s && decide (t ≤ s.now) then
      let back := if psnSub c.rnrPsn c.una ≤ psnSub c.sentTo c.una then c.rnrPsn else c.una
      .next (countEv (modConn s n (fun c => { c with rnrUntil := none, sendNext := back, progressAt := s.now, rtoAt := s.now + rtoNs s }))
        Isl.fp 0x042 (connPort s n) (some c.part))
    else .next s
  | none => .next s

/-- CC_PERIOD_END: a period of 55 µs without an ECHO (R374). -/
def execCcPeriodEnd (n : Nat) (s : State) : Answer :=
  let c := connOf s n
  match c.periodAt with
  | some t =>
    if ready s && s.tlaley.ccEnable && decide (t ≤ s.now) then
      .next (modConn s n (fun c => { c with
        alphaNum := 15 * c.alphaNum, alphaExp := c.alphaExp + 1, rho := min 1600000 (c.rho + s.tlaley.aiRate)
        periodAt := some (s.now + 55000) }))
    else .next s
  | none => .next s

/-- A packet of the miss buffer once the state is installed (R366, R376). -/
def takeHeld (s : State) (n : Nat) (h : HeldPacket) : State :=
  let c := connOf s n
  if c.lcepoch ≠ h.pkt.dcepoch then discardFrame s h.pkt.port
  else
    match h.close with
    | some (r, ip) => if c.state = .free then discardFrame s h.pkt.port else closeNow s h.pkt r ip
    | none => if c.state = .open_ ∨ c.state = .closing then takePacket s n h.pkt else discardFrame s h.pkt.port

/-- STATE_FETCH_DONE: the state of an evicted connection is installed and its held packets are processed in order, or the
host read failed, as it does while the group's link is down, and the connection fails (R376, R438). -/
def execStateFetchDone (n : Nat) (ok : Bool) (s : State) : Answer :=
  let c := connOf s n
  if ready s && c.state != .free && !c.onChip then
    if ok && hostTableUp s c then
      let s1 := modConn (makeRoom s) n (fun c => { c with onChip := true, refusing := false, held := [] })
      .next (c.held.foldl (fun s h => takeHeld s n h) s1)
    else .next (failConn (modConn s n (fun c => { c with onChip := true, held := [], refusing := false })) n)
  else .next s

/-! ## Ports, wavelengths and pauses (R357 to R361, R377) -/

/-- The live set of every connection. -/
def connPorts (s : State) : List (Nat × List Nat) := s.tlaley.conns.map (fun e => (e.1, liveSet s e.2))

/-- Connections whose live set has changed go back to their first unacknowledged PSN (R377). -/
def movePorts (before : List (Nat × List Nat)) (s : State) : State :=
  before.foldl (fun s e =>
    if (connOf s e.1).state = .open_ ∧ liveSet s (connOf s e.1) ≠ e.2 then modConn (dropSegs s e.1) e.1 (fun c => { c with sendNext := c.una })
    else s) s

/-- A far port goes down until the next module start: its frames are lost, its connections move (R359). -/
def farDown (s : State) (port : Nat) : State :=
  let before := connPorts s
  let s1 := modFar s port (fun f => { f with state := .down, spareBusy := false, prbs := false, segIn := [], modePend := none })
  let s2 := modTs s1 (16 + port) (fun t => { t with frames := [], segOut := [] })
  movePorts before (report { s2 with life := { s2.life with portDown := true } } none none true { code := 0x14, detail := 16 + port })

/-- Does a wavelength fail: its receiver lost lock, or the symbols corrected on its lane in a millisecond exceed WL_LIMIT, where
0 acts as 1 (R359, R380). -/
def wavelengthFails (s : State) : Option Nat → Bool
  | none => true
  | some n => decide (max 1 s.tlaley.wlLimit < n)

/-- WAVELENGTH_FAILURE (R359, R381): wavelength 8 is the spare, which counts as used when it fails while it is brought in. -/
def execWavelengthFailure (port : Nat) (e : WavelengthFault) (s : State) : Answer :=
  let wl := e.wavelength
  let f := farPort s port
  let live := f.state == .up || (f.state == .training && f.spareBusy)
  if !ready s ∨ !live ∨ 9 ≤ wl ∨ bit f.failed wl ∨ !wavelengthFails s e.symbols then .next s
  else
    let s1 := logSpare (modFar s port (fun f => { f with
      failed := putBit f.failed wl true, spareBad := f.spareBad || wl == 8, prbs := f.prbs && wl != 8 })) 5 port wl
    if wl = 8 ∧ !f.spareUsed ∧ !f.spareBusy then .next s1
    else if f.spareBusy then .next (farDown (modFar s1 port (fun f => { f with spareUsed := f.spareUsed || wl == 8 })) port)
    else if f.crinum ∧ !f.spareUsed ∧ !f.spareBad then
      let before := connPorts s1
      .next (movePorts before (modFar s1 port (fun f => { f with state := .training, spareBusy := true, prbs := true })))
    else .next (farDown s1 port)

/-- SPARE_WAVELENGTH_READY: the spare has taken the failed lane and the port returns at full width (R359). -/
def execSpareWavelengthReady (port : Nat) (s : State) : Answer :=
  let f := farPort s port
  if ready s && f.state == .training && f.spareBusy then
    let before := connPorts s
    .next (movePorts before (logSpare (modFar s port (fun f => { f with state := .up, spareBusy := false, spareUsed := true, prbs := false })) 5 port 8))
  else .next s

/-- FAR_PORT_TRAINING: `wavelengths` is the mask of those that trained; `prbs13` when the partner's pattern was detected on the
spare, which marks a Crinum within 10 ms of the start of training. The spare is judged against such a partner alone (R356, R358,
R359, R381; log entry 145). Training sets CREDIT_MODE to 1, and a value that was still pending is lost (R269; log entry 136). -/
def execFarPortTraining (port wavelengths : Nat) (prbs13 : Option Nat) (s : State) : Answer :=
  let f := farPort s port
  if !ready s ∨ 16 ≤ port ∨ (f.state ≠ .training ∧ f.state ≠ .noPartner) ∨ f.spareBusy then .next s
  else
    let bad := (List.range 8).filter (fun i => !bit wavelengths i)
    let crinum := prbs13.any (fun t => decide (f.trainAt ≤ t ∧ t ≤ f.trainAt + 10000000))
    if bad.length = 8 then .next (modFar s port (fun f => { f with state := .noPartner }))
    else
      let spareGood := crinum && bit wavelengths 8
      let lost := if crinum && !spareGood then bad ++ [8] else bad
      let s1 := modTs (lost.foldl (fun s i => logSpare s 5 port i) s) (16 + port) (fun t => { t with segOut := [] })
      let f1 : FarPort := { f with crinum := crinum, failed := ofSetBits lost, spareBad := crinum && !spareGood, creditMode := true
                                   effective := true, peerPlan := true, modePend := none, segIn := [], prbs := !bit (ofSetBits lost) 8 }
      let before := connPorts s1
      if bad.isEmpty then .next (movePorts before (modFar s1 port (fun _ => { f1 with state := .up })))
      else if bad.length = 1 ∧ spareGood then
        .next (movePorts before (logSpare (modFar s1 port (fun _ => { f1 with state := .up, spareUsed := true, prbs := false })) 5 port 8))
      else .next (farDown (modFar s1 port (fun _ => f1)) port)

/-- PFC_FRAME: a pause or its end of one of the two priorities (R356, R361). -/
def execPfcFrame (port prio : Nat) (pause : Bool) (s : State) : Answer :=
  if !ready s ∨ 16 ≤ port then .next s
  else
    let c := compOf s
    let set := fun (old : Option Nat) => if pause then some (old.getD s.now) else none
    .next (modFar s port (fun f => { f with
      pausedHi := if prio = c.prioHi then set f.pausedHi else f.pausedHi
      pausedLo := if prio = c.prioLo then set f.pausedLo else f.pausedLo
      pauseNoted := if pause then f.pauseNoted else f.pauseNoted.filter (· != prio) }))

/-- PFC_PAUSE_LIMIT: a priority paused for 10 ms without a break is counted and recorded, and the pause is honoured on (R361). -/
def execPfcPauseLimit (port prio : Nat) (s : State) : Answer :=
  let f := farPort s port
  let since := if prio = (compOf s).prioHi then f.pausedHi else if prio = (compOf s).prioLo then f.pausedLo else none
  match since with
  | some t =>
    if ready s && decide (t + 10000000 ≤ s.now) && !f.pauseNoted.contains prio then
      .next (report (modFar s port (fun f => { f with pauseNoted := f.pauseNoted ++ [prio], pauses := f.pauses + 1 })) none none true
        { code := 0x0E, detail := port + prio * 16 })
    else .next s
  | none => .next s

/-- NON_TLALEY_FRAME: a frame that is neither Tlaley nor PTP, a fragment, one too long or with a bad UDP checksum is discarded and
counted; a reserved OP is a protocol error as well; IEEE 802.3 PAUSE is ignored (R356, R357, R364). -/
def execNonTlaleyFrame (e : ForeignFrame) (s : State) : Answer :=
  let port := e.port
  if ready s && (farPort s port).state == .up then
    let s1 := countEv s Isl.fp 0x041 (some port) none
    match e.why with
    | .globalPause => .next s1
    | .reservedOp => .next (tlaleyError s1 port)
    | _ => .next (discardFrame s1 port)
  else .next s

end Sys2Proof.Machine
end

