-- ==== Sys2Proof/Machine/Memory.lean ====
section
/-! DEFINITION. The memory controllers (14_memory_protection.md R384 to R405): accesses with the code, uncorrectable words
by reader, scrubbing and refresh. -/

namespace Sys2Proof.Machine

/-! ## Places in a channel (R386, R391) -/

/-- Row, bank and granule of the row of a channel address (R386). -/
def dramPlace (a : Nat) : Nat × Nat × Nat := (bits a 32 15, Nat.xor (bits a 11 8) (bits a 18 15), bits a 14 12)

/-- Device, DQ pin and beat that carry bit i of the byte at a channel address of channel c (R384, R386). -/
def dramPin (c a i : Nat) : Nat × Nat × Nat :=
  let l := bits a 1 0
  (2 * c + l / 2, 8 * l + i, bits a 3 2)

/-! ## Readers of an uncorrectable word (R396) -/

/-- The address of the journal entry with a sequence number (R114, R389). -/
def journalAddr (seq : Nat) : Nat := privateAddr (928 * 2 ^ 20 + 32 * (seq % 8388608))

/-- Is a journal entry unreadable as it stands. -/
def journalBad (s : State) (e : Journal) : Bool := !(badWords s (journalAddr e.seq) 32).isEmpty

/-- The newest readable entry of a frame, and whether an unreadable entry is newer (R115, R396). -/
def newestEntry (s : State) (g : Nat) : List Journal → Bool → Option Journal × Bool
  | [], bad => (none, bad)
  | e :: es, bad =>
    if journalBad s e then newestEntry s g es true
    else if hFrame e.handle = g then (some e, bad)
    else newestEntry s g es bad

/-- FRAME_RECORD_REPAIR: the record is rebuilt from the journal, with event 0x0F (R115). -/
def repairFrame (s : State) (g : Nat) : State :=
  let n := newestEntry s g s.home.journal false
  let f := { frameAt s g with owner := (n.1.map (·.owner)).getD (frameAt s g).owner }
  let s := setFrame s g f
  let restored := { f with state := FState.open_, deadline := 0, offeree := ⟨0, 0, 0, 0⟩, peer := 0, inbound := false
                           committed := false }
  match n.1, n.2 with
  | none, _ => loseFrame s g 0x0F
  | some _, true => loseFrame s g 0x0F
  | some e, false =>
    match e.new with
    | .open_ => transition s g restored 0x0F
    | .offered => returnedToBoth (transition s g restored 0x0F) g (handleOf s g) St.expired f.owner f.offeree
    | .sealed => loseFrame s g 0x0F
    | .migrating =>
      match migrationOf s g true, migrationOf s g false with
      | some x, _ => abortAtSource s g x St.migrateAbort 0x0F
      | none, some x => sendAbort (freeFrame (dropMigration s g false) g 0x0F) g x St.migrateAbort (handleOf s g) f.peer
      | none, none => transition s g restored 0x0F
    | .free => journal s (handleOf s g) f.state f.state 0x0F f.owner
    | .lost => journal s (handleOf s g) f.state f.state 0x0F f.owner

/-- The partition that a reader belongs to; none for the device's private tables (R480 code 0x06). -/
def userPart (s : State) (addr : Nat) : MemUser → Option Nat
  | .engine w => some w.part
  | .deviceRead w => some w.part
  | .poltex _ => rangeOwner s addr
  | .tlaley n _ => some (connOf s n).part
  | .barWindow _ p => some p
  | .queueFetch p _ => some p
  | _ => none

/-- The containment context and queue of a reader. -/
def userCtx : MemUser → Option ErrContext × Option Nat
  | .engine w => (ctxOf w, some w.queue)
  | .deviceRead w => (ctxOf w, some w.queue)
  | .queueFetch p q => (some (.queue p q), some q)
  | _ => (none, none)

/-- The private table that a user reads: its first offset, its bytes and those of one record, and the record's number where
the user names it. The home assigns the records of host-tier frames, and forwarding entries, as it likes (R79, R95, R389). -/
def userTable : MemUser → Option (Nat × Nat × Nat × Option Nat)
  | .frameRecord g => if g < 0x80000000 then some (0, 672 * 2 ^ 20, 64, some g) else some (672 * 2 ^ 20, 256 * 2 ^ 20, 64, none)
  | .journal n => some (928 * 2 ^ 20, 256 * 2 ^ 20, 32, some (n % 8388608))
  | .indexShadow x => some (1184 * 2 ^ 20, 16 * 2 ^ 20, 64, some x)
  | .forwarding _ => some (1200 * 2 ^ 20, 2 * 2 ^ 20, 32, none)
  | .connIndex n => some (1202 * 2 ^ 20, 8 * 2 ^ 20, 8, some n)
  | .selfTest => some (1210 * 2 ^ 20, 64 * 2 ^ 20, 64 * 2 ^ 20, none)
  | _ => none

/-- Is a user one of the device's private tables. -/
def privateUser (u : MemUser) : Bool := (userTable u).isSome

/-- Do n bytes at an address lie in one record of the table that a user reads (R388, R389). -/
def inTable (addr n : Nat) (v : Nat × Nat × Nat × Option Nat) : Bool :=
  match privateOffset addr with
  | some o =>
    decide (v.1 ≤ o ∧ o + n ≤ v.1 + v.2.1 ∧ (o - v.1) / v.2.2.1 = (o + n - 1 - v.1) / v.2.2.1)
      && (match v.2.2.2 with
          | some k => (o - v.1) / v.2.2.1 == k
          | none => true)
  | none => false

/-- An access is possible: inside one granule, and in a partition's range or the private table that its user reads; check
units and the reserved bytes are no user's (R38, R387 to R389). -/
def accessFits (s : State) (addr n : Nat) (u : MemUser) : Bool :=
  decide (1 ≤ n ∧ addr / 256 = (addr + n - 1) / 256)
    && (match userTable u with
        | some v => inTable addr n v
        | none => (rangeOwner s addr).isSome)

/-- An instruction that has not finished fails with UNCORRECTABLE. -/
def failUncorrectable (s : State) (w : IRef) : State :=
  match issuedOf s w with
  | some i => if i.status.isNone then failWith s w St.uncorrectable else s
  | none => s

/-- The answer to a reader of an uncorrectable word (R396). -/
def uncorrectableRead (s : State) (addr : Nat) : MemUser → State
  | .engine w =>
    if w.queue = inboxQueue then
      if (partOf s w.part).attendInbox.isEmpty then s
      else modPart s w.part (fun P => { P with inboxBad := P.inboxBad ++ [addr / 256] })
    else
    match issuedOf s w with
    | some i =>
      if i.status.isSome then s
      else if opcodeOf i.words = 0x20 then modIssued s w (fun i => { i with bad := i.bad ++ [addr / 256] })
      else failWith s w St.uncorrectable
    | none => s
  | .deviceRead w => failUncorrectable s w
  | .poltex k => respond s k ((rangeOwner s addr).getD 0) (answerOp k) St.uncorrectable []
  | .tlaley n k => nakRefused s n k St.uncorrectable addr
  | .barWindow acc _ => emitOut s (.completerAbort acc)
  | .queueFetch p q => modQueue s p q (fun x => if x.cause = 0 then { x with cause := 0x05 } else x)
  | .frameRecord g => repairFrame (rewriteWords s (addr / 64 * 64) 64) g
  | .journal _ => s
  | .indexShadow x => (comparePos { s with index := { s.index with shadowBad := x :: s.index.shadowBad } } x).1
  | .forwarding h =>
    { s with home := { s.home with forwards :=
                         s.home.forwards.map (fun e => if e.oldHandle = h then { e with lost := true } else e) } }
  | .connIndex n => failConn s n
  | .selfTest => { s with flash := { s.flash with shutdown := none } }

/-- The answer to the writer of part of an uncorrectable word (R395). -/
def uncorrectableWrite (s : State) (addr : Nat) : MemUser → State
  | .engine w => failUncorrectable s w
  | .deviceRead w => failUncorrectable s w
  | .poltex k => respond s k ((rangeOwner s addr).getD 0) (answerOp k) St.uncorrectable []
  | .tlaley n k => nakRefused s n k St.uncorrectable addr
  | _ => s

/-! ## One access (R38, R392 to R399) -/

/-- The errors that pins put on one word. -/
def noiseOn (noise : List PinNoise) (w : Nat) : WordError :=
  noise.foldl (fun es n => if n.word = w ∧ n.symbol < 36 then addErrors es [(n.symbol, n.value % 16)] else es) []

/-- Do the memory controllers run (R27, R423). -/
def mcRuns (s : State) : Bool := ready s || s.life.sy == .shutdown

/-- CRC retries counted, at most three an access (R399). -/
def countRetries (s : State) (c crcFails : Nat) : State :=
  if crcFails = 0 then s else countEv s (Isl.mc (c / 4)) 0x024 (some (c % 4)) none (min 3 crcFails)

/-- A read of words with the noise of its last attempt: corrections counted, uncorrectable words recorded. -/
def readWords (s : State) (noise : List PinNoise) (u : MemUser) (addr : Nat) : List Nat → State
  | [] => s
  | w :: ws =>
    let es := noiseOn noise w
    let s1 := if decodeAt s w es = .uncorrectable then
        uncorrectableAt s w es (userPart s addr u) (userCtx u).1 (userCtx u).2
      else countWord s w es
    readWords s1 noise u addr ws

/-- A write of words: parts merge into what the read of the word decoded; a write whose CRC retries are exhausted leaves
the pins' errors stored. The answer says whether every word took its bytes (R395, R399). -/
def writeWords (noise : List PinNoise) (exhausted : Bool) (u : MemUser) (addr : Nat) (bs : List Byte) :
    List Nat → State → State × Bool
  | [], s => (s, true)
  | w :: ws, s =>
    let lo := max addr w
    let hi := min (addr + bs.length) (w + 16)
    let part := (bs.drop (lo - addr)).take (hi - lo)
    let s0 := if part.length = 16 then s else readWords s [] u addr [w]
    let r := if privateUser u then
        (if part.length = 16 ∨ decodeAt s0 w [] ≠ .uncorrectable then (rewriteWords s0 w 16, true) else (s0, false))
      else writeWord s0 w (lo - w) part
    let stuck := addErrors (storedErrors r.1 w) (noiseOn noise w)
    let s1 := if exhausted ∧ r.2 then
        { r.1 with mem := { r.1.mem with errors := if stuck.isEmpty then AMap.erase r.1.mem.errors (w / 16)
                                                   else AMap.insert r.1.mem.errors (w / 16) stuck } }
      else r.1
    let rest := writeWords noise exhausted u addr bs ws s1
    (rest.1, r.2 && rest.2)

/-- MC_ACCESS: one access of a memory-controller island to one granule (R38, R395 to R399). `crcFails` counts its
attempts that failed the data CRC: 4 exhaust the retries. -/
def execMcAccess (addr : Nat) (op : MemOp) (u : MemUser) (noise : List PinNoise) (crcFails : Nat) (s : State) : Answer :=
  let n := match op with
    | .read n => n
    | .write bs => bs.length
  if !mcRuns s || !accessFits s addr n u then .next s
  else
    let c := (channelOf s addr).1
    let exhausted := 4 ≤ crcFails
    let s0 := countRetries s c crcFails
    let ws := wordsOf addr n
    match op with
    | .read _ =>
      let bad := ws.any (fun w => decodeAt s0 w (noiseOn noise w) == .uncorrectable)
      let s1 := countEv (readWords s0 noise u addr ws) (Isl.mc (c / 4)) 0x020 (some (c % 4)) (userPart s addr u)
      .next (noteAccess (if bad then uncorrectableRead s1 addr u else s1) c bad exhausted)
    | .write bs =>
      let r := writeWords noise exhausted u addr bs ws s0
      let s1 := countEv r.1 (Isl.mc (c / 4)) 0x021 (some (c % 4)) (userPart s addr u)
      let s2 := if exhausted then
          report s1 none none true { code := 0x07, address := (channelOf s addr).2, detail := c }
        else s1
      .next (noteAccess (if r.2 then s2 else uncorrectableWrite s2 addr u) c (!r.2) exhausted)

/-- CORRECTION_COUNT_CLEAR: the counts per pin clear every 1 s (R394). -/
def execCorrectionCountClear (s : State) : Answer :=
  if mcRuns s then
    .next { s with mem := { s.mem with channels := s.mem.channels.map (fun e => (e.1, { e.2 with counts := [] })) } }
  else .next s

/-! ## Scrubbing, refresh, temperature (R238, R398, R401, R402) -/

/-- Granules of a channel's allocatable data, and the first and last of its share of the private space (R388). -/
abbrev dataGranules : Nat := 0x1C00000
abbrev firstPrivate : Nat := 0x1F80000
abbrev lastPrivate : Nat := 0x1FF1BFF

/-- Device addresses of the words of a granule of a channel that hold or receive errors. -/
def scrubWords (s : State) (c pos : Nat) (noise : List PinNoise) : List Nat :=
  ((AMap.keys s.mem.errors).map (16 * ·) ++ noise.map PinNoise.word).eraseDups.filter
    (fun w => decide (w % 16 = 0) && channelOf s w == (c, (channelOf s w).2) && (channelOf s w).2 / 256 == pos)

/-- One word swept: written back where corrected, recorded and left where uncorrectable (R398). -/
def scrubWord (s : State) (noise : List PinNoise) (w : Nat) : State :=
  let es := noiseOn noise w
  match decodeAt s w es, wordBytes s w es with
  | .corrected _, some bs =>
    let s1 := countWord s w es
    let m := putRaw s1.mem w bs
    { s1 with mem := { m with errors := AMap.erase m.errors (w / 16) } }
  | .uncorrectable, _ => uncorrectableAt s w es none none none
  | _, _ => s

/-- The next granule of a sweep; none at the end of the pass. -/
def nextScrub (pos : Nat) : Option Nat :=
  if pos + 1 = dataGranules then some firstPrivate else if pos = lastPrivate then none else some (pos + 1)

/-- The start of a pass is the boundary of PERIOD: a channel takes the written value, which is in force for MC_SCRUB when
every channel has taken it (R11, R402). -/
def scrubBoundary (s : State) (c : Nat) : State :=
  match s.mem.scrubPend with
  | none => s
  | some v =>
    let s1 := modChan s c (fun x => { x with period := v })
    if (List.range 24).all (fun i => (chan s1 i).period == v) then
      { s1 with mem := { s1.mem with scrubPend := none, scrubPeriod := v } }
    else s1

/-- SCRUB_GRANULE: the next granule of a channel's sweep (R398). -/
def execScrubGranule (c : Nat) (noise : List PinNoise) (s : State) : Answer :=
  if !ready s ∨ 24 ≤ c then .next s
  else
    let s0 := if (chan s c).scrubPos = 0 then scrubBoundary s c else s
    let x := chan s0 c
    if x.scrubPos = 0 ∧ x.period = 0 then .next s0
    else
      let ws := scrubWords s0 c x.scrubPos noise
      let bad := ws.any (fun w => decodeAt s0 w (noiseOn noise w) == .uncorrectable)
      let s1 := ws.foldl (fun s w => scrubWord s noise w) s0
      let s2 := modChan s1 c (fun x => match nextScrub x.scrubPos with
        | some n => { x with scrubPos := n }
        | none => { x with scrubPos := 0, passes := x.passes + 1 })
      .next (noteAccess s2 c bad false)

/-- REFRESH_SLOT: a slot is taken; a change of plan takes effect at the start of an interval (R238, R401). -/
def execRefreshSlot (c : Nat) (s : State) : Answer :=
  if mcRuns s && decide (c < 24) then
    .next (countEv (modChan s c (fun x => { x with slots := x.slots + 1, hot := x.hotNext })) (Isl.mc (c / 4)) 0x025
      (some (c % 4)) none)
  else .next s

/-- The plan of a channel after a sample of its two devices (R238). -/
def hotPlan (was : Bool) (a b : Nat) : Bool := if 85 < a ∨ 85 < b then true else if a < 80 ∧ b < 80 then false else was

/-- DRAM_TEMP_SAMPLE: the readouts of the 48 devices, in °C (R238, R385). -/
def execDramTempSample (temps : List Nat) (s : State) : Answer :=
  if mcRuns s then
    .next ((List.range 24).foldl (fun s c =>
      modChan s c (fun x => { x with hotNext := hotPlan x.hotNext (temps.getD (2 * c) 0) (temps.getD (2 * c + 1) 0) })) s)
  else .next s

end Sys2Proof.Machine
end

