-- ==== Sys2Proof/Machine/Restart.lean ====
section
/-! DEFINITION. Abandoning and tearing down queues (07_instruction_set.md R208, 15_resilience.md R421); starting,
pre-empting, resuming and restarting a partition (16_partitions_and_hosts.md R439 to R443,
04_trapeze_handover.md R91). -/

namespace Sys2Proof.Machine

/-! ## Abandoning and teardown (R208, R421) -/

/-- An instruction that pre-emption and teardown abandon, or commit without its record when that could not be
written. -/
def isRestart (i : Issued) : Bool := restartClass i.words

/-- What an abandoned instruction took from semaphores: the token of its inline WAIT, and a WAIT's own tokens once it has
been granted them (R208, R211). -/
def tookTokens (i : Issued) : List (Nat × Nat) :=
  (i.tookSem, 1) :: (if opcodeOf i.words = 0x02 ∧ i.status = some St.ok then [(bits (opA i.words) 3 0, bits (opB i.words) 31 0)] else [])

/-- The tokens that a queue's abandoned instructions and its unissued next instruction took are added back, and their
waiters leave (R208). -/
def returnTokens (s : State) (p q : Nat) : State :=
  let x := queueOf (partOf s p) q
  let back := (x.issued.filter isRestart).flatMap tookTokens ++ [(x.granted, 1)]
  let s1 := back.foldl (fun s e => semAdd s p e.1 e.2) s
  modPart s1 p (fun P => { P with waiters := P.waiters.filter (fun y => y.queue != q) })

/-- Transactions and transfers of an instruction that is abandoned are forgotten: late answers are discarded (R151, R208); with it
ends the handling of an error of its level (R424). -/
def forgetWork (s : State) (p q : Nat) (idxs : List Nat) : State :=
  let mine := fun (w : Option IRef) => match w with
    | some r => r.part == p && r.queue == q && idxs.contains r.idx
    | none => false
  { s with
    poltex := { s.poltex with txns := s.poltex.txns.filter (fun t => !mine t.w)
                              held := s.poltex.held.filter (fun h => !mine h.txn.w) }
    tlaley := { s.tlaley with conns := s.tlaley.conns.map (fun e => (e.1, { e.2 with
                  xfers := e.2.xfers.map (fun x => if mine x.w then { x with w := none } else x) })) }
    parts := AMap.modify s.parts p {} (fun P => { P with remotes := P.remotes.filter (fun r => !mine (some r.w)) })
    counters := { s.counters with handling := s.counters.handling.filter (fun h => h.broken || match h.ctx with
      | .instr r => !mine (some r)
      | _ => true) } }

/-- The frame that a finished REBUILD has placed and not yet committed is freed again when it is abandoned: it then has
no visible effect (R208; DESIGN CHOICE: its tag advances, log entry 118). -/
def freeRebuilt (s : State) (i : Issued) : State :=
  if opcodeOf i.words = 0x81 ∧ i.status = some St.ok then freeFrame s (hFrame i.result) 0x08 else s

/-- The halt that an abandoned HALTQ gave another queue is taken back (R208): it then has no visible effect. `aux` says that
this HALTQ gave it. -/
def unhalt (s : State) (p q : Nat) (i : Issued) : State :=
  let target := bits (opA i.words) 5 0
  if opcodeOf i.words = 0x06 ∧ i.aux = 1 ∧ target ≠ q then
    modQueue s p target (fun x => if x.cause = 0x02 then { x with cause := 0 } else x)
  else s

/-- A queue's issued instructions treated by class: restart-class ones abandoned, drain-class ones kept; HEAD stays at
the first abandoned one (R208). -/
def abandonQueue (s : State) (p q : Nat) : State :=
  let x := queueOf (partOf s p) q
  let gone := (x.issued.filter isRestart).map (·.idx)
  let s0 := (x.issued.filter isRestart).foldl (fun s i => unhalt (freeRebuilt s i) p q i) s
  let s1 := forgetWork (returnTokens s0 p q) p q gone
  modQueue s1 p q (fun x => { x with
    issued := x.issued.filter (fun i => !isRestart i)
    frozen := match x.frozen with
      | some f => some f
      | none => gone.head?
    waiting := false, granted := 0 })

/-- A queue's pointers after a teardown: not kept, any value (R421). -/
def loosePointers (s : State) (p q : Nat) : State :=
  let k := s.freeCtr
  draw (modQueue s p q (fun x => { x with
    head := Config.freeWord (4 * k) % 2 ^ 32, tail := Config.freeWord (4 * k + 1) % 2 ^ 32
    cprod := Config.freeWord (4 * k + 2) % 2 ^ 32, ccons := Config.freeWord (4 * k + 3) % 2 ^ 32
    frozen := none }))

/-- The queue is torn down: halted with CAUSE 0x07, ENABLE 0, restart-class instructions abandoned (R421). Drain-class
instructions run on to their commit; the pointers are lost once none is left. -/
def tearQueue (s : State) (p q : Nat) : State :=
  let s1 := modQueue (abandonQueue s p q) p q (fun x => { x with cause := 0x07, enable := false })
  if (queueOf (partOf s1 p) q).issued.isEmpty then loosePointers s1 p q else s1

/-- A teardown with its error record (R421, R480 code 0x10). -/
def teardown (s : State) (p q : Nat) (level : Nat := 2) : State :=
  let s1 := tearQueue s p q
  handled (report s1 (some (.queue p q)) (some p) false
    { code := 0x10, level := level, part := p, queue := some q, detail := 0x07 }) (.queue p q)

/-! ## Starting (R91, R439) -/

/-- A FAULT entry of the service record (R465). -/
def logFault (s : State) (cause parts detail : Nat) : State :=
  logService s etFault (toLe 8 (cause % 16 + parts % 2 ^ 16 * 2 ^ 16) ++ toLe 8 detail)

/-- A partition takes a new epoch and enters PREEMPTED; one whose counter is used up does not start, and the service
record names it (R91, R439). `P` is the partition as it starts. -/
def startPart (s : State) (p : Nat) (P : Part) : State :=
  let n := AMap.getD s.flash.epochs p 0
  if 0xFFFFFFFF ≤ n then logFault (setPart s p { P with state := .notStarted }) 2 (2 ^ p) 0
  else
    setPart { s with flash := { s.flash with epochs := AMap.insert s.flash.epochs p (n + 1) } } p
      { P with state := .preempted, epoch := n + 1 }

/-! ## Pre-emption (R208, R440 to R442) -/

/-- The queues of a partition that software may use, as listed. -/
def listedQueues (s : State) (p : Nat) : List Nat := ((partOf s p).queues.map Prod.fst).filter (fun q => decide (q < 64))

/-- Has every issued instruction of the partition's queues committed. -/
def drained (s : State) (p : Nat) : Bool := (listedQueues s p).all (fun q => (queueOf (partOf s p) q).issued.isEmpty)

/-- Pre-emption begins: nothing issues, restart-class instructions are abandoned, drain-class ones run on, and an inbox request
that runs is to run again from its start (R440 steps 1 and 2). -/
def preemptPart (s : State) (p : Nat) : State :=
  if (partOf s p).state ≠ .running then s
  else
    let s1 := (listedQueues s p).foldl (fun s q => abandonQueue s p q) s
    modPart s1 p (fun P => { P with state := .preempting, saveAt := P.save, inboxDue := none, inboxChecks := [], inboxBad := [] })

/-- The four pointers of a queue as they are saved (R440 step 4): HEAD stays at an abandoned instruction (R208). -/
def pointerBytes (x : Queue) : List Byte :=
  toLe 4 x.head ++ toLe 4 x.tail ++ toLe 4 x.cprod ++ toLe 4 x.ccons

/-- The save area with one queue's pointers written; nothing is written outside the partition's range (R445). -/
def savePointers (s : State) (p q : Nat) : State :=
  let a := (partOf s p).saveAt + 16 * q
  if mayAccess s p a 16 then devPut s a (pointerBytes (queueOf (partOf s p) q)) else s

/-- A queue as it stands while its partition is PREEMPTED: HEAD is the saved one. -/
def parkQueue (x : Queue) : Queue := { x with frozen := none, next := x.head }

/-- A queue's pointers reloaded from the save area (R441). -/
def reloadQueue (s : State) (p q : Nat) : State :=
  match (if (partOf s p).saved then devRead s ((partOf s p).saveAt + 16 * q) 16 else none) with
  | some bs => modQueue s p q (fun x => { x with head := leAt bs 0 4, next := leAt bs 0 4, tail := leAt bs 4 4
                                                 cprod := leAt bs 8 4, ccons := leAt bs 12 4 })
  | none => modQueue s p q (fun x => { x with next := x.head })

/-- RESUME (R441, R442). -/
def resumePart (s : State) (p : Nat) : State :=
  match (partOf s p).state with
  | .preempted =>
    let s1 := (listedQueues s p).foldl (fun s q => reloadQueue s p q) s
    modPart s1 p (fun P => { P with state := .running, resumeHeld := false, saved := false })
  | .preempting => modPart s p (fun P => { P with resumeHeld := true })
  | _ => s

/-- Pre-emption ends: the pointers of the 64 queues are saved, the state becomes PREEMPTED, and a RESUME that was held
takes effect (R440 steps 4 and 5, R442). -/
def finishPreempt (s : State) (p : Nat) : State :=
  let s1 := (List.range 64).foldl (fun s q => savePointers s p q) s
  let s2 := (listedQueues s1 p).foldl (fun s q => modQueue s p q parkQueue) s1
  let ok := mayAccess s p (partOf s p).saveAt 1024
  let s3 := modPart s2 p (fun P => { P with state := .preempted, saved := ok })
  if (partOf s3 p).resumeHeld then resumePart s3 p else s3

/-- PREEMPT_DRAINED (R440). -/
def execPreemptDrained (p : Nat) (s : State) : Answer :=
  if ready s && (partOf s p).state == .preempting && drained s p then .next (finishPreempt s p) else .next s

/-! ## Restart (R443) -/

/-- LAST_CAUSE of a restart (R445). -/
def restartCode : RestartCause → Nat
  | .software _ => 1
  | .coreFailure => 2
  | .escalation => 3

/-- Is a containment context inside a partition. -/
def ctxIn (p : Nat) : ErrContext → Bool
  | .instr w => w.part == p
  | .request q _ => q == p
  | .queue q _ => q == p
  | .partition q => q == p

/-- The device connections of a partition, kept until it restarts, are given up (R378). -/
def dropDeviceConns (s : State) (p : Nat) : State :=
  (s.tlaley.conns.filter (fun e => e.2.device && e.2.part == p && e.2.state != .free)).foldl
    (fun s e => reportXfers (freeConn s e.1) e.2.xfers) s

/-- Is a meter key one of a partition. -/
def meterPart (key : Nat) : Nat := key / 512

/-- Does an accessor belong to a partition. -/
def accessorIn (p : Nat) : Accessor → Bool
  | .vf q => q == p
  | .ringmaster q => q == p
  | _ => false

/-- A partition's page at its reset values with its records FREE and their RGEN advanced; reduce contexts, the inbox and
stripes stay (R443 steps 4 and 5). -/
def freshPart (P : Part) : Part :=
  { rgenBase := (P.rgenBase + 1) % 4096, lastCause := P.lastCause, restarts := min 0xFFFF (P.restarts + 1)
    nextTag := P.nextTag, issues := P.issues, rctxs := P.rctxs, inbox := P.inbox, stripes := P.stripes
    netCopies := P.netCopies
    recs := P.recs.map (fun e => (e.1, { rgen := (e.2.rgen + 1) % 4096 })) }

/-- What other units hold for a partition at its reset values: its meters, its accessors' selectors, and the errors being
handled for it (R443, R495), but for a restart whose record could not be written, which escalates (R426). -/
def forgetPart (s : State) (p : Nat) : State :=
  { s with
    shaper := { s.shaper with meters := s.shaper.meters.filter (fun e => meterPart e.1 != p) }
    selectors := s.selectors.filter (fun e => !accessorIn p e.1)
    counters := { s.counters with handling := s.counters.handling.filter (fun h => !ctxIn p h.ctx || (h.broken && h.ctx == .partition p)) } }

/-- One request's end by its partition's restart, with final status 0x46 (R443 step 2). -/
def lostAtRestart (p : Nat) (s : State) (e : Nat × Rec) : State := retire s p e.1 none 0x46

/-- Every request of a partition that has not ended ends with final status 0x46 (R443 step 2). -/
def endRequests (s : State) (p : Nat) : State :=
  ((partOf s p).recs.filter (fun e => e.2.state != .free && e.2.state != .ended)).foldl
    (lostAtRestart p) s

/-- Steps 2 to 5 of R443, once the queues are torn down and drained: requests end, the old epoch is fenced here, every
record becomes FREE with its RGEN advanced, the partition page takes its reset values, and the partition starts anew. -/
def finishRestart (s : State) (p : Nat) : State :=
  let old := selfParty s p
  let s1 := dropDeviceConns (applyFence (endRequests s p) old old.epoch) p
  startPart (forgetPart s1 p) p (freshPart (partOf s1 p))

/-- A restarting partition whose drain-class instructions have all committed goes on (R443 step 1). -/
def continueRestart (s : State) (p : Nat) : State :=
  if (partOf s p).state = .restarting ∧ drained s p then finishRestart s p else s

/-- A partition restarts (R443), and an error met while it does is chained (R425): every queue is torn down, the attend inbox is answered with NO_ATTEND; drain-class
instructions run to their commit before the later steps. A pre-emption in progress is abandoned (R442). -/
def restartPart (s : State) (p : Nat) (cause : RestartCause) : State :=
  let P := partOf s p
  let code := restartCode cause
  let err : ErrRec := { code := 0x11, level := 3, part := p, detail := code }
  if P.state = .notStarted then s
  else if P.state = .restarting then
    if (handlingOf s (.partition p)).isSome then report s (some (.partition p)) (some p) true err else s
  else
    let s1 := report s (some (.partition p)) (some p) true err
    let s2 := (listedQueues s1 p).foldl (fun s q => tearQueue s p q) s1
    let s3 := P.attendInbox.foldl (fun s m => answerAttend s m St.noAttend []) s2
    let s4 := modPart s3 p (fun P => { P with state := .restarting, resumeHeld := false, attendInbox := [], lastCause := code
                                              queues := AMap.erase P.queues 64, rebuildIn := [] })
    continueRestart s4 p

end Sys2Proof.Machine
end

