-- ==== Sys2Proof/Machine/Commit.lean ====
section
/-! DEFINITION. Issue and commit (07_instruction_set.md R187 to R209): fetching the words of a queue, the checks of R196,
smooth weighted round-robin, inline waits; what a commit makes visible, its completion record and its signal; and the
arming of snapshot latches (18_counters_and_errors.md R477). -/

namespace Sys2Proof.Machine

/-! ## Snapshot latches (R477) -/

/-- What an arming request meets: it takes a number, it is refused, or it finds every latch pending. -/
inductive Arming where
  | takes (number : Nat)
  | refused
  | full
deriving DecidableEq, Repr

/-- The treatment of an arming request at a time (R477). -/
def armingOf (c : Counters) (t : Nat) : Arming :=
  match c.latches.find? (fun e => e.2 == t) with
  | some e => .takes e.1
  | none =>
    if c.latches.any (fun e => decide (t < e.2)) then .refused
    else if 4 ≤ c.latches.length then .full
    else .takes c.nextNo

/-- The latch armed: a joined latch stays as it is, a new one takes the next number (R477). -/
def armLatch (c : Counters) (t : Nat) : Counters :=
  if c.latches.any (fun e => e.2 == t) then c
  else { c with latches := c.latches ++ [(c.nextNo, t)], nextNo := if c.nextNo = 2 ^ 32 - 1 then 1 else c.nextNo + 1 }

/-- The time of a SNAP: its operand, or with NOW the CC island's device time at the commit. -/
def snapTime (s : State) (t : Option Nat) : Nat := t.getD (localTime s Isl.cc)

/-! ## Effects at commit (R201 step 1) -/

/-- One effect made visible, and the RESULT that it decides, if any. -/
def applyEffect (p : Nat) (w : IRef) (a : State × Nat) (e : Effect) : State × Nat :=
  let s := a.1
  let same := fun (s' : State) => (s', a.2)
  match e with
  | .devWrite at_ bs => same (devPut s at_ bs)
  | .setW idx v => same (setRec s p idx { recOf s p idx with w := v })
  | .commitReq idx es => same (commitReq s p idx es)
  | .rollbackReq idx => same (rollbackReq s p idx)
  | .emitReq idx entry => same (emitReq s p idx entry)
  | .retireReq idx final => same (retireReq s p idx final)
  | .openReq idx r => same (setRec s p idx r)
  | .stepped mb limit at_ => commitStep s p mb limit at_ w.queue
  | .reclaimed h => same (reclaimReq s p h)
  | .sealed idx l j hash => same (setRec s p idx (afterSeal (recOf s p idx) l j hash))
  | .sealMove idx l j h flags => same (moveIfShared s p idx l j h flags)
  | .jobStatus jobs => same (jobs.foldl (fun s x => jobOutcome s p x.1 x.2.1 x.2.2) s)
  | .charge c amt => same (charge s p c amt)
  | .refund c amt => same (refund s p c amt)
  | .admitted idx amt =>
    let s1 := admitCommit s p idx amt
    (s1, levelTokens (bucketOf s1 p (recOf s1 p idx).customer))
  | .semAdd sem v =>
    let s1 := semAdd s p sem v
    (serve s1 p sem, (semOf s1 p sem).value)
  | .semSet sem v => (serve (setSem s p sem { semOf s p sem with value := v }) p sem, v)
  | .stampTime => (s, localTime s Isl.cc)
  | .snapArm t =>
    let at_ := snapTime s t
    match armingOf s.counters at_ with
    | .takes n => ({ s with counters := armLatch s.counters at_ }, n)
    | _ => a
  | .bindAct engines key slot _ => same (bindAct s p engines key slot)
  | .setStream port stream image => same (setStream s p port stream image)
  | .setReduce ci image => same (setReduce s p ci image)
  | .statsRead _ port stream at_ clear => readStats s p port stream at_ clear
  | .putHandle at_ h => same (devPut s at_ (toLe 8 h))
  | .triples src =>
    same (modPart s p (fun P => { P with sources := src :: P.sources.filter (fun x =>
      decide (x.start + x.len ≤ src.start ∨ src.start + src.len ≤ x.start)) }))
  | .groupRead block h => same (modPart s p (fun P => { P with groups := P.groups ++ [(block, h)] }))
  | .stripeKept at_ => same (modPart s p (fun P => { P with stripes := P.stripes.filter (fun e => e.1 != at_) ++ [(at_, true)] }))
  | .halted _ => same (modQueue s p w.queue (fun x => if x.cause = 0 then { x with cause := 0x02 } else x))

/-- The memory that an effect of partition p writes, as address and bytes. -/
def effectRegion (s : State) (p : Nat) : Effect → Option (Nat × Nat)
  | .devWrite a bs => some (a, bs.length)
  | .putHandle a _ => some (a, 8)
  | .statsRead _ _ _ a _ => some (a, 16)
  | .commitReq idx es => some ((recOf s p idx).tokens + 4 * ((recOf s p idx).c + 1), 4 * es.length)
  | .emitReq idx _ => some ((recOf s p idx).tokens + 4 * (recOf s p idx).c, 4)
  | _ => none

/-- The uncorrectable words of which a list of effects writes a part (R395). -/
def partWords (s : State) (p : Nat) (effects : List Effect) : List Nat :=
  (effects.filterMap (effectRegion s p)).flatMap (fun r =>
    (badWords s r.1 r.2).filter (fun w => decide (w < r.1 ∨ r.1 + r.2 < w + 16)))

/-- Does an effect write into a sealed block of this module (R62). -/
def meetsSealed (s : State) (p : Nat) (e : Effect) : Bool :=
  match effectRegion s p e with
  | none => false
  | some r =>
    decide (0 < r.2) && (List.range ((r.1 + r.2 - 1) / 0x4000 - r.1 / 0x4000 + 1)).any (fun k =>
      match coveringFrame s (r.1 / 0x4000 + k) with
      | some f => f.2.state == .sealed
      | none => false)

/-- The memory that an instruction left undefined until its commit has its contents again; the destinations of an ATTEND
that ends with LEAD_MISS and of an EXPAND that ends with BAD_FORMAT stay undefined (R209, R240, R265). -/
def endUndef (s : State) (i : Issued) (st : Nat) : State :=
  if st = St.leadMiss ∨ (opcodeOf i.words = 0x42 ∧ st = St.badFormat) then s
  else { s with mem := { s.mem with undef := s.mem.undef.filter (fun u => !i.undefs.contains u.serial) } }

/-! ## The completion record (R205, R206) -/

/-- Records of a completion ring. -/
def cplSize (x : Queue) : Nat := 2 ^ clampN 4 16 x.csizeLog2

/-- Is the completion ring full. -/
def cplFull (x : Queue) : Bool := (x.cprod + 2 ^ 32 - x.ccons) % 2 ^ 32 == cplSize x

/-- The 16 bytes of a completion record (R206). -/
def cplBytes (q : Nat) (x : Queue) (i : Issued) (st result : Nat) (signalled : Bool) : List Byte :=
  toLe 8 (i.idx % 2 ^ 32 + opcodeOf i.words * 2 ^ 32 + st % 256 * 2 ^ 40 + q % 64 * 2 ^ 48 + flag signalled * 2 ^ 55
    + ringTag x.cprod (cplSize x) * 2 ^ 56) ++ toLe 8 result

/-- Address of the next record. -/
def cplAddr (x : Queue) : Nat := x.cbase + x.cprod % cplSize x * 16

/-- Can the next record be written. -/
def cplWritable (s : State) (p : Nat) (x : Queue) : Bool :=
  (ringWrite s p x.cplHost x.hostFn (cplAddr x) (List.replicate 16 0)).isSome

/-- The record written, CPROD advanced and vector q raised (R206, R435). -/
def writeCpl (s : State) (p q : Nat) (i : Issued) (st result : Nat) (signalled : Bool) : State :=
  let x := queueOf (partOf s p) q
  let s1 := (ringWrite s p x.cplHost x.hostFn (cplAddr x) (cplBytes q x i st result signalled)).getD s
  raiseVf (modQueue s1 p q (fun x => { x with cprod := (x.cprod + 1) % 2 ^ 32 })) p q

/-! ## INSTRUCTION_COMMIT (R197, R201, R205) -/

/-- Words that an instruction took in its queue: an instruction with a bad length field took one (R196 step 1). -/
def wordsTaken (i : Issued) : Nat := if 1 ≤ lenOf i.words ∧ lenOf i.words ≤ 4 then lenOf i.words else 1

/-- Does word index a come before b in a queue's numbering (R189: indices count modulo 2^32). -/
def wordBefore (a b : Nat) : Bool := decide (1 ≤ (b + 2 ^ 32 - a % 2 ^ 32) % 2 ^ 32 ∧ (b + 2 ^ 32 - a % 2 ^ 32) % 2 ^ 32 < 2 ^ 31)

/-- The instruction leaves the queue; HEAD advances past it, but not past an abandoned instruction (R197, R208). -/
def leaveQueue (s : State) (p q : Nat) (i : Issued) : State :=
  modQueue s p q (fun x => { x with
    issued := x.issued.filter (fun j => j.idx != i.idx)
    head := if x.frozen.all (wordBefore i.idx) then (i.idx + wordsTaken i) % 2 ^ 32 else x.head })

/-- The commit itself: results, record, signal, halt (R201), and the count of an ATTEND that completes with LEAD_MISS (R242).
`record` is false where the record is dropped (R205). -/
def commitNow (s : State) (p q : Nat) (i : Issued) (st : Nat) (record : Bool) : State :=
  let x := queueOf (partOf s p) q
  let w : IRef := ⟨p, q, i.idx⟩
  let bad := st != St.ok
  let sem := signalOf i.words
  let signals := sem != 0 && !(bad && x.haltOnErr)
  let held := i.effects.filter (fun e => match e with
    | .halted _ => false
    | _ => true)
  let a := held.foldl (applyEffect p w) (endUndef s i st, if st = i.status.getD 0 then i.result else 0)
  let s1 := leaveQueue a.1 p q i
  let s2 := if record then writeCpl s1 p q i st a.2 signals else s1
  let s3 := if signals then serve (semAdd s2 p sem 1) p sem else s2
  let s4 := if bad && x.haltOnErr then modQueue s3 p q (fun x => if x.cause = 0 then { x with cause := 0x01 } else x) else s3
  let s5 := (i.effects.filter (fun e => !held.contains e)).foldl (fun s e => (applyEffect p w (s, 0) e).1) s4
  let s6 := countEv s5 Isl.cc 0x060 none (some p)
  let s7 := if bad then countEv s6 Isl.cc 0x061 none (some p) else s6
  let s7 := if st = St.leadMiss then modPart s7 p (fun P => { P with strictFaults := (P.strictFaults + 1) % 2 ^ 32 }) else s7
  let s8 := handled s7 (.instr w)
  let s9 := if (queueOf (partOf s8 p) q).cause = 0x07 ∧ (queueOf (partOf s8 p) q).issued.isEmpty then loosePointers s8 p q else s8
  continueRestart s9 p

/-- The status at which an instruction commits: a SNAP that arms nothing is BUSY (R477). None: a SNAP that waits for a latch. -/
def commitStatus (s : State) (i : Issued) : Option Nat :=
  match i.effects with
  | [.snapArm t] =>
    match armingOf s.counters (snapTime s t) with
    | .takes _ => i.status
    | .refused => some St.busy
    | .full => none
  | _ => i.status

/-- An ADMIT that passed is tested again as it commits, for test and charge are one operation on the bucket: what came to the
bucket in between may turn it into BUDGET (R300, R301). -/
def admitAgain (s : State) (w : IRef) (i : Issued) : State :=
  match i.effects with
  | [.admitted idx _] =>
    let r := recOf s w.part idx
    let b := bucketOf s w.part r.customer
    let need := reservation s w.part r
    if admits b need then modIssued s w (fun i => { i with effects := [.admitted idx (promptPart s w.part r)] })
    else finish (holdRefused (countEv s Isl.ts 0x084 none (some w.part)) w.part idx b need) w St.budget (levelTokens b)
  | _ => s

/-- Effects that would write a sealed block are refused: READ_ONLY, the first address logged (R62; log entry 134). -/
def refuseSealed (s : State) (w : IRef) (i : Issued) : State :=
  match i.effects.find? (meetsSealed s w.part) with
  | none => s
  | some e =>
    let s1 := violation s (some w.part) 1 (me s) ((effectRegion s w.part e).getD (0, 0)).1 (ctxOf w) (some w.queue) St.readOnly
    modIssued s1 w (fun i => { i with status := if i.status = some St.ok then some St.readOnly else i.status
                                      effects := i.effects.filter (fun e => !meetsSealed s w.part e) })

/-- Effects that write a part of an uncorrectable word: UNCORRECTABLE, each word recorded and counted (R395 to R397). -/
def refuseParts (s : State) (w : IRef) (i : Issued) : State :=
  let bad := (partWords s w.part i.effects).eraseDups
  if bad.isEmpty then s
  else
    let s1 := bad.foldl (fun s b => noteAccess (uncorrectableAt s b [] (some w.part) (ctxOf w) (some w.queue))
      (channelOf s b).1 true false) s
    modIssued s1 w (fun i => { i with status := if i.status = some St.ok then some St.uncorrectable else i.status })

/-- The memory that an instruction's own operands name to be read. -/
def sourceRegions (s : State) (p : Nat) (ws : List Nat) : List (Nat × Nat) :=
  let op := opcodeOf ws
  if op = 0x10 ∨ op = 0x16 ∨ op = 0x34 ∨ op = 0x41 ∨ op = 0x60 ∨ op = 0x71 then []
  else if op = 0x17 then operandRegions s p ws
  else (operandRegions s p ws).take 1

/-- What is settled as an instruction commits: the corrections that its reads met are counted, an ADMIT is tested, writes that
memory cannot take are refused (R62, R300, R394, R395; log entry 135). -/
def settleHead (s : State) (w : IRef) : State :=
  let on := fun (s : State) (f : State → IRef → Issued → State) => match issuedOf s w with
    | some i => f s w i
    | none => s
  let s1 := on s (fun s w i => (sourceRegions s w.part i.words).foldl (fun s r => tookRead s r.1 r.2) s)
  on (on (on s1 admitAgain) refuseSealed) refuseParts

/-- A finished instruction, settled, commits if its record can be written (R197, R205). -/
def commitWith (s : State) (p q : Nat) (i : Issued) : State :=
  let x := queueOf (partOf s p) q
  let t := settleHead s ⟨p, q, i.idx⟩
  let j := (issuedOf t ⟨p, q, i.idx⟩).getD i
  match commitStatus t j with
  | none => s
  | some st =>
    let due := st != St.ok || cplOf i.words
    let dropped := i.stuck && (x.cause == 0x07 || (partOf s p).state != .running)
    if !due || dropped then commitNow t p q j st false
    else if i.stuck && x.cause == 0x06 then s
    else if cplFull x then s
    else if !cplWritable s p x then
      modQueue s p q (fun x => { x with
        cause := if x.cause = 0x07 then 0x07 else 0x06
        issued := x.issued.map (fun j => if j.idx = i.idx then { j with stuck := true } else j) })
    else commitNow t p q j st true

/-- The oldest instruction of a queue commits, if it has finished (R197). -/
def commitHead (s : State) (p q : Nat) : State :=
  match (queueOf (partOf s p) q).issued with
  | [] => s
  | i :: _ => if i.status.isNone then s else commitWith s p q i

/-- INSTRUCTION_COMMIT. Queue 64 is the ringmaster's own (log entry 35): its instructions end without a record. -/
def execInstructionCommit (p q : Nat) (s : State) : Answer :=
  if !ready s then .next s
  else if q = 64 then
    match (queueOf (partOf s p) 64).issued with
    | [] => .next s
    | i :: _ =>
      if i.status.isNone then .next s
      else .next (modQueue (endRebuildIn s p i) p 64 (fun x => { x with issued := x.issued.filter (fun j => j.idx != i.idx) }))
  else .next (commitHead s p q)

/-! ## INSTRUCTION_ISSUE (R190, R193 to R198) -/

/-- What a queue's next words are. -/
inductive Fetched where
  | nothing
  | failed
  | badLen (ws : List Nat)
  | whole (ws : List Nat)
deriving DecidableEq, Repr

/-- The 16-byte word at a queue index (R188). -/
def queueWord (s : State) (p : Nat) (x : Queue) (i : Nat) : Option (List Nat) :=
  (ringRead s p x.ringHost x.hostFn (x.base + i % 2 ^ clampN 6 16 x.sizeLog2 * 16) 16).map
    (fun bs => [leAt bs 0 8, leAt bs 8 8])

/-- The next instruction of a queue, whole once TAIL covers it (R190, R194). -/
def fetchNext (s : State) (p q : Nat) : Fetched :=
  let x := queueOf (partOf s p) q
  let avail := (x.tail + 2 ^ 32 - x.next) % 2 ^ 32
  if avail = 0 ∨ 2 ^ clampN 6 16 x.sizeLog2 < avail then .nothing
  else
    match queueWord s p x x.next with
    | none => .failed
    | some base =>
      let n := lenOf base
      if n = 0 ∨ 4 < n then .badLen base
      else if avail < n then .nothing
      else
        let ws := (List.range n).map (fun k => queueWord s p x (x.next + k))
        if ws.any (·.isNone) then .failed else .whole (ws.map (·.getD [])).flatten

/-- May a queue issue now: enabled, not halted, fewer than 16 in flight, no barrier ahead (R192, R197, R198). -/
def mayIssue (s : State) (p q : Nat) : Bool :=
  let x := queueOf (partOf s p) q
  decide (q < 64) && x.enable && x.cause == 0 && decide (x.issued.length < 16)
    && !x.issued.any (fun i => issueBarrier q i.words)

/-- A queue's next instruction looked at: a failed fetch halts the queue, an inline WAIT takes its place among the waiters
(R191, R198, R200). -/
def lookAheadOn (s : State) (p q : Nat) (f : Fetched) : State :=
  match f with
  | .failed =>
    let x := queueOf (partOf s p) q
    let a := x.base + x.next % 2 ^ clampN 6 16 x.sizeLog2 * 16
    let s1 := if x.ringHost then s else noteRead s a 16 (some p) (some (.queue p q)) (some q)
    handled (modQueue s1 p q (fun x => { x with cause := 0x05 })) (.queue p q)
  | .whole ws =>
    let x := queueOf (partOf s p) q
    let sem := waitOf ws
    if sem = 0 ∨ x.granted = sem ∨ x.waiting ∨ (issueStatus s p ws).isSome then s
    else
      let s1 := modPart s p (fun P => { P with waiters := P.waiters ++ [{ sem := sem, queue := q, idx := none, need := 1 }] })
      serve (modQueue s1 p q (fun x => { x with waiting := true })) p sem
  | _ => s

/-- The next instruction of a queue that may issue looked at (R191, R198, R200). -/
def lookAhead (p : Nat) (s : State) (q : Nat) : State :=
  if mayIssue s p q then lookAheadOn s p q (fetchNext s p q) else s

/-- Is a queue's next instruction ready to issue. One that fails a check of R196 does not wait for its inline token and takes
none (log entry 132). -/
def readyToIssue (s : State) (p q : Nat) : Bool :=
  mayIssue s p q &&
    (match fetchNext s p q with
     | .badLen _ => true
     | .whole ws =>
       let x := queueOf (partOf s p) q
       ((issueStatus s p ws).isSome || waitOf ws == 0 || x.granted == waitOf ws)
         && (opcodeOf ws != 0x01 || x.issued.isEmpty)
     | _ => false)

/-- Weight of a queue in force (R189). -/
def queueWeight (s : State) (p q : Nat) : Nat := max 1 (queueOf (partOf s p) q).weight

/-- The inbox's place among the queues: after queue 63, weight 64 (R193). -/
abbrev inboxSlot : Nat := 64

/-- Credit and weight of a claimant. -/
def creditOf (s : State) (p q : Nat) : Int :=
  if q = inboxSlot then (partOf s p).inboxCredit else (queueOf (partOf s p) q).credit
def weightOf (s : State) (p q : Nat) : Nat := if q = inboxSlot then 64 else queueWeight s p q

/-- A claimant's credit set. -/
def setCredit (s : State) (p q : Nat) (c : Int) : State :=
  if q = inboxSlot then modPart s p (fun P => { P with inboxCredit := c })
  else modQueue s p q (fun x => { x with credit := c })

/-- The claimant with the most credit, the lowest number of equals. -/
def mostCredit (s : State) (p : Nat) : List Nat → Option Nat
  | [] => none
  | q :: qs =>
    match mostCredit s p qs with
    | none => some q
    | some r => if creditOf s p q < creditOf s p r then some r else some q

/-- Smooth weighted round-robin among the claimants (R193; log entry 15): each gains its weight, the one with the most
issues and gives up the sum of the weights. -/
def roundRobin (s : State) (p : Nat) (qs : List Nat) : State × Option Nat :=
  let s1 := qs.foldl (fun s q => setCredit s p q (creditOf s p q + (weightOf s p q : Nat))) s
  match mostCredit s1 p qs with
  | none => (s1, none)
  | some q => (setCredit s1 p q (creditOf s1 p q - ((qs.map (weightOf s p)).sum : Nat)), some q)

/-- Destination memory of a restart-class instruction, undefined from its issue (R209): what its operands name, and what the
descriptor of an ATTEND or MERGE names. -/
def destRegions (s : State) (p : Nat) (ws : List Nat) : List (Nat × Nat) :=
  match opcodeOf ws with
  | 0x20 => attendDest s p (addrB ws)
  | 0x21 => mergeDest s p (addrB ws)
  | 0x16 => if flagOf ws 24 then [(extAddr ws 1, 64)] else []
  | 0x41 => if flagOf ws 24 then [] else [(addrB ws, 16)]
  | 0x42 => if bits (extLo ws 1) 57 48 = (me s).2 then [(extAddr ws 1, bits (extHi ws 1) 31 0)] else []
  | 0x50 => [(extAddr ws 1, 16 * bits (opA ws) 15 0)]
  | 0x60 => [(extAddr ws 1, 64 * bits (opA ws) 31 16)]
  | 0x71 => [(addrB ws, bits (extHi ws 1) 31 0)]
  | _ => []

/-- The boundary of a queue's class B fields: its next issue (R11, R189). -/
def queueBoundary (x : Queue) : Queue :=
  { x with haltOnErr := x.haltPend.getD x.haltOnErr, haltPend := none
           weight := x.weightPend.getD x.weight, weightPend := none }

/-- An instruction issues: it joins the queue's instructions in flight, with a status at once where a check of R196
fails. -/
def issueWords (s : State) (p q : Nat) (ws : List Nat) (n : Nat) (st : Option Nat) : State :=
  let x := queueOf (partOf s p) q
  let w : IRef := ⟨p, q, x.next⟩
  let i : Issued := { idx := x.next, words := ws, status := st, issuedAt := s.now, order := (partOf s p).issues
                      tookSem := if st.isNone then x.granted else 0 }
  let s1 := modQueue s p q (fun x => { queueBoundary x with
    issued := x.issued ++ [i], next := (x.next + n) % 2 ^ 32, waiting := false, granted := if st.isNone then 0 else x.granted })
  let s2 := modPart s1 p (fun P => { P with issues := P.issues + 1 })
  if st = some St.address then violation s2 (some p) 1 (me s) ((badRegion s p ws).getD 0) (ctxOf w) (some q) St.address
  else if st.isSome then s2
  else (destRegions s p ws).foldl (fun s r =>
    if r.2 = 0 then s else modIssued (makeUndef s r.1 r.2) w (fun i => { i with undefs := s.freeCtr :: i.undefs })) s2

/-- The words of an instruction have been fetched from device memory: the corrections that this met are counted (R394). -/
def fetchTook (s : State) (p q n : Nat) : State :=
  let x := queueOf (partOf s p) q
  if x.ringHost then s
  else (List.range n).foldl (fun s k => tookRead s (x.base + (x.next + k) % 2 ^ clampN 6 16 x.sizeLog2 * 16) 16) s

/-- The next instruction of a queue issues (R196). -/
def issueFetched (s : State) (p q : Nat) (f : Fetched) : State :=
  match f with
  | .badLen ws =>
    modQueue (issueWords s p q ws 1 (some St.badLength)) p q (fun x => { x with cause := 0x04 })
  | .whole ws => issueWords (fetchTook s p q (lenOf ws)) p q ws (lenOf ws) (issueStatus s p ws)
  | _ => s

/-- The next instruction of a queue, fetched, issues (R196). -/
def issueFrom (s : State) (p q : Nat) : State := issueFetched s p q (fetchNext s p q)

/-- The queue picked issues: the inbox's run of an attend request, or a queue's next instruction. -/
def issueTo (s : State) (p : Nat) (pick : Option Nat) : State :=
  match pick with
  | none => s
  | some q => if q = inboxSlot then serveInbox s p else issueFrom s p q

/-- INSTRUCTION_ISSUE: a partition that runs issues one instruction, or serves its attend inbox (R193). -/
def execInstructionIssue (p : Nat) (s : State) : Answer :=
  if !ready s || !composed s p || (partOf s p).state != .running then .next s
  else
    let qs := ((partOf s p).queues.map Prod.fst).filter (fun q => decide (q < 64))
    let s1 := qs.foldl (lookAhead p) s
    let claim := qs.filter (readyToIssue s1 p) ++ (if (partOf s1 p).attendInbox.isEmpty then [] else [inboxSlot])
    let a := roundRobin s1 p claim
    .next (issueTo a.1 p a.2)

end Sys2Proof.Machine
end

