-- ==== Sys2Proof/Machine/Clock.lean ====
section
/-! DEFINITION. Device time and its sources (02_architecture.md R29, 13_remote_access.md R379, 20_module_interface.md R518)
the tick of the clock with the events of R476 that last for cycles, and the firing of snapshot latches
(18_counters_and_errors.md R478). -/

namespace Sys2Proof.Machine

/-! ## The tick -/

/-- Far ports that a priority pauses, counted for each cycle (R476 code 0x047). -/
def countPauses (s : State) : State :=
  (s.tlaley.ports.filter (fun e => e.2.pausedHi.isSome || e.2.pausedLo.isSome)).foldl
    (fun s e => countEv s Isl.fp 0x047 (some e.1) none (cyclesAt Isl.fp s.now)) s

/-- Partitions whose frames at a near port are held for credits, counted for each cycle (R331, R476 code 0x034). -/
def countHeld (s : State) : State :=
  (List.range 16).foldl (fun s port =>
    let held := (tsPort s port).frames.filter (fun f =>
      decide (AMap.getD (nearPort s port).credits f.tc 0 < creditUnits s port f.frame))
    ((held.map (·.part)).eraseDups).foldl (fun s p => countEv s Isl.np 0x034 (some port) (some p) (cyclesAt Isl.np s.now)) s) s

/-- Queues whose oldest instruction waits for room in the completion ring, counted for each cycle (R205, R476 code
0x052). -/
def countRingWaits (s : State) : State :=
  s.parts.foldl (fun s P => P.2.queues.foldl (fun s q =>
    match q.2.issued with
    | i :: _ =>
      if i.status.isSome && (i.status != some St.ok || cplOf i.words) && cplFull q.2 then
        countEv s Isl.hp 0x052 (some q.2.hostFn) (some P.1) (cyclesAt Isl.hp s.now)
      else s
    | [] => s) s) s

/-- The sources whose events the pace inside the engines and the network-on-chip decides (R476; log entry 88). -/
def pacedCodes : List Nat := [0x011, 0x012, 0x013, 0x014, 0x090, 0x091]

/-- The counters of those sources in one tick: any number of events (log entry 88). -/
def countPaced (s : State) : State :=
  draw { s with counters := { s.counters with units := s.counters.units.map (fun e => (e.1,
    [0, 1, 2, 3].foldl (fun u i =>
      let c := u.src.getD i 0
      if bit u.enable i && pacedCodes.contains c && codeInIsland c (unitIsland e.1) then
        bumpAt u i (Config.stallEvents s.freeCtr e.1 i)
      else u) e.2)) } }

/-- The tick of an empty queue: one nanosecond of device time, and what is counted for the clock cycles
that begin in it (R475, R476; log entry 2). Device
time is a natural number here: past 2^64 − 1, where R5 says nothing, it counts on (DESIGN CHOICE, log entry 90). -/
def tick (s : State) : State :=
  let s := countPaced (countRingWaits (countHeld (countPauses s)))
  let s1 := if s.time.hold then { s with time := { s.time with hold := false } } else { s with now := s.now + 1 }
  let s1 := if s.power.pgood then { s1 with flash := { s1.flash with poweredNs := s1.flash.poweredNs + 1 } } else s1
  { s1 with counters := { s1.counters with
      units := s1.counters.units.map
        (fun e => (e.1, unitCount (unitIsland e.1) 0x001 none none (cyclesAt (unitIsland e.1) s.now) e.2)) } }

/-! ## Time sources -/

/-- The time base changed. -/
def modTime (s : State) (f : TimeBase → TimeBase) : State := { s with time := f s.time }

/-- The exchange with the grandmaster changed. -/
def modPtp (s : State) (f : PtpClock → PtpClock) : State := { s with tlaley := { s.tlaley with ptpClock := f s.tlaley.ptpClock } }

/-- A Sync's origin is known: the clock asks for the delay by a Delay_Req, which the MAC stamps with its departure (R379). -/
def askDelay (s : State) (origin : Int) : State :=
  let seq := (s.tlaley.ptpClock.reqSeq + 1) % 2 ^ 16
  let s1 := modPtp s (fun c => { c with origin := some origin, reqSeq := seq, sentAt := some s.now })
  emitOut (draw s1) (.ethernet s.tlaley.ptpPort (delayReqFrame s s.tlaley.ptpPort s.tlaley.ptpIpv6 s.tlaley.ptpDomain seq))

/-- A measured offset from the grandmaster: corrected by slewing; the module is locked within 20 ns (R379, R383, R518; log
entry 36). -/
def takeOffset (s : State) (offset : Int) : State :=
  let locked := decide (offset.natAbs ≤ 20)
  { modTime s (fun x => { x with correction := -offset, holdover := false }) with
    tlaley := { s.tlaley with ptpOffset := offset, ptpLocked := locked }
    life := { s.life with timeValid := s.life.timeValid || locked } }

/-- The offset that a complete exchange measures: half of what the way here took more than the way there. -/
def measured (c : PtpClock) (received : Int) : Option Int :=
  match c.origin, c.sentAt with
  | some t1, some t3 => some (((c.arrive - t1) - (received - t3)) / 2)
  | _, _ => none

/-- PTP_MESSAGE: a message on the port, in the domain and over the IP version of FP_PTP. One-step and two-step Sync draw a
Delay_Req; its response completes the exchange (R379; log entry 147). -/
def execPtpMessage (m : PtpMsg) (s : State) : Answer :=
  let t := s.tlaley
  if ready s && t.ptpEnable && m.port == t.ptpPort && m.domain == t.ptpDomain && m.ipv6 == t.ptpIpv6
      && (farPort s m.port).state == .up then
    match m.kind with
    | .sync twoStep =>
      let s1 := modPtp s (fun c => { c with seq := m.seq, arrive := s.now, origin := none, sentAt := none })
      .next (if twoStep then modPtp s1 (fun c => { c with arrive := s.now - m.corr }) else askDelay s1 (m.time + m.corr))
    | .followUp =>
      if m.seq = t.ptpClock.seq ∧ t.ptpClock.origin = none then .next (askDelay s (m.time + m.corr)) else .next s
    | .delayResp =>
      if m.seq = t.ptpClock.reqSeq then
        match measured t.ptpClock (m.time - m.corr) with
        | some d => .next (takeOffset (modPtp s (fun c => { c with sentAt := none })) d)
        | none => .next s
      else .next s
    | .other => .next s
  else .next s

/-- The whole second nearest to a time, in ns. -/
def nearestSecond (t : Nat) : Nat := (t + 500000000) / 1000000000 * 1000000000

/-- PPS_PULSE, `interval` ns after the pulse before: ignored while PTP runs; from the third consecutive pulse 1 s ± 1 µs
apart its edge is the start of a second (R518). -/
def execPpsPulse (interval : Nat) (s : State) : Answer :=
  if !ready s || s.tlaley.ptpEnable then .next s
  else
    let good := decide (999999000 ≤ interval ∧ interval ≤ 1000001000)
    let run := if good then s.time.ppsRun + 1 else 1
    let locked := decide (3 ≤ run)
    .next { modTime s (fun x => { x with
              ppsRun := run, ppsLocked := locked, holdover := if locked then false else x.holdover
              correction := if locked then (nearestSecond s.now : Int) - s.now else x.correction }) with
      life := { s.life with timeValid := s.life.timeValid || locked } }

/-- TIME_SOURCE_LOSS: device time holds its last frequency and goes on without a step (R518). -/
def execTimeSourceLoss (s : State) : Answer :=
  if ready s then
    .next { modTime s (fun x => { x with ppsRun := 0, ppsLocked := false, holdover := true, correction := 0 }) with
      tlaley := { s.tlaley with ptpLocked := false } }
  else .next s

/-- REF10M_SIGNAL: the 10 MHz input gains or loses a valid signal (R518). -/
def execRef10mSignal (valid : Bool) (s : State) : Answer :=
  if s.power.pgood then .next (modTime s (fun x => { x with ref10m := valid })) else .next s

/-- One nanosecond slewed every 10 µs, which is 100 µs per second: forwards by counting one more, backwards by holding
the next (R518). -/
def slew (s : State) : State :=
  if s.time.correction = 0 then modTime s (fun x => { x with slewed := 0 })
  else if s.time.slewed + 1 < 10 then modTime s (fun x => { x with slewed := x.slewed + 1 })
  else if 0 < s.time.correction then
    modTime { s with now := s.now + 1 } (fun x => { x with slewed := 0, correction := x.correction - 1 })
  else modTime s (fun x => { x with slewed := 0, correction := x.correction + 1, hold := true })

/-- The copies of device time after a correction: TS has the time base itself, every other island a lead or lag of at most
4 ns, whatever it is (R29; log entry 21). -/
def copies (k : Nat) : AMap Int :=
  (List.range 18).map (fun i => (i, if i = Isl.ts then 0 else ((Config.islandSkew (18 * k + i) % 9 : Nat) : Int) - 4))

/-- TIME_CORRECTION: every 1 µs each island's copy is corrected from TS (R29). -/
def execTimeCorrection (s : State) : Answer :=
  if ready s then .next (slew (draw { s with islands := copies s.freeCtr })) else .next s

/-- A unit latched: its counters are copied and its shadows carry the number (R478). -/
def latchUnit (n : Nat) (u : Unit) : Unit := { u with shadow := u.value, shadowNo := n }

/-- Latch n fires in every unit of an island (R474, R478). -/
def latchIsland (n : Nat) (c : Counters) (i : Nat) : Counters :=
  { c with units := ((List.range 320).filter (fun u => unitIsland u == i)).foldl
             (fun m u => AMap.insert m u (latchUnit n (AMap.getD m u {}))) c.units
           latched := c.latched ++ [(n, i)] }

/-- A pending latch fires in the islands whose own copy of device time has reached its time and that it has not reached
before (R29, R478). -/
def fireLatch (s : State) (c : Counters) (l : Nat × Nat) : Counters :=
  ((List.range 18).filter (fun i => decide (l.2 ≤ localTime s i) && !c.latched.contains (l.1, i))).foldl (latchIsland l.1) c

/-- Has a latch fired in every island. -/
def latchedAll (c : Counters) (n : Nat) : Bool := (List.range 18).all (fun i => c.latched.contains (n, i))

/-- The latches that every unit has taken leave, oldest first, and DONE takes their numbers (R478). -/
def settleLatches : List (Nat × Nat) → Counters → Counters
  | [], c => c
  | l :: ls, c =>
    if latchedAll c l.1 then settleLatches ls { c with latches := ls, done := l.1, latched := c.latched.filter (fun e => e.1 != l.1) }
    else c

/-- SNAP_LATCH: the pending latches fire, in order of arming, in each island whose local device time has reached theirs
(R478). -/
def execSnapLatch (s : State) : Answer :=
  if ready s then
    let c := s.counters.latches.foldl (fireLatch s) s.counters
    .next { s with counters := settleLatches c.latches c }
  else .next s

end Sys2Proof.Machine
end

