-- ==== Sys2Proof/Machine/Contain.lean ====
section
/-! DEFINITION. Containment (15_resilience.md R420 to R426), failures in operation (02_architecture.md R42, R44), and the
resets of host functions and links (16_partitions_and_hosts.md R438, 20_module_interface.md R507). -/

namespace Sys2Proof.Machine

/-! ## Escalation (R426) -/

/-- Bound of a containment action in ns: 10 ms at levels 0 to 2, 100 ms for a partition restart. -/
def containBound : ErrContext → Nat
  | .partition _ => 100000000
  | _ => 10000000

/-- Containment level of a context (R420). -/
def levelOfCtx : ErrContext → Nat
  | .instr _ => 0
  | .request _ _ => 1
  | .queue _ _ => 2
  | .partition _ => 3

/-- Partition of a context. -/
def partOfCtx : ErrContext → Nat
  | .instr w => w.part
  | .request p _ => p
  | .queue p _ => p
  | .partition p => p

/-- The queue that issues a request's STEPs (R420). -/
def requestQueue (s : State) (p idx : Nat) : Option Nat := AMap.find? (partOf s p).stepQueue (recOf s p idx).mbatch

/-- The next context acts: a request ends, a queue is torn down, a partition restarts, the module stops (R420, R426). A
request whose STEPs no queue has issued escalates to its partition. -/
def escalate (s : State) : ErrContext → State
  | .instr w =>
    match issuedOf s w with
    | some i =>
      if namesRequest (opcodeOf i.words) then
        failRequest s w.part (reqIndex i.words) (match i.status with
          | some st => if st = St.ok ∨ 0x36 < st then St.lost else st
          | none => St.lost)
      else teardown s w.part w.queue
    | none => teardown s w.part w.queue
  | .request p idx =>
    match requestQueue s p idx with
    | some q => teardown s p q
    | none => restartPart s p .escalation
  | .queue p _ => restartPart s p .escalation
  | .partition _ => stopModule s 2

/-- Is an error in the error machinery borne out for an error that is being handled (R426). -/
def escalates (s : State) (ctx : ErrContext) (h : Handling) : MachineryError → Bool
  | .bound => decide (h.since + containBound ctx ≤ s.now)
  | .record => h.broken
  | .logic => true

/-- CONTAINMENT_TIMEOUT: a containment action has not completed within its bound, an error record of it could not be written,
or the logic that carries it out has a fault; it escalates by one level (R426). -/
def execContainmentTimeout (e : ContainmentError) (s : State) : Answer :=
  let ctx := e.ctx
  match handlingIn s ctx with
  | none => .next s
  | some h =>
    if ready s && escalates s ctx h e.why then
      let s1 := { s with counters := { s.counters with handling := s.counters.handling.filter (fun x => x.ctx != ctx) } }
      let l := levelOfCtx ctx
      let s2 := report s1 none (some (partOfCtx ctx)) true { code := 0x12, level := l + 1, part := partOfCtx ctx, detail := l }
      .next (escalate s2 ctx)
    else .next s

/-- QUEUE_ISSUE_STATE_FAULT: the queue is torn down at level 2 (R420, R421). -/
def execQueueIssueStateFault (p q : Nat) (s : State) : Answer :=
  if ready s && composed s p && decide (q < 64) then .next (teardown s p q) else .next s

/-! ## Failures in operation (R42, R44, R422) -/

/-- A unit that failed in operation: recorded in flash and in the service record, and in the log (R42, R480). -/
def recordFailure (s : State) (core : Bool) (n : Nat) : State :=
  let spare := if core then s.life.ccSpare else s.life.aeSpare
  let pos := if spare = some n then 16 else n
  let s1 := logSpare { s with flash := { s.flash with hwFailed := s.flash.hwFailed ++ [(core, pos)] } } 7 (n + 32 * flag core) pos
  report s1 none none true { code := 0x13, detail := n + 32 * flag core }

/-- The unfinished ATTENDs of a partition whose local entries run on its engines (R42, R420). -/
def attendsOf (s : State) (p : Nat) : List IRef :=
  ((partOf s p).queues.map (fun e =>
    (e.2.issued.filter (fun i => opcodeOf i.words == 0x20 && i.started && i.status.isNone && i.aux == 0
      && !(localEntries s p i).isEmpty)).map
      (fun i => (⟨p, e.1, i.idx⟩ : IRef)))).flatten

/-- ENGINE_FAILURE: the number becomes absent; an ATTEND that was running on it completes with ABSENT (R42, R420). -/
def execEngineFailure (n : Nat) (s : State) : Answer :=
  if !ready s ∨ 16 ≤ n ∨ engineAbsent s n then .next s
  else
    let s1 := recordFailure { s with life := { s.life with aeAbsent := n :: s.life.aeAbsent } } false n
    let hit := (List.range 16).filter (fun p => composed s p && (enginesOf s p).contains n)
    .next ((hit.map (attendsOf s)).flatten.foldl (fun s w => failWith s w St.absent) s1)

/-- CORE_FAILURE: the number becomes absent; every partition whose slice includes the core restarts (R42, R422, R443). -/
def execCoreFailure (n : Nat) (s : State) : Answer :=
  if !ready s ∨ 16 ≤ n ∨ s.life.ccAbsent.contains n then .next s
  else
    let s1 := recordFailure { s with life := { s.life with ccAbsent := n :: s.life.ccAbsent } } true n
    let hit := (List.range 16).filter (fun p => composed s p && bit (sliceOf s p).cores n)
    .next (hit.foldl (fun s p => restartPart s p .coreFailure) s1)

/-- SY_FAULT: a fault in island SY always stops the module, with its final record or without (R423, R426). -/
def execSyFault (s : State) : Answer :=
  if s.life.sy = .stopped then .next s else .next (stopModule s 0)

/-! ## Resets of functions and links (R438, R507) -/

/-- Queues of a partition that its host holds (R430 HOSTQ). -/
def hostQueues (s : State) (p : Nat) : List Nat := setBits 64 (sliceOf s p).hostQ

/-- A virtual function is reset: every host queue of its partition is torn down at level 2, and its window accesses that wait
are gone (R438). -/
def resetVf (s : State) (p : Nat) : State :=
  (hostQueues s p).foldl (fun s q => teardown s p q) (modPart s p (fun P => { P with barWait := [] }))

/-- FUNCTION_LEVEL_RESET (R438). -/
def execFunctionLevelReset (p : Nat) (s : State) : Answer :=
  if ready s && composed s p && (sliceOf s p).vf then .next (resetVf s p) else .next s

/-- The host-tier reads that a link which is now down breaks: TIER_FAILED at once (R153, R438). -/
def failTierReads (s : State) : State :=
  let fail := fun (cs : List (Nat × Nat × Nat)) =>
    cs.map (fun c => if c.2.1 = St.ok ∧ tierFails s c.2.2 then (c.1, St.tierFailed, c.2.2) else c)
  { s with parts := s.parts.map (fun e => (e.1, { e.2 with
      inboxChecks := fail e.2.inboxChecks
      queues := e.2.queues.map (fun q => (q.1, { q.2 with
        issued := q.2.issued.map (fun i => { i with checks := fail i.checks }) })) })) }

/-- A group's functions are reset: what the host configured is gone, its virtual functions are reset (R436, R438). -/
def resetFns (s : State) (g : Nat) : State :=
  let s1 := { s with power := { s.power with fns := AMap.erase s.power.fns g } }
  if ready s then (vfsOf s1 g).foldl resetVf s1 else s1

/-- A group's link goes down: reads through it fail, the packets that wait for it are lost, its functions are reset (R438; log
entry 108). -/
def dropLink (s : State) (g : Nat) : State :=
  let s1 := failTierReads { s with power := { s.power with links := s.power.links.filter (· != g) } }
  resetFns (modTs s1 32 (fun t => { t with frames := t.frames.filter (fun f => frameGroup f.frame.what != g) })) g

/-- HOST_LINK_LOSS: a hot reset, a loss of link or PERST_N, or, with `down` false, a reset of the physical function alone, which
leaves the link up (R438, R507). -/
def execHostLinkLoss (e : LinkLoss) (s : State) : Answer :=
  if linkUp s e.group then .next (if e.down then dropLink s e.group else resetFns s e.group) else .next s

/-- Lanes of a group's link by BIFURCATION (R434). -/
def fullLanes (s : State) : Nat :=
  match (compOf s).bifurcation with
  | 0 => 16
  | 1 => 8
  | _ => 4

/-- HOST_LINK_UP: a link trains at a rate over lanes once PERST_N is released and the boot flow has reached step 5; one
that cannot reach 16 GT/s is held down and reported (R434, R449, R507). A failed start leaves the port as in reset (R19). -/
def execHostLinkUp (g : Nat) (x : HostTraining) (s : State) : Answer :=
  if (ready s || (s.life.sy == .boot && s.life.fail == 0 && decide (4 ≤ s.life.stepDone))) && s.comp.isSome && decide (g < hostLinks s)
      && !linkUp s g && decide (1 ≤ x.lanes ∧ x.lanes ≤ fullLanes s) then
    if x.rate < 16 then .next (emitOut s (.linkReport g x.rate))
    else .next { s with power := { s.power with
      links := s.power.links ++ [g], rates := AMap.insert s.power.rates g x.rate, lanes := AMap.insert s.power.lanes g x.lanes } }
  else .next s

end Sys2Proof.Machine
end

