-- ==== Sys2Proof/Machine/Lifecycle.lean ====
section
/-! DEFINITION. Power, resets and the boot flow (17_lifecycle_and_trust.md R447 to R454, R468 to R471,
20_module_interface.md R510 to R514), composition records (16_partitions_and_hosts.md R429 to R433), spares
(02_architecture.md R40 to R43), shutdown and sanitisation. -/

namespace Sys2Proof.Machine

/-! ## Reset (R447) -/

/-- The module right after a reset: everything volatile takes its reset value; the flash device, host memory, the
contacts and what has been output stay (R447, R448). -/
def resetModule (s : State) : State :=
  { pending := s.pending, freeCtr := s.freeCtr, out := s.out, host := s.host
    flash := { s.flash with lastCorr := [] }
    power := { s.power with links := [], fns := [], alert := false } }

/-- A management event waits: ALERT_N is asserted and vector 1 of the physical functions is raised (R435, R517). -/
def mgmtEvent (s : State) (e : Nat) : State :=
  raisePfs { s with mgmt := { s.mgmt with events := s.mgmt.events ++ [e] }, power := { s.power with alert := true } } 1

/-- Management events by number (log entry 38). -/
abbrev evBootFailed : Nat := 1
abbrev evRemovable : Nat := 2
abbrev evCritical : Nat := 3
abbrev evSanitised : Nat := 4
abbrev evRecertFailed : Nat := 5

/-- Is the module powered with its rails good. -/
def powered (s : State) : Bool := s.power.pgood

/-- Does SY firmware run: the boot flow has passed step 2 and power is good (R449). -/
def syRuns (s : State) : Bool := powered s && decide (2 ≤ s.life.stepDone)

/-- Does the management interface answer: from 50 ms after PGOOD until power is removed (R517). -/
def mgmtAnswers (s : State) : Bool := powered s && (decide (s.life.goodAt + 50000000 ≤ s.now) || decide (3 ≤ s.life.stepDone))

/-! ## Power (R510 to R514) -/

/-- Every rail falls: a power loss (R512). -/
def dropPower (s : State) : State :=
  let r := resetModule s
  { r with power := { r.power with rails := false, pgood := false } }

/-- EN_ASSERT: the rails ramp when the input stage lets them (R512, R513). -/
def execEnAssert (s : State) : Answer :=
  if s.power.en then .next s
  else .next { s with power := { s.power with en := true, rails := s.power.vin && !s.power.lockout } }

/-- POWER_GOOD: the rails are good, PGOOD is released and the boot flow begins; DRAM contents are lost (R447, R513). -/
def execPowerGood (s : State) : Answer :=
  if s.power.en && s.power.rails && !s.power.pgood then
    let r := resetModule s
    .next { r with power := { r.power with pgood := true }, flash := { r.flash with cycles := r.flash.cycles + 1 } }
  else .next s

/-- POWER_LOSS: EN is released, or a lockout or the overvoltage protection acts (R512). -/
def execPowerLoss (enReleased : Bool) (s : State) : Answer :=
  if !s.power.en then .next s
  else
    let r := dropPower s
    .next { r with power := { r.power with en := !enReleased, lockout := r.power.lockout || !enReleased } }

/-- UNDERVOLTAGE_LOCKOUT_RELEASE: the input stage lets the rails ramp when EN is asserted; otherwise PGOOD stays low
(R512). -/
def execUndervoltageLockoutRelease (s : State) : Answer :=
  let p := s.power
  .next { s with power := { p with vin := true, lockout := false, rails := p.rails || p.en } }

/-- RST_N_ASSERT: a module reset; no effect while EN is released (R514). -/
def execRstNAssert (s : State) : Answer := if s.power.en && powered s then .next (resetModule s) else .next s

/-- MODULE_RESET: the management command (R447). -/
def execModuleReset (s : State) : Answer := if mgmtAnswers s then .next (resetModule s) else .next s

/-! ## Composition records (R429 to R432) -/

/-- A slice entry (R430). -/
def sliceAt (bs : List Byte) (p : Nat) : Slice :=
  let w := fun (o : Nat) => leAt bs (0x100 + 256 * p + o) 8
  { engines := bits (w 0) 15 0, cores := bits (w 0) 31 16, chMask := bits (w 0) 55 32
    shareBase := bits (w 8) 7 0, shareSize := bits (w 8) 15 8, base := bits (w 8) 35 16, coldPct := bits (w 8) 42 36
    npDed := bits (w 0x10) 15 0, npShared := bits (w 0x10) 31 16, fpDed := bits (w 0x10) 47 32, fpShared := bits (w 0x10) 63 48
    hostFn := bits (w 0x18) 1 0, vf := bit (w 0x18) 2, weight := bits (w 0x18) 15 8, records := bits (w 0x18) 30 16
    ixBase := bits (w 0x20) 7 0, ixSize := bits (w 0x20) 16 8, connBase := bits (w 0x20) 26 17, connSize := bits (w 0x20) 37 27
    actBase := bits (w 0x20) 43 38, actSlots := bits (w 0x20) 50 44
    xsBase := bits (w 0x28) 6 0, xsSize := bits (w 0x28) 14 7, hostQ := w 0x30
    regs := (List.range 4).map (fun i => bits (w (0x38 + 8 * i)) 47 0) }

/-- A composition record read into its fields (R429 to R431). -/
def compAt (bs : List Byte) : Comp :=
  let w := fun (o : Nat) => leAt bs o 8
  let parts := bits (w 0x30) 15 0
  { role := bits (w 0) 37 36, serial := bits (w 8) 31 0, domain := bits (w 0x10) 11 0, endpoint := bits (w 0x10) 21 12
    udpPort := bits (w 0x10) 37 22, prioHi := bits (w 0x10) 40 38, prioLo := bits (w 0x10) 43 41, vlan := bits (w 0x10) 55 44
    baseMac := bits (w 0x18) 47 0, ipv6 := bit (w 0x18) 48, ip := (bs.drop 0x20).take 16
    parts := parts, bifurcation := bits (w 0x30) 17 16, stewardFn := bits (w 0x30) 19 18
    fenceX := leAt bs 0x60 48, fenceY := leAt bs 0x90 48
    slices := (setBits 16 parts).map (fun p => (p, sliceAt bs p))
    binds := (List.range 128).map (fun e => (e, (bits (w (0x1100 + 8 * e)) 1 0, bits (w (0x1100 + 8 * e)) 5 2)))
    domains := (List.range 4096).filter (fun d => bit (leAt bs (0x1500 + d / 8) 1) (d % 8)) }

/-- Two runs, first and length, have nothing in common. -/
def disjointRuns (a b : Nat × Nat) : Bool := decide (a.1 + a.2 ≤ b.1 ∨ b.1 + b.2 ≤ a.1) || a.2 == 0 || b.2 == 0

/-- Memory of one slice lies in the channels and in device memory (R86, R87). That a slice without channels or shares, with shares
above the 28 of a channel or with a range past 168 GiB fails the start too is the model's reading (DEDUCED, log entry 138). -/
def sliceMemoryOk (x : Slice) : Bool :=
  x.chMask != 0 && decide (1 ≤ x.shareSize ∧ x.shareBase + x.shareSize ≤ 28)
    && decide (x.base + (setBits 24 x.chMask).length * x.shareSize ≤ 672)

/-- Two slices keep apart: cores, act slots on shared engines, ports, send streams, runs, memory (R87, R432). -/
def slicesApart (x y : Slice) : Bool :=
  let range := fun (z : Slice) => (z.base, (setBits 24 z.chMask).length * z.shareSize)
  Nat.land x.cores y.cores == 0
    && (Nat.land x.engines y.engines == 0 || disjointRuns (x.actBase, x.actSlots) (y.actBase, y.actSlots))
    && Nat.land x.npDed (Nat.lor y.npDed y.npShared) == 0 && Nat.land y.npDed x.npShared == 0
    && Nat.land x.fpDed (Nat.lor y.fpDed y.fpShared) == 0 && Nat.land y.fpDed x.fpShared == 0
    && ((Nat.land x.npShared y.npShared == 0 && Nat.land x.fpShared y.fpShared == 0)
        || disjointRuns (x.xsBase, x.xsSize) (y.xsBase, y.xsSize))
    && disjointRuns (x.ixBase, x.ixSize) (y.ixBase, y.ixSize)
    && disjointRuns (x.connBase, x.connSize) (y.connBase, y.connSize)
    && disjointRuns (range x) (range y)
    && (Nat.land x.chMask y.chMask == 0 || disjointRuns (x.shareBase, x.shareSize) (y.shareBase, y.shareSize))

/-- Least common multiple of 1 to 24, so that RATE / n is exact. -/
abbrev lcm24 : Nat := 5354228880

/-- R322 on one channel: when partitions share it, each has a network-on-chip rate and the sum of RATE / n is at most
108,000 MB/s. -/
def channelOk (xs : List Slice) (c : Nat) : Bool :=
  let users := xs.filter (fun x => bit x.chMask c)
  let rate := fun (x : Slice) => bits (x.regs.headD 0) 23 0
  decide (users.length ≤ 1)
    || (users.all (fun x => rate x != 0)
        && decide ((users.map (fun x => rate x * (lcm24 / max 1 (setBits 24 x.chMask).length))).sum ≤ 108000 * lcm24))

/-- Every pair of a list meets a test. -/
def pairwiseOk (f : Slice → Slice → Bool) : List Slice → Bool
  | [] => true
  | x :: xs => xs.all (f x) && pairwiseOk f xs

/-- The checks of R432 on what a record composes: codes in use, memory and runs kept apart, regulators, records, host
functions and the steward's virtual function. -/
def compOk (c : Comp) : Bool :=
  let xs := c.slices.map Prod.snd
  c.role != 3 && c.bifurcation != 3
    && xs.all sliceMemoryOk && pairwiseOk slicesApart xs && (List.range 24).all (channelOk xs)
    && decide ((xs.map (·.records)).sum ≤ 16384)
    && xs.all (fun x => decide (x.hostFn < (match c.bifurcation with
        | 0 => 1
        | 1 => 2
        | _ => 4)) && (x.vf || x.hostQ == 0))
    && xs.any (fun x => x.vf && x.hostFn == c.stewardFn)

/-- The checks of R432 on a record with the composition key. -/
def recordOk (key : Option (Nat × Nat)) (bs : List Byte) : Bool :=
  match key with
  | none => false
  | some k =>
    bs.length == 5984 && leAt bs 0 4 == 0x4B434D50 && bits (leAt bs 0 8) 35 32 == 1 && leAt bs 0x0C 4 == 5984
      && compOk (compAt bs) && ecdsaVerify k.1 k.2 (bs.take 0x1700) (leAt bs 0x1700 48) (leAt bs 0x1730 48)

/-! ## Firmware (R452, R453) -/

def fwVersion (x : FwSlot) : Nat := leAt x.image 8 4
def fwSvn (x : FwSlot) : Nat := leAt x.image 0x0C 2
def fwDigest (x : FwSlot) : List Byte := (x.image.drop 0x40).take 48

/-- Is a slot a candidate (R453). -/
def candidate (s : State) (x : FwSlot) : Bool :=
  let h := leAt x.image 0 8
  let len := leAt x.image 0x10 4
  bits h 31 0 == 0x4B46574D && bits h 35 32 == 1 && leAt x.image 0x0E 2 == 0x4801 && decide (s.flash.rollback ≤ fwSvn x)
    && decide (256 ≤ len ∧ len ≤ x.image.length) && sha384 ((x.image.take len).drop 256) == fwDigest x
    && ecdsaVerify Config.firmwareKey.1 Config.firmwareKey.2 (x.image.take 0x70) (leAt x.image 0x70 48) (leAt x.image 0xA0 48)

def slotOf (s : State) (n : Nat) : FwSlot := if n = 0 then s.flash.slotA else s.flash.slotB

/-- Events of FIRMWARE entries (R465; log entry 39). -/
abbrev fwInstall : Nat := 0
abbrev fwActivate : Nat := 1
abbrev fwFallback : Nat := 2
abbrev fwCounter : Nat := 3

/-- A FIRMWARE entry (R465). -/
def logFirmware (s : State) (event slot : Nat) : State :=
  let x := slotOf s slot
  logService s etFirmware (toLe 8 (event + slot * 2 ^ 4 + fwSvn x * 2 ^ 16 + fwVersion x * 2 ^ 32))

/-! ## Registers that the boot fills (R44, R403) -/

/-- SY_SPARE_MAP (R44). -/
def spareMap (s : State) : Nat :=
  let l := s.life
  flag l.aeSpare.isSome + l.aeSpare.getD 0 * 2 ^ 4 + ofSetBits l.aeAbsent * 2 ^ 8
    + flag l.ccSpare.isSome * 2 ^ 24 + l.ccSpare.getD 0 * 2 ^ 28 + ofSetBits l.ccAbsent * 2 ^ 32

/-- MC_PIN of a channel (R403). -/
def pinWord (x : Channel) : Nat :=
  flag x.retired.isSome + x.retired.getD 0 * 2 + flag x.second.isSome * 2 ^ 6 + x.second.getD 0 * 2 ^ 7

/-! ## Health (R468) -/

/-- Entries of the service record in the last 720 powered hours. -/
def windowEntries (s : State) : List LogEntry :=
  s.flash.logbook.filter (fun e => e.etype == etPeriodic && decide (s.flash.poweredNs / 60000000000 < e.minutes + 43200))

/-- Corrections on a device in the window (R465, R468). -/
def windowCorrections (s : State) (d : Nat) : Nat := ((windowEntries s).map (fun e => leAt e.body (0x50 + 4 * d) 4)).sum

/-- A device's correction rate per 1,000 powered hours. -/
def correctionRate (s : State) (d : Nat) : Nat := windowCorrections s d * 1000 / 720

/-- The conditions of R468, by bit. -/
def healthReasons (s : State) : Nat :=
  let uncorr := ((windowEntries s).map (fun e => leAt e.body 0x110 4)).sum + s.life.uncorrWin
  let spares := (s.poltex.ports.filter (fun e => e.2.spareUsed)).length + (s.tlaley.ports.filter (fun e => e.2.spareUsed)).length
  let base := fun (d : Nat) => (AMap.find? s.flash.baseline d).getD (Config.prodBaseline d)
  flag (!s.life.aeAbsent.isEmpty || !s.life.ccAbsent.isEmpty)
    + flag s.life.portDown * 2
    + flag (s.mem.channels.any (fun e => e.2.second.isSome)) * 4
    + flag (decide (16 < uncorr)) * 8
    + flag (decide (0 < s.flash.dropped)) * 16
    + flag (s.life.aeSpare.isSome || s.life.ccSpare.isSome) * 32
    + flag (decide (4 < spares)) * 64
    + flag (s.mem.channels.any (fun e => e.2.retired.isSome)) * 128
    + flag ((List.range 48).any (fun d => decide (10 * base d < correctionRate s d))) * 256

/-- The grade: C, B or A (R468). -/
def gradeOf (reasons : Nat) : Nat := if reasons % 32 ≠ 0 then 2 else if reasons ≠ 0 then 1 else 0

/-- The grade computed and reported in SY_HEALTH. -/
def computeHealth (s : State) : State :=
  let r := healthReasons s
  { s with life := { s.life with reasons := r, grade := gradeOf r } }

/-! ## PERIODIC (R465) -/

/-- A PERIODIC entry, and the grade after it (R465, R468). -/
def writePeriodic (s : State) (energy : Nat) : State :=
  let f := s.flash
  let corr := fun (d : Nat) => (AMap.getD s.mem.devErr d {}).corrected
  let since := fun (d : Nat) => (corr d + 2 ^ 32 - AMap.getD f.lastCorr d 0) % 2 ^ 32
  let body := toLe 8 energy ++ toLe 8 (f.cycles % 2 ^ 32 + f.thermal % 2 ^ 32 * 2 ^ 32)
    ++ ((List.range 16).map (fun b => toLe 4 (AMap.getD f.bins b 0 / 600000))).flatten
    ++ ((List.range 48).map (fun d => toLe 4 (since d))).flatten ++ toLe 8 (s.life.uncorrWin % 2 ^ 32)
  let s1 := logService { s with
    flash := { f with lastCorr := (List.range 48).map (fun d => (d, corr d)) }
    life := { s.life with uncorrWin := 0 } } etPeriodic body
  computeHealth s1

/-- PERIODIC: every 60 powered minutes (R465). `energy` is the energy in J since manufacture. -/
def execPeriodic (energy : Nat) (s : State) : Answer := if ready s then .next (writePeriodic s energy) else .next s

/-! ## Shutdown (R460 to R463) -/

/-- Every partition stops: uncommitted instructions are abandoned without records or signals, every port presents no
partner, the lasers go off (R460 step 1). -/
def stopPartitions (s : State) : State :=
  quietPorts { s with parts := s.parts.map (fun e => (e.1, { e.2 with
    queues := e.2.queues.map (fun x => (x.1, { x.2 with issued := [], waiting := false, granted := 0 })), waiters := [] })) }

/-- Energy of the newest PERIODIC entry, which the shutdown's own repeats (log entry 40). -/
def lastEnergy (s : State) : Nat :=
  match s.flash.logbook.find? (fun e => e.etype == etPeriodic) with
  | some e => leAt e.body 0 8
  | none => 0

/-- R460 steps 1 and 2. -/
def beginShutdown (s : State) : State :=
  let s1 := stopPartitions s
  writePeriodic { s1 with life := { s1.life with sy := .shutdown, testing := true, held := false } } (lastEnergy s1)

/-- SHUTDOWN_COMMAND: held before READY and during a sanitisation (R460). -/
def execShutdownCommand (s : State) : Answer :=
  if !mgmtAnswers s then .next s
  else
    match s.life.sy with
    | .ready => .next (beginShutdown s)
    | .shutdown => .next s
    | .stopped => .next s
    | _ => .next { s with life := { s.life with held := true } }

/-- Are the failures that neither column nor macro spares repair covered by the spare engine and the spare core (R463). -/
def covered (units : List Nat) : Bool :=
  decide ((units.filter (fun g => decide (g < 17))).length ≤ 1)
    && decide ((units.filter (fun g => decide (17 ≤ g ∧ g < 34))).length ≤ 1) && units.all (fun g => decide (g < 34))

/-- SHUTDOWN_TEST_DONE: the MISR of each group against its golden value, the repair map, the SHUTDOWN entry, and the
report that power may be removed (R460, R463, R465). A unit that failed in operation and passes the test stays recorded for
the next start (R42; log entry 51). -/
def execShutdownTestDone (misr : List Nat) (repair : List Byte) (units : List Nat) (s : State) : Answer :=
  if s.life.sy = .shutdown ∧ s.life.testing = true ∧ misr.length = 40 then
    let failing := (List.range 40).filter (fun g => misr.getD g 0 != s.flash.golden.getD g 0)
    let us := (units.filter failing.contains).eraseDups
    let pass := covered us
    let body := toLe 8 (ofSetBits failing + flag pass * 2 ^ 40) ++ (misr.map (toLe 8)).flatten ++ padTo 256 0 (repair.take 256)
    let seq := s.flash.nextSeq
    let s1 := logService s etShutdown body
    let s2 := { s1 with
      flash := { s1.flash with shutdown := if s1.flash.nextSeq = seq then s1.flash.shutdown else some ⟨seq, s.now, pass, us⟩ }
      life := { s1.life with testing := false, removable := true } }
    .next (mgmtEvent s2 evRemovable)
  else .next s

/-! ## Sanitisation (R469, R470) -/

/-- Bytes verified by a sanitisation: all 192 GiB. -/
abbrev dramBytes : Nat := 192 * 2 ^ 30

/-- A SANITISE entry (R465). -/
def logSanitise (s : State) (completed release authority : Bool) (verified : Nat) : State :=
  logService s etSanitise (toLe 8 (flag completed + flag release * 2 + flag authority * 4) ++ toLe 8 verified)

/-- R469 steps 4 to 6 but for the stop: DRAM holds zeros, the records and with RELEASE_OWNER the key are erased, the
completed entry is written and the state cleared. -/
def sanitised (s : State) (release authority : Bool) : State :=
  let s1 := { s with
    mem := { s.mem with dram := [], errors := [], undef := [] }
    flash := { s.flash with comps := [], lastComp := none, compKey := if release then none else s.flash.compKey } }
  let s2 := logSanitise s1 true release authority dramBytes
  { s2 with flash := { s2.flash with sanitising := none } }

/-- Is a sanitisation command signed as R469 asks: by the composition key where one is installed, or by the refurbishment
authority (log entry 12). -/
def sanitiseSigned (s : State) (release authority : Bool) (r v : Nat) : Bool :=
  let msg := Config.commandBytes 0 release s.freeCtr
  if authority then ecdsaVerify Config.authorityKey.1 Config.authorityKey.2 msg r v
  else
    match s.flash.compKey with
    | some k => ecdsaVerify k.1 k.2 msg r v
    | none => true

/-- SANITISE_COMMAND (R469 steps 1 to 3). -/
def execSanitiseCommand (release authority : Bool) (r v : Nat) (s : State) : Answer :=
  if (ready s || (s.life.sy == .boot && s.life.fail != 0)) && syRuns s && sanitiseSigned s release authority r v then
    let s1 := logSanitise (draw s) false release authority 0
    let s2 := stopPartitions { s1 with flash := { s1.flash with sanitising := some (release, authority) } }
    .next { s2 with life := { s2.life with sy := .sanitising } }
  else .next s

/-- SANITISE_DRAM_DONE: with every word zero the sanitisation completes and the module stops; a word that fails leaves
the sanitisation state set, and the module stops without the completed entry (R469, R470; log entry 41). -/
def execSanitiseDramDone (ok : Bool) (s : State) : Answer :=
  match s.life.sy, s.flash.sanitising with
  | .sanitising, some (release, authority) =>
    let cause := Config.freeWord s.freeCtr % 16
    if ok then .next (mgmtEvent (stopModule (draw (sanitised s release authority)) cause) evSanitised)
    else .next (stopModule (draw s) cause)
  | _, _ => .next s

/-! ## The boot flow (R449 to R451) -/

/-- Newest entry of a type. -/
def newestOf (s : State) (etype : Nat) : Option Nat := (s.flash.logbook.find? (fun e => e.etype == etype)).map (·.seq)

/-- Is an entry of a type newer than a SEQ. -/
def newerThan (s : State) (etype seq : Nat) : Bool := match newestOf s etype with
  | some n => decide (seq < n)
  | none => false

/-- Is this start quick (R450). -/
def quickStart (s : State) : Bool :=
  match s.flash.shutdown, s.life.bootCmd.bind (·.time) with
  | some t, some now =>
    t.pass && !newerThan s etStart t.seq && decide (t.time ≤ now ∧ now < t.time + 2592000000000000)
      && !newerThan s etSanitise t.seq && !newerThan s etRecert t.seq && s.flash.prodOk && s.flash.calOk && s.life.recert.isNone
  | _, _ => false

/-- A START entry (R465). -/
def logStart (s : State) (ok : Bool) (step : Nat) : State :=
  logService s etStart (toLe 8 (flag s.life.quick + flag ok * 2 + step % 16 * 2 ^ 4 + s.life.slot * 2 ^ 8
      + s.life.version % 2 ^ 32 * 2 ^ 32) ++ toLe 8 (compOf s).serial ++ toLe 8 (spareMap s))

/-- A failed start: the module stays in boot and reports, its ports as in reset; from step 3 on a START entry with READY 0
names the step (R19, R449). -/
def failStart (s : State) (step cause : Nat) : State :=
  let s1 := { s with life := { s.life with sy := .boot, fail := step, cause := cause }
                     power := { s.power with links := [], fns := [] } }
  let s2 := if 3 ≤ step then logStart s1 false step else s1
  emitOut (mgmtEvent s2 evBootFailed) (.bootFailed step cause)

/-- Step k done. -/
def stepDone (s : State) (k : Nat) : State := { s with life := { s.life with stepDone := k } }

/-- Step 2: a firmware slot starts (R453). -/
def bootFirmware (s : State) : State :=
  let a := s.flash.active
  let start := fun (s : State) (n : Nat) (fb : Bool) =>
    let x := slotOf s n
    let s1 := stepDone { s with life := { s.life with slot := n, fallback := fb, svn := fwSvn x, version := fwVersion x } } 2
    if fb then logFirmware s1 fwFallback n else s1
  if candidate s (slotOf s a) then start s a false
  else if candidate s (slotOf s (1 - a)) then start s (1 - a) true
  else failStart s 2 1

/-- A sanitisation that a reset interrupted is repeated before step 3 (R470). -/
def resumeSanitise (s : State) (ok : Bool) : Option State :=
  match s.flash.sanitising with
  | none => some s
  | some (release, authority) => if ok then some (sanitised s release authority) else none

/-- Device time begins, and no boot command is accepted any more (R449 step 3, R513). -/
def startTime (s : State) : State :=
  { s with now := (s.life.bootCmd.bind (·.time)).getD 0
           life := { s.life with quick := quickStart s, goodAt := 0, cmdClosed := true
                                 timeValid := (s.life.bootCmd.bind (·.time)).isSome } }

/-- The newest final record has its FAULT entry in the service record (R486). -/
def noteFinal (s : State) : State :=
  if s.flash.finalSeen then s
  else
    let s1 := logFault s 0 0 ((s.flash.stops - 1) % 16384 * 256)
    { s1 with flash := { s1.flash with finalSeen := true } }

/-- The slot of the composition record to start with: the boot command's, else the last one composed (R433). -/
def chosenSlot (s : State) : Option Nat :=
  match s.life.bootCmd with
  | some c => some c.slot
  | none => s.flash.lastComp

/-- A record comes into force; a record other than the last is entered in the service record (R433, R465). -/
def putInForce (s : State) (n : Nat) (bs : List Byte) : State :=
  let s1 := { s with comp := some (compAt bs) }
  let key := s.flash.compKey.getD (0, 0)
  let s2 := if s.flash.lastComp = some n then s1
    else logService s1 etCompose (toLe 8 (compAt bs).serial ++ (sha384 (toLe 48 key.1 ++ toLe 48 key.2)).take 16)
  stepDone { s2 with flash := { s2.flash with lastComp := some n }
                     life := { s2.life with sy := if s.life.quick then .boot else .test } } 3

/-- Step 3: start kind, time and composition record (R433, R449, R513). A resumed sanitisation that fails names step 3,
before which it runs (R470; log entry 101). -/
def bootCompose (s : State) (f : BootFindings) : State :=
  match resumeSanitise s f.dramOk with
  | none => failStart s 3 5
  | some s0 =>
    let s1 := noteFinal (startTime s0)
    match (chosenSlot s1).bind (fun n => (AMap.find? s1.flash.comps n).map (fun bs => (n, bs))) with
    | none => failStart s1 3 3
    | some (n, bs) => if recordOk s1.flash.compKey bs then putInForce s1 n bs else failStart s1 3 3

/-- Spare and absent numbers for the failed positions of a kind: the spare, position 16, serves the lowest-numbered one
unless it failed itself (R40, R41). -/
def mapSpare (failed : List Nat) : Option Nat × List Nat :=
  let bad := (List.range 16).filter failed.contains
  match bad with
  | [] => (none, [])
  | n :: rest => if failed.contains 16 then (none, bad) else (some n, rest)

/-- Positions failed in the most recent completed self-test or in operation since (R40, R42, R451). -/
def failedUnits (s : State) (f : BootFindings) (core : Bool) : List Nat :=
  let test := if s.life.quick then
      match s.flash.shutdown with
      | some t => if core then (t.failing.filter (fun g => decide (17 ≤ g ∧ g < 34))).map (· - 17)
                  else t.failing.filter (fun g => decide (g < 17))
      | none => []
    else if core then f.failCores else f.failEngines
  test ++ (s.flash.hwFailed.filter (fun e => e.1 == core)).map Prod.snd

/-- The repair map of the self-test whose result this start takes: the newest SHUTDOWN entry's, or the start test's own
(R40, R451, R463, R465). -/
def repairMap (s : State) (f : BootFindings) : List Byte :=
  if s.life.quick then
    match s.flash.logbook.find? (fun e => e.etype == etShutdown) with
    | some e => (e.body.drop 0x148).take 256
    | none => []
  else padTo 256 0 (f.repair.take 256)

/-- The spare columns and scratch macros of a map come into service; a map other than the last one is a change, entered in
the service record with what the map's bytes name (R39, R465; log entry 102). -/
def applyRepair (s : State) (map : List Byte) : State :=
  if s.flash.repair = map then s
  else
    let c := s.freeCtr
    logSpare (draw (draw (draw { s with flash := { s.flash with repair := map } })))
      (Config.freeWord c % 2) (Config.freeWord (c + 1)) (Config.freeWord (c + 2))

/-- Spare mapping of the newest START entry. -/
def lastSpareMap (s : State) : Nat := match s.flash.logbook.find? (fun e => e.etype == etStart) with
  | some e => leAt e.body 0x10 8
  | none => 0

/-- Step 5: repair columns, macro spares and the spare units applied, retired pins restored; islands leave reset (R39 to
R41, R394, R449). -/
def bootSpares (s : State) (f : BootFindings) : State :=
  let ae := mapSpare (failedUnits s f false)
  let cc := mapSpare (failedUnits s f true)
  let s1 := { s with
    life := { s.life with sy := .boot, aeSpare := ae.1, aeAbsent := ae.2, ccSpare := cc.1, ccAbsent := cc.2 }
    flash := { s.flash with hwFailed := [] }
    mem := { s.mem with channels := s.flash.retired.map (fun e => (e.1, { retired := some e.2 })) } }
  let old := lastSpareMap s
  let s2 := match ae.1 with
    | some n => if bit old 0 && bits old 7 4 == n then s1 else logSpare s1 2 n 16
    | none => s1
  let s3 := match cc.1 with
    | some n => if bit old 24 && bits old 31 28 == n then s2 else logSpare s2 3 n 16
    | none => s2
  stepDone (applyRepair s3 (repairMap s f)) 5

/-- Absent numbers that a slice names (R43): engines in [15:0], cores in [31:16]. -/
def absentIn (s : State) (p : Nat) : Nat :=
  ofSetBits ((enginesOf s p).filter s.life.aeAbsent.contains)
    + ofSetBits ((setBits 16 (sliceOf s p).cores).filter s.life.ccAbsent.contains) * 2 ^ 16

/-- Partitions start: the engines present set their leads (R234), and each takes its epoch and enters PREEMPTED; one that
names an absent number does not (R43, R439). -/
def startParts (s : State) : State :=
  let ps := (List.range 16).filter (composed s)
  let out := ps.filter (fun p => absentIn s p != 0)
  let s0 := { s with life := { s.life with present := ofSetBits ((List.range 16).filter (fun n => !s.life.aeAbsent.contains n)) } }
  let s1 := ps.foldl (fun s p => if absentIn s p != 0 then setPart s p {} else startPart s p {}) s0
  if out.isEmpty then s1
  else logFault s1 1 (ofSetBits out) (ofSetBits (s.life.aeAbsent ++ s.life.ccAbsent.map (· + 16)))

/-- The RECERT entry and what it clears, at the end of a re-certification run (R471). -/
def finishRecert (s : State) : State :=
  match s.life.recert with
  | none => s
  | some (false, _) => mgmtEvent { s with life := { s.life with recert := none } } evRecertFailed
  | some (true, serial) =>
    let rates := (List.range 48).map (fun d => (d, correctionRate s d))
    let s1 := logService s etRecert (toLe 8 serial ++ (rates.map (fun e => toLe 4 e.2)).flatten)
    { s1 with
      flash := { s1.flash with retired := [], baseline := rates }
      mem := { s1.mem with channels := s1.mem.channels.map (fun e => (e.1, { e.2 with retired := none, second := none })) }
      life := { s1.life with recert := none } }

/-- Step 8: every port leaves reset and trains, the partitions start, the START entry is written, the module is READY; the
rollback counter advances (R332, R356, R449, R454). A shutdown that was held begins (R460). -/
def bootReady (s : State) : State :=
  let s0 := { s with
    flash := { s.flash with starts := s.flash.starts + 1 }
    poltex := { s.poltex with ports := (List.range 16).map (fun n => (n, { state := .training, trainAt := s.now })) }
    tlaley := { s.tlaley with ports := (List.range 16).map (fun n => (n, { state := .training, trainAt := s.now, prbs := true })) } }
  let s1 := stepDone (startParts s0) 8
  let s2 := logStart { s1 with life := { s1.life with sy := .ready, lasers := true } } true 0
  let s3 := if s2.flash.rollback < s2.life.svn then
      logFirmware { s2 with flash := { s2.flash with rollback := s2.life.svn } } fwCounter s2.life.slot
    else s2
  let s4 := computeHealth (finishRecert s3)
  if s4.life.held then beginShutdown s4 else s4

/-- BOOT_STEP: the next step of R449, with what the module's own tests found. A full start stores a new calibration in step 7. -/
def execBootStep (f : BootFindings) (s : State) : Answer :=
  if !powered s || !s.power.rstN || s.life.fail != 0 || !(s.life.sy == .boot || s.life.sy == .test) then .next s
  else
    match s.life.stepDone with
    | 0 => if f.pufOk then .next (stepDone s 1) else .next (failStart s 1 2)
    | 1 => .next (bootFirmware s)
    | 2 => if s.life.bootCmd.isSome || s.life.cmdClosed then .next (bootCompose s f) else .next s
    | 3 => .next (stepDone s 4)
    | 4 => .next (bootSpares s f)
    | 5 =>
      if f.failChannel then .next (failStart s 6 4)
      else .next (stepDone { s with mem := { s.mem with dram := [], errors := [], undef := [] } } 6)
    | 6 =>
      if f.opticsOk then .next (stepDone { s with flash := { s.flash with calOk := s.flash.calOk || !s.life.quick } } 7)
      else .next (failStart s 7 0)
    | 7 => .next (bootReady s)
    | _ => .next s

/-- BOOT_COMMAND: accepted from 50 ms up to 0.30 s after power good (R513). -/
def execBootCommand (c : BootCmd) (s : State) : Answer :=
  if powered s && s.life.sy == .boot && decide (s.life.stepDone ≤ 2) && s.life.fail == 0 && !s.life.cmdClosed
      && s.life.bootCmd.isNone && decide (s.life.goodAt + 50000000 ≤ s.now ∧ s.now ≤ s.life.goodAt + 300000000) then
    .next { s with life := { s.life with bootCmd := some c } }
  else .next s

/-- BOOT_COMMAND_TIMEOUT: with no boot command by 0.30 s, SY takes the record that it ran last (R513). -/
def execBootCommandTimeout (s : State) : Answer :=
  if powered s && s.life.sy == .boot && s.life.bootCmd.isNone && decide (s.life.goodAt + 300000000 ≤ s.now) then
    .next { s with life := { s.life with cmdClosed := true } }
  else .next s

/-- RECERT_COMMAND: signed by the refurbishment authority; the run is a full start with the extended tests, whose outcome
is `passed` (R470, R471). -/
def execRecertCommand (r v : Nat) (passed : Bool) (serial : Nat) (s : State) : Answer :=
  if syRuns s && ecdsaVerify Config.authorityKey.1 Config.authorityKey.2 (Config.commandBytes 1 false s.freeCtr) r v then
    let s1 := resetModule (draw s)
    .next { s1 with life := { s1.life with recert := some (passed, serial) } }
  else .next s

end Sys2Proof.Machine
end

