-- ==== Sys2Proof/Machine/Manage.lean ====
section
/-! DEFINITION. The management interface: export, tenant change, firmware and composition-key installs, waiting events,
PLDM sensors, SPDM attestation and the temperature sensors (17_lifecycle_and_trust.md R454 to R467,
20_module_interface.md R517 to R520). -/

namespace Sys2Proof.Machine

/-! ## Commands -/

/-- Does the module take a management command: SY firmware runs and the shutdown has not reported that power may be
removed (R460, R517). -/
def takesCommands (s : State) : Bool := syRuns s && mgmtAnswers s && !(s.life.sy == .shutdown && s.life.removable)

/-- An answer on the management interface. -/
def mgmtSay (s : State) (what : String) (values : List Nat) (data : List Byte) : State := emitOut s (.mgmt what values data)

/-- A refused command, named. -/
def mgmtRefuse (s : State) (what : String) : State := mgmtSay s "REFUSED" [] (what.toList.map (fun c => BitVec.ofNat 8 c.toNat))

/-- A signature by the attestation key: 96 bytes, whatever they are (R459, R467; log entry 12). -/
def attestation (s : State) : List Byte := toLe 96 (Config.freeWord s.freeCtr)

/-- A journal entry as its 32 bytes (R114). -/
def journalBytes (e : Journal) : List Byte :=
  toLe 8 e.time ++ toLe 8 e.handle
    ++ toLe 8 (stateCode e.old + stateCode e.new * 2 ^ 4 + e.event % 256 * 2 ^ 8 + e.owner.domain % 2 ^ 12 * 2 ^ 16
        + e.owner.ep % 2 ^ 10 * 2 ^ 28 + e.owner.part % 16 * 2 ^ 38)
    ++ toLe 8 (e.owner.epoch % 2 ^ 32 + e.seq % 2 ^ 32 * 2 ^ 32)

/-- The service record's header: the module's ordering code (R2; log entry 103). -/
def recordHeader : List Byte := "KQC-4801-A".toList.map (fun c => BitVec.ofNat 8 c.toNat)

/-- EXPORT_COMMAND: the header and the entries from `first` to `last`, then the signature over the nonce, the SHA-384 of
the last entry returned and its SEQ; the ownership journal goes out by the same command (R115, R467). -/
def execExportCommand (first last : Nat) (nonce : List Byte) (s : State) : Answer :=
  if takesCommands s then
    let es := (s.flash.logbook.filter (fun e => decide (first ≤ e.seq ∧ e.seq ≤ last))).reverse
    let s1 := mgmtSay (mgmtSay s "SERVICE_RECORD" [] recordHeader) "EXPORT" (es.map (·.seq)) ((es.map entryBytes).flatten ++ attestation s)
    let s2 := mgmtSay (draw s1) "JOURNAL" [s.home.jseq] ((s.home.journal.reverse.map journalBytes).flatten ++ attestation (draw s1))
    .next (mgmtSay (draw s2) "NONCE" [] nonce)
  else .next s

/-- TENANT_COMMAND: a TENANT entry of 32 opaque bytes (R465). -/
def execTenantCommand (body : List Byte) (s : State) : Answer :=
  if takesCommands s then .next (logService s etTenant (padTo 32 0 (body.take 32))) else .next s

/-! ## Firmware (R454) -/

/-- FIRMWARE_INSTALL: the image is written only to the slot that is not running. -/
def execFirmwareInstall (image : List Byte) (s : State) : Answer :=
  if takesCommands s then
    let n := 1 - s.life.slot
    let x : FwSlot := { image := image }
    let f := if n = 0 then { s.flash with slotA := x } else { s.flash with slotB := x }
    .next (logFirmware { s with flash := f } fwInstall n)
  else .next s

/-- FIRMWARE_ACTIVATE: the active-slot pointer is set; it acts at the next start. -/
def execFirmwareActivate (slot : Nat) (s : State) : Answer :=
  if takesCommands s && decide (slot < 2) then
    .next (logFirmware { s with flash := { s.flash with active := slot } } fwActivate slot)
  else .next s

/-- COMPOSITION_KEY_INSTALL: an empty slot takes a key; a key in the slot is replaced only by a command that it signed.
Each installation writes a COMPOSE entry (R458; log entry 12 on the bytes signed). -/
def execCompositionKeyInstall (x y : Nat) (signature : Option (Nat × Nat)) (s : State) : Answer :=
  if takesCommands s then
    let key := toLe 48 x ++ toLe 48 y
    let ok := match s.flash.compKey, signature with
      | none, _ => true
      | some k, some g => ecdsaVerify k.1 k.2 key g.1 g.2
      | some _, none => false
    if ok then
      .next (logService { s with flash := { s.flash with compKey := some (x, y) } } etCompose
        (toLe 8 (compOf s).serial ++ (sha384 key).take 16))
    else .next (mgmtRefuse s "COMPOSITION_KEY_INSTALL")
  else .next s

/-! ## Events and sensors (R517, R519) -/

/-- MANAGEMENT_EVENT_READ: the oldest waiting event; ALERT_N is released when none is left (R517). -/
def execManagementEventRead (s : State) : Answer :=
  if mgmtAnswers s then
    match s.mgmt.events with
    | [] => .next (mgmtSay s "EVENT" [] [])
    | e :: rest =>
      .next (mgmtSay { s with mgmt := { s.mgmt with events := rest }
                              power := { s.power with alert := !rest.isEmpty } } "EVENT" [e] [])
  else .next s

/-- A temperature as a 16-bit two's complement reading. -/
def tempWord (t : Int) : Nat := unsignedOf 16 t

/-- PLDM_SENSOR_READ: the sensors of R519 in the order of its table, then input voltage, current and power, which the
model does not compute and leaves free (R517; log entry 42). -/
def execPldmSensorRead (s : State) : Answer :=
  if mgmtAnswers s then
    let t := s.power.temps
    let c := s.freeCtr
    .next (mgmtSay (draw (draw (draw s))) "SENSORS"
      ([t.engines, t.hub, t.gddr, t.optics, t.regulators].map tempWord
        ++ [Config.freeWord c, Config.freeWord (c + 1), Config.freeWord (c + 2)]) [])
  else .next s

/-! ## SPDM (R459) -/

/-- Error codes of the responder (DSP0274; log entry 43). -/
abbrev spdmInvalid : Nat := 0x01
abbrev spdmUnexpected : Nat := 0x04
abbrev spdmVersionMismatch : Nat := 0x41

def spdmError (s : State) (code : Nat) : State := mgmtSay s "ERROR" [code] []

/-- An SPDM request: answered by `f` once its predecessors have been answered, otherwise refused. -/
def spdm (s : State) (ok : Bool) (f : State → State) : Answer :=
  if syRuns s && mgmtAnswers s then .next (if ok then f s else spdmError s spdmUnexpected) else .next s

/-- GET_VERSION: 1.3 alone; a requester without 1.3 receives VersionMismatch. The conversation starts anew. -/
def execGetVersion (offers13 : Bool) (s : State) : Answer :=
  spdm s true (fun s =>
    if offers13 then mgmtSay { s with mgmt := { s.mgmt with version := true, capable := false, negotiated := false } } "VERSION" [0x13] []
    else spdmError s spdmVersionMismatch)

/-- GET_CAPABILITIES: CERT_CAP, CHAL_CAP, MEAS_CAP with signature and MEAS_FRESH_CAP, in DSP0274's bits. -/
def execGetCapabilities (s : State) : Answer :=
  spdm s s.mgmt.version (fun s =>
    mgmtSay { s with mgmt := { s.mgmt with capable := true } } "CAPABILITIES" [2 + 4 + 2 * 8 + 32] [])

/-- NEGOTIATE_ALGORITHMS: P-384 with SHA-384 and the SHA-384 measurement hash, or nothing. -/
def execNegotiateAlgorithms (p384sha384 : Bool) (s : State) : Answer :=
  spdm s s.mgmt.capable (fun s =>
    if p384sha384 then mgmtSay { s with mgmt := { s.mgmt with negotiated := true } } "ALGORITHMS" [0x80, 0x02, 0x04] []
    else spdmError s spdmInvalid)

/-- The certificate chain of slot 0 in this module start (R455, R456). -/
def certs (s : State) : List Byte := Config.certChain s.flash.starts

/-- GET_DIGESTS: slot 0 alone. -/
def execGetDigests (s : State) : Answer :=
  spdm s s.mgmt.negotiated (fun s => mgmtSay s "DIGESTS" [1] (sha384 (certs s)))

/-- GET_CERTIFICATE: a portion of slot 0's chain with its length and what remains. -/
def execGetCertificate (slot offset len : Nat) (s : State) : Answer :=
  spdm s s.mgmt.negotiated (fun s =>
    let chain := certs s
    if slot = 0 ∧ offset ≤ chain.length then
      let part := (chain.drop offset).take len
      mgmtSay s "CERTIFICATE" [0, part.length, chain.length - offset - part.length] part
    else spdmError s spdmInvalid)

/-- CHALLENGE: the chain's digest, the module's nonce and the attestation-key signature. -/
def execChallenge (slot : Nat) (nonce : List Byte) (s : State) : Answer :=
  spdm s s.mgmt.negotiated (fun s =>
    if slot = 0 then
      let sig := attestation (draw s)
      mgmtSay (draw (draw s)) "CHALLENGE_AUTH" [0, Config.freeWord s.freeCtr] (sha384 (certs s) ++ nonce ++ sig)
    else spdmError s spdmInvalid)

/-! ## Measurements (R459) -/

/-- SY_HEALTH (R473). -/
def healthWord (s : State) : Nat := s.life.grade + s.life.reasons % 2 ^ 9 * 2 ^ 8

/-- The value of measurement i. -/
def measurement (s : State) (i : Nat) : List Byte :=
  match i with
  | 1 => Config.romHash
  | 2 => fwDigest (slotOf s s.life.slot) ++ toLe 4 s.life.version ++ toLe 2 s.life.svn
  | 3 =>
    match s.flash.lastComp.bind (AMap.find? s.flash.comps) with
    | some bs => if s.comp.isSome then sha384 (bs.take 0x1700) else List.replicate 48 0
    | none => List.replicate 48 0
  | 4 =>
    match s.flash.compKey with
    | some k => sha384 (toLe 48 k.1 ++ toLe 48 k.2)
    | none => List.replicate 48 0
  | 5 => toLe 8 (spareMap s) ++ ((List.range 24).map (fun c => toLe 8 (pinWord (chan s c)))).flatten
  | 6 => toLe 8 (s.flash.nextSeq - 1) ++ logHead s
  | 7 => toLe 8 s.flash.rollback ++ toLe 8 s.flash.starts
  | 8 => toLe 8 (healthWord s)
  | _ => []

/-- GET_MEASUREMENTS: index 0 asks for their number, 0xFF for all of them, 1 to 8 for one, with a signature where asked. -/
def execGetMeasurements (index : Nat) (signed : Bool) (nonce : List Byte) (s : State) : Answer :=
  spdm s s.mgmt.negotiated (fun s =>
    let which := if index = 0 then [] else if index = 0xFF then [1, 2, 3, 4, 5, 6, 7, 8] else [index]
    if index ≤ 8 ∨ index = 0xFF then
      let data := (which.map (measurement s)).flatten
      if signed then mgmtSay (draw s) "MEASUREMENTS" (8 :: which) (data ++ nonce ++ attestation s)
      else mgmtSay s "MEASUREMENTS" (8 :: which) data
    else spdmError s spdmInvalid)

/-! ## Temperatures (R465, R519, R520) -/

/-- The temperature bin of the hottest die reading (R465). -/
def tempBin (t : Int) : Nat := if t < 30 then 0 else min 15 (((t - 30) / 6).toNat + 1)

/-- The trips of R519, in the order of its table. -/
def trips (t : Temps) : List (Int × Int) :=
  [(t.engines, 115), (t.hub, 115), (t.gddr, 105), (t.optics, 85), (t.regulators, 125)]

/-- The thermal-cycle rule of R465 on one reading: a rise of 20 °C above the last minimum, then a fall of 20 °C below the
peak that followed. -/
def noteThermal (s : State) (t : Int) : State :=
  let p := s.power
  if p.rising then
    let peak := max p.tempPeak t
    if t ≤ peak - 20 then
      { s with power := { p with rising := false, tempMin := some t, tempPeak := peak }
               flash := { s.flash with thermal := s.flash.thermal + 1 } }
    else { s with power := { p with tempPeak := peak } }
  else
    let low := min (p.tempMin.getD t) t
    if low + 20 ≤ t then { s with power := { p with rising := true, tempMin := some low, tempPeak := t } }
    else { s with power := { p with tempMin := some low } }

/-- SENSOR_SAMPLE: every 100 µs. A trip removes the module's power; from 5 °C below one the sensor is critical and ALERT_N
is asserted (R519, R520). The critical event waits once until it is read. -/
def execSensorSample (t : Temps) (s : State) : Answer :=
  if powered s then
    let hot := max t.engines t.hub
    let s1 := noteThermal { s with power := { s.power with temps := t }
                                   flash := { s.flash with bins := AMap.modify s.flash.bins (tempBin hot) 0 (· + 1) } } hot
    if (trips t).any (fun e => decide (e.2 ≤ e.1)) then .next (dropPower s1)
    else if (trips t).any (fun e => decide (e.2 - 5 ≤ e.1)) && !s1.mgmt.events.contains evCritical then
      .next (mgmtEvent s1 evCritical)
    else .next s1
  else .next s

end Sys2Proof.Machine
end

