-- ==== Sys2Proof/Machine/Registers.lean ====
section
/-! DEFINITION. The register pages: which register an offset names, the fields that software can write, what each register
reads and what a write does (19_control_registers.md R489 to R503, 00_scope.md R6, R9 to R14, and the register tables of
the chapters they place). Every command that writes a register goes through `writeReg`. -/

namespace Sys2Proof.Machine

/-! ## The maps (R499, R500) -/

/-- A register of the module page (R499). -/
inductive MReg where
  | ident | arch | role | syState | fw | health | log | compose | spareMap | trapeze | fenceStatus | snapTime | snapCtrl
  | ctrSel | ctrCfg | ctrInfo | ctrVal (i : Nat) | ctrShd (i : Nat) | errlogPtr | errlogStat | errlogWin (j k : Nat)
  | ccPart (p : Nat)
  | mcScrub | mcEccCfg | mcInject | mcPin (c : Nat) | mcDevErr (d : Nat)
  | npLinkCfg | npPortStat (n : Nat) | xcPortCfg (i : Nat) | npEpBind (e : Nat)
  | fpNetCfg | fpTlaleyCfg | fpPtp | fpPort (n : Nat)
  | ixMirror | ixThermal
  | tsPortOvh (p : Nat) | tsGateSel | tsGateEntry | tsGateBase | tsGateCtrl | tsWheelStat
deriving DecidableEq, Repr

/-- A register of a partition page (R500). -/
inductive PReg where
  | partId | epoch | stepCfg | waste | pauses | save | errqBase | errqCtrl | errqPtr | errqStat | place | winTbl | winCtrl
  | sem (s : Nat) | qBase (q : Nat) | qCbase (q : Nat) | qCtrl (q : Nat) | qDoor (q : Nat) | qStat (q : Nat)
  | geom (g : Nat) | attendCfg | lead | leadStat | partMem | partBase | chmap (i : Nat) | ixPart | ixCfg
  | turnCfg | bktSel | bktCfg | bktLevel | bktUse | mtrSel | mtrRate | mtrCfg | classWt | partWt | reg (i : Nat)
  | connRun | connHost | spaceSel | spaceCfg | spaceBase | ecCfg | ecStat | stragSel | stragEnt
deriving DecidableEq, Repr

/-- Which of `count` instances at `base`, `stride` bytes apart, an offset names. -/
def instanceAt (off base stride count : Nat) : Option Nat :=
  if base ≤ off ∧ (off - base) % stride = 0 ∧ (off - base) / stride < count then some ((off - base) / stride) else none

/-- The module-page register at an offset; none where it is reserved (R492, R499). -/
def mregAt (off : Nat) : Option MReg :=
  match off with
  | 0x00000 => some .ident
  | 0x00008 => some .arch
  | 0x00010 => some .role
  | 0x00018 => some .syState
  | 0x00020 => some .fw
  | 0x00028 => some .health
  | 0x00030 => some .log
  | 0x00038 => some .compose
  | 0x00040 => some .spareMap
  | 0x00048 => some .trapeze
  | 0x00050 => some .fenceStatus
  | 0x00060 => some .snapTime
  | 0x00068 => some .snapCtrl
  | 0x00080 => some .ctrSel
  | 0x00088 => some .ctrCfg
  | 0x00090 => some .ctrInfo
  | 0x00100 => some .errlogPtr
  | 0x00108 => some .errlogStat
  | 0x20000 => some .mcScrub
  | 0x20008 => some .mcEccCfg
  | 0x20010 => some .mcInject
  | 0x30000 => some .npLinkCfg
  | 0x40000 => some .fpNetCfg
  | 0x40008 => some .fpTlaleyCfg
  | 0x40010 => some .fpPtp
  | 0x50000 => some .ixMirror
  | 0x50008 => some .ixThermal
  | 0x60200 => some .tsGateSel
  | 0x60208 => some .tsGateEntry
  | 0x60210 => some .tsGateBase
  | 0x60218 => some .tsGateCtrl
  | 0x60220 => some .tsWheelStat
  | _ =>
    (instanceAt off 0x000A0 8 4).map .ctrVal <|> (instanceAt off 0x000C0 8 4).map .ctrShd
      <|> (instanceAt off 0x08000 8 4096).map (fun i => .errlogWin (i / 4) (i % 4))
      <|> (instanceAt off 0x10000 8 16).map .ccPart
      <|> (instanceAt off 0x20100 8 24).map .mcPin <|> (instanceAt off 0x20200 8 48).map .mcDevErr
      <|> (instanceAt off 0x30100 8 16).map .npPortStat <|> (instanceAt off 0x30200 8 16).map .xcPortCfg
      <|> (instanceAt off 0x30400 8 128).map .npEpBind
      <|> (instanceAt off 0x40100 8 16).map .fpPort <|> (instanceAt off 0x40200 8 16).map (fun i => .xcPortCfg (16 + i))
      <|> (instanceAt off 0x60000 8 33).map .tsPortOvh

/-- The partition-page register at an offset; none where it is reserved (R492, R500). -/
def pregAt (off : Nat) : Option PReg :=
  match off with
  | 0x0000 => some .partId
  | 0x0008 => some .epoch
  | 0x0010 => some .stepCfg
  | 0x0018 => some .waste
  | 0x0020 => some .pauses
  | 0x0028 => some .save
  | 0x0030 => some .errqBase
  | 0x0038 => some .errqCtrl
  | 0x0040 => some .errqPtr
  | 0x0048 => some .errqStat
  | 0x0050 => some .place
  | 0x0058 => some .winTbl
  | 0x0060 => some .winCtrl
  | 0x2080 => some .attendCfg
  | 0x2088 => some .lead
  | 0x2090 => some .leadStat
  | 0x3000 => some .partMem
  | 0x3008 => some .partBase
  | 0x4000 => some .ixPart
  | 0x4008 => some .ixCfg
  | 0x5000 => some .turnCfg
  | 0x5008 => some .bktSel
  | 0x5010 => some .bktCfg
  | 0x5018 => some .bktLevel
  | 0x5020 => some .bktUse
  | 0x5040 => some .mtrSel
  | 0x5048 => some .mtrRate
  | 0x5050 => some .mtrCfg
  | 0x5058 => some .classWt
  | 0x5060 => some .partWt
  | 0x6000 => some .connRun
  | 0x6008 => some .connHost
  | 0x6010 => some .spaceSel
  | 0x6018 => some .spaceCfg
  | 0x6020 => some .spaceBase
  | 0x7000 => some .ecCfg
  | 0x7008 => some .ecStat
  | 0x7010 => some .stragSel
  | 0x7018 => some .stragEnt
  | _ =>
    (instanceAt off 0x0088 8 15).map (fun i => .sem (i + 1))
      <|> (instanceAt off 0x1000 64 64).map .qBase <|> (instanceAt off 0x1008 64 64).map .qCbase
      <|> (instanceAt off 0x1010 64 64).map .qCtrl <|> (instanceAt off 0x1018 64 64).map .qDoor
      <|> (instanceAt off 0x1020 64 64).map .qStat
      <|> (instanceAt off 0x2000 8 16).map .geom <|> (instanceAt off 0x3040 8 8).map .chmap
      <|> (instanceAt off 0x5080 8 4).map .reg

/-! ## Fields (R9, R10) -/

/-- What a write does to a field that software can write: the change classes of R10 for RW fields, W1C, and WO. -/
inductive FieldKind where
  | live | boundary | stop | w1c | trigger
deriving DecidableEq, Repr

/-- A field [hi:lo] that software can write; every other bit of a register is read-only or reserved. -/
structure Field where
  hi   : Nat
  lo   : Nat
  kind : FieldKind
deriving DecidableEq, Repr

/-- Writable fields of the module-page registers. -/
def mfields : MReg → List Field
  | .trapeze => [⟨15, 0, .live⟩, ⟨31, 16, .live⟩, ⟨39, 32, .live⟩, ⟨55, 40, .live⟩, ⟨63, 56, .live⟩]
  | .snapTime => [⟨63, 0, .live⟩]
  | .snapCtrl => [⟨0, 0, .trigger⟩, ⟨1, 1, .w1c⟩]
  | .ctrSel => [⟨8, 0, .live⟩]
  | .ctrCfg => [⟨9, 0, .live⟩, ⟨19, 10, .live⟩, ⟨29, 20, .live⟩, ⟨39, 30, .live⟩, ⟨43, 40, .live⟩, ⟨48, 44, .live⟩,
                ⟨52, 49, .live⟩, ⟨53, 53, .live⟩, ⟨54, 54, .trigger⟩]
  | .ctrVal _ => [⟨48, 48, .w1c⟩]
  | .errlogPtr => [⟨63, 32, .live⟩]
  | .ccPart _ => [⟨0, 0, .trigger⟩, ⟨1, 1, .trigger⟩, ⟨2, 2, .trigger⟩]
  | .mcScrub => [⟨7, 0, .boundary⟩]
  | .mcEccCfg => [⟨15, 0, .live⟩]
  | .mcInject => [⟨4, 0, .live⟩, ⟨10, 5, .live⟩, ⟨14, 11, .live⟩, ⟨15, 15, .trigger⟩, ⟨22, 17, .live⟩, ⟨26, 23, .live⟩]
  | .npLinkCfg => [⟨6, 0, .live⟩, ⟨23, 8, .live⟩]
  | .xcPortCfg _ => [⟨0, 0, .boundary⟩]
  | .fpNetCfg => [⟨63, 48, .live⟩]
  | .fpTlaleyCfg => [⟨9, 0, .live⟩, ⟨13, 10, .live⟩, ⟨29, 14, .live⟩, ⟨51, 32, .live⟩, ⟨52, 52, .live⟩]
  | .fpPtp => [⟨3, 0, .live⟩, ⟨4, 4, .live⟩, ⟨5, 5, .live⟩, ⟨15, 8, .live⟩]
  | .fpPort _ => [⟨47, 0, .live⟩]
  | .ixMirror => [⟨7, 0, .live⟩, ⟨8, 8, .live⟩, ⟨48, 48, .w1c⟩]
  | .tsPortOvh _ => [⟨8, 0, .live⟩]
  | .tsGateSel => [⟨5, 0, .live⟩, ⟨6, 6, .live⟩, ⟨15, 8, .live⟩]
  | .tsGateEntry => [⟨23, 0, .stop⟩, ⟨31, 24, .stop⟩]
  | .tsGateBase => [⟨63, 0, .live⟩]
  | .tsGateCtrl => [⟨0, 0, .live⟩, ⟨1, 1, .trigger⟩, ⟨2, 2, .trigger⟩, ⟨15, 8, .live⟩]
  | _ => []

/-- Writable fields of the partition-page registers. -/
def pfields : PReg → List Field
  | .epoch => [⟨32, 32, .w1c⟩]
  | .stepCfg => [⟨3, 0, .boundary⟩, ⟨7, 4, .boundary⟩, ⟨15, 8, .boundary⟩, ⟨22, 16, .boundary⟩, ⟨23, 23, .boundary⟩,
                 ⟨31, 24, .boundary⟩]
  | .save => [⟨47, 10, .live⟩]
  | .errqBase => [⟨63, 8, .stop⟩]
  | .errqCtrl => [⟨0, 0, .live⟩, ⟨1, 1, .stop⟩, ⟨3, 2, .stop⟩, ⟨8, 4, .stop⟩]
  | .errqPtr => [⟨63, 32, .live⟩]
  | .place => [⟨47, 6, .boundary⟩, ⟨55, 48, .boundary⟩, ⟨56, 56, .boundary⟩]
  | .winTbl => [⟨47, 12, .stop⟩]
  | .winCtrl => [⟨19, 0, .stop⟩, ⟨21, 20, .stop⟩, ⟨22, 22, .stop⟩]
  | .sem _ => [⟨31, 0, .live⟩, ⟨32, 32, .w1c⟩]
  | .qBase _ => [⟨63, 8, .stop⟩]
  | .qCbase _ => [⟨63, 8, .stop⟩]
  | .qCtrl _ => [⟨0, 0, .live⟩, ⟨1, 1, .boundary⟩, ⟨2, 2, .stop⟩, ⟨3, 3, .stop⟩, ⟨5, 4, .stop⟩, ⟨10, 6, .stop⟩,
                 ⟨15, 11, .stop⟩, ⟨23, 16, .boundary⟩, ⟨26, 26, .trigger⟩]
  | .qDoor _ => [⟨31, 0, .live⟩, ⟨63, 32, .live⟩]
  | .geom _ => [⟨1, 0, .stop⟩, ⟨3, 2, .stop⟩, ⟨6, 4, .stop⟩, ⟨8, 7, .stop⟩, ⟨9, 9, .stop⟩]
  | .attendCfg => [⟨15, 0, .live⟩, ⟨31, 16, .live⟩, ⟨39, 32, .stop⟩]
  | .ixCfg => [⟨0, 0, .live⟩, ⟨15, 8, .live⟩]
  | .turnCfg => [⟨10, 0, .live⟩, ⟨12, 11, .live⟩]
  | .bktSel => [⟨15, 0, .live⟩]
  | .bktCfg => [⟨31, 0, .live⟩, ⟨55, 32, .live⟩, ⟨57, 56, .live⟩]
  | .bktLevel => [⟨47, 0, .live⟩]
  | .mtrSel => [⟨5, 0, .live⟩, ⟨10, 8, .live⟩]
  | .mtrRate => [⟨23, 0, .live⟩, ⟨47, 24, .live⟩]
  | .mtrCfg => [⟨0, 0, .live⟩, ⟨1, 1, .live⟩, ⟨31, 8, .live⟩, ⟨55, 32, .live⟩]
  | .classWt => (List.range 7).map (fun i => ⟨8 * (i + 1) + 7, 8 * (i + 1), .live⟩)
  | .connHost => [⟨1, 0, .stop⟩, ⟨63, 8, .stop⟩]
  | .spaceSel => [⟨11, 0, .live⟩]
  | .spaceCfg => [⟨0, 0, .live⟩, ⟨1, 1, .live⟩, ⟨2, 2, .live⟩, ⟨23, 4, .live⟩, ⟨43, 24, .live⟩]
  | .spaceBase => [⟨47, 21, .boundary⟩]
  | .ecCfg => [⟨7, 0, .live⟩, ⟨23, 8, .live⟩, ⟨31, 24, .live⟩, ⟨47, 32, .live⟩, ⟨63, 48, .live⟩]
  | .stragSel => [⟨3, 0, .live⟩]
  | _ => []

/-! ## Selectors (R495) -/

/-- An accessor's copy of a selector register, by page offset; 0 at reset. -/
def selOf (s : State) (acc : Accessor) (off : Nat) : Nat :=
  match s.selectors.find? (fun e => e.1 == acc && e.2.1 == off) with
  | some e => e.2.2
  | none => 0

/-- An accessor's copy replaced. -/
def setSel (s : State) (acc : Accessor) (off v : Nat) : State :=
  let rest := s.selectors.filter (fun e => !(e.1 == acc && e.2.1 == off))
  { s with selectors := if v = 0 then rest else rest ++ [(acc, off, v)] }

abbrev selCtr : Nat := 0x00080
abbrev selGate : Nat := 0x60200
abbrev selBkt : Nat := 0x5008
abbrev selMtr : Nat := 0x5040
abbrev selSpace : Nat := 0x6010
abbrev selStrag : Nat := 0x7010

/-- The counter unit that an accessor's SY_CTR_SEL names (R487). -/
def unitSel (s : State) (acc : Accessor) : Nat := min 319 (selOf s acc selCtr)

/-- Port, bank and entry that an accessor's TS_GATE_SEL names (R325). -/
def gateSel (s : State) (acc : Accessor) : Nat × Nat × Nat :=
  let v := selOf s acc selGate
  (bits v 5 0, bits v 6 6, bits v 15 8)

/-- Class and port that an accessor's TS_MTR_SEL names (R324). -/
def mtrSelOf (s : State) (acc : Accessor) : Nat × Nat :=
  let v := selOf s acc selMtr
  (bits v 10 8, bits v 5 0)

/-! ## Reading the module page -/

/-- CC_PART.STATE (R445). -/
def partCode : PState → Nat
  | .notStarted => 0
  | .running => 1
  | .preempting => 2
  | .preempted => 3
  | .restarting => 4

/-- STATE of a port (R354, R381). -/
def portCode : PortState → Nat
  | .noPartner => 0
  | .training => 1
  | .up => 2
  | .down => 3

/-- The record that slot j of the device error log holds, with its TAG (R485). -/
def logRecord (s : State) (j : Nat) : List Byte :=
  let c := s.counters
  let back := (c.prod + 2 ^ 32 - 1 - j) % 1024
  match c.log[back]? with
  | some r => errBytes r (ringTag (c.prod + 2 ^ 32 - 1 - back) 1024)
  | none => List.replicate 32 0

/-- Bits [10i+9:10i] hold SRC[i]; SRC_BAD marks those of another island (R487). -/
def ctrCfgWord (u : Nat) (x : Unit) : Nat :=
  ((List.range 4).map (fun i => x.src.getD i 0 % 2 ^ 10 * 2 ^ (10 * i))).sum + x.enable % 16 * 2 ^ 40
    + x.instance_ % 32 * 2 ^ 44 + x.part % 16 * 2 ^ 49 + flag x.filter * 2 ^ 53
    + ofSetBits ((List.range 4).filter (fun i => !codeInIsland (x.src.getD i 0) (unitIsland u))) * 2 ^ 55

/-- Reset value of OVERHEAD: 24 for far ports (R325). -/
def ovhWord (s : State) (p : Nat) : Nat :=
  unsignedOf 9 ((tsPort s p).overhead.getD (if 16 ≤ p ∧ p < 32 then 24 else 0))

/-- CREDIT_MODE, EFFECTIVE, PEER_PLANNING and PENDING (R269). -/
def xcWord (creditMode effective peer : Bool) (pend : Option Bool) : Nat :=
  flag (pend.getD creditMode) + flag effective * 2 + flag peer * 4 + flag pend.isSome * 8

/-- A module-page register as an accessor reads it. -/
def readM (s : State) (acc : Accessor) : MReg → Nat
  | .ident => 0x4B480121
  | .arch => 0x11
  | .role => roleOf s
  | .syState => syStateWord s
  | .fw => s.life.slot % 2 + flag s.life.fallback * 2 + s.life.svn % 2 ^ 16 * 2 ^ 16 + s.life.version % 2 ^ 32 * 2 ^ 32
  | .health => healthWord s
  | .log => s.flash.nextSeq % 2 ^ 48 + flag (decide (logArea - s.flash.roomUsed < 0x100000)) * 2 ^ 48
      + min 0x7FFF s.flash.dropped * 2 ^ 49
  | .compose => (compOf s).serial + (compOf s).parts * 2 ^ 32 + (compOf s).bifurcation * 2 ^ 48 + (compOf s).stewardFn * 2 ^ 50
  | .spareMap => spareMap s
  | .trapeze => s.home.offerHold + s.home.migrateLimit * 2 ^ 16 + s.home.replyWait * 2 ^ 32 + s.home.lostHold * 2 ^ 40
      + s.home.fwdHold * 2 ^ 56
  | .fenceStatus => flag s.home.gateOpen + min 0xFFFF s.home.badFences * 2 ^ 16 + s.home.fences % 2 ^ 32 * 2 ^ 32
  | .snapTime => s.counters.snapTime
  | .snapCtrl => flag s.counters.refused * 2 + s.counters.latches.length * 4 + s.counters.done % 2 ^ 32 * 2 ^ 32
  | .ctrSel => selOf s acc selCtr
  | .ctrCfg => ctrCfgWord (unitSel s acc) (AMap.getD s.counters.units (unitSel s acc) {})
  | .ctrInfo => unitIsland (unitSel s acc) + (AMap.getD s.counters.units (unitSel s acc) {}).shadowNo % 2 ^ 32 * 2 ^ 32
  | .ctrVal i =>
    let u := AMap.getD s.counters.units (unitSel s acc) {}
    u.value.getD i 0 + flag (bit u.wrapped i) * 2 ^ 48
  | .ctrShd i => (AMap.getD s.counters.units (unitSel s acc) {}).shadow.getD i 0
  | .errlogPtr => s.counters.prod + s.counters.cons * 2 ^ 32
  | .errlogStat => s.counters.overwritten
  | .errlogWin j k => leAt (logRecord s j) (8 * k) 8
  | .ccPart p =>
    let P := partOf s p
    partCode P.state * 2 ^ 4 + flag P.resumeHeld * 2 ^ 7 + P.lastCause % 256 * 2 ^ 8 + min 0xFFFF P.restarts * 2 ^ 16
  | .mcScrub => s.mem.scrubPend.getD s.mem.scrubPeriod + flag s.mem.scrubPend.isSome * 2 ^ 8
      + ((List.range 24).foldl (fun a c => min a (chan s c).passes) (chan s 0).passes) % 2 ^ 32 * 2 ^ 16
  | .mcEccCfg => s.mem.retireLimit
  | .mcInject =>
    let i := s.mem.inject
    i.channel + i.symbol * 2 ^ 5 + i.value * 2 ^ 11 + flag i.armed * 2 ^ 16 + i.symbol2 * 2 ^ 17 + i.value2 * 2 ^ 23
  | .mcPin c => pinWord (chan s c)
  | .mcDevErr d =>
    let e := AMap.getD s.mem.devErr d {}
    e.corrected % 2 ^ 32 + e.uncorr * 2 ^ 32 + e.lastPin % 32 * 2 ^ 48
  | .npLinkCfg => s.poltex.deadBound + s.poltex.laneLimit * 2 ^ 8
  | .npPortStat n =>
    let x : NearPort := AMap.getD s.poltex.ports n {}
    portCode x.state + (if x.state = .up then x.width else 0) * 2 ^ 2 + flag x.spareUsed * 2 ^ 6 + flag x.spareBad * 2 ^ 7
      + x.failed % 2 ^ 9 * 2 ^ 8 + x.level % 16 * 2 ^ 20 + (if x.state = .up then x.partner % 2 ^ 10 else 0) * 2 ^ 24
      + min 0xFFFF x.replays * 2 ^ 48
  | .xcPortCfg i =>
    if i < 16 then
      let x : NearPort := AMap.getD s.poltex.ports i {}
      xcWord x.creditMode x.effective x.peerPlan x.modePend
    else
      let x : FarPort := AMap.getD s.tlaley.ports (i - 16) {}
      xcWord x.creditMode x.effective x.peerPlan x.modePend
  | .npEpBind e =>
    let b := bindOf s e
    b.1 % 4 + b.2 % 16 * 2 ^ 2 + AMap.getD s.poltex.masks e 0 % 2 ^ 16 * 2 ^ 8
  | .fpNetCfg => (compOf s).udpPort + (compOf s).prioHi * 2 ^ 16 + (compOf s).prioLo * 2 ^ 19 + (compOf s).vlan * 2 ^ 24
      + s.tlaley.wlLimit * 2 ^ 48
  | .fpTlaleyCfg => s.tlaley.rto + s.tlaley.retryLimit * 2 ^ 10 + s.tlaley.rnrDelay * 2 ^ 14 + s.tlaley.aiRate * 2 ^ 32
      + flag s.tlaley.ccEnable * 2 ^ 52
  | .fpPtp => s.tlaley.ptpPort + flag s.tlaley.ptpEnable * 2 ^ 4 + flag s.tlaley.ptpIpv6 * 2 ^ 5 + s.tlaley.ptpDomain * 2 ^ 8
      + flag s.tlaley.ptpLocked * 2 ^ 16 + unsignedOf 32 s.tlaley.ptpOffset * 2 ^ 32
  | .fpPort n =>
    let x : FarPort := AMap.getD s.tlaley.ports n {}
    x.nexthop + portCode x.state * 2 ^ 48 + flag x.crinum * 2 ^ 50 + flag x.spareUsed * 2 ^ 51 + flag x.spareBad * 2 ^ 52
      + x.failed % 2 ^ 9 * 2 ^ 53
  | .ixMirror => s.index.sweepPeriod + flag s.index.sweepEnable * 2 ^ 8 + min 0xFFFF s.index.repaired * 2 ^ 16
      + min 0xFFFF s.index.invalidated * 2 ^ 32 + flag s.index.ruleLost * 2 ^ 48
  | .ixThermal => s.index.temp % 256 + s.index.step % 8 * 2 ^ 8 + s.index.refused % 2 ^ 32 * 2 ^ 32
  | .tsPortOvh p => ovhWord s p
  | .tsGateSel => selOf s acc selGate
  | .tsGateEntry =>
    let g := gateSel s acc
    let e := gateEntry (tsPort s g.1) g.2.1 g.2.2
    e.duration + e.mask * 2 ^ 24
  | .tsGateBase => (tsPort s (gateSel s acc).1).base
  | .tsGateCtrl =>
    let t := tsPort s (gateSel s acc).1
    flag t.enable + flag t.armed.isSome * 2 ^ 3 + flag t.running.isSome * 2 ^ 4
      + (if t.running.isSome then t.bank else 0) * 2 ^ 5 + t.nent * 2 ^ 8 + t.overruns % 2 ^ 32 * 2 ^ 32
  | .tsWheelStat => s.shaper.parkedMain + s.shaper.parkedOvf * 2 ^ 32

/-! ## Reading a partition page -/

/-- Host-tier frames that lie in a partition's window (R83). -/
def windowUsed (s : State) (p : Nat) : Nat :=
  let lo := 0x80000000 + 0x4000000 * p
  (s.home.frames.filter (fun e => decide (lo ≤ e.1 ∧ e.1 < lo + 0x4000000) && e.2.state != .free)).length

/-- Valid entries in a partition's run (R295). -/
def validEntries (s : State) (p : Nat) : Nat :=
  let x := sliceOf s p
  (s.index.array.filter (fun e => decide (1024 * x.ixBase ≤ e.1 ∧ e.1 < 1024 * (x.ixBase + x.ixSize)))).length

/-- Connections of a partition that are not FREE (R382). -/
def openConns (s : State) (p : Nat) : Nat :=
  (s.tlaley.conns.filter (fun e => e.2.part == p && e.2.state != .free)).length

/-- log2 of a geometry's block in 16 KiB (R50). -/
def geomSize (g : Geom) : Nat :=
  match geomShape g with
  | some sh => if geomFits g then Nat.log2 (ceilDiv (blockBytes sh) 0x4000) else 0
  | none => 0

/-- Words of the registers with a value awaiting a boundary: what was written last (R11). -/
def stepWord (c : StepCfg) : Nat :=
  c.maxDepth + c.rejectRun * 2 ^ 4 + c.acceptRun * 2 ^ 8 + c.acceptPct * 2 ^ 16 + flag c.adapt * 2 ^ 23 + c.probe * 2 ^ 24

def placeWord (x : Place) : Nat := x.base + x.nlists * 2 ^ 48 + flag x.enable * 2 ^ 56

/-- The straggler that an accessor's EC_STRAG_SEL names (R427). -/
def stragWord (P : Part) (i : Nat) : Nat :=
  match P.stragglers[i]? with
  | some x => x.domain % 2 ^ 12 + x.ep % 2 ^ 10 * 2 ^ 12 + 2 ^ 22 + min 0xFFFF x.lastUs * 2 ^ 32 + min 255 x.quiet * 2 ^ 48
  | none => 0

/-- A register of partition p's page as an accessor reads it. -/
def readP (s : State) (acc : Accessor) (p : Nat) : PReg → Nat
  | .partId =>
    let x := sliceOf s p
    p + x.hostFn * 2 ^ 4 + flag x.vf * 2 ^ 6 + vfIndex s p * 2 ^ 8 + partCode (partOf s p).state * 2 ^ 16 + roleOf s * 2 ^ 20
  | .epoch => (partOf s p).epoch + flag (partOf s p).fenced * 2 ^ 32
  | .stepCfg => stepWord ((partOf s p).stepPend.getD (partOf s p).stepCfg) + flag (partOf s p).stepPend.isSome * 2 ^ 32
  | .waste => (partOf s p).waste % 2 ^ 48
  | .pauses => (partOf s p).pauses % 2 ^ 32 + (partOf s p).preempts % 2 ^ 32 * 2 ^ 32
  | .save => (partOf s p).save
  | .errqBase => (partOf s p).errq.base
  | .errqCtrl =>
    let e := (partOf s p).errq
    flag e.enable + flag e.host * 2 + e.hostFn * 4 + e.sizeLog2 * 16
  | .errqPtr => (partOf s p).errq.prod + (partOf s p).errq.cons * 2 ^ 32
  | .errqStat => (partOf s p).errq.overflow
  | .place => placeWord ((partOf s p).placePend.getD (partOf s p).place) + flag (partOf s p).placePend.isSome * 2 ^ 57
  | .winTbl => (partOf s p).winTable
  | .winCtrl =>
    let P := partOf s p
    P.winLen + P.winFn * 2 ^ 20 + flag P.winEnable * 2 ^ 22 + windowUsed s p * 2 ^ 32
  | .sem i => (semOf s p i).value + flag (semOf s p i).overflow * 2 ^ 32
  | .qBase q => (queueOf (partOf s p) q).base
  | .qCbase q => (queueOf (partOf s p) q).cbase
  | .qCtrl q =>
    let x := queueOf (partOf s p) q
    flag x.enable + flag (x.haltPend.getD x.haltOnErr) * 2 + flag x.ringHost * 4 + flag x.cplHost * 8 + x.hostFn * 16
      + x.sizeLog2 * 2 ^ 6 + x.csizeLog2 * 2 ^ 11 + x.weightPend.getD x.weight * 2 ^ 16 + flag (decide (x.cause ≠ 0)) * 2 ^ 24
      + flag (!x.issued.isEmpty) * 2 ^ 25 + flag (x.haltPend.isSome || x.weightPend.isSome) * 2 ^ 27 + x.cause * 2 ^ 32
  | .qDoor q => (queueOf (partOf s p) q).tail + (queueOf (partOf s p) q).ccons * 2 ^ 32
  | .qStat q =>
    let x := queueOf (partOf s p) q
    x.head + x.cprod * 2 ^ 32
  | .geom g =>
    let x := AMap.getD (partOf s p).geoms g {}
    x.tCode + x.format * 4 + x.hkvLog2 * 16 + x.dCode * 2 ^ 7 + flag x.valid * 2 ^ 9 + flag (geomBad x) * 2 ^ 10
      + geomSize x * 2 ^ 16
  | .attendCfg => (partOf s p).lateBound + (partOf s p).remoteWait * 2 ^ 16 + (partOf s p).inboxMib * 2 ^ 32
  | .lead =>
    let l := leadOf s p
    l.1 + l.2.1 * 2 ^ 16 + flag l.2.2 * 2 ^ 32
  | .leadStat => (partOf s p).leadMisses % 2 ^ 32 + (partOf s p).strictFaults % 2 ^ 32 * 2 ^ 32
  | .partMem =>
    let x := sliceOf s p
    x.chMask + (channelsOf x).length * 2 ^ 24 + x.shareBase * 2 ^ 32 + x.shareSize * 2 ^ 40
  | .partBase => (sliceOf s p).base * 2 ^ 28
  | .chmap i =>
    let n := (channelsOf (sliceOf s p)).length
    ((List.range 8).map (fun j => (8 * i + j) % n * 2 ^ (8 * j))).sum
  | .ixPart => (sliceOf s p).ixBase + (sliceOf s p).ixSize * 2 ^ 16 + validEntries s p * 2 ^ 32
  | .ixCfg => flag (partOf s p).verifyAll + (partOf s p).shiftLimit * 2 ^ 8 + flag (partOf s p).respread * 2 ^ 16
  | .turnCfg => (partOf s p).promptWt + (partOf s p).refundPol * 2 ^ 11
  | .bktSel => selOf s acc selBkt
  | .bktCfg =>
    let b := AMap.getD (partOf s p).buckets (selOf s acc selBkt) {}
    b.rate + b.burst * 2 ^ 32 + b.mode * 2 ^ 56
  | .bktLevel => unsignedOf 48 (bucketOf s p (selOf s acc selBkt)).level
  | .bktUse => unsignedOf 48 (AMap.getD (partOf s p).buckets (selOf s acc selBkt) {}).charged
  | .mtrSel => selOf s acc selMtr
  | .mtrRate =>
    let k := mtrSelOf s acc
    let m := AMap.getD s.shaper.meters (meterKey p k.1 k.2) {}
    if k.1 = 0 then 0 else m.cir + m.pir * 2 ^ 24
  | .mtrCfg =>
    let k := mtrSelOf s acc
    let m := AMap.getD s.shaper.meters (meterKey p k.1 k.2) {}
    if k.1 = 0 then 0 else flag m.enable + flag m.policy * 2 + m.cbs * 2 ^ 8 + m.pbs * 2 ^ 32
  | .classWt => ((List.range 7).map (fun i => AMap.getD (partOf s p).classWt (i + 1) 16 % 256 * 2 ^ (8 * (i + 1)))).sum
  | .partWt => (sliceOf s p).weight
  | .reg i => (sliceOf s p).regs.getD i 0
  | .connRun => (sliceOf s p).connBase + (sliceOf s p).connSize * 2 ^ 16 + openConns s p * 2 ^ 32
  | .connHost => (partOf s p).connHostFn + (partOf s p).connHost
  | .spaceSel => selOf s acc selSpace
  | .spaceCfg =>
    let x := AMap.getD (partOf s p).spaces (selOf s acc selSpace) {}
    flag x.valid + flag x.read * 2 + flag x.write * 4 + x.check * 2 ^ 4 + x.length * 2 ^ 24
  | .spaceBase =>
    let x := AMap.getD (partOf s p).spaces (selOf s acc selSpace) {}
    flag x.basePend.isSome + x.basePend.getD x.base * 2 ^ 21
  | .ecCfg =>
    let P := partOf s p
    P.ec.stragPct + P.ec.stragMin * 2 ^ 8 + P.ec.stragClear * 2 ^ 24 + P.ec.moveLimit * 2 ^ 32 + P.ec.rebuildWait * 2 ^ 48
  | .ecStat =>
    let P := partOf s p
    P.rebuilds % 2 ^ 32 + min 0xFFFF P.stripesLost * 2 ^ 32 + min 16 P.stragglers.length * 2 ^ 48
  | .stragSel => selOf s acc selStrag
  | .stragEnt => stragWord (partOf s p) (selOf s acc selStrag)

/-! ## Stopped blocks (R10) -/

/-- Is a queue stopped (R192). -/
def queueStopped (x : Queue) : Bool := x.issued.isEmpty && (!x.enable || decide (x.cause ≠ 0))

/-- Is the block of a partition-page register's class S fields stopped: the queue (R192), the error record queue (R488),
or the partition, which is stopped while PREEMPTED (R439). The block is judged as it stands before the write, also where
that very write lets it leave the stopped state (R14; DESIGN CHOICE, log entry 119). -/
def stoppedP (s : State) (p : Nat) : PReg → Bool
  | .qBase q => queueStopped (queueOf (partOf s p) q)
  | .qCbase q => queueStopped (queueOf (partOf s p) q)
  | .qCtrl q => queueStopped (queueOf (partOf s p) q)
  | .errqBase => !(partOf s p).errq.enable
  | .errqCtrl => !(partOf s p).errq.enable
  | _ => (partOf s p).state == .preempted

/-- Is the bank that TS_GATE_SEL names neither active nor armed (R325). -/
def stoppedM (s : State) (acc : Accessor) : MReg → Bool
  | .tsGateEntry =>
    let g := gateSel s acc
    let t := tsPort s g.1
    !(t.running.isSome && t.bank == g.2.1) && !(t.armed.isSome && t.bank != g.2.1)
  | _ => true

/-! ## A write as its fields see it -/

/-- What a write brings to a register: the value that its fields now hold, the triggers written 1, and the fields that
lay wholly in the written half. -/
structure Written where
  value   : Nat
  trig    : Nat
  covered : List Field

/-- Did the write cover the field at a bit. -/
def Written.covers (w : Written) (lo : Nat) : Bool := w.covered.any (fun f => f.lo == lo)

/-- Was a trigger written 1. -/
def Written.fires (w : Written) (i : Nat) : Bool := bit w.trig i

/-- A write of the bits [whi:wlo] with a value in place on a register that reads `old` (R9, R489). -/
def writtenBy (fs : List Field) (old whi wlo v : Nat) : Written :=
  let cov := fs.filter (fun f => decide (wlo ≤ f.lo ∧ f.hi ≤ whi))
  { covered := cov
    trig := ofSetBits ((cov.filter (fun f => f.kind == .trigger && bit v f.lo)).map (·.lo))
    value := cov.foldl (fun a f => match f.kind with
      | .trigger => a
      | .w1c => if bit v f.lo then putBits a f.hi f.lo 0 else a
      | _ => putBits a f.hi f.lo (bits v f.hi f.lo)) old }

/-- Does a write change a class S field (R10). -/
def changesStop (fs : List Field) (old whi wlo v : Nat) : Bool :=
  fs.any (fun f => f.kind == .stop && decide (wlo ≤ f.lo ∧ f.hi ≤ whi) && bits v f.hi f.lo != bits old f.hi f.lo)

/-! ## Writing the module page -/

/-- SY_SNAP_CTRL.ARM: a latch at SY_SNAP_TIME, or REFUSED (R477). -/
def armByRegister (c : Counters) : Counters :=
  match armingOf c c.snapTime with
  | .takes _ => armLatch c c.snapTime
  | _ => { c with refused := true }

/-- SY_CTR_CFG on a unit (R475, R487). -/
def configureUnit (u : Unit) (w : Written) : Unit :=
  let v := w.value
  let u1 := { u with src := [bits v 9 0, bits v 19 10, bits v 29 20, bits v 39 30], enable := bits v 43 40
                     instance_ := bits v 48 44, part := bits v 52 49, filter := bit v 53 }
  if w.fires 54 then { u1 with value := [0, 0, 0, 0], wrapped := 0 } else u1

/-- CC_PART: PREEMPT, RESUME and RESTART; a write of both PREEMPT and RESUME is ignored (R440 to R445). -/
def writePartCtrl (s : State) (acc : Accessor) (p : Nat) (w : Written) : State :=
  if !composed s p || (w.fires 0 && w.fires 1) then s
  else
    let s1 := if w.fires 0 then preemptPart s p else s
    let s2 := if w.fires 1 then resumePart s1 p else s1
    if w.fires 2 then restartPart s2 p (.software acc) else s2

/-- TS_GATE_CTRL: NENT and ENABLE, then ARM, then DISARM (R316). -/
def writeGateCtrl (now : Nat) (t : TsPort) (w : Written) : TsPort :=
  let on := bit w.value 0
  let t1 := { t with nent := bits w.value 15 8, enable := on
                     running := if on then t.running else none
                     armedAt := if on && !t.enable then now else t.armedAt }
  let t2 := if w.fires 1 then { t1 with armed := some (t1.nent, t1.base), armedAt := now } else t1
  if w.fires 2 then { t2 with armed := none } else t2

/-- A gate entry of a bank replaced. -/
def setGateEntry (t : TsPort) (bank i : Nat) (e : GateEntry) : TsPort :=
  if bank = 0 then { t with bank0 := AMap.insert t.bank0 i e } else { t with bank1 := AMap.insert t.bank1 i e }

/-- What a permitted write does to a module-page register. -/
def applyM (s : State) (acc : Accessor) (w : Written) : MReg → State
  | .trapeze =>
    { s with home := { s.home with offerHold := bits w.value 15 0, migrateLimit := bits w.value 31 16, replyWait := bits w.value 39 32
                                   lostHold := bits w.value 55 40, fwdHold := bits w.value 63 56 } }
  | .snapTime => { s with counters := { s.counters with snapTime := w.value } }
  | .snapCtrl =>
    let c := { s.counters with refused := bit w.value 1 }
    { s with counters := if w.fires 0 then armByRegister c else c }
  | .ctrSel => setSel s acc selCtr (bits w.value 8 0)
  | .ctrCfg =>
    { s with counters := { s.counters with units := AMap.modify s.counters.units (unitSel s acc) {} (configureUnit · w) } }
  | .ctrVal i =>
    { s with counters := { s.counters with
        units := AMap.modify s.counters.units (unitSel s acc) {} (fun u => { u with wrapped := putBit u.wrapped i (bit w.value 48) }) } }
  | .errlogPtr => { s with counters := { s.counters with cons := bits w.value 63 32 } }
  | .ccPart p => writePartCtrl s acc p w
  | .mcScrub => if w.covers 0 then { s with mem := { s.mem with scrubPend := some (bits w.value 7 0) } } else s
  | .mcEccCfg => { s with mem := { s.mem with retireLimit := bits w.value 15 0 } }
  | .mcInject =>
    let i : Inject := { channel := bits w.value 4 0, symbol := bits w.value 10 5, value := bits w.value 14 11
                        armed := s.mem.inject.armed || w.fires 15, symbol2 := bits w.value 22 17, value2 := bits w.value 26 23 }
    { s with mem := { s.mem with inject := i } }
  | .npLinkCfg => { s with poltex := { s.poltex with deadBound := bits w.value 6 0, laneLimit := bits w.value 23 8 } }
  | .xcPortCfg i =>
    if !w.covers 0 then s
    else if i < 16 then
      { s with poltex := { s.poltex with ports := AMap.modify s.poltex.ports i {} (fun x => { x with modePend := some (bit w.value 0) }) } }
    else
      { s with tlaley := { s.tlaley with ports := AMap.modify s.tlaley.ports (i - 16) {} (fun x => { x with modePend := some (bit w.value 0) }) } }
  | .fpNetCfg => { s with tlaley := { s.tlaley with wlLimit := bits w.value 63 48 } }
  | .fpTlaleyCfg =>
    { s with tlaley := { s.tlaley with rto := bits w.value 9 0, retryLimit := bits w.value 13 10, rnrDelay := bits w.value 29 14
                                       aiRate := bits w.value 51 32, ccEnable := bit w.value 52 } }
  | .fpPtp =>
    { s with tlaley := { s.tlaley with ptpPort := bits w.value 3 0, ptpEnable := bit w.value 4, ptpIpv6 := bit w.value 5
                                       ptpDomain := bits w.value 15 8 } }
  | .fpPort n =>
    { s with tlaley := { s.tlaley with ports := AMap.modify s.tlaley.ports n {} (fun x => { x with nexthop := bits w.value 47 0 }) } }
  | .ixMirror =>
    { s with index := { s.index with sweepPeriod := bits w.value 7 0, sweepEnable := bit w.value 8, ruleLost := bit w.value 48 } }
  | .tsPortOvh p => if w.covers 0 then modTs s p (fun t => { t with overhead := some (signed 9 w.value) }) else s
  | .tsGateSel => setSel s acc selGate (w.value % 2 ^ 16)
  | .tsGateEntry =>
    let g := gateSel s acc
    if g.1 ≤ 32 then modTs s g.1 (fun t => setGateEntry t g.2.1 g.2.2 ⟨bits w.value 23 0, bits w.value 31 24⟩) else s
  | .tsGateBase =>
    let g := gateSel s acc
    if g.1 ≤ 32 then modTs s g.1 (fun t => { t with base := w.value }) else s
  | .tsGateCtrl =>
    let g := gateSel s acc
    if g.1 ≤ 32 then modTs s g.1 (fun t => writeGateCtrl (localTime s (portIsland g.1)) t w) else s
  | _ => s

/-! ## Writing a partition page -/

/-- The queue's next instruction, not yet issued, gives up its wait or its token (R198; log entry 45). -/
def dropNext (s : State) (p q : Nat) : State :=
  let s1 := semAdd s p (queueOf (partOf s p) q).granted 1
  modPart s1 p (fun P => { P with waiters := P.waiters.filter (fun y => y.queue != q || y.idx.isSome) })

/-- The four pointers of a queue zeroed by a write to CC_Q_BASE or CC_Q_CBASE, in the save area too while the partition is
PREEMPTED (R189, R441). -/
def zeroPointers (s : State) (p q : Nat) : State :=
  let s1 := modQueue (dropNext s p q) p q (fun x =>
    { x with head := 0, tail := 0, cprod := 0, ccons := 0, next := 0, frozen := none, waiting := false, granted := 0 })
  if (partOf s1 p).saved then savePointers s1 p q else s1

/-- CC_Q_CTRL (R189, R191, R192). -/
def writeQCtrl (x : Queue) (w : Written) : Queue :=
  let v := w.value
  let x1 := { x with enable := bit v 0, ringHost := bit v 2, cplHost := bit v 3, hostFn := bits v 5 4, sizeLog2 := bits v 10 6
                     csizeLog2 := bits v 15 11
                     haltPend := if w.covers 1 then some (bit v 1) else x.haltPend
                     weightPend := if w.covers 16 then some (bits v 23 16) else x.weightPend }
  let far := decide (2 ^ clampN 6 16 x1.sizeLog2 < (x1.tail + 2 ^ 32 - x1.head) % 2 ^ 32)
  let x1 := { x1 with cause := if w.covers 6 && far && x1.cause == 0 then 0x03 else x1.cause }
  if w.fires 26 then { x1 with cause := 0, issued := x1.issued.map (fun i => { i with stuck := false }) } else x1

/-- CC_Q_DOOR: TAIL and CCONS, in the save area too while the partition is PREEMPTED; a TAIL too far from HEAD halts the
queue (R189, R191, R441). -/
def writeDoor (s : State) (p q : Nat) (w : Written) : State :=
  let tail := bits w.value 31 0
  let s1 := modQueue s p q (fun x =>
    let far := w.covers 0 && decide (2 ^ clampN 6 16 x.sizeLog2 < (tail + 2 ^ 32 - x.head) % 2 ^ 32)
    { x with tail := tail, ccons := bits w.value 63 32, cause := if far && x.cause == 0 then 0x03 else x.cause })
  if (partOf s1 p).saved then savePointers s1 p q else s1

/-- TS_BKT_CFG and TS_BKT_LEVEL: the bucket is first brought up to date under the old values; a LEVEL is clipped to
BURST × 256 (R323). Refused requests of its customer are tried again (R303). -/
def writeBucket (s : State) (p c : Nat) (f : Bucket → Bucket) : State :=
  refusedAfterWrite (setBucket s p c (f (bucketOf s p c))) p c

/-- TS_MTR_RATE and TS_MTR_CFG: the levels are kept, clipped to the new sizes, and a queue that waits on a rate of 0 is
examined again (R309, R311). -/
def writeMeter (s : State) (p tc port : Nat) (f : Meter → Meter) : State :=
  let m := f (meterOf s p tc port)
  let m' := { m with c := min m.c (m.cbs * 8000), p := min m.p (m.pbs * 8000) }
  let s1 := { s with shaper := { s.shaper with meters := AMap.insert s.shaper.meters (meterKey p tc port) m' } }
  if (tsPort s1 port).parked.any (fun e => e.1 == (p, tc) && e.2 == .zeroRate) then examine s1 port p tc else s1

/-- What a permitted write does to a register of partition p's page. -/
def applyP (s : State) (acc : Accessor) (p : Nat) (w : Written) : PReg → State
  | .epoch => modPart s p (fun P => { P with fenced := bit w.value 32 })
  | .stepCfg =>
    if w.covered.isEmpty then s
    else
      let v := w.value
      let c : StepCfg := { maxDepth := bits v 3 0, rejectRun := bits v 7 4, acceptRun := bits v 15 8, acceptPct := bits v 22 16
                           adapt := bit v 23, probe := bits v 31 24 }
      modPart s p (fun P => { P with stepPend := some c })
  | .save => modPart s p (fun P => { P with save := bits w.value 47 0 })
  | .errqBase => modErrq s p (fun e => { e with base := w.value, prod := 0, cons := 0 })
  | .errqCtrl => modErrq s p (fun e => { e with enable := bit w.value 0, host := bit w.value 1, hostFn := bits w.value 3 2
                                                sizeLog2 := bits w.value 8 4 })
  | .errqPtr => modErrq s p (fun e => { e with cons := bits w.value 63 32 })
  | .place =>
    if w.covered.isEmpty then s
    else
      let c : Place := { base := bits w.value 47 0, nlists := bits w.value 55 48, enable := bit w.value 56 }
      modPart s p (fun P => { P with placePend := some c })
  | .winTbl => modPart s p (fun P => { P with winTable := bits w.value 47 0 })
  | .winCtrl => modPart s p (fun P => { P with winLen := bits w.value 19 0, winFn := bits w.value 21 20, winEnable := bit w.value 22 })
  | .sem i =>
    let s1 := setSem s p i { value := bits w.value 31 0, overflow := bit w.value 32 }
    if w.covers 0 && (partOf s p).state == .running then serve s1 p i else s1
  | .qBase q => zeroPointers (modQueue s p q (fun x => { x with base := w.value })) p q
  | .qCbase q => zeroPointers (modQueue s p q (fun x => { x with cbase := w.value })) p q
  | .qCtrl q => modQueue s p q (fun x => writeQCtrl x w)
  | .qDoor q => writeDoor s p q w
  | .geom g =>
    let v := w.value
    let x : Geom := { tCode := bits v 1 0, format := bits v 3 2, hkvLog2 := bits v 6 4, dCode := bits v 8 7, valid := bit v 9 }
    modPart s p (fun P => { P with geoms := AMap.insert P.geoms g x })
  | .attendCfg => modPart s p (fun P => { P with lateBound := bits w.value 15 0, remoteWait := bits w.value 31 16, inboxMib := bits w.value 39 32 })
  | .ixCfg => modPart s p (fun P => { P with verifyAll := bit w.value 0, shiftLimit := bits w.value 15 8 })
  | .turnCfg => modPart s p (fun P => { P with promptWt := bits w.value 10 0, refundPol := bits w.value 12 11 })
  | .bktSel => setSel s acc selBkt (bits w.value 15 0)
  | .bktCfg => writeBucket s p (selOf s acc selBkt) (fun b =>
      { b with rate := bits w.value 31 0, burst := bits w.value 55 32, mode := bits w.value 57 56 })
  | .bktLevel => writeBucket s p (selOf s acc selBkt) (fun b =>
      { b with level := min (signed 48 w.value) ((b.burst * 256 : Nat) : Int) })
  | .mtrSel => setSel s acc selMtr (w.value % 2 ^ 11)
  | .mtrRate =>
    let k := mtrSelOf s acc
    if k.1 = 0 then s else writeMeter s p k.1 k.2 (fun m => { m with cir := bits w.value 23 0, pir := bits w.value 47 24 })
  | .mtrCfg =>
    let k := mtrSelOf s acc
    if k.1 = 0 then s
    else writeMeter s p k.1 k.2 (fun m =>
      { m with enable := bit w.value 0, policy := bit w.value 1, cbs := bits w.value 31 8, pbs := bits w.value 55 32 })
  | .classWt =>
    modPart s p (fun P => { P with classWt := (List.range 7).map (fun i => (i + 1, bits w.value (8 * (i + 1) + 7) (8 * (i + 1)))) })
  | .connHost => modPart s p (fun P => { P with connHostFn := bits w.value 1 0, connHost := bits w.value 63 8 * 256 })
  | .spaceSel => setSel s acc selSpace (bits w.value 11 0)
  | .spaceCfg =>
    modPart s p (fun P => { P with spaces := AMap.modify P.spaces (selOf s acc selSpace) {} (fun x =>
      { valid := bit w.value 0, read := bit w.value 1, write := bit w.value 2, check := bits w.value 23 4
        length := bits w.value 43 24, base := x.basePend.getD x.base, basePend := none }) })
  | .spaceBase =>
    if !w.covers 21 then s
    else modPart s p (fun P => { P with spaces := AMap.modify P.spaces (selOf s acc selSpace) {} (fun x =>
      { x with basePend := some (bits w.value 47 21) }) })
  | .ecCfg =>
    modPart s p (fun P => { P with ec := ⟨bits w.value 7 0, bits w.value 23 8, bits w.value 31 24, bits w.value 47 32,
                                          bits w.value 63 48⟩ })
  | .stragSel => setSel s acc selStrag (bits w.value 3 0)
  | _ => s

/-! ## Who may reach what (R437, R444, R494) -/

/-- May an accessor read a page (R494, R496). The management interface reads the SY island page alone. -/
def mayRead (s : State) (acc : Accessor) (page : Page) (off : Nat) : Bool :=
  match page, acc with
  | .module, .pf _ => true
  | .module, .ringmaster _ => true
  | .module, .mgmt => decide (off < 0x10000)
  | .module, .vf _ => false
  | .part p, .pf g => composed s p && (sliceOf s p).hostFn == g
  | .part p, .vf q => composed s p && q == p && (sliceOf s p).vf
  | .part p, .ringmaster q => composed s p && q == p
  | .part _, .mgmt => false

/-- The queue whose register an offset of a partition page lies in (R437, R500). -/
def queueAt (off : Nat) : Option Nat := if 0x1000 ≤ off ∧ off < 0x2000 then some ((off - 0x1000) / 64) else none

/-- May an accessor write an offset of a page (R437, R445, R494). -/
def mayWrite (s : State) (acc : Accessor) (page : Page) (off : Nat) : Bool :=
  match page, acc with
  | .module, .pf g =>
    decide (g = (compOf s).stewardFn) || (match instanceAt (off / 8 * 8) 0x10000 8 16 with
      | some p => composed s p && (sliceOf s p).hostFn == g
      | none => false)
  | .module, .ringmaster q => instanceAt (off / 8 * 8) 0x10000 8 16 == some q
  | .module, _ => false
  | .part p, .vf q =>
    composed s p && q == p && (sliceOf s p).vf && (match queueAt off with
      | some n => bit (sliceOf s p).hostQ n
      | none => true)
  | .part p, .ringmaster q =>
    composed s p && q == p && (match queueAt off with
      | some n => !bit (sliceOf s p).hostQ n
      | none => true)
  | .part _, _ => false

/-- Does the accessor's path to the register pages exist now: the host's link is up and has enabled the virtual function, the
islands run (R436, R438, R460, R473). -/
def canAccess (s : State) (acc : Accessor) : Bool :=
  let up := ready s || (s.life.sy == .shutdown && s.life.testing) || s.life.sy == .sanitising
  match acc with
  | .pf g => up && linkUp s g
  | .vf p => up && vfEnabled s p && linkUp s (sliceOf s p).hostFn
  | .ringmaster p => up && composed s p
  | .mgmt => mgmtAnswers s

/-- Offset of an access in its function's BAR0/1, or in the register window (R496, R497). -/
def barOffset (acc : Accessor) (page : Page) (off : Nat) : Nat :=
  match acc, page with
  | .pf _, .part p => 0x400000 + p * 0x40000 + off
  | _, _ => off

/-- The record of a violation: to the partition whose page the access targets, to the log for the module page and for a
partition that is not composed (R444, R480). -/
def regViolation (s : State) (acc : Accessor) (page : Page) (off : Nat) : State :=
  let dest := match page with
    | .part p => if composed s p then some p else none
    | .module => none
  violation s dest 0 (me s) (barOffset acc page off)

/-- A refused access: the record, with the error response to a control core's write (R10); a host's posted write gets
none. -/
def refuseWrite (s : State) (acc : Accessor) (page : Page) (off : Nat) : State :=
  let s1 := regViolation s acc page off
  match acc with
  | .ringmaster _ => emitOut s1 (.completerAbort acc)
  | _ => s1

/-! ## The accesses (R489, R490) -/

/-- One write of 8 bytes, or of 4 at an offset that is a multiple of 4, to one register (R9, R10, R489, R492). -/
def writeReg (s : State) (acc : Accessor) (page : Page) (off size v : Nat) : State :=
  let upper := off % 8 == 4
  let base := off / 8 * 8
  let whi := if size = 8 then 63 else if upper then 63 else 31
  let wlo := if size = 8 then 0 else if upper then 32 else 0
  let v := if size = 8 then v % 2 ^ 64 else v % 2 ^ 32 * 2 ^ wlo
  if !mayWrite s acc page off then refuseWrite s acc page off
  else
    match page with
    | .module =>
      match mregAt base with
      | none => s
      | some r =>
        let old := readM s acc r
        if changesStop (mfields r) old whi wlo v && !stoppedM s acc r then refuseWrite s acc page off
        else applyM s acc (writtenBy (mfields r) old whi wlo v) r
    | .part p =>
      match pregAt base with
      | none => s
      | some r =>
        let old := readP s acc p r
        if changesStop (pfields r) old whi wlo v && !stoppedP s p r then refuseWrite s acc page off
        else applyP s acc p (writtenBy (pfields r) old whi wlo v) r

/-- The form of an access: 4 bytes aligned to 4, 8 aligned to 8, or a run of aligned 8-byte words within 64 bytes (R489,
R490). -/
def goodForm (off size : Nat) : Bool :=
  decide ((size = 4 ∧ off % 4 = 0) ∨ (size % 8 = 0 ∧ 0 < size ∧ off % 8 = 0 ∧ off % 64 + size ≤ 64))

/-- A write of one or more words in ascending order (R490, R493). -/
def writeRegs (s : State) (acc : Accessor) (page : Page) (off size : Nat) (vs : List Nat) : State :=
  if !canAccess s acc then s
  else
    let s := hostTlp s acc
    if !goodForm off size then refuseWrite s acc page off
    else if size = 4 then writeReg s acc page off 4 (vs.getD 0 0)
    else (List.range (size / 8)).foldl (fun s i => writeReg s acc page (off + 8 * i) 8 (vs.getD i 0)) s

/-- What one read returns; reserved offsets read 0 (R489, R492). -/
def readReg (s : State) (acc : Accessor) (page : Page) (off size : Nat) : Nat :=
  let base := off / 8 * 8
  let v := match page with
    | .module => ((mregAt base).map (readM s acc)).getD 0
    | .part p => ((pregAt base).map (readP s acc p)).getD 0
  if size = 8 then v else if off % 8 = 4 then bits v 63 32 else bits v 31 0

/-- A read of one or more words; one that is not permitted or not of a form completes with Completer Abort (R444, R489,
R491, R494). -/
def readRegs (s : State) (acc : Accessor) (page : Page) (off size : Nat) : State :=
  if !canAccess s acc then s
  else
    let s := hostTlp s acc
    if !goodForm off size || !mayRead s acc page off then emitOut (regViolation s acc page off) (.completerAbort acc)
    else if size = 4 then emitOut s (.regRead acc (BitVec.ofNat 64 (readReg s acc page off 4)))
    else (List.range (size / 8)).foldl (fun t i => emitOut t (.regRead acc (BitVec.ofNat 64 (readReg s acc page (off + 8 * i) 8)))) s

/-- REGISTER_WRITE (R10, R489 to R494). -/
def execRegisterWrite (acc : Accessor) (page : Page) (off size : Nat) (vs : List W64) (s : State) : Answer :=
  .next (writeRegs s acc page off size (vs.map BitVec.toNat))

/-- REGISTER_READ (R444, R489, R491, R492, R494). -/
def execRegisterRead (acc : Accessor) (page : Page) (off size : Nat) (s : State) : Answer := .next (readRegs s acc page off size)

/-! ## Writes with a row of their own -/

/-- An 8-byte write. -/
def write8 (s : State) (acc : Accessor) (page : Page) (off v : Nat) : State := writeRegs s acc page off 8 [v]

/-- What a register reads now, so that a trigger may be written without changing its other fields. -/
def held (s : State) (acc : Accessor) (page : Page) (off : Nat) : Nat := readReg s acc page off 8

/-- DOORBELL: CC_Q_DOOR, whole or one half (R189, R191, R437, R441). -/
def execDoorbell (acc : Accessor) (p q size : Nat) (upper : Bool) (v : W64) (s : State) : Answer :=
  .next (writeRegs s acc (.part p) (0x1018 + 64 * q + (if size = 4 && upper then 4 else 0)) size [v.toNat])

/-- Q_BASE_WRITE: CC_Q_BASE or CC_Q_CBASE (R189). -/
def execQBaseWrite (acc : Accessor) (p q : Nat) (completion : Bool) (v : W64) (s : State) : Answer :=
  .next (write8 s acc (.part p) ((if completion then 0x1008 else 0x1000) + 64 * q) v.toNat)

/-- Q_RESUME: CC_Q_CTRL.RESUME (R189, R191). -/
def execQResume (acc : Accessor) (p q : Nat) (s : State) : Answer :=
  .next (writeRegs s acc (.part p) (0x1010 + 64 * q) 4 [putBit (bits (held s acc (.part p) (0x1010 + 64 * q)) 31 0) 26 true])

/-- SEMAPHORE_WRITE: CC_SEM (R199, R200). -/
def execSemaphoreWrite (acc : Accessor) (p sem : Nat) (v : W64) (s : State) : Answer :=
  .next (write8 s acc (.part p) (0x80 + 8 * sem) v.toNat)

/-- ERRQ_BASE_WRITE: CC_ERRQ_BASE (R488). -/
def execErrqBaseWrite (acc : Accessor) (p : Nat) (v : W64) (s : State) : Answer := .next (write8 s acc (.part p) 0x30 v.toNat)

/-- BUCKET_WRITE: TS_BKT_CFG or TS_BKT_LEVEL (R323). -/
def execBucketWrite (acc : Accessor) (p : Nat) (level : Bool) (v : W64) (s : State) : Answer :=
  .next (write8 s acc (.part p) (if level then 0x5018 else 0x5010) v.toNat)

/-- METER_WRITE: TS_MTR_RATE or TS_MTR_CFG (R311, R324). -/
def execMeterWrite (acc : Accessor) (p : Nat) (cfg : Bool) (v : W64) (s : State) : Answer :=
  .next (write8 s acc (.part p) (if cfg then 0x5050 else 0x5048) v.toNat)

/-- PREEMPT: CC_PART.PREEMPT (R440, R442). -/
def execPreempt (acc : Accessor) (p : Nat) (s : State) : Answer := .next (write8 s acc .module (0x10000 + 8 * p) 1)

/-- RESUME: CC_PART.RESUME (R441, R442). -/
def execResume (acc : Accessor) (p : Nat) (s : State) : Answer := .next (write8 s acc .module (0x10000 + 8 * p) 2)

/-- RESTART: by CC_PART.RESTART, or by what R422 and R426 name (R443). -/
def execRestart (p : Nat) (cause : RestartCause) (s : State) : Answer :=
  match cause with
  | .software acc => .next (write8 s acc .module (0x10000 + 8 * p) 4)
  | _ => if ready s && composed s p then .next (restartPart s p cause) else .next s

/-- GATE_ARM: TS_GATE_CTRL.ARM (R316). -/
def execGateArm (acc : Accessor) (s : State) : Answer :=
  .next (write8 s acc .module 0x60218 (putBit (held s acc .module 0x60218) 1 true))

/-- GATE_DISARM: TS_GATE_CTRL.DISARM (R316). -/
def execGateDisarm (acc : Accessor) (s : State) : Answer :=
  .next (write8 s acc .module 0x60218 (putBit (held s acc .module 0x60218) 2 true))

/-- GATE_ENABLE_WRITE: TS_GATE_CTRL (R316). -/
def execGateEnableWrite (acc : Accessor) (v : W64) (s : State) : Answer := .next (write8 s acc .module 0x60218 v.toNat)

/-- SNAP_ARM: SY_SNAP_CTRL.ARM (R477). -/
def execSnapArm (acc : Accessor) (s : State) : Answer := .next (write8 s acc .module 0x68 1)

/-- COUNTER_CLEAR: SY_CTR_CFG.CLEAR on the unit that the accessor's SY_CTR_SEL names (R487). -/
def execCounterClear (acc : Accessor) (s : State) : Answer :=
  .next (write8 s acc .module 0x88 (putBit (held s acc .module 0x88) 54 true))

/-- INJECT_ARM: MC_INJECT with ARM (R405). -/
def execInjectArm (acc : Accessor) (v : W64) (s : State) : Answer :=
  .next (write8 s acc .module 0x20010 (putBit v.toNat 15 true))

/-! ## Idle points, windows, configuration -/

/-- Is no segment being sent or taken in at a port (R269). -/
def portIdle (s : State) (port : Nat) : Bool :=
  (tsPort s port).segOut.isEmpty
    && (if port < 16 then (nearPort s port).segIn.isEmpty else (farPort s (port - 16)).segIn.isEmpty)

/-- PORT_IDLE_POINT: a pending CREDIT_MODE takes effect, and so does what the far end reports; the link runs in planning mode when
either end does (R11, R268, R269). -/
def execPortIdlePoint (port : Nat) (s : State) : Answer :=
  let far := Config.peerPlans s.freeCtr
  if !ready s ∨ !portIdle s port then .next s
  else if port < 16 then
    .next (modNear (draw s) port (fun x =>
      let m := x.modePend.getD x.creditMode
      { x with creditMode := m, peerPlan := far, effective := m || far, modePend := none }))
  else
    .next (modFar (draw s) (port - 16) (fun x =>
      let m := x.modePend.getD x.creditMode
      { x with creditMode := m, peerPlan := far, effective := m || far, modePend := none }))

/-- Does an accessor have a window onto a partition's range: its own virtual function alone (R435, R494). -/
def hasWindow (s : State) (acc : Accessor) (p : Nat) : Bool :=
  match acc with
  | .vf q => q == p && composed s p && (sliceOf s p).vf
  | _ => false

/-- Bytes of the packets of a window access, to the device and from it (R307, R321). -/
def barPackets : BarOp → Nat × Nat
  | .read n => (16, 16 + n)
  | .write bs => (16 + bs.length, 0)

/-- Does the host regulator of a partition pass a window access, each direction by itself (R321; log entry 129). -/
def barPasses (s : State) (p : Nat) (op : BarOp) : Bool :=
  regPasses s p 1 33 (barPackets op).1 && ((barPackets op).2 == 0 || regPasses s p 1 32 (barPackets op).2)

/-- The host regulator after a window access. -/
def barTake (s : State) (p : Nat) (op : BarOp) : State :=
  let s1 := regTake s p 1 33 (barPackets op).1
  if (barPackets op).2 = 0 then s1 else regTake s1 p 1 32 (barPackets op).2

/-- A window access that the regulator has passed: offset x addresses BASE × 0x1000_0000 + x; permitted off the record and bucket
tables, checked as R345 checks an accelerator bound to the partition (R84, R435, R497, R498). -/
def barAccess (acc : Accessor) (p off : Nat) (op : BarOp) (s : State) : State :=
  let s := hostTlp s acc
  let a := rangeBase s p + off
  let refuse := fun (s : State) => violation s (if composed s p then some p else none) 0 (me s) off
  let x : Access := ⟨p, selfParty s p, true⟩
  match op with
  | .read n =>
    let st := if hasWindow s acc p && decide (n ≤ 4096) then accessVerdict s x a n false else St.address
    if st ≠ St.ok then emitOut (refuse s) (.completerAbort acc)
    else
      let r := outsideRead s x a n
      if r.2.1 = St.ok then emitOut r.1 (.barRead r.2.2) else emitOut r.1 (.completerAbort acc)
  | .write bs =>
    let st := if hasWindow s acc p && decide (bs.length ≤ 512) then accessVerdict s x a bs.length true else St.address
    if st ≠ St.ok then refuse s else (outsideWrite s x a bs).1

/-- BAR_WINDOW_ACCESS: an access that the host regulator cannot pass waits, and those after it behind it; the row of one that
waits acts once it is the first (R321, R435). -/
def execBarWindowAccess (acc : Accessor) (p off : Nat) (op : BarOp) (s : State) : Answer :=
  if !canAccess s acc then .next s
  else
    let waits := (partOf s p).barWait
    let mine := (acc, off, op)
    if waits.contains mine then
      if waits.head? = some mine ∧ barPasses s p op then
        .next (barAccess acc p off op (barTake (modPart s p (fun P => { P with barWait := P.barWait.drop 1 })) p op))
      else .next s
    else if waits.isEmpty ∧ barPasses s p op then .next (barAccess acc p off op (barTake s p op))
    else .next (modPart s p (fun P => { P with barWait := P.barWait ++ [mine] }))

/-- The group of a function that the host can reach: a physical function, or a virtual one that it has enabled (R435, R436). -/
def functionGroup (s : State) : Accessor → Option Nat
  | .pf g => some g
  | .vf p => if vfEnabled s p then some (sliceOf s p).hostFn else none
  | _ => none

/-- The two doublewords of a 64-bit base address register of 2^k bytes that holds an address (R435): `prefetch` is its type. -/
def barWord (base k : Nat) (prefetch upper : Bool) : Nat :=
  let a := base % 2 ^ 64 / 2 ^ k * 2 ^ k
  if upper then a / 2 ^ 32 else a % 2 ^ 32 + (if prefetch then 0xC else 4)

/-- A base address register with one of its doublewords written. -/
def putBar (base : Nat) (upper : Bool) (v : Nat) : Nat :=
  if upper then base % 2 ^ 32 + v % 2 ^ 32 * 2 ^ 32 else base / 2 ^ 32 * 2 ^ 32 + v % 2 ^ 32

/-- The capabilities of a function: PCI Express, Power Management and MSI-X, and the extended SR-IOV, ARI, AER, Device Serial
Number and DOE, of which the physical function alone has SR-IOV and DOE (R434; log entry 44). -/
def hasCap (fn : Accessor) : ConfigDword → Bool
  | .header _ => true
  | .cap id _ => [0x10, 0x01, 0x11].contains id
  | .ext id _ => [0x0E, 0x01, 0x03].contains id || (match fn with
    | .pf _ => id == 0x10 || id == 0x2E
    | _ => false)

/-- A doubleword of configuration space (R2, R434 to R436; the places within a header or a capability are those of PCI Express,
log entry 44); `free` is what it holds where the manual does not say. -/
def configWord (s : State) (fn : Accessor) (free : Nat) (r : ConfigDword) : Nat :=
  let pf := match fn with
    | .pf g => some g
    | _ => none
  match r with
  | .header off =>
    if off / 4 = 0 then (if pf.isSome then 0x4801 else 0x4811) * 2 ^ 16 + 0x1E6C
    else if off / 4 = 2 then free / 2 ^ 8 % 2 ^ 24 * 2 ^ 8 + 0x21
    else if off / 4 = 4 ∨ off / 4 = 5 then
      match pf with
      | some g => barWord (hostFnOf s g).bar0 24 false (off / 4 == 5)
      | none => 0
    else if 6 ≤ off / 4 ∧ off / 4 ≤ 9 then 0
    else free % 2 ^ 32
  | .cap id off =>
    if id = 0x11 ∧ off / 4 = 0 then free % 2 ^ 32 / 2 ^ 27 * 2 ^ 27 + (if pf.isSome then 3 else 65) * 2 ^ 16 + free % 2 ^ 8 * 2 ^ 8 + 0x11
    else if id = 0x10 ∧ off / 4 = 1 then free % 2 ^ 32 / 8 * 8 + 2
    else free % 2 ^ 32
  | .ext id off =>
    match pf with
    | some g =>
      let f := hostFnOf s g
      let n := (vfsOf s g).length
      if id ≠ 0x10 then free % 2 ^ 32
      else if off / 4 = 2 then free % 2 ^ 32 / 2 * 2 + flag f.vfEnable
      else if off / 4 = 3 then n + n * 2 ^ 16
      else if off / 4 = 4 then free / 2 ^ 16 % 2 ^ 16 * 2 ^ 16 + f.numVfs
      else if off / 4 = 6 then 0x4811 * 2 ^ 16 + free % 2 ^ 16
      else if off / 4 = 9 ∨ off / 4 = 10 then barWord f.vfBar0 18 false (off / 4 == 10)
      else if off / 4 = 11 ∨ off / 4 = 12 then barWord f.vfBar2 38 true (off / 4 == 12)
      else if off / 4 = 13 ∨ off / 4 = 14 then 0
      else free % 2 ^ 32
    | none => free % 2 ^ 32

/-- What a write of configuration space sets: base addresses, VF Enable and NumVFs of a physical function, which is at most
TotalVFs; other fields have no effect that the manual gives (R435, R436; log entry 44). -/
def configSet (s : State) (g : Nat) (r : ConfigDword) (v : Nat) : State :=
  let f := hostFnOf s g
  let f1 := match r with
    | .header off => if off / 4 = 4 ∨ off / 4 = 5 then { f with bar0 := putBar f.bar0 (off / 4 == 5) v } else f
    | .ext id off =>
      if id ≠ 0x10 then f
      else if off / 4 = 2 then { f with vfEnable := bit v 0 }
      else if off / 4 = 4 then { f with numVfs := min (vfsOf s g).length (v % 2 ^ 16) }
      else if off / 4 = 9 ∨ off / 4 = 10 then { f with vfBar0 := putBar f.vfBar0 (off / 4 == 10) v }
      else if off / 4 = 11 ∨ off / 4 = 12 then { f with vfBar2 := putBar f.vfBar2 (off / 4 == 12) v }
      else f
    | _ => f
  { s with power := { s.power with fns := AMap.insert s.power.fns g f1 } }

/-- CONFIGURATION_REQUEST: Configuration Request Retry Status until READY; after it a read of what configuration space holds, or a
write of it (R2, R434 to R436, R449). -/
def execConfigurationRequest (fn : Accessor) (x : ConfigAccess) (s : State) : Answer :=
  match functionGroup s fn with
  | none => .next s
  | some g =>
    if !linkUp s g then .next s
    else if !ready s then .next (emitOut s (.configRetry fn))
    else if !hasCap fn x.reg then .next (emitOut s (.configAbsent fn))
    else
      match x.write, fn with
      | none, _ => .next (emitOut (draw s) (.configReply fn (configWord s fn (Config.freeWord s.freeCtr) x.reg)))
      | some v, .pf _ => .next (configSet s g x.reg v)
      | some _, _ => .next s

end Sys2Proof.Machine
end

