-- ==== Sys2Proof/Machine/Dispatch.lean ====
section
/-! DEFINITION. The dispatch: one arm per command of the opcode table, in the table's order. -/

namespace Sys2Proof.Machine

/-- The effect of a command on everything but the queue of waiting commands. -/
def exec (i : Instr) (s : State) : Host.Outcome State Fault Refusal :=
  match i with
  | .nop w => Sys2Proof.Machine.execNop w s
  | .fence w => Sys2Proof.Machine.execFence w s
  | .wait w => Sys2Proof.Machine.execWait w s
  | .signal w => Sys2Proof.Machine.execSignal w s
  | .timewait w => Sys2Proof.Machine.execTimewait w s
  | .snap w => Sys2Proof.Machine.execSnap w s
  | .haltq w => Sys2Proof.Machine.execHaltq w s
  | .alloc w => Sys2Proof.Machine.execAlloc w s
  | .seal w => Sys2Proof.Machine.execSeal w s
  | .free w => Sys2Proof.Machine.execFree w s
  | .release w => Sys2Proof.Machine.execRelease w s
  | .catch_ w => Sys2Proof.Machine.execCatch w s
  | .migrate w => Sys2Proof.Machine.execMigrate w s
  | .query w => Sys2Proof.Machine.execQuery w s
  | .fenceep w => Sys2Proof.Machine.execFenceep w s
  | .reclaim w => Sys2Proof.Machine.execReclaim w s
  | .attend w misses act => Sys2Proof.Machine.execAttend w misses act s
  | .merge w => Sys2Proof.Machine.execMerge w s
  | .loadact w => Sys2Proof.Machine.execLoadact w s
  | .append w => Sys2Proof.Machine.execAppend w s
  | .commit w => Sys2Proof.Machine.execCommit w s
  | .rollback w => Sys2Proof.Machine.execRollback w s
  | .emit w => Sys2Proof.Machine.execEmit w s
  | .step w => Sys2Proof.Machine.execStep w s
  | .retire w => Sys2Proof.Machine.execRetire w s
  | .openreq w => Sys2Proof.Machine.execOpenreq w s
  | .xset w => Sys2Proof.Machine.execXset w s
  | .xstat w => Sys2Proof.Machine.execXstat w s
  | .expand w => Sys2Proof.Machine.execExpand w s
  | .seek w => Sys2Proof.Machine.execSeek w s
  | .insert w => Sys2Proof.Machine.execInsert w s
  | .delete w => Sys2Proof.Machine.execDelete w s
  | .pair w => Sys2Proof.Machine.execPair w s
  | .sweep w => Sys2Proof.Machine.execSweep w s
  | .load w => Sys2Proof.Machine.execLoad w s
  | .store w => Sys2Proof.Machine.execStore w s
  | .atomic w => Sys2Proof.Machine.execAtomic w s
  | .msg w => Sys2Proof.Machine.execMsg w s
  | .put w => Sys2Proof.Machine.execPut w s
  | .get w => Sys2Proof.Machine.execGet w s
  | .send w => Sys2Proof.Machine.execSend w s
  | .connect w => Sys2Proof.Machine.execConnect w s
  | .disconnect w => Sys2Proof.Machine.execDisconnect w s
  | .encode w => Sys2Proof.Machine.execEncode w s
  | .rebuild w => Sys2Proof.Machine.execRebuild w s
  | .verify w => Sys2Proof.Machine.execVerify w s
  | .admission w => Sys2Proof.Machine.execAdmission w s
  | .charge w => Sys2Proof.Machine.execCharge w s
  | .refund w => Sys2Proof.Machine.execRefund w s
  | .instructionIssue part => Sys2Proof.Machine.execInstructionIssue part s
  | .instructionCommit part queue => Sys2Proof.Machine.execInstructionCommit part queue s
  | .semaphoreServe part sem => Sys2Proof.Machine.execSemaphoreServe part sem s
  | .waitLimitExpiry w => Sys2Proof.Machine.execWaitLimitExpiry w s
  | .doorbell acc part queue size upper value => Sys2Proof.Machine.execDoorbell acc part queue size upper value s
  | .qBaseWrite acc part queue completion value => Sys2Proof.Machine.execQBaseWrite acc part queue completion value s
  | .qResume acc part queue => Sys2Proof.Machine.execQResume acc part queue s
  | .semaphoreWrite acc part sem value => Sys2Proof.Machine.execSemaphoreWrite acc part sem value s
  | .errqBaseWrite acc part value => Sys2Proof.Machine.execErrqBaseWrite acc part value s
  | .bucketWrite acc part level value => Sys2Proof.Machine.execBucketWrite acc part level value s
  | .meterWrite acc part cfg value => Sys2Proof.Machine.execMeterWrite acc part cfg value s
  | .preempt acc part => Sys2Proof.Machine.execPreempt acc part s
  | .preemptDrained part => Sys2Proof.Machine.execPreemptDrained part s
  | .resume acc part => Sys2Proof.Machine.execResume acc part s
  | .restart part cause => Sys2Proof.Machine.execRestart part cause s
  | .gateArm acc => Sys2Proof.Machine.execGateArm acc s
  | .gateDisarm acc => Sys2Proof.Machine.execGateDisarm acc s
  | .gateEnableWrite acc value => Sys2Proof.Machine.execGateEnableWrite acc value s
  | .snapArm acc => Sys2Proof.Machine.execSnapArm acc s
  | .counterClear acc => Sys2Proof.Machine.execCounterClear acc s
  | .injectArm acc value => Sys2Proof.Machine.execInjectArm acc value s
  | .registerWrite acc page offset size values => Sys2Proof.Machine.execRegisterWrite acc page offset size values s
  | .portIdlePoint port => Sys2Proof.Machine.execPortIdlePoint port s
  | .barWindowAccess acc part offset op => Sys2Proof.Machine.execBarWindowAccess acc part offset op s
  | .releaseAtHome m => Sys2Proof.Machine.execReleaseAtHome m s
  | .catchAtHome m => Sys2Proof.Machine.execCatchAtHome m s
  | .queryAtHome m => Sys2Proof.Machine.execQueryAtHome m s
  | .allocAtHome m => Sys2Proof.Machine.execAllocAtHome m s
  | .sealAtHome m => Sys2Proof.Machine.execSealAtHome m s
  | .freeAtHome m => Sys2Proof.Machine.execFreeAtHome m s
  | .migrateAtSource m => Sys2Proof.Machine.execMigrateAtSource m s
  | .migrateBegin m => Sys2Proof.Machine.execMigrateBegin m s
  | .migrateReady m => Sys2Proof.Machine.execMigrateReady m s
  | .migrateCopyDone granule => Sys2Proof.Machine.execMigrateCopyDone granule s
  | .migrateCommit m hash => Sys2Proof.Machine.execMigrateCommit m hash s
  | .migrateDone m => Sys2Proof.Machine.execMigrateDone m s
  | .migrateAbort m => Sys2Proof.Machine.execMigrateAbort m s
  | .offer m => Sys2Proof.Machine.execOffer m s
  | .confirm m hand => Sys2Proof.Machine.execConfirm m hand s
  | .returned m => Sys2Proof.Machine.execReturned m s
  | .reply m handles => Sys2Proof.Machine.execReply m handles s
  | .queryReply m => Sys2Proof.Machine.execQueryReply m s
  | .fenceMsg f => Sys2Proof.Machine.execFenceMsg f s
  | .fenceAck m => Sys2Proof.Machine.execFenceAck m s
  | .fenceepLimit w => Sys2Proof.Machine.execFenceepLimit w s
  | .offerDeadline granule => Sys2Proof.Machine.execOfferDeadline granule s
  | .migrationDeadline granule => Sys2Proof.Machine.execMigrationDeadline granule s
  | .lostHoldEnd granule => Sys2Proof.Machine.execLostHoldEnd granule s
  | .forwardingHoldEnd handle => Sys2Proof.Machine.execForwardingHoldEnd handle s
  | .outcomeWaitExpiry part tag => Sys2Proof.Machine.execOutcomeWaitExpiry part tag s
  | .replyWaitExpiry w dead => Sys2Proof.Machine.execReplyWaitExpiry w dead s
  | .attendReq m => Sys2Proof.Machine.execAttendReq m s
  | .attendResp m => Sys2Proof.Machine.execAttendResp m s
  | .remoteWaitExpiry part tag dead => Sys2Proof.Machine.execRemoteWaitExpiry part tag dead s
  | .lateBoundExpiry w handle => Sys2Proof.Machine.execLateBoundExpiry w handle s
  | .admitRetry part => Sys2Proof.Machine.execAdmitRetry part s
  | .rebuildRequestMsg part m => Sys2Proof.Machine.execRebuildRequestMsg part m s
  | .rebuildReplyMsg part m => Sys2Proof.Machine.execRebuildReplyMsg part m s
  | .rebuildWaitExpiry part tag => Sys2Proof.Machine.execRebuildWaitExpiry part tag s
  | .demotion part => Sys2Proof.Machine.execDemotion part s
  | .respreadDone part => Sys2Proof.Machine.execRespreadDone part s
  | .mirrorSweep => Sys2Proof.Machine.execMirrorSweep s
  | .ixTempSample celsius => Sys2Proof.Machine.execIxTempSample celsius s
  | .poltexLoad k => Sys2Proof.Machine.execPoltexLoad k s
  | .poltexStore k => Sys2Proof.Machine.execPoltexStore k s
  | .poltexAtomic k => Sys2Proof.Machine.execPoltexAtomic k s
  | .poltexMsg k => Sys2Proof.Machine.execPoltexMsg k s
  | .atomicUnitApply line => Sys2Proof.Machine.execAtomicUnitApply line s
  | .data k => Sys2Proof.Machine.execData k s
  | .cpl k => Sys2Proof.Machine.execCpl k s
  | .lstate k => Sys2Proof.Machine.execLstate k s
  | .lstateTimer => Sys2Proof.Machine.execLstateTimer s
  | .deadBoundExpiry tag => Sys2Proof.Machine.execDeadBoundExpiry tag s
  | .flitReceive port flit => Sys2Proof.Machine.execFlitReceive port flit s
  | .linkTraining port lanes partner level => Sys2Proof.Machine.execLinkTraining port lanes partner level s
  | .partnerTimeout port => Sys2Proof.Machine.execPartnerTimeout port s
  | .laneFailure port lane => Sys2Proof.Machine.execLaneFailure port lane s
  | .spareLaneTrained port => Sys2Proof.Machine.execSpareLaneTrained port s
  | .contributionSegment part port src g => Sys2Proof.Machine.execContributionSegment part port src g s
  | .roundLimitExpiry part ctx => Sys2Proof.Machine.execRoundLimitExpiry part ctx s
  | .segmentArrival part port src g => Sys2Proof.Machine.execSegmentArrival part port src g s
  | .write k => Sys2Proof.Machine.execWrite k s
  | .readReq k => Sys2Proof.Machine.execReadReq k s
  | .readResp k => Sys2Proof.Machine.execReadResp k s
  | .sendPkt k => Sys2Proof.Machine.execSendPkt k s
  | .ack k => Sys2Proof.Machine.execAck k s
  | .nak k => Sys2Proof.Machine.execNak k s
  | .echo k => Sys2Proof.Machine.execEcho k s
  | .open_ k r ip => Sys2Proof.Machine.execOpen k r ip s
  | .openAck k r => Sys2Proof.Machine.execOpenAck k r s
  | .close k r ip => Sys2Proof.Machine.execClose k r ip s
  | .closeAck k r => Sys2Proof.Machine.execCloseAck k r s
  | .openRetry conn => Sys2Proof.Machine.execOpenRetry conn s
  | .closeRetry conn => Sys2Proof.Machine.execCloseRetry conn s
  | .ackTimer conn => Sys2Proof.Machine.execAckTimer conn s
  | .rtoExpiry conn => Sys2Proof.Machine.execRtoExpiry conn s
  | .rnrDelayExpiry conn => Sys2Proof.Machine.execRnrDelayExpiry conn s
  | .ccPeriodEnd conn => Sys2Proof.Machine.execCcPeriodEnd conn s
  | .stateFetchDone conn ok => Sys2Proof.Machine.execStateFetchDone conn ok s
  | .wavelengthFailure port fault => Sys2Proof.Machine.execWavelengthFailure port fault s
  | .spareWavelengthReady port => Sys2Proof.Machine.execSpareWavelengthReady port s
  | .pfcFrame port prio pause => Sys2Proof.Machine.execPfcFrame port prio pause s
  | .pfcPauseLimit port prio => Sys2Proof.Machine.execPfcPauseLimit port prio s
  | .ptpMessage m => Sys2Proof.Machine.execPtpMessage m s
  | .ppsPulse interval => Sys2Proof.Machine.execPpsPulse interval s
  | .timeSourceLoss => Sys2Proof.Machine.execTimeSourceLoss s
  | .timeCorrection => Sys2Proof.Machine.execTimeCorrection s
  | .portFrameSend port => Sys2Proof.Machine.execPortFrameSend port s
  | .pendingReexamine part tc port => Sys2Proof.Machine.execPendingReexamine part tc port s
  | .wheelSlotRelease slot => Sys2Proof.Machine.execWheelSlotRelease slot s
  | .overflowSlotRelease slot => Sys2Proof.Machine.execOverflowSlotRelease slot s
  | .gateEntryBoundary port => Sys2Proof.Machine.execGateEntryBoundary port s
  | .gateTakeover port => Sys2Proof.Machine.execGateTakeover port s
  | .leafIdleForget port part tc req => Sys2Proof.Machine.execLeafIdleForget port part tc req s
  | .mcAccess addr op user noise crcFails => Sys2Proof.Machine.execMcAccess addr op user noise crcFails s
  | .correctionCountClear => Sys2Proof.Machine.execCorrectionCountClear s
  | .scrubGranule channel noise => Sys2Proof.Machine.execScrubGranule channel noise s
  | .refreshSlot channel => Sys2Proof.Machine.execRefreshSlot channel s
  | .dramTempSample temps => Sys2Proof.Machine.execDramTempSample temps s
  | .snapLatch => Sys2Proof.Machine.execSnapLatch s
  | .containmentTimeout e => Sys2Proof.Machine.execContainmentTimeout e s
  | .engineFailure n => Sys2Proof.Machine.execEngineFailure n s
  | .coreFailure n => Sys2Proof.Machine.execCoreFailure n s
  | .syFault => Sys2Proof.Machine.execSyFault s
  | .functionLevelReset part => Sys2Proof.Machine.execFunctionLevelReset part s
  | .hostLinkLoss e => Sys2Proof.Machine.execHostLinkLoss e s
  | .hostLinkUp group trained => Sys2Proof.Machine.execHostLinkUp group trained s
  | .enAssert => Sys2Proof.Machine.execEnAssert s
  | .powerGood => Sys2Proof.Machine.execPowerGood s
  | .powerLoss enReleased => Sys2Proof.Machine.execPowerLoss enReleased s
  | .rstNAssert => Sys2Proof.Machine.execRstNAssert s
  | .moduleReset => Sys2Proof.Machine.execModuleReset s
  | .bootStep f => Sys2Proof.Machine.execBootStep f s
  | .bootCommand c => Sys2Proof.Machine.execBootCommand c s
  | .bootCommandTimeout => Sys2Proof.Machine.execBootCommandTimeout s
  | .shutdownCommand => Sys2Proof.Machine.execShutdownCommand s
  | .shutdownTestDone misr repair units => Sys2Proof.Machine.execShutdownTestDone misr repair units s
  | .sanitiseCommand releaseOwner byAuthority sigR sigS => Sys2Proof.Machine.execSanitiseCommand releaseOwner byAuthority sigR sigS s
  | .sanitiseDramDone ok => Sys2Proof.Machine.execSanitiseDramDone ok s
  | .recertCommand sigR sigS passed serial => Sys2Proof.Machine.execRecertCommand sigR sigS passed serial s
  | .exportCommand first last nonce => Sys2Proof.Machine.execExportCommand first last nonce s
  | .tenantCommand body => Sys2Proof.Machine.execTenantCommand body s
  | .firmwareInstall image => Sys2Proof.Machine.execFirmwareInstall image s
  | .firmwareActivate slot => Sys2Proof.Machine.execFirmwareActivate slot s
  | .compositionKeyInstall x y signature => Sys2Proof.Machine.execCompositionKeyInstall x y signature s
  | .managementEventRead => Sys2Proof.Machine.execManagementEventRead s
  | .pldmSensorRead => Sys2Proof.Machine.execPldmSensorRead s
  | .getVersion offers13 => Sys2Proof.Machine.execGetVersion offers13 s
  | .getCapabilities => Sys2Proof.Machine.execGetCapabilities s
  | .negotiateAlgorithms p384sha384 => Sys2Proof.Machine.execNegotiateAlgorithms p384sha384 s
  | .getDigests => Sys2Proof.Machine.execGetDigests s
  | .getCertificate slot offset len => Sys2Proof.Machine.execGetCertificate slot offset len s
  | .challenge slot nonce => Sys2Proof.Machine.execChallenge slot nonce s
  | .getMeasurements index signed nonce => Sys2Proof.Machine.execGetMeasurements index signed nonce s
  | .periodic energy => Sys2Proof.Machine.execPeriodic energy s
  | .sensorSample t => Sys2Proof.Machine.execSensorSample t s
  | .farPortTraining port wavelengths prbs13 => Sys2Proof.Machine.execFarPortTraining port wavelengths prbs13 s
  | .queueIssueStateFault part queue => Sys2Proof.Machine.execQueueIssueStateFault part queue s
  | .configurationRequest fn access => Sys2Proof.Machine.execConfigurationRequest fn access s
  | .registerRead acc page offset size => Sys2Proof.Machine.execRegisterRead acc page offset size s
  | .undervoltageLockoutRelease => Sys2Proof.Machine.execUndervoltageLockoutRelease s
  | .ref10mSignal valid => Sys2Proof.Machine.execRef10mSignal valid s
  | .nonTlaleyFrame frame => Sys2Proof.Machine.execNonTlaleyFrame frame s

end Sys2Proof.Machine
end

