-- ==== Sys2Proof/Safety.lean ====
section
/-! DEFINITION. The terms in which statements about the block are written: the state that an answer leads to, an
instruction at work, what two states share, and the invariants that every command keeps. -/

namespace Sys2Proof.Safety

open Sys2Proof.Machine

/-- The state that an answer leads to; a stop leaves the state as it was. -/
def after (a : Host.Outcome State Fault Refusal) (s : State) : State :=
  match a with
  | .next t => t
  | _ => s

/-- The instruction that a row names is at work: the module is ready, it has issued with this opcode, and its work has
not ended (R197). -/
abbrev Working (s : State) (w : IRef) (op : Nat) (i : Issued) : Prop :=
  ready s = true ∧ issuedOf s w = some i ∧ i.status = none ∧ opcodeOf i.words = op

/-- A message's row is the next thing that happens: the module is ready, and nothing that goes before the message waits on the
network-on-chip (R36, R37). -/
abbrev InTurn (s : State) (o : Out) : Prop := ready s = true ∧ nocFirst s o = true

/-- The state in which a message for a handle of this home is judged: the message is off the network-on-chip, and every
deadline of the handle that device time has reached has been acted on (R36, R104). -/
abbrev judged (s : State) (o : Out) (h : Nat) : State := lapse (takeNoc s o) h

/-- Every byte of device memory reads in t as in s. -/
def DramSame (s t : State) : Prop := ∀ a, rawByte t.mem a = rawByte s.mem a

/-- Every byte of every group's host memory reads in t as in s. -/
def HostSame (s t : State) : Prop := ∀ g a, memGet (AMap.getD t.host g []) a = memGet (AMap.getD s.host g []) a

/-- The instruction w has sent one message for each of hs and waits for their answers: it has started, and its awaits are
unanswered, in the order of hs; its time to be answered runs from now (R122). Where the messages stay in this module they stand on the network-on-chip in that order,
each with its await's tag, and no memory changes. -/
def Sent (s t : State) (w : IRef) (i : Issued) (aux : Nat) (hs : List Nat) (here : Prop) (mk : Await → Out) : Prop :=
  ∃ as : List Await,
    issuedOf t w = some { i with
      started := true, sentAt := s.now, due := s.now + answerLimit s (opcodeOf i.words), awaits := as, aux := aux } ∧
    as.map (·.handle) = hs ∧ as.map (·.pos) = List.range hs.length ∧ (∀ a ∈ as, a.status = none) ∧
    (here → t.noc = s.noc ++ as.map mk ∧ DramSame s t ∧ HostSame s t ∧ t.home = s.home)

/-- The instruction w has finished its work with a status, a RESULT and effects. -/
def Finished (t : State) (w : IRef) (status result : Nat) (fx : List Effect) : Prop :=
  ∃ j, issuedOf t w = some j ∧ j.status = some status ∧ j.result = result ∧ j.effects = fx

/-- DRAM as an operation finds it without code errors, injection or undefined contents, in its canonical form. -/
abbrev GoodMemory (s : State) : Prop :=
  memWf s.mem.dram = true ∧ s.mem.errors = [] ∧ s.mem.inject.armed = false ∧ s.mem.undef = []

/-- The n bytes from an address read bs in t, and every other byte of device memory reads as in s. -/
def Stored (s t : State) (addr : Nat) (bs : List Byte) : Prop :=
  rawBytes t.mem addr bs.length = bs ∧
    ∀ a, a < addr ∨ addr + bs.length ≤ a → rawByte t.mem a = rawByte s.mem a

/-- A frame that carries an output waits at a port. -/
def Waits (t : State) (port : Nat) (o : Out) : Prop := ∃ f ∈ (tsPort t port).frames, f.frame.what = o

/-- The instruction w has launched transactions of a type to a target, one for each (offset, bytes) of a list, in order,
each with its dead-target deadline (R341, R350). -/
def Launched (s t : State) (w : IRef) (op target : Nat) (pieces : List (Nat × Nat)) : Prop :=
  ∃ ts : List Txn, t.poltex.txns = s.poltex.txns ++ ts ∧ ts.map (fun x => (x.addr, x.len)) = pieces ∧
    ∀ x ∈ ts, x.w = some w ∧ x.op = op ∧ x.target = target ∧ x.part = w.part ∧ x.deadline = s.now + deadBoundNs s

/-- A packet that enters a near port and is taken: the port is UP, nothing that goes before it waits, its level is the agreed
one and it is for an endpoint of this level (R36, R37, R336, R339, R343, R348). -/
abbrev Arrives (s : State) (k : Packet) : Prop :=
  ready s = true ∧ nocFirst s (.packet k) = true ∧
    (s.noc.contains (.packet k) = true ∨ s.noc.any (fun x => sameLane x (.packet k)) = false) ∧ (nearPort s k.port).state = .up ∧ waitsBehind s k = false ∧
    k.level = (nearPort s k.port).level ∧ k.dst < 128

/-- Nothing of its priority waits in a far port's receive buffer before a frame (R361). -/
abbrev FirstAt (s : State) (port : Nat) (o : Out) : Prop :=
  let here := ((farPort s port).rx.filter (fun e => rxHi e.1 == rxHi o)).map Prod.fst
  here = [] ∨ here.head? = some o

/-- A packet that a connection takes at its end: the port is UP and nothing waits there before it, the connection is OPEN with
the packet's epoch and level, its state is on chip and the packet is not marked (R361, R366, R367, R373). -/
abbrev Enters (s : State) (k : TPacket) (c : Conn) : Prop :=
  ready s = true ∧ (farPort s k.port).state = .up ∧ FirstAt s k.port (.tpacket k) ∧ connOf s k.dconn = c ∧ c.state = .open_ ∧ c.lcepoch = k.dcepoch ∧
    k.level = c.level ∧ k.dev = c.device ∧ c.onChip = true ∧ k.ce = false

/-- An accessor's write of an offset goes through: its path to the pages exists, and the register is one that it may write
(R437, R438, R494). -/
abbrev Reaches (s : State) (acc : Accessor) (page : Page) (off : Nat) : Prop :=
  canAccess s acc = true ∧ mayWrite s acc page off = true

/-- A frame has left its port: after what its link sends of it come the frame and what goes with it (R320, R329). -/
def Left (s t : State) (f : TxFrame) : Prop :=
  ∃ sent, t.out = s.out ++ sent ++ f.what :: f.also.toList

/-- Latch n has taken unit u: its shadows hold what its counters held, which stand (R478). -/
def Latched (s t : State) (n u : Nat) : Prop :=
  (AMap.getD t.counters.units u {}).shadow = (AMap.getD s.counters.units u {}).value ∧
  (AMap.getD t.counters.units u {}).shadowNo = n ∧
  (AMap.getD t.counters.units u {}).value = (AMap.getD s.counters.units u {}).value

/-- A queue is torn down (R421). -/
def TornDown (t : State) (p q : Nat) : Prop :=
  (queueOf (partOf t p) q).cause = 0x07 ∧ (queueOf (partOf t p) q).enable = false

/-- The newest entry of the service record in t is the next one after s's newest: its type, its SEQ and its body (R464). -/
def Logged (s t : State) (etype : Nat) (body : List Byte) : Prop :=
  ∃ e, t.flash.logbook = e :: s.flash.logbook ∧ e.etype = etype ∧ e.seq = s.flash.nextSeq ∧ e.body = body ∧
    t.flash.nextSeq = s.flash.nextSeq + 1

/-- The service record has room for an entry with a body of n bytes above its last MiB (R464). -/
abbrev HasRoom (s : State) (n : Nat) : Prop := s.flash.roomUsed + 0x50 + n + 96 + 0x100000 ≤ logArea

/-- The composition record in force, if any, meets the rules of R432. -/
def CompositionSound (s : State) : Prop := ∀ c, s.comp = some c → compOk c = true

/-- The form that every step keeps: memories in their canonical form, maps with their keys rising. -/
def Formed (s : State) : Prop :=
  memWf s.mem.dram = true ∧ (∀ g, memWf (AMap.getD s.host g []) = true) ∧
    AMap.wf s.index.array = true ∧ AMap.wf s.index.shadow = true ∧ AMap.wf s.tlaley.conns = true

/-- The commands that may change the composition record in force: the steps of a start, and the resets and losses of
power that end one (R433, R447, R449). -/
def MayCompose : Instr → Bool
  | .bootStep _ => true
  | .powerGood => true
  | .powerLoss _ => true
  | .rstNAssert => true
  | .moduleReset => true
  | .recertCommand _ _ _ _ => true
  | .sensorSample _ => true
  | _ => false

end Sys2Proof.Safety
end

