-- ==== Sys2Proof/WellFormed.lean ====
section
/-! DEFINITION. Well-formed commands: every operand lies in the range of the manual's field for it (the widths of R2, R90,
R97, R149, R188, R199, R248, R335, R363, R489, R499 and R500). The meanings are total: they answer ill-formed commands too. -/

namespace Sys2Proof

/-- A partition number (R87). -/
def partOk (p : Nat) : Bool := decide (p < 16)

/-- A command queue of a partition; 64 is the ringmaster's own (R188). -/
def queueOk (q : Nat) : Bool := decide (q ≤ 64)

/-- A near port (R329), a far port (R356), any port with its host ports at 32 (R307). -/
def nearPortOk (n : Nat) : Bool := decide (n < 16)
def farPortOk (n : Nat) : Bool := decide (n < 16)
def portOk (n : Nat) : Bool := decide (n ≤ 32)

/-- A traffic class (R307). -/
def classOk (c : Nat) : Bool := decide (c < 8)

/-- A 64-bit handle and a 32-bit tag (R53, R97). -/
def handleOk (h : Nat) : Bool := decide (h < 2 ^ 64)
def tagOk (t : Nat) : Bool := decide (t < 2 ^ 32)

def IRef.wf (w : IRef) : Bool := partOk w.part && queueOk w.queue && decide (w.idx < 2 ^ 32)

def Party.wf (x : Party) : Bool := decide (x.domain < 2 ^ 12 ∧ x.ep < 2 ^ 10 ∧ x.epoch < 2 ^ 32) && partOk x.part

def Accessor.wf : Accessor → Bool
  | .pf g => decide (g < 4)
  | .vf p => partOk p
  | .ringmaster p => partOk p
  | .mgmt => true

/-- A page and an offset in it (R496, R497). -/
def Page.wf : Page → Nat → Bool
  | .module, off => decide (off < 0x400000)
  | .part p, off => partOk p && decide (off < 0x40000)

def TMsg.wf (m : TMsg) : Bool :=
  m.src.wf && m.peer.wf && tagOk m.tag && handleOk m.handle && handleOk m.newHandle && partOk m.toPart
    && decide (m.level < 16 ∧ m.ttype < 256 ∧ m.status < 256 ∧ m.toEpoch < 2 ^ 32)

def FenceMsg.wf (f : FenceMsg) : Bool :=
  partOk f.part && f.sender.wf && decide (f.level < 16 ∧ f.domain < 2 ^ 12 ∧ f.ep < 2 ^ 10 ∧ f.fenceEpoch < 2 ^ 32
    ∧ f.sigR < 2 ^ 384 ∧ f.sigS < 2 ^ 384) && f.reserved.length == 41

def AttendMsg.wf (m : AttendMsg) : Bool :=
  m.src.wf && partOk m.tpart && tagOk m.tag && decide (m.level < 16 ∧ m.status < 256 ∧ m.nent < 2 ^ 16)

def Packet.wf (k : Packet) : Bool :=
  nearPortOk k.port && classOk k.tc && partOk k.spart
    && decide (k.level < 16 ∧ k.src < 2 ^ 10 ∧ k.dst < 2 ^ 10 ∧ k.tag < 2 ^ 16 ∧ k.addr < 2 ^ 48 ∧ k.payload.length ≤ 256)

def TPacket.wf (k : TPacket) : Bool :=
  farPortOk k.port && classOk k.tc && partOk k.spart
    && decide (k.level < 16 ∧ k.dconn < 2 ^ 20 ∧ k.psn < 2 ^ 24 ∧ k.payload.length ≤ 8192)

def ConnRecord.wf (r : ConnRecord) : Bool :=
  partOk r.tpart && decide (r.sdomain < 2 ^ 12 ∧ r.sep < 2 ^ 10 ∧ r.sconn < 2 ^ 20 ∧ r.status < 256)

def Segment.wf (g : Segment) : Bool := decide (g.level < 16 ∧ g.wire < 8 ∧ g.native < 8 ∧ g.rctx < 64 ∧ g.dest < 2 ^ 48)

def RebuildMsg.wf (m : RebuildMsg) : Bool := m.src.wf && handleOk m.newHandle && decide (m.tag < 2 ^ 64)

def ErrContext.wf : ErrContext → Bool
  | .instr w => w.wf
  | .request p i => partOk p && decide (i < 2 ^ 20)
  | .queue p q => partOk p && queueOk q
  | .partition p => partOk p

def RestartCause.wf : RestartCause → Bool
  | .software acc => acc.wf
  | _ => true

/-- One access touches at most one granule of 256 bytes (R38). -/
def MemOp.wf : MemOp → Bool
  | .read n => decide (n ≤ 256)
  | .write bs => decide (bs.length ≤ 256)

def PinNoise.wf (n : PinNoise) : Bool := decide (n.word % 16 = 0 ∧ n.symbol < 36 ∧ 1 ≤ n.value ∧ n.value < 16)

/-- A register access of R489 or R490: 4 bytes, or up to 8 words of 8. -/
def accessOk (acc : Accessor) (page : Page) (off size : Nat) : Bool := acc.wf && page.wf off && decide (size ≤ 64)

/-- Is a command well-formed. -/
def Instr.wf : Instr → Bool
  | .nop w | .fence w | .wait w | .signal w | .timewait w | .snap w | .haltq w | .alloc w | .seal w | .free w | .release w
  | .catch_ w | .migrate w | .query w | .fenceep w | .reclaim w | .merge w | .loadact w | .append w | .commit w | .rollback w
  | .emit w | .step w | .retire w | .openreq w | .xset w | .xstat w | .expand w | .seek w | .insert w | .delete w | .pair w
  | .sweep w | .load w | .store w | .atomic w | .msg w | .put w | .get w | .send w | .connect w | .disconnect w | .encode w
  | .rebuild w | .verify w | .admission w | .charge w | .refund w | .waitLimitExpiry w | .fenceepLimit w => w.wf
  | .attend w ms _ => w.wf && ms.all (fun e => decide (e.1 < 16))
  | .replyWaitExpiry w _ => w.wf
  | .lateBoundExpiry w h => w.wf && handleOk h
  | .instructionIssue p | .preemptDrained p | .admitRetry p | .demotion p | .respreadDone p | .functionLevelReset p => partOk p
  | .instructionCommit p q | .queueIssueStateFault p q => partOk p && queueOk q
  | .semaphoreServe p i => partOk p && decide (1 ≤ i ∧ i < 16)
  | .doorbell acc p q size _ _ => acc.wf && partOk p && decide (q < 64 ∧ (size = 4 ∨ size = 8))
  | .qBaseWrite acc p q _ _ => acc.wf && partOk p && decide (q < 64)
  | .qResume acc p q => acc.wf && partOk p && decide (q < 64)
  | .semaphoreWrite acc p i _ => acc.wf && partOk p && decide (1 ≤ i ∧ i < 16)
  | .errqBaseWrite acc p _ => acc.wf && partOk p
  | .bucketWrite acc p _ _ => acc.wf && partOk p
  | .meterWrite acc p _ _ => acc.wf && partOk p
  | .preempt acc p => acc.wf && partOk p
  | .resume acc p => acc.wf && partOk p
  | .restart p c => partOk p && c.wf
  | .gateArm acc | .gateDisarm acc | .snapArm acc | .counterClear acc => acc.wf
  | .gateEnableWrite acc _ => acc.wf
  | .injectArm acc _ => acc.wf
  | .registerWrite acc page off size vs => accessOk acc page off size && vs.length == (if size = 4 then 1 else size / 8)
  | .registerRead acc page off size => accessOk acc page off size
  | .portIdlePoint port => decide (port < 32)
  | .barWindowAccess acc p _ _ => acc.wf && partOk p
  | .releaseAtHome m | .catchAtHome m | .queryAtHome m | .migrateReady m | .migrateDone m | .migrateAbort m | .offer m
  | .returned m | .queryReply m | .fenceAck m => m.wf
  | .migrateCommit m _ => m.wf
  | .confirm m _ => m.wf
  | .reply m hs => m.wf && hs.all handleOk
  | .allocAtHome m => m.src.wf && m.owner.wf && tagOk m.tag && partOk m.part
  | .sealAtHome m => m.src.wf && tagOk m.tag && handleOk m.handle
  | .freeAtHome m => m.src.wf && tagOk m.tag && handleOk m.handle
  | .migrateAtSource m => m.src.wf && m.dest.wf && tagOk m.tag && handleOk m.handle
  | .migrateBegin m => m.src.wf && m.dest.wf && m.owner.wf && tagOk m.tag && handleOk m.handle
  | .migrateCopyDone g | .offerDeadline g | .migrationDeadline g | .lostHoldEnd g => decide (g < 2 ^ 32)
  | .forwardingHoldEnd h => handleOk h
  | .fenceMsg f => f.wf
  | .outcomeWaitExpiry p t => partOk p && tagOk t
  | .attendReq m | .attendResp m => m.wf
  | .remoteWaitExpiry p t _ => partOk p && tagOk t
  | .rebuildRequestMsg p m | .rebuildReplyMsg p m => partOk p && m.wf
  | .rebuildWaitExpiry p t => partOk p && tagOk t
  | .mirrorSweep | .lstateTimer | .timeSourceLoss | .timeCorrection | .correctionCountClear | .snapLatch | .syFault
  | .enAssert | .powerGood | .rstNAssert | .moduleReset | .bootCommandTimeout | .shutdownCommand | .managementEventRead
  | .pldmSensorRead | .getCapabilities | .getDigests | .undervoltageLockoutRelease => true
  | .ixTempSample t => decide (t < 256)
  | .poltexLoad k | .poltexStore k | .poltexAtomic k | .poltexMsg k | .data k | .cpl k | .lstate k => k.wf
  | .atomicUnitApply line => decide (line < 2 ^ 48)
  | .deadBoundExpiry tag => decide (tag < 2 ^ 16)
  | .flitReceive port flit => nearPortOk port && flit.length == 272
  | .linkTraining port lanes partner level => nearPortOk port && decide (lanes < 2 ^ 9 ∧ partner < 2 ^ 10 ∧ level < 16)
  | .partnerTimeout port | .spareLaneTrained port => nearPortOk port
  | .laneFailure port lane => nearPortOk port && decide (lane < 9)
  | .contributionSegment p port _ g => partOk p && decide (port < 32) && g.wf
  | .roundLimitExpiry p ctx => partOk p && decide (ctx < 64)
  | .segmentArrival p port _ g => partOk p && decide (port < 32) && g.wf
  | .write k | .readReq k | .readResp k | .sendPkt k | .ack k | .nak k | .echo k => k.wf
  | .open_ k r ip | .close k r ip => k.wf && r.wf && ip.length == 16
  | .openAck k r | .closeAck k r => k.wf && r.wf
  | .openRetry n | .closeRetry n | .ackTimer n | .rtoExpiry n | .rnrDelayExpiry n | .ccPeriodEnd n => decide (n < 2 ^ 20)
  | .stateFetchDone n _ => decide (n < 2 ^ 20)
  | .wavelengthFailure port e => farPortOk port && decide (e.wavelength < 9)
  | .spareWavelengthReady port => farPortOk port
  | .nonTlaleyFrame e => farPortOk e.port
  | .pfcFrame port prio _ => farPortOk port && decide (prio < 8)
  | .pfcPauseLimit port prio => farPortOk port && decide (prio < 8)
  | .ptpMessage m => farPortOk m.port && decide (m.domain < 256 ∧ m.seq < 2 ^ 16)
  | .ppsPulse _ => true
  | .portFrameSend port | .gateEntryBoundary port | .gateTakeover port => portOk port
  | .pendingReexamine p tc port => partOk p && classOk tc && portOk port
  | .wheelSlotRelease _ | .overflowSlotRelease _ => true
  | .leafIdleForget port p tc _ => portOk port && partOk p && classOk tc
  | .mcAccess a op _ noise _ => decide (a < 0x3000000000) && op.wf && noise.all PinNoise.wf
  | .scrubGranule c noise => decide (c < 24) && noise.all PinNoise.wf
  | .refreshSlot c => decide (c < 24)
  | .dramTempSample ts => ts.length == 48
  | .containmentTimeout e => e.ctx.wf
  | .engineFailure n | .coreFailure n => decide (n < 16)
  | .hostLinkLoss e => decide (e.group < 4)
  | .hostLinkUp g x => decide (g < 4 ∧ x.lanes ≤ 16)
  | .configurationRequest fn x => fn.wf && (match x.reg with
    | .header off => decide (off < 64)
    | .cap id off => decide (id < 256 ∧ off < 256)
    | .ext id off => decide (id < 65536 ∧ off < 4096)) && x.write.all (fun v => decide (v < 2 ^ 32))
  | .powerLoss _ | .ref10mSignal _ | .sanitiseDramDone _ | .bootStep _ | .sensorSample _ | .periodic _ => true
  | .bootCommand c => decide (c.slot < 64)
  | .shutdownTestDone misr repair units => misr.length == 40 && repair.length == 256 && units.all (fun g => decide (g < 40))
  | .sanitiseCommand _ _ r v => decide (r < 2 ^ 384 ∧ v < 2 ^ 384)
  | .recertCommand r v _ _ => decide (r < 2 ^ 384 ∧ v < 2 ^ 384)
  | .exportCommand _ _ nonce => nonce.length == 32
  | .tenantCommand body => body.length == 32
  | .firmwareInstall image => decide (image.length ≤ 0x2000000)
  | .firmwareActivate slot => decide (slot < 2)
  | .compositionKeyInstall x y _ => decide (x < 2 ^ 384 ∧ y < 2 ^ 384)
  | .getVersion _ | .negotiateAlgorithms _ => true
  | .getCertificate slot _ _ => decide (slot < 8)
  | .challenge slot nonce => decide (slot < 8) && nonce.length == 32
  | .getMeasurements index _ nonce => decide (index < 256) && nonce.length == 32
  | .farPortTraining port wls _ => farPortOk port && decide (wls < 2 ^ 9)

end Sys2Proof
end

