-- ==== Sys2Proof/Certificates/Slice0/Obligations.lean ====
section
/-! DEFINITION. The statements for the provers. Each says in its docstring which rule of the manual it formalises, or
which choice of the model it rests on. -/

open Sys2Proof Sys2Proof.Machine Sys2Proof.Safety

/-! ## The block as a whole -/

/-- A step with a command waiting is the command at the front of the queue, run on the state with the queue's rest: the
first in is the first out. -/
def Obligations.StepRunsTheFrontCommand : Prop :=
  ∀ (c : Instr) (rest : List Instr) (s : State),
    s.pending = c :: rest → step s = exec c { s with pending := rest }

/-- With no command waiting a step is a tick of the clock (log entry 2, the model's choice): device time advances by one
nanosecond unless a backwards slew holds it; each counter unit counts the clock cycles that begin and the events that last for
cycles, taking one fresh free value for those that the pace inside the module decides (log entry 88); and nothing but the clock,
the powered time and the counts changes. -/
def Obligations.IdleStepTicks : Prop :=
  ∀ s : State, s.pending = [] →
    ∃ t, step s = .next t ∧
      t.now = (if s.time.hold then s.now else s.now + 1) ∧
      t = { s with
        now := t.now, time := { s.time with hold := false }, freeCtr := s.freeCtr + 1
        flash := { s.flash with poweredNs := if s.power.pgood then s.flash.poweredNs + 1 else s.flash.poweredNs }
        counters := { s.counters with units := t.counters.units } }

/-- No command adds, drops or reorders waiting commands: exec leaves the queue alone. Only the steps of a start, and the resets
and losses of power that end one, change the composition record in force (R433). -/
def Obligations.CommandsKeepQueueAndComposition : Prop :=
  (∀ (c : Instr) (s t : State), exec c s = .next t → t.pending = s.pending) ∧
  (∀ (c : Instr) (s t : State), MayCompose c = false → exec c s = .next t → t.comp = s.comp)

/-- Every step keeps the invariant that the record in force, if any, meets the rules of R432. -/
def Obligations.StepKeepsCompositionSound : Prop :=
  ∀ s t : State, CompositionSound s → step s = .next t → CompositionSound t

/-- What reset leaves (R447, R473): SY_STATE reads BOOT with no failed step, no record is in force, every partition has
not started, no command waits, and DRAM lists no byte. -/
def Obligations.ResetState : Prop :=
  State.reset.life.sy = .boot ∧ State.reset.life.quick = false ∧ State.reset.life.fail = 0 ∧ State.reset.life.cause = 0 ∧
  State.reset.comp = none ∧ State.reset.pending = [] ∧ State.reset.mem.dram = [] ∧
  (∀ p, (partOf State.reset p).state = .notStarted) ∧ CompositionSound State.reset ∧ memWf State.reset.mem.dram = true

/-! ## Instructions in flight, the Control group, semaphores -/

/-- Ending an instruction's work gives that instruction its status, RESULT and effects, and changes nothing else: no other
instruction, queue, partition or part of the module (R205: effects become visible at the commit alone). -/
def Obligations.FinishChangesOnlyItsInstruction : Prop :=
  ∀ (s : State) (w : IRef) (i : Issued) (st r : Nat) (fx : List Effect),
    issuedOf s w = some i →
      issuedOf (finish s w st r fx) w = some { i with
        status := some st, result := r, effects := fx, doneAt := if i.status.isNone then s.now else i.doneAt } ∧
      (∀ v, (v.part, v.queue, v.idx) ≠ (w.part, w.queue, w.idx) → issuedOf (finish s w st r fx) v = issuedOf s v) ∧
      (∀ p, p ≠ w.part → partOf (finish s w st r fx) p = partOf s p) ∧
      (∃ qs, partOf (finish s w st r fx) w.part = { partOf s w.part with queues := qs }) ∧
      (∀ q, ∃ is, queueOf (partOf (finish s w st r fx) w.part) q = { queueOf (partOf s w.part) q with issued := is }) ∧
      (∃ ps, finish s w st r fx = { s with parts := ps })

/-- NOP, SIGNAL, SNAP, TIMEWAIT and FENCE end their work (R204, R211): at once, but a TIMEWAIT at its time and a FENCE
with FABRIC once nothing of its queue is unacknowledged; until then those two wait. -/
def Obligations.ControlInstructionsEnd : Prop :=
  ∀ (s : State) (w : IRef) (i : Issued),
    (Working s w 0x00 i → exec (.nop w) s = .next (finish s w St.ok 0)) ∧
    (Working s w 0x01 i → exec (.fence w) s =
      .next (if flagOf i.words 24 && fabricBusy s w.part w.queue then s else finish s w St.ok 0)) ∧
    (Working s w 0x03 i → exec (.signal w) s = .next (finish s w St.ok 0
      [if flagOf i.words 24 then .semSet (bits (opA i.words) 3 0) (bits (opB i.words) 31 0)
       else .semAdd (bits (opA i.words) 3 0) (bits (opB i.words) 31 0)])) ∧
    (Working s w 0x04 i → exec (.timewait w) s =
      .next (if (if flagOf i.words 24 then i.issuedAt + opB i.words else opB i.words) ≤ localTime s Isl.cc
        then finish s w St.ok 0 [.stampTime] else s)) ∧
    (Working s w 0x05 i → exec (.snap w) s =
      .next (finish s w St.ok 0 [.snapArm (if flagOf i.words 24 then none else some (opB i.words))]))

/-- A HALTQ that names another queue halts it with CAUSE 0x02 unless it is halted already, and ends when that queue has no
instruction in flight; it keeps whether it halted the queue, for the case that it is abandoned (R208). One that names its own
queue ends once it is the oldest there (R211). -/
def Obligations.HaltqHalts : Prop :=
  ∀ (s : State) (w : IRef) (i : Issued), Working s w 0x06 i →
    let q := bits (opA i.words) 5 0
    (q ≠ w.queue → ∃ t, exec (.haltq w) s = .next t ∧
      (queueOf (partOf t w.part) q).cause =
        (if (queueOf (partOf s w.part) q).cause = 0 then 0x02 else (queueOf (partOf s w.part) q).cause) ∧
      let halted := { i with aux := if (queueOf (partOf s w.part) q).cause = 0 then 1 else i.aux }
      ((queueOf (partOf s w.part) q).issued = [] →
        issuedOf t w = some { halted with status := some St.ok, result := 0, effects := [], doneAt := s.now }) ∧
      ((queueOf (partOf s w.part) q).issued ≠ [] → issuedOf t w = some halted)) ∧
    (q = w.queue → (queueOf (partOf s w.part) q).issued.head? = some i →
      exec (.haltq w) s = .next (finish s w St.ok 0 [.halted q]))

/-- A WAIT whose semaphore holds its count with no waiter before it takes its tokens and ends with the value after the take; one
whose limit has passed before it takes them completes with TIMEOUT and takes nothing (R200, R211). -/
def Obligations.WaitTakesItsTokensOrTimesOut : Prop :=
  (∀ (s : State) (w : IRef) (i : Issued), Working s w 0x02 i →
     (partOf s w.part).waiters = [] →
     bits (opB i.words) 31 0 ≤ (semOf s w.part (bits (opA i.words) 3 0)).value →
     ∃ t, exec (.wait w) s = .next t ∧
       issuedOf t w = some { i with
         status := some St.ok
         result := (semOf s w.part (bits (opA i.words) 3 0)).value - bits (opB i.words) 31 0, effects := [], doneAt := s.now } ∧
       (semOf t w.part (bits (opA i.words) 3 0)).value
         = (semOf s w.part (bits (opA i.words) 3 0)).value - bits (opB i.words) 31 0 ∧
       (∀ k, k ≠ bits (opA i.words) 3 0 → semOf t w.part k = semOf s w.part k) ∧
       (partOf t w.part).waiters = []) ∧
  (∀ (s : State) (w : IRef) (i : Issued), Working s w 0x02 i →
     bits (opB i.words) 63 32 ≠ 0 → i.issuedAt + bits (opB i.words) 63 32 * 1000 ≤ s.now →
     ∃ t, exec (.waitLimitExpiry w) s = .next t ∧
       issuedOf t w = some { i with status := some St.timeout, result := 0, effects := [], doneAt := s.now } ∧
       (∀ k, semOf t w.part k = semOf s w.part k))

/-- The first waiter on a semaphore whose count covers its need is granted its tokens before any later one is looked at, and a
first waiter whose need is not covered keeps every later one waiting (R200). An addition that would take a semaphore past
0xFFFF_FFFF leaves it at 0xFFFF_FFFF and sets OVERFLOW; any other adds to the count alone, and no other semaphore changes
(R202). -/
def Obligations.SemaphoresServeAndAdd : Prop :=
  (∀ (s : State) (p sem : Nat) (x : Waiter), ready s = true → (partOf s p).state = .running →
     firstWaiter s p sem = some x →
     (x.need ≤ (semOf s p sem).value →
       exec (.semaphoreServe p sem) s = .next (serveSem (grant s p x) p sem ((partOf s p).waiters.length - 1))) ∧
     ((semOf s p sem).value < x.need → exec (.semaphoreServe p sem) s = .next s)) ∧
  (∀ (s : State) (p sem n : Nat), sem ≠ 0 →
     ((semOf s p sem).value + n ≤ 0xFFFFFFFF →
       semOf (semAdd s p sem n) p sem = { semOf s p sem with value := (semOf s p sem).value + n }) ∧
     (0xFFFFFFFF < (semOf s p sem).value + n →
       semOf (semAdd s p sem n) p sem = { value := 0xFFFFFFFF, overflow := true }) ∧
     (∀ k, k ≠ sem → semOf (semAdd s p sem n) p k = semOf s p k))

/-! ## Issue and commit -/

/-- The oldest instruction of a queue, ended with status OK and nothing left to make visible, no record due and no signal,
commits: it leaves the queue, HEAD advances past its words, and no memory changes (R197, R201, R205). With a completion
record due, and a ring in device memory that has room, the commit writes the 16 bytes of the record at the ring's next
place, and CPROD counts it (R206). A queue whose instruction completes with an error while HALT_ON_ERROR is 1 halts with
CAUSE 0x01, unless it is halted already, and the instruction does not signal. -/
def Obligations.CommitsEndInstructions : Prop :=
  ((∀ (s : State) (p q : Nat) (i : Issued) (rest : List Issued),
      ready s = true → q < 64 → (partOf s p).state = .running → (queueOf (partOf s p) q).cause ≠ 0x07 →
      (queueOf (partOf s p) q).frozen = none →
      (queueOf (partOf s p) q).issued = i :: rest → (∀ j ∈ rest, j.idx ≠ i.idx) →
      i.status = some St.ok → i.effects = [] → i.undefs = [] → cplOf i.words = false → signalOf i.words = 0 →
      ∃ t, exec (.instructionCommit p q) s = .next t ∧
        queueOf (partOf t p) q =
          { queueOf (partOf s p) q with issued := rest, head := (i.idx + wordsTaken i) % 2 ^ 32 } ∧
        DramSame s t ∧ HostSame s t ∧ (∀ k, semOf t p k = semOf s p k) ∧
        (∀ k, k ≠ p → partOf t k = partOf s k)) ∧
   (∀ (s : State) (p q st r : Nat) (i : Issued) (rest : List Issued),
      let x := queueOf (partOf s p) q
      ready s = true → q < 64 → (partOf s p).state = .running → x.cause ≠ 0x07 →
      x.issued = i :: rest → i.status = some st → i.result = r → i.effects = [] → i.stuck = false →
      st ≠ St.ok ∨ cplOf i.words = true → signalOf i.words = 0 →
      x.cplHost = false → cplFull x = false → inRange s p (cplAddr x) 16 = true →
      memWf s.mem.dram = true → s.mem.errors = [] → s.mem.inject.armed = false → s.mem.undef = [] →
      ∃ t, exec (.instructionCommit p q) s = .next t ∧
        rawBytes t.mem (cplAddr x) 16 = cplBytes q x i st r false ∧
        (∀ a, a < cplAddr x ∨ cplAddr x + 16 ≤ a → rawByte t.mem a = rawByte s.mem a) ∧
        (queueOf (partOf t p) q).cprod = (x.cprod + 1) % 2 ^ 32 ∧
        i ∉ (queueOf (partOf t p) q).issued)) ∧
  (∀ (s : State) (p q st : Nat) (i : Issued) (rest : List Issued),
     let x := queueOf (partOf s p) q
     ready s = true → q < 64 → (partOf s p).state = .running → x.cause = 0 → x.haltOnErr = true →
     x.issued = i :: rest → i.status = some st → st ≠ St.ok → i.effects = [] → i.stuck = false →
     cplFull x = false → cplWritable s p x = true →
     ∃ t, exec (.instructionCommit p q) s = .next t ∧ (queueOf (partOf t p) q).cause = 0x01 ∧
       (∀ k, semOf t p k = semOf s p k))

/-- INSTRUCTION_ISSUE always completes (R190, R193 to R198): it changes nothing where the module is not ready, the partition
does not run, or neither a queue nor the inbox has anything to issue. Where one queue alone may issue, its whole next
instruction joins those in flight with the status that the first failed check of R196 decides, none where all pass, and the
queue's next word is the one after it; one with a length outside 1 to 4 issues with BAD_LENGTH and halts the queue with CAUSE
0x04. No byte of memory changes, but that the destination of a restart-class instruction is undefined from then on (R209). The
checks come in order: a level other than 1 is BAD_LEVEL whatever else is wrong, then an opcode outside the tables BAD_OPCODE,
then a wrong length BAD_LENGTH, then an opcode that the role does not run NOT_IN_ROLE. -/
def Obligations.IssueFollowsTheChecks : Prop :=
  (∀ (s : State) (p : Nat), ∃ t, exec (.instructionIssue p) s = .next t ∧
     (ready s = false ∨ composed s p = false ∨ (partOf s p).state ≠ .running → t = s) ∧
     ((∀ q, mayIssue s p q = false) → (partOf s p).attendInbox = [] → t = s)) ∧
  (∀ (s : State) (p q : Nat),
     let x := queueOf (partOf s p) q
     ready s = true → composed s p = true → (partOf s p).state = .running → (partOf s p).attendInbox = [] →
     mayIssue s p q = true → (∀ k, k ≠ q → mayIssue s p k = false) → (∀ i ∈ x.issued, i.idx ≠ x.next) →
     (∀ ws, fetchNext s p q = .whole ws → (waitOf ws = 0 ∨ x.granted = waitOf ws ∨ (issueStatus s p ws).isSome = true) →
        (opcodeOf ws ≠ 0x01 ∨ x.issued = []) →
        ∃ t j, exec (.instructionIssue p) s = .next t ∧
          (queueOf (partOf t p) q).issued = x.issued ++ [j] ∧ j.idx = x.next ∧ j.words = ws ∧
          j.status = issueStatus s p ws ∧ j.issuedAt = s.now ∧
          (queueOf (partOf t p) q).next = (x.next + lenOf ws) % 2 ^ 32 ∧
          (issueStatus s p ws ≠ some St.address → HostSame s t ∧ (destRegions s p ws = [] → DramSame s t))) ∧
     (∀ ws, fetchNext s p q = .badLen ws →
        ∃ t j, exec (.instructionIssue p) s = .next t ∧
          (queueOf (partOf t p) q).issued = x.issued ++ [j] ∧ j.idx = x.next ∧ j.status = some St.badLength ∧
          (queueOf (partOf t p) q).cause = 0x04)) ∧
  (∀ (s : State) (p : Nat) (ws : List Nat),
     (levelOf ws ≠ 1 → issueStatus s p ws = some St.badLevel) ∧
     (levelOf ws = 1 → opLen (opcodeOf ws) = none → issueStatus s p ws = some St.badOpcode) ∧
     (∀ n, levelOf ws = 1 → opLen (opcodeOf ws) = some n → lenOf ws ≠ (if flagOf ws 24 then n.2 else n.1) →
       issueStatus s p ws = some St.badLength) ∧
     (∀ n, levelOf ws = 1 → opLen (opcodeOf ws) = some n → lenOf ws = (if flagOf ws 24 then n.2 else n.1) →
       roleRuns (roleOf s) (opcodeOf ws) = false → issueStatus s p ws = some St.notInRole))

/-! ## The home (04_trapeze_handover.md) -/

/-- An event's transition writes the frame's record, and a journal entry with the handle, the old and the new state, the
event, the owner, the time and the next SEQ in front of the older entries, at most 8,388,608 of them; no other frame, no
memory and nothing outside the home changes (R114). -/
def Obligations.TransitionIsJournalled : Prop :=
  ∀ (s : State) (g : Nat) (f : Frame) (event : Nat),
    let t := transition s g f event
    frameAt t g = f ∧ (∀ k, k ≠ g → frameAt t k = frameAt s k) ∧
    t.home.journal = ({ time := s.now, handle := handleOf s g, old := (frameAt s g).state, new := f.state, event := event
                        owner := f.owner, seq := s.home.jseq % 2 ^ 32 } :: s.home.journal).take 8388608 ∧
    t.home.jseq = s.home.jseq + 1 ∧
    t = { s with home := { s.home with frames := t.home.frames, journal := t.home.journal, jseq := t.home.jseq } }

/-- RELEASE by the owner of an OPEN frame, naming another party (R102, R107): the frame is OFFERED to that party until the
deadline, OFFER goes to the offeree and REPLY OK with the deadline to the releaser. Naming the owner itself in an OFFERED
frame withdraws the offer: OPEN, RETURNED WITHDRAWN to both, REPLY OK (R105). -/
def Obligations.ReleaseOffersOrWithdraws : Prop :=
  ∀ (s : State) (m : TMsg), InTurn s (.trapeze (me s) m) → m.level = 1 →
    let s0 := judged s (.trapeze (me s) m) m.handle
    let g := hFrame m.handle
    let f := frameAt s0 g
    let dl := s0.now + 1000 * (if m.hold = 0 then max 10 s0.home.offerHold else max 10 m.hold)
    claimStatus s0 m.handle m.src true = none → f.owner = m.src →
    (f.state = .open_ → sameIdentity m.peer m.src = false → exec (.releaseAtHome m) s = .next
      (replyTo
        (tellParty (transition s0 g { f with state := .offered, offeree := m.peer, deadline := dl } 0x02) g m.peer
          { ttype := 0x02, src := m.src, tag := m.tag, handle := m.handle, peer := m.src, time := dl })
        m.src m.tag m.handle St.ok ⟨0, 0, 0, 0⟩ dl)) ∧
    (f.state = .offered → sameIdentity m.peer m.src = true → exec (.releaseAtHome m) s = .next
      (replyTo
        (returnedToBoth (transition s0 g { f with state := .open_, offeree := ⟨0, 0, 0, 0⟩, deadline := 0 } 0x05) g
          m.handle St.withdrawn f.owner f.offeree)
        m.src m.tag m.handle St.ok))

/-- CATCH (R103): a frame that is OFFERED to the sender's identity, at its epoch or at any, before the deadline becomes the
catcher's own, OPEN, and CONFIRM goes to both parties. One that comes when device time has reached the deadline finds no
offer: the frame is OPEN with its owner, and another party's CATCH is answered with NO_OFFER (R104). -/
def Obligations.CatchTakesTheOffer : Prop :=
  ∀ (s : State) (m : TMsg), InTurn s (.trapeze (me s) m) → m.level = 1 →
    let s0 := judged s (.trapeze (me s) m) m.handle
    let g := hFrame m.handle
    let f := frameAt s0 g
    let c : TMsg := { ttype := 0x04, src := m.src, handle := m.handle, time := s0.now, state := 1 }
    claimStatus s0 m.handle m.src true = none →
    (f.state = .offered → sameIdentity f.offeree m.src = true → (f.offeree.epoch = m.src.epoch ∨ f.offeree.epoch = 0) →
      s0.now < f.deadline →
      exec (.catchAtHome m) s = .next
        (tellParty
          (tellParty (transition s0 g { f with state := .open_, owner := m.src, offeree := ⟨0, 0, 0, 0⟩, deadline := 0 } 0x03)
            g m.src { c with tag := m.tag, peer := f.owner })
          g f.owner { c with peer := m.src })) ∧
    ((frameAt s g).state = .offered → (frameAt s g).deadline ≤ s.now → floorOf s (frameAt s g).owner < (frameAt s g).owner.epoch →
      forwardOf s m.handle = none → migrationOf s g true = none → migrationOf s g false = none → (frameAt s g).owner ≠ m.src →
      f.state = .open_ ∧ f.owner = (frameAt s g).owner ∧
      exec (.catchAtHome m) s = .next (refuse s0 m.src m.tag m.handle (St.noOffer, 0)))

/-- A claim that fails a check of R94 is answered with the status of the first that fails, and with nothing else: RELEASE, CATCH,
SEAL, MIGRATE and FREE, each with the checks that R94 gives it. The order on a handle that the home has no forwarding entry
for is STALE_HANDLE, then FENCE_PENDING, then FENCED, then LOST. QUERY is answered in every state with the record as it stands,
a granule inside a larger frame with state 7 (R94, R96, R108). -/
def Obligations.ClaimsAreCheckedFirst : Prop :=
  ((∀ (s : State) (e : Nat × Nat),
      (∀ m : TMsg, InTurn s (.trapeze (me s) m) → m.level = 1 →
        claimStatus (judged s (.trapeze (me s) m) m.handle) m.handle m.src true = some e →
        exec (.releaseAtHome m) s = .next (refuse (judged s (.trapeze (me s) m) m.handle) m.src m.tag m.handle e) ∧
        exec (.catchAtHome m) s = .next (refuse (judged s (.trapeze (me s) m) m.handle) m.src m.tag m.handle e)) ∧
      (∀ m : SealMsg, InTurn s (.sealMsg (me s) m) →
        claimStatus (judged s (.sealMsg (me s) m) m.handle) m.handle m.src true = some e →
        exec (.sealAtHome m) s = .next (refuse (judged s (.sealMsg (me s) m) m.handle) m.src m.tag m.handle e)) ∧
      (∀ m : MigrateMsg, InTurn s (.migrateMsg (me s) m) → beingRead s (hFrame m.handle) = false →
        claimStatus (judged s (.migrateMsg (me s) m) m.handle) m.handle m.src true = some e →
        exec (.migrateAtSource m) s = .next (refuse (judged s (.migrateMsg (me s) m) m.handle) m.src m.tag m.handle e)) ∧
      (∀ m : FreeMsg, InTurn s (.freeMsg (me s) m) → m.add = false → beingRead s (hFrame m.handle) = false →
        claimStatus (judged s (.freeMsg (me s) m) m.handle) m.handle m.src false = some e →
        exec (.freeAtHome m) s = .next (refuse (judged s (.freeMsg (me s) m) m.handle) m.src m.tag m.handle e))) ∧
   (∀ (s : State) (h : Nat) (x : Party), forwardOf s h = none →
      let f := frameNow s (hFrame h)
      ((hGen h = 0 ∨ namesFrame s (hFrame h) = false ∨ f.state = .free ∨ f.gen ≠ hGen h) →
        claimStatus s h x true = some (St.staleHandle, 0)) ∧
      (hGen h ≠ 0 → namesFrame s (hFrame h) = true → f.state ≠ .free → f.gen = hGen h →
        (foreign s x = true → s.home.gateOpen = false → claimStatus s h x true = some (St.fencePending, 0)) ∧
        ((foreign s x = false ∨ s.home.gateOpen = true) → x.epoch ≤ floorOf s x →
          claimStatus s h x true = some (St.fenced, 0)) ∧
        ((foreign s x = false ∨ s.home.gateOpen = true) → floorOf s x < x.epoch → f.state = .lost →
          claimStatus s h x true = some (St.lost, 0)) ∧
        ((foreign s x = false ∨ s.home.gateOpen = true) → floorOf s x < x.epoch → f.state ≠ .lost →
          claimStatus s h x true = none)))) ∧
  (∀ (s : State) (m : TMsg), InTurn s (.trapeze (me s) m) → m.level = 1 →
     let s0 := judged s (.trapeze (me s) m) m.handle
     let g := hFrame m.handle
     let f := frameAt s0 g
     let st : Nat × Nat := match forwardOf s0 m.handle with
       | some e => if e.lost ∨ (e.until_ ≠ 0 ∧ e.until_ ≤ s0.now) then (St.staleHandle, 0) else (St.moved, e.newHandle)
       | none => if handleCheck s0 m.handle = none then (if f.state = FState.lost then St.lost else St.ok, 0) else (St.staleHandle, 0)
     exec (.queryAtHome m) s = .next (tellParty s0 g m.src
       { ttype := 0x08, status := st.1, src := m.src, tag := m.tag, handle := m.handle, peer := f.owner, time := f.deadline
         state := if (coveringFrame s0 g).any (fun e => e.1 != g) = true then 7 else stateCode f.state, newHandle := st.2
         offeree := if f.state = .offered then f.offeree else ⟨0, 0, 0, 0⟩, size := some f.sizeLog2 }))

/-- ALLOC_AT_HOME (R53, R94, R107, R213): the claimant checked first is the owner that the ALLOC would record; then all of the
frames are allocated, each OPEN and owned by that owner, or none and the answer is NO_SPACE. An ALLOC of one frame completes
with its handle wherever the region has any place for it: the frame lay free, aligned to its size and inside the region, takes
the record asked for at its tag, no other frame changes, and the handle names this home, that tag and its first granule (R54,
R55); where there is no place, NO_SPACE. Which free place is taken is the home's (log entry 7). -/
def Obligations.AllocTakesFreeFrames : Prop :=
  (∀ (s : State) (m : AllocMsg), InTurn s (.allocMsg m) →
     let s0 := takeNoc s (.allocMsg m)
     let lo := (mainRegion s0 m.part).1
     let hi := (mainRegion s0 m.part).2
     let mk : Nat → Frame := fun gen => { state := .open_, sizeLog2 := m.sizeLog2, flags := m.flags, gen := gen, owner := m.owner }
     let a := allocFrames lo hi m.sizeLog2 mk m.count s0 []
     (∀ st, claimCheck s0 m.owner = some st → exec (.allocAtHome m) s = .next (allocReplyTo s0 m st [])) ∧
     (claimCheck s0 m.owner = none → composed s0 m.part = false → exec (.allocAtHome m) s = .next (allocReplyTo s0 m St.noSpace [])) ∧
     (claimCheck s0 m.owner = none → composed s0 m.part = true → m.count = 1 →
       (∃ g, runFree s0 lo hi (2 ^ m.sizeLog2) g = true) →
       ∃ s1 g, exec (.allocAtHome m) s = .next (allocReplyTo s1 m St.ok [mkHandle (me s) (frameAt s0 g).gen g]) ∧
         runFree s0 lo hi (2 ^ m.sizeLog2) g = true ∧ frameAt s1 g = mk (frameAt s0 g).gen ∧
         (∀ k, k ≠ g → frameAt s1 k = frameAt s0 k)) ∧
     (claimCheck s0 m.owner = none → composed s0 m.part = true → m.count = 1 →
       (∀ g, runFree s0 lo hi (2 ^ m.sizeLog2) g = false) →
       exec (.allocAtHome m) s = .next (allocReplyTo s0 m St.noSpace [])) ∧
     (claimCheck s0 m.owner = none → composed s0 m.part = true → ∀ hs, a.2 = some hs →
       exec (.allocAtHome m) s = .next (allocReplyTo a.1 m St.ok hs) ∧ hs.length = m.count) ∧
     (claimCheck s0 m.owner = none → composed s0 m.part = true → a.2 = none →
       exec (.allocAtHome m) s = .next (allocReplyTo a.1 m St.noSpace []))) ∧
  (∀ (s t : State) (lo hi size event h : Nat) (mk : Nat → Frame),
     allocFrame s lo hi size mk event = some (t, h) →
     ∃ g, runFree s lo hi (2 ^ size) g = true ∧ g % 2 ^ size = 0 ∧ lo ≤ g ∧ g + 2 ^ size ≤ hi ∧
       frameAt t g = mk (frameAt s g).gen ∧ h = mkHandle (me s) (frameAt s g).gen g ∧
       (∀ k, k ≠ g → frameAt t k = frameAt s k))

/-- SEAL by the owner of an OPEN frame makes it SEALED with REFS 1, its hash, and no owner, and the answer is OK (R60, R63,
R107). FREE of a SEALED frame takes one from REFS while more than one is left; at the last the frame is freed and its tag
advances; REFS of 65,535 stays (R63). FREE by the owner of an OPEN frame frees it (R107). -/
def Obligations.SealAndFreeCountReferences : Prop :=
  (∀ (s : State) (m : SealMsg), InTurn s (.sealMsg (me s) m) →
    let s0 := judged s (.sealMsg (me s) m) m.handle
    let g := hFrame m.handle
    let f := frameAt s0 g
    claimStatus s0 m.handle m.src true = none → f.state = .open_ → f.owner = m.src →
    exec (.sealAtHome m) s = .next
      (replyTo (transition s0 g { f with state := .sealed, refs := 1, hash := m.hashLo + m.hashHi * 2 ^ 64
                                         owner := ⟨0, 0, 0, 0⟩, lastRead := s0.now } 0x07)
        m.src m.tag m.handle St.ok ⟨0, 0, 0, 0⟩ 0 f.flags)) ∧
  (∀ (s : State) (m : FreeMsg), InTurn s (.freeMsg (me s) m) → m.add = false → beingRead s (hFrame m.handle) = false →
    let s0 := judged s (.freeMsg (me s) m) m.handle
    let g := hFrame m.handle
    let f := frameAt s0 g
    let gone : Frame := { gen := if 1023 ≤ f.gen then 1 else f.gen + 1 }
    claimStatus s0 m.handle m.src false = none →
    (f.state = .sealed → 1 < f.refs → f.refs < 65535 → ∃ t, exec (.freeAtHome m) s = .next t ∧
      frameAt t g = { f with refs := f.refs - 1 }) ∧
    (f.state = .sealed → f.refs ≤ 1 → migrationOf s0 g true = none → ∃ t, exec (.freeAtHome m) s = .next t ∧ frameAt t g = gone) ∧
    (f.state = .sealed → f.refs = 65535 → ∃ t, exec (.freeAtHome m) s = .next t ∧ frameAt t g = f) ∧
    (f.state = .open_ → f.owner = m.src → ∃ t, exec (.freeAtHome m) s = .next t ∧ frameAt t g = gone))

/-- A block moves in the steps of R111: MIGRATE makes the owner's OPEN frame MIGRATING and sends MIGRATE_BEGIN; at the
destination that takes a free frame, MIGRATING with INBOUND 1, and MIGRATE_READY names it at the source; once the copied data
has arrived the source is COMMITTED and sends MIGRATE_COMMIT, and at the destination that makes the frame OPEN. A sealed block
stays SEALED, and its handle forwards to the copy, which is SEALED with the references that the source sent (R79) and the chain hash
that arrived (the model's reading, log entry 60). -/
def Obligations.MigrationSteps : Prop :=
  ∀ s : State,
    (∀ m : MigrateMsg, InTurn s (.migrateMsg (me s) m) → beingRead s (hFrame m.handle) = false →
      let s0 := judged s (.migrateMsg (me s) m) m.handle
      let g := hFrame m.handle
      let f := frameAt s0 g
      claimStatus s0 m.handle m.src true = none →
      (f.state = .open_ → f.owner = m.src →
        ∃ t, exec (.migrateAtSource m) s = .next t ∧
          frameAt t g = { f with state := .migrating, inbound := false, committed := false
                                 deadline := s0.now + 1000 * max 100 s0.home.migrateLimit } ∧
          (migrationOf t g true).isSome = true) ∧
      (f.state = .sealed → migrationOf s0 g true = none → s0.home.forwards.length < 65536 →
        ∃ t, exec (.migrateAtSource m) s = .next t ∧ frameAt t g = f ∧ (migrationOf t g true).isSome = true)) ∧
    (∀ m : BeginMsg, InTurn s (.beginMsg m) →
      let s0 := freeHeld (takeNoc s (.beginMsg m)) m.dest.part m.handle
      let r := mainRegion s0 m.dest.part
      composed s0 m.dest.part = true → (∃ g, runFree s0 r.1 r.2 (2 ^ m.sizeLog2) g = true) →
      ∃ t g, exec (.migrateBegin m) s = .next t ∧ runFree s0 r.1 r.2 (2 ^ m.sizeLog2) g = true ∧
        frameAt t g = { state := .migrating, inbound := true, sizeLog2 := m.sizeLog2, flags := m.flags
                        gen := (frameAt s0 g).gen, owner := m.owner, deadline := s0.now + 1000 * max 100 s0.home.migrateLimit
                        peer := m.handle } ∧
        (g < 2 ^ 32 → (migrationOf t g false).isSome = true)) ∧
    (∀ m : TMsg, InTurn s (.trapeze (me s) m) → m.level = 1 → m.handle ≠ 0 →
      let s0 := judged s (.trapeze (me s) m) m.handle
      let g := hFrame m.handle
      handleCheck s0 m.handle = none → (migrationOf s0 g true).isSome = true → s0.mem.errors = [] → tierFails s0 g = false →
      ∃ t, exec (.migrateReady m) s = .next t ∧ frameAt t g = { frameAt s0 g with peer := m.newHandle } ∧
        (migrationOf t g true).isSome = true) ∧
    (∀ g, ready s = true →
      let s0 := cacheFrame (migrationLapse s g) g
      ∀ x, migrationOf s0 g true = some x → x.ready = true → (frameAt s0 g).committed = false →
        copyFailed s0 (.frame g) = false → copyPending s0 (.frame g) = false → forwardOf s0 (handleOf s0 g) = none →
        (x.keepSealed = false → ∃ t, exec (.migrateCopyDone g) s = .next t ∧
          frameAt t g = { frameAt s0 g with committed := true }) ∧
        (x.keepSealed = true → s0.home.forwards.length < 65536 → ∃ t, exec (.migrateCopyDone g) s = .next t ∧
          frameAt t g = frameAt s0 g ∧ forwardOf t (handleOf s0 g) = some ⟨handleOf s0 g, (frameAt s0 g).peer, 0, false⟩)) ∧
    (∀ (m : TMsg) (hash : Option Nat) (x : Migration), InTurn s (.trapeze (me s) m) → m.level = 1 →
      let s0 := judged s (.trapeze (me s) m) m.handle
      let g := hFrame m.handle
      let f := frameAt s0 g
      handleCheck s0 m.handle = none → migrationOf s0 g false = some x → f.state = .migrating →
      ∃ t, exec (.migrateCommit m hash) s = .next t ∧
        (m.refs = 0 → frameAt t g = { f with state := .open_, inbound := false, deadline := 0, peer := 0 }) ∧
        (m.refs ≠ 0 → frameAt t g = { f with state := .sealed, refs := m.refs, owner := ⟨0, 0, 0, 0⟩, lastRead := s0.now
                                             hash := arrivedHash s0 x m.newHandle hash
                                             inbound := false, deadline := 0, peer := 0 }))

/-- Deadlines (R104, R107): at its deadline an offer expires and the frame is OPEN again with its owner; at the end of the lost
hold a LOST frame is freed and its tag advances; a forwarding hold that ends frees the old frame and its entry; a migration
that has not committed by its deadline aborts and the source's frame is OPEN again. MIGRATE_DONE frees a committed frame at
its source, its tag advancing, and MIGRATE_ABORT makes one that is not committed OPEN again (R111, R112). An offer whose
releaser is fenced makes the frame LOST (R107; its journal event is the model's choice, log entry 94). -/
def Obligations.HoldsAndMovesEnd : Prop :=
  (∀ (s : State) (g : Nat), ready s = true →
     let f := frameAt s g
     (f.state = .offered → f.deadline ≤ s.now → floorOf s f.owner < f.owner.epoch →
       exec (.offerDeadline g) s = .next
         (returnedToBoth (transition s g { f with state := .open_, offeree := ⟨0, 0, 0, 0⟩, deadline := 0 } 0x04) g
           (handleOf s g) St.expired f.owner f.offeree)) ∧
     (f.state = .offered → f.deadline ≤ s.now → f.owner.epoch ≤ floorOf s f.owner →
       exec (.offerDeadline g) s = .next (loseFrame s g 0x04)) ∧
     (f.state = .lost → f.deadline ≤ s.now → ∃ t, exec (.lostHoldEnd g) s = .next t ∧
       frameAt t g = { gen := if 1023 ≤ f.gen then 1 else f.gen + 1 }) ∧
     (∀ h e, forwardOf s h = some e → e.until_ ≠ 0 → e.until_ ≤ s.now → ∃ t, exec (.forwardingHoldEnd h) s = .next t ∧
       forwardOf t h = none ∧
       ((frameAt s (hFrame h)).gen = hGen h → (frameAt t (hFrame h)).state = .free)) ∧
     (∀ x, migrationOf s g true = some x → x.deadline ≤ s.now → f.state = .migrating → f.committed = false →
       forwardOf s (handleOf s g) = none → ∃ t, exec (.migrationDeadline g) s = .next t ∧
         frameAt t g = { f with state := .open_, deadline := 0, peer := 0, committed := false })) ∧
  (∀ (s : State) (m : TMsg), InTurn s (.trapeze (me s) m) → m.level = 1 → m.toEpoch = 0 → m.handle ≠ 0 →
     let g := hFrame m.handle
     (let s0 := judged s (.trapeze (me s) m) m.handle
      ∀ x, (frameAt s0 g).gen = hGen m.handle → migrationOf s0 g true = some x → x.keepSealed = false →
       (frameAt s0 g).committed = true → ∃ t, exec (.migrateDone m) s = .next t ∧
         frameAt t g = { gen := if 1023 ≤ (frameAt s0 g).gen then 1 else (frameAt s0 g).gen + 1 } ∧ migrationOf t g true = none) ∧
     (∀ x, (frameAt s g).gen = hGen m.handle → migrationOf s g true = some x → x.keepSealed = false → forwardOf s m.handle = none →
       (frameAt s g).committed = false → ∃ t, exec (.migrateAbort m) s = .next t ∧
         frameAt t g = { frameAt s g with state := .open_, deadline := 0, peer := 0 } ∧ migrationOf t g true = none))

/-- A FENCE with a good signature raises the identity's floor to the larger of the floor and FENCE_EPOCH, and FENCE_ACK with
OK goes back; with a bad one it is discarded and counted, no floor moves, and the answer is BAD_SIGNATURE (R118). -/
def Obligations.FenceRaisesTheFloor : Prop :=
  ∀ (s : State) (f : FenceMsg), InTurn s (.fenceTo (me s) f) → f.level = 1 →
    let x : Party := ⟨f.domain, f.ep, f.part, 0⟩
    let good := ecdsaVerify (compOf s).fenceX (compOf s).fenceY (fenceSigned f) f.sigR f.sigS
    (good = true → f.noFloor = false → ∃ t, exec (.fenceMsg f) s = .next t ∧
      floorOf t x = max (floorOf s x) f.fenceEpoch ∧ t.home.gateOpen = (s.home.gateOpen || f.gate) ∧
      t.home.fences = (s.home.fences + 1) % 2 ^ 32) ∧
    (good = false → ∃ t, exec (.fenceMsg f) s = .next t ∧
      t.home.badFences = min 0xFFFF (s.home.badFences + 1) ∧ t.home.floors = s.home.floors ∧
      t.home.frames = s.home.frames ∧ t.home.gateOpen = s.home.gateOpen)

/-! ## The party (04_trapeze_handover.md, 07_instruction_set.md) -/

/-- ALLOC, FREE, RELEASE, CATCH, MIGRATE and QUERY send their messages, one for each handle in list order, and wait for the
answers (R101, R103, R108, R111, R213, R215). A message for this module's own home stays on the network-on-chip. SEAL whose
layers pass the checks of R60 computes the chain hash of the position and sends SEAL with it to each layer's home, a SEAL of
every layer that has blocks at other homes only after those have answered what they find; one layer that fails a check leaves
every layer unsealed (R60, R214). FENCEEP by the steward sends the FENCE to every home of its list, and by any other ends with
NOT_STEWARD (R117, R216). RECLAIM of a LOST frame of this home, or of one sealed with REFS 65,535, ends with OK and frees the
frame at its commit; any other is NOT_OPEN (R63, R107, R205). -/
def Obligations.StateInstructionsSend : Prop :=
  (∀ (s : State) (w : IRef) (i : Issued), i.started = false →
     let ws := i.words
     let src := selfParty s w.part
     (∀ sh size home part, Working s w 0x10 i → ¬(bit (bits (opA ws) 5 0) 0 ∧ bit (bits (opA ws) 5 0) 1) →
       usableGeom s w.part (bits (opA ws) 9 6) = some (sh, size) → allocHome s w.part (bits (opA ws) 5 0) 0 = some (home, part) →
       ∃ t, exec (.alloc w) s = .next t ∧
         Sent s t w i size [mkHandle home 0 part] (home = me s) (fun a => .allocMsg
           { src := src, tag := a.tag, home := home, part := part
             owner := if flagOf ws 24 then partyOfWord (extLo ws 1) else src
             flags := bits (opA ws) 5 0, sizeLog2 := size, count := bits (opA ws) 26 16 })) ∧
     (∀ hs, Working s w 0x12 i → handlesOf s ws (bits (opA ws) 11 0) = some hs →
       ∃ t, exec (.free w) s = .next t ∧
         Sent s t w i 0 hs (∀ h ∈ hs, hHome h = me s) (fun a => .freeMsg (hHome a.handle)
           { src := src, tag := a.tag, handle := a.handle })) ∧
     (∀ hs, Working s w 0x13 i → handlesOf s ws (bits (opA ws) 27 16) = some hs → earlierWrites s w hs = false →
       (∀ h ∈ hs, ∀ e, namedBy s w.part h = some e → (recOf s w.part e.1).state ≠ .prefill) →
       ∃ t, exec (.release w) s = .next t ∧
         Sent s t w i 0 hs (∀ h ∈ hs, hHome h = me s) (fun a => .trapeze (hHome a.handle)
           { ttype := 0x01, src := src, tag := a.tag, handle := a.handle, peer := partyOfWord (extLo ws 1)
             hold := bits (opA ws) 15 0 })) ∧
     (∀ hs, Working s w 0x14 i → handlesOf s ws (bits (opA ws) 27 16) = some hs →
       ∃ t, exec (.catch_ w) s = .next t ∧
         Sent s t w i 0 hs (∀ h ∈ hs, hHome h = me s) (fun a => .trapeze (hHome a.handle)
           { ttype := 0x03, src := src, tag := a.tag, handle := a.handle })) ∧
     (∀ d : Party, Working s w 0x15 i → ¬(bit (bits (opA ws) 5 0) 0 ∧ bit (bits (opA ws) 5 0) 1) →
       (if flagOf ws 24 then some { partyOfWord (extLo ws 1) with epoch := 0 }
         else (allocHome s w.part (bits (opA ws) 5 0) 0).map (fun e => (⟨e.1.1, e.1.2, e.2, 0⟩ : Party))) = some d →
       let n := if hHome (opB ws) = me s then frameGranules (frameAt s (hFrame (opB ws))) else AMap.getD (partOf s w.part).sized (opB ws) 0
       let aux := if flagOf ws 24 = true ∨ (d.domain, d.ep) = me s then 0 else chosenAs (d.domain, d.ep, d.part) n
       ∃ t, exec (.migrate w) s = .next t ∧
         Sent s t w i aux [opB ws] (hHome (opB ws) = me s) (fun a => .migrateMsg (hHome a.handle)
           { src := src, tag := a.tag, handle := a.handle, dest := d, flags := bits (opA ws) 5 0
             rows := rowsOf s w.part (opB ws) })) ∧
     (Working s w 0x16 i → ∃ t, exec (.query w) s = .next t ∧
       Sent s t w i 0 [opB ws] (hHome (opB ws) = me s) (fun a => .trapeze (hHome a.handle)
         { ttype := 0x07, src := src, tag := a.tag, handle := a.handle }))) ∧
  (∀ (s : State) (w : IRef) (i : Issued),
     let ws := i.words
     let r := recOf s w.part (reqIndex ws)
     let j := bits (opB ws) 31 0
     let layers := if flagOf ws 24 then List.range r.layers else [bits (opB ws) 47 32]
     let hs := layers.map (fun l => handleAt s w.part r l j)
     (Working s w 0x11 i → i.started = false → i.awaits = [] → i.held = [] → r.rgen = reqGen ws → j < r.stride → layers ≠ [] →
       (∀ l ∈ layers, l < r.layers) → (flagOf ws 24 = true → ∀ h ∈ hs, isNull h = true ∨ hHome h = me s) →
       (∀ hash, (∀ l ∈ layers, sealCheck s w.part r l j St.ok = St.ok) → chainHash s w.part r j = some hash →
         ∃ t, exec (.seal w) s = .next t ∧
           Sent s t w i hash hs (∀ h ∈ hs, hHome h = me s) (fun a => .sealMsg (hHome a.handle)
             { src := selfParty s w.part, tag := a.tag, handle := a.handle, hashLo := hash % 2 ^ 64, hashHi := hash / 2 ^ 64 })) ∧
       (∀ l st, layers.find? (fun l => sealCheck s w.part r l j St.ok != St.ok) = some l → sealCheck s w.part r l j St.ok = st →
         exec (.seal w) s = .next (finish s w st 0))) ∧
     (Working s w 0x11 i → i.started = false → r.rgen = reqGen ws → j < r.stride → r.layers ≠ 0 → flagOf ws 24 = true →
       (∀ l ∈ layers, (j + 1) * tokensOf s w.part r ≤ r.c) → (∃ h ∈ hs, isNull h = false ∧ hHome h ≠ me s) →
       ∃ t as, exec (.seal w) s = .next t ∧ issuedOf t w = some { i with
           started := true, sentAt := s.now, due := s.now + answerLimit s 0x11, awaits := as, aux := 0, held := [1] } ∧
         as.map (·.handle) = hs.filter (fun h => !isNull h && hHome h != me s) ∧ (∀ a ∈ as, a.status = none)) ∧
     (∀ hash, Working s w 0x11 i → i.started = true → i.held ≠ [] → (∀ a ∈ i.awaits, a.status.isSome = true) →
       (∀ l ∈ layers, sealCheck s w.part r l j (askedStatus i l) = St.ok) → chainHash s w.part r j = some hash →
       ∃ t, exec (.seal w) s = .next t ∧
         Sent s t w { i with held := [] } hash hs (∀ h ∈ hs, hHome h = me s) (fun a => .sealMsg (hHome a.handle)
           { src := selfParty s w.part, tag := a.tag, handle := a.handle, hashLo := hash % 2 ^ 64, hashHi := hash / 2 ^ 64 })) ∧
     (Working s w 0x17 i → i.started = false →
       (isSteward s w.part w.queue = false → exec (.fenceep w) s = .next (finish s w St.notSteward 0)) ∧
       (∀ fb lb, isSteward s w.part w.queue = true → devRead s (addrB ws) 160 = some fb →
         devRead s (extAddr ws 1) (8 * bits (opA ws) 11 0) = some lb →
         let f := fenceOf fb (selfParty s w.part)
         let homes := (wordList lb).map homeOfEntry
         ∃ t, exec (.fenceep w) s = .next t ∧
           Sent s t w i ((f.domain * 1024 + f.ep) * 16 + f.part) (homes.map (fun m => m.1 * 1024 + m.2))
             (∀ m ∈ homes, m = me s) (fun _ => .fenceTo (me s) f))) ∧
     (let s0 := lapse s (opB ws)
      let f := frameAt s0 (hFrame (opB ws))
      Working s w 0x18 i → hHome (opB ws) = me s → claimStatus s0 (opB ws) (selfParty s0 w.part) false = none →
       (f.state = .lost ∨ (f.state = .sealed ∧ f.refs = 65535) →
         exec (.reclaim w) s = .next (finish s0 w St.ok 0 [.reclaimed (opB ws)]) ∧
         (migrationOf s0 (hFrame (opB ws)) true = none →
           frameAt (applyEffect w.part w (s0, 0) (.reclaimed (opB ws))).1 (hFrame (opB ws)) =
             { gen := if 1023 ≤ f.gen then 1 else f.gen + 1 })) ∧
       (f.state ≠ .lost → f.state ≠ .sealed → exec (.reclaim w) s = .next (finish s0 w St.notOpen 0))))

/-- The answer to the last message of a State instruction ends it with the answer's status: REPLY ends ALLOC, SEAL, FREE,
RELEASE, CATCH and MIGRATE; QUERY_REPLY ends QUERY, whose RESULT holds the state and the owner; a QUERY that succeeded with
its flag leaves the 64 bytes of the answer for its commit (R97, R102, R108, R212). FENCE_ACK marks the home's entry with the
answer's status, and the last one ends FENCEEP; at the end of its 10 ms each home that has not answered is marked 0xFF and the
status is TIMEOUT (R117, R216). A State instruction whose one message goes to another module and has no answer within its wait
ends with TIMEOUT (R103, R212). -/
def Obligations.AnswersEndInstructions : Prop :=
  (∀ (s : State) (m : TMsg) (w : IRef) (i : Issued) (a : Await), m.level = 1 → forEpoch s m = true →
     awaiting s m.toPart m.tag = some (w, i, a) → issuedOf s w = some i → i.awaits = [a] → i.started = true → i.held = [] →
     i.status = none →
     (∀ hs, InTurn s (replyForm s m hs) → 0x10 ≤ opcodeOf i.words → opcodeOf i.words ≤ 0x15 →
       ∃ t j, exec (.reply m hs) s = .next t ∧ issuedOf t w = some j ∧ j.status = some m.status ∧
         (opcodeOf i.words = 0x10 → m.status ≠ St.ok → j.effects = [] ∧ j.result = 0) ∧
         (opcodeOf i.words = 0x10 ∨ opcodeOf i.words = 0x15 → m.status = St.ok → j.result = m.newHandle)) ∧
     (InTurn s (.trapeze (me s) m) → opcodeOf i.words = 0x16 → i.effects = [] →
       ∃ t, exec (.queryReply m) s = .next t ∧
         Finished t w m.status (queryResult m)
           (if flagOf i.words 24 then [.devWrite (extAddr i.words 1) (tmsgBytes m)] else [])) ∧
     (InTurn s (.trapeze (me s) m) → opcodeOf i.words = 0x14 → a.handle = m.handle →
       ∃ t j, exec (.confirm m none) s = .next t ∧ issuedOf t w = some j ∧ j.status = some St.ok ∧
         (partOf t m.toPart).offersIn = (partOf s m.toPart).offersIn.filter (fun o => o.handle != m.handle) ∧
         (partOf t m.toPart).outcomes = (partOf s m.toPart).outcomes.filter (fun o => o.handle != m.handle))) ∧
  ((∀ (s : State) (w : IRef) (i : Issued), i.started = true →
      (∀ (m : TMsg) (a : Await) (x : Queue), InTurn s (.trapeze (me s) m) → Working s w 0x17 i → m.level = 1 → w.part = m.toPart →
        (partOf s w.part).queues = [(w.queue, x)] → x.issued = [i] → w.idx = i.idx → i.awaits = [a] → a.status = none →
        a.handle = m.src.domain * 1024 + m.src.ep → i.aux = (m.peer.domain * 1024 + m.peer.ep) * 16 + m.peer.part →
        ∃ t, exec (.fenceAck m) s = .next t ∧
          Finished t w m.status (if m.status = St.ok then 1 else 0)
            [.devWrite (extAddr i.words 1 + 8 * a.pos + 4) [BitVec.ofNat 8 m.status]]) ∧
      (Working s w 0x17 i → i.sentAt + 10000000 ≤ s.now → (∃ a ∈ i.awaits, a.status = none) →
        exec (.fenceepLimit w) s = .next (finish s w St.timeout 0
          (i.awaits.map (fun a => .devWrite (extAddr i.words 1 + 8 * a.pos + 4) [BitVec.ofNat 8 (a.status.getD 0xFF)]))))) ∧
   (∀ (s : State) (w : IRef) (i : Issued) (a : Await), ready s = true → issuedOf s w = some i → i.status = none →
      i.started = true → i.held = [] → 0x10 ≤ opcodeOf i.words → opcodeOf i.words ≤ 0x16 → i.awaits = [a] → a.status = none →
      hHome a.handle ≠ me s → i.due ≤ s.now →
      ∃ t j, exec (.replyWaitExpiry w false) s = .next t ∧ issuedOf t w = some j ∧ j.status = some St.timeout ∧
        (∀ k, k ≠ w.part → partOf t k = partOf s k)))

/-- OFFER: the party holds the offer, in place of an earlier one of that handle. RETURNED ends the party's wait for the
handle's outcome, and its offer where no request of its own names the handle. When a wait for an outcome ends, the
ringmaster asks the home with a QUERY and waits for its answer (R102, R105, R109). An event for a retired epoch is discarded
and counted (R106). -/
def Obligations.OffersAndOutcomes : Prop :=
  ∀ (s : State),
    (∀ m : TMsg, InTurn s (.trapeze (me s) m) → m.level = 1 →
      let P := partOf s m.toPart
      (forEpoch s m = true → ∃ t, exec (.offer m) s = .next t ∧
        partOf t m.toPart = { P with offersIn := P.offersIn.filter (fun o => o.handle != m.handle) ++ [m] } ∧
        (∀ k, k ≠ m.toPart → partOf t k = partOf s k)) ∧
      (forEpoch s m = false → ∃ t, exec (.offer m) s = .next t ∧ exec (.returned m) s = .next t ∧ t.parts = s.parts ∧
        t.home = { s.home with staleEvents := s.home.staleEvents + 1 }) ∧
      (forEpoch s m = true → namedBy (outcomeCame (takeNoc s (.trapeze (me s) m)) m.toPart m.handle) m.toPart m.handle = none →
        ∃ t, exec (.returned m) s = .next t ∧
        partOf t m.toPart = { P with offersIn := P.offersIn.filter (fun o => o.handle != m.handle)
                                     outcomes := P.outcomes.filter (fun o => o.handle != m.handle) } ∧
        (∀ k, k ≠ m.toPart → partOf t k = partOf s k))) ∧
    (∀ p tag o, ready s = true → (partOf s p).recovering.find? (fun x => x.tag == tag) = none →
      (partOf s p).outcomes.find? (fun o => o.tag == tag) = some o → o.deadline ≤ s.now → o.asked = false →
      hHome o.handle = me s →
      ∃ t, exec (.outcomeWaitExpiry p tag) s = .next t ∧
        t.noc = s.noc ++ [.trapeze (me s)
          { ttype := 0x07, src := selfParty s p, tag := (partOf s p).nextTag, handle := o.handle }] ∧
        (partOf t p).outcomes = (partOf s p).outcomes.filter (fun x => x.handle != o.handle)
          ++ [⟨(partOf s p).nextTag, o.handle, s.now + replyWaitNs s, true, o.move⟩])

/-! ## Serving (06_speculation_and_streams.md) -/

/-- A serving instruction on a request whose record nothing else holds ends with STALE_REQUEST where its RGEN is not the
record's, whatever else is wrong, and APPEND, COMMIT and ROLLBACK on a request that is not RUNNING end with NOT_RUNNING,
EMIT also where it is not in PREFILL; neither has another effect (R169, R173). -/
def Obligations.ServingChecksItsRequest : Prop :=
  ∀ (s : State) (w : IRef) (i : Issued), heldByOther s w i = false →
    let r := recOf s w.part (reqIndex i.words)
    (r.rgen ≠ reqGen i.words →
      (Working s w 0x30 i → exec (.append w) s = .next (finish s w St.staleRequest 0)) ∧
      (Working s w 0x31 i → exec (.commit w) s = .next (finish s w St.staleRequest 0)) ∧
      (Working s w 0x32 i → exec (.rollback w) s = .next (finish s w St.staleRequest 0)) ∧
      (Working s w 0x33 i → exec (.emit w) s = .next (finish s w St.staleRequest 0)) ∧
      (Working s w 0x35 i → exec (.retire w) s = .next (finish s w St.staleRequest 0)) ∧
      (Working s w 0x36 i → exec (.openreq w) s = .next (finish s w St.staleRequest 0))) ∧
    (r.rgen = reqGen i.words → r.state ≠ .running →
      (Working s w 0x30 i → exec (.append w) s = .next (finish s w St.notRunning 0)) ∧
      (Working s w 0x31 i → exec (.commit w) s = .next (finish s w St.notRunning 0)) ∧
      (Working s w 0x32 i → exec (.rollback w) s = .next (finish s w St.notRunning 0)) ∧
      (r.state ≠ .prefill → Working s w 0x33 i → exec (.emit w) s = .next (finish s w St.notRunning 0)))

/-- The work of the serving instructions on a request whose record is theirs (R169 to R172): APPEND leaves the rows of its
layer and W for its commit, COMMIT the entries up to the first that ends the request, EMIT its one entry, ROLLBACK, RETIRE
and OPENREQ their change of the record, each with the RESULT that R218 gives: COMMIT the entries taken, the depth that R177 sets,
whether the request ends, and C + n. -/
def Obligations.ServingInstructionsEnd : Prop :=
  ∀ (s : State) (w : IRef) (i : Issued), heldByOther s w i = false →
    let p := w.part
    let idx := reqIndex i.words
    let r := recOf s p idx
    r.rgen = reqGen i.words →
    (∀ sh k rows, Working s w 0x30 i → r.state = .running →
      let n := bits (wordAt i.words 0) 27 24
      let l := bits (opB i.words) 63 48
      let w' := if r.w = r.c then r.c + n else r.w
      l < r.layers → 1 ≤ n → n ≤ r.depth + 1 → (r.c < r.w → n = r.w - r.c) → usableGeom s p r.geom = some (sh, k) →
      (∀ h ∈ appendHandles s p r l n,
        isNull h = false ∧ hHome h = me s ∧ (accessByHandle s h (selfParty s p) true).1 = St.ok) →
      devRead s (addrB i.words) (stagingBytes s p i.words) = some rows →
      exec (.append w) s = .next (finish s w St.ok (w' * 2 ^ 32) (appendWrites s p r l n sh rows ++ [.setW idx w']))) ∧
    (∀ v, Working s w 0x31 i → r.state = .running → devRead s (addrB i.words) 88 = some v →
      let N := bits (leAt v 0 8) 3 0
      let es := takeEntries ((wordList (v.drop 0x10)).take N)
      let n := es.length
      let s1 := refreshCons s p idx n
      1 ≤ N → N ≤ 9 → r.c < r.w → n ≤ r.w - r.c → mayAccess s p (r.tokens + 4 * (r.c + 1)) (4 * n) = true →
      n ≤ ringFree (recOf s1 p idx) →
      exec (.commit w) s = .next (finish s1 w St.ok
        (n + (adaptDepth (partOf s p).stepCfg r r.stepK n).depth * 2 ^ 4 + flag (entryEnds (es.getLastD 0)) * 2 ^ 8
          + (r.c + n) % 2 ^ 32 * 2 ^ 32)
        [.commitReq idx es])) ∧
    (∀ v, Working s w 0x33 i → r.state = .running ∨ r.state = .prefill → devRead s (addrB i.words) 24 = some v →
      bits (leAt v 0 8) 3 0 = 1 → r.w = r.c → mayAccess s p (r.tokens + 4 * r.c) 4 = true →
      1 ≤ ringFree (recOf (refreshCons s p idx 1) p idx) →
      exec (.emit w) s = .next (finish (refreshCons s p idx 1) w St.ok (r.c % 2 ^ 32 * 2 ^ 32) [.emitReq idx (leAt v 0x10 8)])) ∧
    (Working s w 0x32 i → r.state = .running →
      exec (.rollback w) s = .next (finish s w St.ok (r.w - r.c + r.c % 2 ^ 32 * 2 ^ 32) [.rollbackReq idx])) ∧
    (Working s w 0x35 i → exec (.retire w) s = .next (finish s w St.ok 0 [.retireReq idx (bits (opB i.words) 7 0)])) ∧
    (∀ t sh k, Working s w 0x36 i → r.state = .free → devRead s (addrB i.words) 128 = some t →
      let r' := fillRecord r t (flagOf i.words 24)
      templateOk r' = true → usableGeom s p r'.geom = some (sh, k) → r'.c ≤ r'.w → r'.w ≤ r'.c + 9 → r'.sealed * sh.1 ≤ r'.c →
      exec (.openreq w) s = .next (finish s w St.ok (idx + r'.rgen * 2 ^ 20) [.openReq idx r']))

/-- What the commits of COMMIT and ROLLBACK do to a request's positions: C and W become C + n after a COMMIT of n entries,
and W becomes C after a ROLLBACK; neither touches the requests of another partition (R169, R171). -/
def Obligations.CommitMovesThePositions : Prop :=
  ∀ (s : State) (p idx : Nat) (es : List Nat),
    let r := recOf s p idx
    ((recOf (commitReq s p idx es) p idx).c = r.c + es.length ∧ (recOf (commitReq s p idx es) p idx).w = r.c + es.length) ∧
    ((recOf (rollbackReq s p idx) p idx).c = r.c ∧ (recOf (rollbackReq s p idx) p idx).w = r.c) ∧
    (∀ k, k ≠ p → (partOf (commitReq s p idx es) k).recs = (partOf s k).recs ∧
      (partOf (rollbackReq s p idx) k).recs = (partOf s k).recs)

/-- A STEP that need not wait for an earlier one ends with OK, and all that it does is done at its commit. Then its RESULT is
the head of the step table: the requests that run, and those paused, pre-empted and admitted; and the table stands at its
address: the head, the micro-batch's step number and one entry of 16 bytes for each request that
runs (R158, R166, R167, R205, R218; that all of it waits for the commit is the model's reading, log entry 133). Requests are
ranked by class, then ADMITTED, then index (R160). -/
def Obligations.StepWritesItsTable : Prop :=
  (∀ (s : State) (w : IRef) (i : Issued), Working s w 0x34 i →
    stepMustWait s w i (bits (opA i.words) 7 0) = false →
    exec (.step w) s = .next (finish s w St.ok 0 [.stepped (bits (opA i.words) 7 0) (bits (opA i.words) 20 8) (addrB i.words)])) ∧
  (∀ (s : State) (w : IRef) (mb limit at_ r0 : Nat),
    let p := w.part
    let a := stepWork s p mb limit w.queue
    let table := toLe 8 a.2.1 ++ toLe 8 (AMap.getD (partOf s p).steps mb 0) ++ tableEntries a.1 p a.2.2 0
    ∃ t, applyEffect p w (s, r0) (.stepped mb limit at_) = (t, a.2.1) ∧
      table.length = 16 + 16 * a.2.2.length ∧ a.2.1 % 2 ^ 16 = a.2.2.length % 2 ^ 16 ∧
      (a.1.mem.errors = [] → a.1.mem.inject.armed = false → a.1.mem.undef = [] → memWf a.1.mem.dram = true → Stored a.1 t at_ table)) ∧
  (∀ (s : State) (p : Nat) (is : List Nat),
    (rankSort s p is).Perm is ∧ (rankSort s p is).Pairwise (fun a b => ranksAbove s p b a = false))

/-! ## Attention (05_attention_engines.md, 08_schedule_contract.md) -/

/-- ATTEND: a header fault ends it with the status of the first check of R130 that fails, and so does a fault that the entries
show. One that passes every check and reads no lower tier runs its local entries at once and ends with OK, as R131 lays the
output out: for each entry its triples at base_e and its status byte after all the triples; RESULT counts the entries whose
status is not OK and, from bit 16 on, the row-heads that are NaN. One whose local entries read lower-tier blocks waits for them
and then runs in the same way; a block whose bound passes first is late from then on; an act that reads beyond its unit's
sequence ends it with BAD_ACT. One with remote entries, each sent to where its blocks lie now, sends a request to each target
and waits (R128, R130, R131, R148, R153, R157, R231, R419). -/
def Obligations.AttendRuns : Prop :=
  ∀ (s : State) (w : IRef) (i : Issued) (misses : List (Nat × Nat)) (act : ActRun), Working s w 0x20 i →
    let p := w.part
    let outcome := fun (h : AttnHdr) (es : List AttnEnt) (j : Issued) (marks : List Effect) =>
      ∃ outs : List (Nat × List Byte × Nat), outs.length = es.length ∧
        (∀ x ∈ outs.zip es, x.1.2.1.length = x.2.nq * h.hq * tripleLen h.ofmt (geomD s p h.geom)) ∧
        j.status = some St.ok ∧
        j.result = i.result + (outs.filter (fun x => x.1 != St.ok)).length + (outs.map (fun x => x.2.2)).sum * 2 ^ 16 ∧
        j.effects = marks ++ (((List.range es.length).zip outs).map (fun x =>
          [.devWrite (h.pbase + entryBase h (geomD s p h.geom) es x.1) x.2.2.1,
           .devWrite (h.pbase + entryBase h (geomD s p h.geom) es es.length + x.1) [BitVec.ofNat 8 x.2.1]])).flatten
    (∀ hb, i.started = false → devRead s (addrB i.words) 64 = some hb →
      let h := attnHdr hb
      (∀ st, attendHdrChecks s p h = some st → exec (.attend w misses act) s = .next (finish s w st 0)) ∧
      (∀ es, attendHdrChecks s p h = none → readEnts s p (entryAddrs (addrB i.words) h.nent) = some es →
        let bound := (es.map (boundEntry s p)).zip (es.map (entHandles s))
        let placed := bound.map (rehomeEntry s p
          (boundEverywhere s p (attendKey h (AMap.getD (partOf s p).geoms h.geom {}))) bound)
        (∀ st, attendChecks s p (addrB i.words) h es = some (st, 0) → st ≠ St.address →
          exec (.attend w misses act) s = .next (finish s w st 0)) ∧
        (∀ q, attendChecks s p (addrB i.words) h es = none →
          devRead s h.qbase (queryLen h.qfmt h.hq (geomD s p h.geom) h.nrows) = some q →
          (∀ e ∈ es, (entHandles s e).isSome = true) → (∀ r ∈ (partOf s p).remotes, r.w ≠ w) →
          ((∀ e ∈ es, isLocal s p e = true) → readsLower s p h.window (geomT s p h.geom) bound = false → act ≠ .beyond →
            (flagOf i.words 24 = true → misses = []) →
            ∃ t j, exec (.attend w misses act) s = .next t ∧ issuedOf t w = some j ∧
              outcome h (es.map (boundEntry s p)) j (sourceMarks h (geomD s p h.geom) bound)) ∧
          ((∀ e ∈ es, isLocal s p e = true) → readsLower s p h.window (geomT s p h.geom) bound = true →
            ∃ t j, exec (.attend w misses act) s = .next t ∧ issuedOf t w = some j ∧ j.started = true ∧ j.status = none ∧
              j.aux = i.aux ∧ j.due = s.now + lateBoundNs s p ∧
              j.image = attnHdrBytes h ++ ((bound.map Prod.fst).map attnEntBytes).flatten) ∧
          ((∃ e ∈ placed, isLocal s p e.1 = false) → readsLower s p h.window (geomT s p h.geom) placed = false → act ≠ .beyond →
            (flagOf i.words 24 = true → misses = []) →
            ∃ t j rs, exec (.attend w misses act) s = .next t ∧ issuedOf t w = some j ∧ j.started = true ∧ j.status = none ∧
              (partOf t p).remotes = (partOf s p).remotes ++ rs ∧
              rs.map (fun r => (r.target.1, r.target.2, r.tpart)) = remoteTargets s p (placed.map Prod.fst) ∧
              (∀ r ∈ rs, r.w = w ∧ r.due = s.now + remoteWaitNs s p))))) ∧
    (∀ g q, i.started = true → i.aux = 0 → usableGeom s p (heldHdr i).geom = some g →
      (∀ e ∈ heldEnts i, isLocal s p e = true) → heldEnts i ≠ [] →
      devRead s (heldHdr i).qbase (queryLen (heldHdr i).qfmt (heldHdr i).hq g.1.2.2.1 (heldHdr i).nrows) = some q →
      (∀ r ∈ (partOf s p).remotes, r.w ≠ w) → (flagOf i.words 24 = true → misses = []) →
      (act ≠ .beyond → ∃ t j, exec (.attend w misses act) s = .next t ∧ issuedOf t w = some j ∧
        outcome (heldHdr i) (heldEnts i) j i.effects) ∧
      (act = .beyond → ∃ t, exec (.attend w misses act) s = .next t ∧ Finished t w St.badAct 0 [])) ∧
    (∀ h, w.queue ≠ inboxQueue → i.started = true → i.aux = 0 → i.due ≤ s.now →
      ∃ t, exec (.lateBoundExpiry w h) s = .next t ∧ issuedOf t w = some { i with checks := i.checks.map (fun c =>
        if c.1 = h ∧ c.2.1 = St.ok ∧ lowerTier s c.2.2 = true then (c.1, St.tierLate, c.2.2) else c) })

/-- MERGE ends with OK when its jobs could run: RESULT counts the jobs whose status is not OK and, from bit 16 on, the row-heads
without a sum, and its effects are the jobs' writes and what the ringmaster is told of each request's job. A job's sources are
merged in ascending SRCKEY and FIRSTBLK, in whatever order its list has them (R142, R144, R155, R217). LOADACT of an image that
passes the checks of R226, into slots of the partition on its own engines, ends with OK and the image's length, one whose digest
is wrong with BAD_ACT; its commit binds the key to the slot on every engine named, in place of an earlier binding of that key
(R226, R227). -/
def Obligations.MergeAndLoadact : Prop :=
  ((∀ (s : State) (w : IRef) (i : Issued) (hb jb : List Byte) rs, Working s w 0x21 i →
     devRead s (addrB i.words) 64 = some hb →
     let njobs := bits (leAt hb 0 8) 15 0
     let dCode := bits (leAt hb 0 8) 17 16
     let hq := bits (leAt hb 0 8) 47 32
     1 ≤ njobs → njobs ≤ 1024 → dCode ≠ 3 → 1 ≤ hq → hq ≤ 1024 → mayAccess s w.part (addrB i.words + 64) (32 * njobs) = true →
     devRead s (addrB i.words + 64) (32 * njobs) = some jb →
     runJobs s w.part (64 * 2 ^ dCode) hq ((pieces 32 jb).map mergeJob) = .ok rs →
     ∃ t, exec (.merge w) s = .next t ∧
       Finished t w St.ok
         ((rs.filter (fun r => r.status != St.ok)).length + (rs.map (·.empties)).foldl (· + ·) 0 * 2 ^ 16)
         ((rs.map (·.effects)).flatten ++ [.jobStatus (rs.filterMap (fun r => r.req.map (fun q => (q, r.status, r.blocks))))])) ∧
   (∀ xs : List MergeSrc, (mergeSort xs).Perm xs ∧
     (mergeSort xs).Pairwise (fun a b => a.key < b.key ∨ (a.key = b.key ∧ a.first ≤ b.first)))) ∧
  ((∀ (s : State) (w : IRef) (i : Issued) (hb image : List Byte), Working s w 0x22 i →
     let p := w.part
     let slot := bits (opA i.words) 23 16
     let engines := actEngines s p (bits (opA i.words) 15 0)
     devRead s (addrB i.words) 128 = some hb → actOk s p stepping hb = true → (∀ e ∈ engines, e ∈ enginesOf s p) →
     (sliceOf s p).actBase ≤ slot → slot + leAt hb 0x0C 4 / 0x1000 ≤ (sliceOf s p).actBase + (sliceOf s p).actSlots →
     mayAccess s p (addrB i.words) (leAt hb 0x0C 4) = true → devRead s (addrB i.words) (leAt hb 0x0C 4) = some image →
     (actDigestOk image = true → ∃ t, exec (.loadact w) s = .next t ∧
       Finished t w St.ok (leAt hb 0x0C 4) [.bindAct engines (bits (leAt hb 0x10 8) 22 0) slot (leAt hb 0x0C 4 / 0x1000)]) ∧
     (actDigestOk image = false → ∃ t, exec (.loadact w) s = .next t ∧ Finished t w St.badAct 0 [])) ∧
   (∀ (s : State) (p key slot : Nat) (engines : List Nat), ∀ e ∈ engines,
     let b := AMap.getD (partOf (bindAct s p engines key slot) p).bindings e []
     (key, slot) ∈ b ∧ (∀ x ∈ b, x.1 = key → x.2 = slot)))

/-- At the target a request that nothing refuses waits in the partition's attend inbox where that has room, and any other is
answered with the status of its first refusal and no triples (R150). At the requester the answer to the last remote request of
an ATTEND whose local entries are done ends it with OK: a refusal, an answer after REMOTE_WAIT and a wait that ends without an
answer count each of the request's entries in RESULT; a response's entries leave two writes each. An answer that nothing awaits
changes no partition (R148, R149, R151). -/
def Obligations.RemoteAttention : Prop :=
  (∀ (s : State) (m : AttendMsg), InTurn s (.attend true m) → m.level = 1 →
     (requestRefusal s m = none → attendRoom s m = true → ∃ t, exec (.attendReq m) s = .next t ∧
       partOf t m.tpart = { partOf s m.tpart with attendInbox := (partOf s m.tpart).attendInbox ++ [m] } ∧
       (∀ k, k ≠ m.tpart → partOf t k = partOf s k) ∧ DramSame s t) ∧
     (∀ st, requestRefusal s m = some st → (m.src.domain, m.src.ep) = me s → ∃ t a, exec (.attendReq m) s = .next t ∧
       t.noc = (takeNoc s (.attend true m)).noc ++ [.attend false a] ∧ a.status = st ∧ a.tag = m.tag ∧ a.tpart = m.src.part ∧
       a.body = [] ∧ (∀ k, partOf t k = partOf s k))) ∧
  (∀ (s : State) (w : IRef) (i : Issued) (r : Remote), Working s w 0x20 i → i.started = true → i.aux = 1 →
     (partOf s w.part).remotes = [r] → r.w = w →
     (∀ m : AttendMsg, InTurn s (.attend false m) → m.level = 1 → m.tpart = w.part →
       (r.tag = m.tag → r.target = (m.src.domain, m.src.ep) →
         (m.status ≠ St.ok → ∃ t j, exec (.attendResp m) s = .next t ∧ issuedOf t w = some j ∧ j.status = some St.ok ∧
           j.result = i.result + r.entries.length ∧ (partOf t w.part).remotes = []) ∧
         (m.status = St.ok → ∃ t j fx, exec (.attendResp m) s = .next t ∧ issuedOf t w = some j ∧ j.status = some St.ok ∧
           j.effects = i.effects ++ fx ∧ fx.length = 2 * r.entries.length ∧
           (r.due < s.now → j.result = i.result + r.entries.length) ∧ (partOf t w.part).remotes = [])) ∧
       (r.tag ≠ m.tag → ∃ t, exec (.attendResp m) s = .next t ∧ ∀ k, partOf t k = partOf s k)) ∧
     (r.due ≤ s.now →
       ∃ t j, exec (.remoteWaitExpiry w.part r.tag false) s = .next t ∧ issuedOf t w = some j ∧ j.status = some St.ok ∧
         j.result = i.result + r.entries.length ∧ (partOf t w.part).remotes = []))

/-! ## The prefix index (10_prefix_index.md) -/

/-- SEEK with its regulator off and every position equal to its good shadow: each key's record holds the entry at the lowest
position of the run that matches it, and RESULT counts the hits; at throttle step 4 every search is refused and the status
is BUSY (R271, R277, R290, R294). -/
def Obligations.SeekFindsTheLowestMatch : Prop :=
  (∀ (s : State) (w : IRef) (i : Issued) (bs : List Byte), Working s w 0x50 i → i.started = false → i.aux = 0 →
    i.result = 0 → i.effects = [] → i.held = [] → (regOf s w.part 3).1 = 0 →
    let p := w.part
    let keys := (pieces 24 bs).map keyOf
    let verify := flagOf i.words 24 || (partOf s p).verifyAll
    devRead s (addrB i.words) (24 * bits (opA i.words) 15 0) = some bs → keys.length = bits (opA i.words) 15 0 →
    (s.index.step ≠ 4 →
      (∀ x, shadowLost s x = false ∧ AMap.find? s.index.array x = AMap.find? s.index.shadow x) →
      ∃ t, exec (.seek w) s = .next t ∧ t.index = s.index ∧
        Finished t w St.ok (keys.filter (fun k => (search s p k).isSome)).length
          [.devWrite (extAddr i.words 1) (keys.map (fun k =>
            seekRecord (search s p k) (verify && (search s p k).isSome) false false)).flatten]) ∧
    (s.index.step = 4 → keys ≠ [] →
      ∃ t, exec (.seek w) s = .next t ∧ t.index.array = s.index.array ∧
        t.index.refused = (s.index.refused + keys.length) % 2 ^ 32 ∧
        Finished t w St.busy 0 [.devWrite (extAddr i.words 1) (keys.map (fun _ => seekRecord none false false true)).flatten])) ∧
  (∀ (s : State) (p key x : Nat) (e : IxEntry), AMap.wf s.index.array = true → search s p key = some (x, e) →
    AMap.find? s.index.array x = some e ∧ (ixRun s p).1 ≤ x ∧ x < (ixRun s p).2 ∧ ixMatches key e = true ∧
    (∀ y y', (ixRun s p).1 ≤ y → y < x → AMap.find? s.index.array y = some y' → ixMatches key y' = false))

/-- INSERT and DELETE of one record, and PAIR (R285, R287, R288). A new entry takes the lowest hole of its band's range that
R284 allows, and no other position changes; an equal one of the same band is replaced in place, and REPLACED and the old
RESULT go back into the record; a run without an allowed hole is INDEX_FULL. DELETE makes a hole where the entry stood, or
ends with NOT_FOUND. PAIR makes the moves of both its records first, then both changes, or nothing. The array keeps its canonical form. An entry is stored with its value
cleared where its mask bit is 0, and two entries are equal when values and masks are, whatever their bands (R275). -/
def Obligations.IndexWritesPlaceEntries : Prop :=
  (∀ (s : State) (w : IRef) (i : Issued) (bs b : List Byte), (partOf s w.part).respread = false →
    devRead s (addrB i.words) (48 * bits (opA i.words) 15 0) = some bs → pieces 48 bs = [b] → bits (opA i.words) 15 0 = 1 →
    (ixRecord b).ok = true → AMap.wf s.index.array = true →
    let p := w.part
    let r := runCopy s p
    let e := (ixRecord b).entry
    let word := leAt b 0x10 8
    let old := List.find? (fun (x : Nat × IxEntry) => sameEntry x.2 e) r.ents
    (Working s w 0x51 i → i.started = false → i.aux = 0 → i.result = 0 → i.effects = [] →
      (∀ x, old = none → lowestHole r (r.hi - r.lo) (bandRange r e.band).1 (bandRange r e.band).2 = some x →
        ∃ t, exec (.insert w) s = .next t ∧ Finished t w St.ok 1 [] ∧ AMap.find? t.index.array x = some e ∧
          AMap.find? t.index.shadow x = some e ∧
          (∀ y, y ≠ x → AMap.find? t.index.array y = AMap.find? s.index.array y)) ∧
      (∀ x o, old = some (x, o) → o.band = e.band →
        ∃ t, exec (.insert w) s = .next t ∧ Finished t w St.ok 1 (writeBack (addrB i.words) word o.result) ∧
          AMap.find? t.index.array x = some e ∧
          (∀ y, y ≠ x → AMap.find? t.index.array y = AMap.find? s.index.array y)) ∧
      (old = none → lowestHole r (r.hi - r.lo) (bandRange r e.band).1 (bandRange r e.band).2 = none →
        nearestHole r (bandRange r e.band) = none →
        ∃ t, exec (.insert w) s = .next t ∧ Finished t w St.indexFull 0 [] ∧ t.index = s.index)) ∧
    (Working s w 0x52 i →
      (∀ x o, old = some (x, o) →
        ∃ t, exec (.delete w) s = .next t ∧ Finished t w St.ok 1 (writeBack (addrB i.words) word o.result) ∧
          AMap.find? t.index.array x = none ∧
          (∀ y, y ≠ x → AMap.find? t.index.array y = AMap.find? s.index.array y)) ∧
      (old = none → ∃ t, exec (.delete w) s = .next t ∧ Finished t w St.notFound 0 [] ∧ t.index = s.index))) ∧
  (∀ (s : State) (w : IRef) (i : Issued) (bs : List Byte), Working s w 0x53 i → (partOf s w.part).respread = false →
    devRead s (addrB i.words) 96 = some bs → (ixRecord (bs.take 48)).ok = true → (ixRecord (bs.drop 48)).ok = true →
    AMap.wf s.index.array = true →
    let p := w.part
    let lim := shiftLimit s p
    let r := runCopy s p
    let a := ixRecord (bs.take 48)
    let b := ixRecord (bs.drop 48)
    (∀ m1 ms1 m2 ms2, planChange r r a lim i.started = .placed m1 ms1 → planChange r m1 b lim i.started = .placed m2 ms2 →
      let r2 := makeChange m2 (makeChange m2 m2 a (oldEntry r a.entry)) b (oldEntry r b.entry)
      ∃ t fx, exec (.pair w) s = .next t ∧ Finished t w St.ok 0 fx ∧
        (oldEntry r a.entry = none → oldEntry r b.entry = none → fx = []) ∧
        (∀ x, r2.lo ≤ x → x < r2.hi → AMap.find? t.index.array x = AMap.find? r2.ents x)) ∧
    (∀ m1 ms1 st, planChange r r a lim i.started = .placed m1 ms1 → planChange r m1 b lim i.started = .failed st →
      exec (.pair w) s = .next (finish s w st 0)) ∧
    (∀ st, planChange r r a lim i.started = .failed st → exec (.pair w) s = .next (finish s w st 0))) ∧
  (∀ (s : State) (x : Nat) (e : Option IxEntry), AMap.wf s.index.array = true →
    AMap.wf (writePos s x e).index.array = true) ∧
  (∀ (b : List Byte) (k : Nat), (ixRecord b).entry.mask.testBit k = false → (ixRecord b).entry.value.testBit k = false) ∧
  (∀ (b : List Byte) (k : Nat), (ixRecord b).entry.mask.testBit k = true → (ixRecord b).entry.value.testBit k =
    (leAt b 0 16 + bits (leAt b 0x10 8) 15 0 * 2 ^ 128).testBit k) ∧
  (∀ e e' : IxEntry, sameEntry e e' = true ↔ e.value = e'.value ∧ e.mask = e'.mask)

/-- SWEEP and the background sweep leave every position of the runs they compare equal to its shadow, where no shadow is
lost, and the RESULT of SWEEP counts the positions repaired; SWEEP with RESPREAD starts a re-spread and ends when that is done,
its RESULT the entries moved (R220, R286, R290, R291). A temperature sample sets the
throttle step: 4 from 110 °C on, 0 at 92 °C and below (R293). -/
def Obligations.IndexSweepsRepair : Prop :=
  ∀ s : State,
    (∀ (w : IRef) (i : Issued), Working s w 0x54 i → AMap.wf s.index.array = true → AMap.wf s.index.shadow = true →
      (flagOf i.words 24 = false → s.mem.errors = [] → s.index.shadowBad = [] →
        let n := ((List.range ((ixRun s w.part).2 - (ixRun s w.part).1)).filter (fun k =>
          AMap.find? s.index.array ((ixRun s w.part).1 + k) != AMap.find? s.index.shadow ((ixRun s w.part).1 + k))).length
        ∃ t, exec (.sweep w) s = .next t ∧ Finished t w St.ok n [] ∧ t.index.shadow = s.index.shadow ∧
          (∀ x, AMap.find? t.index.array x =
            if (ixRun s w.part).1 ≤ x ∧ x < (ixRun s w.part).2 then AMap.find? s.index.shadow x
            else AMap.find? s.index.array x)) ∧
      (flagOf i.words 24 = true → i.started = false →
        ∃ t, exec (.sweep w) s = .next t ∧ issuedOf t w = some { i with started := true } ∧
          (partOf t w.part).respread = true) ∧
      (i.started = true → (partOf s w.part).respread = true →
        ∃ t, exec (.respreadDone w.part) s = .next t ∧
          issuedOf t w = some { i with status := some St.ok, result := (respreadRun (runCopy s w.part)).2 } ∧
          (partOf t w.part).respread = false)) ∧
    (ready s = true → s.index.sweepEnable = true → s.index.sweepAt + 100000000 * max 1 s.index.sweepForce ≤ s.now →
      AMap.wf s.index.array = true → AMap.wf s.index.shadow = true → s.mem.errors = [] → s.index.shadowBad = [] →
      ∃ t, exec .mirrorSweep s = .next t ∧ t.index.sweepAt = s.now ∧ t.index.sweepForce = s.index.sweepPeriod ∧
        (∀ p x, composed s p = true → (ixRun s p).1 ≤ x → x < (ixRun s p).2 →
          AMap.find? t.index.array x = AMap.find? s.index.shadow x)) ∧
    (∀ c, ∃ t, exec (.ixTempSample c) s = .next t ∧ t.index.temp = c % 256 ∧
      t = { s with index := { s.index with temp := t.index.temp, step := t.index.step } } ∧
      (110 ≤ c → t.index.step = 4) ∧ (c ≤ 92 → t.index.step = 0) ∧
      (95 ≤ c → c < 100 → s.index.step = 0 → t.index.step = 1))

/-! ## The link transcoder (09_link_transcoder.md) -/

/-- XSET of a record that R247 or R254 accepts ends with OK and leaves the stream or the context for its commit, which
zeroes the counters, and of another ends with BAD_OPERAND; XSTAT reads the counters at its commit and its RESULT is the
clipped share; EXPAND of a whole image to this module leaves the expanded bytes for its commit, to another endpoint it launches
its STOREs and waits, and of a header at fault it ends with BAD_FORMAT (R219, R246, R254, R260, R264, R265). -/
def Obligations.TranscoderInstructionsEnd : Prop :=
  (∀ (s : State) (w : IRef) (i : Issued) (image : List Byte), Working s w 0x40 i → devRead s (addrB i.words) 64 = some image →
    let port := bits (opA i.words) 4 0
    let stream := bits (opA i.words) 15 8
    (stream < 0x80 →
      (streamRecordOk port (streamOfImage w.part image) = true →
        exec (.xset w) s = .next (finish s w St.ok 0 [.setStream port stream image])) ∧
      (streamRecordOk port (streamOfImage w.part image) = false →
        exec (.xset w) s = .next (finish s w St.badOperand 0))) ∧
    (0x80 ≤ stream →
      (rctxRecordOk (rctxOfImage image) = true →
        (∀ r ∈ rctxRegions (rctxOfImage image), mayAccess s w.part r.1 r.2 = true) →
        exec (.xset w) s = .next (finish s w St.ok 0 [.setReduce (stream - 0x80) image])) ∧
      (rctxRecordOk (rctxOfImage image) = false → exec (.xset w) s = .next (finish s w St.badOperand 0)))) ∧
  (∀ (s : State) (p port n : Nat) (image : List Byte),
    streamOf (setStream s p port n image) port n = streamOfImage p image ∧ (streamOfImage p image).total = 0 ∧
    (streamOfImage p image).clipped = 0 ∧ (streamOfImage p image).nanBlocks = 0 ∧
    rctxOf (setReduce s p n image) p n = rctxOfImage image ∧ (rctxOfImage image).total = 0) ∧
  (∀ (s : State) (w : IRef) (i : Issued), Working s w 0x41 i →
    exec (.xstat w) s = .next (finish s w St.ok 0 [.statsRead (decide (bits (opA i.words) 4 0 < 16)) (bits (opA i.words) 4 0)
      (bits (opA i.words) 15 8) (addrB i.words) (flagOf i.words 24)])) ∧
  (∀ (s : State) (p port stream addr : Nat) (clear : Bool),
    let c := statsOf s p port stream
    let r := readStats s p port stream addr clear
    r.2 = clipShare c.1 c.2.1 ∧ (clear = true → statsOf r.1 p port stream = (0, 0, 0)) ∧
    (clear = false → statsOf r.1 p port stream = c)) ∧
  (∀ (s : State) (w : IRef) (i : Issued) (h : List Byte), Working s w 0x42 i → i.started = false →
    let img := addrB i.words
    let len := bits (opA i.words) 31 0
    let off := extAddr i.words 1
    let target := bits (extLo i.words 1) 57 48
    64 ≤ len → devRead s img 64 = some h →
    (imageHeader h = none → exec (.expand w) s = .next (finish s w St.badFormat 0)) ∧
    (∀ width nchunk bs, imageHeader h = some (width, bits (extHi i.words 1) 31 0, nchunk) → 0x40 + 4 * nchunk ≤ len →
      imageChunks s img len width (bits (extHi i.words 1) 31 0) 0 nchunk = .ok bs → bs ≠ [] →
      (target = (me s).2 →
        exec (.expand w) s = .next (finish s w St.ok (bits (extHi i.words 1) 31 0) [.devWrite off bs])) ∧
      (target ≠ (me s).2 → setBits 16 (pathSet s w.part target) ≠ [] → mustHold s w.part target = false → s.poltex.held = [] →
        ∃ t, exec (.expand w) s = .next t ∧
          issuedOf t w = some { i with started := true, sentAt := s.now, result := bits (extHi i.words 1) 31 0 } ∧
          Launched s t w 2 target ((storePieces (bs.length + 1) off bs).map (fun e => (e.1, e.2.length))) ∧ DramSame s t)))

/-- A segment from an endpoint that may not reach the partition is answered with ADDRESS and logged; one of another level is
discarded (R47, R328). At its target a segment is written in its expanded form, and its sender gets OK, but one that would write
into a weight window is refused with ADDRESS (R266); a contribution to a
context that is not enabled is refused with BAD_OPERAND; one of one block adds its values to the block's accumulators and one
to its count (R253, R255). At a round's limit the round ends and the context is disabled (R258). -/
def Obligations.SegmentsAtTheirTarget : Prop :=
  ∀ (s : State) (p port src : Nat) (g : Segment), ready s = true → composed s p = true →
    let c := rctxOf s p g.rctx
    let nw := nativeWidth g.native
    let first := bits g.dest 19 0
    (g.level ≠ 1 → exec (.segmentArrival p port src g) s = .next (segmentError s port) ∧
      exec (.contributionSegment p port src g) s = .next (segmentError s port)) ∧
    (g.level = 1 → mayReach s p port src = false →
      (∃ t, exec (.segmentArrival p port src g) s = .next t ∧ t.out.getLast? = some (.segAnswer port src St.address) ∧
        ∀ ci, rctxOf t p ci = rctxOf s p ci) ∧
      (∃ t, exec (.contributionSegment p port src g) s = .next t ∧ t.out.getLast? = some (.segAnswer port src St.address) ∧
        ∀ ci, rctxOf t p ci = rctxOf s p ci)) ∧
    (∀ bs, g.level = 1 → mayReach s p port src = true → segmentData { g with reduce := false } = some bs →
      (port < 16 → weightWindow s port g.dest bs.length = none →
        accessVerdict s ⟨p, selfParty s p, true⟩ g.dest bs.length true = St.ok → GoodMemory s →
        ∃ t, exec (.segmentArrival p port src g) s = .next t ∧ t.out = s.out ++ [.segAnswer port src St.ok] ∧
          Stored s t g.dest bs ∧ t.parts = s.parts ∧ t.home = s.home) ∧
      (16 ≤ port → accessVerdict s ⟨p, selfParty s p, true⟩ g.dest bs.length true = St.ok → GoodMemory s →
        ∃ t, exec (.segmentArrival p port src g) s = .next t ∧ t.out = s.out ++ [.segAnswer port src St.ok] ∧
          Stored s t g.dest bs ∧ t.parts = s.parts ∧ t.home = s.home) ∧
      (port < 16 → (weightWindow s port g.dest bs.length).isSome = true →
        ∃ t, exec (.segmentArrival p port src g) s = .next t ∧ t.out.getLast? = some (.segAnswer port src St.address))) ∧
    (g.level = 1 → mayReach s p port src = true →
      g.nativeLen ≠ 0 → g.nativeLen % (32 * nw) = 0 → g.nativeLen ≤ 4096 → c.enable = false →
      ∃ t, exec (.contributionSegment p port src g) s = .next t ∧ t.out.getLast? = some (.segAnswer port src St.badOperand) ∧
        rctxOf t p g.rctx = c) ∧
    (∀ body qs, g.level = 1 → mayReach s p port src = true → g.nativeLen = 32 * nw → c.enable = true →
      g.wire = c.wire → first + 1 ≤ c.nblk → segmentBody { g with reduce := true } = some body →
      (∀ x ∈ bodyScales g.wire body, x = (if c.wire = 5 then c.expScale + c.expShift * 2 ^ 16 else c.expE)) →
      (pieces 32 (bodyValues g.wire body)).head? = some qs → qs.length = 32 → GoodMemory s →
      word32 s (c.cnt + 4 * first) + 1 < c.k → c.k ≤ 4096 →
      c.cnt + 4 * first + 4 ≤ c.acc + 128 * first ∨ c.acc + 128 * first + 128 ≤ c.cnt + 4 * first →
      ∃ t, exec (.contributionSegment p port src g) s = .next t ∧ t.out = s.out ++ [.segAnswer port src St.ok] ∧
        word32 t (c.cnt + 4 * first) = word32 s (c.cnt + 4 * first) + 1 ∧
        (∀ k, k < 32 → word32 t (c.acc + 128 * first + 4 * k) =
          unsignedOf 32 (signed 32 (word32 s (c.acc + 128 * first + 4 * k)) + qs.getD k 0))) ∧
    (∀ ci t0, (rctxOf s p ci).started = some t0 → (rctxOf s p ci).enable = true → (rctxOf s p ci).limit ≠ 0 →
      t0 + (rctxOf s p ci).limit * 1000 ≤ s.now →
      ∃ t, exec (.roundLimitExpiry p ci) s = .next t ∧ (rctxOf t p ci).enable = false ∧ (rctxOf t p ci).started = none ∧
        (rctxOf t p ci).missing =
          ((List.range (rctxOf s p ci).nblk).filter (fun b => !(rctxOf s p ci).doneBlks.contains b)).length)

/-! ## Poltex (12_rack_fabric.md, 07_instruction_set.md) -/

/-- LOAD, STORE, ATOMIC and MSG to an endpoint with a live path, where nothing is held back, launch their transactions and
wait: a LOAD one for each aligned piece of its lines, an ATOMIC and a MSG one, a STORE its whole length, plain or as the
segments of the stream that claims it (R221, R245, R338, R341, R350). With no path left the target is dead: each ends with
DEAD_TARGET (R342). -/
def Obligations.FabricInstructionsLaunch : Prop :=
  ∀ (s : State) (w : IRef) (i : Issued), i.started = false →
    let ws := i.words
    let target := fabricTarget ws
    mustHold s w.part target = false → s.poltex.held = [] →
    let lines := bits (opA ws) 31 16
    let started := { i with started := true, sentAt := s.now }
    let dead := fun (a : Answer) => ∃ t j, a = .next t ∧ issuedOf t w = some j ∧ j.status = some St.deadTarget
    (setBits 16 (pathSet s w.part target) ≠ [] →
      (Working s w 0x60 i → 1 ≤ lines → ∃ t, exec (.load w) s = .next t ∧ issuedOf t w = some started ∧
        Launched s t w 1 target (linePieces (flagOf ws 24) lines (addrB ws) (64 * lines)) ∧ DramSame s t) ∧
      (∀ bs, Working s w 0x61 i → 1 ≤ lines → devRead s (extAddr ws 1) (64 * lines) = some bs → bs.length = 64 * lines →
        ∃ t ps, exec (.store w) s = .next t ∧ issuedOf t w = some started ∧ Launched s t w 2 target ps ∧
          (ps.map Prod.snd).sum = 64 * lines ∧ DramSame s t) ∧
      (Working s w 0x62 i → ∃ t, exec (.atomic w) s = .next t ∧ issuedOf t w = some started ∧
        Launched s t w 3 target [(addrB ws, if bit (opA ws) 14 then 8 else 4)] ∧ DramSame s t) ∧
      (∀ bs, Working s w 0x63 i → devRead s (addrB ws) lines = some bs → bs.length = lines →
        ∃ t, exec (.msg w) s = .next t ∧ issuedOf t w = some started ∧
          Launched s t w 4 target [(bits (extLo ws 1) 31 0, lines)] ∧ DramSame s t)) ∧
    (setBits 16 (pathSet s w.part target) = [] → fabricPending s w = false →
      (Working s w 0x60 i → 1 ≤ lines → dead (exec (.load w) s)) ∧
      (Working s w 0x61 i → 1 ≤ lines → (devRead s (extAddr ws 1) (64 * lines)).isSome = true → dead (exec (.store w) s)) ∧
      (Working s w 0x62 i → dead (exec (.atomic w) s)) ∧
      (Working s w 0x63 i → (devRead s (addrB ws) lines).isSome = true → dead (exec (.msg w) s)))

/-- DATA and CPL end the instruction whose last transaction they answer, with their status: a LOAD's data are left for its
commit, an ATOMIC's RESULT is the old value (R346). An answer to no transaction is counted as late. A transaction that its
bound passes ends its instruction with DEAD_TARGET, a LOAD's bytes all ones (R350). -/
def Obligations.FabricAnswersEndInstructions : Prop :=
  ∀ (s : State), ready s = true → s.poltex.held = [] →
    (∀ (w : IRef) (i : Issued) (x : Txn), issuedOf s w = some i → i.started = true → i.status = none → i.aux = 0 →
      x.w = some w → x.dev = none → (∀ y ∈ s.poltex.txns, y.tag ≠ x.tag → y.w ≠ some w) →
      (∀ k : Packet, s.poltex.txns.find? (fun t => t.tag == k.tag && t.target == k.src) = some x →
        let st := bits k.addr 7 0
        let fx := if x.op = 1 ∧ st = St.ok ∧ x.len ≠ 0 then i.effects ++ [.devWrite x.dst k.payload] else i.effects
        (Arrives s { k with op := 8 } →
          ∃ t j, exec (.data k) s = .next t ∧ issuedOf t w = some j ∧ j.status = some st ∧ j.effects = fx ∧
            (x.op = 3 → st = St.ok → j.result = fromLe k.payload) ∧ t.poltex.txns = s.poltex.txns.filter (fun y => y.tag != x.tag)) ∧
        (Arrives s { k with op := 9 } →
          ∃ t j, exec (.cpl k) s = .next t ∧ issuedOf t w = some j ∧ j.status = some st ∧ j.effects = fx ∧
            (x.op = 3 → st = St.ok → j.result = fromLe k.payload) ∧ t.poltex.txns = s.poltex.txns.filter (fun y => y.tag != x.tag))) ∧
      (∀ tag, s.poltex.txns.find? (fun t => t.tag == tag && decide (t.deadline ≤ s.now)) = some x →
        ∃ t j, exec (.deadBoundExpiry tag) s = .next t ∧ issuedOf t w = some j ∧ j.status = some St.deadTarget ∧
          (x.op = 1 → opcodeOf i.words = 0x60 →
            j.effects = i.effects ++ [.devWrite x.dst (List.replicate x.len 0xFF)] ∧ j.result = i.result + x.len / 64))) ∧
    (∀ k : Packet, s.poltex.txns.find? (fun t => t.tag == k.tag && t.target == k.src) = none →
      (Arrives s { k with op := 8 } →
        ∃ t, exec (.data k) s = .next t ∧ t.poltex.late = s.poltex.late + 1 ∧ t.parts = s.parts ∧ t.mem = s.mem) ∧
      (Arrives s { k with op := 9 } →
        ∃ t, exec (.cpl k) s = .next t ∧ t.poltex.late = s.poltex.late + 1 ∧ t.parts = s.parts ∧ t.mem = s.mem))

/-- Requests at their target (R266, R338, R343, R345 to R349): a LOAD that is allowed is answered with the bytes read, one of a
weight window with the expanded bytes; a LOAD, STORE
or ATOMIC that is not is answered with the refusal's status and no bytes; an allowed STORE, ATOMIC or whole segment joins the
operations for its lines, in their units where they are free and have room, else behind them; a line's unit applies the first
that arrived for it and answers it, an ATOMIC with the old value. The packets of a segment or a message are gathered; a whole
message stands in its partition's inbox, one without room waits, a device message goes to its mechanism, and one that may not
reach its partition is answered with ADDRESS. -/
def Obligations.PoltexRequestsAreServed : Prop :=
  ∀ (s : State) (k : Packet),
    let me_ := fun (part op st : Nat) (payload : List Byte) =>
      Out.packet { ownPacket s part op k.tc k.src k.tag st payload.length payload with port := k.port }
    let concerned := (concernedPart s k.src k.addr).getD 0
    let k1 := { k with op := 1 }
    let k2 := { k with op := 2 }
    let k3 := { k with op := 3 }
    let k4 := { k with op := 4 }
    (Arrives s k1 → weightWindow s k.port k.addr k.plen = none →
      (∀ x bs, poltexVerdict s k1 = .ok x → devRead s k.addr k.plen = some bs →
        ∃ t, exec (.poltexLoad k) s = .next t ∧ Waits t k.port (me_ x.part 8 St.ok bs) ∧ DramSame s t) ∧
      (∀ st, poltexVerdict s k1 = .error st →
        ∃ t, exec (.poltexLoad k) s = .next t ∧ Waits t k.port (me_ concerned 8 st []))) ∧
    (∀ x, Arrives s k1 → weightWindow s k.port k.addr k.plen = some x →
      (∀ bs, mayUseWindow s k1 x.part = true → inGranule k.addr k.plen = true → windowLoad s x k.addr k.plen = .ok bs →
        ∃ t, exec (.poltexLoad k) s = .next t ∧ Waits t k.port (me_ x.part 8 St.ok bs) ∧ DramSame s t) ∧
      (mayUseWindow s k1 x.part = false ∨ inGranule k.addr k.plen = false →
        ∃ t, exec (.poltexLoad k) s = .next t ∧ Waits t k.port (me_ concerned 8 St.address []))) ∧
    (Arrives s k2 → k.seg = false →
      (∀ x, poltexVerdict s k2 = .ok x → ∃ t o, exec (.poltexStore k) s = .next t ∧ DramSame s t ∧
        t.poltex.lineOps = s.poltex.lineOps ++ [o] ∧ o.pkt = k2 ∧ o.inUnit = mayEnter s s.poltex.lineOps k2) ∧
      (∀ st, poltexVerdict s k2 = .error st → ∃ t, exec (.poltexStore k) s = .next t ∧ Waits t k.port (me_ concerned 9 st []) ∧
        t.poltex.lineOps = s.poltex.lineOps)) ∧
    (Arrives s k2 → k.seg = true → k.last = false → ∃ t, exec (.poltexStore k) s = .next t ∧ DramSame s t ∧
      trainOf t k.src k.tc = (if k.first then [] else trainOf s k.src k.tc) ++ k.payload) ∧
    (Arrives s k2 → k.seg = true → k.last = true →
      let bs := (if k.first then [] else trainOf s k.src k.tc) ++ k.payload
      let g := segmentOf bs
      g.1.level = 1 → g.1.reduce = false → g.2 = g.1.body.length → g.1.nativeLen ≤ 4096 → (segmentAccess s k2 g.1).isSome = true →
      ∃ t o, exec (.poltexStore k) s = .next t ∧ DramSame s t ∧ t.poltex.lineOps = s.poltex.lineOps ++ [o] ∧
        o.pkt = { k2 with payload := bs } ∧ o.inUnit = mayEnter s s.poltex.lineOps { k2 with payload := bs }) ∧
    (Arrives s k3 →
      (∀ x, poltexVerdict s k3 = .ok x → ∃ t o, exec (.poltexAtomic k) s = .next t ∧ DramSame s t ∧
        t.poltex.lineOps = s.poltex.lineOps ++ [o] ∧ o.pkt = k3 ∧ o.inUnit = mayEnter s s.poltex.lineOps k3) ∧
      (∀ st, poltexVerdict s k3 = .error st → ∃ t, exec (.poltexAtomic k) s = .next t ∧ Waits t k.port (me_ concerned 9 st []) ∧
        t.poltex.lineOps = s.poltex.lineOps)) ∧
    (∀ line n o x, ready s = true →
      ((List.range s.poltex.lineOps.length).zip s.poltex.lineOps).find? (fun e => (opLines e.2.pkt).contains line) = some (n, o) →
      let left := (s.poltex.lineOps.eraseIdx n).map (·.pkt)
      (o.inUnit = false → exec (.atomicUnitApply line) s = .next s) ∧
      (o.inUnit = true → o.pkt = k → GoodMemory s → poltexVerdict s k = .ok x →
        (k.op = 2 → k.seg = false → ∃ t, exec (.atomicUnitApply line) s = .next t ∧ Stored s t k.addr k.payload ∧
          Waits t k.port (me_ x.part 9 St.ok []) ∧ t.poltex.lineOps.map (·.pkt) = left) ∧
        (k.op = 3 → let m := requestLen k
          let old := fromLe (rawBytes s.mem k.addr m)
          ∃ t, exec (.atomicUnitApply line) s = .next t ∧
            Stored s t k.addr (toLe m (atomicValue k.aop (8 * m) old (leAt k.payload 0 m) (leAt k.payload 8 m))) ∧
            Waits t k.port (me_ x.part 9 St.ok (toLe 8 old)) ∧ t.poltex.lineOps.map (·.pkt) = left))) ∧
    (Arrives s k4 →
      let p := bits k.addr 35 32
      let b := bindOf s k.src
      let allowed := composed s p = true ∧ bit (nearPorts s p) k.port = true ∧ (b.1 = 2 ∨ b = (1, p))
      (k.last = false → ((if k.first then [] else trainOf s k.src k.tc) ++ k.payload).length ≤ trainBound k4 →
        ∃ t, exec (.poltexMsg k) s = .next t ∧ DramSame s t ∧
          trainOf t k.src k.tc = (if k.first then [] else trainOf s k.src k.tc) ++ k.payload) ∧
      (k.first = true → k.last = true → k.seg = false → k.payload.length ≤ 4096 →
        (bits k.addr 31 0 ≠ 0xFFFFFFFF → allowed →
          (inboxRoom s p k.payload.length = true →
            ∃ t, exec (.poltexMsg k) s = .next t ∧ (partOf t p).inbox = (partOf s p).inbox ++ [k.payload] ∧
              Waits t k.port (me_ p 9 St.ok []) ∧ DramSame s t) ∧
          (inboxRoom s p k.payload.length = false → exec (.poltexMsg k) s = .next s)) ∧
        (bits k.addr 31 0 ≠ 0xFFFFFFFF → ¬allowed →
          ∃ t, exec (.poltexMsg k) s = .next t ∧ Waits t k.port (me_ concerned 9 St.address [])) ∧
        (∀ o, bits k.addr 31 0 = 0xFFFFFFFF → b.1 = 2 → attendHeld s k.payload = false →
          deviceMessageOf s ⟨(me s).1, k.src, k.spart, k.epoch⟩ p k.payload = some o →
          ∃ t, exec (.poltexMsg k) s = .next t ∧ o ∈ t.noc ∧ Waits t k.port (me_ p 9 St.ok []) ∧ DramSame s t)))

/-- Near ports (R329 to R337): an LSTATE of a listed endpoint sets the planes heard from it, and every 100 µs the module
sends its own on every live plane; a flit that cannot be corrected or is out of order is discarded, and the port's next flit
asks for replay; one in order moves the expected SEQ on, hands on its packets, and the next flit acknowledges it; a port whose
training finds four lanes or more is UP at their number, at most 8, else DOWN; one whose partner does not answer in 100 ms
has none; a lane that fails takes the spare where one is free, and takes the port DOWN at width 4; the trained spare takes the
place of the lane that failed. -/
def Obligations.NearPortsFollowTheirLinks : Prop :=
  ∀ (s : State), ready s = true →
    (∀ k : Packet, Arrives s { k with op := 0xC } → (bindOf s k.src).1 ≠ 0 →
      ∃ t, exec (.lstate k) s = .next t ∧ heardMask t k.src = leAt k.payload 0 2) ∧
    (s.poltex.lastLstate + 100000 ≤ s.now → ∃ t, exec .lstateTimer s = .next t ∧ t.poltex.lastLstate = s.now ∧
      t.parts = s.parts ∧ t.mem = s.mem ∧
      ∀ e ∈ (compOf s).binds, e.2.1 = 1 ∨ e.2.1 = 2 → ∀ port ∈ setBits 16 (livePlanes s),
        let mask := if e.2.1 = 1 then Nat.land (livePlanes s) (nearPorts s e.2.2) else livePlanes s
        Waits t port (.packet { ownPacket s e.2.2 0xC 0 e.1 0 0 8 (toLe 8 mask) with port := port })) ∧
    (∀ port flit, (nearPort s port).state = .up →
      let n := nearPort s port
      let idle := (List.replicate (ceilDiv (256 - n.tx.length) 32) (idleBytes (me s).2 n.partner)).flatten
      let next := fun (m : NearPort) (f : Flit) => f.seq = n.sendSeq ∧ f.stream = (n.tx ++ idle).take 256 ∧
        f.cls = (creditsBack m).1 ∧ f.units = (creditsBack m).2
      let flitOut := fun (m : NearPort) (f : Flit) => Out.flit port n.sendSeq (onLanes n (flitEncode (linkWord m f) f.stream))
      let calm := noisyLanes s port = [] ∧ linkReady s port 1 = true ∧ n.tx.length < 256
      ((flitDecode flit = none ∨ ∃ lw body, flitDecode flit = some (lw, body) ∧ bits lw 11 0 ≠ n.expSeq) →
        ∃ t, exec (.flitReceive port flit) s = .next t ∧ (nearPort t port).expSeq = n.expSeq ∧
          (nearPort t port).replays = min 0xFFFF (n.replays + 1) ∧ t.noc = s.noc) ∧
      (flitDecode flit = none → calm → ∃ t f, exec (.flitReceive port flit) s = .next t ∧ next n f ∧
        t.out = s.out ++ [flitOut { n with nak := true } f]) ∧
      (∀ lw body, flitDecode flit = some (lw, body) → bits lw 11 0 = n.expSeq →
        ∃ t, exec (.flitReceive port flit) s = .next t ∧ (nearPort t port).expSeq = (n.expSeq + 1) % 4096 ∧
          (nearPort t port).acked = bits lw 23 12 ∧
          t.noc = s.noc ++ ((parsePackets port 64 (n.stream ++ body)).1.filter
            (fun k => k.level == n.level && knownOp k.op)).map Out.packet ∧
          (flitErrors flit = some [] → calm → bit lw 24 = false → (parsePackets port 64 (n.stream ++ body)).1 = [] →
            ∃ f, next n f ∧ t.out = s.out ++ [flitOut { n with expSeq := (n.expSeq + 1) % 4096, nak := false } f]))) ∧
    (∀ port lanes partner level, port < 16 → level ≠ 0 →
      (nearPort s port).state = .training ∨ (nearPort s port).state = .noPartner →
      let k := (setBits 9 lanes).length
      (4 ≤ k → ∃ t, exec (.linkTraining port lanes partner level) s = .next t ∧ (nearPort t port).state = .up ∧
        (nearPort t port).width = min 8 k ∧ (nearPort t port).partner = partner) ∧
      (k < 4 → ∃ t, exec (.linkTraining port lanes partner level) s = .next t ∧ (nearPort t port).state = .down)) ∧
    (∀ port, (nearPort s port).state = .training → (nearPort s port).trainAt + 100000000 ≤ s.now →
      ∃ t, exec (.partnerTimeout port) s = .next t ∧ nearPort t port = { nearPort s port with state := .noPartner } ∧
        (∀ k, k ≠ port → nearPort t k = nearPort s k)) ∧
    (∀ port lane, (nearPort s port).state = .up → lane < 9 → bit (nearPort s port).failed lane = false →
      let n := nearPort s port
      (lane = 8 → n.spareUsed = false → ∃ t, exec (.laneFailure port lane) s = .next t ∧
        nearPort t port = { n with failed := putBit n.failed 8 true, spareBad := true, spareBusy := false }) ∧
      (lane < 8 → n.width ≠ 4 → n.spareUsed = false → n.spareBad = false → n.spareBusy = false →
        ∃ t, exec (.laneFailure port lane) s = .next t ∧
          let m := nearPort t port
          m.state = .up ∧ m.failed = putBit n.failed lane true ∧ m.spareBusy = true ∧ m.lanes = n.lanes.filter (· != lane) ∧
          m.width = (n.lanes.filter (· != lane)).length ∧ s.now ≤ m.quietUntil ∧ m.quietUntil ≤ s.now + 2000) ∧
      (lane < 8 ∨ n.spareUsed = true → n.width ≠ 4 → n.spareUsed = true ∨ n.spareBad = true ∨ n.spareBusy = true →
        ∃ t, exec (.laneFailure port lane) s = .next t ∧
          let m := nearPort t port
          m.state = .up ∧ m.failed = putBit n.failed lane true ∧ m.spareBusy = n.spareBusy ∧
          m.lanes = n.lanes.filter (· != lane) ∧ m.width = m.lanes.length) ∧
      (lane < 8 ∨ n.spareUsed = true → n.width = 4 → ∃ t, exec (.laneFailure port lane) s = .next t ∧ (nearPort t port).state = .down)) ∧
    (∀ port, (nearPort s port).state = .up → (nearPort s port).spareBusy = true →
      let n := nearPort s port
      ∃ t, exec (.spareLaneTrained port) s = .next t ∧
        let m := nearPort t port
        m.state = .up ∧ m.spareBusy = false ∧ m.spareUsed = true ∧
        m.lanes = n.lanes.take n.spareAt ++ [8] ++ n.lanes.drop n.spareAt ∧ m.width = m.lanes.length)

/-! ## Tlaley (13_remote_access.md, 07_instruction_set.md) -/

/-- PUT, GET and SEND on an open connection of the partition queue their transfer behind the earlier ones and wait; on any
other they end with NO_CONNECTION. CONNECT to a module of another domain takes the lowest free number and sends OPEN, without a
free number it ends with NO_CONNECTION, and to the own domain or an endpoint above 127 with BAD_OPERAND; DISCONNECT of a
connection with no transfer left and no earlier instruction on it closes it, and frees a failed one at once (R23, R222, R339, R365, R366). That a connection
within the own domain is refused is the model's choice (log entry 120). -/
def Obligations.RemoteInstructionsStart : Prop :=
  ∀ (s : State) (w : IRef) (i : Issued), i.started = false →
    let ws := i.words
    let n := connNumber ws
    let c := connOf s n
    let started := { i with started := true, sentAt := s.now }
    let len := bits (extHi ws 1) 31 0
    (ownsConn s w.part n = true → c.state = .open_ → c.onChip = true →
      (Working s w 0x70 i → (devRead s (addrB ws) len).isSome = true →
        ∃ t x, exec (.put w) s = .next t ∧ issuedOf t w = some started ∧ (connOf t n).xfers = c.xfers ++ [x] ∧
          x.w = some w ∧ x.op = 1 ∧ x.first = c.allocated ∧ x.src = addrB ws ∧ x.len = len ∧ x.raddr = extAddr ws 1 ∧
          x.key = bits (extHi ws 1) 63 32 ∧ (connOf t n).allocated = (c.allocated + x.npsn) % 2 ^ 24 ∧ DramSame s t) ∧
      (Working s w 0x71 i → 1 ≤ len →
        ∃ t xs, exec (.get w) s = .next t ∧ issuedOf t w = some started ∧ (connOf t n).xfers = c.xfers ++ xs ∧
          (∀ x ∈ xs, x.w = some w ∧ x.op = 2) ∧ (xs.map (fun x => x.len)).sum = len ∧ DramSame s t) ∧
      (Working s w 0x72 i → (devRead s (addrB ws) (bits (extLo ws 1) 31 0)).isSome = true →
        ∃ t x, exec (.send w) s = .next t ∧ issuedOf t w = some started ∧ (connOf t n).xfers = c.xfers ++ [x] ∧
          x.w = some w ∧ x.op = 4 ∧ x.first = c.allocated ∧ x.src = addrB ws ∧ x.len = bits (extLo ws 1) 31 0 ∧ DramSame s t)) ∧
    (ownsConn s w.part n = false ∨ c.state ≠ .open_ →
      (Working s w 0x70 i → exec (.put w) s = .next (finish s w St.noConnection 0)) ∧
      (Working s w 0x71 i → exec (.get w) s = .next (finish s w St.noConnection 0)) ∧
      (Working s w 0x72 i → exec (.send w) s = .next (finish s w St.noConnection 0))) ∧
    (∀ d, Working s w 0x73 i → devRead s (addrB ws) 48 = some d →
      let x := leAt d 0 8
      (bits x 27 26 ≠ 3 → bits x 11 0 ≠ (me s).1 → bits x 21 12 < 128 →
        (∀ m, lowestFree s w.part = some m →
          ∃ t j, exec (.connect w) s = .next t ∧ issuedOf t w = some j ∧ j.started = true ∧ j.result = m ∧ j.status = none ∧
            (connOf t m).state = .opening ∧ (connOf t m).opener = some w ∧ (connOf t m).part = w.part ∧ (connOf t m).tries = 1 ∧
            (connOf t m).rebuilds = (connOf (makeRoom s) m).rebuilds + 1 ∧
            j.effects = [.devWrite (addrB ws + 0x08) (toLe 8 (m + (connOf t m).lcepoch * 2 ^ 32))]) ∧
        (lowestFree s w.part = none → exec (.connect w) s = .next (finish s w St.noConnection 0))) ∧
      (bits x 27 26 = 3 ∨ bits x 11 0 = (me s).1 ∨ 128 ≤ bits x 21 12 →
        exec (.connect w) s = .next (finish s w St.badOperand 0))) ∧
    (Working s w 0x74 i →
      (ownsConn s w.part n = true → c.state = .open_ → c.onChip = true → c.xfers = [] → earlierOnConn s w n = false →
        ∃ t, exec (.disconnect w) s = .next t ∧ issuedOf t w = some started ∧
          (connOf t n).state = .closing ∧ (connOf t n).closer = some w ∧ (connOf t n).tries = 1) ∧
      (ownsConn s w.part n = true → c.state = .failed → c.onChip = true → ∃ t, exec (.disconnect w) s = .next t ∧ Finished t w St.ok 0 [] ∧
        connOf t n = { rebuilds := c.rebuilds }) ∧
      (ownsConn s w.part n = false → exec (.disconnect w) s = .next (finish s w St.noConnection 0)))

/-- Packets of an open connection (R368 to R374, R378): a WRITE in order that its space allows, whole or the last packet of a
segment, is stored and moves the expected PSN on; a packet of a segment that its space does not allow is refused, and the rest of
the segment is not applied (log entry 146); a READ_REQ in order moves the expected PSN on by its PSNs; a one-packet SEND stands in
the inbox, or with DEV goes to its mechanism; an ACK of every PSN, or the READ_RESP of a GET's last, ends the one transfer and its
instruction, an earlier READ_RESP leaves its bytes; a NAK of a gap goes back to the first unacknowledged PSN, one of NOT_READY
waits, one of a refusal ends the transfer with its status; an ECHO lowers the rate. -/
def Obligations.TlaleyPackets : Prop :=
  ∀ (s : State) (k : TPacket) (c : Conn), Enters s k c →
    let n := k.dconn
    let g := segmentOf (messageWith c k)
    (k.op = 1 → k.psn = c.expected →
      (∀ a, k.seg = false → k.payload ≠ [] → GoodMemory s → writeAddress s c k k.payload.length = some a →
        (k.dev = false → accessVerdict s (connAccess c k) a k.payload.length true = St.ok) →
        ∃ t, exec (.write k) s = .next t ∧ Stored s t a k.payload ∧ (connOf t n).expected = (c.expected + 1) % 2 ^ 24) ∧
      (k.seg = true → c.broken = false ∨ k.first = true →
        (∀ a0, writeAddress s c k k.payload.length = some a0 → mayAccess s c.part a0 k.payload.length = true →
          (k.last = false → ∃ t, exec (.write k) s = .next t ∧ DramSame s t ∧
            (connOf t n).message = messageWith c k ∧ (connOf t n).expected = (c.expected + 1) % 2 ^ 24) ∧
          (∀ a bs, k.last = true → GoodMemory s → g.1.level = 1 → g.1.reduce = false → g.2 = g.1.body.length →
            segmentData g.1 = some bs → spaceAddress s c.part k.key g.1.dest g.1.nativeLen true = some a →
            accessVerdict s (connAccess c k) a bs.length true = St.ok →
            ∃ t, exec (.write k) s = .next t ∧ Stored s t a bs ∧ (connOf t n).message = [] ∧
              (connOf t n).expected = (c.expected + 1) % 2 ^ 24)) ∧
        (writeAddress s c k k.payload.length = none →
          ∃ t, exec (.write k) s = .next t ∧ (connOf t n).broken = !k.last ∧ (connOf t n).message = [] ∧
            (connOf t n).expected = (c.expected + 1) % 2 ^ 24)) ∧
      (k.seg = true → c.broken = true → k.first = false →
        ∃ t, exec (.write k) s = .next t ∧ DramSame s t ∧ (connOf t n).expected = (c.expected + 1) % 2 ^ 24)) ∧
    (k.op = 2 → k.psn = c.expected → ∀ a bs, leAt k.payload 0 4 ≠ 0 →
      (if k.dev then some k.raddr else spaceAddress s c.part k.key k.raddr (leAt k.payload 0 4) false) = some a →
      accessVerdict s (connAccess c k) a (leAt k.payload 0 4) false = St.ok → devRead s a (leAt k.payload 0 4) = some bs →
      ∃ t, exec (.readReq k) s = .next t ∧ DramSame s t ∧
        (connOf t n).expected = (c.expected + max 1 (ceilDiv (leAt k.payload 0 4) (pmtuBytes c))) % 2 ^ 24) ∧
    (k.op = 4 → k.psn = c.expected → k.first = true → k.last = true → k.seg = false →
      (k.dev = false → inboxRoom s c.part k.payload.length = true →
        ∃ t, exec (.sendPkt k) s = .next t ∧ (partOf t c.part).inbox = (partOf s c.part).inbox ++ [k.payload] ∧
          (connOf t n).expected = (c.expected + 1) % 2 ^ 24 ∧ DramSame s t) ∧
      (∀ o, k.dev = true → attendHeld s k.payload = false →
        deviceMessageOf s ⟨c.peer.domain, c.peer.ep, k.spart, k.pepoch⟩ c.part k.payload = some o →
        ∃ t, exec (.sendPkt k) s = .next t ∧ o ∈ t.noc ∧ (connOf t n).expected = (c.expected + 1) % 2 ^ 24 ∧
          DramSame s t)) ∧
    (∀ x w i, c.xfers = [x] → x.w = some w → x.status = 0 → c.una = x.first → 1 ≤ x.npsn → x.npsn ≤ 8192 →
      c.sentTo = (x.first + x.npsn) % 2 ^ 24 → x.first < 2 ^ 24 → issuedOf s w = some i → i.started = true →
      i.status = none → i.aux = 0 →
      (∀ e ∈ s.tlaley.conns, e.1 ≠ n → ∀ y ∈ e.2.xfers, y.w ≠ some w) → AMap.wf s.tlaley.conns = true →
      (k.op = 5 → x.op ≠ 2 → (k.apsn + 1) % 2 ^ 24 = (x.first + x.npsn) % 2 ^ 24 →
        ∃ t j, exec (.ack k) s = .next t ∧ issuedOf t w = some j ∧ j.status = some St.ok ∧ (connOf t n).xfers = []) ∧
      (k.op = 6 → x.op ≠ 2 → x.npsn = 1 → k.apsn = x.first → k.syndrome = 3 ∨ 4 ≤ k.syndrome ∧ k.status ≠ 0 →
        ∃ t j, exec (.nak k) s = .next t ∧ issuedOf t w = some j ∧ (connOf t n).xfers = [] ∧
          j.status = some (if k.syndrome = 3 then St.remoteNak else k.status)) ∧
      (k.op = 3 → x.op = 2 → x.npsn = 1 → k.psn = x.first →
        ∃ t j, exec (.readResp k) s = .next t ∧ issuedOf t w = some j ∧ j.status = some St.ok ∧
          j.effects = i.effects ++ [.devWrite x.src k.payload] ∧ (connOf t n).xfers = []) ∧
      (k.op = 3 → x.op = 2 → 2 ≤ x.npsn → k.psn = x.first →
        ∃ t j, exec (.readResp k) s = .next t ∧ issuedOf t w = some j ∧ j.status = none ∧
          j.effects = i.effects ++ [.devWrite x.src k.payload] ∧ (connOf t n).xfers = [x] ∧
          (connOf t n).una = (x.first + 1) % 2 ^ 24)) ∧
    (k.op = 6 → k.syndrome = 1 → (k.apsn + 1) % 2 ^ 24 = c.una → ∃ t, exec (.nak k) s = .next t ∧
      connOf t n = { c with sendNext := c.una }) ∧
    (k.op = 6 → k.syndrome = 2 → ∃ t, exec (.nak k) s = .next t ∧
      connOf t n = { c with rnrUntil := some (s.now + 1000 * k.delay), rnrPsn := k.apsn, timeouts := 0 }) ∧
    (k.op = 7 → s.tlaley.ccEnable = true → 100 ≤ c.rho → c.alphaNum ≤ 16 ^ c.alphaExp → ∃ t, exec (.echo k) s = .next t ∧
      (connOf t n).rho ≤ c.rho ∧ 100 ≤ (connOf t n).rho ∧ (connOf t n).alphaNum ≤ 16 ^ (connOf t n).alphaExp ∧
      (connOf t n).alphaNum = 15 * c.alphaNum + 16 ^ c.alphaExp ∧ (connOf t n).alphaExp = c.alphaExp + 1 ∧
      (connOf t n).periodAt = some (s.now + 55000))

/-- Opening and closing (R365, R366): an OPEN of another domain for a running partition with a free number makes the connection
OPEN, puts a notice into the inbox and is answered by OPEN_ACK with OK and the number; one without is answered with
NO_CONNECTION. OPEN_ACK with OK opens the
opener's end and ends its CONNECT, any other status frees the number and ends it with REMOTE_NAK; CLOSE frees an open
connection and is answered, CLOSE_ACK frees a closing one and ends its DISCONNECT; three tries without an answer end in
TIMEOUT, or for a CLOSE in OK. Timers (R370, R371, R374, R376): the ACK timer acknowledges what was received; a RTO without
progress goes back to the first unacknowledged PSN and counts, until the retry limit fails the connection; the end of an RNR
delay resumes at the PSN named; a period without an ECHO raises the rate; a fetched state is on chip again, and one that
cannot be read fails the connection. -/
def Obligations.ConnectionsOpenRunAndClose : Prop :=
  (∀ (s : State) (k : TPacket), ready s = true → (farPort s k.port).state = .up →
     let n := k.dconn
     let c := connOf s n
     (∀ r ip, FirstAt s k.port (.connMsg 8 k r) → 1 ≤ k.level → k.level ≤ 3 → r.sdomain ≠ (me s).1 → (k.dev = true → listedDomain s r.sdomain = true) →
       (∀ a ∈ s.tlaley.answers, ¬(a.sdomain = r.sdomain ∧ a.sep = r.sep ∧ a.sconn = r.sconn ∧ a.scepoch = r.scepoch)) →
       composed s r.tpart = true → (partOf s r.tpart).state = .running →
       (∀ m, lowestFree s r.tpart = some m → inboxRoom s r.tpart 64 = true →
         ∃ t k' r', exec (.open_ k r ip) s = .next t ∧ (connOf t m).state = .open_ ∧ (connOf t m).part = r.tpart ∧
           (partOf t r.tpart).inbox.length = (partOf s r.tpart).inbox.length + 1 ∧
           (connOf t m).peer = ⟨r.sdomain, r.sep, k.spart, 0⟩ ∧ (connOf t m).rconn = r.sconn ∧ (connOf t m).rcepoch = r.scepoch ∧
           (∀ q, connPort t m = some q → Waits t (16 + q) (.connMsg 9 k' r')) ∧ r'.status = St.ok ∧ r'.sconn = m) ∧
       (lowestFree s r.tpart = none →
         ∃ t k' r', exec (.open_ k r ip) s = .next t ∧ t.tlaley.conns = s.tlaley.conns ∧
           Waits t (16 + k.port) (.connMsg 9 k' r') ∧ r'.status = St.noConnection)) ∧
     (∀ r w i, FirstAt s k.port (.connMsg 9 k r) → c.state = .opening → c.lcepoch = k.dcepoch → k.level = 1 →
       c.opener = some w → issuedOf s w = some i →
       (r.status = St.ok → ∃ t, exec (.openAck k r) s = .next t ∧
         connOf t n = { c with state := .open_, rconn := r.sconn, rcepoch := r.scepoch, level := 1, tries := 0
                               progressAt := s.now, opener := none } ∧
         Finished t w St.ok n (i.effects ++ [.devWrite (c.descr + 0x10) (toLe 8 (r.sconn + r.scepoch * 2 ^ 32))])) ∧
       (r.status ≠ St.ok → ∃ t, exec (.openAck k r) s = .next t ∧ (connOf t n).state = .free ∧
         Finished t w St.remoteNak 0 []) ∧
       (c.triedAt + 100000 ≤ s.now → 3 ≤ c.tries → ∃ t, exec (.openRetry n) s = .next t ∧ (connOf t n).state = .free ∧
         Finished t w St.timeout 0 [])) ∧
     (c.state = .opening → c.triedAt + 100000 ≤ s.now → c.tries < 3 → ∃ t, exec (.openRetry n) s = .next t ∧
       connOf t n = { c with tries := c.tries + 1, triedAt := s.now }) ∧
     (∀ r ip, FirstAt s k.port (.connMsg 10 k r) → c.state = .open_ → c.lcepoch = k.dcepoch → k.level = c.level →
       c.onChip = true → c.xfers = [] → inboxRoom s c.part 64 = true →
       ∃ t k' r', exec (.close k r ip) s = .next t ∧ connOf t n = { rebuilds := c.rebuilds } ∧
         ∀ q, connPort s n = some q → Waits t (16 + q) (.connMsg 11 k' r')) ∧
     (∀ r w i, FirstAt s k.port (.connMsg 11 k r) → c.state = .closing → c.closer = some w → issuedOf s w = some i →
       (c.lcepoch = k.dcepoch → k.level = c.level → ∃ t, exec (.closeAck k r) s = .next t ∧
         connOf t n = { rebuilds := c.rebuilds } ∧ Finished t w St.ok 0 []) ∧
       (c.triedAt + 100000 ≤ s.now → 3 ≤ c.tries → ∃ t, exec (.closeRetry n) s = .next t ∧
         connOf t n = { rebuilds := c.rebuilds } ∧ Finished t w St.ok 0 []) ∧
       (c.triedAt + 100000 ≤ s.now → c.tries < 3 → ∃ t, exec (.closeRetry n) s = .next t ∧
         connOf t n = { c with tries := c.tries + 1, triedAt := s.now }))) ∧
  (∀ (s : State) (n : Nat), ready s = true →
     let c := connOf s n
     (∀ t0, c.firstUnackedAt = some t0 → t0 + 2000 ≤ s.now → ∃ t, exec (.ackTimer n) s = .next t ∧
       connOf t n = { c with sinceAck := 0, firstUnackedAt := none }) ∧
     (c.state = .open_ → c.xfers ≠ [] → c.rnrUntil = none → c.rtoAt ≤ s.now →
       (c.timeouts + 1 < max 1 s.tlaley.retryLimit → ∃ t, exec (.rtoExpiry n) s = .next t ∧
         connOf t n = { c with timeouts := c.timeouts + 1, rtoAt := s.now + rtoNs s, sendNext := c.una }) ∧
       (max 1 s.tlaley.retryLimit ≤ c.timeouts + 1 → ∃ t, exec (.rtoExpiry n) s = .next t ∧
         (connOf t n).state = .failed ∧ (connOf t n).xfers = [])) ∧
     (∀ t0, c.rnrUntil = some t0 → t0 ≤ s.now → psnSub c.rnrPsn c.una ≤ psnSub c.sentTo c.una →
       ∃ t, exec (.rnrDelayExpiry n) s = .next t ∧
         connOf t n = { c with rnrUntil := none, sendNext := c.rnrPsn, progressAt := s.now, rtoAt := s.now + rtoNs s }) ∧
     (∀ t0, c.periodAt = some t0 → t0 ≤ s.now → s.tlaley.ccEnable = true → ∃ t, exec (.ccPeriodEnd n) s = .next t ∧
       connOf t n = { c with alphaNum := 15 * c.alphaNum, alphaExp := c.alphaExp + 1
                             rho := min 1600000 (c.rho + s.tlaley.aiRate), periodAt := some (s.now + 55000) }) ∧
     (c.state = .open_ → c.onChip = false → c.held = [] →
       (hostTableUp s c = true →
         ∃ t, exec (.stateFetchDone n true) s = .next t ∧ (connOf t n).onChip = true ∧ (connOf t n).refusing = false) ∧
       (∀ ok, ok = false ∨ hostTableUp s c = false →
         ∃ t, exec (.stateFetchDone n ok) s = .next t ∧ (connOf t n).state = .failed)))

/-- Far ports (R356 to R361): one that trains all 8 wavelengths is UP, one that lacks a single one is UP on the spare where
the partner is a Crinum and the spare trained, another that lacks some is DOWN, and with no wavelength there is no partner.
A failed wavelength brings in a free spare, during which the port trains, and takes the port DOWN without one. A priority
pause lasts until its end and is recorded once at 10 ms; a frame of another protocol, a fragment, and one too long or with a
bad checksum is discarded and counted, one with a reserved OP as a protocol error too, and an IEEE 802.3 PAUSE is ignored. -/
def Obligations.FarPortsFollowTheirLinks : Prop :=
  ∀ (s : State) (port : Nat), ready s = true → port < 16 →
    let f := farPort s port
    (∀ wls prbs13, f.state = .training ∨ f.state = .noPartner → f.spareBusy = false →
      let bad := (List.range 8).filter (fun i => !bit wls i)
      let found := prbs13.any (fun t => decide (f.trainAt ≤ t ∧ t ≤ f.trainAt + 10000000))
      ∃ t, exec (.farPortTraining port wls prbs13) s = .next t ∧
        (bad = [] → (farPort t port).state = .up ∧ (farPort t port).crinum = found) ∧
        (bad.length = 1 → found = true → bit wls 8 = true → (farPort t port).state = .up ∧ (farPort t port).spareUsed = true) ∧
        (1 ≤ bad.length → bad.length < 8 → bad.length ≠ 1 ∨ found = false ∨ bit wls 8 = false → (farPort t port).state = .down) ∧
        (bad.length = 8 → farPort t port = { f with state := .noPartner }) ∧
        (farPort t port).nexthop = f.nexthop) ∧
    (∀ e : WavelengthFault, f.state = .up → f.spareBusy = false → e.wavelength < 8 → bit f.failed e.wavelength = false →
      (wavelengthFails s e.symbols = false → exec (.wavelengthFailure port e) s = .next s) ∧
      (wavelengthFails s e.symbols = true → f.crinum = true → f.spareUsed = false → f.spareBad = false →
        ∃ t, exec (.wavelengthFailure port e) s = .next t ∧
        farPort t port = { f with state := .training, spareBusy := true, failed := putBit f.failed e.wavelength true, prbs := true }) ∧
      (wavelengthFails s e.symbols = true → f.crinum = false ∨ f.spareUsed = true ∨ f.spareBad = true →
        ∃ t, exec (.wavelengthFailure port e) s = .next t ∧ (farPort t port).state = .down)) ∧
    (f.state = .training → f.spareBusy = true → ∃ t, exec (.spareWavelengthReady port) s = .next t ∧
      farPort t port = { f with state := .up, spareBusy := false, spareUsed := true, prbs := false }) ∧
    (∃ t, exec (.pfcFrame port (compOf s).prioHi true) s = .next t ∧
      (farPort t port).pausedHi = some (f.pausedHi.getD s.now)) ∧
    (∃ t, exec (.pfcFrame port (compOf s).prioHi false) s = .next t ∧ (farPort t port).pausedHi = none) ∧
    (∀ t0, f.pausedHi = some t0 → t0 + 10000000 ≤ s.now → (compOf s).prioHi ∉ f.pauseNoted →
      ∃ t, exec (.pfcPauseLimit port (compOf s).prioHi) s = .next t ∧
        farPort t port = { f with pauseNoted := f.pauseNoted ++ [(compOf s).prioHi], pauses := f.pauses + 1 }) ∧
    (∀ why, f.state = .up → ∃ t, exec (.nonTlaleyFrame ⟨port, why⟩) s = .next t ∧ t.parts = s.parts ∧ t.mem = s.mem ∧
      (why = .globalPause → farPort t port = f ∧ t.tlaley = s.tlaley) ∧
      (why = .reservedOp → t.tlaley.protoErr = s.tlaley.protoErr + 1) ∧
      (why ≠ .globalPause → t.tlaley.discarded = s.tlaley.discarded + 1 ∧
        farPort t port = { f with discarded := f.discarded + 1 }))

/-! ## The safety net (15_resilience.md) -/

/-- ENCODE, REBUILD and VERIFY (R406 to R417): a descriptor that R406 does not allow ends each with BAD_DESCRIPTOR; a run
that finds its next shard sealed at this home takes its bytes; the last run of ENCODE leaves both parity
handles and the stripe's counted copy for its commit, that of VERIFY counts the bytes of P and Q that differ, and that of
REBUILD places the shard again and ends with its handle, or with STRIPE_LOST and the LOST bit of every survivor that failed
when too few shards are left. A data byte that is missing comes back from
the other data bytes and P (R407, R412). -/
def Obligations.StripeInstructionsEnd : Prop :=
  (∀ (s : State) (w : IRef) (i : Issued) (bs : List Byte), stripeBytes s w i = some bs →
     let d := stripeOf bs
     let n := shardBytes d
     let at_ := addrB i.words
     (stripeOk d true = false → Working s w 0x80 i → exec (.encode w) s = .next (finish s w St.badDescriptor 0)) ∧
     (stripeOk d false = false → Working s w 0x82 i → exec (.verify w) s = .next (finish s w St.badDescriptor 0)) ∧
     (stripeOk d false = false ∨ 65534 < d.rrefs → Working s w 0x81 i →
       exec (.rebuild w) s = .next (finish s w St.badDescriptor 0)) ∧
     (∀ x data, i.awaits = [] → i.late = [] → isNull (shardAt d x) = false → hHome (shardAt d x) = me s →
       claimStatus s (shardAt d x) (selfParty s w.part) true = none → tierFails s (hFrame (shardAt d x)) = false →
       (frameAt s (hFrame (shardAt d x))).state = .sealed → (frameAt s (hFrame (shardAt d x))).sizeLog2 = d.size →
       frameBytes s (hFrame (shardAt d x)) = some data →
       let took := { i with result := x + 1, image := i.image ++ data, effects := [], aux := 0, due := s.now + lateBoundNs s w.part }
       (stripeOk d true = true → i.result = x → x < d.k → Working s w 0x80 i →
         ∃ t, exec (.encode w) s = .next t ∧ issuedOf t w = some { took with checks := i.checks ++ [(shardAt d x, St.ok, x)] } ∧
           DramSame s t) ∧
       (stripeOk d false = true → i.result = x → x < d.k + 2 → Working s w 0x82 i →
         ∃ t, exec (.verify w) s = .next t ∧ issuedOf t w = some took ∧ DramSame s t) ∧
       (stripeOk d false = true → d.rrefs ≤ 65534 → bits (opA i.words) 3 0 ≤ d.k + 1 → i.held.length ≠ d.k →
         nextSurvivor d (bits (opA i.words) 3 0) i.result = x → x < d.k + 2 → Working s w 0x81 i →
         ∃ t, exec (.rebuild w) s = .next t ∧ issuedOf t w = some { took with held := i.held ++ [x] } ∧ DramSame s t)) ∧
     (stripeOk d true = true → i.result = 2 * d.k + 2 → Working s w 0x80 i →
       exec (.encode w) s = .next (finish s w St.ok 0 [.putHandle (at_ + 0x40 + 8 * d.k) (i.held.getD 0 0),
         .putHandle (at_ + 0x48 + 8 * d.k) (i.held.getD 1 0), putLost at_ (ofSetBits i.bad), .stripeKept at_])) ∧
     keeps (applyEffect w.part w (s, 0) (.stripeKept at_)).1 w.part at_ = true ∧
     (stripeOk d false = true → d.k + 2 ≤ i.result → Working s w 0x82 i →
       let all := pieces n i.image
       let pq := parityOf n (all.take d.k)
       exec (.verify w) s = .next (finish s w St.ok (differing pq.1 (all.getD d.k []) + differing pq.2 (all.getD (d.k + 1) [])))) ∧
     (∀ j, j = bits (opA i.words) 3 0 → stripeOk d false = true → d.rrefs ≤ 65534 → j ≤ d.k + 1 → Working s w 0x81 i →
       let to_ := if w.queue = 64 then 0 else at_
       let lost := Nat.lor d.lost (ofSetBits i.bad)
       (∀ s1 h, i.held.length = d.k →
         placeSealed s w.part d.size (max 1 d.rrefs) (recoverShard n d.k j i.held (pieces n i.image)) = some (s1, h) →
         ∃ t, exec (.rebuild w) s = .next t ∧
           Finished t w St.ok h [.putHandle (to_ + 0x40 + 8 * j) h, putLost to_ (putBit lost j false)]) ∧
       (i.held.length ≠ d.k → nextSurvivor d j i.result = d.k + 2 →
         exec (.rebuild w) s = .next (finish s w St.stripeLost 0
           [putLost to_ (Nat.lor lost (ofSetBits (i.checks.map (·.1))))])))) ∧
  (∀ (ds : List Nat) (a : Nat), 2 ≤ ds.length → ds.length ≤ 14 → a < ds.length → (∀ x ∈ ds, x < 256) →
     recoverByte ds.length a (((List.range ds.length).zip ds).filter (fun e => e.1 != a) ++ [(ds.length, parityP ds)]) = ds.getD a 0)

/-- Rebuild messages (R415, R416): a request to a partition of the cache role joins the ringmaster's own queue as a REBUILD
of its copy of the descriptor, one to another role is answered with NOT_IN_ROLE; a reply with OK counts a rebuild and is
awaited no more; one that does not come in time is asked of another home, and after three tries the stripe is lost. -/
def Obligations.RebuildsBetweenRingmasters : Prop :=
  ∀ (s : State) (p : Nat), ready s = true →
    (∀ m : RebuildMsg, composed s p = true → (partOf s p).state = .running →
      let q := queueOf (partOf s p) 64
      nocFirst s (.rebuildMsg ((me s).1, (me s).2, p) true m) = true →
      (roleOf s = roleCache → ∃ t j, exec (.rebuildRequestMsg p m) s = .next t ∧
        (queueOf (partOf t p) 64).issued = q.issued ++ [j] ∧ j.idx = q.next ∧ opcodeOf j.words = 0x81 ∧ j.status = none ∧
        AMap.find? (partOf t p).rebuildIn j.idx = some m) ∧
      (roleOf s ≠ roleCache → (m.src.domain, m.src.ep) = me s → ∃ t r, exec (.rebuildRequestMsg p m) s = .next t ∧
        (queueOf (partOf t p) 64).issued = q.issued ∧ .rebuildMsg ((me s).1, (me s).2, m.src.part) false r ∈ t.noc ∧
        r.status = St.notInRole ∧ r.tag = m.tag)) ∧
    (∀ (m : RebuildMsg) x, (partOf s p).rebuildsOut.find? (fun x => x.tag == m.tag) = some x → m.status = St.ok →
      nocFirst s (.rebuildMsg ((me s).1, (me s).2, p) false m) = true →
      ∃ t, exec (.rebuildReplyMsg p m) s = .next t ∧ (partOf t p).rebuilds = ((partOf s p).rebuilds + 1) % 2 ^ 32 ∧
        (partOf t p).rebuildsOut = (partOf s p).rebuildsOut.filter (fun y => y.tag != m.tag)) ∧
    (∀ tag x, (partOf s p).rebuildsOut.find? (fun x => x.tag == tag) = some x → x.due ≤ s.now →
      (3 ≤ x.tries → ∃ t, exec (.rebuildWaitExpiry p tag) s = .next t ∧
        (partOf t p).stripesLost = min 0xFFFF ((partOf s p).stripesLost + 1) ∧ x.descr ∉ (partOf t p).stripes.map Prod.fst) ∧
      (∀ e, x.tries < 3 →
        chooseHome s p (recOf s p x.req).pool
          ((stripeShards s p x.descr).map hHome ++ x.homes) = some e →
        ∃ t y, exec (.rebuildWaitExpiry p tag) s = .next t ∧ y ∈ (partOf t p).rebuildsOut ∧ y.descr = x.descr ∧
          y.shard = x.shard ∧ y.tries = x.tries + 1 ∧ y.homes = x.homes ++ [(e.domain, e.ep)] ∧
          y.due = s.now + 1000000 * max 1 (partOf s p).ecNow.rebuildWait))

/-! ## The turnstile, and demotion (11_admission_and_shaping.md, 03_state_blocks.md) -/

/-- ADMIT of a filled request whose reservation its bucket covers, less what earlier ADMITs still take, leaves the admission
for its commit, which takes the prompt part and makes the request PREFILL; one that is not covered ends with BUDGET and LEVEL
and is held by the ringmaster (R300, R301, R303). CHARGE and REFUND end with OK and leave their amount for their commit, which
never takes LEVEL below its floor or above BURST (R304). A refused request whose time has come is admitted when its bucket
covers it, and else held on. -/
def Obligations.TurnstileAdmitsAndCharges : Prop :=
  ∀ (s : State) (w : IRef) (i : Issued) (p idx : Nat),
    let r := recOf s p idx
    let b := bucketLeft s p r.customer
    let again := (retryAt s b (reservation s p r)).getD (2 ^ 64)
    (w.part = p → reqIndex i.words = idx → Working s w 0x90 i → (partOf s p).placePend = none → heldByOther s w i = false →
      r.rgen = reqGen i.words → r.state = .free →
      (admits b (reservation s p r) = true →
        exec (.admission w) s = .next (finish s w St.ok 0 [.admitted idx (promptPart s p r)])) ∧
      (admits b (reservation s p r) = false → ∃ t, exec (.admission w) s = .next t ∧ Finished t w St.budget (levelTokens b) [] ∧
        (idx, again) ∈ (partOf t p).refused)) ∧
    ((recOf (admitCommit s p idx (promptPart s p r)) p idx).state = .prefill ∧
      (recOf (admitCommit s p idx (promptPart s p r)) p idx).admitted = s.now) ∧
    (w.part = p →
      (Working s w 0x91 i → exec (.charge w) s =
        .next (finish s w St.ok 0 [.charge (bits (opA i.words) 15 0) (amountOf s p i.words)])) ∧
      (Working s w 0x92 i → exec (.refund w) s =
        .next (finish s w St.ok 0 [.refund (bits (opA i.words) 15 0) (amountOf s p i.words)]))) ∧
    (∀ (bk : Bucket) amt, bk.mode ≠ 0 →
      (chargeBucket bk amt).level = max bucketFloor (bk.level - (amt : Int)) ∧
      (refundBucket bk amt).level = min (bk.level + (amt : Int)) ((bk.burst * 256 : Nat) : Int)) ∧
    (∀ at_, ready s = true → (partOf s p).state = .running → (partOf s p).placePend = none →
      (partOf s p).refused = [(idx, at_)] → at_ ≤ s.now → r.state = .free → r.filled = true →
      (admits b (reservation s p r) = true → ∃ t, exec (.admitRetry p) s = .next t ∧
        (recOf t p idx).state = .prefill ∧ (partOf t p).refused = []) ∧
      (admits b (reservation s p r) = false → ∃ t, exec (.admitRetry p) s = .next t ∧ recOf t p idx = r ∧
        (partOf t p).refused = [(idx, again)]))

/-- DEMOTION of the one sealed block that may be demoted moves it to the cold region, or where it has no place there to the host
window: it stands there sealed with its references and hash, and its old handle forwards to the new one (R78, R79, R82). -/
def Obligations.DemotionMovesToTheColdRegion : Prop :=
  ∀ (s : State) (p g new : Nat) (f : Frame) (bs : List Byte), ready s = true → composed s p = true → roleOf s = roleCache →
    let c := coldRegion s p
    let k := frameGranules f
    demotes s p = true → demotable s p = [(g, f)] → s.home.forwards.length < 65536 →
    frameBytes s g = some bs → forwardOf s (handleOf s g) = none → GoodMemory s →
    (bit f.flags 2 = true → lowestRun s c.1 c.2 k = some new →
      ∃ t e, exec (.demotion p) s = .next t ∧ frameAt t new = { f with gen := (frameAt s new).gen } ∧
        Stored s t (new * 0x4000) bs ∧ forwardOf t (handleOf s g) = some e ∧ e.newHandle = handleOf t new ∧
        (∀ k, k ≠ new → frameAt t k = frameAt s k)) ∧
    (bit f.flags 2 = false ∨ lowestRun s c.1 c.2 k = none → bit f.flags 5 = true → (partOf s p).winEnable = true →
      linkUp s (partOf s p).winFn = true → hostFrames s < 4194304 → hostPlace s p k = some new →
      ∃ t e, exec (.demotion p) s = .next t ∧ frameAt t new = { f with gen := (frameAt s new).gen } ∧
        forwardOf t (handleOf s g) = some e ∧ e.newHandle = handleOf t new ∧ (∀ k, k ≠ new → frameAt t k = frameAt s k))

/-! ## Registers, queues and partitions (16_partitions_and_hosts.md, 19_control_registers.md) -/

/-- Writes of queue, semaphore, error-queue, bucket and meter registers that reach their page (R189, R191, R199, R311, R323,
R324, R488). A doorbell gives a queue its TAIL and CCONS, or the half that is written, and a TAIL further from HEAD than
the ring is long halts a queue that is not halted with CAUSE 0x03; while the partition is PREEMPTED with its pointers saved
they stand in the save area too (R441). A base written to a stopped queue or error queue zeroes its pointers; one that would
change it while the queue is not stopped is refused. RESUME ends a halt. A semaphore takes the value written, and OVERFLOW
goes by writing 1 to it. A bucket or a meter takes its fields. -/
def Obligations.QueueRegisterWritesAct : Prop :=
  (∀ (s : State) (acc : Accessor) (p q : Nat) (v : W64), q < 64 →
    let x := queueOf (partOf s p) q
    let far : Nat → Bool := fun tail => decide (2 ^ clampN 6 16 x.sizeLog2 < (tail + 2 ^ 32 - x.head) % 2 ^ 32)
    (Reaches s acc (.part p) (0x1018 + 64 * q) →
      (∃ t, exec (.doorbell acc p q 8 false v) s = .next t ∧
        queueOf (partOf t p) q = { x with
          tail := v.toNat % 2 ^ 32, ccons := v.toNat / 2 ^ 32
          cause := if far (v.toNat % 2 ^ 32) = true ∧ x.cause = 0 then 0x03 else x.cause } ∧
        (∀ k, k ≠ q → queueOf (partOf t p) k = queueOf (partOf s p) k) ∧ (∀ k, k ≠ p → partOf t k = partOf s k) ∧
        ((partOf s p).saved = false → DramSame s t) ∧
        ((partOf s p).saved = true → GoodMemory s → mayAccess s p ((partOf s p).saveAt + 16 * q) 16 = true →
          Stored s t ((partOf s p).saveAt + 16 * q) (pointerBytes (queueOf (partOf t p) q)))) ∧
      (∃ t, exec (.doorbell acc p q 4 false v) s = .next t ∧
        (queueOf (partOf t p) q).tail = v.toNat % 2 ^ 32 ∧
        (queueOf (partOf t p) q).cause = (if far (v.toNat % 2 ^ 32) = true ∧ x.cause = 0 then 0x03 else x.cause) ∧
        readReg t acc (.part p) (0x101C + 64 * q) 4 = readReg s acc (.part p) (0x101C + 64 * q) 4) ∧
      (∃ t, exec (.doorbell acc p q 4 true v) s = .next t ∧
        (queueOf (partOf t p) q).ccons = v.toNat % 2 ^ 32 ∧ (queueOf (partOf t p) q).cause = x.cause ∧
        readReg t acc (.part p) (0x1018 + 64 * q) 4 = readReg s acc (.part p) (0x1018 + 64 * q) 4)) ∧
    (Reaches s acc (.part p) (0x1000 + 64 * q) →
      (queueStopped x = true → ∃ t, exec (.qBaseWrite acc p q false v) s = .next t ∧
        let y := queueOf (partOf t p) q
        bits y.base 63 8 = bits v.toNat 63 8 ∧ y.cbase = x.cbase ∧ y.head = 0 ∧ y.tail = 0 ∧ y.cprod = 0 ∧ y.ccons = 0 ∧
          y.next = 0) ∧
      (queueStopped x = false → bits v.toNat 63 8 ≠ bits x.base 63 8 →
        exec (.qBaseWrite acc p q false v) s = .next (refuseWrite (hostTlp s acc) acc (.part p) (0x1000 + 64 * q)))) ∧
    (Reaches s acc (.part p) (0x1008 + 64 * q) → queueStopped x = true →
      ∃ t, exec (.qBaseWrite acc p q true v) s = .next t ∧
        let y := queueOf (partOf t p) q
        bits y.cbase 63 8 = bits v.toNat 63 8 ∧ y.base = x.base ∧ y.head = 0 ∧ y.tail = 0 ∧ y.cprod = 0 ∧ y.ccons = 0) ∧
    (Reaches s acc (.part p) (0x1010 + 64 * q) → ∃ t, exec (.qResume acc p q) s = .next t ∧
      (queueOf (partOf t p) q).cause = 0 ∧ (queueOf (partOf t p) q).head = x.head ∧ (queueOf (partOf t p) q).tail = x.tail ∧
      (queueOf (partOf t p) q).issued = x.issued.map (fun i => { i with stuck := false }) ∧
      (∀ k, k ≠ q → queueOf (partOf t p) k = queueOf (partOf s p) k) ∧ DramSame s t)) ∧
  (∀ (s : State) (acc : Accessor) (p : Nat) (v : W64),
    (∀ sem, 1 ≤ sem → sem < 16 → Reaches s acc (.part p) (0x80 + 8 * sem) → (partOf s p).waiters = [] →
      ∃ t, exec (.semaphoreWrite acc p sem v) s = .next t ∧
        (semOf t p sem).value = v.toNat % 2 ^ 32 ∧
        (semOf t p sem).overflow = (bit (readReg s acc (.part p) (0x80 + 8 * sem) 8) 32 && !bit v.toNat 32) ∧
        (∀ k, k ≠ sem → semOf t p k = semOf s p k)) ∧
    (Reaches s acc (.part p) 0x30 → (partOf s p).errq.enable = false → ∃ t, exec (.errqBaseWrite acc p v) s = .next t ∧
      (partOf t p).errq.prod = 0 ∧ (partOf t p).errq.cons = 0 ∧ bits (partOf t p).errq.base 63 8 = bits v.toNat 63 8) ∧
    (Reaches s acc (.part p) 0x5010 →
      let c := selOf s acc 0x5008
      ∃ t, exec (.bucketWrite acc p false v) s = .next t ∧
        (bucketOf t p c).rate = v.toNat % 2 ^ 32 ∧ (bucketOf t p c).burst = bits v.toNat 55 32 ∧
        (bucketOf t p c).mode = bits v.toNat 57 56 ∧ (bucketOf t p c).charged = (bucketOf s p c).charged ∧
        (∀ k, k ≠ c → bucketOf t p k = bucketOf s p k)) ∧
    (Reaches s acc (.part p) 0x5018 →
      let c := selOf s acc 0x5008
      ∃ t, exec (.bucketWrite acc p true v) s = .next t ∧
        (bucketOf t p c).level = min (signed 48 (v.toNat % 2 ^ 48)) (((bucketOf s p c).burst * 256 : Nat) : Int) ∧
        (bucketOf t p c).rate = (bucketOf s p c).rate) ∧
    (Reaches s acc (.part p) 0x5048 → (mtrSelOf s acc).1 ≠ 0 →
      let m := meterOf s p (mtrSelOf s acc).1 (mtrSelOf s acc).2
      ∃ t, exec (.meterWrite acc p false v) s = .next t ∧
        let n := meterOf t p (mtrSelOf s acc).1 (mtrSelOf s acc).2
        n.cir = bits v.toNat 23 0 ∧ n.pir = bits v.toNat 47 24 ∧ n.c = m.c ∧ n.p = m.p) ∧
    (Reaches s acc (.part p) 0x5050 → (mtrSelOf s acc).1 ≠ 0 →
      let m := meterOf s p (mtrSelOf s acc).1 (mtrSelOf s acc).2
      ∃ t, exec (.meterWrite acc p true v) s = .next t ∧
        let n := meterOf t p (mtrSelOf s acc).1 (mtrSelOf s acc).2
        n.enable = bit v.toNat 0 ∧ n.policy = bit v.toNat 1 ∧ n.cbs = bits v.toNat 31 8 ∧ n.pbs = bits v.toNat 55 32 ∧
          n.c = min m.c (n.cbs * 8000) ∧ n.p = min m.p (n.pbs * 8000)))

/-- PREEMPT stops a running partition: nothing issues any more, restart-class instructions are abandoned, drain-class ones run
on, and the save area is the one of CC_SAVE now (R440, R445). Once the last has committed, the pointers of the 64 queues
stand in the save area and the partition is PREEMPTED. RESUME of a PREEMPTED partition reloads the pointers and makes it
RUNNING (R441). Writes that meet another state (R442): PREEMPT in PREEMPTING or PREEMPTED has no effect, nor has RESUME in
RUNNING, nor a write that sets both; RESUME in PREEMPTING is held, with RESUME_HELD set, and takes effect when the partition
would be PREEMPTED; a restart in PREEMPTING or PREEMPTED abandons the pre-emption and clears RESUME_HELD. -/
def Obligations.PartitionsPauseAndResume : Prop :=
  ∀ (s : State) (p : Nat), composed s p = true →
    (∀ acc, Reaches s acc .module (0x10000 + 8 * p) →
      ((partOf s p).state = .running → ∃ t, exec (.preempt acc p) s = .next t ∧ (partOf t p).state = .preempting ∧
        (partOf t p).saveAt = (partOf s p).save ∧
        (∀ q, q < 64 → (queueOf (partOf t p) q).issued = (queueOf (partOf s p) q).issued.filter (fun i => !restartClass i.words) ∧
          (queueOf (partOf t p) q).tail = (queueOf (partOf s p) q).tail)) ∧
      ((partOf s p).state = .preempted → ∃ t, exec (.resume acc p) s = .next t ∧ (partOf t p).state = .running ∧
        (partOf t p).saved = false ∧
        (GoodMemory s → (partOf s p).saved = true → ∀ q ∈ listedQueues s p,
          let bs := rawBytes s.mem ((partOf s p).saveAt + 16 * q) 16
          let y := queueOf (partOf t p) q
          y.head = leAt bs 0 4 ∧ y.tail = leAt bs 4 4 ∧ y.cprod = leAt bs 8 4 ∧ y.ccons = leAt bs 12 4 ∧ y.next = y.head)) ∧
      ((partOf s p).state = .preempting → ∃ t, exec (.resume acc p) s = .next t ∧ (partOf t p).state = .preempting ∧
        (partOf t p).resumeHeld = true) ∧
      ((partOf s p).state = .preempting ∨ (partOf s p).state = .preempted →
        exec (.preempt acc p) s = .next (hostTlp s acc) ∧
        ∃ t, exec (.restart p (.software acc)) s = .next t ∧ (partOf t p).resumeHeld = false ∧ (partOf t p).state ≠ .preempting) ∧
      ((partOf s p).state = .running → exec (.resume acc p) s = .next (hostTlp s acc)) ∧
      (∀ v : W64, bit v.toNat 0 = true → bit v.toNat 1 = true →
        exec (.registerWrite acc .module (0x10000 + 8 * p) 8 [v]) s = .next (hostTlp s acc))) ∧
    (ready s = true → (partOf s p).state = .preempting → drained s p = true →
      ((partOf s p).resumeHeld = false → ∃ t, exec (.preemptDrained p) s = .next t ∧ (partOf t p).state = .preempted ∧
        (GoodMemory s → mayAccess s p (partOf s p).saveAt 1024 = true →
          (partOf t p).saved = true ∧
          Stored s t (partOf s p).saveAt (((List.range 64).map (fun q => pointerBytes (queueOf (partOf s p) q))).flatten))) ∧
      ((partOf s p).resumeHeld = true → ∃ t, exec (.preemptDrained p) s = .next t ∧ (partOf t p).state = .running))

/-- A partition that restarts, by software, a failed core or an escalation, has its cause in LAST_CAUSE and one restart more;
while drain-class instructions are in flight it is RESTARTING, and once there are none it starts anew, PREEMPTED with the
next epoch of its counter, no request record in use and no queue enabled (R91, R439, R443). -/
def Obligations.RestartsTakeANewEpoch : Prop :=
  ∀ (s : State) (p : Nat) (cause : RestartCause), ready s = true → composed s p = true →
    (∀ acc, cause = .software acc → Reaches s acc .module (0x10000 + 8 * p)) →
    (partOf s p).state ≠ .notStarted → (partOf s p).state ≠ .restarting → AMap.getD s.flash.epochs p 0 < 0xFFFFFFFF →
    ((∀ q i, q < 64 → i ∈ (queueOf (partOf s p) q).issued → restartClass i.words = true) →
      ∃ t, exec (.restart p cause) s = .next t ∧ (partOf t p).state = .preempted ∧
        (partOf t p).epoch = AMap.getD s.flash.epochs p 0 + 1 ∧ AMap.getD t.flash.epochs p 0 = (partOf t p).epoch ∧
        (partOf t p).lastCause = restartCode cause ∧ (partOf t p).restarts = min 0xFFFF ((partOf s p).restarts + 1) ∧
        (∀ q, queueOf (partOf t p) q = {}) ∧ (∀ idx, (recOf t p idx).state = .free)) ∧
    ((∃ q i, q ∈ listedQueues s p ∧ i ∈ (queueOf (partOf s p) q).issued ∧ restartClass i.words = false) →
      ∃ t, exec (.restart p cause) s = .next t ∧ (partOf t p).state = .restarting ∧
        (partOf t p).lastCause = restartCode cause)

/-- Failures and containment (R42, R420 to R423, R426, R434, R438). A reset of a virtual function tears down the host queues of
its partition; a reset of a group's physical function does so for each of its virtual functions, and the loss of its link takes
the link down too. A link that trains at 16 GT/s or more comes up with its rate and lanes; a slower one stays down and is
reported. A fault in a queue's issue state tears that queue down. A containment action past its bound, whose record could not be
written, or whose logic fails, acts on the next context: a request's queue is torn down, a queue's partition restarts with
LAST_CAUSE 3, and a partition's failure stops the module. A failed engine or core is absent from then on, and is recorded; an
ATTEND whose local entries ran on the engine completes with ABSENT, a partition that used the core restarts. A fault in SY stops
the module, with its final record newest where that can be written (when it can is the model's free value, log entry 154). -/
def Obligations.FailuresAreContained : Prop :=
  (∀ s : State, ready s = true →
    (∀ p, composed s p = true → (sliceOf s p).vf = true → ∃ t, exec (.functionLevelReset p) s = .next t ∧
      ∀ q, q < 64 → bit (sliceOf s p).hostQ q = true → TornDown t p q) ∧
    (∀ g down, linkUp s g = true → ∃ t, exec (.hostLinkLoss ⟨g, down⟩) s = .next t ∧ linkUp t g = !down ∧
      ∀ p ∈ vfsOf s g, ∀ q, q < 64 → bit (sliceOf s p).hostQ q = true → TornDown t p q) ∧
    (∀ g rate lanes, s.comp.isSome = true → g < hostLinks s → linkUp s g = false → 1 ≤ lanes → lanes ≤ fullLanes s →
      (16 ≤ rate → exec (.hostLinkUp g ⟨rate, lanes⟩) s = .next { s with power := { s.power with
        links := s.power.links ++ [g], rates := AMap.insert s.power.rates g rate, lanes := AMap.insert s.power.lanes g lanes } }) ∧
      (rate < 16 → exec (.hostLinkUp g ⟨rate, lanes⟩) s = .next (emitOut s (.linkReport g rate)))) ∧
    (∀ p q, composed s p = true → q < 64 → ∃ t, exec (.queueIssueStateFault p q) s = .next t ∧ TornDown t p q) ∧
    (∀ ctx why h, handlingIn s ctx = some h → escalates s ctx h why = true →
      ∃ t, exec (.containmentTimeout ⟨ctx, why⟩) s = .next t ∧
        (∀ p idx q, ctx = .request p idx → requestQueue s p idx = some q → TornDown t p q) ∧
        (∀ p q, ctx = .queue p q → (partOf s p).state = .running → (partOf t p).lastCause = 3) ∧
        (∀ p, ctx = .partition p → t.life.sy = .stopped)) ∧
    (∀ n, n < 16 → engineAbsent s n = false → ∃ t, exec (.engineFailure n) s = .next t ∧ engineAbsent t n = true ∧
      t.flash.hwFailed = s.flash.hwFailed ++ [(false, if s.life.aeSpare = some n then 16 else n)] ∧
      ∀ p q i, composed s p = true → n ∈ enginesOf s p → i ∈ (queueOf (partOf s p) q).issued →
        opcodeOf i.words = 0x20 → i.started = true → i.status = none → i.aux = 0 → localEntries s p i ≠ [] →
        (∀ j ∈ (queueOf (partOf s p) q).issued, j.idx = i.idx → j = i) →
        (issuedOf t ⟨p, q, i.idx⟩).map (·.status) = some (some St.absent)) ∧
    (∀ n, n < 16 → n ∉ s.life.ccAbsent → ∃ t, exec (.coreFailure n) s = .next t ∧ n ∈ t.life.ccAbsent ∧
      t.flash.hwFailed = s.flash.hwFailed ++ [(true, if s.life.ccSpare = some n then 16 else n)] ∧
      ∀ p, composed s p = true → bit (sliceOf s p).cores n = true → (partOf s p).state = .running →
        (partOf t p).lastCause = 2)) ∧
  (∀ s : State, s.life.sy ≠ .stopped → ∃ t, exec .syFault s = .next t ∧ t.life.sy = .stopped ∧
    (Config.finalRecordKept s.freeCtr = true → t.flash.finals = (finalRecord s 0 :: s.flash.finals).take 16384 ∧ t.flash.stops = s.flash.stops + 1) ∧
    (Config.finalRecordKept s.freeCtr = false → t.flash = s.flash) ∧
    (∀ g, linkUp t g = false) ∧ DramSame s t)

/-- The register pages (R489 to R494). A write of several words writes them in ascending order; one that may not go through
has no effect but its record, and a class S field of a block that runs does not change. A read answers with what the
register reads, 0 at a reserved offset, and one that is not permitted with Completer Abort. SY_TRAPEZE and
SY_SNAP_TIME read what was written to them; a class B field reads the value last written, with PENDING, and what is in force
stays. Registers with an effect of their own, and the windows (R268, R269, R316, R325, R405, R435, R449, R475, R477, R498). ARM
takes NENT and the base as they read for the port that TS_GATE_SEL names, DISARM lets go of them, and ENABLE 0 ends the
running list. SY_SNAP_CTRL.ARM arms a latch at SY_SNAP_TIME, or sets REFUSED. CLEAR zeroes the counters of the selected unit.
MC_INJECT with ARM arms the injection. At an idle point of a port with no segment under way a pending CREDIT_MODE takes effect,
and so does the far end's mode. A virtual function reads and writes its partition's memory through its window, and no other
accessor does; an access that the host regulator cannot pass waits. A Configuration Request has the retry status before READY,
and after it is answered with the vendor, device and revision IDs of R2 and, in SR-IOV, the virtual functions of R436 at their
places; a write to VF Enable and NumVFs decides which of them the host reaches. -/
def Obligations.RegisterPagesAndWindows : Prop :=
  ((∀ (s : State) (acc : Accessor) (page : Page) (off : Nat) (a b : W64),
     let h := hostTlp s acc
     (canAccess s acc = true → off % 8 = 0 → off % 64 + 16 ≤ 64 →
       exec (.registerWrite acc page off 16 [a, b]) s =
         .next (writeReg (writeReg h acc page off 8 a.toNat) acc page (off + 8) 8 b.toNat)) ∧
     (canAccess s acc = true → off % 8 = 0 → mayWrite s acc page off = false →
       exec (.registerWrite acc page off 8 [a]) s = .next (refuseWrite h acc page off)) ∧
     (∀ size, canAccess s acc = true → goodForm off size = false →
       exec (.registerWrite acc page off size [a]) s = .next (refuseWrite h acc page off) ∧
       exec (.registerRead acc page off size) s = .next (emitOut (regViolation h acc page off) (.completerAbort acc))) ∧
     (canAccess s acc = true → off % 8 = 0 → mayRead s acc page off = true →
       exec (.registerRead acc page off 8) s = .next (emitOut h (.regRead acc (BitVec.ofNat 64 (readReg h acc page off 8))))) ∧
     (canAccess s acc = true → off % 8 = 0 → mayRead s acc page off = false →
       exec (.registerRead acc page off 8) s = .next (emitOut (regViolation h acc page off) (.completerAbort acc))) ∧
     (canAccess s acc = false → exec (.registerWrite acc page off 8 [a]) s = .next s ∧
       exec (.registerRead acc page off 8) s = .next s) ∧
     (mregAt (off / 8 * 8) = none → readReg s acc .module off 8 = 0)) ∧
   (∀ (s : State) (acc : Accessor) (v : W64),
     (∀ off ∈ [0x48, 0x60], Reaches s acc .module off → ∃ t, exec (.registerWrite acc .module off 8 [v]) s = .next t ∧
       readReg t acc .module off 8 % 2 ^ 64 = v.toNat ∧ DramSame s t ∧ (∀ p, partOf t p = partOf s p)) ∧
     (Reaches s acc .module 0x20000 → ∃ t, exec (.registerWrite acc .module 0x20000 8 [v]) s = .next t ∧
       bits (readReg t acc .module 0x20000 8) 8 0 = 256 + v.toNat % 256 ∧ t.mem.scrubPeriod = s.mem.scrubPeriod) ∧
     (∀ p, Reaches s acc (.part p) 0x0010 → ∃ t, exec (.registerWrite acc (.part p) 0x0010 8 [v]) s = .next t ∧
       readReg t acc (.part p) 0x0010 8 = v.toNat % 2 ^ 32 + 2 ^ 32 ∧ (partOf t p).stepCfg = (partOf s p).stepCfg) ∧
     (∀ p, Reaches s acc (.part p) 0x0058 → (partOf s p).state ≠ .preempted → bits v.toNat 47 12 ≠ bits (partOf s p).winTable 47 12 →
       exec (.registerWrite acc (.part p) 0x0058 8 [v]) s = .next (refuseWrite (hostTlp s acc) acc (.part p) 0x0058)))) ∧
  ((∀ (s : State) (acc : Accessor) (v : W64),
     (Reaches s acc .module 0x60218 → (gateSel s acc).1 ≤ 32 →
       let port := (gateSel s acc).1
       (∃ t, exec (.gateArm acc) s = .next t ∧
         (tsPort t port).armed = some (bits (readReg s acc .module 0x60218 8) 15 8, (tsPort s port).base) ∧
         (tsPort t port).armedAt = localTime s (portIsland port) ∧ (tsPort t port).frames = (tsPort s port).frames) ∧
       (∃ t, exec (.gateDisarm acc) s = .next t ∧ (tsPort t port).armed = none ∧ (tsPort t port).frames = (tsPort s port).frames) ∧
       (∃ t, exec (.gateEnableWrite acc v) s = .next t ∧ (tsPort t port).enable = bit v.toNat 0 ∧
         (tsPort t port).nent = bits v.toNat 15 8 ∧ (bit v.toNat 0 = false → (tsPort t port).running = none))) ∧
     (Reaches s acc .module 0x68 →
       ((∃ n, armingOf s.counters s.counters.snapTime = .takes n) → ∃ t n, exec (.snapArm acc) s = .next t ∧
         (n, s.counters.snapTime) ∈ t.counters.latches ∧ ∀ e ∈ s.counters.latches, e ∈ t.counters.latches) ∧
       ((∀ n, armingOf s.counters s.counters.snapTime ≠ .takes n) → ∃ t, exec (.snapArm acc) s = .next t ∧
         t.counters.refused = true ∧ t.counters.latches = s.counters.latches)) ∧
     (Reaches s acc .module 0x88 → ∃ t, exec (.counterClear acc) s = .next t ∧
       (AMap.getD t.counters.units (unitSel s acc) {}).value = [0, 0, 0, 0] ∧
       (AMap.getD t.counters.units (unitSel s acc) {}).wrapped = 0 ∧
       (∀ u, u ≠ unitSel s acc → AMap.getD t.counters.units u {} = AMap.getD (hostTlp s acc).counters.units u {})) ∧
     (Reaches s acc .module 0x20010 → ∃ t, exec (.injectArm acc v) s = .next t ∧ t.mem.inject =
       { channel := bits v.toNat 4 0, symbol := bits v.toNat 10 5, value := bits v.toNat 14 11, armed := true
         symbol2 := bits v.toNat 22 17, value2 := bits v.toNat 26 23 })) ∧
   (∀ (s : State) (port : Nat), ready s = true → portIdle s port = true →
     let far := Config.peerPlans s.freeCtr
     (port < 16 → ∃ t, exec (.portIdlePoint port) s = .next t ∧
       let x := nearPort s port
       let m := x.modePend.getD x.creditMode
       nearPort t port = { x with creditMode := m, peerPlan := far, effective := m || far, modePend := none }) ∧
     (16 ≤ port → ∃ t, exec (.portIdlePoint port) s = .next t ∧
       let x := farPort s (port - 16)
       let m := x.modePend.getD x.creditMode
       farPort t (port - 16) = { x with creditMode := m, peerPlan := far, effective := m || far, modePend := none })) ∧
   (∀ (s : State) (acc : Accessor) (p off : Nat) (op : BarOp), canAccess s acc = true → (partOf s p).barWait = [] →
     let a := rangeBase s p + off
     let x : Access := ⟨p, selfParty s p, true⟩
     (barPasses s p op = true →
       (∀ n, op = .read n → acc = .vf p → (sliceOf s p).vf = true → n ≤ 4096 → accessVerdict s x a n false = St.ok →
         s.mem.errors = [] → ∃ t, exec (.barWindowAccess acc p off op) s = .next t ∧
           t.out = s.out ++ [.barRead (rawBytes s.mem a n)] ∧ DramSame s t) ∧
       (∀ bs, op = .write bs → acc = .vf p → (sliceOf s p).vf = true → bs.length ≤ 512 →
         accessVerdict s x a bs.length true = St.ok → GoodMemory s →
         ∃ t, exec (.barWindowAccess acc p off op) s = .next t ∧ Stored s t a bs ∧ t.out = s.out) ∧
       (acc ≠ .vf p → ∃ t, exec (.barWindowAccess acc p off op) s = .next t ∧ t.home = s.home ∧
         (∀ n, op = .read n → t.out.getLast? = some (.completerAbort acc)))) ∧
     (barPasses s p op = false →
       exec (.barWindowAccess acc p off op) s =
         .next (modPart s p (fun P => { P with barWait := [(acc, off, op)] })))) ∧
   (∀ (s : State) (fn : Accessor) (g : Nat) (r : ConfigDword) (write : Option Nat), functionGroup s fn = some g → linkUp s g = true →
     (ready s = false → exec (.configurationRequest fn ⟨r, write⟩) s = .next (emitOut s (.configRetry fn))) ∧
     (ready s = true → hasCap fn r = false → exec (.configurationRequest fn ⟨r, write⟩) s = .next (emitOut s (.configAbsent fn))) ∧
     (ready s = true → hasCap fn r = true → write = none →
       ∃ t v, exec (.configurationRequest fn ⟨r, write⟩) s = .next t ∧ t.out = s.out ++ [.configReply fn v] ∧
         (∀ off, r = .header off → off < 4 → v % 2 ^ 16 = 0x1E6C ∧ v / 2 ^ 16 = (match fn with | .vf _ => 0x4811 | _ => 0x4801)) ∧
         (∀ off, r = .header off → off / 4 = 2 → v % 2 ^ 8 = 0x21) ∧
         (fn = .pf g → r = .ext 0x10 12 → v = (vfsOf s g).length + (vfsOf s g).length * 2 ^ 16) ∧
         DramSame s t ∧ ∀ p, partOf t p = partOf s p) ∧
     (∀ v, ready s = true → fn = .pf g → write = some v →
       (r = .ext 0x10 8 → ∃ t, exec (.configurationRequest fn ⟨r, write⟩) s = .next t ∧ (hostFnOf t g).vfEnable = bit v 0 ∧
         (hostFnOf t g).numVfs = (hostFnOf s g).numVfs) ∧
       (r = .ext 0x10 16 → ∃ t, exec (.configurationRequest fn ⟨r, write⟩) s = .next t ∧
         (hostFnOf t g).numVfs = min (vfsOf s g).length (v % 2 ^ 16) ∧ (hostFnOf t g).vfEnable = (hostFnOf s g).vfEnable))))

/-! ## Time and shaping (02_architecture.md, 11_admission_and_shaping.md, 18_counters_and_errors.md) -/

/-- Device time (R29, R379, R478, R518). A Sync on the port, in the domain and over the IP version of FP_PTP, or the Follow_Up of a
two-step one, draws a Delay_Req with a number of its own, and its response completes the exchange: half of what the way here took
more than the way there is the offset, which the correction that is slewed takes away, and the module is locked within 20 ns (log
entries 36, 147); a PPS pulse counts towards the third of a run 1 s ± 1 µs
apart, which locks; while PTP runs a pulse is ignored. When the source ceases, device time goes on without a step. A correction
of the islands leaves each copy within 4 ns of device time and TS at it, and slews at most 1 ns. A latch copies every counter of
the islands that have reached its time to its shadow, with its number, and leaves the counters alone; once every island has, it
is done. -/
def Obligations.TimeIsDisciplined : Prop :=
  (∀ s : State, ready s = true →
    (∀ m : PtpMsg, s.tlaley.ptpEnable = true → m.port = s.tlaley.ptpPort → m.domain = s.tlaley.ptpDomain →
      m.ipv6 = s.tlaley.ptpIpv6 → (farPort s m.port).state = .up →
      let c := s.tlaley.ptpClock
      let number := (c.reqSeq + 1) % 2 ^ 16
      (m.kind = .sync false → ∃ t, exec (.ptpMessage m) s = .next t ∧ t.now = s.now ∧
        t.tlaley.ptpClock = { seq := m.seq, origin := some (m.time + m.corr), arrive := s.now, reqSeq := number, sentAt := some s.now } ∧
        t.out = s.out ++ [.ethernet m.port (delayReqFrame s m.port m.ipv6 m.domain number)]) ∧
      (m.kind = .sync true → ∃ t, exec (.ptpMessage m) s = .next t ∧ t.now = s.now ∧
        t.tlaley.ptpClock = { c with seq := m.seq, origin := none, arrive := s.now - m.corr, sentAt := none } ∧ t.out = s.out) ∧
      (m.kind = .followUp → m.seq = c.seq → c.origin = none → ∃ t, exec (.ptpMessage m) s = .next t ∧
        t.tlaley.ptpClock = { c with origin := some (m.time + m.corr), reqSeq := number, sentAt := some s.now } ∧
        t.out = s.out ++ [.ethernet m.port (delayReqFrame s m.port m.ipv6 m.domain number)]) ∧
      (∀ t1 t3, m.kind = .delayResp → m.seq = c.reqSeq → c.origin = some t1 → c.sentAt = some t3 →
        let offset := ((c.arrive - t1) - (m.time - m.corr - t3)) / 2
        ∃ t, exec (.ptpMessage m) s = .next t ∧ t.now = s.now ∧ t.time.correction = -offset ∧ t.tlaley.ptpOffset = offset ∧
          (t.tlaley.ptpLocked = true ↔ offset.natAbs ≤ 20)) ∧
      (m.kind = .other → exec (.ptpMessage m) s = .next s)) ∧
    (∀ interval, s.tlaley.ptpEnable = true → exec (.ppsPulse interval) s = .next s) ∧
    (∀ interval, s.tlaley.ptpEnable = false → ∃ t, exec (.ppsPulse interval) s = .next t ∧ t.now = s.now ∧
      t.time.ppsRun = (if 999999000 ≤ interval ∧ interval ≤ 1000001000 then s.time.ppsRun + 1 else 1) ∧
      (t.time.ppsLocked = true ↔ 3 ≤ t.time.ppsRun)) ∧
    (∃ t, exec .timeSourceLoss s = .next t ∧ t.now = s.now ∧ t.time.holdover = true ∧ t.time.ppsLocked = false ∧
      t.tlaley.ptpLocked = false ∧ t.time.correction = 0) ∧
    (∃ t, exec .timeCorrection s = .next t ∧ (t.now = s.now ∨ t.now = s.now + 1) ∧ localTime t Isl.ts = t.now ∧
      ∀ i, i < 18 → localTime t i ≤ t.now + 4 ∧ t.now ≤ localTime t i + 4) ∧
    (∀ n at_ rest, s.counters.latches = (n, at_) :: rest → s.counters.latched = [] →
      (∀ e ∈ rest, ∀ i, i < 18 → localTime s i < e.2) →
      ((∀ i, i < 18 → at_ ≤ localTime s i) →
        ∃ t, exec .snapLatch s = .next t ∧ t.counters.latches = rest ∧ t.counters.done = n ∧ ∀ u, u < 320 → Latched s t n u) ∧
      (∀ i, i < 18 → localTime s i < at_ →
        ∃ t, exec .snapLatch s = .next t ∧ t.counters.latches = s.counters.latches ∧ t.counters.done = s.counters.done ∧
          ∀ u, u < 320 → (at_ ≤ localTime s (unitIsland u) → Latched s t n u) ∧
            (localTime s (unitIsland u) < at_ → AMap.getD t.counters.units u {} = AMap.getD s.counters.units u {})))) ∧
  (∀ (s : State) (valid : Bool), s.power.pgood = true →
    exec (.ref10mSignal valid) s = .next { s with time := { s.time with ref10m := valid } })

/-- Ports, wheels and gates (R308 to R320). A port sends its one frame when it may, TC0 without a meter or a gate; its virtual
time follows the stamp of a frame of another class, and a write that leaves the host port stands in host memory. At its eligible time a queue of the pending set is examined; a released
wheel slot keeps no queue whose interval has begun, and leaves every queue that was not in it where it was. The end of a gate
entry brings the next, and the first after the last; an armed list takes over in the other bank at its entry 0, and where no
list ran that is at the later of its base and the arming. A leaf idle for 1 s forgets its stamp. -/
def Obligations.ShapersReleaseAndGate : Prop :=
  ∀ (s : State) (port : Nat), ready s = true → port ≤ 32 →
    let T := tsPort s port
    (∀ f, portUp s port = true → (16 ≤ port → port < 32 → pump s (port - 16) = s) → T.frames = [f] →
      (f.tc = 0 → mayStart s port f = true → ∃ t, exec (.portFrameSend port) s = .next t ∧
        Left s t f.frame ∧ (tsPort t port).frames = [] ∧ (tsPort t port).vtime = T.vtime) ∧
      (f.tc ≠ 0 → leafEligible s port f = true → ∃ t, exec (.portFrameSend port) s = .next t ∧
        Left s t f.frame ∧ (tsPort t port).frames = [] ∧ (tsPort t port).vtime = (f.stamp.map Prod.fst).getD T.vtime ∧
        (∀ g a bs u, port = 32 → f.frame.what = .tlp g a bs → hostWrite s g a bs = some u → t.host = u.host))) ∧
    (∀ part tc e, T.parked = [((part, tc), .pending e)] → e ≤ s.now → ∃ t, exec (.pendingReexamine part tc port) s = .next t ∧
      (∀ f, classHead T part tc = some f →
        colourOk (meterOf s part tc port) (colourOf (meterOf s part tc port) (frameLen s port f)) = true →
        isParked (tsPort t port) part tc = false) ∧ (tsPort t port).frames = T.frames) ∧
    (∀ slot, ∃ t, exec (.wheelSlotRelease slot) s = .next t ∧
      (∀ part tc i e, ((part, tc), .main i e) ∈ (tsPort t port).parked → i % 8192 = slot % 8192 → s.now < i * 128) ∧
      (∀ part tc k, ((part, tc), k) ∈ T.parked → (∀ i e, k = .main i e → i % 8192 ≠ slot % 8192) →
        (∀ k', ((part, tc), k') ∈ T.parked → k' = k) → ((part, tc), k) ∈ (tsPort t port).parked)) ∧
    (∀ slot, ∃ t, exec (.overflowSlotRelease slot) s = .next t ∧
      (∀ part tc i e, ((part, tc), .overflow i e) ∈ (tsPort t port).parked → i % 1024 = slot % 1024 → s.now < i * 0x100000) ∧
      (∀ part tc i e, T.parked = [((part, tc), .overflow i e)] → i % 1024 = slot % 1024 → i * 0x100000 ≤ s.now →
        e < (i + 1) * 0x100000 → (tsPort t port).parked = [((part, tc), .main (ceilDiv e 128) e)])) ∧
    (∀ nent t0, T.running = some (nent, t0) →
      T.entryAt + entryNs (gateEntry T T.bank T.entry) ≤ localTime s (portIsland port) →
      ∃ t, exec (.gateEntryBoundary port) s = .next t ∧ tsPort t port = { T with
        entry := if T.entry < nent then T.entry + 1 else 0, entryAt := T.entryAt + entryNs (gateEntry T T.bank T.entry) }) ∧
    (∀ nent base at_, T.armed = some (nent, base) → T.enable = true → takeoverAt T = some at_ →
      at_ ≤ localTime s (portIsland port) →
      ∃ t, exec (.gateTakeover port) s = .next t ∧ tsPort t port = { T with
        running := some (nent, at_), bank := if T.bank = 0 then 1 else 0, entry := 0, entryAt := at_, armed := none } ∧
        (T.running = none → at_ = max base T.armedAt)) ∧
    (∀ part tc req, (∀ f ∈ T.frames, leafOf f ≠ (part, tc, req)) → ∃ t, exec (.leafIdleForget port part tc req) s = .next t ∧
      (∀ st sent, (part, tc, req, st, sent) ∈ (tsPort t port).lastStamp → s.now < sent + 1000000000) ∧
      (∀ l ∈ T.lastStamp, (l.1, l.2.1, l.2.2.1) ≠ (part, tc, req) → l ∈ (tsPort t port).lastStamp) ∧
      (tsPort t port).frames = T.frames)

/-! ## The memory controllers (14_memory_protection.md) -/

/-- Accesses and their upkeep (R238, R392 to R402). A write of one granule's bytes through the code stores them and nothing
else; a read of good words changes no byte and ends a run of failed CRCs. An instruction whose word is uncorrectable
completes with UNCORRECTABLE, an ATTEND keeps the granule for its entries; the sixteenth access in a row with its retries exhausted stops the module. The counts per pin
clear. A sweep corrects a correctable word where it stands and goes on to the next granule. A refresh slot is counted and
takes the plan that the last samples asked for: hot above 85 °C, until both devices are below 80 °C. -/
def Obligations.MemoryControllersServe : Prop :=
  ∀ s : State, (ready s = true ∨ s.life.sy = .shutdown) →
    (∀ addr bs u, accessFits s addr bs.length u = true → privateUser u = false → GoodMemory s →
      ∃ t, exec (.mcAccess addr (.write bs) u [] 0) s = .next t ∧ Stored s t addr bs) ∧
    (∀ addr n u, accessFits s addr n u = true → s.mem.errors = [] →
      ∃ t, exec (.mcAccess addr (.read n) u [] 0) s = .next t ∧ DramSame s t ∧ t.mem.errors = [] ∧
        (chan t (channelOf s addr).1).crcRun = 0) ∧
    (∀ addr w noise, accessFits s addr 16 (.engine w) = true → addr % 16 = 0 →
      decodeAt s addr (noiseOn noise addr) = .uncorrectable →
      (∀ i, w.queue ≠ inboxQueue → issuedOf s w = some i → i.status = none →
        ∃ t, exec (.mcAccess addr (.read 16) (.engine w) noise 0) s = .next t ∧
          (opcodeOf i.words ≠ 0x20 → Finished t w St.uncorrectable 0 []) ∧
          (opcodeOf i.words = 0x20 → ∃ j, issuedOf t w = some j ∧ j.status = none ∧ j.bad = i.bad ++ [addr / 256])) ∧
      (w.queue = inboxQueue → (partOf s w.part).attendInbox ≠ [] →
        ∃ t, exec (.mcAccess addr (.read 16) (.engine w) noise 0) s = .next t ∧
          (partOf t w.part).inboxBad = (partOf s w.part).inboxBad ++ [addr / 256])) ∧
    (∀ addr n u crcFails, accessFits s addr n u = true → s.mem.errors = [] → 4 ≤ crcFails →
      15 ≤ (chan s (channelOf s addr).1).crcRun → ∃ t, exec (.mcAccess addr (.read n) u [] crcFails) s = .next t ∧
        t.life.sy = .stopped) ∧
    (∃ t, exec .correctionCountClear s = .next t ∧ (∀ c, (chan t c).counts = []) ∧ DramSame s t) ∧
    (∀ c, c < 24 → ready s = true →
      (s.mem.errors = [] → 0 < (chan s c).scrubPos → ∃ t, exec (.scrubGranule c []) s = .next t ∧ DramSame s t ∧
        (chan t c).scrubPos = (nextScrub (chan s c).scrubPos).getD 0 ∧
        (nextScrub (chan s c).scrubPos = none → (chan t c).passes = (chan s c).passes + 1)) ∧
      (∀ w es fix bs, w % 16 = 0 → s.mem.errors = [(w / 16, es)] → 0 < (chan s c).scrubPos →
        channelOf s w = (c, (channelOf s w).2) → (channelOf s w).2 / 256 = (chan s c).scrubPos →
        decodeAt s w [] = .corrected fix → wordBytes s w [] = some bs → memWf s.mem.dram = true →
        ∃ t, exec (.scrubGranule c []) s = .next t ∧ t.mem.errors = [] ∧ rawBytes t.mem w bs.length = bs)) ∧
    (∀ c, c < 24 → ∃ t, exec (.refreshSlot c) s = .next t ∧ (chan t c).slots = (chan s c).slots + 1 ∧
      (chan t c).hot = (chan s c).hotNext) ∧
    (∀ temps : List Nat, ∃ t, exec (.dramTempSample temps) s = .next t ∧ ∀ c, c < 24 →
      (chan t c).hotNext = (if 85 < temps.getD (2 * c) 0 ∨ 85 < temps.getD (2 * c + 1) 0 then true
        else if temps.getD (2 * c) 0 < 80 ∧ temps.getD (2 * c + 1) 0 < 80 then false else (chan s c).hotNext))

/-! ## Power, starts, shutdown and sanitisation (17_lifecycle_and_trust.md, 20_module_interface.md) -/

/-- Contacts and resets (R447, R448, R510 to R514). EN ramps the rails when the input stage lets them; when they are good the
module takes its reset state and a boot begins, with DRAM lost. A loss of power takes rails and PGOOD away; RST_N and the
module reset command keep power. Each of these leaves no composition in force, and keeps the service record, the firmware,
the composition store and what has been sent. The release of a lockout ramps the rails again while EN is asserted. The ends of
a run (R460 to R470, R519): a shutdown of a READY module abandons what is in flight and tests; before READY it is held. The
tests' end enters the SHUTDOWN entry and reports that power may be removed. A sanitisation that is signed starts; when every
word of DRAM is zero the composition store is empty, the key too with RELEASE_OWNER, and the module stops; a word that fails
stops it with the sanitisation still to be done. A re-certification that is signed by the authority is a start of its own.
PERIODIC enters its entry. A sample without a trip keeps power and counts its temperature bin; one at a trip removes it. -/
def Obligations.RunsBeginAndEnd : Prop :=
  (∀ s : State,
     (s.power.en = false → ∃ t, exec .enAssert s = .next t ∧ t.power.en = true ∧
       (t.power.rails = true ↔ s.power.vin = true ∧ s.power.lockout = false) ∧ t.flash = s.flash) ∧
     (s.power.en = true → s.power.rails = true → s.power.pgood = false → ∃ t, exec .powerGood s = .next t ∧
       t.power.pgood = true ∧ t.life.sy = .boot ∧ t.life.stepDone = 0 ∧ t.comp = none ∧ t.mem.dram = [] ∧
       t.flash.cycles = s.flash.cycles + 1 ∧ t.flash.logbook = s.flash.logbook ∧ t.flash.comps = s.flash.comps) ∧
     (∀ released, s.power.en = true → ∃ t, exec (.powerLoss released) s = .next t ∧ t.power.rails = false ∧
       t.power.pgood = false ∧ (t.power.en = true ↔ released = false) ∧ (released = false → t.power.lockout = true) ∧
       t.comp = none ∧ t.mem.dram = [] ∧ t.flash.logbook = s.flash.logbook ∧ t.flash.comps = s.flash.comps ∧ t.out = s.out) ∧
     (∀ c, (c = .rstNAssert ∧ s.power.en = true ∧ s.power.pgood = true) ∨ (c = .moduleReset ∧ mgmtAnswers s = true) →
       ∃ t, exec c s = .next t ∧ t.comp = none ∧ t.life.sy = .boot ∧ t.life.stepDone = 0 ∧ t.power.pgood = s.power.pgood ∧
         (∀ p, (partOf t p).state = .notStarted) ∧ t.flash.logbook = s.flash.logbook ∧ t.flash.comps = s.flash.comps ∧
         t.flash.epochs = s.flash.epochs ∧ t.host = s.host ∧ t.out = s.out) ∧
     (∃ t, exec .undervoltageLockoutRelease s = .next t ∧ t.power.lockout = false ∧
       (s.power.en = true → t.power.rails = true) ∧ t.flash = s.flash)) ∧
  ((∀ s : State, mgmtAnswers s = true →
     (s.life.sy = .ready → ∃ t, exec .shutdownCommand s = .next t ∧ t.life.sy = .shutdown ∧ t.life.testing = true ∧
       (∀ p q, (queueOf (partOf t p) q).issued = []) ∧ (∀ g, linkUp t g = false)) ∧
     (s.life.sy = .boot → exec .shutdownCommand s = .next { s with life := { s.life with held := true } })) ∧
   (∀ (s : State) (misr : List Nat) (repair : List Byte) (units : List Nat), s.life.sy = .shutdown → s.life.testing = true →
     misr.length = 40 → repair.length ≤ 256 → HasRoom s 592 → ∃ t r body, exec (.shutdownTestDone misr repair units) s = .next t ∧
       t.life.removable = true ∧ t.life.testing = false ∧ t.power.alert = true ∧ Logged s t etShutdown body ∧
       t.flash.shutdown = some r ∧ r.seq = s.flash.nextSeq ∧
       (misr = s.flash.golden → r.pass = true ∧ r.failing = [])) ∧
   (∀ (s : State) (release authority : Bool) (r v : Nat),
     ready s = true ∨ (s.life.sy = .boot ∧ s.life.fail ≠ 0) → syRuns s = true →
     (sanitiseSigned s release authority r v = true → ∃ t, exec (.sanitiseCommand release authority r v) s = .next t ∧
       t.life.sy = .sanitising ∧ t.flash.sanitising = some (release, authority) ∧ ∀ p q, (queueOf (partOf t p) q).issued = []) ∧
     (sanitiseSigned s release authority r v = false → exec (.sanitiseCommand release authority r v) s = .next s)) ∧
   (∀ (s : State) (release authority : Bool), s.life.sy = .sanitising → s.flash.sanitising = some (release, authority) →
     (∃ t, exec (.sanitiseDramDone true) s = .next t ∧ t.life.sy = .stopped ∧ (∀ a, rawByte t.mem a = 0) ∧ t.flash.comps = [] ∧
       t.flash.compKey = (if release then none else s.flash.compKey) ∧ t.flash.sanitising = none) ∧
     (∃ t, exec (.sanitiseDramDone false) s = .next t ∧ t.life.sy = .stopped ∧
       t.flash.sanitising = some (release, authority) ∧ t.flash.logbook = s.flash.logbook)) ∧
   (∀ (s : State) (r v serial : Nat) (passed : Bool), syRuns s = true →
     ∃ t, exec (.recertCommand r v passed serial) s = .next t ∧
       if ecdsaVerify Config.authorityKey.1 Config.authorityKey.2 (Config.commandBytes 1 false s.freeCtr) r v = true then
         t.life.recert = some (passed, serial) ∧ t.life.sy = .boot ∧ t.comp = none
       else t = s) ∧
   (∀ (s : State) (energy : Nat), ready s = true → HasRoom s 288 → ∃ t body, exec (.periodic energy) s = .next t ∧
     Logged s t etPeriodic body ∧ t.life.uncorrWin = 0 ∧ t.life.grade = gradeOf t.life.reasons) ∧
   (∀ (s : State) (x : Temps), s.power.pgood = true →
     let trip := 115 ≤ x.engines ∨ 115 ≤ x.hub ∨ 105 ≤ x.gddr ∨ 85 ≤ x.optics ∨ 125 ≤ x.regulators
     (¬ trip → ∃ t, exec (.sensorSample x) s = .next t ∧ t.power.temps = x ∧ t.power.pgood = true ∧
       AMap.getD t.flash.bins (tempBin (max x.engines x.hub)) 0 = AMap.getD s.flash.bins (tempBin (max x.engines x.hub)) 0 + 1) ∧
     (trip → ∃ t, exec (.sensorSample x) s = .next t ∧ t.power.pgood = false ∧ t.power.rails = false ∧ t.comp = none)))

/-- The steps of a start (R433, R439, R449, R453, R513). A boot command is taken in its window, once; step 3 waits for it until the
window closes, and without one the record that ran last is chosen. Step 1 needs the identity seed; step 2 starts the active firmware slot if it is a candidate, else the other
one as a fall-back, and fails with neither; step 3 puts a good record in force or fails with cause 3; steps 4 to 7 go on, a
failed channel or a failed optical calibration ending the start there, and memory reads zero after step 6; step 8 is READY, with
every composed partition that names no absent number PREEMPTED at its next epoch. A start that failed runs no further step. -/
def Obligations.StartsStepThroughTheBoot : Prop :=
  (∀ s : State, s.power.pgood = true → s.power.rstN = true →
    (s.life.sy = .boot ∨ s.life.sy = .test) →
    (∀ f : BootFindings, s.life.fail ≠ 0 → exec (.bootStep f) s = .next s) ∧
    (s.life.fail = 0 → ∀ f : BootFindings,
      (s.life.stepDone = 0 →
        (f.pufOk = true → ∃ t, exec (.bootStep f) s = .next t ∧ t.life.stepDone = 1) ∧
        (f.pufOk = false → ∃ t, exec (.bootStep f) s = .next t ∧ t.life.sy = .boot ∧ t.life.fail = 1 ∧ t.life.cause = 2)) ∧
      (s.life.stepDone = 1 → ∃ t, exec (.bootStep f) s = .next t ∧
        let a := s.flash.active
        if candidate s (slotOf s a) = true then
          t.life.stepDone = 2 ∧ t.life.slot = a ∧ t.life.fallback = false ∧ t.life.svn = fwSvn (slotOf s a)
        else if candidate s (slotOf s (1 - a)) = true then
          t.life.stepDone = 2 ∧ t.life.slot = 1 - a ∧ t.life.fallback = true ∧ t.life.svn = fwSvn (slotOf s (1 - a))
        else t.life.fail = 2 ∧ t.life.cause = 1) ∧
      (s.life.stepDone = 2 → s.flash.sanitising = none → s.flash.finalSeen = true →
        (s.life.bootCmd.isSome = true ∨ s.life.cmdClosed = true →
          (∀ n bs, chosenSlot s = some n → AMap.find? s.flash.comps n = some bs → ∃ t, exec (.bootStep f) s = .next t ∧
            if recordOk s.flash.compKey bs = true then
              t.life.stepDone = 3 ∧ t.comp = some (compAt bs) ∧ CompositionSound t ∧ t.flash.lastComp = some n ∧
                t.now = (s.life.bootCmd.bind (·.time)).getD 0
            else t.life.fail = 3 ∧ t.life.cause = 3 ∧ t.comp = s.comp) ∧
          ((∀ n, chosenSlot s = some n → AMap.find? s.flash.comps n = none) → ∃ t, exec (.bootStep f) s = .next t ∧
            t.life.fail = 3 ∧ t.life.cause = 3 ∧ t.comp = s.comp)) ∧
        (s.life.bootCmd = none → s.life.cmdClosed = false → exec (.bootStep f) s = .next s)) ∧
      (s.life.stepDone = 3 → ∃ t, exec (.bootStep f) s = .next t ∧ t.life.stepDone = 4) ∧
      (s.life.stepDone = 4 → ∃ t, exec (.bootStep f) s = .next t ∧ t.life.stepDone = 5 ∧
        (s.life.quick = false → s.flash.hwFailed = [] → f.failCores = [] → ∀ n, n < 16 →
          (f.failEngines = [n] → t.life.aeSpare = some n ∧ t.life.aeAbsent = []) ∧
          (f.failEngines = [n, 16] → t.life.aeSpare = none ∧ t.life.aeAbsent = [n]))) ∧
      (s.life.stepDone = 5 →
        (f.failChannel = false → ∃ t, exec (.bootStep f) s = .next t ∧ t.life.stepDone = 6 ∧ ∀ a, rawByte t.mem a = 0) ∧
        (f.failChannel = true → ∃ t, exec (.bootStep f) s = .next t ∧ t.life.fail = 6 ∧ t.life.cause = 4)) ∧
      (s.life.stepDone = 6 →
        (f.opticsOk = true → ∃ t, exec (.bootStep f) s = .next t ∧ t.life.stepDone = 7) ∧
        (f.opticsOk = false → ∃ t, exec (.bootStep f) s = .next t ∧ t.life.fail = 7)) ∧
      (s.life.stepDone = 7 → s.life.held = false → ∃ t, exec (.bootStep f) s = .next t ∧ t.life.sy = .ready ∧
        t.life.stepDone = 8 ∧ t.flash.starts = s.flash.starts + 1 ∧
        ∀ p, composed s p = true → absentIn s p = 0 → AMap.getD s.flash.epochs p 0 < 0xFFFFFFFF →
          (partOf t p).state = .preempted ∧ (partOf t p).epoch = AMap.getD s.flash.epochs p 0 + 1))) ∧
  (∀ (s : State) (c : BootCmd), s.power.pgood = true → s.life.sy = .boot →
    (s.life.stepDone ≤ 2 → s.life.fail = 0 → s.life.cmdClosed = false → s.life.bootCmd = none →
      s.life.goodAt + 50000000 ≤ s.now → s.now ≤ s.life.goodAt + 300000000 →
      exec (.bootCommand c) s = .next { s with life := { s.life with bootCmd := some c } }) ∧
    (s.life.bootCmd ≠ none → exec (.bootCommand c) s = .next s) ∧
    (s.life.bootCmd = none → s.life.goodAt + 300000000 ≤ s.now →
      exec .bootCommandTimeout s = .next { s with life := { s.life with cmdClosed := true } }))

/-! ## The management interface (17_lifecycle_and_trust.md, 20_module_interface.md) -/

/-- Management commands (R454, R458, R459, R464, R467, R517). Export answers with the record's header and the entries asked for, the
oldest first, then the journal. A tenant body, an install and an activation are entered in the service record; an image goes to the slot that does
not run, and a slot that is activated runs at the next start. A composition key is taken into an empty slot, and replaced only
by a command that it signed. The oldest waiting event is read, and ALERT_N ends with the last. The SPDM responder offers
version 1.3 alone, answers in the order of the protocol, offers slot 0 alone, and has eight measurements; what must come first
is asked for with UnexpectedRequest (its error codes are the model's, log entry 43). -/
def Obligations.ManagementAnswers : Prop :=
  ∀ s : State, mgmtAnswers s = true → syRuns s = true →
    (takesCommands s = true →
      (∀ first last nonce, ∃ t bs js, exec (.exportCommand first last nonce) s = .next t ∧
        t.out = s.out ++ [.mgmt "SERVICE_RECORD" [] recordHeader, .mgmt "EXPORT" ((s.flash.logbook.filter (fun e => decide (first ≤ e.seq ∧ e.seq ≤ last))).reverse.map (·.seq)) bs,
          .mgmt "JOURNAL" [s.home.jseq] js, .mgmt "NONCE" [] nonce] ∧ t.flash = s.flash) ∧
      (∀ body : List Byte, body.length = 32 → HasRoom s 32 → ∃ t, exec (.tenantCommand body) s = .next t ∧
        Logged s t etTenant body) ∧
      (∀ image, s.life.slot ≤ 1 → HasRoom s 16 → ∃ t body, exec (.firmwareInstall image) s = .next t ∧ Logged s t etFirmware body ∧
        slotOf t (1 - s.life.slot) = { image := image } ∧ slotOf t s.life.slot = slotOf s s.life.slot ∧
        t.flash.active = s.flash.active) ∧
      (∀ slot, slot < 2 → HasRoom s 16 → ∃ t body, exec (.firmwareActivate slot) s = .next t ∧ t.flash.active = slot ∧
        Logged s t etFirmware body ∧ t.life.slot = s.life.slot) ∧
      (∀ x y sig, HasRoom s 32 →
        ((s.flash.compKey = none ∨ ∃ k g, s.flash.compKey = some k ∧ sig = some g ∧
            ecdsaVerify k.1 k.2 (toLe 48 x ++ toLe 48 y) g.1 g.2 = true) →
          ∃ t body, exec (.compositionKeyInstall x y sig) s = .next t ∧ t.flash.compKey = some (x, y) ∧ Logged s t etCompose body) ∧
        (∀ k, s.flash.compKey = some k → (∀ g, sig = some g → ecdsaVerify k.1 k.2 (toLe 48 x ++ toLe 48 y) g.1 g.2 = false) →
          ∃ t, exec (.compositionKeyInstall x y sig) s = .next t ∧ t.flash = s.flash))) ∧
    (s.mgmt.events = [] → exec .managementEventRead s = .next (emitOut s (.mgmt "EVENT" [] []))) ∧
    (∀ e rest, s.mgmt.events = e :: rest → ∃ t, exec .managementEventRead s = .next t ∧ t.mgmt.events = rest ∧
      t.out = s.out ++ [.mgmt "EVENT" [e] []] ∧ (t.power.alert = true ↔ rest ≠ [])) ∧
    (∃ t a b c, exec .pldmSensorRead s = .next t ∧ t.out = s.out ++ [.mgmt "SENSORS"
      ([s.power.temps.engines, s.power.temps.hub, s.power.temps.gddr, s.power.temps.optics, s.power.temps.regulators].map (unsignedOf 16)
        ++ [a, b, c]) []]) ∧
    (∃ t, exec (.getVersion true) s = .next t ∧ t.out = s.out ++ [.mgmt "VERSION" [0x13] []] ∧ t.mgmt.version = true ∧
      t.mgmt.capable = false ∧ t.mgmt.negotiated = false) ∧
    exec (.getVersion false) s = .next (spdmError s spdmVersionMismatch) ∧
    (s.mgmt.version = true → ∃ t bits_, exec .getCapabilities s = .next t ∧ t.mgmt.capable = true ∧
      t.out = s.out ++ [.mgmt "CAPABILITIES" bits_ []]) ∧
    (s.mgmt.version = false → exec .getCapabilities s = .next (spdmError s spdmUnexpected)) ∧
    (s.mgmt.capable = true → ∃ t algs, exec (.negotiateAlgorithms true) s = .next t ∧ t.mgmt.negotiated = true ∧
      t.out = s.out ++ [.mgmt "ALGORITHMS" algs []]) ∧
    (s.mgmt.capable = false → ∀ b, exec (.negotiateAlgorithms b) s = .next (spdmError s spdmUnexpected)) ∧
    (s.mgmt.negotiated = true →
      exec .getDigests s = .next (emitOut s (.mgmt "DIGESTS" [1] (sha384 (certs s)))) ∧
      (∀ offset len, offset ≤ (certs s).length → ∃ t, exec (.getCertificate 0 offset len) s = .next t ∧
        t.out = s.out ++ [.mgmt "CERTIFICATE" [0, min len ((certs s).length - offset), (certs s).length - offset - min len ((certs s).length - offset)]
          (((certs s).drop offset).take len)]) ∧
      (∀ slot offset len, slot ≠ 0 → exec (.getCertificate slot offset len) s = .next (spdmError s spdmInvalid)) ∧
      (∀ nonce, ∃ t v sig, exec (.challenge 0 nonce) s = .next t ∧
        t.out = s.out ++ [.mgmt "CHALLENGE_AUTH" [0, v] (sha384 (certs s) ++ nonce ++ sig)]) ∧
      (∀ nonce, exec (.getMeasurements 0 false nonce) s = .next (emitOut s (.mgmt "MEASUREMENTS" [8] []))) ∧
      (∀ i nonce, 1 ≤ i → i ≤ 8 →
        exec (.getMeasurements i false nonce) s = .next (emitOut s (.mgmt "MEASUREMENTS" [8, i] (measurement s i))) ∧
        ∃ t sig, exec (.getMeasurements i true nonce) s = .next t ∧
          t.out = s.out ++ [.mgmt "MEASUREMENTS" [8, i] (measurement s i ++ nonce ++ sig)])) ∧
    (s.mgmt.negotiated = false → exec .getDigests s = .next (spdmError s spdmUnexpected) ∧
      ∀ i g nonce, exec (.getMeasurements i g nonce) s = .next (spdmError s spdmUnexpected))

/-! ## The form of the state -/

/-- Every step keeps the form of the state: DRAM and every group's memory in canonical form, and the index, its shadow and the
connections each listed once and in order. -/
def Obligations.StepKeepsForm : Prop :=
  ∀ s t : State, Formed s → step s = .next t → Formed t
end

