-- ==== Sys2Proof/Laws/KeptBase.lean ====
section
/-! SUPPORT. Folds over operations that leave the queue of waiting commands and the composition record unchanged. -/

set_option Elab.async false
set_option linter.unusedTactic false
set_option linter.unreachableTactic false
set_option linter.unnecessarySeqFocus false

namespace Sys2Proof.Machine

open Sys2Proof.Safety (after)

theorem foldl_pending {α : Type} (f : State → α → State) (h : ∀ s a, (f s a).pending = s.pending) (l : List α) (s : State) :
    (l.foldl f s).pending = s.pending := by
  induction l generalizing s with
  | nil => rfl
  | cons a l ih => simp [ih, h]

theorem foldl_comp {α : Type} (f : State → α → State) (h : ∀ s a, (f s a).comp = s.comp) (l : List α) (s : State) :
    (l.foldl f s).comp = s.comp := by
  induction l generalizing s with
  | nil => rfl
  | cons a l ih => simp [ih, h]

theorem foldl1_pending {α β : Type} (f : State × β → α → State × β) (h : ∀ s a, (f s a).1.pending = s.1.pending) (l : List α) (s : State × β) :
    (l.foldl f s).1.pending = s.1.pending := by
  induction l generalizing s with
  | nil => rfl
  | cons a l ih => simp [ih, h]

theorem foldl1_comp {α β : Type} (f : State × β → α → State × β) (h : ∀ s a, (f s a).1.comp = s.1.comp) (l : List α) (s : State × β) :
    (l.foldl f s).1.comp = s.1.comp := by
  induction l generalizing s with
  | nil => rfl
  | cons a l ih => simp [ih, h]

theorem after_next (t s : State) : after (.next t) s = t := rfl

theorem foldl_kept {α : Type} {f : State → α → State} (h : ∀ s a, (f s a).pending = s.pending ∧ (f s a).comp = s.comp)
    (l : List α) (s t : State) (hs : s.pending = t.pending ∧ s.comp = t.comp) :
    (l.foldl f s).pending = t.pending ∧ (l.foldl f s).comp = t.comp := by
  induction l generalizing s with
  | nil => exact hs
  | cons a l ih => exact ih _ ⟨(h s a).1.trans hs.1, (h s a).2.trans hs.2⟩
end Sys2Proof.Machine
end

