-- ==== Sys2Proof/Laws/KeptOps.lean ====
section
/-! SUPPORT. What the shared operations, the home, the shapers, Poltex and the requests leave unchanged: the queue of waiting commands and the composition record in force. -/

set_option Elab.async false
set_option linter.unusedTactic false
set_option linter.unreachableTactic false
set_option linter.unnecessarySeqFocus false

namespace Sys2Proof.Machine

open Sys2Proof.Safety (after)

/-! ## Ops -/

theorem setPart_kept (s : State) (p) (x) : (setPart s p x).pending = s.pending ∧ (setPart s p x).comp = s.comp := ⟨rfl, rfl⟩

theorem modPart_kept (s : State) (p) (f) : (modPart s p f).pending = s.pending ∧ (modPart s p f).comp = s.comp := ⟨rfl, rfl⟩

theorem noteFenced_kept (s : State) (p) (st) : (noteFenced s p st).pending = s.pending ∧ (noteFenced s p st).comp = s.comp := by
  unfold noteFenced
  split <;> simp only [modPart_kept, and_self]

theorem modQueue_kept (s : State) (p) (q) (f) : (modQueue s p q f).pending = s.pending ∧ (modQueue s p q f).comp = s.comp := ⟨rfl, rfl⟩

theorem emitOut_kept (s : State) (o) : (emitOut s o).pending = s.pending ∧ (emitOut s o).comp = s.comp := ⟨rfl, rfl⟩

theorem draw_kept (s : State) : (draw s).pending = s.pending ∧ (draw s).comp = s.comp := ⟨rfl, rfl⟩

theorem raiseVf_kept (s : State) (p) (vector) : (raiseVf s p vector).pending = s.pending ∧ (raiseVf s p vector).comp = s.comp := by
  unfold raiseVf
  split <;> simp only [emitOut_kept, and_self]

theorem raisePfs_kept (s : State) (vector) : (raisePfs s vector).pending = s.pending ∧ (raisePfs s vector).comp = s.comp := by
  unfold raisePfs
  simp only [emitOut_kept, foldl_pending, foldl_comp, implies_true, and_self]

theorem countEv_kept (s : State) (island) (code) (inst) (part) (n) : (countEv s island code inst part n).pending = s.pending ∧ (countEv s island code inst part n).comp = s.comp := ⟨rfl, rfl⟩

theorem hostWrite_kept (s : State) (g) (a) (bs) (t : State) (h : hostWrite s g a bs = some t) : (t).pending = s.pending ∧ (t).comp = s.comp := by
  unfold hostWrite at h
  (repeat' split at h) <;> first | (cases h; done) | (cases h; simp only [and_self])

theorem hostWrite_getD_kept (s : State) (g) (a) (bs) : ((hostWrite s g a bs).getD s).pending = s.pending ∧ ((hostWrite s g a bs).getD s).comp = s.comp := by
  cases h : hostWrite s g a bs with
  | none => exact ⟨rfl, rfl⟩
  | some t => exact hostWrite_kept s g a bs _ h

theorem hostPost_kept (s : State) (g) (a) (bs) (t : State) (h : hostPost s g a bs = some t) : (t).pending = s.pending ∧ (t).comp = s.comp := by
  unfold hostPost at h
  obtain ⟨u, hu, rfl⟩ := Option.map_eq_some_iff.mp h
  simp only [emitOut_kept, countEv_kept, hostWrite_kept _ _ _ _ _ hu, and_self]

theorem hostPost_getD_kept (s : State) (g) (a) (bs) : ((hostPost s g a bs).getD s).pending = s.pending ∧ ((hostPost s g a bs).getD s).comp = s.comp := by
  cases h : hostPost s g a bs with
  | none => exact ⟨rfl, rfl⟩
  | some t => exact hostPost_kept s g a bs _ h

theorem hostTlp_kept (s : State) (x1) : (hostTlp s x1).pending = s.pending ∧ (hostTlp s x1).comp = s.comp := by
  unfold hostTlp
  split <;> simp only [countEv_kept, and_self]

theorem errToLog_kept (s : State) (r) : ((errToLog s r).1).pending = s.pending ∧ ((errToLog s r).1).comp = s.comp := by
  unfold errToLog
  dsimp only
  (repeat' split) <;> simp only [countEv_kept, raisePfs_kept, and_self]

theorem logService_kept (s : State) (etype) (body) : (logService s etype body).pending = s.pending ∧ (logService s etype body).comp = s.comp := by
  unfold logService
  dsimp only
  (repeat' split) <;> simp only [draw_kept, and_self]

theorem logSpare_kept (s : State) (kind) (unit) (index) : (logSpare s kind unit index).pending = s.pending ∧ (logSpare s kind unit index).comp = s.comp := by
  unfold logSpare
  simp only [logService_kept, and_self]

theorem modChan_kept (s : State) (c) (f) : (modChan s c f).pending = s.pending ∧ (modChan s c f).comp = s.comp := ⟨rfl, rfl⟩

theorem modDev_kept (s : State) (d) (f) : (modDev s d f).pending = s.pending ∧ (modDev s d f).comp = s.comp := ⟨rfl, rfl⟩

theorem countCorrection_kept (s : State) (c) (pin) : (countCorrection s c pin).pending = s.pending ∧ (countCorrection s c pin).comp = s.comp := by
  unfold countCorrection
  dsimp only
  (repeat' split) <;> simp only [countEv_kept, modDev_kept, modChan_kept, logSpare_kept, errToLog_kept, and_self]

theorem countWord_kept (s : State) (a) (noise) : (countWord s a noise).pending = s.pending ∧ (countWord s a noise).comp = s.comp := by
  unfold countWord
  try simp only []
  all_goals (repeat' (split <;> ((try simp only [countCorrection_kept, foldl_pending, foldl_comp, and_self, implies_true]))))
  all_goals (first | done | (refine foldl_kept (fun s a => ?_) _ _ _ ?_ <;> (try dsimp only) <;> (try simp only [countCorrection_kept, foldl_pending, foldl_comp, foldl1_pending, foldl1_comp, after_next, and_self, implies_true]) <;> (repeat' (split <;> (try simp only [countCorrection_kept, foldl_pending, foldl_comp, foldl1_pending, foldl1_comp, after_next, and_self, implies_true])))))

theorem endRuns_kept (s : State) (a) (n) : (endRuns s a n).pending = s.pending ∧ (endRuns s a n).comp = s.comp := by
  unfold endRuns
  (repeat' split) <;> simp only [modChan_kept, foldl_pending, foldl_comp, implies_true, and_self]

theorem tookRead_kept (s : State) (a) (n) : (tookRead s a n).pending = s.pending ∧ (tookRead s a n).comp = s.comp := by
  unfold tookRead
  (repeat' split) <;> simp only [endRuns_kept, countWord_kept, foldl_pending, foldl_comp, implies_true, and_self]

theorem makeUndef_kept (s : State) (a) (n) : (makeUndef s a n).pending = s.pending ∧ (makeUndef s a n).comp = s.comp := by
  unfold makeUndef
  split <;> simp only [draw_kept, and_self]

theorem storeWord_kept (s : State) (w) : (storeWord s w).pending = s.pending ∧ (storeWord s w).comp = s.comp := ⟨rfl, rfl⟩

theorem rewriteWords_kept (s : State) (a) (n) : (rewriteWords s a n).pending = s.pending ∧ (rewriteWords s a n).comp = s.comp := by
  unfold rewriteWords
  simp only [storeWord_kept, foldl_pending, foldl_comp, implies_true, and_self]

theorem writeWord_kept (s : State) (w) (off) (bs) : ((writeWord s w off bs).1).pending = s.pending ∧ ((writeWord s w off bs).1).comp = s.comp := by
  unfold writeWord
  (repeat' split) <;> simp only [storeWord_kept, countWord_kept, and_self]

theorem devWriteWords_kept (s : State) (a : Nat) (bs : List Byte) (ws : List Nat) : ((devWriteWords s a bs ws).1).pending = s.pending ∧ ((devWriteWords s a bs ws).1).comp = s.comp := by
  induction ws generalizing s with
  | nil => exact ⟨rfl, rfl⟩
  | cons w ws ih => simp only [devWriteWords, ih, writeWord_kept, and_self]

theorem devWrite_kept (s : State) (a) (bs) : ((devWrite s a bs).1).pending = s.pending ∧ ((devWrite s a bs).1).comp = s.comp := by
  unfold devWrite
  dsimp only
  (repeat' split) <;> simp only [endRuns_kept, devWriteWords_kept, and_self]

theorem devPut_kept (s : State) (a) (bs) : (devPut s a bs).pending = s.pending ∧ (devPut s a bs).comp = s.comp := by
  unfold devPut
  simp only [devWrite_kept, and_self]

theorem ringWrite_kept (s : State) (p) (host) (g) (a) (bs) (t : State) (h : ringWrite s p host g a bs = some t) : (t).pending = s.pending ∧ (t).comp = s.comp := by
  unfold ringWrite at h
  split at h
  · exact hostPost_kept _ _ _ _ _ h
  · split at h
    · dsimp only at h
      split at h <;> cases h
      exact devWrite_kept _ _ _
    · cases h

theorem ringWrite_getD_kept (s : State) (p) (host) (g) (a) (bs) : ((ringWrite s p host g a bs).getD s).pending = s.pending ∧ ((ringWrite s p host g a bs).getD s).comp = s.comp := by
  cases h : ringWrite s p host g a bs with
  | none => exact ⟨rfl, rfl⟩
  | some t => exact ringWrite_kept s p host g a bs _ h

theorem modErrq_kept (s : State) (p) (f) : (modErrq s p f).pending = s.pending ∧ (modErrq s p f).comp = s.comp := ⟨rfl, rfl⟩

theorem errLost_kept (s : State) (p) : (errLost s p).pending = s.pending ∧ (errLost s p).comp = s.comp := ⟨rfl, rfl⟩

theorem errToPart_kept (s : State) (p) (r) : ((errToPart s p r).1).pending = s.pending ∧ ((errToPart s p r).1).comp = s.comp := by
  unfold errToPart
  try simp only []
  all_goals (repeat' (split <;> ((try simp only [ringWrite_kept _ _ _ _ _ _ _ (by assumption), modErrq_kept, countEv_kept, raiseVf_kept, and_self]); (try simp only [errLost_kept, and_self]))))
  all_goals (first | done | (refine foldl_kept (fun s a => ?_) _ _ _ ?_ <;> (try dsimp only) <;> (try simp only [errLost_kept, modErrq_kept, countEv_kept, raiseVf_kept, ringWrite_getD_kept, foldl_pending, foldl_comp, foldl1_pending, foldl1_comp, after_next, and_self, implies_true]) <;> (repeat' (split <;> (try simp only [errLost_kept, modErrq_kept, countEv_kept, raiseVf_kept, ringWrite_getD_kept, foldl_pending, foldl_comp, foldl1_pending, foldl1_comp, after_next, and_self, implies_true])))))

theorem handled_kept (s : State) (ctx) : (handled s ctx).pending = s.pending ∧ (handled s ctx).comp = s.comp := ⟨rfl, rfl⟩

theorem setHandling_kept (s : State) (h) : (setHandling s h).pending = s.pending ∧ (setHandling s h).comp = s.comp := ⟨rfl, rfl⟩

theorem errWrite_kept (s : State) (toPart) (toLog) (r) : ((errWrite s toPart toLog r).1).pending = s.pending ∧ ((errWrite s toPart toLog r).1).comp = s.comp := by
  unfold errWrite
  (repeat' split) <;> simp only [errToPart_kept, errToLog_kept, and_self]

theorem report_kept (s : State) (ctx) (toPart) (toLog) (r) : (report s ctx toPart toLog r).pending = s.pending ∧ (report s ctx toPart toLog r).comp = s.comp := by
  unfold report
  (repeat' split) <;> simp only [errWrite_kept, errLost_kept, setHandling_kept, and_self]

theorem violation_kept (s : State) (toPart) (path) (src) (addr) (ctx) (queue) (status) : (violation s toPart path src addr ctx queue status).pending = s.pending ∧ (violation s toPart path src addr ctx queue status).comp = s.comp := by
  unfold violation
  simp only [report_kept, and_self]

theorem uncorrectableAt_kept (s : State) (a) (noise) (part) (ctx) (queue) : (uncorrectableAt s a noise part ctx queue).pending = s.pending ∧ (uncorrectableAt s a noise part ctx queue).comp = s.comp := by
  unfold uncorrectableAt
  simp only [modDev_kept, countEv_kept, report_kept, and_self]

theorem quietPorts_kept (s : State) : (quietPorts s).pending = s.pending ∧ (quietPorts s).comp = s.comp := ⟨rfl, rfl⟩

theorem stopModule_kept (s : State) (cause) : (stopModule s cause).pending = s.pending ∧ (stopModule s cause).comp = s.comp := ⟨rfl, rfl⟩

theorem noteAccess_kept (s : State) (c) (uncorr) (exhausted) : (noteAccess s c uncorr exhausted).pending = s.pending ∧ (noteAccess s c uncorr exhausted).comp = s.comp := by
  unfold noteAccess
  try simp only []
  all_goals (repeat' (split <;> ((try simp only [modChan_kept, stopModule_kept, and_self]))))
  all_goals (first | done | (refine foldl_kept (fun s a => ?_) _ _ _ ?_ <;> (try dsimp only) <;> (try simp only [modChan_kept, stopModule_kept, foldl_pending, foldl_comp, foldl1_pending, foldl1_comp, after_next, and_self, implies_true]) <;> (repeat' (split <;> (try simp only [modChan_kept, stopModule_kept, foldl_pending, foldl_comp, foldl1_pending, foldl1_comp, after_next, and_self, implies_true])))))

theorem noteRead_kept (s : State) (a) (n) (part) (ctx) (queue) : (noteRead s a n part ctx queue).pending = s.pending ∧ (noteRead s a n part ctx queue).comp = s.comp := by
  unfold noteRead
  simp only [uncorrectableAt_kept, tookRead_kept, noteAccess_kept, foldl_pending, foldl_comp, implies_true, and_self]

/-! ## Operands -/

theorem setRec_kept (s : State) (p) (i) (r) : (setRec s p i r).pending = s.pending ∧ (setRec s p i r).comp = s.comp := ⟨rfl, rfl⟩

/-! ## Placement -/

theorem placeBoundary_kept (s : State) (p) : (placeBoundary s p).pending = s.pending ∧ (placeBoundary s p).comp = s.comp := by
  unfold placeBoundary
  split <;> simp only [modPart_kept, and_self]

theorem modHomeUse_kept (s : State) (p) (home) (f) : (modHomeUse s p home f).pending = s.pending ∧ (modHomeUse s p home f).comp = s.comp := ⟨rfl, rfl⟩

theorem useHome_kept (s : State) (p) (home) (g) : (useHome s p home g).pending = s.pending ∧ (useHome s p home g).comp = s.comp := ⟨rfl, rfl⟩

theorem homeFull_kept (s : State) (p) (home) : (homeFull s p home).pending = s.pending ∧ (homeFull s p home).comp = s.comp := ⟨rfl, rfl⟩

/-! ## Inflight -/

theorem modIssued_kept (s : State) (w) (f) : (modIssued s w f).pending = s.pending ∧ (modIssued s w f).comp = s.comp := ⟨rfl, rfl⟩

theorem finish_kept (s : State) (w) (status) (result) (effects) : (finish s w status result effects).pending = s.pending ∧ (finish s w status result effects).comp = s.comp := ⟨rfl, rfl⟩

theorem undefWrites_kept (s : State) (w) (effects) : (undefWrites s w effects).pending = s.pending ∧ (undefWrites s w effects).comp = s.comp := by
  unfold undefWrites
  try simp only [modIssued_kept, makeUndef_kept, foldl_pending, foldl_comp, foldl1_pending, foldl1_comp, after_next, and_self, implies_true]
  all_goals (repeat' (split <;> ((try simp only [modIssued_kept, makeUndef_kept, foldl_pending, foldl_comp, foldl1_pending, foldl1_comp, after_next, and_self, implies_true]))))
  all_goals (first | done | (refine foldl_kept (fun s a => ?_) _ _ _ ?_ <;> (try dsimp only) <;> (try simp only [and_self]) <;> (repeat' (split <;> (try simp only [modIssued_kept, makeUndef_kept, and_self])))))

theorem failWith_kept (s : State) (w) (status) : (failWith s w status).pending = s.pending ∧ (failWith s w status).comp = s.comp := ⟨rfl, rfl⟩

theorem addressFault_kept (s : State) (w) (a) : (addressFault s w a).pending = s.pending ∧ (addressFault s w a).comp = s.comp := by
  unfold addressFault
  simp only [failWith_kept, violation_kept, and_self]

theorem readFault_kept (s : State) (w) (a) (n) : (readFault s w a n).pending = s.pending ∧ (readFault s w a n).comp = s.comp := by
  unfold readFault
  simp only [failWith_kept, noteRead_kept, and_self]

theorem takeTag_kept (s : State) (p) : ((takeTag s p).1).pending = s.pending ∧ ((takeTag s p).1).comp = s.comp := ⟨rfl, rfl⟩

theorem answerAwait_kept (s : State) (w) (tag) (status) (value) : (answerAwait s w tag status value).pending = s.pending ∧ (answerAwait s w tag status value).comp = s.comp := ⟨rfl, rfl⟩

/-! ## Link -/

theorem modNear_kept (s : State) (n) (f) : (modNear s n f).pending = s.pending ∧ (modNear s n f).comp = s.comp := ⟨rfl, rfl⟩

theorem protocolError_kept (s : State) (port) : (protocolError s port).pending = s.pending ∧ (protocolError s port).comp = s.comp := ⟨rfl, rfl⟩

theorem laneFlit_kept (s : State) (port) (f) : (laneFlit s port f).pending = s.pending ∧ (laneFlit s port f).comp = s.comp := ⟨rfl, rfl⟩

theorem newFlit_kept (s : State) (port) (body) : (newFlit s port body).pending = s.pending ∧ (newFlit s port body).comp = s.comp := ⟨rfl, rfl⟩

theorem drainTx_kept (port fuel : Nat) (s : State) : (drainTx port fuel s).pending = s.pending ∧ (drainTx port fuel s).comp = s.comp := by
  induction fuel generalizing s with
  | zero => exact ⟨rfl, rfl⟩
  | succ n ih =>
    unfold drainTx
    dsimp only
    split <;> simp only [ih, newFlit_kept, modNear_kept, and_self]

theorem idleFlit_kept (s : State) (port) : (idleFlit s port).pending = s.pending ∧ (idleFlit s port).comp = s.comp := by
  unfold idleFlit
  simp only [drainTx_kept, modNear_kept, and_self]

theorem linkSend_kept (s : State) (port) (tc) (units) (f) (more) : (linkSend s port tc units f more).pending = s.pending ∧ (linkSend s port tc units f more).comp = s.comp := by
  unfold linkSend
  dsimp only
  (repeat' split) <;> simp only [modNear_kept, drainTx_kept, idleFlit_kept, and_self]

theorem replayFlits_kept (s : State) (port) : (replayFlits s port).pending = s.pending ∧ (replayFlits s port).comp = s.comp := by
  unfold replayFlits
  simp only [laneFlit_kept, foldl_pending, foldl_comp, implies_true, and_self]

theorem widthChange_kept (s : State) (port) (lanes) : (widthChange s port lanes).pending = s.pending ∧ (widthChange s port lanes).comp = s.comp := by
  unfold widthChange
  simp only [replayFlits_kept, modNear_kept, draw_kept, and_self]

/-! ## Shape -/

theorem modTs_kept (s : State) (port) (f) : (modTs s port f).pending = s.pending ∧ (modTs s port f).comp = s.comp := ⟨rfl, rfl⟩

theorem stampHead_kept (s : State) (port) (l) : (stampHead s port l).pending = s.pending ∧ (stampHead s port l).comp = s.comp := by
  unfold stampHead
  dsimp only
  (repeat' split) <;> simp only [modTs_kept, and_self]

theorem regTake_kept (s : State) (p) (i) (place) (size) : (regTake s p i place size).pending = s.pending ∧ (regTake s p i place size).comp = s.comp := by
  unfold regTake
  split <;> simp only [modPart_kept, and_self]

theorem park_kept (s : State) (port) (part) (tc) (k) : (park s port part tc k).pending = s.pending ∧ (park s port part tc k).comp = s.comp := by
  unfold park
  split <;> simp only [modTs_kept, countEv_kept, and_self]

theorem examine_kept (s : State) (port) (part) (tc) : (examine s port part tc).pending = s.pending ∧ (examine s port part tc).comp = s.comp := by
  unfold examine
  dsimp only
  (repeat' split) <;> simp only [modTs_kept, park_kept, and_self]

theorem enqueueFrame_kept (s : State) (port) (part) (tc) (req) (f) : (enqueueFrame s port part tc req f).pending = s.pending ∧ (enqueueFrame s port part tc req f).comp = s.comp := by
  unfold enqueueFrame
  dsimp only
  (repeat' split) <;> simp only [stampHead_kept, modTs_kept, examine_kept, and_self]

theorem enqueue_kept (s : State) (port) (part) (tc) (req) (len) (what) : (enqueue s port part tc req len what).pending = s.pending ∧ (enqueue s port part tc req len what).comp = s.comp := by
  unfold enqueue
  simp only [enqueueFrame_kept, and_self]

theorem settleHeader_kept (s : State) (g) (a) : (settleHeader s g a).pending = s.pending ∧ (settleHeader s g a).comp = s.comp := ⟨rfl, rfl⟩

theorem linkTake_kept (s : State) (port) (f) : (linkTake s port f).pending = s.pending ∧ (linkTake s port f).comp = s.comp := by
  unfold linkTake
  (repeat' split) <;> simp only [linkSend_kept, countEv_kept, emitOut_kept, draw_kept, settleHeader_kept, hostWrite_getD_kept, and_self]

theorem chargeFrame_kept (s : State) (port) (n) (f) : (chargeFrame s port n f).pending = s.pending ∧ (chargeFrame s port n f).comp = s.comp := by
  unfold chargeFrame
  dsimp only
  (repeat' split) <;> simp only [regTake_kept, and_self]

theorem sendFrame_kept (s : State) (port) (f) : (sendFrame s port f).pending = s.pending ∧ (sendFrame s port f).comp = s.comp := by
  unfold sendFrame
  dsimp only
  split <;> simp only [emitOut_kept, linkTake_kept, apply_ite State.pending, apply_ite State.comp, stampHead_kept, examine_kept,
    chargeFrame_kept, countEv_kept, modTs_kept, ite_self, and_self]

theorem execPendingReexamine_kept (part) (tc) (port) (s : State) : (after (execPendingReexamine part tc port s) s).pending = s.pending ∧ (after (execPendingReexamine part tc port s) s).comp = s.comp := by
  unfold execPendingReexamine
  (repeat' split) <;> simp only [examine_kept, after_next, and_self]

theorem execWheelSlotRelease_kept (slot) (s : State) : (after (execWheelSlotRelease slot s) s).pending = s.pending ∧ (after (execWheelSlotRelease slot s) s).comp = s.comp := by
  unfold execWheelSlotRelease
  (repeat' split) <;> simp only [examine_kept, after_next, foldl_pending, foldl_comp, implies_true, and_self]

theorem execOverflowSlotRelease_kept (slot) (s : State) : (after (execOverflowSlotRelease slot s) s).pending = s.pending ∧ (after (execOverflowSlotRelease slot s) s).comp = s.comp := by
  unfold execOverflowSlotRelease
  try simp only []
  all_goals (repeat' (split <;> ((try simp only [after_next, and_self]))))
  all_goals (first | done | (refine foldl_kept (fun s a => ?_) _ _ _ ?_ <;> (try dsimp only) <;> (try simp only [and_self]) <;> (repeat' (split <;> (try simp only [park_kept, examine_kept, and_self])))))

theorem execGateEntryBoundary_kept (port) (s : State) : (after (execGateEntryBoundary port s) s).pending = s.pending ∧ (after (execGateEntryBoundary port s) s).comp = s.comp := by
  unfold execGateEntryBoundary
  dsimp only
  (repeat' split) <;> simp only [modTs_kept, after_next, and_self]

theorem execGateTakeover_kept (port) (s : State) : (after (execGateTakeover port s) s).pending = s.pending ∧ (after (execGateTakeover port s) s).comp = s.comp := by
  unfold execGateTakeover
  dsimp only
  (repeat' split) <;> simp only [modTs_kept, after_next, and_self]

theorem execLeafIdleForget_kept (port) (part) (tc) (req) (s : State) : (after (execLeafIdleForget port part tc req s) s).pending = s.pending ∧ (after (execLeafIdleForget port part tc req s) s).comp = s.comp := by
  unfold execLeafIdleForget
  dsimp only
  (repeat' split) <;> simp only [modTs_kept, after_next, and_self]

/-! ## Net -/

theorem modStream_kept (s : State) (port) (n) (f) : (modStream s port n f).pending = s.pending ∧ (modStream s port n f).comp = s.comp := ⟨rfl, rfl⟩

theorem reportDead_kept (s : State) (o) : (reportDead s o).pending = s.pending ∧ (reportDead s o).comp = s.comp := ⟨rfl, rfl⟩

theorem closeFabric_kept (s : State) (w) : (closeFabric s w).pending = s.pending ∧ (closeFabric s w).comp = s.comp := by
  unfold closeFabric
  split <;> simp only [modIssued_kept, and_self]

theorem noteCopy_kept (s : State) (c) (status) : (noteCopy s c status).pending = s.pending ∧ (noteCopy s c status).comp = s.comp := by
  unfold noteCopy
  (repeat' split) <;> simp only [and_self]

theorem answerTxn_kept (s : State) (t) (status) (payload) : (answerTxn s t status payload).pending = s.pending ∧ (answerTxn s t status payload).comp = s.comp := by
  unfold answerTxn
  split <;> simp only [noteCopy_kept, closeFabric_kept, modIssued_kept, noteFenced_kept, and_self]

theorem deadForInstr_kept (s : State) (t) : (deadForInstr s t).pending = s.pending ∧ (deadForInstr s t).comp = s.comp := by
  unfold deadForInstr
  split <;> simp only [closeFabric_kept, modIssued_kept, and_self]

theorem deadTxn_kept (s : State) (t) : (deadTxn s t).pending = s.pending ∧ (deadTxn s t).comp = s.comp := by
  unfold deadTxn
  split <;> simp only [countEv_kept, report_kept, reportDead_kept, deadForInstr_kept, noteCopy_kept, and_self]

theorem launchTxn_kept (s : State) (t) (frames) : (launchTxn s t frames).pending = s.pending ∧ (launchTxn s t frames).comp = s.comp := by
  unfold launchTxn
  dsimp only
  (repeat' split) <;> simp only [deadTxn_kept, enqueueFrame_kept, foldl_pending, foldl_comp, implies_true, and_self]

theorem notePaths_kept (s : State) : (notePaths s).pending = s.pending ∧ (notePaths s).comp = s.comp := ⟨rfl, rfl⟩

theorem sendTxn_kept (s : State) (t) (frames) : (sendTxn s t frames).pending = s.pending ∧ (sendTxn s t frames).comp = s.comp := by
  unfold sendTxn
  split <;> simp only [launchTxn_kept, and_self]

theorem launchPlain_kept (s : State) (t) (c) : (launchPlain s t c).pending = s.pending ∧ (launchPlain s t c).comp = s.comp := by
  unfold launchPlain
  (repeat' split) <;> simp only [launchTxn_kept, foldl_pending, foldl_comp, implies_true, and_self]

theorem launchCargo_kept (s : State) (t) (c) : (launchCargo s t c).pending = s.pending ∧ (launchCargo s t c).comp = s.comp := by
  unfold launchCargo
  (repeat' split) <;> simp only [launchPlain_kept, modStream_kept, launchTxn_kept, and_self]

theorem sendCargo_kept (s : State) (t) (c) : (sendCargo s t c).pending = s.pending ∧ (sendCargo s t c).comp = s.comp := by
  unfold sendCargo
  split <;> simp only [launchCargo_kept, and_self]

theorem releaseHeld_kept (s : State) : (releaseHeld s).pending = s.pending ∧ (releaseHeld s).comp = s.comp := by
  unfold releaseHeld
  try simp only []
  all_goals (repeat' (split <;> ((try simp only [launchCargo_kept, launchTxn_kept, foldl_pending, foldl_comp, foldl1_pending, foldl1_comp, after_next, and_self, implies_true]))))
  all_goals (first | done | (refine foldl_kept (fun s a => ?_) _ _ _ ?_ <;> (try dsimp only) <;> (try simp only [and_self]) <;> (repeat' (split <;> (try simp only [launchCargo_kept, launchTxn_kept, and_self])))))

theorem modConn_kept (s : State) (n) (f) : (modConn s n f).pending = s.pending ∧ (modConn s n f).comp = s.comp := ⟨rfl, rfl⟩

theorem modFar_kept (s : State) (n) (f) : (modFar s n f).pending = s.pending ∧ (modFar s n f).comp = s.comp := ⟨rfl, rfl⟩

theorem dropSegs_kept (s : State) (n) : (dropSegs s n).pending = s.pending ∧ (dropSegs s n).comp = s.comp := ⟨rfl, rfl⟩

theorem freeConn_kept (s : State) (n) : (freeConn s n).pending = s.pending ∧ (freeConn s n).comp = s.comp := ⟨rfl, rfl⟩

theorem sendControl_kept (s : State) (n) (tc) (k) : (sendControl s n tc k).pending = s.pending ∧ (sendControl s n tc k).comp = s.comp := by
  unfold sendControl
  split <;> simp only [enqueueFrame_kept, and_self]

theorem sendConnMsg_kept (s : State) (n) (op) (c) (r) : (sendConnMsg s n op c r).pending = s.pending ∧ (sendConnMsg s n op c r).comp = s.comp := by
  unfold sendConnMsg
  (repeat' split) <;> simp only [enqueueFrame_kept, and_self]

theorem sendOpen_kept (s : State) (n) : (sendOpen s n).pending = s.pending ∧ (sendOpen s n).comp = s.comp := by
  unfold sendOpen
  simp only [modConn_kept, sendConnMsg_kept, and_self]

theorem takeConn_kept (s : State) (n) (c) : (takeConn s n c).pending = s.pending ∧ (takeConn s n c).comp = s.comp := ⟨rfl, rfl⟩

theorem addXfer_kept (s : State) (n) (x) : (addXfer s n x).pending = s.pending ∧ (addXfer s n x).comp = s.comp := ⟨rfl, rfl⟩

theorem makeRoom_kept (s : State) : (makeRoom s).pending = s.pending ∧ (makeRoom s).comp = s.comp := by
  unfold makeRoom
  (repeat' split)
  · exact ⟨rfl, rfl⟩
  · rw [(modConn_kept _ _ _).1, (modConn_kept _ _ _).2]
    cases e : hostPost (draw s) _ _ _ with
    | none => exact ⟨rfl, rfl⟩
    | some t => exact hostPost_kept (draw s) _ _ _ t e
  · exact ⟨rfl, rfl⟩

theorem peerConn_kept (device) (s : State) (p) (tpart) (dest) : ((peerConn device s p tpart dest).1).pending = s.pending ∧ ((peerConn device s p tpart dest).1).comp = s.comp := by
  unfold peerConn
  (repeat' split) <;> simp only [sendOpen_kept, takeConn_kept, makeRoom_kept, draw_kept, and_self]

theorem deviceConn_kept (s : State) (p) (tpart) (dest) : ((deviceConn s p tpart dest).1).pending = s.pending ∧ ((deviceConn s p tpart dest).1).comp = s.comp := by
  unfold deviceConn
  simp only [peerConn_kept, and_self]

theorem reportXfers_kept (s : State) (xs) : (reportXfers s xs).pending = s.pending ∧ (reportXfers s xs).comp = s.comp := by
  unfold reportXfers
  try simp only [reportDead_kept, foldl_pending, foldl_comp, foldl1_pending, foldl1_comp, after_next, and_self, implies_true]
  all_goals (repeat' (split <;> ((try simp only [reportDead_kept, foldl_pending, foldl_comp, foldl1_pending, foldl1_comp, after_next, and_self, implies_true]))))
  all_goals (first | done | (refine foldl_kept (fun s a => ?_) _ _ _ ?_ <;> (try dsimp only) <;> (try simp only [and_self]) <;> (repeat' (split <;> (try simp only [reportDead_kept, and_self])))))

theorem sendMsg_kept (s : State) (p) (tc) (dest) (tpart) (len) (o) (req) : (sendMsg s p tc dest tpart len o req).pending = s.pending ∧ (sendMsg s p tc dest tpart len o req).comp = s.comp := by
  unfold sendMsg
  split
  · exact ⟨rfl, rfl⟩
  · dsimp only
    split
    · simp only [sendTxn_kept, draw_kept, and_self]
    · have k := deviceConn_kept (draw s) p tpart dest
      split <;> next h => simp only [h, draw_kept] at k; simp only [reportDead_kept, addXfer_kept, k, and_self]

theorem sendTrapeze_kept (s : State) (p) (dest) (m) : (sendTrapeze s p dest m).pending = s.pending ∧ (sendTrapeze s p dest m).comp = s.comp := by
  unfold sendTrapeze
  simp only [sendMsg_kept, and_self]

theorem sendCopy_kept (s : State) (p) (tc) (dest) (tpart) (handle) (rows) (c) : (sendCopy s p tc dest tpart handle rows c).pending = s.pending ∧ (sendCopy s p tc dest tpart handle rows c).comp = s.comp := by
  unfold sendCopy
  dsimp only
  split
  · exact foldl_kept (fun s a => by simp only [devPut_kept, and_self]) _ _ _ ⟨rfl, rfl⟩
  · split
    · exact foldl_kept (fun s a => foldl_kept (fun s b => by simp only [sendTxn_kept, and_self]) _ _ _ ⟨rfl, rfl⟩) _ _ _ ⟨rfl, rfl⟩
    · have k := deviceConn_kept s p tpart dest
      split <;> next h =>
        simp only [h] at k
        first
        | (simp only [noteCopy_kept, k, and_self]; done)
        | exact foldl_kept (fun s a => by simp only [addXfer_kept, and_self]) _ _ _ k

theorem forgetCopy_kept (s : State) (c) : (forgetCopy s c).pending = s.pending ∧ (forgetCopy s c).comp = s.comp := ⟨rfl, rfl⟩

theorem takeNoc_kept (s : State) (o) : (takeNoc s o).pending = s.pending ∧ (takeNoc s o).comp = s.comp := ⟨rfl, rfl⟩

theorem clearReport_kept (s : State) (p) (tag) : (clearReport s p tag).pending = s.pending ∧ (clearReport s p tag).comp = s.comp := ⟨rfl, rfl⟩

/-! ## Queues -/

theorem setSem_kept (s : State) (p) (sem) (x) : (setSem s p sem x).pending = s.pending ∧ (setSem s p sem x).comp = s.comp := ⟨rfl, rfl⟩

theorem semAdd_kept (s : State) (p) (sem) (n) : (semAdd s p sem n).pending = s.pending ∧ (semAdd s p sem n).comp = s.comp := by
  unfold semAdd
  dsimp only
  (repeat' split) <;> simp only [setSem_kept, report_kept, and_self]

theorem grant_kept (s : State) (p) (x) : (grant s p x).pending = s.pending ∧ (grant s p x).comp = s.comp := by
  unfold grant
  split <;> simp only [setSem_kept, modPart_kept, modQueue_kept, finish_kept, and_self]

theorem serveSem_kept (s : State) (p sem n : Nat) : (serveSem s p sem n).pending = s.pending ∧ (serveSem s p sem n).comp = s.comp := by
  induction n generalizing s with
  | zero => exact ⟨rfl, rfl⟩
  | succ n ih =>
    unfold serveSem
    (repeat' split) <;> simp only [ih, grant_kept, and_self]

theorem serve_kept (s : State) (p) (sem) : (serve s p sem).pending = s.pending ∧ (serve s p sem).comp = s.comp := by
  unfold serve
  simp only [serveSem_kept, and_self]

theorem execSemaphoreServe_kept (p) (sem) (s : State) : (after (execSemaphoreServe p sem s) s).pending = s.pending ∧ (after (execSemaphoreServe p sem s) s).comp = s.comp := by
  unfold execSemaphoreServe
  split <;> simp only [serve_kept, after_next, and_self]

theorem execNop_kept (w) (s : State) : (after (execNop w s) s).pending = s.pending ∧ (after (execNop w s) s).comp = s.comp := by
  unfold execNop withInstr
  (repeat' split) <;> simp only [finish_kept, after_next, and_self]

theorem execFence_kept (w) (s : State) : (after (execFence w s) s).pending = s.pending ∧ (after (execFence w s) s).comp = s.comp := by
  unfold execFence withInstr
  dsimp only
  (repeat' split) <;> simp only [finish_kept, after_next, and_self]

theorem execWait_kept (w) (s : State) : (after (execWait w s) s).pending = s.pending ∧ (after (execWait w s) s).comp = s.comp := by
  unfold execWait withInstr
  dsimp only
  (repeat' split) <;> simp only [modPart_kept, serve_kept, after_next, and_self]

theorem execWaitLimitExpiry_kept (w) (s : State) : (after (execWaitLimitExpiry w s) s).pending = s.pending ∧ (after (execWaitLimitExpiry w s) s).comp = s.comp := by
  unfold execWaitLimitExpiry withInstr
  dsimp only
  (repeat' split) <;> simp only [failWith_kept, modPart_kept, after_next, and_self]

theorem execSignal_kept (w) (s : State) : (after (execSignal w s) s).pending = s.pending ∧ (after (execSignal w s) s).comp = s.comp := by
  unfold execSignal withInstr
  (repeat' split) <;> simp only [finish_kept, after_next, and_self]

theorem execTimewait_kept (w) (s : State) : (after (execTimewait w s) s).pending = s.pending ∧ (after (execTimewait w s) s).comp = s.comp := by
  unfold execTimewait withInstr
  dsimp only
  (repeat' split) <;> simp only [finish_kept, after_next, and_self]

theorem execSnap_kept (w) (s : State) : (after (execSnap w s) s).pending = s.pending ∧ (after (execSnap w s) s).comp = s.comp := by
  unfold execSnap withInstr
  (repeat' split) <;> simp only [finish_kept, after_next, and_self]

theorem execHaltq_kept (w) (s : State) : (after (execHaltq w s) s).pending = s.pending ∧ (after (execHaltq w s) s).comp = s.comp := by
  unfold execHaltq withInstr
  dsimp only
  (repeat' split) <;> simp only [finish_kept, modIssued_kept, modQueue_kept, after_next, and_self]

/-! ## Home -/

theorem setFrame_kept (s : State) (g) (f) : (setFrame s g f).pending = s.pending ∧ (setFrame s g f).comp = s.comp := ⟨rfl, rfl⟩

theorem cacheWindow_kept (s : State) (p) (x) : (cacheWindow s p x).pending = s.pending ∧ (cacheWindow s p x).comp = s.comp := by
  unfold cacheWindow
  dsimp only
  (repeat' split) <;> simp only [modPart_kept, and_self]

theorem cacheFrame_kept (s : State) (g) : (cacheFrame s g).pending = s.pending ∧ (cacheFrame s g).comp = s.comp := by
  unfold cacheFrame
  split <;> simp only [cacheWindow_kept, and_self]

theorem journal_kept (s : State) (handle) (old) (new) (event) (owner) : (journal s handle old new event owner).pending = s.pending ∧ (journal s handle old new event owner).comp = s.comp := ⟨rfl, rfl⟩

theorem transition_kept (s : State) (g) (f) (event) : (transition s g f event).pending = s.pending ∧ (transition s g f event).comp = s.comp := ⟨rfl, rfl⟩

theorem freeFrame_kept (s : State) (g) (event) : (freeFrame s g event).pending = s.pending ∧ (freeFrame s g event).comp = s.comp := ⟨rfl, rfl⟩

theorem allocFrame_kept (s : State) (lo) (hi) (sizeLog2) (mk) (event) (t) (h : allocFrame s lo hi sizeLog2 mk event = some t) : (t.1).pending = s.pending ∧ (t.1).comp = s.comp := by
  unfold allocFrame at h
  (repeat' split at h) <;> first | (cases h; done) | (cases h; simp only [transition_kept, draw_kept, and_self])

theorem allocFrames_kept (lo hi sizeLog2 : Nat) (mk : Nat → Frame) (n : Nat) (s : State) (hs : List Nat) :
    ((allocFrames lo hi sizeLog2 mk n s hs).1).pending = s.pending ∧ ((allocFrames lo hi sizeLog2 mk n s hs).1).comp = s.comp := by
  induction n generalizing s hs with
  | zero => exact ⟨rfl, rfl⟩
  | succ n ih =>
    unfold allocFrames
    split
    · simp only [foldl_pending, foldl_comp, freeFrame_kept, implies_true, and_self]
    · next heq =>
      have k := allocFrame_kept _ _ _ _ _ _ _ heq
      dsimp only at k
      simp only [ih, k, and_self]

theorem touchFrame_kept (s : State) (g) : (touchFrame s g).pending = s.pending ∧ (touchFrame s g).comp = s.comp := ⟨rfl, rfl⟩

theorem tellParty_kept (s : State) (g) (to_) (m) : (tellParty s g to_ m).pending = s.pending ∧ (tellParty s g to_ m).comp = s.comp := by
  unfold tellParty
  simp only [sendTrapeze_kept, and_self]

theorem replyTo_kept (s : State) (src) (tag) (handle) (status) (peer) (time) (flags) (refs) (newHandle) : (replyTo s src tag handle status peer time flags refs newHandle).pending = s.pending ∧ (replyTo s src tag handle status peer time flags refs newHandle).comp = s.comp := by
  unfold replyTo
  simp only [tellParty_kept, and_self]

theorem strayMsg_kept (s : State) : (strayMsg s).pending = s.pending ∧ (strayMsg s).comp = s.comp := ⟨rfl, rfl⟩

theorem refuse_kept (s : State) (src) (tag) (handle) (e) : (refuse s src tag handle e).pending = s.pending ∧ (refuse s src tag handle e).comp = s.comp := by
  unfold refuse
  simp only [replyTo_kept, and_self]

theorem returnedToBoth_kept (s : State) (g) (handle) (status) (owner) (offeree) : (returnedToBoth s g handle status owner offeree).pending = s.pending ∧ (returnedToBoth s g handle status owner offeree).comp = s.comp := by
  unfold returnedToBoth
  simp only [tellParty_kept, and_self]

theorem loseFrame_kept (s : State) (g) (event) : (loseFrame s g event).pending = s.pending ∧ (loseFrame s g event).comp = s.comp := by
  unfold loseFrame
  simp only [transition_kept, tellParty_kept, and_self]

theorem dropMigration_kept (s : State) (g) (asSource) : (dropMigration s g asSource).pending = s.pending ∧ (dropMigration s g asSource).comp = s.comp := ⟨rfl, rfl⟩

theorem modMigration_kept (s : State) (g) (asSource) (f) : (modMigration s g asSource f).pending = s.pending ∧ (modMigration s g asSource f).comp = s.comp := ⟨rfl, rfl⟩

theorem sendAbort_kept (s : State) (g) (x) (status) (handle) (peer) : (sendAbort s g x status handle peer).pending = s.pending ∧ (sendAbort s g x status handle peer).comp = s.comp := by
  unfold sendAbort
  simp only [sendTrapeze_kept, tellParty_kept, and_self]

theorem abortAtSource_kept (s : State) (g) (x) (status) (event) : (abortAtSource s g x status event).pending = s.pending ∧ (abortAtSource s g x status event).comp = s.comp := by
  unfold abortAtSource
  dsimp only
  (repeat' split) <;> simp only [dropMigration_kept, transition_kept, sendAbort_kept, and_self]

theorem endCopy_kept (s : State) (g) : (endCopy s g).pending = s.pending ∧ (endCopy s g).comp = s.comp := by
  unfold endCopy
  split <;> simp only [abortAtSource_kept, and_self]

theorem beginHold_kept (s : State) (h) : (beginHold s h).pending = s.pending ∧ (beginHold s h).comp = s.comp := ⟨rfl, rfl⟩

theorem offerLapse_kept (s : State) (g) : (offerLapse s g).pending = s.pending ∧ (offerLapse s g).comp = s.comp := by
  unfold offerLapse
  dsimp only
  (repeat' split) <;> simp only [loseFrame_kept, transition_kept, returnedToBoth_kept, and_self]

theorem lostLapse_kept (s : State) (g) : (lostLapse s g).pending = s.pending ∧ (lostLapse s g).comp = s.comp := by
  unfold lostLapse
  dsimp only
  (repeat' split) <;> simp only [freeFrame_kept, and_self]

theorem migrationLapse_kept (s : State) (g) : (migrationLapse s g).pending = s.pending ∧ (migrationLapse s g).comp = s.comp := by
  unfold migrationLapse
  (repeat' split) <;> simp only [freeFrame_kept, dropMigration_kept, beginHold_kept, abortAtSource_kept, sendAbort_kept, and_self]

theorem forwardLapse_kept (s : State) (h) : (forwardLapse s h).pending = s.pending ∧ (forwardLapse s h).comp = s.comp := by
  unfold forwardLapse
  dsimp only
  (repeat' split) <;> simp only [freeFrame_kept, and_self]

theorem lapse_kept (s : State) (h) : (lapse s h).pending = s.pending ∧ (lapse s h).comp = s.comp := by
  unfold lapse
  simp only [lostLapse_kept, offerLapse_kept, migrationLapse_kept, forwardLapse_kept, and_self]

theorem execMigrationDeadline_kept (g) (s : State) : (after (execMigrationDeadline g s) s).pending = s.pending ∧ (after (execMigrationDeadline g s) s).comp = s.comp := by
  unfold execMigrationDeadline
  split <;> simp only [migrationLapse_kept, after_next, and_self]

theorem execOfferDeadline_kept (g) (s : State) : (after (execOfferDeadline g s) s).pending = s.pending ∧ (after (execOfferDeadline g s) s).comp = s.comp := by
  unfold execOfferDeadline
  split <;> simp only [offerLapse_kept, after_next, and_self]

theorem execLostHoldEnd_kept (g) (s : State) : (after (execLostHoldEnd g s) s).pending = s.pending ∧ (after (execLostHoldEnd g s) s).comp = s.comp := by
  unfold execLostHoldEnd
  split <;> simp only [lostLapse_kept, after_next, and_self]

theorem execForwardingHoldEnd_kept (h) (s : State) : (after (execForwardingHoldEnd h s) s).pending = s.pending ∧ (after (execForwardingHoldEnd h s) s).comp = s.comp := by
  unfold execForwardingHoldEnd
  split <;> simp only [forwardLapse_kept, after_next, and_self]

theorem execReleaseAtHome_kept (m) (s : State) : (after (execReleaseAtHome m s) s).pending = s.pending ∧ (after (execReleaseAtHome m s) s).comp = s.comp := by
  unfold execReleaseAtHome homeEvent
  dsimp only
  (repeat' split) <;> simp only [strayMsg_kept, takeNoc_kept, lapse_kept, refuse_kept, replyTo_kept, transition_kept, tellParty_kept, returnedToBoth_kept, after_next, and_self]

theorem execCatchAtHome_kept (m) (s : State) : (after (execCatchAtHome m s) s).pending = s.pending ∧ (after (execCatchAtHome m s) s).comp = s.comp := by
  unfold execCatchAtHome homeEvent
  dsimp only
  (repeat' split) <;> simp only [strayMsg_kept, takeNoc_kept, lapse_kept, refuse_kept, transition_kept, tellParty_kept, after_next, and_self]

theorem execQueryAtHome_kept (m) (s : State) : (after (execQueryAtHome m s) s).pending = s.pending ∧ (after (execQueryAtHome m s) s).comp = s.comp := by
  unfold execQueryAtHome homeEvent
  dsimp only
  (repeat' split) <;> simp only [strayMsg_kept, takeNoc_kept, lapse_kept, tellParty_kept, after_next, and_self]

theorem allocReplyTo_kept (s : State) (m) (status) (handles) : (allocReplyTo s m status handles).pending = s.pending ∧ (allocReplyTo s m status handles).comp = s.comp := by
  unfold allocReplyTo
  simp only [sendMsg_kept, and_self]

theorem execAllocAtHome_kept (m) (s : State) : (after (execAllocAtHome m s) s).pending = s.pending ∧ (after (execAllocAtHome m s) s).comp = s.comp := by
  unfold execAllocAtHome
  dsimp only
  (repeat' split) <;> simp only [takeNoc_kept, allocReplyTo_kept, allocFrames_kept, after_next, and_self]

theorem execSealAtHome_kept (m) (s : State) : (after (execSealAtHome m s) s).pending = s.pending ∧ (after (execSealAtHome m s) s).comp = s.comp := by
  unfold execSealAtHome
  dsimp only
  (repeat' split) <;> simp only [lapse_kept, takeNoc_kept, refuse_kept, transition_kept, replyTo_kept, after_next, and_self]

theorem freeAt_kept (s : State) (h) (x) : ((freeAt s h x).1).pending = s.pending ∧ ((freeAt s h x).1).comp = s.comp := by
  unfold freeAt
  dsimp only
  (repeat' split) <;> simp only [freeFrame_kept, setFrame_kept, endCopy_kept, and_self]

theorem addRef_kept (s : State) (h) (x) : ((addRef s h x).1).pending = s.pending ∧ ((addRef s h x).1).comp = s.comp := by
  unfold addRef
  dsimp only
  (repeat' split) <;> simp only [setFrame_kept, and_self]

theorem freeReplyTo_kept (s : State) (m) (refs) (granules) : (freeReplyTo s m refs granules).pending = s.pending ∧ (freeReplyTo s m refs granules).comp = s.comp := by
  unfold freeReplyTo
  simp only [sendMsg_kept, and_self]

theorem stayNoc_kept (s : State) (o) : (stayNoc s o).pending = s.pending ∧ (stayNoc s o).comp = s.comp := by
  unfold stayNoc
  split <;> simp only [and_self]

theorem execFreeAtHome_kept (m) (s : State) : (after (execFreeAtHome m s) s).pending = s.pending ∧ (after (execFreeAtHome m s) s).comp = s.comp := by
  unfold execFreeAtHome
  dsimp only
  (repeat' split) <;> simp only [stayNoc_kept, addRef_kept, lapse_kept, takeNoc_kept, replyTo_kept, refuse_kept, freeAt_kept, freeReplyTo_kept, after_next, and_self]

theorem execMigrateAtSource_kept (m) (s : State) : (after (execMigrateAtSource m s) s).pending = s.pending ∧ (after (execMigrateAtSource m s) s).comp = s.comp := by
  unfold execMigrateAtSource
  dsimp only
  (repeat' split) <;> simp only [stayNoc_kept, lapse_kept, takeNoc_kept, refuse_kept, sendMsg_kept, transition_kept, after_next, and_self]

theorem freeHeld_kept (s : State) (p) (handle) : (freeHeld s p handle).pending = s.pending ∧ (freeHeld s p handle).comp = s.comp := by
  unfold freeHeld
  (repeat' split) <;> simp only [freeFrame_kept, modPart_kept, and_self]

theorem execMigrateBegin_kept (m) (s : State) : (after (execMigrateBegin m s) s).pending = s.pending ∧ (after (execMigrateBegin m s) s).comp = s.comp := by
  unfold execMigrateBegin
  split
  · exact ⟨rfl, rfl⟩
  · dsimp only
    split
    · simp only [after_next, sendTrapeze_kept, freeHeld_kept, takeNoc_kept, and_self]
    · next heq =>
      split at heq
      · have k := allocFrame_kept _ _ _ _ _ _ _ heq
        dsimp only at k
        simp only [after_next, sendTrapeze_kept, k, freeHeld_kept, takeNoc_kept, and_self]
      · cases heq

theorem readyForParity_kept (s : State) (tag) (newHandle) : (readyForParity s tag newHandle).pending = s.pending ∧ (readyForParity s tag newHandle).comp = s.comp := by
  unfold readyForParity
  split <;> simp only [answerAwait_kept, and_self]

theorem execMigrateReady_kept (m) (s : State) : (after (execMigrateReady m s) s).pending = s.pending ∧ (after (execMigrateReady m s) s).comp = s.comp := by
  unfold execMigrateReady homeEvent
  dsimp only
  (repeat' split) <;> simp only [strayMsg_kept, takeNoc_kept, lapse_kept, readyForParity_kept, setFrame_kept, modMigration_kept, noteRead_kept, abortAtSource_kept, sendCopy_kept, after_next, foldl_pending, foldl_comp, implies_true, and_self]

theorem execMigrateCopyDone_kept (g) (s : State) : (after (execMigrateCopyDone g s) s).pending = s.pending ∧ (after (execMigrateCopyDone g s) s).comp = s.comp := by
  unfold execMigrateCopyDone
  dsimp only
  (repeat' split) <;> simp only [cacheFrame_kept, migrationLapse_kept, abortAtSource_kept, transition_kept, sendMsg_kept, after_next, and_self]

theorem execMigrateCommit_kept (m) (hash) (s : State) : (after (execMigrateCommit m hash s) s).pending = s.pending ∧ (after (execMigrateCommit m hash s) s).comp = s.comp := by
  unfold execMigrateCommit homeEvent
  dsimp only
  (repeat' split) <;> simp only [draw_kept, strayMsg_kept, takeNoc_kept, lapse_kept, dropMigration_kept, transition_kept, sendTrapeze_kept, tellParty_kept, after_next, and_self]

theorem doneAtSource_kept (s : State) (m) : (doneAtSource s m).pending = s.pending ∧ (doneAtSource s m).comp = s.comp := by
  unfold doneAtSource
  dsimp only
  (repeat' split) <;> simp only [beginHold_kept, dropMigration_kept, freeFrame_kept, and_self]

theorem abortAtHome_kept (s : State) (m) : (abortAtHome s m).pending = s.pending ∧ (abortAtHome s m).comp = s.comp := by
  unfold abortAtHome
  dsimp only
  (repeat' split) <;> simp only [dropMigration_kept, transition_kept, freeFrame_kept, and_self]

theorem raiseFloor_kept (s : State) (x) (e) : (raiseFloor s x e).pending = s.pending ∧ (raiseFloor s x e).comp = s.comp := ⟨rfl, rfl⟩

theorem fenceFrame_kept (x) (s : State) (g) : (fenceFrame x s g).pending = s.pending ∧ (fenceFrame x s g).comp = s.comp := by
  unfold fenceFrame
  dsimp only
  (repeat' split) <;> simp only [loseFrame_kept, transition_kept, returnedToBoth_kept, sendAbort_kept, dropMigration_kept, and_self]

theorem applyFence_kept (s : State) (x) (e) : (applyFence s x e).pending = s.pending ∧ (applyFence s x e).comp = s.comp := by
  unfold applyFence
  simp only [raiseFloor_kept, fenceFrame_kept, lapse_kept, foldl_pending, foldl_comp, implies_true, and_self]

theorem fenceAckTo_kept (s : State) (f) (status) : (fenceAckTo s f status).pending = s.pending ∧ (fenceAckTo s f status).comp = s.comp := by
  unfold fenceAckTo
  simp only [sendTrapeze_kept, and_self]

theorem execFenceMsg_kept (f) (s : State) : (after (execFenceMsg f s) s).pending = s.pending ∧ (after (execFenceMsg f s) s).comp = s.comp := by
  unfold execFenceMsg
  dsimp only
  (repeat' split) <;> simp only [strayMsg_kept, takeNoc_kept, report_kept, fenceAckTo_kept, applyFence_kept, after_next, and_self]

/-! ## Wire -/

theorem handDevice_kept (s : State) (sender) (tpart) (bs) (err : State → State) (h : (err s).pending = s.pending ∧ (err s).comp = s.comp) :
    (handDevice s sender tpart bs err).pending = s.pending ∧ (handDevice s sender tpart bs err).comp = s.comp := by
  unfold handDevice
  split
  · exact draw_kept s
  · exact h

theorem outsideRead_kept (s : State) (x) (addr) (n) : ((outsideRead s x addr n).1).pending = s.pending ∧ ((outsideRead s x addr n).1).comp = s.comp := by
  unfold outsideRead
  dsimp only
  (repeat' split) <;> simp only [tookRead_kept, touchFrame_kept, noteRead_kept, and_self]

theorem outsideWrite_kept (s : State) (x) (addr) (bs) : ((outsideWrite s x addr bs).1).pending = s.pending ∧ ((outsideWrite s x addr bs).1).comp = s.comp := by
  unfold outsideWrite
  dsimp only
  (repeat' split) <;> simp only [devWrite_kept, noteRead_kept, and_self]

/-! ## Transcoder -/

theorem modRctx_kept (s : State) (p) (c) (f) : (modRctx s p c f).pending = s.pending ∧ (modRctx s p c f).comp = s.comp := ⟨rfl, rfl⟩

theorem putRound_kept (s : State) (c) (rounds) (rstatus) (missing) : (putRound s c rounds rstatus missing).pending = s.pending ∧ (putRound s c rounds rstatus missing).comp = s.comp := by
  unfold putRound
  simp only [devPut_kept, and_self]

theorem finaliseBlock_kept (s : State) (p) (ci) (b) : (finaliseBlock s p ci b).pending = s.pending ∧ (finaliseBlock s p ci b).comp = s.comp := by
  unfold finaliseBlock
  simp only [devPut_kept, modRctx_kept, and_self]

theorem endRound_kept (s : State) (p) (ci) (rounds) (rstatus) (missing) : (endRound s p ci rounds rstatus missing).pending = s.pending ∧ (endRound s p ci rounds rstatus missing).comp = s.comp := by
  unfold endRound
  simp only [putRound_kept, devPut_kept, modRctx_kept, semAdd_kept, and_self]

theorem addBlock_kept (s : State) (p) (ci) (b) (qs) : (addBlock s p ci b qs).pending = s.pending ∧ (addBlock s p ci b qs).comp = s.comp := by
  unfold addBlock
  dsimp only
  (repeat' split) <;> simp only [devPut_kept, modRctx_kept, finaliseBlock_kept, endRound_kept, foldl_pending, foldl_comp, implies_true, and_self]

theorem malformed_kept (s : State) (p) (port) (g) : ((malformed s p port g).1).pending = s.pending ∧ ((malformed s p port g).1).comp = s.comp := by
  unfold malformed
  simp only [report_kept, and_self]

theorem refuseContribution_kept (s : State) (p) (g) (check) : ((refuseContribution s p g check).1).pending = s.pending ∧ ((refuseContribution s p g check).1).comp = s.comp := by
  unfold refuseContribution
  simp only [report_kept, and_self]

theorem takeContribution_kept (s : State) (p) (port) (g) : ((takeContribution s p port g).1).pending = s.pending ∧ ((takeContribution s p port g).1).comp = s.comp := by
  unfold takeContribution
  dsimp only
  (repeat' split) <;> simp only [malformed_kept, refuseContribution_kept, noteRead_kept, tookRead_kept, addBlock_kept, foldl_pending, foldl_comp, implies_true, and_self]

theorem takeSegment_kept (s : State) (x) (port) (g) : ((takeSegment s x port g).1).pending = s.pending ∧ ((takeSegment s x port g).1).comp = s.comp := by
  unfold takeSegment
  dsimp only
  (repeat' split) <;> simp only [takeContribution_kept, malformed_kept, violation_kept, outsideWrite_kept, and_self]

theorem clearStats_kept (s : State) (p) (port) (stream) : (clearStats s p port stream).pending = s.pending ∧ (clearStats s p port stream).comp = s.comp := by
  unfold clearStats
  split <;> simp only [modRctx_kept, modStream_kept, and_self]

theorem readStats_kept (s : State) (p) (port) (stream) (addr) (clear) : ((readStats s p port stream addr clear).1).pending = s.pending ∧ ((readStats s p port stream addr clear).1).comp = s.comp := by
  unfold readStats
  split <;> simp only [devPut_kept, clearStats_kept, and_self]

theorem setStream_kept (s : State) (p) (port) (stream) (image) : (setStream s p port stream image).pending = s.pending ∧ (setStream s p port stream image).comp = s.comp := ⟨rfl, rfl⟩

theorem setReduce_kept (s : State) (p) (ci) (image) : (setReduce s p ci image).pending = s.pending ∧ (setReduce s p ci image).comp = s.comp := by
  unfold setReduce
  dsimp only
  (repeat' split) <;> simp only [putRound_kept, devPut_kept, modRctx_kept, and_self]

theorem windowTook_kept (s : State) (x) (a) (n) : (windowTook s x a n).pending = s.pending ∧ (windowTook s x a n).comp = s.comp := by
  unfold windowTook
  (repeat' split) <;> simp only [tookRead_kept, foldl_pending, foldl_comp, implies_true, and_self]

theorem execXset_kept (w) (s : State) : (after (execXset w s) s).pending = s.pending ∧ (after (execXset w s) s).comp = s.comp := by
  unfold execXset withInstr
  dsimp only
  (repeat' split) <;> simp only [readFault_kept, finish_kept, failWith_kept, addressFault_kept, after_next, and_self]

theorem execXstat_kept (w) (s : State) : (after (execXstat w s) s).pending = s.pending ∧ (after (execXstat w s) s).comp = s.comp := by
  unfold execXstat withInstr
  (repeat' split) <;> simp only [finish_kept, after_next, and_self]

theorem sendStore_kept (s : State) (w) (tc) (target) (off) (bs) : (sendStore s w tc target off bs).pending = s.pending ∧ (sendStore s w tc target off bs).comp = s.comp := by
  unfold sendStore
  split <;> simp only [sendTxn_kept, and_self]

theorem execExpand_kept (w) (s : State) : (after (execExpand w s) s).pending = s.pending ∧ (after (execExpand w s) s).comp = s.comp := by
  unfold execExpand withInstr
  dsimp only
  (repeat' split) <;> simp only [failWith_kept, readFault_kept, finish_kept, sendStore_kept, closeFabric_kept, modIssued_kept, after_next, foldl_pending, foldl_comp, implies_true, and_self]

theorem segmentError_kept (s : State) (port) : (segmentError s port).pending = s.pending ∧ (segmentError s port).comp = s.comp := by
  unfold segmentError
  split <;> simp only [protocolError_kept, and_self]

theorem arrive_kept (p) (port) (src) (g) (s : State) : (after (arrive p port src g s) s).pending = s.pending ∧ (after (arrive p port src g s) s).comp = s.comp := by
  unfold arrive
  (repeat' split) <;> simp only [segmentError_kept, violation_kept, emitOut_kept, takeSegment_kept, after_next, and_self]

theorem execSegmentArrival_kept (p) (port) (src) (g) (s : State) : (after (execSegmentArrival p port src g s) s).pending = s.pending ∧ (after (execSegmentArrival p port src g s) s).comp = s.comp := by
  unfold execSegmentArrival
  simp only [arrive_kept, and_self]

theorem execContributionSegment_kept (p) (port) (src) (g) (s : State) : (after (execContributionSegment p port src g s) s).pending = s.pending ∧ (after (execContributionSegment p port src g s) s).comp = s.comp := by
  unfold execContributionSegment
  simp only [arrive_kept, and_self]

theorem execRoundLimitExpiry_kept (p) (ci) (s : State) : (after (execRoundLimitExpiry p ci s) s).pending = s.pending ∧ (after (execRoundLimitExpiry p ci s) s).comp = s.comp := by
  unfold execRoundLimitExpiry
  dsimp only
  (repeat' split) <;> simp only [finaliseBlock_kept, endRound_kept, report_kept, modRctx_kept, after_next, foldl_pending, foldl_comp, implies_true, and_self]

/-! ## Fabric -/

theorem allSent_kept (s : State) (w) : (allSent s w).pending = s.pending ∧ (allSent s w).comp = s.comp := by
  unfold allSent
  simp only [closeFabric_kept, modIssued_kept, and_self]

theorem execLoad_kept (w) (s : State) : (after (execLoad w s) s).pending = s.pending ∧ (after (execLoad w s) s).comp = s.comp := by
  unfold execLoad withInstr
  dsimp only
  (repeat' split) <;> simp only [sendTxn_kept, allSent_kept, after_next, foldl_pending, foldl_comp, implies_true, and_self]

theorem storePage_kept (s : State) (w) (ws) (range) (off) (bs) : (storePage s w ws range off bs).pending = s.pending ∧ (storePage s w ws range off bs).comp = s.comp := by
  unfold storePage
  simp only [sendCargo_kept, and_self]

theorem execStore_kept (w) (s : State) : (after (execStore w s) s).pending = s.pending ∧ (after (execStore w s) s).comp = s.comp := by
  unfold execStore withInstr
  dsimp only
  (repeat' split) <;> simp only [readFault_kept, allSent_kept, storePage_kept, after_next, foldl_pending, foldl_comp, implies_true, and_self]

theorem execAtomic_kept (w) (s : State) : (after (execAtomic w s) s).pending = s.pending ∧ (after (execAtomic w s) s).comp = s.comp := by
  unfold execAtomic withInstr
  dsimp only
  (repeat' split) <;> simp only [allSent_kept, sendTxn_kept, after_next, and_self]

theorem execMsg_kept (w) (s : State) : (after (execMsg w s) s).pending = s.pending ∧ (after (execMsg w s) s).comp = s.comp := by
  unfold execMsg withInstr
  dsimp only
  (repeat' split) <;> simp only [readFault_kept, allSent_kept, sendCargo_kept, after_next, and_self]

/-! ## Poltex -/

theorem freeBuffer_kept (s : State) (k) : (freeBuffer s k).pending = s.pending ∧ (freeBuffer s k).comp = s.comp := ⟨rfl, rfl⟩

theorem letGo_kept (s : State) (held) : (letGo s held).pending = s.pending ∧ (letGo s held).comp = s.comp := by
  unfold letGo
  split <;> simp only [freeBuffer_kept, and_self]

theorem respond_kept (s : State) (k) (part) (op) (status) (payload) : (respond s k part op status payload).pending = s.pending ∧ (respond s k part op status payload).comp = s.comp := by
  unfold respond
  simp only [enqueue_kept, and_self]

theorem denyPacket_kept (s : State) (k) (st) : (denyPacket s k st).pending = s.pending ∧ (denyPacket s k st).comp = s.comp := by
  unfold denyPacket
  simp only [respond_kept, violation_kept, and_self]

theorem onPacket_kept (k : Packet) (s : State) (f : State → State)
    (h : ∀ t, t.pending = s.pending ∧ t.comp = s.comp → (f t).pending = s.pending ∧ (f t).comp = s.comp) :
    (after (onPacket k s f) s).pending = s.pending ∧ (after (onPacket k s f) s).comp = s.comp := by
  unfold onPacket
  split
  · exact ⟨rfl, rfl⟩
  · split
    · exact takeNoc_kept _ _
    · split
      · split
        · exact ⟨rfl, rfl⟩
        · have e (a : State) (ha : a.pending = s.pending ∧ a.comp = s.comp) (b : Bool) :
              (if b then protocolError a k.port else f a).pending = s.pending ∧
                (if b then protocolError a k.port else f a).comp = s.comp := by
            split
            · simpa only [protocolError_kept] using ha
            · exact h _ ha
          exact e _ (by split <;> simp only [takeNoc_kept, freeBuffer_kept, and_self]) _
      · split
        · exact ⟨rfl, rfl⟩
        · split
          · simp only [after_next, protocolError_kept, and_self]
          · exact h s ⟨rfl, rfl⟩

theorem execPoltexLoad_kept (k) (s : State) : (after (execPoltexLoad k s) s).pending = s.pending ∧ (after (execPoltexLoad k s) s).comp = s.comp := by
  unfold execPoltexLoad
  refine onPacket_kept _ _ _ fun t ht => ?_
  dsimp only
  (repeat' split) <;> simp only [denyPacket_kept, respond_kept, noteRead_kept, outsideRead_kept, windowTook_kept, ht, and_self]

theorem setTrain_kept (s : State) (src) (tc) (bs) : (setTrain s src tc bs).pending = s.pending ∧ (setTrain s src tc bs).comp = s.comp := ⟨rfl, rfl⟩

theorem joinLine_kept (s : State) (k) (held) : (joinLine s k held).pending = s.pending ∧ (joinLine s k held).comp = s.comp := by
  unfold joinLine
  dsimp only
  (repeat' split) <;> simp only [countEv_kept, letGo_kept, and_self]

theorem admitOp_kept (s : State) (i) : (admitOp s i).pending = s.pending ∧ (admitOp s i).comp = s.comp := by
  unfold admitOp
  (repeat' split) <;> simp only [letGo_kept, and_self]

theorem admitOps_kept (s : State) : (admitOps s).pending = s.pending ∧ (admitOps s).comp = s.comp := by
  unfold admitOps
  simp only [admitOp_kept, foldl_pending, foldl_comp, implies_true, and_self]

theorem segmentTrain_kept (s : State) (k) (bs) (held) : (segmentTrain s k bs held).pending = s.pending ∧ (segmentTrain s k bs held).comp = s.comp := by
  unfold segmentTrain
  dsimp only
  (repeat' split) <;> simp only [protocolError_kept, letGo_kept, denyPacket_kept, malformed_kept, respond_kept, takeSegment_kept, joinLine_kept, and_self]

theorem execPoltexStore_kept (k) (s : State) : (after (execPoltexStore k s) s).pending = s.pending ∧ (after (execPoltexStore k s) s).comp = s.comp := by
  unfold execPoltexStore
  refine onPacket_kept _ _ _ fun t ht => ?_
  dsimp only
  (repeat' split) <;> simp only [denyPacket_kept, segmentTrain_kept, setTrain_kept, joinLine_kept, letGo_kept, ht, and_self]

theorem execPoltexAtomic_kept (k) (s : State) : (after (execPoltexAtomic k s) s).pending = s.pending ∧ (after (execPoltexAtomic k s) s).comp = s.comp := by
  unfold execPoltexAtomic onPacket
  dsimp only
  (repeat' split) <;> simp only [takeNoc_kept, freeBuffer_kept, protocolError_kept, denyPacket_kept, letGo_kept, joinLine_kept, after_next, and_self]

theorem applySegmentOp_kept (s : State) (k) : (applySegmentOp s k).pending = s.pending ∧ (applySegmentOp s k).comp = s.comp := by
  unfold applySegmentOp
  dsimp only
  (repeat' split) <;> simp only [denyPacket_kept, takeSegment_kept, respond_kept, and_self]

theorem applyPlainOp_kept (s : State) (k) : (applyPlainOp s k).pending = s.pending ∧ (applyPlainOp s k).comp = s.comp := by
  unfold applyPlainOp
  dsimp only
  (repeat' split) <;> simp only [denyPacket_kept, outsideWrite_kept, respond_kept, noteRead_kept, tookRead_kept, and_self]

theorem applyLineOp_kept (s : State) (k) : (applyLineOp s k).pending = s.pending ∧ (applyLineOp s k).comp = s.comp := by
  unfold applyLineOp
  split <;> simp only [applySegmentOp_kept, applyPlainOp_kept, and_self]

theorem execAtomicUnitApply_kept (line) (s : State) : (after (execAtomicUnitApply line s) s).pending = s.pending ∧ (after (execAtomicUnitApply line s) s).comp = s.comp := by
  unfold execAtomicUnitApply
  dsimp only
  (repeat' split) <;> simp only [admitOps_kept, applyLineOp_kept, after_next, and_self]

theorem deliverInbox_kept (s : State) (p) (bs) : (deliverInbox s p bs).pending = s.pending ∧ (deliverInbox s p bs).comp = s.comp := by
  unfold deliverInbox
  simp only [raiseVf_kept, modPart_kept, and_self]

theorem deliverMsg_kept (s : State) (k) (bs) (t : State) (h : deliverMsg s k bs = some t) : (t).pending = s.pending ∧ (t).comp = s.comp := by
  unfold deliverMsg at h
  dsimp only at h
  (repeat' split at h) <;> first | (cases h; done) | (cases h; simp only [respond_kept, denyPacket_kept, handDevice_kept, protocolError_kept, malformed_kept, deliverInbox_kept, and_self])

theorem execPoltexMsg_kept (k) (s : State) : (after (execPoltexMsg k s) s).pending = s.pending ∧ (after (execPoltexMsg k s) s).comp = s.comp := by
  unfold execPoltexMsg
  refine onPacket_kept _ _ _ fun t ht => ?_
  extract_lets bs
  clear_value bs
  split
  · simp only [protocolError_kept, setTrain_kept, ht, and_self]
  · split
    · split
      · next e => simpa only [setTrain_kept, ht] using deliverMsg_kept _ _ _ _ e
      · exact ⟨rfl, rfl⟩
    · simp only [setTrain_kept, ht, and_self]

theorem takeAnswer_kept (s : State) (k) : (takeAnswer s k).pending = s.pending ∧ (takeAnswer s k).comp = s.comp := by
  unfold takeAnswer
  split <;> simp only [countEv_kept, releaseHeld_kept, answerTxn_kept, and_self]

theorem execData_kept (k) (s : State) : (after (execData k s) s).pending = s.pending ∧ (after (execData k s) s).comp = s.comp := by
  unfold execData onPacket
  dsimp only
  (repeat' split) <;> simp only [takeNoc_kept, freeBuffer_kept, protocolError_kept, takeAnswer_kept, after_next, and_self]

theorem execCpl_kept (k) (s : State) : (after (execCpl k s) s).pending = s.pending ∧ (after (execCpl k s) s).comp = s.comp := by
  unfold execCpl onPacket
  dsimp only
  (repeat' split) <;> simp only [takeNoc_kept, freeBuffer_kept, protocolError_kept, takeAnswer_kept, after_next, and_self]

theorem execDeadBoundExpiry_kept (tag) (s : State) : (after (execDeadBoundExpiry tag s) s).pending = s.pending ∧ (after (execDeadBoundExpiry tag s) s).comp = s.comp := by
  unfold execDeadBoundExpiry
  (repeat' split) <;> simp only [releaseHeld_kept, deadTxn_kept, after_next, and_self]

theorem sendLstateTo_kept (s : State) (e) : (sendLstateTo s e).pending = s.pending ∧ (sendLstateTo s e).comp = s.comp := by
  unfold sendLstateTo
  simp only [enqueue_kept, foldl_pending, foldl_comp, implies_true, and_self]

theorem sendLstate_kept (s : State) : (sendLstate s).pending = s.pending ∧ (sendLstate s).comp = s.comp := by
  unfold sendLstate
  simp only [sendLstateTo_kept, foldl_pending, foldl_comp, implies_true, and_self]

theorem execLstate_kept (k) (s : State) : (after (execLstate k s) s).pending = s.pending ∧ (after (execLstate k s) s).comp = s.comp := by
  unfold execLstate
  refine onPacket_kept _ _ _ fun t ht => ?_
  split
  · exact ht
  · simp only [releaseHeld_kept, notePaths_kept, ht, and_self]

theorem execLstateTimer_kept (s : State) : (after (execLstateTimer s) s).pending = s.pending ∧ (after (execLstateTimer s) s).comp = s.comp := by
  unfold execLstateTimer
  split <;> simp only [sendLstate_kept, after_next, and_self]

theorem handPacket_kept (s : State) (k) : (handPacket s k).pending = s.pending ∧ (handPacket s k).comp = s.comp := by
  unfold handPacket
  dsimp only
  (repeat' split) <;> simp only [protocolError_kept, modNear_kept, and_self]

theorem takeLinkWord_kept (s : State) (port) (lw) : (takeLinkWord s port lw).pending = s.pending ∧ (takeLinkWord s port lw).comp = s.comp := by
  unfold takeLinkWord
  split <;> simp only [modNear_kept, replayFlits_kept, and_self]

theorem noteCorrected_kept (s : State) (port) (at_) : (noteCorrected s port at_).pending = s.pending ∧ (noteCorrected s port at_).comp = s.comp := ⟨rfl, rfl⟩

theorem resendFrame_kept (s : State) (f) : (resendFrame s f).pending = s.pending ∧ (resendFrame s f).comp = s.comp := by
  unfold resendFrame
  (repeat' split) <;> simp only [deadTxn_kept, enqueueFrame_kept, and_self]

theorem nearDown_kept (s : State) (port) : (nearDown s port).pending = s.pending ∧ (nearDown s port).comp = s.comp := by
  unfold nearDown
  simp only [modNear_kept, notePaths_kept, modTs_kept, report_kept, sendLstate_kept, releaseHeld_kept, resendFrame_kept, foldl_pending, foldl_comp, implies_true, and_self]

theorem laneFails_kept (s : State) (port) (lane) : (laneFails s port lane).pending = s.pending ∧ (laneFails s port lane).comp = s.comp := by
  unfold laneFails
  dsimp only
  (repeat' split) <;> simp only [logSpare_kept, modNear_kept, nearDown_kept, widthChange_kept, and_self]

theorem execLaneFailure_kept (port) (lane) (s : State) : (after (execLaneFailure port lane s) s).pending = s.pending ∧ (after (execLaneFailure port lane s) s).comp = s.comp := by
  unfold execLaneFailure
  dsimp only
  (repeat' split) <;> simp only [laneFails_kept, after_next, and_self]

theorem execSpareLaneTrained_kept (port) (s : State) : (after (execSpareLaneTrained port s) s).pending = s.pending ∧ (after (execSpareLaneTrained port s) s).comp = s.comp := by
  unfold execSpareLaneTrained
  dsimp only
  (repeat' split) <;> simp only [logSpare_kept, modNear_kept, widthChange_kept, after_next, and_self]

theorem answerFlit_kept (s : State) (port) : (answerFlit s port).pending = s.pending ∧ (answerFlit s port).comp = s.comp := by
  unfold answerFlit
  split <;> simp only [idleFlit_kept, and_self]

theorem badFlit_kept (s : State) (port) : (badFlit s port).pending = s.pending ∧ (badFlit s port).comp = s.comp := by
  unfold badFlit
  simp only [modNear_kept, answerFlit_kept, countEv_kept, and_self]

theorem goodFlit_kept (s : State) (port) (lw) (body) (fixed) : (goodFlit s port lw body fixed).pending = s.pending ∧ (goodFlit s port lw body fixed).comp = s.comp := by
  unfold goodFlit
  simp only [takeLinkWord_kept, noteCorrected_kept, modNear_kept, answerFlit_kept, handPacket_kept, foldl_pending, foldl_comp, implies_true, and_self]

theorem execFlitReceive_kept (port) (flit) (s : State) : (after (execFlitReceive port flit s) s).pending = s.pending ∧ (after (execFlitReceive port flit s) s).comp = s.comp := by
  unfold execFlitReceive
  try simp only []
  all_goals (repeat' (split <;> ((try simp only [after_next, and_self]))))
  all_goals (first | done | (refine foldl_kept (fun s a => ?_) _ _ _ ?_ <;> (try dsimp only) <;> (try simp only [countEv_kept, badFlit_kept, noteCorrected_kept, goodFlit_kept, modNear_kept, and_self]) <;> (repeat' (split <;> (try simp only [laneFails_kept, and_self])))))

theorem execLinkTraining_kept (port) (lanes) (partner) (level) (s : State) : (after (execLinkTraining port lanes partner level s) s).pending = s.pending ∧ (after (execLinkTraining port lanes partner level s) s).comp = s.comp := by
  unfold execLinkTraining
  dsimp only
  (repeat' split) <;> simp only [logSpare_kept, modNear_kept, sendLstate_kept, releaseHeld_kept, notePaths_kept, after_next, foldl_pending, foldl_comp, implies_true, and_self]

theorem execPartnerTimeout_kept (port) (s : State) : (after (execPartnerTimeout port s) s).pending = s.pending ∧ (after (execPartnerTimeout port s) s).comp = s.comp := by
  unfold execPartnerTimeout
  split <;> simp only [modNear_kept, after_next, and_self]

/-! ## Remote -/

theorem beginXfer_kept (s : State) (port) (n) (x) : (beginXfer s port n x).pending = s.pending ∧ (beginXfer s port n x).comp = s.comp := by
  unfold beginXfer
  split <;> simp only [modConn_kept, and_self]

theorem closeRemote_kept (s : State) (w) : (closeRemote s w).pending = s.pending ∧ (closeRemote s w).comp = s.comp := by
  unfold closeRemote
  split <;> simp only [modIssued_kept, and_self]

theorem endXfer_kept (s : State) (x) (status) : (endXfer s x status).pending = s.pending ∧ (endXfer s x status).comp = s.comp := by
  unfold endXfer
  (repeat' split) <;> simp only [closeRemote_kept, modIssued_kept, noteFenced_kept, reportDead_kept, noteCopy_kept, and_self]

theorem startXfers_kept (s : State) (w) (n) (xs) : (startXfers s w n xs).pending = s.pending ∧ (startXfers s w n xs).comp = s.comp := by
  unfold startXfers
  simp only [addXfer_kept, modIssued_kept, foldl_pending, foldl_comp, implies_true, and_self]

theorem execPut_kept (w) (s : State) : (after (execPut w s) s).pending = s.pending ∧ (after (execPut w s) s).comp = s.comp := by
  unfold execPut withConn withInstr
  dsimp only
  (repeat' split) <;> simp only [failWith_kept, readFault_kept, startXfers_kept, after_next, and_self]

theorem execGet_kept (w) (s : State) : (after (execGet w s) s).pending = s.pending ∧ (after (execGet w s) s).comp = s.comp := by
  unfold execGet withConn withInstr
  dsimp only
  (repeat' split) <;> simp only [failWith_kept, startXfers_kept, after_next, and_self]

theorem execSend_kept (w) (s : State) : (after (execSend w s) s).pending = s.pending ∧ (after (execSend w s) s).comp = s.comp := by
  unfold execSend withConn withInstr
  dsimp only
  (repeat' split) <;> simp only [failWith_kept, readFault_kept, startXfers_kept, after_next, and_self]

theorem execConnect_kept (w) (s : State) : (after (execConnect w s) s).pending = s.pending ∧ (after (execConnect w s) s).comp = s.comp := by
  unfold execConnect withInstr
  dsimp only
  (repeat' split) <;> simp only [readFault_kept, failWith_kept, sendOpen_kept, takeConn_kept, makeRoom_kept, modIssued_kept, after_next, and_self]

theorem sendClose_kept (s : State) (n) : (sendClose s n).pending = s.pending ∧ (sendClose s n).comp = s.comp := by
  unfold sendClose
  simp only [modConn_kept, sendConnMsg_kept, and_self]

theorem execDisconnect_kept (w) (s : State) : (after (execDisconnect w s) s).pending = s.pending ∧ (after (execDisconnect w s) s).comp = s.comp := by
  unfold execDisconnect withInstr
  dsimp only
  (repeat' split) <;> simp only [failWith_kept, sendClose_kept, modConn_kept, modIssued_kept, finish_kept, freeConn_kept, after_next, and_self]

/-! ## Turnstile -/

theorem setBucket_kept (s : State) (p) (c) (b) : (setBucket s p c b).pending = s.pending ∧ (setBucket s p c b).comp = s.comp := ⟨rfl, rfl⟩

theorem charge_kept (s : State) (p) (c) (amt) : (charge s p c amt).pending = s.pending ∧ (charge s p c amt).comp = s.comp := ⟨rfl, rfl⟩

theorem refund_kept (s : State) (p) (c) (amt) : (refund s p c amt).pending = s.pending ∧ (refund s p c amt).comp = s.comp := ⟨rfl, rfl⟩

theorem holdRefused_kept (s : State) (p) (i) (b) (need) : (holdRefused s p i b need).pending = s.pending ∧ (holdRefused s p i b need).comp = s.comp := ⟨rfl, rfl⟩

theorem admitCommit_kept (s : State) (p) (i) (amt) : (admitCommit s p i amt).pending = s.pending ∧ (admitCommit s p i amt).comp = s.comp := ⟨rfl, rfl⟩

theorem refusedAfterWrite_kept (s : State) (p) (c) : (refusedAfterWrite s p c).pending = s.pending ∧ (refusedAfterWrite s p c).comp = s.comp := ⟨rfl, rfl⟩

theorem execAdmission_kept (w) (s : State) : (after (execAdmission w s) s).pending = s.pending ∧ (after (execAdmission w s) s).comp = s.comp := by
  unfold execAdmission withInstr
  dsimp only
  (repeat' split) <;> simp only [placeBoundary_kept, failWith_kept, finish_kept, holdRefused_kept, countEv_kept, after_next, and_self]

theorem execCharge_kept (w) (s : State) : (after (execCharge w s) s).pending = s.pending ∧ (after (execCharge w s) s).comp = s.comp := by
  unfold execCharge withInstr
  (repeat' split) <;> simp only [finish_kept, after_next, and_self]

theorem execRefund_kept (w) (s : State) : (after (execRefund w s) s).pending = s.pending ∧ (after (execRefund w s) s).comp = s.comp := by
  unfold execRefund withInstr
  (repeat' split) <;> simp only [finish_kept, after_next, and_self]

theorem execAdmitRetry_kept (p) (s : State) : (after (execAdmitRetry p s) s).pending = s.pending ∧ (after (execAdmitRetry p s) s).comp = s.comp := by
  unfold execAdmitRetry
  try simp only []
  all_goals (repeat' (split <;> ((try simp only [after_next, and_self]))))
  all_goals (first | done | (refine foldl_kept (fun s a => ?_) _ _ _ ?_ <;> (try dsimp only) <;> (try simp only [placeBoundary_kept, and_self]) <;> (repeat' (split <;> (try simp only [modPart_kept, admitCommit_kept, holdRefused_kept, countEv_kept, and_self])))))

/-! ## Requests -/

theorem putEntry_kept (s : State) (p) (r) (l) (j) (h) : (putEntry s p r l j h).pending = s.pending ∧ (putEntry s p r l j h).comp = s.comp := by
  unfold putEntry
  split <;> simp only [devPut_kept, and_self]

theorem sendMigrate_kept (s : State) (p) (handle) (dest) (flags) (rows) : ((sendMigrate s p handle dest flags rows).1).pending = s.pending ∧ ((sendMigrate s p handle dest flags rows).1).comp = s.comp := by
  unfold sendMigrate
  simp only [takeTag_kept, sendMsg_kept, and_self]

theorem startMove_kept (s : State) (p) (idx) (l) (j) (handle) (dest) (flags) (back) (hold) (pool) (rehome) : (startMove s p idx l j handle dest flags back hold pool rehome).pending = s.pending ∧ (startMove s p idx l j handle dest flags back hold pool rehome).comp = s.comp := by
  unfold startMove
  simp only [sendMigrate_kept, modPart_kept, and_self]

theorem moveToPool_kept (s : State) (p) (idx) (l) (j) (handle) (flags) (list) : (moveToPool s p idx l j handle flags list).pending = s.pending ∧ (moveToPool s p idx l j handle flags list).comp = s.comp := by
  unfold moveToPool
  split <;> simp only [startMove_kept, useHome_kept, and_self]

theorem sizeHandles_kept (s : State) (p) (hs) (n) : (sizeHandles s p hs n).pending = s.pending ∧ (sizeHandles s p hs n).comp = s.comp := ⟨rfl, rfl⟩

theorem moveIfShared_kept (s : State) (p) (idx) (l) (j) (handle) (flags) : (moveIfShared s p idx l j handle flags).pending = s.pending ∧ (moveIfShared s p idx l j handle flags).comp = s.comp := by
  unfold moveIfShared
  dsimp only
  (repeat' split) <;> simp only [moveToPool_kept, and_self]

theorem creditHere_kept (s : State) (p) (g) (n) : (creditHere s p g n).pending = s.pending ∧ (creditHere s p g n).comp = s.comp := by
  unfold creditHere
  dsimp only
  (repeat' split) <;> simp only [useHome_kept, and_self]

theorem freeHandle_kept (s : State) (p) (h) : (freeHandle s p h).pending = s.pending ∧ (freeHandle s p h).comp = s.comp := by
  unfold freeHandle
  dsimp only
  (repeat' split) <;> simp only [lapse_kept, noteFenced_kept, freeAt_kept, creditHere_kept, takeTag_kept, sendMsg_kept, and_self]

theorem freeFrom_kept (s : State) (p) (idx) (bound) : (freeFrom s p idx bound).pending = s.pending ∧ (freeFrom s p idx bound).comp = s.comp := by
  unfold freeFrom
  try simp only []
  all_goals (repeat' (split <;> ((try simp only [putEntry_kept, freeHandle_kept, foldl_pending, foldl_comp, foldl1_pending, foldl1_comp, after_next, and_self, implies_true]))))
  all_goals (first | done | (refine foldl_kept (fun s a => ?_) _ _ _ ?_ <;> (try dsimp only) <;> (try simp only [and_self]) <;> (repeat' (split <;> (try simp only [putEntry_kept, freeHandle_kept, and_self])))))

theorem expectOutcome_kept (s : State) (p) (tag) (handle) (deadline) (move) : (expectOutcome s p tag handle deadline move).pending = s.pending ∧ (expectOutcome s p tag handle deadline move).comp = s.comp := ⟨rfl, rfl⟩

theorem outcomeCame_kept (s : State) (p) (handle) : (outcomeCame s p handle).pending = s.pending ∧ (outcomeCame s p handle).comp = s.comp := ⟨rfl, rfl⟩

theorem sealLocal_kept (s : State) (p) (h) (hash) : ((sealLocal s p h hash).1).pending = s.pending ∧ ((sealLocal s p h hash).1).comp = s.comp := by
  unfold sealLocal
  dsimp only
  (repeat' split) <;> simp only [lapse_kept, noteFenced_kept, transition_kept, and_self]

theorem sealDone_kept (s : State) (p) (idx) (l) (j) (h) (hash) (flags) : (sealDone s p idx l j h hash flags).pending = s.pending ∧ (sealDone s p idx l j h hash flags).comp = s.comp := by
  unfold sealDone
  simp only [moveIfShared_kept, setRec_kept, and_self]

theorem askSeal_kept (s : State) (p) (idx) (l) (j) (h) (hash) : (askSeal s p idx l j h hash).pending = s.pending ∧ (askSeal s p idx l j h hash).comp = s.comp := by
  unfold askSeal
  simp only [takeTag_kept, sendMsg_kept, expectOutcome_kept, modPart_kept, and_self]

theorem sealLayer_kept (s : State) (p) (idx) (l) (j) (hash) : ((sealLayer s p idx l j hash).1).pending = s.pending ∧ ((sealLayer s p idx l j hash).1).comp = s.comp := by
  unfold sealLayer
  dsimp only
  (repeat' split) <;> simp only [askSeal_kept, sealLocal_kept, sealDone_kept, and_self]

theorem sealLayers_kept (p idx j hash : Nat) (ls : List Nat) (s : State) :
    ((sealLayers p idx j hash ls s).1).pending = s.pending ∧ ((sealLayers p idx j hash ls s).1).comp = s.comp := by
  induction ls generalizing s with
  | nil => exact ⟨rfl, rfl⟩
  | cons l ls ih => simp only [sealLayers, ih, sealLayer_kept, and_self]

theorem sealFull_kept (p idx n : Nat) (s : State) :
    ((sealFull p idx n s).1).pending = s.pending ∧ ((sealFull p idx n s).1).comp = s.comp := by
  induction n generalizing s with
  | zero => exact ⟨rfl, rfl⟩
  | succ n ih =>
    unfold sealFull
    dsimp only
    (repeat' split) <;> simp only [ih, sealLayers_kept, and_self]

theorem sealRequest_kept (s : State) (p) (idx) : ((sealRequest s p idx).1).pending = s.pending ∧ ((sealRequest s p idx).1).comp = s.comp := by
  unfold sealRequest
  simp only [sealFull_kept, and_self]

theorem ringPut_kept (s : State) (p) (leaf) (r) (off) (bs) : (ringPut s p leaf r off bs).pending = s.pending ∧ (ringPut s p leaf r off bs).comp = s.comp := by
  unfold ringPut
  split <;> simp only [enqueue_kept, and_self]

theorem putCarousel_kept (s : State) (p) (leaf) (r) (i) (word) (last) : (putCarousel s p leaf r i word last).pending = s.pending ∧ (putCarousel s p leaf r i word last).comp = s.comp := by
  unfold putCarousel
  simp only [ringPut_kept, and_self]

theorem putRingState_kept (s : State) (p) (leaf) (r) (st) (final) : (putRingState s p leaf r st final).pending = s.pending ∧ (putRingState s p leaf r st final).comp = s.comp := by
  unfold putRingState
  simp only [ringPut_kept, and_self]

theorem putProd_kept (s : State) (p) (leaf) (r) : (putProd s p leaf r).pending = s.pending ∧ (putProd s p leaf r).comp = s.comp := by
  unfold putProd
  simp only [ringPut_kept, and_self]

theorem refreshCons_kept (s : State) (p) (idx) (n) : (refreshCons s p idx n).pending = s.pending ∧ (refreshCons s p idx n).comp = s.comp := by
  unfold refreshCons
  dsimp only
  (repeat' split) <;> simp only [setRec_kept, and_self]

theorem endRequest_kept (s : State) (p) (idx) (leaf) (final) (entry) : (endRequest s p idx leaf final entry).pending = s.pending ∧ (endRequest s p idx leaf final entry).comp = s.comp := by
  unfold endRequest
  dsimp only
  (repeat' split) <;> simp only [refreshCons_kept, setRec_kept, putCarousel_kept, ringPut_kept, putProd_kept, putRingState_kept, and_self]

theorem retire_kept (s : State) (p) (idx) (leaf) (final) : (retire s p idx leaf final).pending = s.pending ∧ (retire s p idx leaf final).comp = s.comp := by
  unfold retire
  try simp only [endRequest_kept]
  all_goals (repeat' (split <;> ((try simp only [refund_kept, and_self]))))
  all_goals (first | done | (refine foldl_kept (fun s a => ?_) _ _ _ ?_ <;> (try dsimp only) <;> (try simp only [refund_kept, endRequest_kept, foldl_pending, foldl_comp, foldl1_pending, foldl1_comp, after_next, and_self, implies_true]) <;> (repeat' (split <;> (try simp only [refund_kept, endRequest_kept, foldl_pending, foldl_comp, foldl1_pending, foldl1_comp, after_next, and_self, implies_true])))))

theorem freeRecord_kept (s : State) (p) (idx) : (freeRecord s p idx).pending = s.pending ∧ (freeRecord s p idx).comp = s.comp := ⟨rfl, rfl⟩

theorem freeHold_kept (s : State) (x) : (freeHold s x).pending = s.pending ∧ (freeHold s x).comp = s.comp := by
  unfold freeHold
  split <;> simp only [freeFrame_kept, and_self]

theorem dropRequest_kept (s : State) (p) (idx) : (dropRequest s p idx).pending = s.pending ∧ (dropRequest s p idx).comp = s.comp := by
  unfold dropRequest
  try simp only [modPart_kept, freeHold_kept, freeRecord_kept, foldl_pending, foldl_comp, implies_true]
  all_goals (repeat' (split <;> ((try simp only [putEntry_kept, freeHandle_kept, modPart_kept, freeHold_kept, freeRecord_kept, foldl_pending, foldl_comp, foldl1_pending, foldl1_comp, after_next, and_self, implies_true]))))
  all_goals (first | done | (refine foldl_kept (fun s a => ?_) _ _ _ ?_ <;> (try dsimp only) <;> (try simp only [and_self]) <;> (repeat' (split <;> (try simp only [putEntry_kept, freeHandle_kept, and_self])))))

theorem failRequest_kept (s : State) (p) (idx) (status) : (failRequest s p idx status).pending = s.pending ∧ (failRequest s p idx status).comp = s.comp := by
  unfold failRequest
  try simp only [report_kept, retire_kept]
  all_goals (repeat' (split <;> ((try simp only [report_kept, retire_kept, handled_kept, and_self]))))
  all_goals (first | done | (refine foldl_kept (fun s a => ?_) _ _ _ ?_ <;> (try dsimp only) <;> (try simp only [report_kept, retire_kept, handled_kept, foldl_pending, foldl_comp, foldl1_pending, foldl1_comp, after_next, and_self, implies_true]) <;> (repeat' (split <;> (try simp only [report_kept, retire_kept, handled_kept, foldl_pending, foldl_comp, foldl1_pending, foldl1_comp, after_next, and_self, implies_true])))))

theorem sealOn_kept (s : State) (p) (idx) : (sealOn s p idx).pending = s.pending ∧ (sealOn s p idx).comp = s.comp := by
  unfold sealOn
  dsimp only
  (repeat' split) <;> simp only [sealRequest_kept, failRequest_kept, and_self]

end Sys2Proof.Machine
end

