-- ==== Sys2Proof/Laws/KeptServing.lean ====
section
/-! SUPPORT. What the parties, the serving loop, the index, the stripes and attention leave unchanged: the queue of waiting commands and the composition record in force. -/

set_option Elab.async false
set_option linter.unusedTactic false
set_option linter.unreachableTactic false
set_option linter.unnecessarySeqFocus false

namespace Sys2Proof.Machine

open Sys2Proof.Safety (after)

/-! ## Party -/

theorem awaitAll_kept (s : State) (w) (as) (aux) : (awaitAll s w as aux).pending = s.pending ∧ (awaitAll s w as aux).comp = s.comp := ⟨rfl, rfl⟩

theorem sendFor_kept (s : State) (w) (pos) (h) (tc) (len) (mk) : ((sendFor s w pos h tc len mk).1).pending = s.pending ∧ ((sendFor s w pos h tc len mk).1).comp = s.comp := by
  unfold sendFor
  simp only [takeTag_kept, sendMsg_kept, and_self]

theorem sendEach_kept (w : IRef) (tc len : Nat) (mk : Nat → Party → Nat → Out) (hs : List (Nat × Nat)) (s : State) (as : List Await) :
    ((sendEach w tc len mk hs s as).1).pending = s.pending ∧ ((sendEach w tc len mk hs s as).1).comp = s.comp := by
  induction hs generalizing s as with
  | nil => exact ⟨rfl, rfl⟩
  | cons x xs ih => simp only [sendEach, ih, sendFor_kept, and_self]

theorem settle_kept (s : State) (w) (force) : (settle s w force).pending = s.pending ∧ (settle s w force).comp = s.comp := by
  unfold settle
  (repeat' split) <;> simp only [finish_kept, and_self]

theorem execAlloc_kept (w) (s : State) : (after (execAlloc w s) s).pending = s.pending ∧ (after (execAlloc w s) s).comp = s.comp := by
  unfold execAlloc withInstr
  dsimp only
  (repeat' split) <;> simp only [failWith_kept, takeTag_kept, awaitAll_kept, sendMsg_kept, after_next, and_self]

theorem sealQueries_kept (s : State) (w) (r) (j) (ls) : (sealQueries s w r j ls).pending = s.pending ∧ (sealQueries s w r j ls).comp = s.comp := by
  unfold sealQueries
  simp only [sendEach_kept, modIssued_kept, awaitAll_kept, and_self]

theorem sealSend_kept (s : State) (w) (r) (j) (ls) : (sealSend s w r j ls).pending = s.pending ∧ (sealSend s w r j ls).comp = s.comp := by
  unfold sealSend
  split <;> simp only [readFault_kept, sendEach_kept, modIssued_kept, awaitAll_kept, and_self]

theorem execSeal_kept (w) (s : State) : (after (execSeal w s) s).pending = s.pending ∧ (after (execSeal w s) s).comp = s.comp := by
  unfold execSeal withInstr
  dsimp only
  (repeat' split) <;> simp only [failWith_kept, sealSend_kept, sealQueries_kept, after_next, and_self]

theorem execFree_kept (w) (s : State) : (after (execFree w s) s).pending = s.pending ∧ (after (execFree w s) s).comp = s.comp := by
  unfold execFree withInstr
  dsimp only
  (repeat' split) <;> simp only [readFault_kept, sendEach_kept, awaitAll_kept, after_next, and_self]

theorem sealBefore_kept (p : Nat) (xs : List Nat) (s : State) : ((sealBefore p xs s).1).pending = s.pending ∧ ((sealBefore p xs s).1).comp = s.comp := by
  induction xs generalizing s with
  | nil => exact ⟨rfl, rfl⟩
  | cons x xs ih =>
    unfold sealBefore
    dsimp only
    split <;> simp only [ih, sealRequest_kept, failRequest_kept, and_self]

theorem execRelease_kept (w) (s : State) : (after (execRelease w s) s).pending = s.pending ∧ (after (execRelease w s) s).comp = s.comp := by
  unfold execRelease withInstr
  dsimp only
  (repeat' split) <;> simp only [readFault_kept, sealBefore_kept, failWith_kept, sendEach_kept, awaitAll_kept, after_next, and_self]

theorem execCatch_kept (w) (s : State) : (after (execCatch w s) s).pending = s.pending ∧ (after (execCatch w s) s).comp = s.comp := by
  unfold execCatch withInstr
  dsimp only
  (repeat' split) <;> simp only [readFault_kept, sendEach_kept, awaitAll_kept, after_next, and_self]

theorem execMigrate_kept (w) (s : State) : (after (execMigrate w s) s).pending = s.pending ∧ (after (execMigrate w s) s).comp = s.comp := by
  unfold execMigrate withInstr
  dsimp only
  (repeat' split) <;> simp only [failWith_kept, sendMigrate_kept, useHome_kept, awaitAll_kept, after_next, and_self]

theorem execQuery_kept (w) (s : State) : (after (execQuery w s) s).pending = s.pending ∧ (after (execQuery w s) s).comp = s.comp := by
  unfold execQuery withInstr
  dsimp only
  (repeat' split) <;> simp only [sendFor_kept, awaitAll_kept, after_next, and_self]

theorem reclaimReq_kept (s : State) (p) (h) : (reclaimReq s p h).pending = s.pending ∧ (reclaimReq s p h).comp = s.comp := by
  unfold reclaimReq
  split <;> simp only [freeFrame_kept, endCopy_kept, and_self]

theorem execReclaim_kept (w) (s : State) : (after (execReclaim w s) s).pending = s.pending ∧ (after (execReclaim w s) s).comp = s.comp := by
  unfold execReclaim withInstr
  dsimp only
  (repeat' split) <;> simp only [lapse_kept, finish_kept, failWith_kept, noteFenced_kept, after_next, and_self]

theorem sendFences_kept (p : Nat) (f : FenceMsg) (xs : List (Nat × Nat)) (s : State) (as : List Await) :
    ((sendFences p f xs s as).1).pending = s.pending ∧ ((sendFences p f xs s as).1).comp = s.comp := by
  induction xs generalizing s as with
  | nil => exact ⟨rfl, rfl⟩
  | cons x xs ih => simp only [sendFences, ih, sendMsg_kept, and_self]

theorem execFenceep_kept (w) (s : State) : (after (execFenceep w s) s).pending = s.pending ∧ (after (execFenceep w s) s).comp = s.comp := by
  unfold execFenceep withInstr
  dsimp only
  (repeat' split) <;> simp only [failWith_kept, sendFences_kept, awaitAll_kept, readFault_kept, after_next, and_self]

theorem execFenceAck_kept (m) (s : State) : (after (execFenceAck m s) s).pending = s.pending ∧ (after (execFenceAck m s) s).comp = s.comp := by
  unfold execFenceAck
  dsimp only
  (repeat' split) <;> simp only [strayMsg_kept, takeNoc_kept, modIssued_kept, settle_kept, after_next, and_self]

theorem execFenceepLimit_kept (w) (s : State) : (after (execFenceepLimit w s) s).pending = s.pending ∧ (after (execFenceepLimit w s) s).comp = s.comp := by
  unfold execFenceepLimit withInstr
  dsimp only
  (repeat' split) <;> simp only [settle_kept, after_next, and_self]

theorem execReplyWaitExpiry_kept (w) (dead) (s : State) : (after (execReplyWaitExpiry w dead s) s).pending = s.pending ∧ (after (execReplyWaitExpiry w dead s) s).comp = s.comp := by
  unfold execReplyWaitExpiry
  try simp only []
  all_goals (repeat' (split <;> ((try simp only [settle_kept, after_next, and_self]))))
  all_goals (first | done | (refine foldl_kept (fun s a => ?_) _ _ _ ?_ <;> (try dsimp only) <;> (try simp only [and_self]) <;> (repeat' (split <;> (try simp only [clearReport_kept, answerAwait_kept, expectOutcome_kept, and_self])))))

/-! ## Serving -/

theorem addWaste_kept (s : State) (p) (n) : (addWaste s p n).pending = s.pending ∧ (addWaste s p n).comp = s.comp := by
  unfold addWaste
  split <;> simp only [countEv_kept, modPart_kept, and_self]

theorem putHistory_kept (s : State) (r) (pos) (es) : (putHistory s r pos es).pending = s.pending ∧ (putHistory s r pos es).comp = s.comp := by
  unfold putHistory
  simp only [devPut_kept, and_self]

theorem putEntries_kept (p idx : Nat) (r : Rec) (es : List Nat) (i : Nat) (s : State) :
    (putEntries p idx r es i s).pending = s.pending ∧ (putEntries p idx r es i s).comp = s.comp := by
  induction es generalizing i s with
  | nil => exact ⟨rfl, rfl⟩
  | cons e es ih => simp only [putEntries, ih, putCarousel_kept, and_self]

theorem putHeader_kept (s : State) (p) (idx) (r) (ended) : (putHeader s p idx r ended).pending = s.pending ∧ (putHeader s p idx r ended).comp = s.comp := by
  unfold putHeader
  split <;> simp only [putProd_kept, putRingState_kept, ringPut_kept, and_self]

theorem emission_kept (s : State) (p) (idx) (r1) (es) : (emission s p idx r1 es).pending = s.pending ∧ (emission s p idx r1 es).comp = s.comp := by
  unfold emission
  simp only [putEntries_kept, putHeader_kept, setRec_kept, charge_kept, and_self]

theorem commitReq_kept (s : State) (p) (idx) (es) : (commitReq s p idx es).pending = s.pending ∧ (commitReq s p idx es).comp = s.comp := by
  unfold commitReq
  simp only [emission_kept, putHistory_kept, sealOn_kept, freeFrom_kept, addWaste_kept, and_self]

theorem rollbackReq_kept (s : State) (p) (idx) : (rollbackReq s p idx).pending = s.pending ∧ (rollbackReq s p idx).comp = s.comp := by
  unfold rollbackReq
  simp only [freeFrom_kept, addWaste_kept, setRec_kept, and_self]

theorem emitReq_kept (s : State) (p) (idx) (e) : (emitReq s p idx e).pending = s.pending ∧ (emitReq s p idx e).comp = s.comp := by
  unfold emitReq
  simp only [emission_kept, putHistory_kept, and_self]

theorem retireReq_kept (s : State) (p) (idx) (final) : (retireReq s p idx final).pending = s.pending ∧ (retireReq s p idx final).comp = s.comp := by
  unfold retireReq
  dsimp only
  (repeat' split) <;> simp only [freeRecord_kept, retire_kept, dropRequest_kept, and_self]

theorem noteReadOnly_kept (s : State) (w) (st) (addr) : (noteReadOnly s w st addr).pending = s.pending ∧ (noteReadOnly s w st addr).comp = s.comp := by
  unfold noteReadOnly
  split <;> simp only [violation_kept, and_self]

theorem withInstr_kept (s : State) (w : IRef) (op : Nat) (f : Issued → State)
    (h : ∀ i, (f i).pending = s.pending ∧ (f i).comp = s.comp) :
    (after (withInstr s w op f) s).pending = s.pending ∧ (after (withInstr s w op f) s).comp = s.comp := by
  unfold withInstr
  (repeat' split) <;> first | exact ⟨rfl, rfl⟩ | exact h _

theorem withRequest_kept (s : State) (w : IRef) (i : Issued) (a : RState → Bool) (f : Rec → State)
    (h : ∀ r, (f r).pending = s.pending ∧ (f r).comp = s.comp) :
    (withRequest s w i a f).pending = s.pending ∧ (withRequest s w i a f).comp = s.comp := by
  unfold withRequest
  dsimp only
  (repeat' split) <;> first | exact ⟨rfl, rfl⟩ | exact failWith_kept _ _ _ | exact h _

theorem execAppend_kept (w) (s : State) : (after (execAppend w s) s).pending = s.pending ∧ (after (execAppend w s) s).comp = s.comp := by
  unfold execAppend
  refine withInstr_kept _ _ _ _ fun i => withRequest_kept _ _ _ _ _ fun r => ?_
  extract_lets n l hs st
  clear_value st hs l n
  split
  · exact failWith_kept _ _ _
  · split
    · exact failWith_kept _ _ _
    · split
      · exact failWith_kept _ _ _
      · (repeat' split) <;> simp only [failWith_kept, finish_kept, readFault_kept, noteReadOnly_kept, noteFenced_kept, and_self]

theorem execCommit_kept (w) (s : State) : (after (execCommit w s) s).pending = s.pending ∧ (after (execCommit w s) s).comp = s.comp := by
  unfold execCommit withInstr withRequest
  dsimp only
  (repeat' split) <;> simp only [failWith_kept, readFault_kept, addressFault_kept, refreshCons_kept, finish_kept, after_next, and_self]

theorem execRollback_kept (w) (s : State) : (after (execRollback w s) s).pending = s.pending ∧ (after (execRollback w s) s).comp = s.comp := by
  unfold execRollback withInstr withRequest
  dsimp only
  (repeat' split) <;> simp only [failWith_kept, finish_kept, after_next, and_self]

theorem emitStatus_kept (s : State) (p) (idx) (v) : ((emitStatus s p idx v).1).pending = s.pending ∧ ((emitStatus s p idx v).1).comp = s.comp := by
  unfold emitStatus
  dsimp only
  (repeat' split) <;> simp only [refreshCons_kept, and_self]

theorem execEmit_kept (w) (s : State) : (after (execEmit w s) s).pending = s.pending ∧ (after (execEmit w s) s).comp = s.comp := by
  unfold execEmit withInstr withRequest
  dsimp only
  (repeat' split) <;> simp only [failWith_kept, readFault_kept, emitStatus_kept, addressFault_kept, finish_kept, after_next, and_self]

theorem execRetire_kept (w) (s : State) : (after (execRetire w s) s).pending = s.pending ∧ (after (execRetire w s) s).comp = s.comp := by
  unfold execRetire withInstr withRequest
  dsimp only
  (repeat' split) <;> simp only [failWith_kept, finish_kept, after_next, and_self]

theorem execOpenreq_kept (w) (s : State) : (after (execOpenreq w s) s).pending = s.pending ∧ (after (execOpenreq w s) s).comp = s.comp := by
  unfold execOpenreq withInstr
  dsimp only
  (repeat' split) <;> simp only [failWith_kept, readFault_kept, finish_kept, after_next, and_self]

theorem updateStragglers_kept (s : State) (p) (mb) : (updateStragglers s p mb).pending = s.pending ∧ (updateStragglers s p mb).comp = s.comp := ⟨rfl, rfl⟩

theorem ecBoundary_kept (s : State) (p) : (ecBoundary s p).pending = s.pending ∧ (ecBoundary s p).comp = s.comp := ⟨rfl, rfl⟩

theorem moveFromStragglers_kept (s : State) (p) : (moveFromStragglers s p).pending = s.pending ∧ (moveFromStragglers s p).comp = s.comp := by
  unfold moveFromStragglers
  try simp only [modPart_kept]
  all_goals (repeat' (split <;> ((try simp only [startMove_kept, modPart_kept, foldl_pending, foldl_comp, foldl1_pending, foldl1_comp, after_next, and_self, implies_true]))))
  all_goals (first | done | (refine foldl_kept (fun s a => ?_) _ _ _ ?_ <;> (try dsimp only) <;> (try simp only [and_self]) <;> (repeat' (split <;> (try simp only [startMove_kept, useHome_kept, and_self])))))

theorem takeFrames_kept (s : State) (p) (r) (n) : ((takeFrames s p r n).1).pending = s.pending ∧ ((takeFrames s p r n).1).comp = s.comp := by
  unfold takeFrames
  split <;> simp only [allocFrames_kept, and_self]

theorem putEntriesAt_kept (s : State) (p) (r) (ps) (hs) : (putEntriesAt s p r ps hs).pending = s.pending ∧ (putEntriesAt s p r ps hs).comp = s.comp := by
  unfold putEntriesAt
  simp only [putEntry_kept, foldl_pending, foldl_comp, implies_true, and_self]

theorem reserveOne_kept (s : State) (p) (idx) : ((reserveOne s p idx).1).pending = s.pending ∧ ((reserveOne s p idx).1).comp = s.comp := by
  unfold reserveOne
  dsimp only
  (repeat' split) <;> simp only [takeFrames_kept, putEntriesAt_kept, and_self]

theorem reserveAll_kept (p : Nat) (xs : List Nat) (s : State) (ts : List Taking) :
    ((reserveAll p xs s ts).1).pending = s.pending ∧ ((reserveAll p xs s ts).1).comp = s.comp := by
  induction xs generalizing s ts with
  | nil => exact ⟨rfl, rfl⟩
  | cons x xs ih =>
    unfold reserveAll
    dsimp only
    (repeat' split) <;> simp only [ih, reserveOne_kept, and_self]

theorem unreserve_kept (s : State) (p) (t) : (unreserve s p t).pending = s.pending ∧ (unreserve s p t).comp = s.comp := by
  unfold unreserve
  (repeat' split) <;> simp only [putEntry_kept, freeHandle_kept, foldl_pending, foldl_comp, implies_true, and_self]

theorem ringRoom_kept (s : State) (p) (idx) : ((ringRoom s p idx).1).pending = s.pending ∧ ((ringRoom s p idx).1).comp = s.comp := by
  unfold ringRoom
  simp only [refreshCons_kept, and_self]

theorem pauseRequest_kept (s : State) (p) (idx) : (pauseRequest s p idx).pending = s.pending ∧ (pauseRequest s p idx).comp = s.comp := by
  unfold pauseRequest
  dsimp only
  (repeat' split) <;> simp only [setRec_kept, modPart_kept, putRingState_kept, countEv_kept, and_self]

theorem runRequest_kept (s : State) (p) (idx) : (runRequest s p idx).pending = s.pending ∧ (runRequest s p idx).comp = s.comp := by
  unfold runRequest
  simp only [putRingState_kept, setRec_kept, and_self]

theorem placeAll_kept (p limit : Nat) (xs : List Nat) (s : State) (a : Phase2) :
    ((placeAll p limit xs s a).1).pending = s.pending ∧ ((placeAll p limit xs s a).1).comp = s.comp := by
  induction xs generalizing s a with
  | nil => exact ⟨rfl, rfl⟩
  | cons x xs ih =>
    unfold placeAll
    dsimp only
    (repeat' split) <;> simp only [ih, endRequest_kept, ringRoom_kept, pauseRequest_kept, runRequest_kept, addWaste_kept, setRec_kept, and_self]

theorem sendTail_kept (s : State) (p) (idx) : (sendTail s p idx).pending = s.pending ∧ (sendTail s p idx).comp = s.comp := by
  unfold sendTail
  try simp only []
  all_goals (repeat' (split <;> ((try simp only [moveToPool_kept, foldl_pending, foldl_comp, foldl1_pending, foldl1_comp, after_next, and_self, implies_true]))))
  all_goals (first | done | (refine foldl_kept (fun s a => ?_) _ _ _ ?_ <;> (try dsimp only) <;> (try simp only [and_self]) <;> (repeat' (split <;> (try simp only [moveToPool_kept, and_self])))))

theorem preemptRequest_kept (s : State) (p) (idx) : ((preemptRequest s p idx).1).pending = s.pending ∧ ((preemptRequest s p idx).1).comp = s.comp := by
  unfold preemptRequest
  dsimp only
  (repeat' split) <;> simp only [addWaste_kept, setRec_kept, sealRequest_kept, freeFrom_kept, failRequest_kept, sendTail_kept, putRingState_kept, countEv_kept, modPart_kept, and_self]

theorem phase4_kept (p n : Nat) (s : State) (ts : List Taking) (m : Nat) :
    ((phase4 p n s ts m).1).pending = s.pending ∧ ((phase4 p n s ts m).1).comp = s.comp := by
  induction n generalizing s ts m with
  | zero => exact ⟨rfl, rfl⟩
  | succ n ih =>
    unfold phase4
    split
    · exact ⟨rfl, rfl⟩
    · split
      · exact ⟨rfl, rfl⟩
      · dsimp only
        simp only [ih]
        rw [foldl1_pending, foldl1_comp]
        · simp only [preemptRequest_kept, unreserve_kept, and_self]
        · intro a t
          split <;> simp only [reserveOne_kept]
        · intro a t
          split <;> simp only [reserveOne_kept]

theorem bringBack_kept (s : State) (p) (idx) (e) (hold) : (bringBack s p idx e hold).pending = s.pending ∧ (bringBack s p idx e hold).comp = s.comp := by
  unfold bringBack
  simp only [startMove_kept, and_self]

theorem admitBack_kept (s : State) (p) (idx) : ((admitBack s p idx).1).pending = s.pending ∧ ((admitBack s p idx).1).comp = s.comp := by
  unfold admitBack
  dsimp only
  (repeat' split) <;> simp only [reserveOne_kept, takeFrames_kept, unreserve_kept, setRec_kept, bringBack_kept, runRequest_kept, foldl_pending, foldl_comp, implies_true, and_self]

theorem returnAgain_kept (s : State) (p) (mb) : (returnAgain s p mb).pending = s.pending ∧ (returnAgain s p mb).comp = s.comp := by
  unfold returnAgain
  try simp only []
  all_goals (repeat' (split <;> ((try simp only [modPart_kept, takeFrames_kept, bringBack_kept, foldl_pending, foldl_comp, foldl1_pending, foldl1_comp, after_next, and_self, implies_true]))))
  all_goals (first | done | (refine foldl_kept (fun s a => ?_) _ _ _ ?_ <;> (try dsimp only) <;> (try simp only [bringBack_kept, and_self]) <;> (repeat' (split <;> (try simp only [modPart_kept, takeFrames_kept, and_self])))))

theorem joinOne_kept (s : State) (p i rows : Nat) :
    (joinOne s p i rows).2.pending = s.pending ∧ (joinOne s p i rows).2.comp = s.comp := by
  have h (m : State × Bool) (x : State × Bool) (y : State × Taking) (z : State) (hm : m.1.pending = s.pending ∧ m.1.comp = s.comp)
      (hx : x.1.pending = s.pending ∧ x.1.comp = s.comp) (hy : y.1.pending = s.pending ∧ y.1.comp = s.comp)
      (hz : z.pending = s.pending ∧ z.comp = s.comp) (a b c : Prop) [Decidable a] [Decidable b] [Decidable c] (v : Joined) :
      (if a then (Joined.stops, m.1) else if b then (v, x.1) else if c then (Joined.stops, y.1) else (Joined.runs, z)).2.pending =
        s.pending ∧
      (if a then (Joined.stops, m.1) else if b then (v, x.1) else if c then (Joined.stops, y.1) else (Joined.runs, z)).2.comp =
        s.comp := by
    (repeat' split) <;> assumption
  have hy : (reserveOne (ringRoom s p i).1 p i).1.pending = s.pending ∧ (reserveOne (ringRoom s p i).1 p i).1.comp = s.comp := by
    simp only [reserveOne_kept, ringRoom_kept, and_self]
  exact h (ringRoom s p i) (admitBack (ringRoom s p i).1 p i) (reserveOne (ringRoom s p i).1 p i)
    (runRequest (reserveOne (ringRoom s p i).1 p i).1 p i) (ringRoom_kept s p i)
    (by simp only [admitBack_kept, ringRoom_kept, and_self]) hy (by simp only [runRequest_kept, hy, and_self]) _ _ _ _

theorem phase3_kept (p : Nat) (is : List Nat) (s : State) (rows : Nat) (run : List Nat) (n : Nat) :
    ((phase3 p is s rows run n).1).pending = s.pending ∧ ((phase3 p is s rows run n).1).comp = s.comp := by
  induction is generalizing s rows run n with
  | nil => exact ⟨rfl, rfl⟩
  | cons i is ih =>
    unfold phase3
    dsimp only
    split <;> simp only [ih, joinOne_kept, and_self]

theorem sealLeftovers_kept (s : State) (p) (mb) : (sealLeftovers s p mb).pending = s.pending ∧ (sealLeftovers s p mb).comp = s.comp := by
  unfold sealLeftovers
  simp only [sealOn_kept, foldl_pending, foldl_comp, implies_true, and_self]

theorem stepBoundary_kept (s : State) (p) : (stepBoundary s p).pending = s.pending ∧ (stepBoundary s p).comp = s.comp := ⟨rfl, rfl⟩

theorem stepPhases_kept (s : State) (p) (mb) (limit) : ((stepPhases s p mb limit).1).pending = s.pending ∧ ((stepPhases s p mb limit).1).comp = s.comp := by
  unfold stepPhases
  dsimp only
  (repeat' split) <;> simp only [dropRequest_kept, placeAll_kept, reserveAll_kept, phase3_kept, phase4_kept, foldl_pending, foldl_comp, implies_true, and_self]

theorem stepWork_kept (s : State) (p) (mb) (limit) (queue) : ((stepWork s p mb limit queue).1).pending = s.pending ∧ ((stepWork s p mb limit queue).1).comp = s.comp := by
  unfold stepWork
  simp only [moveFromStragglers_kept, ecBoundary_kept, updateStragglers_kept, stepBoundary_kept, placeBoundary_kept, sealLeftovers_kept, returnAgain_kept, sendTail_kept, stepPhases_kept, setRec_kept, modPart_kept, foldl_pending, foldl_comp, implies_true, and_self]

theorem commitStep_kept (s : State) (p) (mb) (limit) (addr) (queue) : ((commitStep s p mb limit addr queue).1).pending = s.pending ∧ ((commitStep s p mb limit addr queue).1).comp = s.comp := by
  unfold commitStep
  simp only [stepWork_kept, devPut_kept, and_self]

theorem execStep_kept (w) (s : State) : (after (execStep w s) s).pending = s.pending ∧ (after (execStep w s) s).comp = s.comp := by
  unfold execStep withInstr
  dsimp only
  (repeat' split) <;> simp only [finish_kept, after_next, and_self]

/-! ## Index -/

theorem writeShadow_kept (s : State) (pos) (e) : (writeShadow s pos e).pending = s.pending ∧ (writeShadow s pos e).comp = s.comp := by
  unfold writeShadow
  simp only [rewriteWords_kept, and_self]

theorem arrayPut_kept (pos : Nat) (e : Option IxEntry) (t : State) :
    ({ t with index := { t.index with array := putPos t.index.array pos e } } : State).pending = t.pending ∧
      ({ t with index := { t.index with array := putPos t.index.array pos e } } : State).comp = t.comp := ⟨rfl, rfl⟩

theorem writePos_kept (s : State) (pos) (e) : (writePos s pos e).pending = s.pending ∧ (writePos s pos e).comp = s.comp := by
  have h := arrayPut_kept pos e (writeShadow s pos e)
  have k := writeShadow_kept s pos e
  exact ⟨h.1.trans k.1, h.2.trans k.2⟩

theorem comparePos_kept (s : State) (pos) : ((comparePos s pos).1).pending = s.pending ∧ ((comparePos s pos).1).comp = s.comp := by
  unfold comparePos
  dsimp only
  (repeat' split) <;> simp only [writePos_kept, report_kept, and_self]

theorem sweepRun_kept (s : State) (lo) (hi) : ((sweepRun s lo hi).1).pending = s.pending ∧ ((sweepRun s lo hi).1).comp = s.comp := by
  unfold sweepRun
  (repeat' split) <;> simp only [comparePos_kept, foldl1_pending, foldl1_comp, implies_true, and_self]

theorem execMirrorSweep_kept (s : State) : (after (execMirrorSweep s) s).pending = s.pending ∧ (after (execMirrorSweep s) s).comp = s.comp := by
  unfold execMirrorSweep
  (repeat' split) <;> simp only [sweepRun_kept, after_next, foldl_pending, foldl_comp, implies_true, and_self]

theorem execIxTempSample_kept (celsius) (s : State) : (after (execIxTempSample celsius s) s).pending = s.pending ∧ (after (execIxTempSample celsius s) s).comp = s.comp := by
  unfold execIxTempSample
  simp only [after_next, and_self]

theorem searchOnce_kept (s : State) (p) (key) : ((searchOnce s p key).1).pending = s.pending ∧ ((searchOnce s p key).1).comp = s.comp := by
  unfold searchOnce
  simp only [countEv_kept, regTake_kept, and_self]

theorem seekOutcome_kept (s : State) (p) (hit) (verified) (repaired) : ((seekOutcome s p hit verified repaired).1).pending = s.pending ∧ ((seekOutcome s p hit verified repaired).1).comp = s.comp := by
  unfold seekOutcome
  split <;> simp only [countEv_kept, and_self]

theorem seekAgain_kept (s : State) (p) (key) : ((seekAgain s p key).1).pending = s.pending ∧ ((seekAgain s p key).1).comp = s.comp := by
  unfold seekAgain
  dsimp only
  (repeat' split) <;> simp only [searchOnce_kept, seekOutcome_kept, comparePos_kept, and_self]

theorem seekOne_kept (s : State) (p) (key) (verify) (again) : ((seekOne s p key verify again).1).pending = s.pending ∧ ((seekOne s p key verify again).1).comp = s.comp := by
  unfold seekOne
  dsimp only
  (repeat' split) <;> simp only [countEv_kept, regTake_kept, seekAgain_kept, searchOnce_kept, seekOutcome_kept, comparePos_kept, and_self]

theorem seekFrom_kept (p : Nat) (verify : Bool) (ks : List Nat) (s : State) (x : Seeks) :
    (seekFrom p verify ks s x).1.pending = s.pending ∧ (seekFrom p verify ks s x).1.comp = s.comp := by
  induction ks generalizing s x with
  | nil => exact ⟨rfl, rfl⟩
  | cons k ks ih =>
    unfold seekFrom
    dsimp only
    (repeat' split) <;> simp only [ih, seekOne_kept, and_self]

theorem execSeek_kept (w) (s : State) : (after (execSeek w s) s).pending = s.pending ∧ (after (execSeek w s) s).comp = s.comp := by
  unfold execSeek withInstr
  dsimp only
  (repeat' split) <;> simp only [readFault_kept, seekFrom_kept, modIssued_kept, after_next, and_self]

theorem writeRun_kept (s : State) (r) (moves) (p) : (writeRun s r moves p).pending = s.pending ∧ (writeRun s r moves p).comp = s.comp := by
  unfold writeRun
  (repeat' split) <;> simp only [writePos_kept, countEv_kept, foldl_pending, foldl_comp, implies_true, and_self]

theorem beginRespread_kept (s : State) (p) : (beginRespread s p).pending = s.pending ∧ (beginRespread s p).comp = s.comp := by
  unfold beginRespread
  simp only [modPart_kept, and_self]

theorem execRespreadDone_kept (p) (s : State) : (after (execRespreadDone p s) s).pending = s.pending ∧ (after (execRespreadDone p s) s).comp = s.comp := by
  unfold execRespreadDone
  split <;> simp only [modPart_kept, writeRun_kept, after_next, and_self]

theorem insertFrom_kept (p base : Nat) (spread : Bool) (xs : List (Nat × List Byte)) (s : State) (fx : List Effect) (n : Nat) :
    (insertFrom p base spread xs s fx n).1.pending = s.pending ∧ (insertFrom p base spread xs s fx n).1.comp = s.comp := by
  induction xs generalizing s fx n with
  | nil => exact ⟨rfl, rfl⟩
  | cons x xs ih =>
    unfold insertFrom
    split <;> simp only [ih, beginRespread_kept, writeRun_kept, and_self]

theorem execInsert_kept (w) (s : State) : (after (execInsert w s) s).pending = s.pending ∧ (after (execInsert w s) s).comp = s.comp := by
  unfold execInsert withInstr
  dsimp only
  (repeat' split) <;> simp only [readFault_kept, failWith_kept, insertFrom_kept, modIssued_kept, after_next, and_self]

theorem deleteFrom_kept (p base : Nat) (xs : List (Nat × List Byte)) (s : State) (fx : List Effect) (n : Nat) (miss : Bool) :
    (deleteFrom p base xs s fx n miss).1.pending = s.pending ∧ (deleteFrom p base xs s fx n miss).1.comp = s.comp := by
  induction xs generalizing s fx n miss with
  | nil => exact ⟨rfl, rfl⟩
  | cons x xs ih =>
    unfold deleteFrom
    split <;> simp only [ih, writeRun_kept, and_self]

theorem execDelete_kept (w) (s : State) : (after (execDelete w s) s).pending = s.pending ∧ (after (execDelete w s) s).comp = s.comp := by
  unfold execDelete withInstr
  dsimp only
  (repeat' split) <;> simp only [readFault_kept, failWith_kept, deleteFrom_kept, finish_kept, after_next, and_self]

theorem execPair_kept (w) (s : State) : (after (execPair w s) s).pending = s.pending ∧ (after (execPair w s) s).comp = s.comp := by
  unfold execPair withInstr
  dsimp only
  (repeat' split) <;> simp only [readFault_kept, failWith_kept, modIssued_kept, beginRespread_kept, finish_kept, writeRun_kept, after_next, and_self]

theorem execSweep_kept (w) (s : State) : (after (execSweep w s) s).pending = s.pending ∧ (after (execSweep w s) s).comp = s.comp := by
  unfold execSweep withInstr
  dsimp only
  (repeat' split) <;> simp only [modIssued_kept, beginRespread_kept, sweepRun_kept, finish_kept, after_next, and_self]

/-! ## Stripes -/

theorem stripePut_kept (s : State) (p) (d) (off) (bs) : (stripePut s p d off bs).pending = s.pending ∧ (stripePut s p d off bs).comp = s.comp := by
  unfold stripePut
  split <;> simp only [modPart_kept, devPut_kept, and_self]

theorem takeCopy_kept (s : State) (p) (bs) (counted) : (takeCopy s p bs counted).pending = s.pending ∧ (takeCopy s p bs counted).comp = s.comp := ⟨rfl, rfl⟩

theorem askShard_kept (s : State) (w) (k) (h) : (askShard s w k h).pending = s.pending ∧ (askShard s w k h).comp = s.comp := by
  unfold askShard
  simp only [sendFor_kept, modIssued_kept, and_self]

theorem fetchShard_kept (s : State) (w) (h) (n) : (fetchShard s w h n).pending = s.pending ∧ (fetchShard s w h n).comp = s.comp := by
  unfold fetchShard
  extract_lets s0 at_ home
  have m : s0.pending = s.pending ∧ s0.comp = s.comp := modIssued_kept _ _ _
  clear_value s0 at_ home
  split
  · exact foldl_kept (fun s a => by simp only [sendTxn_kept, and_self]) _ _ _ m
  · have k := deviceConn_kept s0 w.part 0 home
    split <;> next heq =>
      rw [heq] at k
      simp only at k
      simp only [modIssued_kept, addXfer_kept, k, m, and_self]

theorem placeSealed_kept (s : State) (p) (size) (refs) (bs) (t) (h : placeSealed s p size refs bs = some t) : (t.1).pending = s.pending ∧ (t.1).comp = s.comp := by
  unfold placeSealed at h
  dsimp only at h
  split at h
  · cases h
  · next heq =>
    have k := allocFrame_kept _ _ _ _ _ _ _ heq
    simp only at k
    injection h with h
    subst h
    simp only [devPut_kept, k, and_self]

theorem nextStage_kept (s : State) (w) (stage) (f) : (nextStage s w stage f).pending = s.pending ∧ (nextStage s w stage f).comp = s.comp := ⟨rfl, rfl⟩

/-- The state that a shard's read has come to. -/
def ShardRead.state : ShardRead → State
  | .wait s => s
  | .done s _ _ _ => s

/-- The state that a parity shard's placing has come to. -/
def Placed.state : Placed → State
  | .wait s => s
  | .done s _ _ => s

theorem shardDone_kept (s : State) (w : IRef) (st : Nat) (data : List Byte) (h : Nat) :
    (shardDone s w st data h).state.pending = s.pending ∧ (shardDone s w st data h).state.comp = s.comp := by
  simp only [shardDone, ShardRead.state, modIssued_kept, and_self]

theorem readHere_kept (s : State) (w : IRef) (h size : Nat) (fol : Bool) :
    (readHere s w h size fol).state.pending = s.pending ∧ (readHere s w h size fol).state.comp = s.comp := by
  unfold readHere
  dsimp only
  (repeat' split) <;> simp only [shardDone_kept, noteFenced_kept, touchFrame_kept, tookRead_kept, noteRead_kept, countEv_kept, and_self]

theorem shardRead_kept (s : State) (w : IRef) (i : Issued) (k h size : Nat) :
    (shardRead s w i k h size).state.pending = s.pending ∧ (shardRead s w i k h size).state.comp = s.comp := by
  have w : ∀ t, (ShardRead.wait t).state = t := fun _ => rfl
  unfold shardRead
  dsimp only
  (repeat' split) <;> simp only [shardDone_kept, readHere_kept, w, askShard_kept, fetchShard_kept, modIssued_kept, countEv_kept, and_self]

theorem placedDone_kept (s : State) (w : IRef) (st h : Nat) :
    (placedDone s w st h).state.pending = s.pending ∧ (placedDone s w st h).state.comp = s.comp := by
  simp only [placedDone, Placed.state, modIssued_kept, and_self]

theorem placeParity_kept (s : State) (w : IRef) (i : Issued) (home : Nat × Nat) (part size : Nat) (bs : List Byte) :
    (placeParity s w i home part size bs).state.pending = s.pending ∧
      (placeParity s w i home part size bs).state.comp = s.comp := by
  unfold placeParity
  dsimp only
  split
  · split
    · next heq =>
      split at heq
      · have k := placeSealed_kept _ _ _ _ _ _ heq
        simp only at k
        simp only [placedDone_kept, k, and_self]
      · cases heq
    · simp only [placedDone_kept, and_self]
  · have w : ∀ t, (Placed.wait t).state = t := fun _ => rfl
    (repeat' split) <;> simp only [placedDone_kept, w, modIssued_kept, sendMsg_kept, sendCopy_kept, forgetCopy_kept, sizeHandles_kept, useHome_kept, takeTag_kept, and_self]

theorem shardRead_of {s : State} {w : IRef} {i : Issued} {k h size : Nat} {x : ShardRead} (e : shardRead s w i k h size = x) :
    x.state.pending = s.pending ∧ x.state.comp = s.comp := e ▸ shardRead_kept s w i k h size

theorem placeParity_of {s : State} {w : IRef} {i : Issued} {home : Nat × Nat} {part size : Nat} {bs : List Byte} {x : Placed}
    (e : placeParity s w i home part size bs = x) :
    x.state.pending = s.pending ∧ x.state.comp = s.comp := e ▸ placeParity_kept s w i home part size bs

theorem encodeStage_kept (s : State) (w) (i) (t) : (encodeStage s w i t).pending = s.pending ∧ (encodeStage s w i t).comp = s.comp := by
  unfold encodeStage
  dsimp only
  split
  · split
    · next heq =>
      have k := shardRead_of heq
      simpa only [ShardRead.state] using k
    · next heq =>
      have k := shardRead_of heq
      simp only [ShardRead.state] at k
      split <;> simp only [nextStage_kept, failWith_kept, k, and_self]
  · split
    · split
      · next heq =>
        have k := placeParity_of heq
        simpa only [Placed.state] using k
      · next heq =>
        have k := placeParity_of heq
        simp only [Placed.state] at k
        split
        · simp only [nextStage_kept, k, and_self]
        · simp only [failWith_kept]
          exact foldl_kept (fun s a => freeHandle_kept _ _ _) _ _ _ k
    · split
      · split
        · simp only [nextStage_kept, addRef_kept, and_self]
        · (repeat' split) <;> simp only [nextStage_kept, modIssued_kept, sendFor_kept, and_self]
      · simp only [finish_kept, and_self]

theorem execEncode_kept (w) (s : State) : (after (execEncode w s) s).pending = s.pending ∧ (after (execEncode w s) s).comp = s.comp := by
  unfold execEncode withInstr
  dsimp only
  (repeat' split) <;> simp only [readFault_kept, failWith_kept, encodeStage_kept, after_next, and_self]

theorem rebuildStage_kept (s : State) (w) (i) (t) (j) : (rebuildStage s w i t j).pending = s.pending ∧ (rebuildStage s w i t j).comp = s.comp := by
  unfold rebuildStage
  dsimp only
  split
  · split
    · simp only [failWith_kept, and_self]
    · next heq =>
      have k := placeSealed_kept _ _ _ _ _ _ heq
      simp only at k
      simp only [finish_kept, k, and_self]
  · split
    · simp only [finish_kept, and_self]
    · split
      · next heq =>
        have k := shardRead_of heq
        simp only [ShardRead.state] at k
        simp only [modIssued_kept, k, and_self]
      · next heq =>
        have k := shardRead_of heq
        simp only [ShardRead.state] at k
        simp only [nextStage_kept, k, and_self]

theorem execRebuild_kept (w) (s : State) : (after (execRebuild w s) s).pending = s.pending ∧ (after (execRebuild w s) s).comp = s.comp := by
  unfold execRebuild withInstr
  dsimp only
  (repeat' split) <;> simp only [readFault_kept, failWith_kept, rebuildStage_kept, after_next, and_self]

theorem disown_kept (s : State) (w) : (disown s w).pending = s.pending ∧ (disown s w).comp = s.comp := ⟨rfl, rfl⟩

theorem lateSurvivor_kept (s : State) (w) (i) (h) : (lateSurvivor s w i h).pending = s.pending ∧ (lateSurvivor s w i h).comp = s.comp := by
  unfold lateSurvivor
  dsimp only
  (repeat' split) <;> simp only [nextStage_kept, disown_kept, and_self]

theorem lateInbox_kept (s : State) (p) (h) : (lateInbox s p h).pending = s.pending ∧ (lateInbox s p h).comp = s.comp := by
  unfold lateInbox
  (repeat' split) <;> simp only [modPart_kept, and_self]

theorem execLateBoundExpiry_kept (w) (h) (s : State) : (after (execLateBoundExpiry w h s) s).pending = s.pending ∧ (after (execLateBoundExpiry w h s) s).comp = s.comp := by
  unfold execLateBoundExpiry withInstr
  dsimp only
  (repeat' split) <;> simp only [lateInbox_kept, lateSurvivor_kept, modIssued_kept, after_next, and_self]

theorem execVerify_kept (w) (s : State) : (after (execVerify w s) s).pending = s.pending ∧ (after (execVerify w s) s).comp = s.comp := by
  unfold execVerify
  refine withInstr_kept _ _ _ _ fun i => ?_
  split
  · simp only [readFault_kept, and_self]
  · dsimp only
    split
    · simp only [failWith_kept, and_self]
    · split
      · split
        · next heq =>
          have k := shardRead_of heq
          simpa only [ShardRead.state] using k
        · next heq =>
          have k := shardRead_of heq
          simp only [ShardRead.state] at k
          split <;> simp only [nextStage_kept, failWith_kept, k, and_self]
      · simp only [finish_kept, and_self]

theorem takeInbox_kept (s : State) (p) (bs) : (takeInbox s p bs).pending = s.pending ∧ (takeInbox s p bs).comp = s.comp := ⟨rfl, rfl⟩

theorem takeRebuild_kept (s : State) (p) (o) (request) (m) : (takeRebuild s p o request m).pending = s.pending ∧ (takeRebuild s p o request m).comp = s.comp := by
  unfold takeRebuild
  split <;> simp only [takeInbox_kept, deliverInbox_kept, takeNoc_kept, and_self]

theorem ringConn_kept (s : State) (p) (to_) : ((ringConn s p to_).1).pending = s.pending ∧ ((ringConn s p to_).1).comp = s.comp := by
  unfold ringConn
  simp only [peerConn_kept, and_self]

theorem sendRebuild_kept (s : State) (p) (to_) (request) (m) : (sendRebuild s p to_ request m).pending = s.pending ∧ (sendRebuild s p to_ request m).comp = s.comp := by
  unfold sendRebuild
  dsimp only
  split
  · exact ⟨rfl, rfl⟩
  · split
    · simp only [sendCargo_kept, draw_kept, and_self]
    · have k := ringConn_kept s p to_
      split <;> next heq =>
        rw [heq] at k
        simp only at k
        simp only [addXfer_kept, k, and_self]

theorem replyRebuild_kept (s : State) (p) (m) (status) (newHandle) (lost) : (replyRebuild s p m status newHandle lost).pending = s.pending ∧ (replyRebuild s p m status newHandle lost).comp = s.comp := by
  unfold replyRebuild
  simp only [sendRebuild_kept, and_self]

theorem execRebuildRequestMsg_kept (p) (m) (s : State) : (after (execRebuildRequestMsg p m s) s).pending = s.pending ∧ (after (execRebuildRequestMsg p m s) s).comp = s.comp := by
  unfold execRebuildRequestMsg
  dsimp only
  (repeat' split) <;> simp only [takeRebuild_kept, replyRebuild_kept, modPart_kept, after_next, and_self]

theorem endRebuildIn_kept (s : State) (p) (i) : (endRebuildIn s p i).pending = s.pending ∧ (endRebuildIn s p i).comp = s.comp := by
  unfold endRebuildIn
  split <;> simp only [modPart_kept, replyRebuild_kept, and_self]

theorem replaceHandle_kept (s : State) (p) (old) (new) : (replaceHandle s p old new).pending = s.pending ∧ (replaceHandle s p old new).comp = s.comp := by
  unfold replaceHandle
  simp only [putEntry_kept, devPut_kept, foldl_pending, foldl_comp, implies_true, and_self]

theorem unstall_kept (s : State) (p) : (unstall s p).pending = s.pending ∧ (unstall s p).comp = s.comp := by
  unfold unstall
  try simp only []
  all_goals (repeat' (split <;> ((try simp only [setRec_kept, foldl_pending, foldl_comp, foldl1_pending, foldl1_comp, after_next, and_self, implies_true]))))
  all_goals (first | done | (refine foldl_kept (fun s a => ?_) _ _ _ ?_ <;> (try dsimp only) <;> (try simp only [and_self]) <;> (repeat' (split <;> (try simp only [setRec_kept, and_self])))))

theorem loseStripe_kept (s : State) (p) (descr) : (loseStripe s p descr).pending = s.pending ∧ (loseStripe s p descr).comp = s.comp := by
  unfold loseStripe
  try simp only [unstall_kept, writePos_kept, foldl_pending, foldl_comp, implies_true]
  all_goals (repeat' (split <;> ((try simp only [modPart_kept, failRequest_kept, unstall_kept, writePos_kept, foldl_pending, foldl_comp, foldl1_pending, foldl1_comp, after_next, and_self, implies_true]))))
  all_goals (first | done | (refine foldl_kept (fun s a => ?_) _ _ _ ?_ <;> (try dsimp only) <;> (try simp only [modPart_kept, and_self]) <;> (repeat' (split <;> (try simp only [failRequest_kept, and_self])))))

theorem askRebuild_kept (s : State) (p) (x) : (askRebuild s p x).pending = s.pending ∧ (askRebuild s p x).comp = s.comp := by
  unfold askRebuild
  dsimp only
  (repeat' split) <;> simp only [loseStripe_kept, takeTag_kept, sendRebuild_kept, modPart_kept, and_self]

theorem loseHomes_kept (s : State) (p) (idx) (handles) : (loseHomes s p idx handles).pending = s.pending ∧ (loseHomes s p idx handles).comp = s.comp := by
  unfold loseHomes
  dsimp only
  (repeat' split) <;> simp only [setRec_kept, stripePut_kept, askRebuild_kept, foldl_pending, foldl_comp, implies_true, and_self]

theorem execRebuildReplyMsg_kept (p) (m) (s : State) : (after (execRebuildReplyMsg p m s) s).pending = s.pending ∧ (after (execRebuildReplyMsg p m s) s).comp = s.comp := by
  unfold execRebuildReplyMsg
  dsimp only
  (repeat' split) <;> simp only [takeRebuild_kept, modPart_kept, replaceHandle_kept, stripePut_kept, unstall_kept, loseStripe_kept, askRebuild_kept, after_next, and_self]

theorem execRebuildWaitExpiry_kept (p) (tag) (s : State) : (after (execRebuildWaitExpiry p tag s) s).pending = s.pending ∧ (after (execRebuildWaitExpiry p tag s) s).comp = s.comp := by
  unfold execRebuildWaitExpiry
  (repeat' split) <;> simp only [askRebuild_kept, modPart_kept, after_next, and_self]

theorem jobOutcome_kept (s : State) (p) (idx) (st) (blocks) : (jobOutcome s p idx st blocks).pending = s.pending ∧ (jobOutcome s p idx st blocks).comp = s.comp := by
  unfold jobOutcome
  dsimp only
  (repeat' split) <;> simp only [setRec_kept, addWaste_kept, loseHomes_kept, failRequest_kept, and_self]

/-! ## Arrivals -/

theorem noteNotOwner_kept (s : State) (w) (st) (h) : (noteNotOwner s w st h).pending = s.pending ∧ (noteNotOwner s w st h).comp = s.comp := by
  unfold noteNotOwner
  split <;> simp only [violation_kept, and_self]

theorem execOffer_kept (m) (s : State) : (after (execOffer m s) s).pending = s.pending ∧ (after (execOffer m s) s).comp = s.comp := by
  unfold execOffer withEvent partyEvent
  dsimp only
  (repeat' split) <;> simp only [strayMsg_kept, takeNoc_kept, modPart_kept, after_next, and_self]

theorem dropOffer_kept (s : State) (p) (h) : (dropOffer s p h).pending = s.pending ∧ (dropOffer s p h).comp = s.comp := ⟨rfl, rfl⟩

theorem sendRecord_kept (s : State) (p) (h) (to_) : (sendRecord s p h to_).pending = s.pending ∧ (sendRecord s p h to_).comp = s.comp := by
  unfold sendRecord
  dsimp only
  (repeat' split) <;> simp only [emitOut_kept, draw_kept, and_self]

theorem installHand_kept (s : State) (p) (x) : (installHand s p x).pending = s.pending ∧ (installHand s p x).comp = s.comp := by
  unfold installHand
  dsimp only
  (repeat' split) <;> simp only [emitStatus_kept, setRec_kept, takeCopy_kept, emitReq_kept, foldl_pending, foldl_comp, implies_true, and_self]

theorem dissolve_kept (s : State) (p) (i) : (dissolve s p i).pending = s.pending ∧ (dissolve s p i).comp = s.comp := ⟨rfl, rfl⟩

theorem giveStripes_kept (s : State) (p) (idx) : (giveStripes s p idx).pending = s.pending ∧ (giveStripes s p idx).comp = s.comp := ⟨rfl, rfl⟩

theorem giveUp_kept (s : State) (p) (h) : (giveUp s p h).pending = s.pending ∧ (giveUp s p h).comp = s.comp := by
  unfold giveUp
  dsimp only
  (repeat' split) <;> simp only [putEntry_kept, freeRecord_kept, giveStripes_kept, and_self]

theorem answerInstr_kept (s : State) (p) (tag) (status) (value) (fx) (t : State) (h : answerInstr s p tag status value fx = some t) : (t).pending = s.pending ∧ (t).comp = s.comp := by
  unfold answerInstr at h
  (repeat' split at h) <;> first | (cases h; done) | (cases h; simp only [answerAwait_kept, noteNotOwner_kept, settle_kept, modIssued_kept, and_self])

theorem answerInstr_getD_kept (s : State) (p) (tag) (status) (value) (fx) : ((answerInstr s p tag status value fx).getD s).pending = s.pending ∧ ((answerInstr s p tag status value fx).getD s).comp = s.comp := by
  cases h : answerInstr s p tag status value fx with
  | none => exact ⟨rfl, rfl⟩
  | some t => exact answerInstr_kept s p tag status value fx _ h

theorem confirmCatcher_kept (s : State) (m) (hand) : (confirmCatcher s m hand).pending = s.pending ∧ (confirmCatcher s m hand).comp = s.comp := by
  unfold confirmCatcher
  split <;> simp only [dropOffer_kept, outcomeCame_kept, installHand_kept, answerInstr_getD_kept, and_self]

theorem execConfirm_kept (m) (hand) (s : State) : (after (execConfirm m hand s) s).pending = s.pending ∧ (after (execConfirm m hand s) s).comp = s.comp := by
  unfold execConfirm withEvent partyEvent
  dsimp only
  (repeat' split) <;> simp only [strayMsg_kept, takeNoc_kept, confirmCatcher_kept, giveUp_kept, outcomeCame_kept, after_next, and_self]

theorem offerAgain_kept (s : State) (p) (idx) (h) (st) (last) : (offerAgain s p idx h st last).pending = s.pending ∧ (offerAgain s p idx h st last).comp = s.comp := by
  unfold offerAgain
  dsimp only
  (repeat' split) <;> simp only [retireReq_kept, setRec_kept, takeTag_kept, expectOutcome_kept, sendRecord_kept, sendMsg_kept, and_self]

theorem recoverBlock_kept (s : State) (p) (idx) (l) (j) (tried) : (recoverBlock s p idx l j tried).pending = s.pending ∧ (recoverBlock s p idx l j tried).comp = s.comp := by
  unfold recoverBlock
  dsimp only
  (repeat' split) <;> simp only [retireReq_kept, takeTag_kept, sendMsg_kept, modPart_kept, putEntry_kept, and_self]

theorem returned_kept (s : State) (p) (h) (st) (peer) : (returned s p h st peer).pending = s.pending ∧ (returned s p h st peer).comp = s.comp := by
  unfold returned
  dsimp only
  (repeat' split) <;> simp only [outcomeCame_kept, dropOffer_kept, offerAgain_kept, recoverBlock_kept, and_self]

theorem execReturned_kept (m) (s : State) : (after (execReturned m s) s).pending = s.pending ∧ (after (execReturned m s) s).comp = s.comp := by
  unfold execReturned withEvent partyEvent
  dsimp only
  (repeat' split) <;> simp only [strayMsg_kept, takeNoc_kept, returned_kept, after_next, and_self]

theorem noteAlloc_kept (s : State) (p) (i) (m) (handles) : (noteAlloc s p i m handles).pending = s.pending ∧ (noteAlloc s p i m handles).comp = s.comp := by
  unfold noteAlloc
  (repeat' split) <;> simp only [sizeHandles_kept, useHome_kept, homeFull_kept, and_self]

theorem noteFree_kept (s : State) (p) (m) (handles) : (noteFree s p m handles).pending = s.pending ∧ (noteFree s p m handles).comp = s.comp := by
  unfold noteFree
  dsimp only
  (repeat' split) <;> simp only [modPart_kept, useHome_kept, and_self]

theorem noteRelease_kept (s : State) (p) (h) (m) : (noteRelease s p h m).pending = s.pending ∧ (noteRelease s p h m).comp = s.comp := by
  unfold noteRelease
  split <;> simp only [expectOutcome_kept, outcomeCame_kept, and_self]

theorem noteRecovered_kept (s : State) (p) (m) (handles) : (noteRecovered s p m handles).pending = s.pending ∧ (noteRecovered s p m handles).comp = s.comp := by
  unfold noteRecovered
  (repeat' split) <;> simp only [modPart_kept, putEntry_kept, sizeHandles_kept, useHome_kept, recoverBlock_kept, homeFull_kept, and_self]

theorem unuseHomes_kept (p : Nat) (xs : List Moving) (s : State) : (unuseHomes p xs s).pending = s.pending ∧ (unuseHomes p xs s).comp = s.comp := by
  induction xs generalizing s with
  | nil => exact ⟨rfl, rfl⟩
  | cons x xs ih =>
    unfold unuseHomes
    split <;> simp only [ih, useHome_kept, and_self]

theorem dropMove_kept (s : State) (p) (h) : (dropMove s p h).pending = s.pending ∧ (dropMove s p h).comp = s.comp := by
  unfold dropMove
  dsimp only
  (repeat' split) <;> simp only [modPart_kept, unuseHomes_kept, freeHandle_kept, and_self]

theorem sealAnswer_kept (s : State) (p) (m) : (sealAnswer s p m).pending = s.pending ∧ (sealAnswer s p m).comp = s.comp := by
  unfold sealAnswer
  (repeat' split) <;> simp only [outcomeCame_kept, modPart_kept, sealOn_kept, sealDone_kept, failRequest_kept, and_self]

theorem replyToRingmaster_kept (s : State) (p) (m) (handles) : (replyToRingmaster s p m handles).pending = s.pending ∧ (replyToRingmaster s p m handles).comp = s.comp := by
  unfold replyToRingmaster
  (repeat' split) <;> simp only [noteRecovered_kept, sealAnswer_kept, noteRelease_kept, noteFree_kept, dropMove_kept, and_self]

theorem execReply_kept (m) (handles) (s : State) : (after (execReply m handles s) s).pending = s.pending ∧ (after (execReply m handles s) s).comp = s.comp := by
  unfold execReply partyEvent
  dsimp only
  (repeat' split) <;> simp only [strayMsg_kept, takeNoc_kept, noteFenced_kept, noteAlloc_kept, noteRelease_kept, sendRecord_kept, outcomeCame_kept, noteFree_kept, dissolve_kept, replyToRingmaster_kept, answerInstr_getD_kept, after_next, and_self]

theorem noteRehomed_kept (s : State) (p) (old) (new) (x4) : (noteRehomed s p old new x4).pending = s.pending ∧ (noteRehomed s p old new x4).comp = s.comp := by
  unfold noteRehomed
  split <;> simp only [modPart_kept, and_self]

theorem moveDone_kept (s : State) (p) (old) (new) : (moveDone s p old new).pending = s.pending ∧ (moveDone s p old new).comp = s.comp := by
  unfold moveDone
  dsimp only
  (repeat' split) <;> simp only [modPart_kept, freeHandle_kept, sizeHandles_kept, noteRehomed_kept, replaceHandle_kept, runRequest_kept, setRec_kept, and_self]

theorem noteMigrated_kept (s : State) (m) : (noteMigrated s m).pending = s.pending ∧ (noteMigrated s m).comp = s.comp := by
  unfold noteMigrated
  (repeat' split) <;> simp only [sizeHandles_kept, and_self]

theorem noteAborted_kept (s : State) (m) : (noteAborted s m).pending = s.pending ∧ (noteAborted s m).comp = s.comp := by
  unfold noteAborted
  dsimp only
  (repeat' split) <;> simp only [homeFull_kept, useHome_kept, and_self]

theorem answerOr_kept (s t : State) (p tag status value : Nat) (fx : List Effect) (h : t.pending = s.pending ∧ t.comp = s.comp) :
    ((answerInstr s p tag status value fx).getD t).pending = s.pending ∧
      ((answerInstr s p tag status value fx).getD t).comp = s.comp := by
  cases e : answerInstr s p tag status value fx with
  | none => exact h
  | some u => exact answerInstr_kept _ _ _ _ _ _ _ e

theorem partyEvent_kept (o : Out) (m : TMsg) (s : State) (f : State → State)
    (h : ∀ t, (f t).pending = t.pending ∧ (f t).comp = t.comp) :
    (after (partyEvent o m s f) s).pending = s.pending ∧ (after (partyEvent o m s f) s).comp = s.comp := by
  unfold partyEvent
  split
  · exact ⟨rfl, rfl⟩
  · split
    · simp only [after_next, strayMsg_kept, takeNoc_kept, and_self]
    · dsimp only
      rw [after_next]
      split <;> simp only [h, takeNoc_kept, and_self]

theorem execMigrateDone_kept (m) (s : State) : (after (execMigrateDone m s) s).pending = s.pending ∧ (after (execMigrateDone m s) s).comp = s.comp := by
  unfold execMigrateDone withEvent
  refine partyEvent_kept _ _ _ _ fun t => ?_
  split
  · simp only [doneAtSource_kept, lapse_kept, and_self]
  · have k : (noteMigrated (outcomeCame t m.toPart m.handle) m).pending = t.pending ∧
        (noteMigrated (outcomeCame t m.toPart m.handle) m).comp = t.comp := by
      simp only [noteMigrated_kept, outcomeCame_kept, and_self]
    refine ⟨(answerOr_kept _ _ _ _ _ _ _ (moveDone_kept _ _ _ _)).1.trans k.1, (answerOr_kept _ _ _ _ _ _ _ (moveDone_kept _ _ _ _)).2.trans k.2⟩

theorem execMigrateAbort_kept (m) (s : State) : (after (execMigrateAbort m s) s).pending = s.pending ∧ (after (execMigrateAbort m s) s).comp = s.comp := by
  unfold execMigrateAbort withEvent partyEvent
  dsimp only
  (repeat' split) <;> simp only [strayMsg_kept, takeNoc_kept, abortAtHome_kept, noteAborted_kept, outcomeCame_kept, dropMove_kept, answerInstr_getD_kept, after_next, and_self]

theorem outcomeFrom_kept (s : State) (p) (m) (move) : (outcomeFrom s p m move).pending = s.pending ∧ (outcomeFrom s p m move).comp = s.comp := by
  unfold outcomeFrom
  dsimp only
  (repeat' split) <;> simp only [outcomeCame_kept, sealAnswer_kept, moveDone_kept, returned_kept, dropMove_kept, replaceHandle_kept, confirmCatcher_kept, dropOffer_kept, giveUp_kept, and_self]

theorem execQueryReply_kept (m) (s : State) : (after (execQueryReply m s) s).pending = s.pending ∧ (after (execQueryReply m s) s).comp = s.comp := by
  unfold execQueryReply withEvent partyEvent
  dsimp only
  (repeat' split) <;> simp only [strayMsg_kept, takeNoc_kept, outcomeFrom_kept, answerInstr_getD_kept, after_next, and_self]

theorem askHome_kept (s : State) (p) (h) (move) : (askHome s p h move).pending = s.pending ∧ (askHome s p h move).comp = s.comp := by
  unfold askHome
  simp only [takeTag_kept, sendTrapeze_kept, modPart_kept, and_self]

theorem homeLost_kept (s : State) (p) (h) : (homeLost s p h).pending = s.pending ∧ (homeLost s p h).comp = s.comp := by
  unfold homeLost
  try simp only [returned_kept, askHome_kept, foldl_pending, foldl_comp, foldl1_pending, foldl1_comp, after_next, and_self, implies_true]
  all_goals (repeat' (split <;> ((try simp only [returned_kept, and_self]))))
  all_goals (first | done | (refine foldl_kept (fun s a => ?_) _ _ _ ?_ <;> (try dsimp only) <;> (try simp only [returned_kept, and_self]) <;> (repeat' (split <;> (try simp only [returned_kept, askHome_kept, and_self])))))

theorem execOutcomeWaitExpiry_kept (p) (tag) (s : State) : (after (execOutcomeWaitExpiry p tag s) s).pending = s.pending ∧ (after (execOutcomeWaitExpiry p tag s) s).comp = s.comp := by
  unfold execOutcomeWaitExpiry
  (repeat' split) <;> simp only [recoverBlock_kept, modPart_kept, outcomeCame_kept, homeLost_kept, dropMove_kept, askHome_kept, after_next, and_self]

theorem writeHostFrame_kept (s : State) (p) (g) (bs) : (writeHostFrame s p g bs).pending = s.pending ∧ (writeHostFrame s p g bs).comp = s.comp := by
  unfold writeHostFrame
  dsimp only
  (repeat' split) <;> simp only [enqueue_kept, foldl_pending, foldl_comp, implies_true, and_self]

theorem demoteTo_kept (s : State) (g) (f) (new) (bs) : (demoteTo s g f new bs).pending = s.pending ∧ (demoteTo s g f new bs).comp = s.comp := ⟨rfl, rfl⟩

theorem demoteOne_kept (s : State) (p) (e) : ((demoteOne s p e).1).pending = s.pending ∧ ((demoteOne s p e).1).comp = s.comp := by
  unfold demoteOne
  dsimp only
  (repeat' split) <;> simp only [noteRead_kept, tookRead_kept, demoteTo_kept, countEv_kept, writeHostFrame_kept, cacheFrame_kept, and_self]

theorem demoteFirst_kept (p : Nat) (es : List (Nat × Frame)) (s : State) : (demoteFirst p es s).pending = s.pending ∧ (demoteFirst p es s).comp = s.comp := by
  induction es generalizing s with
  | nil => exact ⟨rfl, rfl⟩
  | cons e es ih =>
    unfold demoteFirst
    dsimp only
    split <;> simp only [ih, demoteOne_kept, and_self]

theorem execDemotion_kept (p) (s : State) : (after (execDemotion p s) s).pending = s.pending ∧ (after (execDemotion p s) s).comp = s.comp := by
  unfold execDemotion
  (repeat' split) <;> simp only [modPart_kept, demoteFirst_kept, after_next, and_self]

/-! ## Attention -/

theorem attnHandle_kept (s : State) (r) (h) : ((attnHandle s r h).1).pending = s.pending ∧ ((attnHandle s r h).1).comp = s.comp := by
  unfold attnHandle
  split
  · exact ⟨rfl, rfl⟩
  · split
    · exact ⟨rfl, rfl⟩
    · extract_lets a s1 h1 st g
      have k : s1.pending = s.pending ∧ s1.comp = s.comp := by
        simp only [s1]
        split <;> simp only [countEv_kept, and_self]
      clear_value s1 a h1
      split
      · exact k
      · (repeat' split) <;> simp only [violation_kept, noteFenced_kept, touchFrame_kept, k, and_self]

theorem checkBlocks_kept (r : AttnRun) (hs : List Nat) (s : State) (cs) : ((checkBlocks r hs s cs).1).pending = s.pending ∧ ((checkBlocks r hs s cs).1).comp = s.comp := by
  induction hs generalizing s cs with
  | nil => exact ⟨rfl, rfl⟩
  | cons h hs ih =>
    unfold checkBlocks
    dsimp only
    split <;> simp only [ih, attnHandle_kept, and_self]

theorem placeGranules_kept (s : State) (p) (xs) : (placeGranules s p xs).pending = s.pending ∧ (placeGranules s p xs).comp = s.comp := by
  unfold placeGranules
  split <;> simp only [and_self]

theorem noteBlock_kept (s : State) (r) (g) (rows) : (noteBlock s r g rows).pending = s.pending ∧ (noteBlock s r g rows).comp = s.comp := by
  unfold noteBlock
  try simp only [noteRead_kept, foldl_pending, foldl_comp, foldl1_pending, foldl1_comp, after_next, and_self, implies_true]
  all_goals (repeat' (split <;> ((try simp only [noteRead_kept, foldl_pending, foldl_comp, foldl1_pending, foldl1_comp, after_next, and_self, implies_true]))))
  all_goals (first | done | (refine foldl_kept (fun s a => ?_) _ _ _ ?_ <;> (try dsimp only) <;> (try simp only [and_self]) <;> (repeat' (split <;> (try simp only [noteRead_kept, and_self])))))

theorem readGroup_kept (r : AttnRun) (es : List AttnEnt) (hs : List Nat) (j : Nat) (s : State) (bs : List BlockRead) :
    ((readGroup r es hs j s bs).1).pending = s.pending ∧ ((readGroup r es hs j s bs).1).comp = s.comp := by
  induction hs generalizing j s bs with
  | nil => exact ⟨rfl, rfl⟩
  | cons h hs ih =>
    unfold readGroup
    dsimp only
    (repeat' split) <;> simp only [ih, placeGranules_kept, noteBlock_kept, and_self]

theorem readEntry_kept (r) (all) (s : State) (read) (e) : ((readEntry r all s read e).1).pending = s.pending ∧ ((readEntry r all s read e).1).comp = s.comp := by
  unfold readEntry
  (repeat' split) <;> simp only [noteRead_kept, readGroup_kept, and_self]

theorem runEntries_kept (r : AttnRun) (all es : List (AttnEnt × Option (List Nat))) (s : State) (read) (out) :
    ((runEntries r all es s read out).1).pending = s.pending ∧ ((runEntries r all es s read out).1).comp = s.comp := by
  induction es generalizing s read out with
  | nil => exact ⟨rfl, rfl⟩
  | cons e es ih => simp only [runEntries, ih, readEntry_kept, and_self]

theorem takeEngines_kept (s : State) (p) : (takeEngines s p).pending = s.pending ∧ (takeEngines s p).comp = s.comp := ⟨rfl, rfl⟩

theorem leaveEngines_kept (s : State) (p) : (leaveEngines s p).pending = s.pending ∧ (leaveEngines s p).comp = s.comp := ⟨rfl, rfl⟩

theorem countAttention_kept (s : State) (p) (t) (blocks) : (countAttention s p t blocks).pending = s.pending ∧ (countAttention s p t blocks).comp = s.comp := by
  unfold countAttention
  (repeat' split) <;> simp only [modStream_kept, and_self]

theorem sendRequests_kept (w : IRef) (h : AttnHdr) (d : Nat) (q : List Byte) (es : List (AttnEnt × Option (List Nat)))
    (ts : List (Nat × Nat × Nat)) (s : State) : (sendRequests w h d q es ts s).pending = s.pending ∧ (sendRequests w h d q es ts s).comp = s.comp := by
  induction ts generalizing s with
  | nil => exact ⟨rfl, rfl⟩
  | cons t ts ih =>
    unfold sendRequests
    dsimp only
    (repeat' split) <;> simp only [ih, countAttention_kept, sendMsg_kept, modPart_kept, takeTag_kept, and_self]

theorem countMisses_kept (s : State) (p) (misses) : (countMisses s p misses).pending = s.pending ∧ (countMisses s p misses).comp = s.comp := by
  unfold countMisses
  simp only [countEv_kept, modPart_kept, foldl_pending, foldl_comp, implies_true, and_self]

theorem strictFault_kept (s : State) (w) (m) : (strictFault s w m).pending = s.pending ∧ (strictFault s w m).comp = s.comp := by
  unfold strictFault
  simp only [modPart_kept, report_kept, failWith_kept, and_self]

theorem actFault_kept (s : State) (w) : (actFault s w).pending = s.pending ∧ (actFault s w).comp = s.comp := by
  simp only [actFault, failWith_kept, modPart_kept, and_self]

theorem attendEnd_kept (s : State) (w) : (attendEnd s w).pending = s.pending ∧ (attendEnd s w).comp = s.comp := by
  unfold attendEnd
  split <;> simp only [modIssued_kept, and_self]

theorem attendIssue_kept (s : State) (w) : (attendIssue s w).pending = s.pending ∧ (attendIssue s w).comp = s.comp := by
  unfold attendIssue
  (repeat' split) <;> simp only [checkBlocks_kept, modIssued_kept, and_self]

theorem attendLocal_kept (s : State) (w) (misses) (act) : (attendLocal s w misses act).pending = s.pending ∧ (attendLocal s w misses act).comp = s.comp := by
  unfold attendLocal
  dsimp only
  (repeat' split) <;> simp only [readFault_kept, countMisses_kept, takeEngines_kept, strictFault_kept, actFault_kept, checkBlocks_kept, runEntries_kept, modIssued_kept, attendEnd_kept, leaveEngines_kept, foldl_pending, foldl_comp, implies_true, and_self]

theorem refuseUnread_kept (s : State) (w) (h) (d) (es) : (refuseUnread s w h d es).pending = s.pending ∧ (refuseUnread s w h d es).comp = s.comp := by
  unfold refuseUnread
  try simp only [modIssued_kept, noteRead_kept, foldl_pending, foldl_comp, foldl1_pending, foldl1_comp, after_next, and_self, implies_true]
  all_goals (repeat' (split <;> ((try simp only [modIssued_kept, noteRead_kept, foldl_pending, foldl_comp, foldl1_pending, foldl1_comp, after_next, and_self, implies_true]))))
  all_goals (first | done | (refine foldl_kept (fun s a => ?_) _ _ _ ?_ <;> (try dsimp only) <;> (try simp only [and_self]) <;> (repeat' (split <;> (try simp only [modIssued_kept, noteRead_kept, and_self])))))

theorem attendGo_kept (s : State) (w) (h) (d) (T) (es) (q) (misses) (act) : (attendGo s w h d T es q misses act).pending = s.pending ∧ (attendGo s w h d T es q misses act).comp = s.comp := by
  unfold attendGo
  dsimp only
  (repeat' split) <;> simp only [modIssued_kept, makeUndef_kept, sendRequests_kept, refuseUnread_kept, attendIssue_kept, attendLocal_kept, and_self]

theorem attendStart_kept (s : State) (w) (i) (misses) (act) : (attendStart s w i misses act).pending = s.pending ∧ (attendStart s w i misses act).comp = s.comp := by
  unfold attendStart
  dsimp only
  (repeat' split) <;> simp only [readFault_kept, failWith_kept, addressFault_kept, attendGo_kept, and_self]

theorem execAttend_kept (w) (misses) (act) (s : State) : (after (execAttend w misses act s) s).pending = s.pending ∧ (after (execAttend w misses act s) s).comp = s.comp := by
  unfold execAttend withInstr
  dsimp only
  (repeat' split) <;> simp only [attendStart_kept, attendLocal_kept, attendEnd_kept, after_next, and_self]

theorem answerAttend_kept (s : State) (m) (status) (body) : (answerAttend s m status body).pending = s.pending ∧ (answerAttend s m status body).comp = s.comp := by
  unfold answerAttend
  simp only [sendMsg_kept, and_self]

theorem execAttendReq_kept (m) (s : State) : (after (execAttendReq m s) s).pending = s.pending ∧ (after (execAttendReq m s) s).comp = s.comp := by
  unfold execAttendReq
  dsimp only
  (repeat' split) <;> simp only [strayMsg_kept, takeNoc_kept, answerAttend_kept, modPart_kept, stayNoc_kept, after_next, and_self]

theorem checkInbox_kept (s : State) (m) : ((checkInbox s m).1).pending = s.pending ∧ ((checkInbox s m).1).comp = s.comp := by
  unfold checkInbox
  split <;> simp only [checkBlocks_kept, and_self]

theorem runAttendReq_kept (s : State) (m) (checks) (bad) : (runAttendReq s m checks bad).pending = s.pending ∧ (runAttendReq s m checks bad).comp = s.comp := by
  unfold runAttendReq
  dsimp only
  (repeat' split) <;> simp only [answerAttend_kept, countMisses_kept, takeEngines_kept, draw_kept, runEntries_kept, leaveEngines_kept, and_self]

theorem serveInbox_kept (s : State) (p) : (serveInbox s p).pending = s.pending ∧ (serveInbox s p).comp = s.comp := by
  unfold serveInbox
  dsimp only
  (repeat' split) <;> simp only [modPart_kept, runAttendReq_kept, checkInbox_kept, and_self]

theorem refuseEntries_kept (s : State) (r) (st) : (refuseEntries s r st).pending = s.pending ∧ (refuseEntries s r st).comp = s.comp := by
  unfold refuseEntries
  (repeat' split) <;> simp only [modIssued_kept, attendEnd_kept, foldl_pending, foldl_comp, implies_true, and_self]

theorem placeResponse_kept (s : State) (r) (m) : (placeResponse s r m).pending = s.pending ∧ (placeResponse s r m).comp = s.comp := by
  unfold placeResponse
  (repeat' split) <;> simp only [modIssued_kept, noteFenced_kept, attendEnd_kept, foldl_pending, foldl_comp, implies_true, and_self]

theorem dropRemote_kept (s : State) (p) (tag) : (dropRemote s p tag).pending = s.pending ∧ (dropRemote s p tag).comp = s.comp := ⟨rfl, rfl⟩

theorem execAttendResp_kept (m) (s : State) : (after (execAttendResp m s) s).pending = s.pending ∧ (after (execAttendResp m s) s).comp = s.comp := by
  unfold execAttendResp
  dsimp only
  (repeat' split) <;> simp only [strayMsg_kept, takeNoc_kept, countEv_kept, modPart_kept, dropRemote_kept, placeResponse_kept, refuseEntries_kept, noteFenced_kept, after_next, and_self]

theorem execRemoteWaitExpiry_kept (p) (tag) (dead) (s : State) : (after (execRemoteWaitExpiry p tag dead s) s).pending = s.pending ∧ (after (execRemoteWaitExpiry p tag dead s) s).comp = s.comp := by
  unfold execRemoteWaitExpiry
  (repeat' split) <;> simp only [refuseEntries_kept, clearReport_kept, dropRemote_kept, after_next, and_self]

theorem execMerge_kept (w) (s : State) : (after (execMerge w s) s).pending = s.pending ∧ (after (execMerge w s) s).comp = s.comp := by
  unfold execMerge withInstr
  dsimp only
  (repeat' split) <;> simp only [readFault_kept, failWith_kept, addressFault_kept, finish_kept, undefWrites_kept, after_next, and_self]

theorem unbindSlots_kept (s : State) (p) (engine) (slot) (n) : (unbindSlots s p engine slot n).pending = s.pending ∧ (unbindSlots s p engine slot n).comp = s.comp := ⟨rfl, rfl⟩

theorem copyAct_kept (s : State) (engine) (slot) (image) : (copyAct s engine slot image).pending = s.pending ∧ (copyAct s engine slot image).comp = s.comp := ⟨rfl, rfl⟩

theorem execLoadact_kept (w) (s : State) : (after (execLoadact w s) s).pending = s.pending ∧ (after (execLoadact w s) s).comp = s.comp := by
  unfold execLoadact withInstr
  dsimp only
  (repeat' split) <;> simp only [readFault_kept, failWith_kept, addressFault_kept, copyAct_kept, unbindSlots_kept, finish_kept, after_next, foldl_pending, foldl_comp, implies_true, and_self]

theorem bindAct_kept (s : State) (p) (engines) (key) (slot) : (bindAct s p engines key slot).pending = s.pending ∧ (bindAct s p engines key slot).comp = s.comp := by
  unfold bindAct
  simp only [modPart_kept, foldl_pending, foldl_comp, implies_true, and_self]

end Sys2Proof.Machine
end

