-- ==== Sys2Proof/Laws/KeptLinks.lean ====
section
/-! SUPPORT. What Tlaley, the memory channels, restarts, issue and commit, time and containment leave unchanged: the queue of waiting commands and the composition record in force. -/

set_option Elab.async false
set_option linter.unusedTactic false
set_option linter.unreachableTactic false
set_option linter.unnecessarySeqFocus false

namespace Sys2Proof.Machine

open Sys2Proof.Safety (after)

/-! ## Tlaley -/

theorem sendNextPacket_kept (s : State) (port) (n) : (sendNextPacket s port n).pending = s.pending ∧ (sendNextPacket s port n).comp = s.comp := by
  unfold sendNextPacket
  dsimp only
  (repeat' split) <;> simp only [beginXfer_kept, modStream_kept, modConn_kept, enqueueFrame_kept, and_self]

theorem sendNextResponse_kept (s : State) (port) (n) : (sendNextResponse s port n).pending = s.pending ∧ (sendNextResponse s port n).comp = s.comp := by
  unfold sendNextResponse
  dsimp only
  (repeat' split) <;> simp only [enqueueFrame_kept, modConn_kept, and_self]

theorem sendTurn_kept (s : State) (port) (n) : (sendTurn s port n).pending = s.pending ∧ (sendTurn s port n).comp = s.comp := by
  unfold sendTurn
  dsimp only
  (repeat' split) <;> simp only [sendNextResponse_kept, sendNextPacket_kept, and_self]

theorem pump_kept (s : State) (port) : (pump s port).pending = s.pending ∧ (pump s port).comp = s.comp := by
  unfold pump
  simp only [sendTurn_kept, foldl_pending, foldl_comp, implies_true, and_self]

theorem execPortFrameSend_kept (port) (s : State) : (after (execPortFrameSend port s) s).pending = s.pending ∧ (after (execPortFrameSend port s) s).comp = s.comp := by
  unfold execPortFrameSend
  dsimp only
  (repeat' split) <;> simp only [pump_kept, examine_kept, sendFrame_kept, after_next, foldl_pending, foldl_comp, implies_true, and_self]

theorem ackTo_kept (s : State) (n) (upTo) (past) : (ackTo s n upTo past).pending = s.pending ∧ (ackTo s n upTo past).comp = s.comp := by
  unfold ackTo
  try simp only []
  all_goals (repeat' (split <;> ((try simp only [modConn_kept, endXfer_kept, foldl_pending, foldl_comp, and_self, implies_true]))))
  all_goals (first | done | (refine foldl_kept (fun s a => ?_) _ _ _ ?_ <;> (try dsimp only) <;> (try simp only [modConn_kept, endXfer_kept, foldl_pending, foldl_comp, foldl1_pending, foldl1_comp, after_next, and_self, implies_true]) <;> (repeat' (split <;> (try simp only [modConn_kept, endXfer_kept, foldl_pending, foldl_comp, foldl1_pending, foldl1_comp, after_next, and_self, implies_true])))))

theorem goBack_kept (s : State) (n) : (goBack s n).pending = s.pending ∧ (goBack s n).comp = s.comp := ⟨rfl, rfl⟩

theorem failConn_kept (s : State) (n) : (failConn s n).pending = s.pending ∧ (failConn s n).comp = s.comp := by
  unfold failConn
  dsimp only
  (repeat' split) <;> simp only [freeConn_kept, finish_kept, modConn_kept, dropSegs_kept, endXfer_kept, foldl_pending, foldl_comp, implies_true, and_self]

theorem discardFrame_kept (s : State) (port) : (discardFrame s port).pending = s.pending ∧ (discardFrame s port).comp = s.comp := ⟨rfl, rfl⟩

theorem tlaleyError_kept (s : State) (port) : (tlaleyError s port).pending = s.pending ∧ (tlaleyError s port).comp = s.comp := ⟨rfl, rfl⟩

theorem sendAck_kept (s : State) (n) (tc) : (sendAck s n tc).pending = s.pending ∧ (sendAck s n tc).comp = s.comp := by
  unfold sendAck
  simp only [modConn_kept, sendControl_kept, and_self]

theorem sendNak_kept (s : State) (n) (tc) (syndrome) (apsn) (status) (delay) : (sendNak s n tc syndrome apsn status delay).pending = s.pending ∧ (sendNak s n tc syndrome apsn status delay).comp = s.comp := by
  unfold sendNak
  simp only [sendControl_kept, and_self]

theorem echoMark_kept (s : State) (n) (k) : (echoMark s n k).pending = s.pending ∧ (echoMark s n k).comp = s.comp := by
  unfold echoMark
  dsimp only
  (repeat' split) <;> simp only [modConn_kept, countEv_kept, sendControl_kept, and_self]

theorem accept_kept (s : State) (n) (k) (psns) : (accept s n k psns).pending = s.pending ∧ (accept s n k psns).comp = s.comp := by
  unfold accept
  dsimp only
  (repeat' split) <;> simp only [modConn_kept, sendAck_kept, and_self]

theorem remoteViolation_kept (s : State) (c) (raddr) : (remoteViolation s c raddr).pending = s.pending ∧ (remoteViolation s c raddr).comp = s.comp := by
  unfold remoteViolation
  simp only [report_kept, and_self]

theorem segmentIn_kept (s : State) (n) (k) : (segmentIn s n k).pending = s.pending ∧ (segmentIn s n k).comp = s.comp := by
  unfold segmentIn
  split <;> simp only [modFar_kept, and_self]

theorem nakAccess_kept (s : State) (n) (k) : (nakAccess s n k).pending = s.pending ∧ (nakAccess s n k).comp = s.comp := by
  unfold nakAccess
  simp only [accept_kept, sendNak_kept, remoteViolation_kept, and_self]

theorem nakRefused_kept (s : State) (n) (k) (st) (addr) : (nakRefused s n k st addr).pending = s.pending ∧ (nakRefused s n k st addr).comp = s.comp := by
  unfold nakRefused
  (repeat' split) <;> simp only [violation_kept, accept_kept, sendNak_kept, and_self]

theorem applySegment_kept (s : State) (n) (k) (bs) : (applySegment s n k bs).pending = s.pending ∧ (applySegment s n k bs).comp = s.comp := by
  unfold applySegment
  dsimp only
  (repeat' split) <;> simp only [modConn_kept, accept_kept, tlaleyError_kept, nakAccess_kept, malformed_kept, takeSegment_kept, nakRefused_kept, and_self]

theorem applySegmentPacket_kept (s : State) (n) (k) : (applySegmentPacket s n k).pending = s.pending ∧ (applySegmentPacket s n k).comp = s.comp := by
  unfold applySegmentPacket
  dsimp only
  (repeat' split) <;> simp only [accept_kept, modConn_kept, nakAccess_kept, applySegment_kept, and_self]

theorem applyRemoteWrite_kept (s : State) (n) (k) : (applyRemoteWrite s n k).pending = s.pending ∧ (applyRemoteWrite s n k).comp = s.comp := by
  unfold applyRemoteWrite
  dsimp only
  (repeat' split) <;> simp only [applySegmentPacket_kept, nakAccess_kept, nakRefused_kept, outsideWrite_kept, accept_kept, and_self]

theorem sendResponses_kept (s : State) (n) (k) (bs) : (sendResponses s n k bs).pending = s.pending ∧ (sendResponses s n k bs).comp = s.comp := ⟨rfl, rfl⟩

theorem applyRead_kept (s : State) (n) (k) (again) : (applyRead s n k again).pending = s.pending ∧ (applyRead s n k again).comp = s.comp := by
  unfold applyRead
  dsimp only
  (repeat' split) <;> simp only [accept_kept, sendNak_kept, remoteViolation_kept, nakAccess_kept, nakRefused_kept, countEv_kept, outsideRead_kept, sendResponses_kept, and_self]

theorem sendNotReady_kept (s : State) (n) (k) : (sendNotReady s n k).pending = s.pending ∧ (sendNotReady s n k).comp = s.comp := by
  unfold sendNotReady
  simp only [countEv_kept, sendNak_kept, and_self]

theorem applySend_kept (s : State) (n) (k) : (applySend s n k).pending = s.pending ∧ (applySend s n k).comp = s.comp := by
  unfold applySend
  dsimp only
  (repeat' split) <;> simp only [accept_kept, modConn_kept, sendNotReady_kept, handDevice_kept, tlaleyError_kept, malformed_kept, nakRefused_kept, deliverInbox_kept, and_self]

theorem takeRequest_kept (s : State) (n) (k) : (takeRequest s n k).pending = s.pending ∧ (takeRequest s n k).comp = s.comp := by
  unfold takeRequest
  dsimp only
  (repeat' split) <;> simp only [segmentIn_kept, applyRemoteWrite_kept, applyRead_kept, applySend_kept, countEv_kept, sendAck_kept, sendNak_kept, modConn_kept, and_self]

theorem takeResponse_kept (s : State) (n) (k) : (takeResponse s n k).pending = s.pending ∧ (takeResponse s n k).comp = s.comp := by
  unfold takeResponse
  dsimp only
  (repeat' split) <;> simp only [modIssued_kept, ackTo_kept, and_self]

theorem takeNak_kept (s : State) (n) (k) : (takeNak s n k).pending = s.pending ∧ (takeNak s n k).comp = s.comp := by
  unfold takeNak
  dsimp only
  (repeat' split) <;> simp only [goBack_kept, ackTo_kept, modConn_kept, remoteViolation_kept, and_self]

theorem takeEcho_kept (s : State) (n) (port) : (takeEcho s n port).pending = s.pending ∧ (takeEcho s n port).comp = s.comp := by
  unfold takeEcho
  (repeat' split) <;> simp only [countEv_kept, modConn_kept, and_self]

theorem takePacket_kept (s : State) (n) (k) : (takePacket s n k).pending = s.pending ∧ (takePacket s n k).comp = s.comp := by
  unfold takePacket
  (repeat' split) <;> simp only [takeRequest_kept, takeResponse_kept, ackTo_kept, takeNak_kept, takeEcho_kept, and_self]

theorem holdPacket_kept (s : State) (n) (h) : (holdPacket s n h).pending = s.pending ∧ (holdPacket s n h).comp = s.comp := by
  unfold holdPacket
  dsimp only
  (repeat' split) <;> simp only [modConn_kept, sendNotReady_kept, and_self]

theorem enterConn_kept (s : State) (k) : (enterConn s k).pending = s.pending ∧ (enterConn s k).comp = s.comp := by
  unfold enterConn
  dsimp only
  (repeat' split) <;> simp only [discardFrame_kept, echoMark_kept, tlaleyError_kept, takePacket_kept, holdPacket_kept, and_self]

theorem flowControl_kept (s : State) (port) : (flowControl s port).pending = s.pending ∧ (flowControl s port).comp = s.comp := by
  unfold flowControl
  dsimp only
  (repeat' split) <;> simp only [emitOut_kept, modFar_kept, and_self]

theorem farTurn_kept (s : State) (o : Out) (port len : Nat) (stuck : Bool) (act : State → State)
    (h : ∀ t, (act t).pending = t.pending ∧ (act t).comp = t.comp) :
    (after (farTurn s o port len stuck act) s).pending = s.pending ∧ (after (farTurn s o port len stuck act) s).comp = s.comp := by
  unfold farTurn
  dsimp only
  (repeat' split) <;> simp only [h, flowControl_kept, modFar_kept, countEv_kept, discardFrame_kept, after_next, and_self]

theorem onTlaley_kept (op) (k) (s : State) : (after (onTlaley op k s) s).pending = s.pending ∧ (after (onTlaley op k s) s).comp = s.comp := by
  unfold onTlaley
  simp only [farTurn_kept, enterConn_kept, implies_true, and_self]

theorem execWrite_kept (k) (s : State) : (after (execWrite k s) s).pending = s.pending ∧ (after (execWrite k s) s).comp = s.comp := by
  unfold execWrite
  simp only [onTlaley_kept, and_self]

theorem execReadReq_kept (k) (s : State) : (after (execReadReq k s) s).pending = s.pending ∧ (after (execReadReq k s) s).comp = s.comp := by
  unfold execReadReq
  simp only [onTlaley_kept, and_self]

theorem execReadResp_kept (k) (s : State) : (after (execReadResp k s) s).pending = s.pending ∧ (after (execReadResp k s) s).comp = s.comp := by
  unfold execReadResp
  simp only [onTlaley_kept, and_self]

theorem execSendPkt_kept (k) (s : State) : (after (execSendPkt k s) s).pending = s.pending ∧ (after (execSendPkt k s) s).comp = s.comp := by
  unfold execSendPkt
  simp only [onTlaley_kept, and_self]

theorem execAck_kept (k) (s : State) : (after (execAck k s) s).pending = s.pending ∧ (after (execAck k s) s).comp = s.comp := by
  unfold execAck
  simp only [onTlaley_kept, and_self]

theorem execNak_kept (k) (s : State) : (after (execNak k s) s).pending = s.pending ∧ (after (execNak k s) s).comp = s.comp := by
  unfold execNak
  simp only [onTlaley_kept, and_self]

theorem execEcho_kept (k) (s : State) : (after (execEcho k s) s).pending = s.pending ∧ (after (execEcho k s) s).comp = s.comp := by
  unfold execEcho
  simp only [onTlaley_kept, and_self]

theorem notice_kept (s : State) (p) (r) (ip) : (notice s p r ip).pending = s.pending ∧ (notice s p r ip).comp = s.comp := by
  unfold notice
  simp only [deliverInbox_kept, and_self]

theorem answerConn_kept (s : State) (via) (k) (op) (part) (level) (r0) (r) (ip) : (answerConn s via k op part level r0 r ip).pending = s.pending ∧ (answerConn s via k op part level r0 r ip).comp = s.comp := by
  unfold answerConn
  split <;> simp only [enqueueFrame_kept, and_self]

theorem answerOpen_kept (s : State) (k) (r) (ip) (status) (conn) : (answerOpen s k r ip status conn).pending = s.pending ∧ (answerOpen s k r ip status conn).comp = s.comp := by
  unfold answerOpen
  simp only [answerConn_kept, and_self]

theorem takeOpen_kept (k) (r) (ip) (s : State) : (takeOpen k r ip s).pending = s.pending ∧ (takeOpen k r ip s).comp = s.comp := by
  unfold takeOpen
  (repeat' split) <;> simp only [tlaleyError_kept, discardFrame_kept, answerConn_kept, answerOpen_kept, modConn_kept, takeConn_kept, makeRoom_kept, notice_kept, and_self]

theorem execOpen_kept (k) (r) (ip) (s : State) : (after (execOpen k r ip s) s).pending = s.pending ∧ (after (execOpen k r ip s) s).comp = s.comp := by
  unfold execOpen
  simp only [farTurn_kept, takeOpen_kept, implies_true, and_self]

theorem openFails_kept (s : State) (n) (status) : (openFails s n status).pending = s.pending ∧ (openFails s n status).comp = s.comp := by
  unfold openFails
  dsimp only
  (repeat' split) <;> simp only [endXfer_kept, freeConn_kept, failWith_kept, foldl_pending, foldl_comp, implies_true, and_self]

theorem takeOpenAck_kept (k) (r) (s : State) : (takeOpenAck k r s).pending = s.pending ∧ (takeOpenAck k r s).comp = s.comp := by
  unfold takeOpenAck
  dsimp only
  (repeat' split) <;> simp only [discardFrame_kept, tlaleyError_kept, openFails_kept, modConn_kept, modIssued_kept, and_self]

theorem execOpenAck_kept (k) (r) (s : State) : (after (execOpenAck k r s) s).pending = s.pending ∧ (after (execOpenAck k r s) s).comp = s.comp := by
  unfold execOpenAck
  simp only [farTurn_kept, takeOpenAck_kept, implies_true, and_self]

theorem execOpenRetry_kept (n) (s : State) : (after (execOpenRetry n s) s).pending = s.pending ∧ (after (execOpenRetry n s) s).comp = s.comp := by
  unfold execOpenRetry
  dsimp only
  (repeat' split) <;> simp only [sendOpen_kept, openFails_kept, after_next, and_self]

theorem closedByPeer_kept (s : State) (n) : (closedByPeer s n).pending = s.pending ∧ (closedByPeer s n).comp = s.comp := by
  unfold closedByPeer
  dsimp only
  (repeat' split) <;> simp only [freeConn_kept, openFails_kept, endXfer_kept, finish_kept, foldl_pending, foldl_comp, implies_true, and_self]

theorem closeNow_kept (s : State) (k) (r) (ip) : (closeNow s k r ip).pending = s.pending ∧ (closeNow s k r ip).comp = s.comp := by
  unfold closeNow
  dsimp only
  (repeat' split) <;> simp only [closedByPeer_kept, notice_kept, answerConn_kept, and_self]

theorem takeClose_kept (k) (r) (ip) (s : State) : (takeClose k r ip s).pending = s.pending ∧ (takeClose k r ip s).comp = s.comp := by
  unfold takeClose
  dsimp only
  (repeat' split) <;> simp only [answerConn_kept, discardFrame_kept, tlaleyError_kept, holdPacket_kept, closeNow_kept, and_self]

theorem execClose_kept (k) (r) (ip) (s : State) : (after (execClose k r ip s) s).pending = s.pending ∧ (after (execClose k r ip s) s).comp = s.comp := by
  unfold execClose
  simp only [farTurn_kept, takeClose_kept, implies_true, and_self]

theorem takeCloseAck_kept (k) (s : State) : (takeCloseAck k s).pending = s.pending ∧ (takeCloseAck k s).comp = s.comp := by
  unfold takeCloseAck
  dsimp only
  (repeat' split) <;> simp only [discardFrame_kept, tlaleyError_kept, closedByPeer_kept, and_self]

theorem execCloseAck_kept (k) (r) (s : State) : (after (execCloseAck k r s) s).pending = s.pending ∧ (after (execCloseAck k r s) s).comp = s.comp := by
  unfold execCloseAck
  simp only [farTurn_kept, takeCloseAck_kept, implies_true, and_self]

theorem execCloseRetry_kept (n) (s : State) : (after (execCloseRetry n s) s).pending = s.pending ∧ (after (execCloseRetry n s) s).comp = s.comp := by
  unfold execCloseRetry
  dsimp only
  (repeat' split) <;> simp only [sendClose_kept, closedByPeer_kept, after_next, and_self]

theorem execAckTimer_kept (n) (s : State) : (after (execAckTimer n s) s).pending = s.pending ∧ (after (execAckTimer n s) s).comp = s.comp := by
  unfold execAckTimer
  (repeat' split) <;> simp only [sendAck_kept, after_next, and_self]

theorem execRtoExpiry_kept (n) (s : State) : (after (execRtoExpiry n s) s).pending = s.pending ∧ (after (execRtoExpiry n s) s).comp = s.comp := by
  unfold execRtoExpiry
  dsimp only
  (repeat' split) <;> simp only [failConn_kept, goBack_kept, modConn_kept, after_next, and_self]

theorem execRnrDelayExpiry_kept (n) (s : State) : (after (execRnrDelayExpiry n s) s).pending = s.pending ∧ (after (execRnrDelayExpiry n s) s).comp = s.comp := by
  unfold execRnrDelayExpiry
  dsimp only
  (repeat' split) <;> simp only [countEv_kept, modConn_kept, after_next, and_self]

theorem execCcPeriodEnd_kept (n) (s : State) : (after (execCcPeriodEnd n s) s).pending = s.pending ∧ (after (execCcPeriodEnd n s) s).comp = s.comp := by
  unfold execCcPeriodEnd
  try simp only []
  all_goals (repeat' (split <;> ((try simp only [modConn_kept, after_next, and_self]))))
  all_goals (first | done | (refine foldl_kept (fun s a => ?_) _ _ _ ?_ <;> (try dsimp only) <;> (try simp only [modConn_kept, foldl_pending, foldl_comp, foldl1_pending, foldl1_comp, after_next, and_self, implies_true]) <;> (repeat' (split <;> (try simp only [modConn_kept, foldl_pending, foldl_comp, foldl1_pending, foldl1_comp, after_next, and_self, implies_true])))))

theorem takeHeld_kept (s : State) (n) (h) : (takeHeld s n h).pending = s.pending ∧ (takeHeld s n h).comp = s.comp := by
  unfold takeHeld
  dsimp only
  (repeat' split) <;> simp only [discardFrame_kept, closeNow_kept, takePacket_kept, and_self]

theorem execStateFetchDone_kept (n) (ok) (s : State) : (after (execStateFetchDone n ok s) s).pending = s.pending ∧ (after (execStateFetchDone n ok s) s).comp = s.comp := by
  unfold execStateFetchDone
  dsimp only
  (repeat' split) <;> simp only [modConn_kept, makeRoom_kept, takeHeld_kept, failConn_kept, after_next, foldl_pending, foldl_comp, implies_true, and_self]

theorem movePorts_kept (before) (s : State) : (movePorts before s).pending = s.pending ∧ (movePorts before s).comp = s.comp := by
  unfold movePorts
  try simp only [modConn_kept, dropSegs_kept, foldl_pending, foldl_comp, foldl1_pending, foldl1_comp, after_next, and_self, implies_true]
  all_goals (repeat' (split <;> ((try simp only [modConn_kept, dropSegs_kept, foldl_pending, foldl_comp, foldl1_pending, foldl1_comp, after_next, and_self, implies_true]))))
  all_goals (first | done | (refine foldl_kept (fun s a => ?_) _ _ _ ?_ <;> (try dsimp only) <;> (try simp only [and_self]) <;> (repeat' (split <;> (try simp only [modConn_kept, dropSegs_kept, and_self])))))

theorem farDown_kept (s : State) (port) : (farDown s port).pending = s.pending ∧ (farDown s port).comp = s.comp := by
  unfold farDown
  simp only [modFar_kept, modTs_kept, movePorts_kept, report_kept, and_self]

theorem execWavelengthFailure_kept (port) (e) (s : State) : (after (execWavelengthFailure port e s) s).pending = s.pending ∧ (after (execWavelengthFailure port e s) s).comp = s.comp := by
  unfold execWavelengthFailure
  dsimp only
  (repeat' split) <;> simp only [logSpare_kept, modFar_kept, farDown_kept, movePorts_kept, after_next, and_self]

theorem execSpareWavelengthReady_kept (port) (s : State) : (after (execSpareWavelengthReady port s) s).pending = s.pending ∧ (after (execSpareWavelengthReady port s) s).comp = s.comp := by
  unfold execSpareWavelengthReady
  try simp only []
  all_goals (repeat' (split <;> ((try simp only [movePorts_kept, logSpare_kept, modFar_kept, after_next, and_self]))))
  all_goals (first | done | (refine foldl_kept (fun s a => ?_) _ _ _ ?_ <;> (try dsimp only) <;> (try simp only [movePorts_kept, logSpare_kept, modFar_kept, foldl_pending, foldl_comp, foldl1_pending, foldl1_comp, after_next, and_self, implies_true]) <;> (repeat' (split <;> (try simp only [movePorts_kept, logSpare_kept, modFar_kept, foldl_pending, foldl_comp, foldl1_pending, foldl1_comp, after_next, and_self, implies_true])))))

theorem execFarPortTraining_kept (port) (wavelengths) (prbs13) (s : State) : (after (execFarPortTraining port wavelengths prbs13 s) s).pending = s.pending ∧ (after (execFarPortTraining port wavelengths prbs13 s) s).comp = s.comp := by
  unfold execFarPortTraining
  try simp only []
  all_goals (repeat' (split <;> ((try simp only [modFar_kept, logSpare_kept, movePorts_kept, farDown_kept, after_next, and_self]))))
  all_goals (first | done | (refine foldl_kept (fun s a => ?_) _ _ _ ?_ <;> (try dsimp only) <;> (try simp only [logSpare_kept, and_self]) <;> (repeat' (split <;> (try simp only [modFar_kept, logSpare_kept, movePorts_kept, farDown_kept, foldl_pending, foldl_comp, foldl1_pending, foldl1_comp, after_next, and_self, implies_true])))))

theorem execPfcFrame_kept (port) (prio) (pause) (s : State) : (after (execPfcFrame port prio pause s) s).pending = s.pending ∧ (after (execPfcFrame port prio pause s) s).comp = s.comp := by
  unfold execPfcFrame
  (repeat' split) <;> simp only [modFar_kept, after_next, and_self]

theorem execPfcPauseLimit_kept (port) (prio) (s : State) : (after (execPfcPauseLimit port prio s) s).pending = s.pending ∧ (after (execPfcPauseLimit port prio s) s).comp = s.comp := by
  unfold execPfcPauseLimit
  try simp only []
  all_goals (repeat' (split <;> ((try simp only [report_kept, modFar_kept, after_next, and_self]))))
  all_goals (first | done | (refine foldl_kept (fun s a => ?_) _ _ _ ?_ <;> (try dsimp only) <;> (try simp only [report_kept, modFar_kept, foldl_pending, foldl_comp, foldl1_pending, foldl1_comp, after_next, and_self, implies_true]) <;> (repeat' (split <;> (try simp only [report_kept, modFar_kept, foldl_pending, foldl_comp, foldl1_pending, foldl1_comp, after_next, and_self, implies_true])))))

theorem execNonTlaleyFrame_kept (e) (s : State) : (after (execNonTlaleyFrame e s) s).pending = s.pending ∧ (after (execNonTlaleyFrame e s) s).comp = s.comp := by
  unfold execNonTlaleyFrame
  dsimp only
  (repeat' split) <;> simp only [countEv_kept, tlaleyError_kept, discardFrame_kept, after_next, and_self]

/-! ## Memory -/

theorem repairFrame_kept (s : State) (g) : (repairFrame s g).pending = s.pending ∧ (repairFrame s g).comp = s.comp := by
  unfold repairFrame
  dsimp only
  constructor <;> (repeat' split) <;> simp only [loseFrame_kept, returnedToBoth_kept, transition_kept, abortAtSource_kept, sendAbort_kept, freeFrame_kept, dropMigration_kept, journal_kept, setFrame_kept]

theorem failUncorrectable_kept (s : State) (w) : (failUncorrectable s w).pending = s.pending ∧ (failUncorrectable s w).comp = s.comp := by
  unfold failUncorrectable
  try simp only [failWith_kept, foldl_pending, foldl_comp, foldl1_pending, foldl1_comp, after_next, and_self, implies_true]
  all_goals (repeat' (split <;> ((try simp only [failWith_kept, and_self]))))
  all_goals (first | done | (refine foldl_kept (fun s a => ?_) _ _ _ ?_ <;> (try dsimp only) <;> (try simp only [failWith_kept, foldl_pending, foldl_comp, foldl1_pending, foldl1_comp, after_next, and_self, implies_true]) <;> (repeat' (split <;> (try simp only [failWith_kept, foldl_pending, foldl_comp, foldl1_pending, foldl1_comp, after_next, and_self, implies_true])))))

theorem uncorrectableRead_kept (s : State) (addr) (x2) : (uncorrectableRead s addr x2).pending = s.pending ∧ (uncorrectableRead s addr x2).comp = s.comp := by
  unfold uncorrectableRead
  (repeat' split) <;> simp only [modPart_kept, modIssued_kept, failWith_kept, failUncorrectable_kept, respond_kept, nakRefused_kept, emitOut_kept, modQueue_kept, repairFrame_kept, rewriteWords_kept, comparePos_kept, failConn_kept, and_self]

theorem uncorrectableWrite_kept (s : State) (addr) (x2) : (uncorrectableWrite s addr x2).pending = s.pending ∧ (uncorrectableWrite s addr x2).comp = s.comp := by
  unfold uncorrectableWrite
  split <;> simp only [failUncorrectable_kept, respond_kept, nakRefused_kept, and_self]

theorem countRetries_kept (s : State) (c) (crcFails) : (countRetries s c crcFails).pending = s.pending ∧ (countRetries s c crcFails).comp = s.comp := by
  unfold countRetries
  split <;> simp only [countEv_kept, and_self]

theorem readWords_kept (s : State) (noise : List PinNoise) (u : MemUser) (addr : Nat) (ws : List Nat) :
    (readWords s noise u addr ws).pending = s.pending ∧ (readWords s noise u addr ws).comp = s.comp := by
  induction ws generalizing s with
  | nil => exact ⟨rfl, rfl⟩
  | cons w ws ih =>
    unfold readWords
    dsimp only
    split <;> simp only [ih, uncorrectableAt_kept, countWord_kept, and_self]

theorem writeWords_kept (noise : List PinNoise) (exhausted : Bool) (u : MemUser) (addr : Nat) (bs : List Byte) (ws : List Nat) (s : State) :
    (writeWords noise exhausted u addr bs ws s).1.pending = s.pending ∧ (writeWords noise exhausted u addr bs ws s).1.comp = s.comp := by
  induction ws generalizing s with
  | nil => exact ⟨rfl, rfl⟩
  | cons w ws ih =>
    unfold writeWords
    simp only [ih]
    (repeat' split) <;> simp only [rewriteWords_kept, writeWord_kept, readWords_kept, and_self]

theorem execMcAccess_kept (addr) (op) (u) (noise) (crcFails) (s : State) : (after (execMcAccess addr op u noise crcFails s) s).pending = s.pending ∧ (after (execMcAccess addr op u noise crcFails s) s).comp = s.comp := by
  unfold execMcAccess
  try simp only []
  all_goals (repeat' (split <;> ((try simp only [countRetries_kept, countEv_kept, readWords_kept, noteAccess_kept, uncorrectableRead_kept, writeWords_kept, report_kept, uncorrectableWrite_kept, after_next, and_self]))))
  all_goals (first | done | (refine foldl_kept (fun s a => ?_) _ _ _ ?_ <;> (try dsimp only) <;> (try simp only [countRetries_kept, countEv_kept, readWords_kept, noteAccess_kept, uncorrectableRead_kept, writeWords_kept, report_kept, uncorrectableWrite_kept, foldl_pending, foldl_comp, foldl1_pending, foldl1_comp, after_next, and_self, implies_true]) <;> (repeat' (split <;> (try simp only [countRetries_kept, countEv_kept, readWords_kept, noteAccess_kept, uncorrectableRead_kept, writeWords_kept, report_kept, uncorrectableWrite_kept, foldl_pending, foldl_comp, foldl1_pending, foldl1_comp, after_next, and_self, implies_true])))))

theorem execCorrectionCountClear_kept (s : State) : (after (execCorrectionCountClear s) s).pending = s.pending ∧ (after (execCorrectionCountClear s) s).comp = s.comp := by
  unfold execCorrectionCountClear
  split <;> simp only [after_next, and_self]

theorem scrubWord_kept (s : State) (noise) (w) : (scrubWord s noise w).pending = s.pending ∧ (scrubWord s noise w).comp = s.comp := by
  unfold scrubWord
  try simp only [countWord_kept]
  all_goals (repeat' (split <;> ((try simp only [uncorrectableAt_kept, and_self]))))
  all_goals (first | done | (refine foldl_kept (fun s a => ?_) _ _ _ ?_ <;> (try dsimp only) <;> (try simp only [countWord_kept, uncorrectableAt_kept, foldl_pending, foldl_comp, foldl1_pending, foldl1_comp, after_next, and_self, implies_true]) <;> (repeat' (split <;> (try simp only [countWord_kept, uncorrectableAt_kept, foldl_pending, foldl_comp, foldl1_pending, foldl1_comp, after_next, and_self, implies_true])))))

theorem scrubBoundary_kept (s : State) (c) : (scrubBoundary s c).pending = s.pending ∧ (scrubBoundary s c).comp = s.comp := by
  unfold scrubBoundary
  try simp only [modChan_kept]
  all_goals (repeat' (split <;> ((try simp only [modChan_kept, and_self]))))
  all_goals (first | done | (refine foldl_kept (fun s a => ?_) _ _ _ ?_ <;> (try dsimp only) <;> (try simp only [modChan_kept, foldl_pending, foldl_comp, foldl1_pending, foldl1_comp, after_next, and_self, implies_true]) <;> (repeat' (split <;> (try simp only [modChan_kept, foldl_pending, foldl_comp, foldl1_pending, foldl1_comp, after_next, and_self, implies_true])))))

theorem execScrubGranule_kept (c) (noise) (s : State) : (after (execScrubGranule c noise s) s).pending = s.pending ∧ (after (execScrubGranule c noise s) s).comp = s.comp := by
  unfold execScrubGranule
  try simp only []
  all_goals (repeat' (split <;> ((try simp only [scrubBoundary_kept, scrubWord_kept, modChan_kept, noteAccess_kept, foldl_pending, foldl_comp, after_next, and_self, implies_true]))))
  all_goals (first | done | (refine foldl_kept (fun s a => ?_) _ _ _ ?_ <;> (try dsimp only) <;> (try simp only [scrubBoundary_kept, scrubWord_kept, modChan_kept, noteAccess_kept, foldl_pending, foldl_comp, foldl1_pending, foldl1_comp, after_next, and_self, implies_true]) <;> (repeat' (split <;> (try simp only [scrubBoundary_kept, scrubWord_kept, modChan_kept, noteAccess_kept, foldl_pending, foldl_comp, foldl1_pending, foldl1_comp, after_next, and_self, implies_true])))))

theorem execRefreshSlot_kept (c) (s : State) : (after (execRefreshSlot c s) s).pending = s.pending ∧ (after (execRefreshSlot c s) s).comp = s.comp := by
  unfold execRefreshSlot
  split <;> simp only [countEv_kept, modChan_kept, after_next, and_self]

theorem execDramTempSample_kept (temps) (s : State) : (after (execDramTempSample temps s) s).pending = s.pending ∧ (after (execDramTempSample temps s) s).comp = s.comp := by
  unfold execDramTempSample
  try simp only [modChan_kept, foldl_pending, foldl_comp, foldl1_pending, foldl1_comp, after_next, and_self, implies_true]
  all_goals (repeat' (split <;> ((try simp only [modChan_kept, foldl_pending, foldl_comp, after_next, and_self, implies_true]))))
  all_goals (first | done | (refine foldl_kept (fun s a => ?_) _ _ _ ?_ <;> (try dsimp only) <;> (try simp only [modChan_kept, foldl_pending, foldl_comp, foldl1_pending, foldl1_comp, after_next, and_self, implies_true]) <;> (repeat' (split <;> (try simp only [modChan_kept, foldl_pending, foldl_comp, foldl1_pending, foldl1_comp, after_next, and_self, implies_true])))))

/-! ## Restart -/

theorem returnTokens_kept (s : State) (p) (q) : (returnTokens s p q).pending = s.pending ∧ (returnTokens s p q).comp = s.comp := by
  unfold returnTokens
  simp only [semAdd_kept, modPart_kept, foldl_pending, foldl_comp, implies_true, and_self]

theorem forgetWork_kept (s : State) (p) (q) (idxs) : (forgetWork s p q idxs).pending = s.pending ∧ (forgetWork s p q idxs).comp = s.comp := ⟨rfl, rfl⟩

theorem freeRebuilt_kept (s : State) (i) : (freeRebuilt s i).pending = s.pending ∧ (freeRebuilt s i).comp = s.comp := by
  unfold freeRebuilt
  split <;> simp only [freeFrame_kept, and_self]

theorem unhalt_kept (s : State) (p) (q) (i) : (unhalt s p q i).pending = s.pending ∧ (unhalt s p q i).comp = s.comp := by
  unfold unhalt
  dsimp only
  (repeat' split) <;> simp only [modQueue_kept, and_self]

theorem abandonQueue_kept (s : State) (p) (q) : (abandonQueue s p q).pending = s.pending ∧ (abandonQueue s p q).comp = s.comp := by
  unfold abandonQueue
  simp only [unhalt_kept, freeRebuilt_kept, forgetWork_kept, returnTokens_kept, modQueue_kept, foldl_pending, foldl_comp, implies_true, and_self]

theorem loosePointers_kept (s : State) (p) (q) : (loosePointers s p q).pending = s.pending ∧ (loosePointers s p q).comp = s.comp := ⟨rfl, rfl⟩

theorem tearQueue_kept (s : State) (p) (q) : (tearQueue s p q).pending = s.pending ∧ (tearQueue s p q).comp = s.comp := by
  unfold tearQueue
  dsimp only
  (repeat' split) <;> simp only [modQueue_kept, abandonQueue_kept, loosePointers_kept, and_self]

theorem teardown_kept (s : State) (p) (q) (level) : (teardown s p q level).pending = s.pending ∧ (teardown s p q level).comp = s.comp := by
  unfold teardown
  simp only [tearQueue_kept, handled_kept, report_kept, and_self]

theorem logFault_kept (s : State) (cause) (parts) (detail) : (logFault s cause parts detail).pending = s.pending ∧ (logFault s cause parts detail).comp = s.comp := by
  unfold logFault
  simp only [logService_kept, and_self]

theorem startPart_kept (s : State) (p) (P) : (startPart s p P).pending = s.pending ∧ (startPart s p P).comp = s.comp := by
  unfold startPart
  dsimp only
  (repeat' split) <;> simp only [logFault_kept, setPart_kept, and_self]

theorem preemptPart_kept (s : State) (p) : (preemptPart s p).pending = s.pending ∧ (preemptPart s p).comp = s.comp := by
  unfold preemptPart
  (repeat' split) <;> simp only [abandonQueue_kept, modPart_kept, foldl_pending, foldl_comp, implies_true, and_self]

theorem savePointers_kept (s : State) (p) (q) : (savePointers s p q).pending = s.pending ∧ (savePointers s p q).comp = s.comp := by
  unfold savePointers
  dsimp only
  (repeat' split) <;> simp only [devPut_kept, and_self]

theorem reloadQueue_kept (s : State) (p) (q) : (reloadQueue s p q).pending = s.pending ∧ (reloadQueue s p q).comp = s.comp := by
  unfold reloadQueue
  split <;> simp only [modQueue_kept, and_self]

theorem resumePart_kept (s : State) (p) : (resumePart s p).pending = s.pending ∧ (resumePart s p).comp = s.comp := by
  unfold resumePart
  (repeat' split) <;> simp only [reloadQueue_kept, modPart_kept, foldl_pending, foldl_comp, implies_true, and_self]

theorem finishPreempt_kept (s : State) (p) : (finishPreempt s p).pending = s.pending ∧ (finishPreempt s p).comp = s.comp := by
  unfold finishPreempt
  dsimp only
  (repeat' split) <;> simp only [savePointers_kept, modQueue_kept, modPart_kept, resumePart_kept, foldl_pending, foldl_comp, implies_true, and_self]

theorem execPreemptDrained_kept (p) (s : State) : (after (execPreemptDrained p s) s).pending = s.pending ∧ (after (execPreemptDrained p s) s).comp = s.comp := by
  unfold execPreemptDrained
  split <;> simp only [finishPreempt_kept, after_next, and_self]

theorem dropDeviceConns_kept (s : State) (p) : (dropDeviceConns s p).pending = s.pending ∧ (dropDeviceConns s p).comp = s.comp := by
  unfold dropDeviceConns
  simp only [reportXfers_kept, freeConn_kept, foldl_pending, foldl_comp, implies_true, and_self]

theorem forgetPart_kept (s : State) (p) : (forgetPart s p).pending = s.pending ∧ (forgetPart s p).comp = s.comp := ⟨rfl, rfl⟩

theorem lostAtRestart_kept (p) (s : State) (e) : (lostAtRestart p s e).pending = s.pending ∧ (lostAtRestart p s e).comp = s.comp := by
  unfold lostAtRestart
  simp only [retire_kept, and_self]

theorem endRequests_kept (s : State) (p) : (endRequests s p).pending = s.pending ∧ (endRequests s p).comp = s.comp := by
  unfold endRequests
  exact foldl_kept (lostAtRestart_kept p) _ _ _ ⟨rfl, rfl⟩

theorem finishRestart_kept (s : State) (p) : (finishRestart s p).pending = s.pending ∧ (finishRestart s p).comp = s.comp := by
  unfold finishRestart
  simp only [dropDeviceConns_kept, applyFence_kept, endRequests_kept, startPart_kept, forgetPart_kept, and_self]

theorem continueRestart_kept (s : State) (p) : (continueRestart s p).pending = s.pending ∧ (continueRestart s p).comp = s.comp := by
  unfold continueRestart
  split <;> simp only [finishRestart_kept, and_self]

theorem restartPart_kept (s : State) (p) (cause) : (restartPart s p cause).pending = s.pending ∧ (restartPart s p cause).comp = s.comp := by
  unfold restartPart
  dsimp only
  (repeat' split) <;> simp only [report_kept, tearQueue_kept, answerAttend_kept, modPart_kept, continueRestart_kept, foldl_pending, foldl_comp, implies_true, and_self]

/-! ## Commit -/

theorem endUndef_kept (s : State) (i) (st) : (endUndef s i st).pending = s.pending ∧ (endUndef s i st).comp = s.comp := by
  unfold endUndef
  split <;> simp only [and_self]

theorem writeCpl_kept (s : State) (p) (q) (i) (st) (result) (signalled) : (writeCpl s p q i st result signalled).pending = s.pending ∧ (writeCpl s p q i st result signalled).comp = s.comp := by
  unfold writeCpl
  simp only [raiseVf_kept, modQueue_kept, ringWrite_getD_kept, and_self]

theorem leaveQueue_kept (s : State) (p) (q) (i) : (leaveQueue s p q i).pending = s.pending ∧ (leaveQueue s p q i).comp = s.comp := ⟨rfl, rfl⟩

theorem applyEffect_kept (p : Nat) (w : IRef) (a : State × Nat) (e : Effect) :
    (applyEffect p w a e).1.pending = a.1.pending ∧ (applyEffect p w a e).1.comp = a.1.comp := by
  cases e with
  | jobStatus jobs => exact foldl_kept (fun s x => jobOutcome_kept _ _ _ _ _) _ _ _ ⟨rfl, rfl⟩
  | snapArm t =>
    unfold applyEffect
    dsimp only
    split <;> exact ⟨rfl, rfl⟩
  | _ =>
    unfold applyEffect
    simp only [devPut_kept, setRec_kept, commitReq_kept, rollbackReq_kept, emitReq_kept, retireReq_kept, commitStep_kept,
      reclaimReq_kept, moveIfShared_kept, charge_kept, refund_kept, admitCommit_kept, serve_kept, semAdd_kept, setSem_kept, bindAct_kept,
      setStream_kept, setReduce_kept, readStats_kept, modPart_kept, modQueue_kept, and_self]

theorem commitNow_kept (s : State) (p) (q) (i) (st) (record) : (commitNow s p q i st record).pending = s.pending ∧ (commitNow s p q i st record).comp = s.comp := by
  unfold commitNow
  have h1 : ∀ (w : IRef) (es : List Effect) (a : State × Nat), (es.foldl (applyEffect p w) a).1.pending = a.1.pending :=
    fun w es a => foldl1_pending _ (fun x e => (applyEffect_kept p w x e).1) es a
  have h2 : ∀ (w : IRef) (es : List Effect) (a : State × Nat), (es.foldl (applyEffect p w) a).1.comp = a.1.comp :=
    fun w es a => foldl1_comp _ (fun x e => (applyEffect_kept p w x e).2) es a
  have h3 : ∀ (w : IRef) (es : List Effect) (t : State), (es.foldl (fun s e => (applyEffect p w (s, 0) e).1) t).pending = t.pending :=
    fun w es t => foldl_pending _ (fun x e => (applyEffect_kept p w (x, 0) e).1) es t
  have h4 : ∀ (w : IRef) (es : List Effect) (t : State), (es.foldl (fun s e => (applyEffect p w (s, 0) e).1) t).comp = t.comp :=
    fun w es t => foldl_comp _ (fun x e => (applyEffect_kept p w (x, 0) e).2) es t
  constructor
  · simp only [apply_ite State.pending, ite_self, continueRestart_kept, loosePointers_kept, handled_kept, countEv_kept, h3,
      modQueue_kept, modPart_kept, serve_kept, semAdd_kept, writeCpl_kept, leaveQueue_kept, h1, endUndef_kept]
  · simp only [apply_ite State.comp, ite_self, continueRestart_kept, loosePointers_kept, handled_kept, countEv_kept, h4,
      modQueue_kept, modPart_kept, serve_kept, semAdd_kept, writeCpl_kept, leaveQueue_kept, h2, endUndef_kept]

theorem admitAgain_kept (s : State) (w) (i) : (admitAgain s w i).pending = s.pending ∧ (admitAgain s w i).comp = s.comp := by
  unfold admitAgain
  dsimp only
  (repeat' split) <;> simp only [modIssued_kept, finish_kept, holdRefused_kept, countEv_kept, and_self]

theorem refuseSealed_kept (s : State) (w) (i) : (refuseSealed s w i).pending = s.pending ∧ (refuseSealed s w i).comp = s.comp := by
  unfold refuseSealed
  split <;> simp only [violation_kept, modIssued_kept, and_self]

theorem refuseParts_kept (s : State) (w) (i) : (refuseParts s w i).pending = s.pending ∧ (refuseParts s w i).comp = s.comp := by
  unfold refuseParts
  dsimp only
  (repeat' split) <;> simp only [noteAccess_kept, uncorrectableAt_kept, modIssued_kept, foldl_pending, foldl_comp, implies_true, and_self]

theorem settleHead_kept (s : State) (w) : (settleHead s w).pending = s.pending ∧ (settleHead s w).comp = s.comp := by
  unfold settleHead
  dsimp only
  (repeat' split) <;> simp only [tookRead_kept, admitAgain_kept, refuseSealed_kept, refuseParts_kept, foldl_pending, foldl_comp, implies_true, and_self]

theorem commitWith_kept (s : State) (p) (q) (i) : (commitWith s p q i).pending = s.pending ∧ (commitWith s p q i).comp = s.comp := by
  unfold commitWith
  dsimp only
  (repeat' split) <;> simp only [settleHead_kept, commitNow_kept, modQueue_kept, and_self]

theorem commitHead_kept (s : State) (p) (q) : (commitHead s p q).pending = s.pending ∧ (commitHead s p q).comp = s.comp := by
  unfold commitHead
  (repeat' split) <;> simp only [commitWith_kept, and_self]

theorem execInstructionCommit_kept (p) (q) (s : State) : (after (execInstructionCommit p q s) s).pending = s.pending ∧ (after (execInstructionCommit p q s) s).comp = s.comp := by
  unfold execInstructionCommit
  (repeat' split) <;> simp only [modQueue_kept, endRebuildIn_kept, commitHead_kept, after_next, and_self]

theorem lookAheadOn_kept (s : State) (p) (q) (f) : (lookAheadOn s p q f).pending = s.pending ∧ (lookAheadOn s p q f).comp = s.comp := by
  unfold lookAheadOn
  dsimp only
  (repeat' split) <;> simp only [noteRead_kept, handled_kept, modQueue_kept, modPart_kept, serve_kept, and_self]

theorem lookAhead_kept (p) (s : State) (q) : (lookAhead p s q).pending = s.pending ∧ (lookAhead p s q).comp = s.comp := by
  unfold lookAhead
  split <;> simp only [lookAheadOn_kept, and_self]

theorem setCredit_kept (s : State) (p) (q) (c) : (setCredit s p q c).pending = s.pending ∧ (setCredit s p q c).comp = s.comp := by
  unfold setCredit
  split <;> simp only [modPart_kept, modQueue_kept, and_self]

theorem roundRobin_kept (s : State) (p) (qs) : ((roundRobin s p qs).1).pending = s.pending ∧ ((roundRobin s p qs).1).comp = s.comp := by
  unfold roundRobin
  dsimp only
  (repeat' split) <;> simp only [setCredit_kept, foldl_pending, foldl_comp, implies_true, and_self]

theorem issueWords_kept (s : State) (p) (q) (ws) (n) (st) : (issueWords s p q ws n st).pending = s.pending ∧ (issueWords s p q ws n st).comp = s.comp := by
  unfold issueWords
  try simp only []
  all_goals (repeat' (split <;> ((try simp only [modQueue_kept, modPart_kept, violation_kept, and_self]))))
  all_goals (first | done | (refine foldl_kept (fun s a => ?_) _ _ _ ?_ <;> (try dsimp only) <;> (try simp only [modQueue_kept, modPart_kept, and_self]) <;> (repeat' (split <;> (try simp only [modIssued_kept, makeUndef_kept, and_self])))))

theorem fetchTook_kept (s : State) (p) (q) (n) : (fetchTook s p q n).pending = s.pending ∧ (fetchTook s p q n).comp = s.comp := by
  unfold fetchTook
  dsimp only
  (repeat' split) <;> simp only [tookRead_kept, foldl_pending, foldl_comp, implies_true, and_self]

theorem issueFetched_kept (s : State) (p) (q) (f) : (issueFetched s p q f).pending = s.pending ∧ (issueFetched s p q f).comp = s.comp := by
  unfold issueFetched
  split <;> simp only [modQueue_kept, issueWords_kept, fetchTook_kept, and_self]

theorem issueFrom_kept (s : State) (p) (q) : (issueFrom s p q).pending = s.pending ∧ (issueFrom s p q).comp = s.comp := by
  unfold issueFrom
  simp only [issueFetched_kept, and_self]

theorem issueTo_kept (s : State) (p) (pick) : (issueTo s p pick).pending = s.pending ∧ (issueTo s p pick).comp = s.comp := by
  unfold issueTo
  (repeat' split) <;> simp only [serveInbox_kept, issueFrom_kept, and_self]

theorem execInstructionIssue_kept (p) (s : State) : (after (execInstructionIssue p s) s).pending = s.pending ∧ (after (execInstructionIssue p s) s).comp = s.comp := by
  unfold execInstructionIssue
  split
  · exact ⟨rfl, rfl⟩
  · have h : ∀ (l : List Nat) (t : State), (l.foldl (lookAhead p) t).pending = t.pending ∧ (l.foldl (lookAhead p) t).comp = t.comp :=
      fun l t => foldl_kept (lookAhead_kept p) l t t ⟨rfl, rfl⟩
    simp only [after_next, issueTo_kept, roundRobin_kept, h, and_self]

/-! ## Clock -/

theorem countPauses_kept (s : State) : (countPauses s).pending = s.pending ∧ (countPauses s).comp = s.comp := by
  unfold countPauses
  simp only [countEv_kept, foldl_pending, foldl_comp, implies_true, and_self]

theorem countHeld_kept (s : State) : (countHeld s).pending = s.pending ∧ (countHeld s).comp = s.comp := by
  unfold countHeld
  simp only [countEv_kept, foldl_pending, foldl_comp, implies_true, and_self]

theorem countRingWaits_kept (s : State) : (countRingWaits s).pending = s.pending ∧ (countRingWaits s).comp = s.comp := by
  unfold countRingWaits
  refine foldl_kept (fun s a => foldl_kept (fun s q => ?_) _ _ _ ⟨rfl, rfl⟩) _ _ _ ⟨rfl, rfl⟩
  (repeat' split) <;> simp only [countEv_kept, and_self]

theorem countPaced_kept (s : State) : (countPaced s).pending = s.pending ∧ (countPaced s).comp = s.comp := ⟨rfl, rfl⟩

theorem tick_kept (s : State) : (tick s).pending = s.pending ∧ (tick s).comp = s.comp := by
  unfold tick
  dsimp only
  (repeat' split) <;> simp only [countPaced_kept, countRingWaits_kept, countHeld_kept, countPauses_kept, and_self]

theorem modTime_kept (s : State) (f) : (modTime s f).pending = s.pending ∧ (modTime s f).comp = s.comp := ⟨rfl, rfl⟩

theorem modPtp_kept (s : State) (f) : (modPtp s f).pending = s.pending ∧ (modPtp s f).comp = s.comp := ⟨rfl, rfl⟩

theorem askDelay_kept (s : State) (origin) : (askDelay s origin).pending = s.pending ∧ (askDelay s origin).comp = s.comp := ⟨rfl, rfl⟩

theorem takeOffset_kept (s : State) (offset) : (takeOffset s offset).pending = s.pending ∧ (takeOffset s offset).comp = s.comp := ⟨rfl, rfl⟩

theorem execPtpMessage_kept (m) (s : State) : (after (execPtpMessage m s) s).pending = s.pending ∧ (after (execPtpMessage m s) s).comp = s.comp := by
  unfold execPtpMessage
  dsimp only
  (repeat' split) <;> simp only [modPtp_kept, askDelay_kept, takeOffset_kept, after_next, and_self]

theorem execPpsPulse_kept (interval) (s : State) : (after (execPpsPulse interval s) s).pending = s.pending ∧ (after (execPpsPulse interval s) s).comp = s.comp := by
  unfold execPpsPulse
  split <;> simp only [modTime_kept, after_next, and_self]

theorem execTimeSourceLoss_kept (s : State) : (after (execTimeSourceLoss s) s).pending = s.pending ∧ (after (execTimeSourceLoss s) s).comp = s.comp := by
  unfold execTimeSourceLoss
  split <;> simp only [modTime_kept, after_next, and_self]

theorem execRef10mSignal_kept (valid) (s : State) : (after (execRef10mSignal valid s) s).pending = s.pending ∧ (after (execRef10mSignal valid s) s).comp = s.comp := by
  unfold execRef10mSignal
  split <;> simp only [modTime_kept, after_next, and_self]

theorem slew_kept (s : State) : (slew s).pending = s.pending ∧ (slew s).comp = s.comp := by
  unfold slew
  (repeat' split) <;> simp only [modTime_kept, and_self]

theorem execTimeCorrection_kept (s : State) : (after (execTimeCorrection s) s).pending = s.pending ∧ (after (execTimeCorrection s) s).comp = s.comp := by
  unfold execTimeCorrection
  split <;> simp only [slew_kept, draw_kept, after_next, and_self]

theorem execSnapLatch_kept (s : State) : (after (execSnapLatch s) s).pending = s.pending ∧ (after (execSnapLatch s) s).comp = s.comp := by
  unfold execSnapLatch
  (repeat' split) <;> simp only [after_next, and_self]

/-! ## Contain -/

theorem escalate_kept (s : State) (x1) : (escalate s x1).pending = s.pending ∧ (escalate s x1).comp = s.comp := by
  unfold escalate
  try simp only [failRequest_kept, teardown_kept, restartPart_kept, stopModule_kept, foldl_pending, foldl_comp, foldl1_pending, foldl1_comp, after_next, and_self, implies_true]
  all_goals (repeat' (split <;> ((try simp only [failRequest_kept, teardown_kept, restartPart_kept, stopModule_kept, and_self]))))
  all_goals (first | done | (refine foldl_kept (fun s a => ?_) _ _ _ ?_ <;> (try dsimp only) <;> (try simp only [failRequest_kept, teardown_kept, restartPart_kept, stopModule_kept, foldl_pending, foldl_comp, foldl1_pending, foldl1_comp, after_next, and_self, implies_true]) <;> (repeat' (split <;> (try simp only [failRequest_kept, teardown_kept, restartPart_kept, stopModule_kept, foldl_pending, foldl_comp, foldl1_pending, foldl1_comp, after_next, and_self, implies_true])))))

theorem execContainmentTimeout_kept (e) (s : State) : (after (execContainmentTimeout e s) s).pending = s.pending ∧ (after (execContainmentTimeout e s) s).comp = s.comp := by
  unfold execContainmentTimeout
  dsimp only
  (repeat' split) <;> simp only [report_kept, escalate_kept, after_next, and_self]

theorem execQueueIssueStateFault_kept (p) (q) (s : State) : (after (execQueueIssueStateFault p q s) s).pending = s.pending ∧ (after (execQueueIssueStateFault p q s) s).comp = s.comp := by
  unfold execQueueIssueStateFault
  split <;> simp only [teardown_kept, after_next, and_self]

theorem recordFailure_kept (s : State) (core) (n) : (recordFailure s core n).pending = s.pending ∧ (recordFailure s core n).comp = s.comp := by
  unfold recordFailure
  simp only [logSpare_kept, report_kept, and_self]

theorem execEngineFailure_kept (n) (s : State) : (after (execEngineFailure n s) s).pending = s.pending ∧ (after (execEngineFailure n s) s).comp = s.comp := by
  unfold execEngineFailure
  dsimp only
  (repeat' split) <;> simp only [recordFailure_kept, failWith_kept, after_next, foldl_pending, foldl_comp, implies_true, and_self]

theorem execCoreFailure_kept (n) (s : State) : (after (execCoreFailure n s) s).pending = s.pending ∧ (after (execCoreFailure n s) s).comp = s.comp := by
  unfold execCoreFailure
  dsimp only
  (repeat' split) <;> simp only [recordFailure_kept, restartPart_kept, after_next, foldl_pending, foldl_comp, implies_true, and_self]

theorem execSyFault_kept (s : State) : (after (execSyFault s) s).pending = s.pending ∧ (after (execSyFault s) s).comp = s.comp := by
  unfold execSyFault
  split <;> simp only [stopModule_kept, after_next, and_self]

theorem resetVf_kept (s : State) (p) : (resetVf s p).pending = s.pending ∧ (resetVf s p).comp = s.comp := by
  unfold resetVf
  simp only [teardown_kept, modPart_kept, foldl_pending, foldl_comp, implies_true, and_self]

theorem execFunctionLevelReset_kept (p) (s : State) : (after (execFunctionLevelReset p s) s).pending = s.pending ∧ (after (execFunctionLevelReset p s) s).comp = s.comp := by
  unfold execFunctionLevelReset
  split <;> simp only [resetVf_kept, after_next, and_self]

theorem failTierReads_kept (s : State) : (failTierReads s).pending = s.pending ∧ (failTierReads s).comp = s.comp := ⟨rfl, rfl⟩

theorem resetFns_kept (s : State) (g) : (resetFns s g).pending = s.pending ∧ (resetFns s g).comp = s.comp := by
  unfold resetFns
  (repeat' split) <;> simp only [resetVf_kept, foldl_pending, foldl_comp, implies_true, and_self]

theorem dropLink_kept (s : State) (g) : (dropLink s g).pending = s.pending ∧ (dropLink s g).comp = s.comp := by
  unfold dropLink
  simp only [failTierReads_kept, resetFns_kept, modTs_kept, and_self]

theorem execHostLinkLoss_kept (e) (s : State) : (after (execHostLinkLoss e s) s).pending = s.pending ∧ (after (execHostLinkLoss e s) s).comp = s.comp := by
  unfold execHostLinkLoss
  (repeat' split) <;> simp only [dropLink_kept, resetFns_kept, after_next, and_self]

theorem execHostLinkUp_kept (g) (x) (s : State) : (after (execHostLinkUp g x s) s).pending = s.pending ∧ (after (execHostLinkUp g x s) s).comp = s.comp := by
  unfold execHostLinkUp
  (repeat' split) <;> simp only [emitOut_kept, after_next, and_self]

end Sys2Proof.Machine
end

