-- ==== Sys2Proof/Laws/KeptBlock.lean ====
section
/-! SUPPORT. What power, the start of the module, management and the registers leave unchanged, and from it what every command leaves unchanged (R433): the queue of waiting commands, and the composition record in force. -/

set_option Elab.async false
set_option linter.unusedTactic false
set_option linter.unreachableTactic false
set_option linter.unnecessarySeqFocus false

namespace Sys2Proof.Machine

open Sys2Proof.Safety (after)

/-! ## Lifecycle -/

theorem mgmtEvent_kept (s : State) (e) : (mgmtEvent s e).pending = s.pending ∧ (mgmtEvent s e).comp = s.comp := by
  unfold mgmtEvent
  simp only [raisePfs_kept, and_self]

theorem execEnAssert_kept (s : State) : (after (execEnAssert s) s).pending = s.pending ∧ (after (execEnAssert s) s).comp = s.comp := by
  unfold execEnAssert
  split <;> simp only [after_next, and_self]

theorem execUndervoltageLockoutRelease_kept (s : State) : (after (execUndervoltageLockoutRelease s) s).pending = s.pending ∧ (after (execUndervoltageLockoutRelease s) s).comp = s.comp := ⟨rfl, rfl⟩

theorem logFirmware_kept (s : State) (event) (slot) : (logFirmware s event slot).pending = s.pending ∧ (logFirmware s event slot).comp = s.comp := by
  unfold logFirmware
  simp only [logService_kept, and_self]

theorem computeHealth_kept (s : State) : (computeHealth s).pending = s.pending ∧ (computeHealth s).comp = s.comp := ⟨rfl, rfl⟩

theorem writePeriodic_kept (s : State) (energy) : (writePeriodic s energy).pending = s.pending ∧ (writePeriodic s energy).comp = s.comp := by
  unfold writePeriodic
  simp only [logService_kept, computeHealth_kept, and_self]

theorem execPeriodic_kept (energy) (s : State) : (after (execPeriodic energy s) s).pending = s.pending ∧ (after (execPeriodic energy s) s).comp = s.comp := by
  unfold execPeriodic
  split <;> simp only [writePeriodic_kept, after_next, and_self]

theorem stopPartitions_kept (s : State) : (stopPartitions s).pending = s.pending ∧ (stopPartitions s).comp = s.comp := ⟨rfl, rfl⟩

theorem beginShutdown_kept (s : State) : (beginShutdown s).pending = s.pending ∧ (beginShutdown s).comp = s.comp := by
  unfold beginShutdown
  simp only [stopPartitions_kept, writePeriodic_kept, and_self]

theorem execShutdownCommand_kept (s : State) : (after (execShutdownCommand s) s).pending = s.pending ∧ (after (execShutdownCommand s) s).comp = s.comp := by
  unfold execShutdownCommand
  (repeat' split) <;> simp only [beginShutdown_kept, after_next, and_self]

theorem execShutdownTestDone_kept (misr) (repair) (units) (s : State) : (after (execShutdownTestDone misr repair units s) s).pending = s.pending ∧ (after (execShutdownTestDone misr repair units s) s).comp = s.comp := by
  unfold execShutdownTestDone
  split <;> simp only [logService_kept, mgmtEvent_kept, after_next, and_self]

theorem logSanitise_kept (s : State) (completed) (release) (authority) (verified) : (logSanitise s completed release authority verified).pending = s.pending ∧ (logSanitise s completed release authority verified).comp = s.comp := by
  unfold logSanitise
  simp only [logService_kept, and_self]

theorem sanitised_kept (s : State) (release) (authority) : (sanitised s release authority).pending = s.pending ∧ (sanitised s release authority).comp = s.comp := by
  unfold sanitised
  simp only [logSanitise_kept, and_self]

theorem execSanitiseCommand_kept (release) (authority) (r) (v) (s : State) : (after (execSanitiseCommand release authority r v s) s).pending = s.pending ∧ (after (execSanitiseCommand release authority r v s) s).comp = s.comp := by
  unfold execSanitiseCommand
  split <;> simp only [logSanitise_kept, draw_kept, stopPartitions_kept, after_next, and_self]

theorem execSanitiseDramDone_kept (ok) (s : State) : (after (execSanitiseDramDone ok s) s).pending = s.pending ∧ (after (execSanitiseDramDone ok s) s).comp = s.comp := by
  unfold execSanitiseDramDone
  (repeat' split) <;> simp only [mgmtEvent_kept, stopModule_kept, draw_kept, sanitised_kept, after_next, and_self]

theorem logStart_kept (s : State) (ok) (step) : (logStart s ok step).pending = s.pending ∧ (logStart s ok step).comp = s.comp := by
  unfold logStart
  simp only [logService_kept, and_self]

theorem failStart_kept (s : State) (step) (cause) : (failStart s step cause).pending = s.pending ∧ (failStart s step cause).comp = s.comp := by
  unfold failStart
  split <;> simp only [logStart_kept, emitOut_kept, mgmtEvent_kept, and_self]

theorem stepDone_kept (s : State) (k) : (stepDone s k).pending = s.pending ∧ (stepDone s k).comp = s.comp := ⟨rfl, rfl⟩

theorem bootFirmware_kept (s : State) : (bootFirmware s).pending = s.pending ∧ (bootFirmware s).comp = s.comp := by
  unfold bootFirmware
  dsimp only
  (repeat' split) <;> simp only [stepDone_kept, logFirmware_kept, failStart_kept, and_self]

theorem resumeSanitise_kept (s : State) (ok) (t : State) (h : resumeSanitise s ok = some t) : (t).pending = s.pending ∧ (t).comp = s.comp := by
  unfold resumeSanitise at h
  (repeat' split at h) <;> first | (cases h; done) | (cases h; simp only [sanitised_kept, and_self])

theorem startTime_kept (s : State) : (startTime s).pending = s.pending ∧ (startTime s).comp = s.comp := ⟨rfl, rfl⟩

theorem noteFinal_kept (s : State) : (noteFinal s).pending = s.pending ∧ (noteFinal s).comp = s.comp := by
  unfold noteFinal
  split <;> simp only [logFault_kept, and_self]

theorem applyRepair_kept (s : State) (map) : (applyRepair s map).pending = s.pending ∧ (applyRepair s map).comp = s.comp := by
  unfold applyRepair
  split <;> simp only [logSpare_kept, draw_kept, and_self]

theorem bootSpares_kept (s : State) (f) : (bootSpares s f).pending = s.pending ∧ (bootSpares s f).comp = s.comp := by
  unfold bootSpares
  dsimp only
  (repeat' split) <;> simp only [logSpare_kept, stepDone_kept, applyRepair_kept, and_self]

theorem startParts_kept (s : State) : (startParts s).pending = s.pending ∧ (startParts s).comp = s.comp := by
  unfold startParts
  try simp only []
  all_goals (repeat' (split <;> ((try simp only [logFault_kept]))))
  all_goals (first | done | (refine foldl_kept (fun s a => ?_) _ _ _ ?_ <;> (try dsimp only) <;> (try simp only [and_self]) <;> (repeat' (split <;> (try simp only [setPart_kept, startPart_kept, and_self])))))

theorem finishRecert_kept (s : State) : (finishRecert s).pending = s.pending ∧ (finishRecert s).comp = s.comp := by
  unfold finishRecert
  split <;> simp only [mgmtEvent_kept, logService_kept, and_self]

theorem bootReady_kept (s : State) : (bootReady s).pending = s.pending ∧ (bootReady s).comp = s.comp := by
  unfold bootReady
  dsimp only
  (repeat' split) <;> simp only [stepDone_kept, startParts_kept, logStart_kept, logFirmware_kept, computeHealth_kept, finishRecert_kept, beginShutdown_kept, and_self]

theorem execBootCommand_kept (c) (s : State) : (after (execBootCommand c s) s).pending = s.pending ∧ (after (execBootCommand c s) s).comp = s.comp := by
  unfold execBootCommand
  split <;> simp only [after_next, and_self]

theorem execBootCommandTimeout_kept (s : State) : (after (execBootCommandTimeout s) s).pending = s.pending ∧ (after (execBootCommandTimeout s) s).comp = s.comp := by
  unfold execBootCommandTimeout
  split <;> simp only [after_next, and_self]

/-! ## Manage -/

theorem mgmtSay_kept (s : State) (what) (values) (data) : (mgmtSay s what values data).pending = s.pending ∧ (mgmtSay s what values data).comp = s.comp := ⟨rfl, rfl⟩

theorem mgmtRefuse_kept (s : State) (what) : (mgmtRefuse s what).pending = s.pending ∧ (mgmtRefuse s what).comp = s.comp := ⟨rfl, rfl⟩

theorem execExportCommand_kept (first) (last) (nonce) (s : State) : (after (execExportCommand first last nonce s) s).pending = s.pending ∧ (after (execExportCommand first last nonce s) s).comp = s.comp := by
  unfold execExportCommand
  split <;> simp only [mgmtSay_kept, draw_kept, after_next, and_self]

theorem execTenantCommand_kept (body) (s : State) : (after (execTenantCommand body s) s).pending = s.pending ∧ (after (execTenantCommand body s) s).comp = s.comp := by
  unfold execTenantCommand
  split <;> simp only [logService_kept, after_next, and_self]

theorem execFirmwareInstall_kept (image) (s : State) : (after (execFirmwareInstall image s) s).pending = s.pending ∧ (after (execFirmwareInstall image s) s).comp = s.comp := by
  unfold execFirmwareInstall
  split <;> simp only [logFirmware_kept, after_next, and_self]

theorem execFirmwareActivate_kept (slot) (s : State) : (after (execFirmwareActivate slot s) s).pending = s.pending ∧ (after (execFirmwareActivate slot s) s).comp = s.comp := by
  unfold execFirmwareActivate
  split <;> simp only [logFirmware_kept, after_next, and_self]

theorem execCompositionKeyInstall_kept (x) (y) (signature) (s : State) : (after (execCompositionKeyInstall x y signature s) s).pending = s.pending ∧ (after (execCompositionKeyInstall x y signature s) s).comp = s.comp := by
  unfold execCompositionKeyInstall
  dsimp only
  (repeat' split) <;> simp only [logService_kept, mgmtRefuse_kept, after_next, and_self]

theorem execManagementEventRead_kept (s : State) : (after (execManagementEventRead s) s).pending = s.pending ∧ (after (execManagementEventRead s) s).comp = s.comp := by
  unfold execManagementEventRead
  (repeat' split) <;> simp only [mgmtSay_kept, after_next, and_self]

theorem execPldmSensorRead_kept (s : State) : (after (execPldmSensorRead s) s).pending = s.pending ∧ (after (execPldmSensorRead s) s).comp = s.comp := by
  unfold execPldmSensorRead
  split <;> simp only [mgmtSay_kept, draw_kept, after_next, and_self]

theorem spdmError_kept (s : State) (code) : (spdmError s code).pending = s.pending ∧ (spdmError s code).comp = s.comp := ⟨rfl, rfl⟩

theorem execGetVersion_kept (offers13) (s : State) : (after (execGetVersion offers13 s) s).pending = s.pending ∧ (after (execGetVersion offers13 s) s).comp = s.comp := by
  unfold execGetVersion spdm
  (repeat' split) <;> simp only [spdmError_kept, mgmtSay_kept, after_next, and_self]

theorem execGetCapabilities_kept (s : State) : (after (execGetCapabilities s) s).pending = s.pending ∧ (after (execGetCapabilities s) s).comp = s.comp := by
  unfold execGetCapabilities spdm
  (repeat' split) <;> simp only [spdmError_kept, mgmtSay_kept, after_next, and_self]

theorem execNegotiateAlgorithms_kept (p384sha384) (s : State) : (after (execNegotiateAlgorithms p384sha384 s) s).pending = s.pending ∧ (after (execNegotiateAlgorithms p384sha384 s) s).comp = s.comp := by
  unfold execNegotiateAlgorithms spdm
  (repeat' split) <;> simp only [spdmError_kept, mgmtSay_kept, after_next, and_self]

theorem execGetDigests_kept (s : State) : (after (execGetDigests s) s).pending = s.pending ∧ (after (execGetDigests s) s).comp = s.comp := by
  unfold execGetDigests spdm
  (repeat' split) <;> simp only [spdmError_kept, mgmtSay_kept, after_next, and_self]

theorem execGetCertificate_kept (slot) (offset) (len) (s : State) : (after (execGetCertificate slot offset len s) s).pending = s.pending ∧ (after (execGetCertificate slot offset len s) s).comp = s.comp := by
  unfold execGetCertificate spdm
  dsimp only
  (repeat' split) <;> simp only [spdmError_kept, mgmtSay_kept, after_next, and_self]

theorem execChallenge_kept (slot) (nonce) (s : State) : (after (execChallenge slot nonce s) s).pending = s.pending ∧ (after (execChallenge slot nonce s) s).comp = s.comp := by
  unfold execChallenge spdm
  (repeat' split) <;> simp only [spdmError_kept, draw_kept, mgmtSay_kept, after_next, and_self]

theorem execGetMeasurements_kept (index) (signed) (nonce) (s : State) : (after (execGetMeasurements index signed nonce s) s).pending = s.pending ∧ (after (execGetMeasurements index signed nonce s) s).comp = s.comp := by
  unfold execGetMeasurements spdm
  (repeat' split) <;> simp only [spdmError_kept, mgmtSay_kept, draw_kept, after_next, and_self]

theorem noteThermal_kept (s : State) (t) : (noteThermal s t).pending = s.pending ∧ (noteThermal s t).comp = s.comp := by
  unfold noteThermal
  dsimp only
  (repeat' split) <;> simp only [and_self]

/-! ## Registers -/

theorem setSel_kept (s : State) (acc) (off) (v) : (setSel s acc off v).pending = s.pending ∧ (setSel s acc off v).comp = s.comp := ⟨rfl, rfl⟩

theorem writePartCtrl_kept (s : State) (acc) (p) (w) : (writePartCtrl s acc p w).pending = s.pending ∧ (writePartCtrl s acc p w).comp = s.comp := by
  unfold writePartCtrl
  (repeat' split) <;> simp only [preemptPart_kept, resumePart_kept, restartPart_kept, and_self]

theorem applyM_kept (s : State) (acc) (w) (x3) : (applyM s acc w x3).pending = s.pending ∧ (applyM s acc w x3).comp = s.comp := by
  unfold applyM
  dsimp only
  (repeat' split) <;> simp only [setSel_kept, writePartCtrl_kept, modTs_kept, and_self]

theorem dropNext_kept (s : State) (p) (q) : (dropNext s p q).pending = s.pending ∧ (dropNext s p q).comp = s.comp := by
  unfold dropNext
  simp only [semAdd_kept, modPart_kept, and_self]

theorem zeroPointers_kept (s : State) (p) (q) : (zeroPointers s p q).pending = s.pending ∧ (zeroPointers s p q).comp = s.comp := by
  unfold zeroPointers
  dsimp only
  (repeat' split) <;> simp only [modQueue_kept, dropNext_kept, savePointers_kept, and_self]

theorem writeDoor_kept (s : State) (p) (q) (w) : (writeDoor s p q w).pending = s.pending ∧ (writeDoor s p q w).comp = s.comp := by
  unfold writeDoor
  dsimp only
  (repeat' split) <;> simp only [modQueue_kept, savePointers_kept, and_self]

theorem writeBucket_kept (s : State) (p) (c) (f) : (writeBucket s p c f).pending = s.pending ∧ (writeBucket s p c f).comp = s.comp := ⟨rfl, rfl⟩

theorem writeMeter_kept (s : State) (p) (tc) (port) (f) : (writeMeter s p tc port f).pending = s.pending ∧ (writeMeter s p tc port f).comp = s.comp := by
  unfold writeMeter
  dsimp only
  (repeat' split) <;> simp only [examine_kept, and_self]

theorem applyP_kept (s : State) (acc) (p) (w) (x4) : (applyP s acc p w x4).pending = s.pending ∧ (applyP s acc p w x4).comp = s.comp := by
  unfold applyP
  dsimp only
  (repeat' split) <;> simp only [modPart_kept, modErrq_kept, setSem_kept, serve_kept, zeroPointers_kept, modQueue_kept, writeDoor_kept, setSel_kept, writeBucket_kept, writeMeter_kept, and_self]

theorem regViolation_kept (s : State) (acc) (page) (off) : (regViolation s acc page off).pending = s.pending ∧ (regViolation s acc page off).comp = s.comp := by
  unfold regViolation
  simp only [violation_kept, and_self]

theorem refuseWrite_kept (s : State) (acc) (page) (off) : (refuseWrite s acc page off).pending = s.pending ∧ (refuseWrite s acc page off).comp = s.comp := by
  unfold refuseWrite
  split <;> simp only [regViolation_kept, emitOut_kept, and_self]

theorem writeReg_kept (s : State) (acc) (page) (off) (size) (v) : (writeReg s acc page off size v).pending = s.pending ∧ (writeReg s acc page off size v).comp = s.comp := by
  unfold writeReg
  dsimp only
  (repeat' split) <;> simp only [refuseWrite_kept, applyM_kept, applyP_kept, and_self]

theorem writeRegs_kept (s : State) (acc) (page) (off) (size) (vs) : (writeRegs s acc page off size vs).pending = s.pending ∧ (writeRegs s acc page off size vs).comp = s.comp := by
  unfold writeRegs
  (repeat' split) <;> simp only [hostTlp_kept, refuseWrite_kept, writeReg_kept, foldl_pending, foldl_comp, implies_true, and_self]

theorem readRegs_kept (s : State) (acc) (page) (off) (size) : (readRegs s acc page off size).pending = s.pending ∧ (readRegs s acc page off size).comp = s.comp := by
  unfold readRegs
  dsimp only
  (repeat' split) <;> simp only [hostTlp_kept, emitOut_kept, regViolation_kept, foldl_pending, foldl_comp, implies_true, and_self]

theorem execRegisterWrite_kept (acc) (page) (off) (size) (vs) (s : State) : (after (execRegisterWrite acc page off size vs s) s).pending = s.pending ∧ (after (execRegisterWrite acc page off size vs s) s).comp = s.comp := by
  unfold execRegisterWrite
  simp only [writeRegs_kept, after_next, and_self]

theorem execRegisterRead_kept (acc) (page) (off) (size) (s : State) : (after (execRegisterRead acc page off size s) s).pending = s.pending ∧ (after (execRegisterRead acc page off size s) s).comp = s.comp := by
  unfold execRegisterRead
  simp only [readRegs_kept, after_next, and_self]

theorem write8_kept (s : State) (acc) (page) (off) (v) : (write8 s acc page off v).pending = s.pending ∧ (write8 s acc page off v).comp = s.comp := by
  unfold write8
  simp only [writeRegs_kept, and_self]

theorem execDoorbell_kept (acc) (p) (q) (size) (upper) (v) (s : State) : (after (execDoorbell acc p q size upper v s) s).pending = s.pending ∧ (after (execDoorbell acc p q size upper v s) s).comp = s.comp := by
  unfold execDoorbell
  simp only [writeRegs_kept, after_next, and_self]

theorem execQBaseWrite_kept (acc) (p) (q) (completion) (v) (s : State) : (after (execQBaseWrite acc p q completion v s) s).pending = s.pending ∧ (after (execQBaseWrite acc p q completion v s) s).comp = s.comp := by
  unfold execQBaseWrite
  simp only [write8_kept, after_next, and_self]

theorem execQResume_kept (acc) (p) (q) (s : State) : (after (execQResume acc p q s) s).pending = s.pending ∧ (after (execQResume acc p q s) s).comp = s.comp := by
  unfold execQResume
  simp only [writeRegs_kept, after_next, and_self]

theorem execSemaphoreWrite_kept (acc) (p) (sem) (v) (s : State) : (after (execSemaphoreWrite acc p sem v s) s).pending = s.pending ∧ (after (execSemaphoreWrite acc p sem v s) s).comp = s.comp := by
  unfold execSemaphoreWrite
  simp only [write8_kept, after_next, and_self]

theorem execErrqBaseWrite_kept (acc) (p) (v) (s : State) : (after (execErrqBaseWrite acc p v s) s).pending = s.pending ∧ (after (execErrqBaseWrite acc p v s) s).comp = s.comp := by
  unfold execErrqBaseWrite
  simp only [write8_kept, after_next, and_self]

theorem execBucketWrite_kept (acc) (p) (level) (v) (s : State) : (after (execBucketWrite acc p level v s) s).pending = s.pending ∧ (after (execBucketWrite acc p level v s) s).comp = s.comp := by
  unfold execBucketWrite
  simp only [write8_kept, after_next, and_self]

theorem execMeterWrite_kept (acc) (p) (cfg) (v) (s : State) : (after (execMeterWrite acc p cfg v s) s).pending = s.pending ∧ (after (execMeterWrite acc p cfg v s) s).comp = s.comp := by
  unfold execMeterWrite
  simp only [write8_kept, after_next, and_self]

theorem execPreempt_kept (acc) (p) (s : State) : (after (execPreempt acc p s) s).pending = s.pending ∧ (after (execPreempt acc p s) s).comp = s.comp := by
  unfold execPreempt
  simp only [write8_kept, after_next, and_self]

theorem execResume_kept (acc) (p) (s : State) : (after (execResume acc p s) s).pending = s.pending ∧ (after (execResume acc p s) s).comp = s.comp := by
  unfold execResume
  simp only [write8_kept, after_next, and_self]

theorem execRestart_kept (p) (cause) (s : State) : (after (execRestart p cause s) s).pending = s.pending ∧ (after (execRestart p cause s) s).comp = s.comp := by
  unfold execRestart
  (repeat' split) <;> simp only [write8_kept, restartPart_kept, after_next, and_self]

theorem execGateArm_kept (acc) (s : State) : (after (execGateArm acc s) s).pending = s.pending ∧ (after (execGateArm acc s) s).comp = s.comp := by
  unfold execGateArm
  simp only [write8_kept, after_next, and_self]

theorem execGateDisarm_kept (acc) (s : State) : (after (execGateDisarm acc s) s).pending = s.pending ∧ (after (execGateDisarm acc s) s).comp = s.comp := by
  unfold execGateDisarm
  simp only [write8_kept, after_next, and_self]

theorem execGateEnableWrite_kept (acc) (v) (s : State) : (after (execGateEnableWrite acc v s) s).pending = s.pending ∧ (after (execGateEnableWrite acc v s) s).comp = s.comp := by
  unfold execGateEnableWrite
  simp only [write8_kept, after_next, and_self]

theorem execSnapArm_kept (acc) (s : State) : (after (execSnapArm acc s) s).pending = s.pending ∧ (after (execSnapArm acc s) s).comp = s.comp := by
  unfold execSnapArm
  simp only [write8_kept, after_next, and_self]

theorem execCounterClear_kept (acc) (s : State) : (after (execCounterClear acc s) s).pending = s.pending ∧ (after (execCounterClear acc s) s).comp = s.comp := by
  unfold execCounterClear
  simp only [write8_kept, after_next, and_self]

theorem execInjectArm_kept (acc) (v) (s : State) : (after (execInjectArm acc v s) s).pending = s.pending ∧ (after (execInjectArm acc v s) s).comp = s.comp := by
  unfold execInjectArm
  simp only [write8_kept, after_next, and_self]

theorem execPortIdlePoint_kept (port) (s : State) : (after (execPortIdlePoint port s) s).pending = s.pending ∧ (after (execPortIdlePoint port s) s).comp = s.comp := by
  unfold execPortIdlePoint
  (repeat' split) <;> simp only [modNear_kept, draw_kept, modFar_kept, after_next, and_self]

theorem barTake_kept (s : State) (p) (op) : (barTake s p op).pending = s.pending ∧ (barTake s p op).comp = s.comp := by
  unfold barTake
  split <;> simp only [regTake_kept, and_self]

theorem barAccess_kept (acc) (p) (off) (op) (s : State) : (barAccess acc p off op s).pending = s.pending ∧ (barAccess acc p off op s).comp = s.comp := by
  unfold barAccess
  dsimp only
  (repeat' split) <;> simp only [hostTlp_kept, violation_kept, emitOut_kept, outsideRead_kept, outsideWrite_kept, and_self]

theorem execBarWindowAccess_kept (acc) (p) (off) (op) (s : State) : (after (execBarWindowAccess acc p off op s) s).pending = s.pending ∧ (after (execBarWindowAccess acc p off op s) s).comp = s.comp := by
  unfold execBarWindowAccess
  dsimp only
  (repeat' split) <;> simp only [barAccess_kept, barTake_kept, modPart_kept, after_next, and_self]

theorem configSet_kept (s : State) (g) (r) (v) : (configSet s g r v).pending = s.pending ∧ (configSet s g r v).comp = s.comp := ⟨rfl, rfl⟩

theorem execConfigurationRequest_kept (fn) (x) (s : State) : (after (execConfigurationRequest fn x s) s).pending = s.pending ∧ (after (execConfigurationRequest fn x s) s).comp = s.comp := by
  unfold execConfigurationRequest
  (repeat' split) <;> simp only [emitOut_kept, draw_kept, configSet_kept, after_next, and_self]

/-! ## Commands that may change the composition record -/

/-- The queue of waiting commands is as before; the composition record in force is as before, or none, or one that meets
the rules of R432. -/
def Recomposed (s t : State) : Prop :=
  t.pending = s.pending ∧ (t.comp = s.comp ∨ t.comp = none ∨ ∃ c, t.comp = some c ∧ compOk c = true)

theorem Recomposed.of_kept {s t : State} (h : t.pending = s.pending ∧ t.comp = s.comp) : Recomposed s t := ⟨h.1, .inl h.2⟩

theorem Recomposed.of_none {s t : State} (h : t.pending = s.pending ∧ t.comp = none) : Recomposed s t := ⟨h.1, .inr (.inl h.2)⟩

theorem execPowerGood_recomposed (s : State) : Recomposed s (after (execPowerGood s) s) := by
  unfold execPowerGood
  split
  · exact .of_none ⟨rfl, rfl⟩
  · exact .of_kept ⟨rfl, rfl⟩

theorem execPowerLoss_recomposed (en : Bool) (s : State) : Recomposed s (after (execPowerLoss en s) s) := by
  unfold execPowerLoss
  split
  · exact .of_kept ⟨rfl, rfl⟩
  · exact .of_none ⟨rfl, rfl⟩

theorem execRstNAssert_recomposed (s : State) : Recomposed s (after (execRstNAssert s) s) := by
  unfold execRstNAssert
  split
  · exact .of_none ⟨rfl, rfl⟩
  · exact .of_kept ⟨rfl, rfl⟩

theorem execModuleReset_recomposed (s : State) : Recomposed s (after (execModuleReset s) s) := by
  unfold execModuleReset
  split
  · exact .of_none ⟨rfl, rfl⟩
  · exact .of_kept ⟨rfl, rfl⟩

theorem execRecertCommand_recomposed (r v : Nat) (passed : Bool) (serial : Nat) (s : State) :
    Recomposed s (after (execRecertCommand r v passed serial s) s) := by
  unfold execRecertCommand
  split
  · exact .of_none ⟨rfl, rfl⟩
  · exact .of_kept ⟨rfl, rfl⟩

theorem execSensorSample_recomposed (t : Temps) (s : State) : Recomposed s (after (execSensorSample t s) s) := by
  unfold execSensorSample
  split
  · simp only
    split
    · refine .of_none ⟨?_, rfl⟩
      exact (noteThermal_kept _ _).1
    · split
      · refine .of_kept ?_
        simp only [after_next, mgmtEvent_kept, noteThermal_kept, and_self]
      · refine .of_kept ?_
        simp only [after_next, noteThermal_kept, and_self]
  · exact .of_kept ⟨rfl, rfl⟩

/-- A record that passes the checks of a start meets the rules of R432. -/
theorem recordOk_comp {key : Option (Nat × Nat)} {bs : List Byte} (h : recordOk key bs = true) : compOk (compAt bs) = true := by
  cases key with
  | none => cases h
  | some k =>
    simp only [recordOk, Bool.and_eq_true] at h
    exact h.1.2

theorem putInForce_recomposed (s : State) (n : Nat) (bs : List Byte) (h : compOk (compAt bs) = true) :
    Recomposed s (putInForce s n bs) := by
  unfold putInForce
  dsimp only
  refine ⟨?_, .inr (.inr ⟨compAt bs, ?_, h⟩)⟩
  · rw [(stepDone_kept _ _).1]
    dsimp only
    split <;> simp only [logService_kept]
  · rw [(stepDone_kept _ _).2]
    dsimp only
    split <;> simp only [logService_kept]

theorem bootCompose_recomposed (s : State) (f : BootFindings) : Recomposed s (bootCompose s f) := by
  unfold bootCompose
  split
  · exact .of_kept (failStart_kept _ _ _)
  · next s0 heq =>
    have k := resumeSanitise_kept _ _ _ heq
    have k1 : (noteFinal (startTime s0)).pending = s.pending ∧ (noteFinal (startTime s0)).comp = s.comp := by
      simp only [noteFinal_kept, startTime_kept, k, and_self]
    dsimp only
    split
    · exact .of_kept (by simp only [failStart_kept, k1, and_self])
    · next n bs _ =>
      split
      · next ok =>
        have r := putInForce_recomposed (noteFinal (startTime s0)) n bs (recordOk_comp ok)
        exact ⟨r.1.trans k1.1, r.2.imp_left (·.trans k1.2)⟩
      · exact .of_kept (by simp only [failStart_kept, k1, and_self])

theorem execBootStep_recomposed (f : BootFindings) (s : State) : Recomposed s (after (execBootStep f s) s) := by
  unfold execBootStep
  split
  · exact .of_kept ⟨rfl, rfl⟩
  · split
    · refine .of_kept ?_
      split <;> simp only [after_next, stepDone_kept, failStart_kept, and_self]
    · exact .of_kept (by simp only [after_next, bootFirmware_kept, and_self])
    · split
      · exact bootCompose_recomposed s f
      · exact .of_kept ⟨rfl, rfl⟩
    · exact .of_kept (by simp only [after_next, stepDone_kept, and_self])
    · exact .of_kept (by simp only [after_next, bootSpares_kept, and_self])
    · refine .of_kept ?_
      split <;> simp only [after_next, stepDone_kept, failStart_kept, and_self]
    · refine .of_kept ?_
      split <;> simp only [after_next, stepDone_kept, failStart_kept, and_self]
    · exact .of_kept (by simp only [after_next, bootReady_kept, and_self])
    · exact .of_kept ⟨rfl, rfl⟩

/-! ## Every command -/

/-- A command other than a start's step, a reset or a loss of power leaves both unchanged (R433). -/
theorem exec_kept (c : Instr) (s : State) (h : Sys2Proof.Safety.MayCompose c = false) :
    (after (exec c s) s).pending = s.pending ∧ (after (exec c s) s).comp = s.comp := by
  match c, h with
  | .nop w, _ => exact execNop_kept w s
  | .fence w, _ => exact execFence_kept w s
  | .wait w, _ => exact execWait_kept w s
  | .signal w, _ => exact execSignal_kept w s
  | .timewait w, _ => exact execTimewait_kept w s
  | .snap w, _ => exact execSnap_kept w s
  | .haltq w, _ => exact execHaltq_kept w s
  | .alloc w, _ => exact execAlloc_kept w s
  | .seal w, _ => exact execSeal_kept w s
  | .free w, _ => exact execFree_kept w s
  | .release w, _ => exact execRelease_kept w s
  | .catch_ w, _ => exact execCatch_kept w s
  | .migrate w, _ => exact execMigrate_kept w s
  | .query w, _ => exact execQuery_kept w s
  | .fenceep w, _ => exact execFenceep_kept w s
  | .reclaim w, _ => exact execReclaim_kept w s
  | .attend w misses act, _ => exact execAttend_kept w misses act s
  | .merge w, _ => exact execMerge_kept w s
  | .loadact w, _ => exact execLoadact_kept w s
  | .append w, _ => exact execAppend_kept w s
  | .commit w, _ => exact execCommit_kept w s
  | .rollback w, _ => exact execRollback_kept w s
  | .emit w, _ => exact execEmit_kept w s
  | .step w, _ => exact execStep_kept w s
  | .retire w, _ => exact execRetire_kept w s
  | .openreq w, _ => exact execOpenreq_kept w s
  | .xset w, _ => exact execXset_kept w s
  | .xstat w, _ => exact execXstat_kept w s
  | .expand w, _ => exact execExpand_kept w s
  | .seek w, _ => exact execSeek_kept w s
  | .insert w, _ => exact execInsert_kept w s
  | .delete w, _ => exact execDelete_kept w s
  | .pair w, _ => exact execPair_kept w s
  | .sweep w, _ => exact execSweep_kept w s
  | .load w, _ => exact execLoad_kept w s
  | .store w, _ => exact execStore_kept w s
  | .atomic w, _ => exact execAtomic_kept w s
  | .msg w, _ => exact execMsg_kept w s
  | .put w, _ => exact execPut_kept w s
  | .get w, _ => exact execGet_kept w s
  | .send w, _ => exact execSend_kept w s
  | .connect w, _ => exact execConnect_kept w s
  | .disconnect w, _ => exact execDisconnect_kept w s
  | .encode w, _ => exact execEncode_kept w s
  | .rebuild w, _ => exact execRebuild_kept w s
  | .verify w, _ => exact execVerify_kept w s
  | .admission w, _ => exact execAdmission_kept w s
  | .charge w, _ => exact execCharge_kept w s
  | .refund w, _ => exact execRefund_kept w s
  | .instructionIssue part, _ => exact execInstructionIssue_kept part s
  | .instructionCommit part queue, _ => exact execInstructionCommit_kept part queue s
  | .semaphoreServe part sem, _ => exact execSemaphoreServe_kept part sem s
  | .waitLimitExpiry w, _ => exact execWaitLimitExpiry_kept w s
  | .doorbell acc part queue size upper value, _ => exact execDoorbell_kept acc part queue size upper value s
  | .qBaseWrite acc part queue completion value, _ => exact execQBaseWrite_kept acc part queue completion value s
  | .qResume acc part queue, _ => exact execQResume_kept acc part queue s
  | .semaphoreWrite acc part sem value, _ => exact execSemaphoreWrite_kept acc part sem value s
  | .errqBaseWrite acc part value, _ => exact execErrqBaseWrite_kept acc part value s
  | .bucketWrite acc part level value, _ => exact execBucketWrite_kept acc part level value s
  | .meterWrite acc part cfg value, _ => exact execMeterWrite_kept acc part cfg value s
  | .preempt acc part, _ => exact execPreempt_kept acc part s
  | .preemptDrained part, _ => exact execPreemptDrained_kept part s
  | .resume acc part, _ => exact execResume_kept acc part s
  | .restart part cause, _ => exact execRestart_kept part cause s
  | .gateArm acc, _ => exact execGateArm_kept acc s
  | .gateDisarm acc, _ => exact execGateDisarm_kept acc s
  | .gateEnableWrite acc value, _ => exact execGateEnableWrite_kept acc value s
  | .snapArm acc, _ => exact execSnapArm_kept acc s
  | .counterClear acc, _ => exact execCounterClear_kept acc s
  | .injectArm acc value, _ => exact execInjectArm_kept acc value s
  | .registerWrite acc page offset size values, _ => exact execRegisterWrite_kept acc page offset size values s
  | .portIdlePoint port, _ => exact execPortIdlePoint_kept port s
  | .barWindowAccess acc part offset op, _ => exact execBarWindowAccess_kept acc part offset op s
  | .releaseAtHome m, _ => exact execReleaseAtHome_kept m s
  | .catchAtHome m, _ => exact execCatchAtHome_kept m s
  | .queryAtHome m, _ => exact execQueryAtHome_kept m s
  | .allocAtHome m, _ => exact execAllocAtHome_kept m s
  | .sealAtHome m, _ => exact execSealAtHome_kept m s
  | .freeAtHome m, _ => exact execFreeAtHome_kept m s
  | .migrateAtSource m, _ => exact execMigrateAtSource_kept m s
  | .migrateBegin m, _ => exact execMigrateBegin_kept m s
  | .migrateReady m, _ => exact execMigrateReady_kept m s
  | .migrateCopyDone granule, _ => exact execMigrateCopyDone_kept granule s
  | .migrateCommit m hash, _ => exact execMigrateCommit_kept m hash s
  | .migrateDone m, _ => exact execMigrateDone_kept m s
  | .migrateAbort m, _ => exact execMigrateAbort_kept m s
  | .offer m, _ => exact execOffer_kept m s
  | .confirm m hand, _ => exact execConfirm_kept m hand s
  | .returned m, _ => exact execReturned_kept m s
  | .reply m handles, _ => exact execReply_kept m handles s
  | .queryReply m, _ => exact execQueryReply_kept m s
  | .fenceMsg f, _ => exact execFenceMsg_kept f s
  | .fenceAck m, _ => exact execFenceAck_kept m s
  | .fenceepLimit w, _ => exact execFenceepLimit_kept w s
  | .offerDeadline granule, _ => exact execOfferDeadline_kept granule s
  | .migrationDeadline granule, _ => exact execMigrationDeadline_kept granule s
  | .lostHoldEnd granule, _ => exact execLostHoldEnd_kept granule s
  | .forwardingHoldEnd handle, _ => exact execForwardingHoldEnd_kept handle s
  | .outcomeWaitExpiry part tag, _ => exact execOutcomeWaitExpiry_kept part tag s
  | .replyWaitExpiry w dead, _ => exact execReplyWaitExpiry_kept w dead s
  | .attendReq m, _ => exact execAttendReq_kept m s
  | .attendResp m, _ => exact execAttendResp_kept m s
  | .remoteWaitExpiry part tag dead, _ => exact execRemoteWaitExpiry_kept part tag dead s
  | .lateBoundExpiry w handle, _ => exact execLateBoundExpiry_kept w handle s
  | .admitRetry part, _ => exact execAdmitRetry_kept part s
  | .rebuildRequestMsg part m, _ => exact execRebuildRequestMsg_kept part m s
  | .rebuildReplyMsg part m, _ => exact execRebuildReplyMsg_kept part m s
  | .rebuildWaitExpiry part tag, _ => exact execRebuildWaitExpiry_kept part tag s
  | .demotion part, _ => exact execDemotion_kept part s
  | .respreadDone part, _ => exact execRespreadDone_kept part s
  | .mirrorSweep, _ => exact execMirrorSweep_kept s
  | .ixTempSample celsius, _ => exact execIxTempSample_kept celsius s
  | .poltexLoad k, _ => exact execPoltexLoad_kept k s
  | .poltexStore k, _ => exact execPoltexStore_kept k s
  | .poltexAtomic k, _ => exact execPoltexAtomic_kept k s
  | .poltexMsg k, _ => exact execPoltexMsg_kept k s
  | .atomicUnitApply line, _ => exact execAtomicUnitApply_kept line s
  | .data k, _ => exact execData_kept k s
  | .cpl k, _ => exact execCpl_kept k s
  | .lstate k, _ => exact execLstate_kept k s
  | .lstateTimer, _ => exact execLstateTimer_kept s
  | .deadBoundExpiry tag, _ => exact execDeadBoundExpiry_kept tag s
  | .flitReceive port flit, _ => exact execFlitReceive_kept port flit s
  | .linkTraining port lanes partner level, _ => exact execLinkTraining_kept port lanes partner level s
  | .partnerTimeout port, _ => exact execPartnerTimeout_kept port s
  | .laneFailure port lane, _ => exact execLaneFailure_kept port lane s
  | .spareLaneTrained port, _ => exact execSpareLaneTrained_kept port s
  | .contributionSegment part port src g, _ => exact execContributionSegment_kept part port src g s
  | .roundLimitExpiry part ctx, _ => exact execRoundLimitExpiry_kept part ctx s
  | .segmentArrival part port src g, _ => exact execSegmentArrival_kept part port src g s
  | .write k, _ => exact execWrite_kept k s
  | .readReq k, _ => exact execReadReq_kept k s
  | .readResp k, _ => exact execReadResp_kept k s
  | .sendPkt k, _ => exact execSendPkt_kept k s
  | .ack k, _ => exact execAck_kept k s
  | .nak k, _ => exact execNak_kept k s
  | .echo k, _ => exact execEcho_kept k s
  | .open_ k r ip, _ => exact execOpen_kept k r ip s
  | .openAck k r, _ => exact execOpenAck_kept k r s
  | .close k r ip, _ => exact execClose_kept k r ip s
  | .closeAck k r, _ => exact execCloseAck_kept k r s
  | .openRetry conn, _ => exact execOpenRetry_kept conn s
  | .closeRetry conn, _ => exact execCloseRetry_kept conn s
  | .ackTimer conn, _ => exact execAckTimer_kept conn s
  | .rtoExpiry conn, _ => exact execRtoExpiry_kept conn s
  | .rnrDelayExpiry conn, _ => exact execRnrDelayExpiry_kept conn s
  | .ccPeriodEnd conn, _ => exact execCcPeriodEnd_kept conn s
  | .stateFetchDone conn ok, _ => exact execStateFetchDone_kept conn ok s
  | .wavelengthFailure port e, _ => exact execWavelengthFailure_kept port e s
  | .spareWavelengthReady port, _ => exact execSpareWavelengthReady_kept port s
  | .pfcFrame port prio pause, _ => exact execPfcFrame_kept port prio pause s
  | .pfcPauseLimit port prio, _ => exact execPfcPauseLimit_kept port prio s
  | .ptpMessage m, _ => exact execPtpMessage_kept m s
  | .ppsPulse interval, _ => exact execPpsPulse_kept interval s
  | .timeSourceLoss, _ => exact execTimeSourceLoss_kept s
  | .timeCorrection, _ => exact execTimeCorrection_kept s
  | .portFrameSend port, _ => exact execPortFrameSend_kept port s
  | .pendingReexamine part tc port, _ => exact execPendingReexamine_kept part tc port s
  | .wheelSlotRelease slot, _ => exact execWheelSlotRelease_kept slot s
  | .overflowSlotRelease slot, _ => exact execOverflowSlotRelease_kept slot s
  | .gateEntryBoundary port, _ => exact execGateEntryBoundary_kept port s
  | .gateTakeover port, _ => exact execGateTakeover_kept port s
  | .leafIdleForget port part tc req, _ => exact execLeafIdleForget_kept port part tc req s
  | .mcAccess addr op user noise crcFails, _ => exact execMcAccess_kept addr op user noise crcFails s
  | .correctionCountClear, _ => exact execCorrectionCountClear_kept s
  | .scrubGranule channel noise, _ => exact execScrubGranule_kept channel noise s
  | .refreshSlot channel, _ => exact execRefreshSlot_kept channel s
  | .dramTempSample temps, _ => exact execDramTempSample_kept temps s
  | .snapLatch, _ => exact execSnapLatch_kept s
  | .containmentTimeout e, _ => exact execContainmentTimeout_kept e s
  | .engineFailure n, _ => exact execEngineFailure_kept n s
  | .coreFailure n, _ => exact execCoreFailure_kept n s
  | .syFault, _ => exact execSyFault_kept s
  | .functionLevelReset part, _ => exact execFunctionLevelReset_kept part s
  | .hostLinkLoss e, _ => exact execHostLinkLoss_kept e s
  | .hostLinkUp group x, _ => exact execHostLinkUp_kept group x s
  | .enAssert, _ => exact execEnAssert_kept s
  | .bootCommand c, _ => exact execBootCommand_kept c s
  | .bootCommandTimeout, _ => exact execBootCommandTimeout_kept s
  | .shutdownCommand, _ => exact execShutdownCommand_kept s
  | .shutdownTestDone misr repair units, _ => exact execShutdownTestDone_kept misr repair units s
  | .sanitiseCommand releaseOwner byAuthority sigR sigS, _ => exact execSanitiseCommand_kept releaseOwner byAuthority sigR sigS s
  | .sanitiseDramDone ok, _ => exact execSanitiseDramDone_kept ok s
  | .exportCommand first last nonce, _ => exact execExportCommand_kept first last nonce s
  | .tenantCommand body, _ => exact execTenantCommand_kept body s
  | .firmwareInstall image, _ => exact execFirmwareInstall_kept image s
  | .firmwareActivate slot, _ => exact execFirmwareActivate_kept slot s
  | .compositionKeyInstall x y signature, _ => exact execCompositionKeyInstall_kept x y signature s
  | .managementEventRead, _ => exact execManagementEventRead_kept s
  | .pldmSensorRead, _ => exact execPldmSensorRead_kept s
  | .getVersion offers13, _ => exact execGetVersion_kept offers13 s
  | .getCapabilities, _ => exact execGetCapabilities_kept s
  | .negotiateAlgorithms p384sha384, _ => exact execNegotiateAlgorithms_kept p384sha384 s
  | .getDigests, _ => exact execGetDigests_kept s
  | .getCertificate slot offset len, _ => exact execGetCertificate_kept slot offset len s
  | .challenge slot nonce, _ => exact execChallenge_kept slot nonce s
  | .getMeasurements index signed nonce, _ => exact execGetMeasurements_kept index signed nonce s
  | .periodic energy, _ => exact execPeriodic_kept energy s
  | .farPortTraining port wavelengths prbs13, _ => exact execFarPortTraining_kept port wavelengths prbs13 s
  | .queueIssueStateFault part queue, _ => exact execQueueIssueStateFault_kept part queue s
  | .configurationRequest fn x, _ => exact execConfigurationRequest_kept fn x s
  | .registerRead acc page offset size, _ => exact execRegisterRead_kept acc page offset size s
  | .undervoltageLockoutRelease, _ => exact execUndervoltageLockoutRelease_kept s
  | .ref10mSignal valid, _ => exact execRef10mSignal_kept valid s
  | .nonTlaleyFrame e, _ => exact execNonTlaleyFrame_kept e s

/-- Every command leaves the waiting commands alone; the record in force stays, goes, or has been checked (R432). -/
theorem exec_recomposed (c : Instr) (s : State) : Recomposed s (after (exec c s) s) := by
  by_cases h : Sys2Proof.Safety.MayCompose c = false
  · exact .of_kept (exec_kept c s h)
  · match c, h with
    | .powerGood, _ => exact execPowerGood_recomposed s
    | .powerLoss enReleased, _ => exact execPowerLoss_recomposed enReleased s
    | .rstNAssert, _ => exact execRstNAssert_recomposed s
    | .moduleReset, _ => exact execModuleReset_recomposed s
    | .bootStep f, _ => exact execBootStep_recomposed f s
    | .recertCommand sigR sigS passed serial, _ => exact execRecertCommand_recomposed sigR sigS passed serial s
    | .sensorSample t, _ => exact execSensorSample_recomposed t s
    | .nop _, h => exact absurd rfl h
    | .fence _, h => exact absurd rfl h
    | .wait _, h => exact absurd rfl h
    | .signal _, h => exact absurd rfl h
    | .timewait _, h => exact absurd rfl h
    | .snap _, h => exact absurd rfl h
    | .haltq _, h => exact absurd rfl h
    | .alloc _, h => exact absurd rfl h
    | .seal _, h => exact absurd rfl h
    | .free _, h => exact absurd rfl h
    | .release _, h => exact absurd rfl h
    | .catch_ _, h => exact absurd rfl h
    | .migrate _, h => exact absurd rfl h
    | .query _, h => exact absurd rfl h
    | .fenceep _, h => exact absurd rfl h
    | .reclaim _, h => exact absurd rfl h
    | .attend _ _ _, h => exact absurd rfl h
    | .merge _, h => exact absurd rfl h
    | .loadact _, h => exact absurd rfl h
    | .append _, h => exact absurd rfl h
    | .commit _, h => exact absurd rfl h
    | .rollback _, h => exact absurd rfl h
    | .emit _, h => exact absurd rfl h
    | .step _, h => exact absurd rfl h
    | .retire _, h => exact absurd rfl h
    | .openreq _, h => exact absurd rfl h
    | .xset _, h => exact absurd rfl h
    | .xstat _, h => exact absurd rfl h
    | .expand _, h => exact absurd rfl h
    | .seek _, h => exact absurd rfl h
    | .insert _, h => exact absurd rfl h
    | .delete _, h => exact absurd rfl h
    | .pair _, h => exact absurd rfl h
    | .sweep _, h => exact absurd rfl h
    | .load _, h => exact absurd rfl h
    | .store _, h => exact absurd rfl h
    | .atomic _, h => exact absurd rfl h
    | .msg _, h => exact absurd rfl h
    | .put _, h => exact absurd rfl h
    | .get _, h => exact absurd rfl h
    | .send _, h => exact absurd rfl h
    | .connect _, h => exact absurd rfl h
    | .disconnect _, h => exact absurd rfl h
    | .encode _, h => exact absurd rfl h
    | .rebuild _, h => exact absurd rfl h
    | .verify _, h => exact absurd rfl h
    | .admission _, h => exact absurd rfl h
    | .charge _, h => exact absurd rfl h
    | .refund _, h => exact absurd rfl h
    | .instructionIssue _, h => exact absurd rfl h
    | .instructionCommit _ _, h => exact absurd rfl h
    | .semaphoreServe _ _, h => exact absurd rfl h
    | .waitLimitExpiry _, h => exact absurd rfl h
    | .doorbell _ _ _ _ _ _, h => exact absurd rfl h
    | .qBaseWrite _ _ _ _ _, h => exact absurd rfl h
    | .qResume _ _ _, h => exact absurd rfl h
    | .semaphoreWrite _ _ _ _, h => exact absurd rfl h
    | .errqBaseWrite _ _ _, h => exact absurd rfl h
    | .bucketWrite _ _ _ _, h => exact absurd rfl h
    | .meterWrite _ _ _ _, h => exact absurd rfl h
    | .preempt _ _, h => exact absurd rfl h
    | .preemptDrained _, h => exact absurd rfl h
    | .resume _ _, h => exact absurd rfl h
    | .restart _ _, h => exact absurd rfl h
    | .gateArm _, h => exact absurd rfl h
    | .gateDisarm _, h => exact absurd rfl h
    | .gateEnableWrite _ _, h => exact absurd rfl h
    | .snapArm _, h => exact absurd rfl h
    | .counterClear _, h => exact absurd rfl h
    | .injectArm _ _, h => exact absurd rfl h
    | .registerWrite _ _ _ _ _, h => exact absurd rfl h
    | .portIdlePoint _, h => exact absurd rfl h
    | .barWindowAccess _ _ _ _, h => exact absurd rfl h
    | .releaseAtHome _, h => exact absurd rfl h
    | .catchAtHome _, h => exact absurd rfl h
    | .queryAtHome _, h => exact absurd rfl h
    | .allocAtHome _, h => exact absurd rfl h
    | .sealAtHome _, h => exact absurd rfl h
    | .freeAtHome _, h => exact absurd rfl h
    | .migrateAtSource _, h => exact absurd rfl h
    | .migrateBegin _, h => exact absurd rfl h
    | .migrateReady _, h => exact absurd rfl h
    | .migrateCopyDone _, h => exact absurd rfl h
    | .migrateCommit _ _, h => exact absurd rfl h
    | .migrateDone _, h => exact absurd rfl h
    | .migrateAbort _, h => exact absurd rfl h
    | .offer _, h => exact absurd rfl h
    | .confirm _ _, h => exact absurd rfl h
    | .returned _, h => exact absurd rfl h
    | .reply _ _, h => exact absurd rfl h
    | .queryReply _, h => exact absurd rfl h
    | .fenceMsg _, h => exact absurd rfl h
    | .fenceAck _, h => exact absurd rfl h
    | .fenceepLimit _, h => exact absurd rfl h
    | .offerDeadline _, h => exact absurd rfl h
    | .migrationDeadline _, h => exact absurd rfl h
    | .lostHoldEnd _, h => exact absurd rfl h
    | .forwardingHoldEnd _, h => exact absurd rfl h
    | .outcomeWaitExpiry _ _, h => exact absurd rfl h
    | .replyWaitExpiry _ _, h => exact absurd rfl h
    | .attendReq _, h => exact absurd rfl h
    | .attendResp _, h => exact absurd rfl h
    | .remoteWaitExpiry _ _ _, h => exact absurd rfl h
    | .lateBoundExpiry _ _, h => exact absurd rfl h
    | .admitRetry _, h => exact absurd rfl h
    | .rebuildRequestMsg _ _, h => exact absurd rfl h
    | .rebuildReplyMsg _ _, h => exact absurd rfl h
    | .rebuildWaitExpiry _ _, h => exact absurd rfl h
    | .demotion _, h => exact absurd rfl h
    | .respreadDone _, h => exact absurd rfl h
    | .mirrorSweep, h => exact absurd rfl h
    | .ixTempSample _, h => exact absurd rfl h
    | .poltexLoad _, h => exact absurd rfl h
    | .poltexStore _, h => exact absurd rfl h
    | .poltexAtomic _, h => exact absurd rfl h
    | .poltexMsg _, h => exact absurd rfl h
    | .atomicUnitApply _, h => exact absurd rfl h
    | .data _, h => exact absurd rfl h
    | .cpl _, h => exact absurd rfl h
    | .lstate _, h => exact absurd rfl h
    | .lstateTimer, h => exact absurd rfl h
    | .deadBoundExpiry _, h => exact absurd rfl h
    | .flitReceive _ _, h => exact absurd rfl h
    | .linkTraining _ _ _ _, h => exact absurd rfl h
    | .partnerTimeout _, h => exact absurd rfl h
    | .laneFailure _ _, h => exact absurd rfl h
    | .spareLaneTrained _, h => exact absurd rfl h
    | .contributionSegment _ _ _ _, h => exact absurd rfl h
    | .roundLimitExpiry _ _, h => exact absurd rfl h
    | .segmentArrival _ _ _ _, h => exact absurd rfl h
    | .write _, h => exact absurd rfl h
    | .readReq _, h => exact absurd rfl h
    | .readResp _, h => exact absurd rfl h
    | .sendPkt _, h => exact absurd rfl h
    | .ack _, h => exact absurd rfl h
    | .nak _, h => exact absurd rfl h
    | .echo _, h => exact absurd rfl h
    | .open_ _ _ _, h => exact absurd rfl h
    | .openAck _ _, h => exact absurd rfl h
    | .close _ _ _, h => exact absurd rfl h
    | .closeAck _ _, h => exact absurd rfl h
    | .openRetry _, h => exact absurd rfl h
    | .closeRetry _, h => exact absurd rfl h
    | .ackTimer _, h => exact absurd rfl h
    | .rtoExpiry _, h => exact absurd rfl h
    | .rnrDelayExpiry _, h => exact absurd rfl h
    | .ccPeriodEnd _, h => exact absurd rfl h
    | .stateFetchDone _ _, h => exact absurd rfl h
    | .wavelengthFailure _ _, h => exact absurd rfl h
    | .spareWavelengthReady _, h => exact absurd rfl h
    | .pfcFrame _ _ _, h => exact absurd rfl h
    | .pfcPauseLimit _ _, h => exact absurd rfl h
    | .ptpMessage _, h => exact absurd rfl h
    | .ppsPulse _, h => exact absurd rfl h
    | .timeSourceLoss, h => exact absurd rfl h
    | .timeCorrection, h => exact absurd rfl h
    | .portFrameSend _, h => exact absurd rfl h
    | .pendingReexamine _ _ _, h => exact absurd rfl h
    | .wheelSlotRelease _, h => exact absurd rfl h
    | .overflowSlotRelease _, h => exact absurd rfl h
    | .gateEntryBoundary _, h => exact absurd rfl h
    | .gateTakeover _, h => exact absurd rfl h
    | .leafIdleForget _ _ _ _, h => exact absurd rfl h
    | .mcAccess _ _ _ _ _, h => exact absurd rfl h
    | .correctionCountClear, h => exact absurd rfl h
    | .scrubGranule _ _, h => exact absurd rfl h
    | .refreshSlot _, h => exact absurd rfl h
    | .dramTempSample _, h => exact absurd rfl h
    | .snapLatch, h => exact absurd rfl h
    | .containmentTimeout _, h => exact absurd rfl h
    | .engineFailure _, h => exact absurd rfl h
    | .coreFailure _, h => exact absurd rfl h
    | .syFault, h => exact absurd rfl h
    | .functionLevelReset _, h => exact absurd rfl h
    | .hostLinkLoss _, h => exact absurd rfl h
    | .hostLinkUp _ _, h => exact absurd rfl h
    | .enAssert, h => exact absurd rfl h
    | .bootCommand _, h => exact absurd rfl h
    | .bootCommandTimeout, h => exact absurd rfl h
    | .shutdownCommand, h => exact absurd rfl h
    | .shutdownTestDone _ _ _, h => exact absurd rfl h
    | .sanitiseCommand _ _ _ _, h => exact absurd rfl h
    | .sanitiseDramDone _, h => exact absurd rfl h
    | .exportCommand _ _ _, h => exact absurd rfl h
    | .tenantCommand _, h => exact absurd rfl h
    | .firmwareInstall _, h => exact absurd rfl h
    | .firmwareActivate _, h => exact absurd rfl h
    | .compositionKeyInstall _ _ _, h => exact absurd rfl h
    | .managementEventRead, h => exact absurd rfl h
    | .pldmSensorRead, h => exact absurd rfl h
    | .getVersion _, h => exact absurd rfl h
    | .getCapabilities, h => exact absurd rfl h
    | .negotiateAlgorithms _, h => exact absurd rfl h
    | .getDigests, h => exact absurd rfl h
    | .getCertificate _ _ _, h => exact absurd rfl h
    | .challenge _ _, h => exact absurd rfl h
    | .getMeasurements _ _ _, h => exact absurd rfl h
    | .periodic _, h => exact absurd rfl h
    | .farPortTraining _ _ _, h => exact absurd rfl h
    | .queueIssueStateFault _ _, h => exact absurd rfl h
    | .configurationRequest _ _, h => exact absurd rfl h
    | .registerRead _ _ _ _, h => exact absurd rfl h
    | .undervoltageLockoutRelease, h => exact absurd rfl h
    | .ref10mSignal _, h => exact absurd rfl h
    | .nonTlaleyFrame _, h => exact absurd rfl h

end Sys2Proof.Machine
end

