-- ==== Sys2Proof/Laws/Maps.lean ====
section
/-! SUPPORT. Laws of the sparse tables: a read after a write of the same key gives the value written, other keys are
unchanged, and writes and erasures keep the keys rising. -/

set_option Elab.async false

namespace Sys2Proof.Machine.AMap

variable {α : Type}

theorem find?_insert_self (m : AMap α) (i : Nat) (v : α) : find? (insert m i v) i = some v := by
  induction m with
  | nil => simp [insert, find?]
  | cons e m ih =>
    obtain ⟨k, u⟩ := e
    simp only [insert]
    split
    · simp [find?]
    · split
      · simp [find?]
      · simp [find?, *]

theorem find?_insert_ne (m : AMap α) {i j : Nat} (v : α) (h : j ≠ i) : find? (insert m i v) j = find? m j := by
  induction m with
  | nil => simp [insert, find?, h.symm]
  | cons e m ih =>
    obtain ⟨k, u⟩ := e
    simp only [insert]
    split
    · simp [find?, h.symm]
    · split
      · next hk => simp [find?, hk, h.symm]
      · simp [find?, ih]

theorem find?_erase_ne (m : AMap α) {i j : Nat} (h : j ≠ i) : find? (erase m i) j = find? m j := by
  induction m with
  | nil => rfl
  | cons e m ih =>
    obtain ⟨k, u⟩ := e
    simp only [erase]
    split
    · next hk => simp [find?, hk, h.symm]
    · simp [find?, ih]

@[simp] theorem getD_insert_self (m : AMap α) (i : Nat) (v d : α) : getD (insert m i v) i d = v := by
  simp [getD, find?_insert_self]

theorem getD_insert_ne (m : AMap α) {i j : Nat} (v d : α) (h : j ≠ i) : getD (insert m i v) j d = getD m j d := by
  simp [getD, find?_insert_ne m v h]

theorem getD_erase_ne (m : AMap α) {i j : Nat} (d : α) (h : j ≠ i) : getD (erase m i) j d = getD m j d := by
  simp [getD, find?_erase_ne m h]

@[simp] theorem getD_nil (i : Nat) (d : α) : getD ([] : AMap α) i d = d := rfl

/-- No key of a table is below its first. -/
theorem lt_of_wf {k : Nat} {u : α} {m : AMap α} (h : wf ((k, u) :: m) = true) : ∀ e ∈ m, k < e.1 := by
  induction m generalizing k u with
  | nil => intro e he; cases he
  | cons e m ih =>
    obtain ⟨j, v⟩ := e
    simp only [wf, Bool.and_eq_true, decide_eq_true_eq] at h
    intro x hx
    cases hx with
    | head => exact h.1
    | tail _ hx => exact Nat.lt_trans h.1 (ih h.2 x hx)

theorem wf_tail {e : Nat × α} {m : AMap α} (h : wf (e :: m) = true) : wf m = true := by
  cases m with
  | nil => rfl
  | cons x m =>
    obtain ⟨k, u⟩ := e
    obtain ⟨j, v⟩ := x
    simp only [wf, Bool.and_eq_true] at h
    exact h.2

theorem wf_cons {k : Nat} {u : α} {m : AMap α} (h : wf m = true) (l : ∀ e ∈ m, k < e.1) : wf ((k, u) :: m) = true := by
  cases m with
  | nil => rfl
  | cons e m =>
    obtain ⟨j, v⟩ := e
    simp only [wf, Bool.and_eq_true, decide_eq_true_eq]
    exact ⟨l (j, v) (.head _), h⟩

theorem mem_insert {m : AMap α} {i : Nat} {v : α} {e : Nat × α} (h : e ∈ insert m i v) : e = (i, v) ∨ e ∈ m := by
  induction m with
  | nil => exact .inl (by simpa [insert] using h)
  | cons x m ih =>
    obtain ⟨k, u⟩ := x
    simp only [insert] at h
    split at h
    · cases h with
      | head => exact .inl rfl
      | tail _ h => exact .inr h
    · split at h
      · cases h with
        | head => exact .inl rfl
        | tail _ h => exact .inr (.tail _ h)
      · cases h with
        | head => exact .inr (.head _)
        | tail _ h => exact (ih h).imp_right (.tail _)

theorem wf_insert {m : AMap α} (h : wf m = true) (i : Nat) (v : α) : wf (insert m i v) = true := by
  induction m with
  | nil => rfl
  | cons e m ih =>
    obtain ⟨k, u⟩ := e
    have l := lt_of_wf h
    simp only [insert]
    split
    · next hik =>
      refine wf_cons h fun x hx => ?_
      cases hx with
      | head => exact hik
      | tail _ hx => exact Nat.lt_trans hik (l x hx)
    · split
      · next hk => exact wf_cons (wf_tail h) (hk ▸ l)
      · refine wf_cons (ih (wf_tail h)) fun x hx => ?_
        rcases mem_insert hx with rfl | hx
        · simp only; omega
        · exact l x hx

theorem mem_erase {m : AMap α} {i : Nat} {e : Nat × α} (h : e ∈ erase m i) : e ∈ m := by
  induction m with
  | nil => cases h
  | cons x m ih =>
    obtain ⟨k, u⟩ := x
    simp only [erase] at h
    split at h
    · exact .tail _ h
    · cases h with
      | head => exact .head _
      | tail _ h => exact .tail _ (ih h)

theorem wf_erase {m : AMap α} (h : wf m = true) (i : Nat) : wf (erase m i) = true := by
  induction m with
  | nil => rfl
  | cons e m ih =>
    obtain ⟨k, u⟩ := e
    simp only [erase]
    split
    · exact wf_tail h
    · exact wf_cons (ih (wf_tail h)) fun x hx => lt_of_wf h x (mem_erase hx)

theorem find?_none_of_lt {m : AMap α} {i : Nat} (h : ∀ e ∈ m, i < e.1) : find? m i = none := by
  induction m with
  | nil => rfl
  | cons e m ih =>
    obtain ⟨k, u⟩ := e
    have := h (k, u) (.head _)
    simp only [find?]
    rw [if_neg (by simp only at this; omega)]
    exact ih fun x hx => h x (.tail _ hx)

theorem find?_erase_self {m : AMap α} (h : wf m = true) (i : Nat) : find? (erase m i) i = none := by
  induction m with
  | nil => rfl
  | cons e m ih =>
    obtain ⟨k, u⟩ := e
    simp only [erase]
    split
    · next hk => exact find?_none_of_lt (hk ▸ lt_of_wf h)
    · next hk => simp [find?, hk, ih (wf_tail h)]

end Sys2Proof.Machine.AMap
end

