-- ==== Sys2Proof/Laws/Memory.lean ====
section
/-! SUPPORT. Laws of memory: a byte read after a write gives the byte written, other addresses read as before, and every
memory operation keeps the canonical form; a word written with its check nibbles is a valid code word (R392). -/

set_option Elab.async false

namespace Sys2Proof.Machine

/-- The keys of a memory lie above a bound. -/
def memAbove (k : Nat) (m : Memory) : Prop := ∀ e ∈ m, k < e.1

theorem memWf_cons_iff {a : Nat} {v : Byte} {m : Memory} :
    memWf ((a, v) :: m) = true ↔ v ≠ 0 ∧ memAbove a m ∧ memWf m = true := by
  induction m generalizing a v with
  | nil => simp [memWf, memAbove]
  | cons e m ih =>
    obtain ⟨b, w⟩ := e
    constructor
    · intro h
      simp only [memWf, Bool.and_eq_true, decide_eq_true_eq, bne_iff_ne, ne_eq] at h
      refine ⟨h.1.2, fun x hx => ?_, h.2⟩
      cases hx with
      | head => exact h.1.1
      | tail _ hx => exact Nat.lt_trans h.1.1 ((ih.mp h.2).2.1 x hx)
    · rintro ⟨h1, h2, h3⟩
      simp only [memWf, Bool.and_eq_true, decide_eq_true_eq, bne_iff_ne, ne_eq]
      exact ⟨⟨h2 (b, w) (.head _), h1⟩, h3⟩

theorem memGet_of_above {m : Memory} {a : Nat} (h : memAbove a m) : memGet m a = 0 := by
  induction m with
  | nil => rfl
  | cons e m ih =>
    obtain ⟨k, v⟩ := e
    have := h (k, v) (.head _)
    simp only [memGet]
    rw [if_neg (by simp only at this; omega)]
    exact ih fun x hx => h x (.tail _ hx)

theorem memGet_put_self {m : Memory} (h : memWf m = true) (a : Nat) (b : Byte) : memGet (memPut m a b) a = b := by
  induction m with
  | nil =>
    simp only [memPut]
    split
    · next hb => simp [memGet, hb]
    · simp [memGet]
  | cons e m ih =>
    obtain ⟨k, v⟩ := e
    obtain ⟨hv, hab, hm⟩ := memWf_cons_iff.mp h
    simp only [memPut]
    split
    · next hak =>
      split
      · next hb =>
        rw [hb]
        exact memGet_of_above fun x hx => by
          cases hx with
          | head => exact hak
          | tail _ hx => exact Nat.lt_trans hak (hab x hx)
      · simp [memGet]
    · split
      · next hk =>
        split
        · next hb =>
          rw [hb]
          exact memGet_of_above (hk ▸ hab)
        · simp [memGet]
      · next hk => simp [memGet, Ne.symm hk, ih hm]

theorem memGet_put_ne (m : Memory) {a x : Nat} (b : Byte) (hx : x ≠ a) : memGet (memPut m a b) x = memGet m x := by
  induction m with
  | nil =>
    simp only [memPut]
    split <;> simp [memGet, hx.symm]
  | cons e m ih =>
    obtain ⟨k, v⟩ := e
    simp only [memPut]
    split
    · split <;> simp [memGet, hx.symm]
    · split
      · next hk => split <;> simp [memGet, ← hk, hx.symm]
      · simp [memGet, ih]

theorem memAbove_put {m : Memory} {k a : Nat} (b : Byte) (h : memAbove k m) (ha : k < a) : memAbove k (memPut m a b) := by
  induction m with
  | nil =>
    simp only [memPut]
    split
    · exact h
    · intro x hx
      cases hx with
      | head => exact ha
      | tail _ hx => cases hx
  | cons e m ih =>
    obtain ⟨j, v⟩ := e
    have hj := h (j, v) (.head _)
    have ht : memAbove k m := fun x hx => h x (.tail _ hx)
    simp only [memPut]
    (repeat' split) <;> intro x hx
    · exact h x hx
    · cases hx with
      | head => exact ha
      | tail _ hx => exact h x hx
    · exact ht x hx
    · cases hx with
      | head => exact ha
      | tail _ hx => exact ht x hx
    · cases hx with
      | head => exact hj
      | tail _ hx => exact ih ht x hx

/-- Writing a byte keeps the canonical form. -/
theorem memWf_put {m : Memory} (h : memWf m = true) (a : Nat) (b : Byte) : memWf (memPut m a b) = true := by
  induction m with
  | nil =>
    simp only [memPut]
    split
    · rfl
    · next hb => simpa [memWf] using hb
  | cons e m ih =>
    obtain ⟨k, v⟩ := e
    obtain ⟨hv, hab, hm⟩ := memWf_cons_iff.mp h
    simp only [memPut]
    split
    · next hak =>
      split
      · exact h
      · next hb =>
        refine memWf_cons_iff.mpr ⟨hb, fun x hx => ?_, h⟩
        cases hx with
        | head => exact hak
        | tail _ hx => exact Nat.lt_trans hak (hab x hx)
    · split
      · next hk =>
        split
        · exact hm
        · next hb => exact memWf_cons_iff.mpr ⟨hb, hk ▸ hab, hm⟩
      · next h1 h2 => exact memWf_cons_iff.mpr ⟨hv, memAbove_put b hab (by omega), ih hm⟩

/-- Writing bytes keeps the canonical form. -/
theorem memWf_putN {m : Memory} (h : memWf m = true) (a : Nat) (bs : List Byte) : memWf (memPutN m a bs) = true := by
  induction bs generalizing m a with
  | nil => exact h
  | cons b bs ih => exact ih (memWf_put h a b) (a + 1)

/-- A byte outside the bytes written reads as before. -/
theorem memGet_putN_out (m : Memory) (a : Nat) (bs : List Byte) {x : Nat} (h : x < a ∨ a + bs.length ≤ x) :
    memGet (memPutN m a bs) x = memGet m x := by
  induction bs generalizing m a with
  | nil => rfl
  | cons b bs ih =>
    simp only [List.length_cons] at h
    rw [memPutN, ih _ _ (by omega), memGet_put_ne _ _ (by omega)]

/-- A byte written reads back. -/
theorem memGet_putN_in {m : Memory} (h : memWf m = true) (a : Nat) (bs : List Byte) {i : Nat} (hi : i < bs.length) :
    memGet (memPutN m a bs) (a + i) = bs[i] := by
  induction bs generalizing m a i with
  | nil => cases hi
  | cons b bs ih =>
    cases i with
    | zero =>
      rw [memPutN, memGet_putN_out _ _ _ (by omega)]
      simpa using memGet_put_self h a b
    | succ i =>
      have := ih (memWf_put h a b) (a + 1) (i := i) (by simpa using hi)
      rw [memPutN, show a + (i + 1) = a + 1 + i by omega, this]
      rfl

/-- The bytes written read back. -/
theorem memGetN_putN {m : Memory} (h : memWf m = true) (a : Nat) (bs : List Byte) :
    memGetN (memPutN m a bs) a bs.length = bs := by
  refine List.ext_getElem (by simp [memGetN]) fun i h1 h2 => ?_
  simp only [memGetN, List.getElem_map, List.getElem_range]
  exact memGet_putN_in h a bs h2

/-- DRAM with bytes written keeps its canonical form. -/
theorem putRaw_wf {m : Mem} (h : memWf m.dram = true) (a : Nat) (bs : List Byte) : memWf (putRaw m a bs).dram = true :=
  memWf_putN h a bs

/-- A write of a part of a code word, or of a whole one, keeps the canonical form. -/
theorem writeWord_wf {s : State} (h : memWf s.mem.dram = true) (w off : Nat) (bs : List Byte) :
    memWf (writeWord s w off bs).1.mem.dram = true := by
  unfold writeWord
  split
  · exact memWf_putN h w bs
  · split
    · exact h
    · next old _ =>
      simp only [putRaw]
      refine memWf_putN ?_ _ _
      split
      · exact h
      · exact memWf_putN h _ _

theorem devWriteWords_wf {s : State} (h : memWf s.mem.dram = true) (a : Nat) (bs : List Byte) (ws : List Nat) :
    memWf (devWriteWords s a bs ws).1.mem.dram = true := by
  induction ws generalizing s with
  | nil => exact h
  | cons w ws ih => exact ih (writeWord_wf h _ _ _)

/-- The end of a run of exhausted retries leaves DRAM alone. -/
@[simp] theorem endRuns_dram (s : State) (a n : Nat) : (endRuns s a n).mem.dram = s.mem.dram := by
  unfold endRuns
  split
  · rfl
  · next hs =>
    clear hs
    generalize List.filter _ _ = gs
    induction gs generalizing s with
    | nil => rfl
    | cons g gs ih => exact (ih _).trans rfl

/-- A write to device memory keeps the canonical form. -/
theorem devWrite_wf {s : State} (h : memWf s.mem.dram = true) (a : Nat) (bs : List Byte) :
    memWf (devWrite s a bs).1.mem.dram = true := by
  have h' : memWf (endRuns s a bs.length).mem.dram = true := (congrArg memWf (endRuns_dram s a bs.length)).trans h
  unfold devWrite
  generalize endRuns s a bs.length = t at h' ⊢
  dsimp only
  split
  · exact memWf_putN h' a bs
  · exact devWriteWords_wf h' a bs _

theorem devPut_wf {s : State} (h : memWf s.mem.dram = true) (a : Nat) (bs : List Byte) :
    memWf (devPut s a bs).mem.dram = true := devWrite_wf h a bs

/-- A write to host memory keeps the canonical form of every group's. -/
theorem hostWrite_wf {s t : State} {g a : Nat} {bs : List Byte} (h : memWf (AMap.getD s.host g []) = true)
    (e : hostWrite s g a bs = some t) : t.host = AMap.insert s.host g (memPutN (AMap.getD s.host g []) a bs) ∧
      memWf (memPutN (AMap.getD s.host g []) a bs) = true := by
  unfold hostWrite at e
  split at e
  · injection e with e
    exact ⟨e ▸ rfl, memWf_putN h a bs⟩
  · cases e

/-! ## The memory code -/

/-- A column whose four elements are of GF(2^4). -/
def Col.small (u : Col) : Prop := u.a < 16 ∧ u.b < 16 ∧ u.c < 16 ∧ u.d < 16

theorem gf16Mul_lt (a b : Nat) (ha : a < 16) : gf16Mul a b < 16 := by
  have step (n a b acc : Nat) (ha : a < 16) (hc : acc < 16) : gfMulStep 4 0x13 n a b acc < 16 := by
    induction n generalizing a b acc with
    | zero => exact hc
    | succ n ih =>
      have hx : Nat.xor acc a < 2 ^ 4 := Nat.xor_lt_two_pow hc ha
      have hr : ∀ v < 16, ¬ 2 * v < 2 ^ 4 → Nat.xor (2 * v) 0x13 < 16 := by decide
      unfold gfMulStep
      dsimp only
      refine ih _ _ _ ?_ ?_
      · split
        · assumption
        · exact hr a ha ‹_›
      · split
        · exact hx
        · exact hc
  exact step 4 a b 0 ha (by omega)

theorem colAdd_small {u v : Col} (hu : u.small) (hv : v.small) : (colAdd u v).small :=
  ⟨Nat.xor_lt_two_pow (n := 4) hu.1 hv.1, Nat.xor_lt_two_pow (n := 4) hu.2.1 hv.2.1,
    Nat.xor_lt_two_pow (n := 4) hu.2.2.1 hv.2.2.1, Nat.xor_lt_two_pow (n := 4) hu.2.2.2 hv.2.2.2⟩

theorem dataNibble_lt (bs : List Byte) (k : Nat) : dataNibble bs k < 16 := by
  have h (x : Nat) : x % 2 ≤ 1 := by omega
  simp only [dataNibble, List.map_cons, List.map_nil, List.sum_cons, List.sum_nil]
  have h0 := h ((bs.getD (4 * 0 + k / 8) 0).toNat / 2 ^ (k % 8))
  have h1 := h ((bs.getD (4 * 1 + k / 8) 0).toNat / 2 ^ (k % 8))
  have h2 := h ((bs.getD (4 * 2 + k / 8) 0).toNat / 2 ^ (k % 8))
  have h3 := h ((bs.getD (4 * 3 + k / 8) 0).toNat / 2 ^ (k % 8))
  omega

/-- The syndrome of symbols of GF(2^4) is of GF(2^4). -/
theorem syndrome_small {es : List (Nat × Nat)} (h : ∀ e ∈ es, e.2 < 16) : (syndrome es).small := by
  have go (es : List (Nat × Nat)) (u : Col) (hu : u.small) (h : ∀ e ∈ es, e.2 < 16) :
      (es.foldl (fun acc e => colAdd acc (colScale e.2 (hCol e.1))) u).small := by
    induction es generalizing u with
    | nil => exact hu
    | cons e es ih =>
      have he := h e (.head _)
      exact ih _ (colAdd_small hu ⟨gf16Mul_lt _ _ he, gf16Mul_lt _ _ he, gf16Mul_lt _ _ he, gf16Mul_lt _ _ he⟩)
        fun x hx => h x (.tail _ hx)
  exact go es _ ⟨by decide, by decide, by decide, by decide⟩ h

theorem syndrome_append (xs ys : List (Nat × Nat)) :
    syndrome (xs ++ ys) = ys.foldl (fun acc e => colAdd acc (colScale e.2 (hCol e.1))) (syndrome xs) := List.foldl_append ..

theorem colScale_c0 {x : Nat} (h : x < 16) : colScale x (hCol 32) = ⟨0, 0, 0, x⟩ := by revert x; decide
theorem colScale_c1 {x : Nat} (h : x < 16) : colScale x (hCol 33) = ⟨x, 0, 0, 0⟩ := by revert x; decide
theorem colScale_c2 {x : Nat} (h : x < 16) : colScale x (hCol 34) = ⟨x, x, 0, x⟩ := by revert x; decide
theorem colScale_c3 {x : Nat} (h : x < 16) : colScale x (hCol 35) = ⟨x, 0, x, gf16Mul 8 x⟩ := by revert x; decide

/-- A word with the check nibbles that the controller writes is a valid code word: its syndrome is 0 (R390, R392). -/
theorem encodeWord_valid (bs : List Byte) :
    syndrome ((List.range 32).map (fun k => (k, dataNibble bs k)) ++
      (encodeWord bs).zipIdx.map (fun e => (32 + e.2, e.1))) = ⟨0, 0, 0, 0⟩ := by
  have hs : (syndrome ((List.range 32).map (fun k => (k, dataNibble bs k)))).small := syndrome_small fun e he => by
    obtain ⟨k, -, rfl⟩ := List.mem_map.mp he
    exact dataNibble_lt bs k
  rw [syndrome_append, encodeWord]
  generalize syndrome ((List.range 32).map (fun k => (k, dataNibble bs k))) = u at hs ⊢
  obtain ⟨a, b, c, d⟩ := u
  obtain ⟨ha, hb, hc, hd⟩ := hs
  have h0 : xorN (xorN d b) (gf16Mul 8 c) < 16 :=
    Nat.xor_lt_two_pow (n := 4) (Nat.xor_lt_two_pow (n := 4) hd hb) (gf16Mul_lt 8 c (by decide))
  have h1 : xorN (xorN a b) c < 16 := Nat.xor_lt_two_pow (n := 4) (Nat.xor_lt_two_pow (n := 4) ha hb) hc
  simp only [List.zipIdx_cons, List.zipIdx_nil, List.map_cons, List.map_nil, List.foldl_cons, List.foldl_nil, Nat.zero_add,
    Nat.reduceAdd, colScale_c0 h0, colScale_c1 h1, colScale_c2 hb, colScale_c3 hc]
  simp only [colAdd, xorN, Nat.xor_eq, Col.mk.injEq]
  generalize gf16Mul 8 c = m
  refine ⟨?_, ?_, ?_, ?_⟩ <;> refine Nat.eq_of_testBit_eq fun i => ?_ <;>
    simp only [Nat.testBit_xor, Nat.zero_testBit, Bool.xor_false] <;>
    cases a.testBit i <;> cases b.testBit i <;> cases c.testBit i <;> cases d.testBit i <;> cases m.testBit i <;> rfl

end Sys2Proof.Machine
end

