-- ==== Sys2Proof/Laws/State.lean ====
section
/-! SUPPORT. Laws of the state: what each update leaves of each field, and what it makes of the part it writes. -/

set_option Elab.async false

namespace Sys2Proof.Machine

/-! ## setPart -/

@[simp] theorem setPart_pending (s : State) (p : Nat) (x : Part) : (setPart s p x).pending = s.pending := rfl
@[simp] theorem setPart_now (s : State) (p : Nat) (x : Part) : (setPart s p x).now = s.now := rfl
@[simp] theorem setPart_islands (s : State) (p : Nat) (x : Part) : (setPart s p x).islands = s.islands := rfl
@[simp] theorem setPart_freeCtr (s : State) (p : Nat) (x : Part) : (setPart s p x).freeCtr = s.freeCtr := rfl
@[simp] theorem setPart_out (s : State) (p : Nat) (x : Part) : (setPart s p x).out = s.out := rfl
@[simp] theorem setPart_noc (s : State) (p : Nat) (x : Part) : (setPart s p x).noc = s.noc := rfl
@[simp] theorem setPart_reported (s : State) (p : Nat) (x : Part) : (setPart s p x).reported = s.reported := rfl
@[simp] theorem setPart_power (s : State) (p : Nat) (x : Part) : (setPart s p x).power = s.power := rfl
@[simp] theorem setPart_life (s : State) (p : Nat) (x : Part) : (setPart s p x).life = s.life := rfl
@[simp] theorem setPart_flash (s : State) (p : Nat) (x : Part) : (setPart s p x).flash = s.flash := rfl
@[simp] theorem setPart_mgmt (s : State) (p : Nat) (x : Part) : (setPart s p x).mgmt = s.mgmt := rfl
@[simp] theorem setPart_comp (s : State) (p : Nat) (x : Part) : (setPart s p x).comp = s.comp := rfl
@[simp] theorem setPart_engines (s : State) (p : Nat) (x : Part) : (setPart s p x).engines = s.engines := rfl
@[simp] theorem setPart_acts (s : State) (p : Nat) (x : Part) : (setPart s p x).acts = s.acts := rfl
@[simp] theorem setPart_home (s : State) (p : Nat) (x : Part) : (setPart s p x).home = s.home := rfl
@[simp] theorem setPart_mem (s : State) (p : Nat) (x : Part) : (setPart s p x).mem = s.mem := rfl
@[simp] theorem setPart_host (s : State) (p : Nat) (x : Part) : (setPart s p x).host = s.host := rfl
@[simp] theorem setPart_poltex (s : State) (p : Nat) (x : Part) : (setPart s p x).poltex = s.poltex := rfl
@[simp] theorem setPart_tlaley (s : State) (p : Nat) (x : Part) : (setPart s p x).tlaley = s.tlaley := rfl
@[simp] theorem setPart_time (s : State) (p : Nat) (x : Part) : (setPart s p x).time = s.time := rfl
@[simp] theorem setPart_streams (s : State) (p : Nat) (x : Part) : (setPart s p x).streams = s.streams := rfl
@[simp] theorem setPart_index (s : State) (p : Nat) (x : Part) : (setPart s p x).index = s.index := rfl
@[simp] theorem setPart_shaper (s : State) (p : Nat) (x : Part) : (setPart s p x).shaper = s.shaper := rfl
@[simp] theorem setPart_counters (s : State) (p : Nat) (x : Part) : (setPart s p x).counters = s.counters := rfl
@[simp] theorem setPart_selectors (s : State) (p : Nat) (x : Part) : (setPart s p x).selectors = s.selectors := rfl
@[simp] theorem setPart_ready (s : State) (p : Nat) (x : Part) : ready (setPart s p x) = ready s := rfl
@[simp] theorem setPart_compOf (s : State) (p : Nat) (x : Part) : compOf (setPart s p x) = compOf s := rfl
@[simp] theorem setPart_me (s : State) (p : Nat) (x : Part) : me (setPart s p x) = me s := rfl
@[simp] theorem setPart_roleOf (s : State) (p : Nat) (x : Part) : roleOf (setPart s p x) = roleOf s := rfl
@[simp] theorem setPart_composed (s : State) (p : Nat) (x : Part) (k' : Nat) : composed (setPart s p x) k' = composed s k' := rfl
@[simp] theorem setPart_sliceOf (s : State) (p : Nat) (x : Part) (k' : Nat) : sliceOf (setPart s p x) k' = sliceOf s k' := rfl

/-! ## modPart -/

@[simp] theorem modPart_pending (s : State) (p : Nat) (f : Part → Part) : (modPart s p f).pending = s.pending := rfl
@[simp] theorem modPart_now (s : State) (p : Nat) (f : Part → Part) : (modPart s p f).now = s.now := rfl
@[simp] theorem modPart_islands (s : State) (p : Nat) (f : Part → Part) : (modPart s p f).islands = s.islands := rfl
@[simp] theorem modPart_freeCtr (s : State) (p : Nat) (f : Part → Part) : (modPart s p f).freeCtr = s.freeCtr := rfl
@[simp] theorem modPart_out (s : State) (p : Nat) (f : Part → Part) : (modPart s p f).out = s.out := rfl
@[simp] theorem modPart_noc (s : State) (p : Nat) (f : Part → Part) : (modPart s p f).noc = s.noc := rfl
@[simp] theorem modPart_reported (s : State) (p : Nat) (f : Part → Part) : (modPart s p f).reported = s.reported := rfl
@[simp] theorem modPart_power (s : State) (p : Nat) (f : Part → Part) : (modPart s p f).power = s.power := rfl
@[simp] theorem modPart_life (s : State) (p : Nat) (f : Part → Part) : (modPart s p f).life = s.life := rfl
@[simp] theorem modPart_flash (s : State) (p : Nat) (f : Part → Part) : (modPart s p f).flash = s.flash := rfl
@[simp] theorem modPart_mgmt (s : State) (p : Nat) (f : Part → Part) : (modPart s p f).mgmt = s.mgmt := rfl
@[simp] theorem modPart_comp (s : State) (p : Nat) (f : Part → Part) : (modPart s p f).comp = s.comp := rfl
@[simp] theorem modPart_engines (s : State) (p : Nat) (f : Part → Part) : (modPart s p f).engines = s.engines := rfl
@[simp] theorem modPart_acts (s : State) (p : Nat) (f : Part → Part) : (modPart s p f).acts = s.acts := rfl
@[simp] theorem modPart_home (s : State) (p : Nat) (f : Part → Part) : (modPart s p f).home = s.home := rfl
@[simp] theorem modPart_mem (s : State) (p : Nat) (f : Part → Part) : (modPart s p f).mem = s.mem := rfl
@[simp] theorem modPart_host (s : State) (p : Nat) (f : Part → Part) : (modPart s p f).host = s.host := rfl
@[simp] theorem modPart_poltex (s : State) (p : Nat) (f : Part → Part) : (modPart s p f).poltex = s.poltex := rfl
@[simp] theorem modPart_tlaley (s : State) (p : Nat) (f : Part → Part) : (modPart s p f).tlaley = s.tlaley := rfl
@[simp] theorem modPart_time (s : State) (p : Nat) (f : Part → Part) : (modPart s p f).time = s.time := rfl
@[simp] theorem modPart_streams (s : State) (p : Nat) (f : Part → Part) : (modPart s p f).streams = s.streams := rfl
@[simp] theorem modPart_index (s : State) (p : Nat) (f : Part → Part) : (modPart s p f).index = s.index := rfl
@[simp] theorem modPart_shaper (s : State) (p : Nat) (f : Part → Part) : (modPart s p f).shaper = s.shaper := rfl
@[simp] theorem modPart_counters (s : State) (p : Nat) (f : Part → Part) : (modPart s p f).counters = s.counters := rfl
@[simp] theorem modPart_selectors (s : State) (p : Nat) (f : Part → Part) : (modPart s p f).selectors = s.selectors := rfl
@[simp] theorem modPart_ready (s : State) (p : Nat) (f : Part → Part) : ready (modPart s p f) = ready s := rfl
@[simp] theorem modPart_compOf (s : State) (p : Nat) (f : Part → Part) : compOf (modPart s p f) = compOf s := rfl
@[simp] theorem modPart_me (s : State) (p : Nat) (f : Part → Part) : me (modPart s p f) = me s := rfl
@[simp] theorem modPart_roleOf (s : State) (p : Nat) (f : Part → Part) : roleOf (modPart s p f) = roleOf s := rfl
@[simp] theorem modPart_composed (s : State) (p : Nat) (f : Part → Part) (k' : Nat) : composed (modPart s p f) k' = composed s k' := rfl
@[simp] theorem modPart_sliceOf (s : State) (p : Nat) (f : Part → Part) (k' : Nat) : sliceOf (modPart s p f) k' = sliceOf s k' := rfl

/-! ## modQueue -/

@[simp] theorem modQueue_pending (s : State) (p q : Nat) (f : Queue → Queue) : (modQueue s p q f).pending = s.pending := rfl
@[simp] theorem modQueue_now (s : State) (p q : Nat) (f : Queue → Queue) : (modQueue s p q f).now = s.now := rfl
@[simp] theorem modQueue_islands (s : State) (p q : Nat) (f : Queue → Queue) : (modQueue s p q f).islands = s.islands := rfl
@[simp] theorem modQueue_freeCtr (s : State) (p q : Nat) (f : Queue → Queue) : (modQueue s p q f).freeCtr = s.freeCtr := rfl
@[simp] theorem modQueue_out (s : State) (p q : Nat) (f : Queue → Queue) : (modQueue s p q f).out = s.out := rfl
@[simp] theorem modQueue_noc (s : State) (p q : Nat) (f : Queue → Queue) : (modQueue s p q f).noc = s.noc := rfl
@[simp] theorem modQueue_reported (s : State) (p q : Nat) (f : Queue → Queue) : (modQueue s p q f).reported = s.reported := rfl
@[simp] theorem modQueue_power (s : State) (p q : Nat) (f : Queue → Queue) : (modQueue s p q f).power = s.power := rfl
@[simp] theorem modQueue_life (s : State) (p q : Nat) (f : Queue → Queue) : (modQueue s p q f).life = s.life := rfl
@[simp] theorem modQueue_flash (s : State) (p q : Nat) (f : Queue → Queue) : (modQueue s p q f).flash = s.flash := rfl
@[simp] theorem modQueue_mgmt (s : State) (p q : Nat) (f : Queue → Queue) : (modQueue s p q f).mgmt = s.mgmt := rfl
@[simp] theorem modQueue_comp (s : State) (p q : Nat) (f : Queue → Queue) : (modQueue s p q f).comp = s.comp := rfl
@[simp] theorem modQueue_engines (s : State) (p q : Nat) (f : Queue → Queue) : (modQueue s p q f).engines = s.engines := rfl
@[simp] theorem modQueue_acts (s : State) (p q : Nat) (f : Queue → Queue) : (modQueue s p q f).acts = s.acts := rfl
@[simp] theorem modQueue_home (s : State) (p q : Nat) (f : Queue → Queue) : (modQueue s p q f).home = s.home := rfl
@[simp] theorem modQueue_mem (s : State) (p q : Nat) (f : Queue → Queue) : (modQueue s p q f).mem = s.mem := rfl
@[simp] theorem modQueue_host (s : State) (p q : Nat) (f : Queue → Queue) : (modQueue s p q f).host = s.host := rfl
@[simp] theorem modQueue_poltex (s : State) (p q : Nat) (f : Queue → Queue) : (modQueue s p q f).poltex = s.poltex := rfl
@[simp] theorem modQueue_tlaley (s : State) (p q : Nat) (f : Queue → Queue) : (modQueue s p q f).tlaley = s.tlaley := rfl
@[simp] theorem modQueue_time (s : State) (p q : Nat) (f : Queue → Queue) : (modQueue s p q f).time = s.time := rfl
@[simp] theorem modQueue_streams (s : State) (p q : Nat) (f : Queue → Queue) : (modQueue s p q f).streams = s.streams := rfl
@[simp] theorem modQueue_index (s : State) (p q : Nat) (f : Queue → Queue) : (modQueue s p q f).index = s.index := rfl
@[simp] theorem modQueue_shaper (s : State) (p q : Nat) (f : Queue → Queue) : (modQueue s p q f).shaper = s.shaper := rfl
@[simp] theorem modQueue_counters (s : State) (p q : Nat) (f : Queue → Queue) : (modQueue s p q f).counters = s.counters := rfl
@[simp] theorem modQueue_selectors (s : State) (p q : Nat) (f : Queue → Queue) : (modQueue s p q f).selectors = s.selectors := rfl
@[simp] theorem modQueue_ready (s : State) (p q : Nat) (f : Queue → Queue) : ready (modQueue s p q f) = ready s := rfl
@[simp] theorem modQueue_compOf (s : State) (p q : Nat) (f : Queue → Queue) : compOf (modQueue s p q f) = compOf s := rfl
@[simp] theorem modQueue_me (s : State) (p q : Nat) (f : Queue → Queue) : me (modQueue s p q f) = me s := rfl
@[simp] theorem modQueue_roleOf (s : State) (p q : Nat) (f : Queue → Queue) : roleOf (modQueue s p q f) = roleOf s := rfl
@[simp] theorem modQueue_composed (s : State) (p q : Nat) (f : Queue → Queue) (k' : Nat) : composed (modQueue s p q f) k' = composed s k' := rfl
@[simp] theorem modQueue_sliceOf (s : State) (p q : Nat) (f : Queue → Queue) (k' : Nat) : sliceOf (modQueue s p q f) k' = sliceOf s k' := rfl

/-! ## modIssued -/

@[simp] theorem modIssued_pending (s : State) (w : IRef) (f : Issued → Issued) : (modIssued s w f).pending = s.pending := rfl
@[simp] theorem modIssued_now (s : State) (w : IRef) (f : Issued → Issued) : (modIssued s w f).now = s.now := rfl
@[simp] theorem modIssued_islands (s : State) (w : IRef) (f : Issued → Issued) : (modIssued s w f).islands = s.islands := rfl
@[simp] theorem modIssued_freeCtr (s : State) (w : IRef) (f : Issued → Issued) : (modIssued s w f).freeCtr = s.freeCtr := rfl
@[simp] theorem modIssued_out (s : State) (w : IRef) (f : Issued → Issued) : (modIssued s w f).out = s.out := rfl
@[simp] theorem modIssued_noc (s : State) (w : IRef) (f : Issued → Issued) : (modIssued s w f).noc = s.noc := rfl
@[simp] theorem modIssued_reported (s : State) (w : IRef) (f : Issued → Issued) : (modIssued s w f).reported = s.reported := rfl
@[simp] theorem modIssued_power (s : State) (w : IRef) (f : Issued → Issued) : (modIssued s w f).power = s.power := rfl
@[simp] theorem modIssued_life (s : State) (w : IRef) (f : Issued → Issued) : (modIssued s w f).life = s.life := rfl
@[simp] theorem modIssued_flash (s : State) (w : IRef) (f : Issued → Issued) : (modIssued s w f).flash = s.flash := rfl
@[simp] theorem modIssued_mgmt (s : State) (w : IRef) (f : Issued → Issued) : (modIssued s w f).mgmt = s.mgmt := rfl
@[simp] theorem modIssued_comp (s : State) (w : IRef) (f : Issued → Issued) : (modIssued s w f).comp = s.comp := rfl
@[simp] theorem modIssued_engines (s : State) (w : IRef) (f : Issued → Issued) : (modIssued s w f).engines = s.engines := rfl
@[simp] theorem modIssued_acts (s : State) (w : IRef) (f : Issued → Issued) : (modIssued s w f).acts = s.acts := rfl
@[simp] theorem modIssued_home (s : State) (w : IRef) (f : Issued → Issued) : (modIssued s w f).home = s.home := rfl
@[simp] theorem modIssued_mem (s : State) (w : IRef) (f : Issued → Issued) : (modIssued s w f).mem = s.mem := rfl
@[simp] theorem modIssued_host (s : State) (w : IRef) (f : Issued → Issued) : (modIssued s w f).host = s.host := rfl
@[simp] theorem modIssued_poltex (s : State) (w : IRef) (f : Issued → Issued) : (modIssued s w f).poltex = s.poltex := rfl
@[simp] theorem modIssued_tlaley (s : State) (w : IRef) (f : Issued → Issued) : (modIssued s w f).tlaley = s.tlaley := rfl
@[simp] theorem modIssued_time (s : State) (w : IRef) (f : Issued → Issued) : (modIssued s w f).time = s.time := rfl
@[simp] theorem modIssued_streams (s : State) (w : IRef) (f : Issued → Issued) : (modIssued s w f).streams = s.streams := rfl
@[simp] theorem modIssued_index (s : State) (w : IRef) (f : Issued → Issued) : (modIssued s w f).index = s.index := rfl
@[simp] theorem modIssued_shaper (s : State) (w : IRef) (f : Issued → Issued) : (modIssued s w f).shaper = s.shaper := rfl
@[simp] theorem modIssued_counters (s : State) (w : IRef) (f : Issued → Issued) : (modIssued s w f).counters = s.counters := rfl
@[simp] theorem modIssued_selectors (s : State) (w : IRef) (f : Issued → Issued) : (modIssued s w f).selectors = s.selectors := rfl
@[simp] theorem modIssued_ready (s : State) (w : IRef) (f : Issued → Issued) : ready (modIssued s w f) = ready s := rfl
@[simp] theorem modIssued_compOf (s : State) (w : IRef) (f : Issued → Issued) : compOf (modIssued s w f) = compOf s := rfl
@[simp] theorem modIssued_me (s : State) (w : IRef) (f : Issued → Issued) : me (modIssued s w f) = me s := rfl
@[simp] theorem modIssued_roleOf (s : State) (w : IRef) (f : Issued → Issued) : roleOf (modIssued s w f) = roleOf s := rfl
@[simp] theorem modIssued_composed (s : State) (w : IRef) (f : Issued → Issued) (k' : Nat) : composed (modIssued s w f) k' = composed s k' := rfl
@[simp] theorem modIssued_sliceOf (s : State) (w : IRef) (f : Issued → Issued) (k' : Nat) : sliceOf (modIssued s w f) k' = sliceOf s k' := rfl

/-! ## finish -/

@[simp] theorem finish_pending (s : State) (w : IRef) (st r : Nat) (fx : List Effect) : (finish s w st r fx).pending = s.pending := rfl
@[simp] theorem finish_now (s : State) (w : IRef) (st r : Nat) (fx : List Effect) : (finish s w st r fx).now = s.now := rfl
@[simp] theorem finish_islands (s : State) (w : IRef) (st r : Nat) (fx : List Effect) : (finish s w st r fx).islands = s.islands := rfl
@[simp] theorem finish_freeCtr (s : State) (w : IRef) (st r : Nat) (fx : List Effect) : (finish s w st r fx).freeCtr = s.freeCtr := rfl
@[simp] theorem finish_out (s : State) (w : IRef) (st r : Nat) (fx : List Effect) : (finish s w st r fx).out = s.out := rfl
@[simp] theorem finish_noc (s : State) (w : IRef) (st r : Nat) (fx : List Effect) : (finish s w st r fx).noc = s.noc := rfl
@[simp] theorem finish_reported (s : State) (w : IRef) (st r : Nat) (fx : List Effect) : (finish s w st r fx).reported = s.reported := rfl
@[simp] theorem finish_power (s : State) (w : IRef) (st r : Nat) (fx : List Effect) : (finish s w st r fx).power = s.power := rfl
@[simp] theorem finish_life (s : State) (w : IRef) (st r : Nat) (fx : List Effect) : (finish s w st r fx).life = s.life := rfl
@[simp] theorem finish_flash (s : State) (w : IRef) (st r : Nat) (fx : List Effect) : (finish s w st r fx).flash = s.flash := rfl
@[simp] theorem finish_mgmt (s : State) (w : IRef) (st r : Nat) (fx : List Effect) : (finish s w st r fx).mgmt = s.mgmt := rfl
@[simp] theorem finish_comp (s : State) (w : IRef) (st r : Nat) (fx : List Effect) : (finish s w st r fx).comp = s.comp := rfl
@[simp] theorem finish_engines (s : State) (w : IRef) (st r : Nat) (fx : List Effect) : (finish s w st r fx).engines = s.engines := rfl
@[simp] theorem finish_acts (s : State) (w : IRef) (st r : Nat) (fx : List Effect) : (finish s w st r fx).acts = s.acts := rfl
@[simp] theorem finish_home (s : State) (w : IRef) (st r : Nat) (fx : List Effect) : (finish s w st r fx).home = s.home := rfl
@[simp] theorem finish_mem (s : State) (w : IRef) (st r : Nat) (fx : List Effect) : (finish s w st r fx).mem = s.mem := rfl
@[simp] theorem finish_host (s : State) (w : IRef) (st r : Nat) (fx : List Effect) : (finish s w st r fx).host = s.host := rfl
@[simp] theorem finish_poltex (s : State) (w : IRef) (st r : Nat) (fx : List Effect) : (finish s w st r fx).poltex = s.poltex := rfl
@[simp] theorem finish_tlaley (s : State) (w : IRef) (st r : Nat) (fx : List Effect) : (finish s w st r fx).tlaley = s.tlaley := rfl
@[simp] theorem finish_time (s : State) (w : IRef) (st r : Nat) (fx : List Effect) : (finish s w st r fx).time = s.time := rfl
@[simp] theorem finish_streams (s : State) (w : IRef) (st r : Nat) (fx : List Effect) : (finish s w st r fx).streams = s.streams := rfl
@[simp] theorem finish_index (s : State) (w : IRef) (st r : Nat) (fx : List Effect) : (finish s w st r fx).index = s.index := rfl
@[simp] theorem finish_shaper (s : State) (w : IRef) (st r : Nat) (fx : List Effect) : (finish s w st r fx).shaper = s.shaper := rfl
@[simp] theorem finish_counters (s : State) (w : IRef) (st r : Nat) (fx : List Effect) : (finish s w st r fx).counters = s.counters := rfl
@[simp] theorem finish_selectors (s : State) (w : IRef) (st r : Nat) (fx : List Effect) : (finish s w st r fx).selectors = s.selectors := rfl
@[simp] theorem finish_ready (s : State) (w : IRef) (st r : Nat) (fx : List Effect) : ready (finish s w st r fx) = ready s := rfl
@[simp] theorem finish_compOf (s : State) (w : IRef) (st r : Nat) (fx : List Effect) : compOf (finish s w st r fx) = compOf s := rfl
@[simp] theorem finish_me (s : State) (w : IRef) (st r : Nat) (fx : List Effect) : me (finish s w st r fx) = me s := rfl
@[simp] theorem finish_roleOf (s : State) (w : IRef) (st r : Nat) (fx : List Effect) : roleOf (finish s w st r fx) = roleOf s := rfl
@[simp] theorem finish_composed (s : State) (w : IRef) (st r : Nat) (fx : List Effect) (k' : Nat) : composed (finish s w st r fx) k' = composed s k' := rfl
@[simp] theorem finish_sliceOf (s : State) (w : IRef) (st r : Nat) (fx : List Effect) (k' : Nat) : sliceOf (finish s w st r fx) k' = sliceOf s k' := rfl

/-! ## failWith -/

@[simp] theorem failWith_pending (s : State) (w : IRef) (st : Nat) : (failWith s w st).pending = s.pending := rfl
@[simp] theorem failWith_now (s : State) (w : IRef) (st : Nat) : (failWith s w st).now = s.now := rfl
@[simp] theorem failWith_islands (s : State) (w : IRef) (st : Nat) : (failWith s w st).islands = s.islands := rfl
@[simp] theorem failWith_freeCtr (s : State) (w : IRef) (st : Nat) : (failWith s w st).freeCtr = s.freeCtr := rfl
@[simp] theorem failWith_out (s : State) (w : IRef) (st : Nat) : (failWith s w st).out = s.out := rfl
@[simp] theorem failWith_noc (s : State) (w : IRef) (st : Nat) : (failWith s w st).noc = s.noc := rfl
@[simp] theorem failWith_reported (s : State) (w : IRef) (st : Nat) : (failWith s w st).reported = s.reported := rfl
@[simp] theorem failWith_power (s : State) (w : IRef) (st : Nat) : (failWith s w st).power = s.power := rfl
@[simp] theorem failWith_life (s : State) (w : IRef) (st : Nat) : (failWith s w st).life = s.life := rfl
@[simp] theorem failWith_flash (s : State) (w : IRef) (st : Nat) : (failWith s w st).flash = s.flash := rfl
@[simp] theorem failWith_mgmt (s : State) (w : IRef) (st : Nat) : (failWith s w st).mgmt = s.mgmt := rfl
@[simp] theorem failWith_comp (s : State) (w : IRef) (st : Nat) : (failWith s w st).comp = s.comp := rfl
@[simp] theorem failWith_engines (s : State) (w : IRef) (st : Nat) : (failWith s w st).engines = s.engines := rfl
@[simp] theorem failWith_acts (s : State) (w : IRef) (st : Nat) : (failWith s w st).acts = s.acts := rfl
@[simp] theorem failWith_home (s : State) (w : IRef) (st : Nat) : (failWith s w st).home = s.home := rfl
@[simp] theorem failWith_mem (s : State) (w : IRef) (st : Nat) : (failWith s w st).mem = s.mem := rfl
@[simp] theorem failWith_host (s : State) (w : IRef) (st : Nat) : (failWith s w st).host = s.host := rfl
@[simp] theorem failWith_poltex (s : State) (w : IRef) (st : Nat) : (failWith s w st).poltex = s.poltex := rfl
@[simp] theorem failWith_tlaley (s : State) (w : IRef) (st : Nat) : (failWith s w st).tlaley = s.tlaley := rfl
@[simp] theorem failWith_time (s : State) (w : IRef) (st : Nat) : (failWith s w st).time = s.time := rfl
@[simp] theorem failWith_streams (s : State) (w : IRef) (st : Nat) : (failWith s w st).streams = s.streams := rfl
@[simp] theorem failWith_index (s : State) (w : IRef) (st : Nat) : (failWith s w st).index = s.index := rfl
@[simp] theorem failWith_shaper (s : State) (w : IRef) (st : Nat) : (failWith s w st).shaper = s.shaper := rfl
@[simp] theorem failWith_counters (s : State) (w : IRef) (st : Nat) : (failWith s w st).counters = s.counters := rfl
@[simp] theorem failWith_selectors (s : State) (w : IRef) (st : Nat) : (failWith s w st).selectors = s.selectors := rfl
@[simp] theorem failWith_ready (s : State) (w : IRef) (st : Nat) : ready (failWith s w st) = ready s := rfl
@[simp] theorem failWith_compOf (s : State) (w : IRef) (st : Nat) : compOf (failWith s w st) = compOf s := rfl
@[simp] theorem failWith_me (s : State) (w : IRef) (st : Nat) : me (failWith s w st) = me s := rfl
@[simp] theorem failWith_roleOf (s : State) (w : IRef) (st : Nat) : roleOf (failWith s w st) = roleOf s := rfl
@[simp] theorem failWith_composed (s : State) (w : IRef) (st : Nat) (k' : Nat) : composed (failWith s w st) k' = composed s k' := rfl
@[simp] theorem failWith_sliceOf (s : State) (w : IRef) (st : Nat) (k' : Nat) : sliceOf (failWith s w st) k' = sliceOf s k' := rfl

/-! ## setRec -/

@[simp] theorem setRec_pending (s : State) (p i : Nat) (r : Rec) : (setRec s p i r).pending = s.pending := rfl
@[simp] theorem setRec_now (s : State) (p i : Nat) (r : Rec) : (setRec s p i r).now = s.now := rfl
@[simp] theorem setRec_islands (s : State) (p i : Nat) (r : Rec) : (setRec s p i r).islands = s.islands := rfl
@[simp] theorem setRec_freeCtr (s : State) (p i : Nat) (r : Rec) : (setRec s p i r).freeCtr = s.freeCtr := rfl
@[simp] theorem setRec_out (s : State) (p i : Nat) (r : Rec) : (setRec s p i r).out = s.out := rfl
@[simp] theorem setRec_noc (s : State) (p i : Nat) (r : Rec) : (setRec s p i r).noc = s.noc := rfl
@[simp] theorem setRec_reported (s : State) (p i : Nat) (r : Rec) : (setRec s p i r).reported = s.reported := rfl
@[simp] theorem setRec_power (s : State) (p i : Nat) (r : Rec) : (setRec s p i r).power = s.power := rfl
@[simp] theorem setRec_life (s : State) (p i : Nat) (r : Rec) : (setRec s p i r).life = s.life := rfl
@[simp] theorem setRec_flash (s : State) (p i : Nat) (r : Rec) : (setRec s p i r).flash = s.flash := rfl
@[simp] theorem setRec_mgmt (s : State) (p i : Nat) (r : Rec) : (setRec s p i r).mgmt = s.mgmt := rfl
@[simp] theorem setRec_comp (s : State) (p i : Nat) (r : Rec) : (setRec s p i r).comp = s.comp := rfl
@[simp] theorem setRec_engines (s : State) (p i : Nat) (r : Rec) : (setRec s p i r).engines = s.engines := rfl
@[simp] theorem setRec_acts (s : State) (p i : Nat) (r : Rec) : (setRec s p i r).acts = s.acts := rfl
@[simp] theorem setRec_home (s : State) (p i : Nat) (r : Rec) : (setRec s p i r).home = s.home := rfl
@[simp] theorem setRec_mem (s : State) (p i : Nat) (r : Rec) : (setRec s p i r).mem = s.mem := rfl
@[simp] theorem setRec_host (s : State) (p i : Nat) (r : Rec) : (setRec s p i r).host = s.host := rfl
@[simp] theorem setRec_poltex (s : State) (p i : Nat) (r : Rec) : (setRec s p i r).poltex = s.poltex := rfl
@[simp] theorem setRec_tlaley (s : State) (p i : Nat) (r : Rec) : (setRec s p i r).tlaley = s.tlaley := rfl
@[simp] theorem setRec_time (s : State) (p i : Nat) (r : Rec) : (setRec s p i r).time = s.time := rfl
@[simp] theorem setRec_streams (s : State) (p i : Nat) (r : Rec) : (setRec s p i r).streams = s.streams := rfl
@[simp] theorem setRec_index (s : State) (p i : Nat) (r : Rec) : (setRec s p i r).index = s.index := rfl
@[simp] theorem setRec_shaper (s : State) (p i : Nat) (r : Rec) : (setRec s p i r).shaper = s.shaper := rfl
@[simp] theorem setRec_counters (s : State) (p i : Nat) (r : Rec) : (setRec s p i r).counters = s.counters := rfl
@[simp] theorem setRec_selectors (s : State) (p i : Nat) (r : Rec) : (setRec s p i r).selectors = s.selectors := rfl
@[simp] theorem setRec_ready (s : State) (p i : Nat) (r : Rec) : ready (setRec s p i r) = ready s := rfl
@[simp] theorem setRec_compOf (s : State) (p i : Nat) (r : Rec) : compOf (setRec s p i r) = compOf s := rfl
@[simp] theorem setRec_me (s : State) (p i : Nat) (r : Rec) : me (setRec s p i r) = me s := rfl
@[simp] theorem setRec_roleOf (s : State) (p i : Nat) (r : Rec) : roleOf (setRec s p i r) = roleOf s := rfl
@[simp] theorem setRec_composed (s : State) (p i : Nat) (r : Rec) (k' : Nat) : composed (setRec s p i r) k' = composed s k' := rfl
@[simp] theorem setRec_sliceOf (s : State) (p i : Nat) (r : Rec) (k' : Nat) : sliceOf (setRec s p i r) k' = sliceOf s k' := rfl

/-! ## setSem -/

@[simp] theorem setSem_pending (s : State) (p sem : Nat) (x : Sem) : (setSem s p sem x).pending = s.pending := rfl
@[simp] theorem setSem_now (s : State) (p sem : Nat) (x : Sem) : (setSem s p sem x).now = s.now := rfl
@[simp] theorem setSem_islands (s : State) (p sem : Nat) (x : Sem) : (setSem s p sem x).islands = s.islands := rfl
@[simp] theorem setSem_freeCtr (s : State) (p sem : Nat) (x : Sem) : (setSem s p sem x).freeCtr = s.freeCtr := rfl
@[simp] theorem setSem_out (s : State) (p sem : Nat) (x : Sem) : (setSem s p sem x).out = s.out := rfl
@[simp] theorem setSem_noc (s : State) (p sem : Nat) (x : Sem) : (setSem s p sem x).noc = s.noc := rfl
@[simp] theorem setSem_reported (s : State) (p sem : Nat) (x : Sem) : (setSem s p sem x).reported = s.reported := rfl
@[simp] theorem setSem_power (s : State) (p sem : Nat) (x : Sem) : (setSem s p sem x).power = s.power := rfl
@[simp] theorem setSem_life (s : State) (p sem : Nat) (x : Sem) : (setSem s p sem x).life = s.life := rfl
@[simp] theorem setSem_flash (s : State) (p sem : Nat) (x : Sem) : (setSem s p sem x).flash = s.flash := rfl
@[simp] theorem setSem_mgmt (s : State) (p sem : Nat) (x : Sem) : (setSem s p sem x).mgmt = s.mgmt := rfl
@[simp] theorem setSem_comp (s : State) (p sem : Nat) (x : Sem) : (setSem s p sem x).comp = s.comp := rfl
@[simp] theorem setSem_engines (s : State) (p sem : Nat) (x : Sem) : (setSem s p sem x).engines = s.engines := rfl
@[simp] theorem setSem_acts (s : State) (p sem : Nat) (x : Sem) : (setSem s p sem x).acts = s.acts := rfl
@[simp] theorem setSem_home (s : State) (p sem : Nat) (x : Sem) : (setSem s p sem x).home = s.home := rfl
@[simp] theorem setSem_mem (s : State) (p sem : Nat) (x : Sem) : (setSem s p sem x).mem = s.mem := rfl
@[simp] theorem setSem_host (s : State) (p sem : Nat) (x : Sem) : (setSem s p sem x).host = s.host := rfl
@[simp] theorem setSem_poltex (s : State) (p sem : Nat) (x : Sem) : (setSem s p sem x).poltex = s.poltex := rfl
@[simp] theorem setSem_tlaley (s : State) (p sem : Nat) (x : Sem) : (setSem s p sem x).tlaley = s.tlaley := rfl
@[simp] theorem setSem_time (s : State) (p sem : Nat) (x : Sem) : (setSem s p sem x).time = s.time := rfl
@[simp] theorem setSem_streams (s : State) (p sem : Nat) (x : Sem) : (setSem s p sem x).streams = s.streams := rfl
@[simp] theorem setSem_index (s : State) (p sem : Nat) (x : Sem) : (setSem s p sem x).index = s.index := rfl
@[simp] theorem setSem_shaper (s : State) (p sem : Nat) (x : Sem) : (setSem s p sem x).shaper = s.shaper := rfl
@[simp] theorem setSem_counters (s : State) (p sem : Nat) (x : Sem) : (setSem s p sem x).counters = s.counters := rfl
@[simp] theorem setSem_selectors (s : State) (p sem : Nat) (x : Sem) : (setSem s p sem x).selectors = s.selectors := rfl
@[simp] theorem setSem_ready (s : State) (p sem : Nat) (x : Sem) : ready (setSem s p sem x) = ready s := rfl
@[simp] theorem setSem_compOf (s : State) (p sem : Nat) (x : Sem) : compOf (setSem s p sem x) = compOf s := rfl
@[simp] theorem setSem_me (s : State) (p sem : Nat) (x : Sem) : me (setSem s p sem x) = me s := rfl
@[simp] theorem setSem_roleOf (s : State) (p sem : Nat) (x : Sem) : roleOf (setSem s p sem x) = roleOf s := rfl
@[simp] theorem setSem_composed (s : State) (p sem : Nat) (x : Sem) (k' : Nat) : composed (setSem s p sem x) k' = composed s k' := rfl
@[simp] theorem setSem_sliceOf (s : State) (p sem : Nat) (x : Sem) (k' : Nat) : sliceOf (setSem s p sem x) k' = sliceOf s k' := rfl

/-! ## modErrq -/

@[simp] theorem modErrq_pending (s : State) (p : Nat) (f : ErrQueue → ErrQueue) : (modErrq s p f).pending = s.pending := rfl
@[simp] theorem modErrq_now (s : State) (p : Nat) (f : ErrQueue → ErrQueue) : (modErrq s p f).now = s.now := rfl
@[simp] theorem modErrq_islands (s : State) (p : Nat) (f : ErrQueue → ErrQueue) : (modErrq s p f).islands = s.islands := rfl
@[simp] theorem modErrq_freeCtr (s : State) (p : Nat) (f : ErrQueue → ErrQueue) : (modErrq s p f).freeCtr = s.freeCtr := rfl
@[simp] theorem modErrq_out (s : State) (p : Nat) (f : ErrQueue → ErrQueue) : (modErrq s p f).out = s.out := rfl
@[simp] theorem modErrq_noc (s : State) (p : Nat) (f : ErrQueue → ErrQueue) : (modErrq s p f).noc = s.noc := rfl
@[simp] theorem modErrq_reported (s : State) (p : Nat) (f : ErrQueue → ErrQueue) : (modErrq s p f).reported = s.reported := rfl
@[simp] theorem modErrq_power (s : State) (p : Nat) (f : ErrQueue → ErrQueue) : (modErrq s p f).power = s.power := rfl
@[simp] theorem modErrq_life (s : State) (p : Nat) (f : ErrQueue → ErrQueue) : (modErrq s p f).life = s.life := rfl
@[simp] theorem modErrq_flash (s : State) (p : Nat) (f : ErrQueue → ErrQueue) : (modErrq s p f).flash = s.flash := rfl
@[simp] theorem modErrq_mgmt (s : State) (p : Nat) (f : ErrQueue → ErrQueue) : (modErrq s p f).mgmt = s.mgmt := rfl
@[simp] theorem modErrq_comp (s : State) (p : Nat) (f : ErrQueue → ErrQueue) : (modErrq s p f).comp = s.comp := rfl
@[simp] theorem modErrq_engines (s : State) (p : Nat) (f : ErrQueue → ErrQueue) : (modErrq s p f).engines = s.engines := rfl
@[simp] theorem modErrq_acts (s : State) (p : Nat) (f : ErrQueue → ErrQueue) : (modErrq s p f).acts = s.acts := rfl
@[simp] theorem modErrq_home (s : State) (p : Nat) (f : ErrQueue → ErrQueue) : (modErrq s p f).home = s.home := rfl
@[simp] theorem modErrq_mem (s : State) (p : Nat) (f : ErrQueue → ErrQueue) : (modErrq s p f).mem = s.mem := rfl
@[simp] theorem modErrq_host (s : State) (p : Nat) (f : ErrQueue → ErrQueue) : (modErrq s p f).host = s.host := rfl
@[simp] theorem modErrq_poltex (s : State) (p : Nat) (f : ErrQueue → ErrQueue) : (modErrq s p f).poltex = s.poltex := rfl
@[simp] theorem modErrq_tlaley (s : State) (p : Nat) (f : ErrQueue → ErrQueue) : (modErrq s p f).tlaley = s.tlaley := rfl
@[simp] theorem modErrq_time (s : State) (p : Nat) (f : ErrQueue → ErrQueue) : (modErrq s p f).time = s.time := rfl
@[simp] theorem modErrq_streams (s : State) (p : Nat) (f : ErrQueue → ErrQueue) : (modErrq s p f).streams = s.streams := rfl
@[simp] theorem modErrq_index (s : State) (p : Nat) (f : ErrQueue → ErrQueue) : (modErrq s p f).index = s.index := rfl
@[simp] theorem modErrq_shaper (s : State) (p : Nat) (f : ErrQueue → ErrQueue) : (modErrq s p f).shaper = s.shaper := rfl
@[simp] theorem modErrq_counters (s : State) (p : Nat) (f : ErrQueue → ErrQueue) : (modErrq s p f).counters = s.counters := rfl
@[simp] theorem modErrq_selectors (s : State) (p : Nat) (f : ErrQueue → ErrQueue) : (modErrq s p f).selectors = s.selectors := rfl
@[simp] theorem modErrq_ready (s : State) (p : Nat) (f : ErrQueue → ErrQueue) : ready (modErrq s p f) = ready s := rfl
@[simp] theorem modErrq_compOf (s : State) (p : Nat) (f : ErrQueue → ErrQueue) : compOf (modErrq s p f) = compOf s := rfl
@[simp] theorem modErrq_me (s : State) (p : Nat) (f : ErrQueue → ErrQueue) : me (modErrq s p f) = me s := rfl
@[simp] theorem modErrq_roleOf (s : State) (p : Nat) (f : ErrQueue → ErrQueue) : roleOf (modErrq s p f) = roleOf s := rfl
@[simp] theorem modErrq_composed (s : State) (p : Nat) (f : ErrQueue → ErrQueue) (k' : Nat) : composed (modErrq s p f) k' = composed s k' := rfl
@[simp] theorem modErrq_sliceOf (s : State) (p : Nat) (f : ErrQueue → ErrQueue) (k' : Nat) : sliceOf (modErrq s p f) k' = sliceOf s k' := rfl

/-! ## emitOut -/

@[simp] theorem emitOut_pending (s : State) (o : Out) : (emitOut s o).pending = s.pending := rfl
@[simp] theorem emitOut_now (s : State) (o : Out) : (emitOut s o).now = s.now := rfl
@[simp] theorem emitOut_islands (s : State) (o : Out) : (emitOut s o).islands = s.islands := rfl
@[simp] theorem emitOut_freeCtr (s : State) (o : Out) : (emitOut s o).freeCtr = s.freeCtr := rfl
@[simp] theorem emitOut_noc (s : State) (o : Out) : (emitOut s o).noc = s.noc := rfl
@[simp] theorem emitOut_reported (s : State) (o : Out) : (emitOut s o).reported = s.reported := rfl
@[simp] theorem emitOut_power (s : State) (o : Out) : (emitOut s o).power = s.power := rfl
@[simp] theorem emitOut_life (s : State) (o : Out) : (emitOut s o).life = s.life := rfl
@[simp] theorem emitOut_flash (s : State) (o : Out) : (emitOut s o).flash = s.flash := rfl
@[simp] theorem emitOut_mgmt (s : State) (o : Out) : (emitOut s o).mgmt = s.mgmt := rfl
@[simp] theorem emitOut_comp (s : State) (o : Out) : (emitOut s o).comp = s.comp := rfl
@[simp] theorem emitOut_parts (s : State) (o : Out) : (emitOut s o).parts = s.parts := rfl
@[simp] theorem emitOut_engines (s : State) (o : Out) : (emitOut s o).engines = s.engines := rfl
@[simp] theorem emitOut_acts (s : State) (o : Out) : (emitOut s o).acts = s.acts := rfl
@[simp] theorem emitOut_home (s : State) (o : Out) : (emitOut s o).home = s.home := rfl
@[simp] theorem emitOut_mem (s : State) (o : Out) : (emitOut s o).mem = s.mem := rfl
@[simp] theorem emitOut_host (s : State) (o : Out) : (emitOut s o).host = s.host := rfl
@[simp] theorem emitOut_poltex (s : State) (o : Out) : (emitOut s o).poltex = s.poltex := rfl
@[simp] theorem emitOut_tlaley (s : State) (o : Out) : (emitOut s o).tlaley = s.tlaley := rfl
@[simp] theorem emitOut_time (s : State) (o : Out) : (emitOut s o).time = s.time := rfl
@[simp] theorem emitOut_streams (s : State) (o : Out) : (emitOut s o).streams = s.streams := rfl
@[simp] theorem emitOut_index (s : State) (o : Out) : (emitOut s o).index = s.index := rfl
@[simp] theorem emitOut_shaper (s : State) (o : Out) : (emitOut s o).shaper = s.shaper := rfl
@[simp] theorem emitOut_counters (s : State) (o : Out) : (emitOut s o).counters = s.counters := rfl
@[simp] theorem emitOut_selectors (s : State) (o : Out) : (emitOut s o).selectors = s.selectors := rfl
@[simp] theorem emitOut_ready (s : State) (o : Out) : ready (emitOut s o) = ready s := rfl
@[simp] theorem emitOut_compOf (s : State) (o : Out) : compOf (emitOut s o) = compOf s := rfl
@[simp] theorem emitOut_me (s : State) (o : Out) : me (emitOut s o) = me s := rfl
@[simp] theorem emitOut_roleOf (s : State) (o : Out) : roleOf (emitOut s o) = roleOf s := rfl
@[simp] theorem emitOut_composed (s : State) (o : Out) (k' : Nat) : composed (emitOut s o) k' = composed s k' := rfl
@[simp] theorem emitOut_sliceOf (s : State) (o : Out) (k' : Nat) : sliceOf (emitOut s o) k' = sliceOf s k' := rfl
@[simp] theorem emitOut_partOf (s : State) (o : Out) (k' : Nat) : partOf (emitOut s o) k' = partOf s k' := rfl

/-! ## draw -/

@[simp] theorem draw_pending (s : State) : (draw s).pending = s.pending := rfl
@[simp] theorem draw_now (s : State) : (draw s).now = s.now := rfl
@[simp] theorem draw_islands (s : State) : (draw s).islands = s.islands := rfl
@[simp] theorem draw_out (s : State) : (draw s).out = s.out := rfl
@[simp] theorem draw_noc (s : State) : (draw s).noc = s.noc := rfl
@[simp] theorem draw_reported (s : State) : (draw s).reported = s.reported := rfl
@[simp] theorem draw_power (s : State) : (draw s).power = s.power := rfl
@[simp] theorem draw_life (s : State) : (draw s).life = s.life := rfl
@[simp] theorem draw_flash (s : State) : (draw s).flash = s.flash := rfl
@[simp] theorem draw_mgmt (s : State) : (draw s).mgmt = s.mgmt := rfl
@[simp] theorem draw_comp (s : State) : (draw s).comp = s.comp := rfl
@[simp] theorem draw_parts (s : State) : (draw s).parts = s.parts := rfl
@[simp] theorem draw_engines (s : State) : (draw s).engines = s.engines := rfl
@[simp] theorem draw_acts (s : State) : (draw s).acts = s.acts := rfl
@[simp] theorem draw_home (s : State) : (draw s).home = s.home := rfl
@[simp] theorem draw_mem (s : State) : (draw s).mem = s.mem := rfl
@[simp] theorem draw_host (s : State) : (draw s).host = s.host := rfl
@[simp] theorem draw_poltex (s : State) : (draw s).poltex = s.poltex := rfl
@[simp] theorem draw_tlaley (s : State) : (draw s).tlaley = s.tlaley := rfl
@[simp] theorem draw_time (s : State) : (draw s).time = s.time := rfl
@[simp] theorem draw_streams (s : State) : (draw s).streams = s.streams := rfl
@[simp] theorem draw_index (s : State) : (draw s).index = s.index := rfl
@[simp] theorem draw_shaper (s : State) : (draw s).shaper = s.shaper := rfl
@[simp] theorem draw_counters (s : State) : (draw s).counters = s.counters := rfl
@[simp] theorem draw_selectors (s : State) : (draw s).selectors = s.selectors := rfl
@[simp] theorem draw_ready (s : State) : ready (draw s) = ready s := rfl
@[simp] theorem draw_compOf (s : State) : compOf (draw s) = compOf s := rfl
@[simp] theorem draw_me (s : State) : me (draw s) = me s := rfl
@[simp] theorem draw_roleOf (s : State) : roleOf (draw s) = roleOf s := rfl
@[simp] theorem draw_composed (s : State) (k' : Nat) : composed (draw s) k' = composed s k' := rfl
@[simp] theorem draw_sliceOf (s : State) (k' : Nat) : sliceOf (draw s) k' = sliceOf s k' := rfl
@[simp] theorem draw_partOf (s : State) (k' : Nat) : partOf (draw s) k' = partOf s k' := rfl

/-! ## countEv -/

@[simp] theorem countEv_pending (s : State) (isl code : Nat) (inst part : Option Nat) (n : Nat) : (countEv s isl code inst part n).pending = s.pending := rfl
@[simp] theorem countEv_now (s : State) (isl code : Nat) (inst part : Option Nat) (n : Nat) : (countEv s isl code inst part n).now = s.now := rfl
@[simp] theorem countEv_islands (s : State) (isl code : Nat) (inst part : Option Nat) (n : Nat) : (countEv s isl code inst part n).islands = s.islands := rfl
@[simp] theorem countEv_freeCtr (s : State) (isl code : Nat) (inst part : Option Nat) (n : Nat) : (countEv s isl code inst part n).freeCtr = s.freeCtr := rfl
@[simp] theorem countEv_out (s : State) (isl code : Nat) (inst part : Option Nat) (n : Nat) : (countEv s isl code inst part n).out = s.out := rfl
@[simp] theorem countEv_noc (s : State) (isl code : Nat) (inst part : Option Nat) (n : Nat) : (countEv s isl code inst part n).noc = s.noc := rfl
@[simp] theorem countEv_reported (s : State) (isl code : Nat) (inst part : Option Nat) (n : Nat) : (countEv s isl code inst part n).reported = s.reported := rfl
@[simp] theorem countEv_power (s : State) (isl code : Nat) (inst part : Option Nat) (n : Nat) : (countEv s isl code inst part n).power = s.power := rfl
@[simp] theorem countEv_life (s : State) (isl code : Nat) (inst part : Option Nat) (n : Nat) : (countEv s isl code inst part n).life = s.life := rfl
@[simp] theorem countEv_flash (s : State) (isl code : Nat) (inst part : Option Nat) (n : Nat) : (countEv s isl code inst part n).flash = s.flash := rfl
@[simp] theorem countEv_mgmt (s : State) (isl code : Nat) (inst part : Option Nat) (n : Nat) : (countEv s isl code inst part n).mgmt = s.mgmt := rfl
@[simp] theorem countEv_comp (s : State) (isl code : Nat) (inst part : Option Nat) (n : Nat) : (countEv s isl code inst part n).comp = s.comp := rfl
@[simp] theorem countEv_parts (s : State) (isl code : Nat) (inst part : Option Nat) (n : Nat) : (countEv s isl code inst part n).parts = s.parts := rfl
@[simp] theorem countEv_engines (s : State) (isl code : Nat) (inst part : Option Nat) (n : Nat) : (countEv s isl code inst part n).engines = s.engines := rfl
@[simp] theorem countEv_acts (s : State) (isl code : Nat) (inst part : Option Nat) (n : Nat) : (countEv s isl code inst part n).acts = s.acts := rfl
@[simp] theorem countEv_home (s : State) (isl code : Nat) (inst part : Option Nat) (n : Nat) : (countEv s isl code inst part n).home = s.home := rfl
@[simp] theorem countEv_mem (s : State) (isl code : Nat) (inst part : Option Nat) (n : Nat) : (countEv s isl code inst part n).mem = s.mem := rfl
@[simp] theorem countEv_host (s : State) (isl code : Nat) (inst part : Option Nat) (n : Nat) : (countEv s isl code inst part n).host = s.host := rfl
@[simp] theorem countEv_poltex (s : State) (isl code : Nat) (inst part : Option Nat) (n : Nat) : (countEv s isl code inst part n).poltex = s.poltex := rfl
@[simp] theorem countEv_tlaley (s : State) (isl code : Nat) (inst part : Option Nat) (n : Nat) : (countEv s isl code inst part n).tlaley = s.tlaley := rfl
@[simp] theorem countEv_time (s : State) (isl code : Nat) (inst part : Option Nat) (n : Nat) : (countEv s isl code inst part n).time = s.time := rfl
@[simp] theorem countEv_streams (s : State) (isl code : Nat) (inst part : Option Nat) (n : Nat) : (countEv s isl code inst part n).streams = s.streams := rfl
@[simp] theorem countEv_index (s : State) (isl code : Nat) (inst part : Option Nat) (n : Nat) : (countEv s isl code inst part n).index = s.index := rfl
@[simp] theorem countEv_shaper (s : State) (isl code : Nat) (inst part : Option Nat) (n : Nat) : (countEv s isl code inst part n).shaper = s.shaper := rfl
@[simp] theorem countEv_selectors (s : State) (isl code : Nat) (inst part : Option Nat) (n : Nat) : (countEv s isl code inst part n).selectors = s.selectors := rfl
@[simp] theorem countEv_ready (s : State) (isl code : Nat) (inst part : Option Nat) (n : Nat) : ready (countEv s isl code inst part n) = ready s := rfl
@[simp] theorem countEv_compOf (s : State) (isl code : Nat) (inst part : Option Nat) (n : Nat) : compOf (countEv s isl code inst part n) = compOf s := rfl
@[simp] theorem countEv_me (s : State) (isl code : Nat) (inst part : Option Nat) (n : Nat) : me (countEv s isl code inst part n) = me s := rfl
@[simp] theorem countEv_roleOf (s : State) (isl code : Nat) (inst part : Option Nat) (n : Nat) : roleOf (countEv s isl code inst part n) = roleOf s := rfl
@[simp] theorem countEv_composed (s : State) (isl code : Nat) (inst part : Option Nat) (n : Nat) (k' : Nat) : composed (countEv s isl code inst part n) k' = composed s k' := rfl
@[simp] theorem countEv_sliceOf (s : State) (isl code : Nat) (inst part : Option Nat) (n : Nat) (k' : Nat) : sliceOf (countEv s isl code inst part n) k' = sliceOf s k' := rfl
@[simp] theorem countEv_partOf (s : State) (isl code : Nat) (inst part : Option Nat) (n : Nat) (k' : Nat) : partOf (countEv s isl code inst part n) k' = partOf s k' := rfl

/-! ## handled -/

@[simp] theorem handled_pending (s : State) (c : ErrContext) : (handled s c).pending = s.pending := rfl
@[simp] theorem handled_now (s : State) (c : ErrContext) : (handled s c).now = s.now := rfl
@[simp] theorem handled_islands (s : State) (c : ErrContext) : (handled s c).islands = s.islands := rfl
@[simp] theorem handled_freeCtr (s : State) (c : ErrContext) : (handled s c).freeCtr = s.freeCtr := rfl
@[simp] theorem handled_out (s : State) (c : ErrContext) : (handled s c).out = s.out := rfl
@[simp] theorem handled_noc (s : State) (c : ErrContext) : (handled s c).noc = s.noc := rfl
@[simp] theorem handled_reported (s : State) (c : ErrContext) : (handled s c).reported = s.reported := rfl
@[simp] theorem handled_power (s : State) (c : ErrContext) : (handled s c).power = s.power := rfl
@[simp] theorem handled_life (s : State) (c : ErrContext) : (handled s c).life = s.life := rfl
@[simp] theorem handled_flash (s : State) (c : ErrContext) : (handled s c).flash = s.flash := rfl
@[simp] theorem handled_mgmt (s : State) (c : ErrContext) : (handled s c).mgmt = s.mgmt := rfl
@[simp] theorem handled_comp (s : State) (c : ErrContext) : (handled s c).comp = s.comp := rfl
@[simp] theorem handled_parts (s : State) (c : ErrContext) : (handled s c).parts = s.parts := rfl
@[simp] theorem handled_engines (s : State) (c : ErrContext) : (handled s c).engines = s.engines := rfl
@[simp] theorem handled_acts (s : State) (c : ErrContext) : (handled s c).acts = s.acts := rfl
@[simp] theorem handled_home (s : State) (c : ErrContext) : (handled s c).home = s.home := rfl
@[simp] theorem handled_mem (s : State) (c : ErrContext) : (handled s c).mem = s.mem := rfl
@[simp] theorem handled_host (s : State) (c : ErrContext) : (handled s c).host = s.host := rfl
@[simp] theorem handled_poltex (s : State) (c : ErrContext) : (handled s c).poltex = s.poltex := rfl
@[simp] theorem handled_tlaley (s : State) (c : ErrContext) : (handled s c).tlaley = s.tlaley := rfl
@[simp] theorem handled_time (s : State) (c : ErrContext) : (handled s c).time = s.time := rfl
@[simp] theorem handled_streams (s : State) (c : ErrContext) : (handled s c).streams = s.streams := rfl
@[simp] theorem handled_index (s : State) (c : ErrContext) : (handled s c).index = s.index := rfl
@[simp] theorem handled_shaper (s : State) (c : ErrContext) : (handled s c).shaper = s.shaper := rfl
@[simp] theorem handled_selectors (s : State) (c : ErrContext) : (handled s c).selectors = s.selectors := rfl
@[simp] theorem handled_ready (s : State) (c : ErrContext) : ready (handled s c) = ready s := rfl
@[simp] theorem handled_compOf (s : State) (c : ErrContext) : compOf (handled s c) = compOf s := rfl
@[simp] theorem handled_me (s : State) (c : ErrContext) : me (handled s c) = me s := rfl
@[simp] theorem handled_roleOf (s : State) (c : ErrContext) : roleOf (handled s c) = roleOf s := rfl
@[simp] theorem handled_composed (s : State) (c : ErrContext) (k' : Nat) : composed (handled s c) k' = composed s k' := rfl
@[simp] theorem handled_sliceOf (s : State) (c : ErrContext) (k' : Nat) : sliceOf (handled s c) k' = sliceOf s k' := rfl
@[simp] theorem handled_partOf (s : State) (c : ErrContext) (k' : Nat) : partOf (handled s c) k' = partOf s k' := rfl

/-! ## modChan -/

@[simp] theorem modChan_pending (s : State) (c : Nat) (f : Channel → Channel) : (modChan s c f).pending = s.pending := rfl
@[simp] theorem modChan_now (s : State) (c : Nat) (f : Channel → Channel) : (modChan s c f).now = s.now := rfl
@[simp] theorem modChan_islands (s : State) (c : Nat) (f : Channel → Channel) : (modChan s c f).islands = s.islands := rfl
@[simp] theorem modChan_freeCtr (s : State) (c : Nat) (f : Channel → Channel) : (modChan s c f).freeCtr = s.freeCtr := rfl
@[simp] theorem modChan_out (s : State) (c : Nat) (f : Channel → Channel) : (modChan s c f).out = s.out := rfl
@[simp] theorem modChan_noc (s : State) (c : Nat) (f : Channel → Channel) : (modChan s c f).noc = s.noc := rfl
@[simp] theorem modChan_reported (s : State) (c : Nat) (f : Channel → Channel) : (modChan s c f).reported = s.reported := rfl
@[simp] theorem modChan_power (s : State) (c : Nat) (f : Channel → Channel) : (modChan s c f).power = s.power := rfl
@[simp] theorem modChan_life (s : State) (c : Nat) (f : Channel → Channel) : (modChan s c f).life = s.life := rfl
@[simp] theorem modChan_flash (s : State) (c : Nat) (f : Channel → Channel) : (modChan s c f).flash = s.flash := rfl
@[simp] theorem modChan_mgmt (s : State) (c : Nat) (f : Channel → Channel) : (modChan s c f).mgmt = s.mgmt := rfl
@[simp] theorem modChan_comp (s : State) (c : Nat) (f : Channel → Channel) : (modChan s c f).comp = s.comp := rfl
@[simp] theorem modChan_parts (s : State) (c : Nat) (f : Channel → Channel) : (modChan s c f).parts = s.parts := rfl
@[simp] theorem modChan_engines (s : State) (c : Nat) (f : Channel → Channel) : (modChan s c f).engines = s.engines := rfl
@[simp] theorem modChan_acts (s : State) (c : Nat) (f : Channel → Channel) : (modChan s c f).acts = s.acts := rfl
@[simp] theorem modChan_home (s : State) (c : Nat) (f : Channel → Channel) : (modChan s c f).home = s.home := rfl
@[simp] theorem modChan_host (s : State) (c : Nat) (f : Channel → Channel) : (modChan s c f).host = s.host := rfl
@[simp] theorem modChan_poltex (s : State) (c : Nat) (f : Channel → Channel) : (modChan s c f).poltex = s.poltex := rfl
@[simp] theorem modChan_tlaley (s : State) (c : Nat) (f : Channel → Channel) : (modChan s c f).tlaley = s.tlaley := rfl
@[simp] theorem modChan_time (s : State) (c : Nat) (f : Channel → Channel) : (modChan s c f).time = s.time := rfl
@[simp] theorem modChan_streams (s : State) (c : Nat) (f : Channel → Channel) : (modChan s c f).streams = s.streams := rfl
@[simp] theorem modChan_index (s : State) (c : Nat) (f : Channel → Channel) : (modChan s c f).index = s.index := rfl
@[simp] theorem modChan_shaper (s : State) (c : Nat) (f : Channel → Channel) : (modChan s c f).shaper = s.shaper := rfl
@[simp] theorem modChan_counters (s : State) (c : Nat) (f : Channel → Channel) : (modChan s c f).counters = s.counters := rfl
@[simp] theorem modChan_selectors (s : State) (c : Nat) (f : Channel → Channel) : (modChan s c f).selectors = s.selectors := rfl
@[simp] theorem modChan_ready (s : State) (c : Nat) (f : Channel → Channel) : ready (modChan s c f) = ready s := rfl
@[simp] theorem modChan_compOf (s : State) (c : Nat) (f : Channel → Channel) : compOf (modChan s c f) = compOf s := rfl
@[simp] theorem modChan_me (s : State) (c : Nat) (f : Channel → Channel) : me (modChan s c f) = me s := rfl
@[simp] theorem modChan_roleOf (s : State) (c : Nat) (f : Channel → Channel) : roleOf (modChan s c f) = roleOf s := rfl
@[simp] theorem modChan_composed (s : State) (c : Nat) (f : Channel → Channel) (k' : Nat) : composed (modChan s c f) k' = composed s k' := rfl
@[simp] theorem modChan_sliceOf (s : State) (c : Nat) (f : Channel → Channel) (k' : Nat) : sliceOf (modChan s c f) k' = sliceOf s k' := rfl
@[simp] theorem modChan_partOf (s : State) (c : Nat) (f : Channel → Channel) (k' : Nat) : partOf (modChan s c f) k' = partOf s k' := rfl

/-! ## modDev -/

@[simp] theorem modDev_pending (s : State) (d : Nat) (f : DevErr → DevErr) : (modDev s d f).pending = s.pending := rfl
@[simp] theorem modDev_now (s : State) (d : Nat) (f : DevErr → DevErr) : (modDev s d f).now = s.now := rfl
@[simp] theorem modDev_islands (s : State) (d : Nat) (f : DevErr → DevErr) : (modDev s d f).islands = s.islands := rfl
@[simp] theorem modDev_freeCtr (s : State) (d : Nat) (f : DevErr → DevErr) : (modDev s d f).freeCtr = s.freeCtr := rfl
@[simp] theorem modDev_out (s : State) (d : Nat) (f : DevErr → DevErr) : (modDev s d f).out = s.out := rfl
@[simp] theorem modDev_noc (s : State) (d : Nat) (f : DevErr → DevErr) : (modDev s d f).noc = s.noc := rfl
@[simp] theorem modDev_reported (s : State) (d : Nat) (f : DevErr → DevErr) : (modDev s d f).reported = s.reported := rfl
@[simp] theorem modDev_power (s : State) (d : Nat) (f : DevErr → DevErr) : (modDev s d f).power = s.power := rfl
@[simp] theorem modDev_life (s : State) (d : Nat) (f : DevErr → DevErr) : (modDev s d f).life = s.life := rfl
@[simp] theorem modDev_flash (s : State) (d : Nat) (f : DevErr → DevErr) : (modDev s d f).flash = s.flash := rfl
@[simp] theorem modDev_mgmt (s : State) (d : Nat) (f : DevErr → DevErr) : (modDev s d f).mgmt = s.mgmt := rfl
@[simp] theorem modDev_comp (s : State) (d : Nat) (f : DevErr → DevErr) : (modDev s d f).comp = s.comp := rfl
@[simp] theorem modDev_parts (s : State) (d : Nat) (f : DevErr → DevErr) : (modDev s d f).parts = s.parts := rfl
@[simp] theorem modDev_engines (s : State) (d : Nat) (f : DevErr → DevErr) : (modDev s d f).engines = s.engines := rfl
@[simp] theorem modDev_acts (s : State) (d : Nat) (f : DevErr → DevErr) : (modDev s d f).acts = s.acts := rfl
@[simp] theorem modDev_home (s : State) (d : Nat) (f : DevErr → DevErr) : (modDev s d f).home = s.home := rfl
@[simp] theorem modDev_host (s : State) (d : Nat) (f : DevErr → DevErr) : (modDev s d f).host = s.host := rfl
@[simp] theorem modDev_poltex (s : State) (d : Nat) (f : DevErr → DevErr) : (modDev s d f).poltex = s.poltex := rfl
@[simp] theorem modDev_tlaley (s : State) (d : Nat) (f : DevErr → DevErr) : (modDev s d f).tlaley = s.tlaley := rfl
@[simp] theorem modDev_time (s : State) (d : Nat) (f : DevErr → DevErr) : (modDev s d f).time = s.time := rfl
@[simp] theorem modDev_streams (s : State) (d : Nat) (f : DevErr → DevErr) : (modDev s d f).streams = s.streams := rfl
@[simp] theorem modDev_index (s : State) (d : Nat) (f : DevErr → DevErr) : (modDev s d f).index = s.index := rfl
@[simp] theorem modDev_shaper (s : State) (d : Nat) (f : DevErr → DevErr) : (modDev s d f).shaper = s.shaper := rfl
@[simp] theorem modDev_counters (s : State) (d : Nat) (f : DevErr → DevErr) : (modDev s d f).counters = s.counters := rfl
@[simp] theorem modDev_selectors (s : State) (d : Nat) (f : DevErr → DevErr) : (modDev s d f).selectors = s.selectors := rfl
@[simp] theorem modDev_ready (s : State) (d : Nat) (f : DevErr → DevErr) : ready (modDev s d f) = ready s := rfl
@[simp] theorem modDev_compOf (s : State) (d : Nat) (f : DevErr → DevErr) : compOf (modDev s d f) = compOf s := rfl
@[simp] theorem modDev_me (s : State) (d : Nat) (f : DevErr → DevErr) : me (modDev s d f) = me s := rfl
@[simp] theorem modDev_roleOf (s : State) (d : Nat) (f : DevErr → DevErr) : roleOf (modDev s d f) = roleOf s := rfl
@[simp] theorem modDev_composed (s : State) (d : Nat) (f : DevErr → DevErr) (k' : Nat) : composed (modDev s d f) k' = composed s k' := rfl
@[simp] theorem modDev_sliceOf (s : State) (d : Nat) (f : DevErr → DevErr) (k' : Nat) : sliceOf (modDev s d f) k' = sliceOf s k' := rfl
@[simp] theorem modDev_partOf (s : State) (d : Nat) (f : DevErr → DevErr) (k' : Nat) : partOf (modDev s d f) k' = partOf s k' := rfl

/-! ## Partitions and queues -/

@[simp] theorem partOf_setPart_self (s : State) (p : Nat) (x : Part) : partOf (setPart s p x) p = x :=
  AMap.getD_insert_self ..

theorem partOf_setPart_ne (s : State) {p k : Nat} (x : Part) (h : k ≠ p) : partOf (setPart s p x) k = partOf s k :=
  AMap.getD_insert_ne _ _ _ h

@[simp] theorem partOf_modPart_self (s : State) (p : Nat) (f : Part → Part) : partOf (modPart s p f) p = f (partOf s p) :=
  partOf_setPart_self ..

theorem partOf_modPart_ne (s : State) {p k : Nat} (f : Part → Part) (h : k ≠ p) : partOf (modPart s p f) k = partOf s k :=
  partOf_setPart_ne _ _ h

@[simp] theorem queueOf_setQueue_self (P : Part) (q : Nat) (x : Queue) : queueOf (setQueue P q x) q = x :=
  AMap.getD_insert_self ..

theorem queueOf_setQueue_ne (P : Part) {q k : Nat} (x : Queue) (h : k ≠ q) : queueOf (setQueue P q x) k = queueOf P k :=
  AMap.getD_insert_ne _ _ _ h

@[simp] theorem queueOf_modQueue_self (s : State) (p q : Nat) (f : Queue → Queue) :
    queueOf (partOf (modQueue s p q f) p) q = f (queueOf (partOf s p) q) := by
  simp [modQueue]

theorem queueOf_modQueue_ne (s : State) {p q k : Nat} (f : Queue → Queue) (h : k ≠ q) :
    queueOf (partOf (modQueue s p q f) p) k = queueOf (partOf s p) k := by
  simp [modQueue, queueOf_setQueue_ne _ _ h]

theorem partOf_modQueue_ne (s : State) {p q k : Nat} (f : Queue → Queue) (h : k ≠ p) :
    partOf (modQueue s p q f) k = partOf s k := partOf_modPart_ne _ _ h

/-- A queue changed: the partition keeps everything but its queues. -/
theorem partOf_modQueue (s : State) (p q : Nat) (f : Queue → Queue) :
    partOf (modQueue s p q f) p
      = { partOf s p with queues := AMap.insert (partOf s p).queues q (f (queueOf (partOf s p) q)) } := by
  simp [modQueue, setQueue]

/-! ## Instructions in flight -/

theorem find?_map_idx {is : List Issued} {k : Nat} {f : Issued → Issued} (hf : ∀ i, (f i).idx = i.idx) (j : Nat) :
    (is.map (fun i => if i.idx == k then f i else i)).find? (fun i => i.idx == j)
      = (is.find? (fun i => i.idx == j)).map (fun i => if j = k then f i else i) := by
  induction is with
  | nil => rfl
  | cons i is ih =>
    have h : (if i.idx == k then f i else i).idx = i.idx := by
      split <;> simp [hf]
    simp only [List.map_cons, List.find?_cons, h]
    by_cases hj : i.idx = j
    · simp [hj]
    · have e : (i.idx == j) = false := by simpa using hj
      simp only [e]
      exact ih

theorem changeIssued_idx {f : Issued → Issued} (hf : ∀ i, (f i).idx = i.idx) (now : Nat) (i : Issued) :
    (changeIssued now f i).idx = i.idx := by
  unfold changeIssued
  split <;> exact hf i

/-- An instruction changed is found changed. -/
theorem issuedOf_modIssued_self {s : State} {w : IRef} {i : Issued} {f : Issued → Issued} (hf : ∀ i, (f i).idx = i.idx)
    (h : issuedOf s w = some i) : issuedOf (modIssued s w f) w = some (changeIssued s.now f i) := by
  unfold issuedOf at h ⊢
  simp only [modIssued, queueOf_modQueue_self]
  rw [find?_map_idx (changeIssued_idx hf s.now), h]
  simp

/-- Every other instruction is found as it was. -/
theorem issuedOf_modIssued_ne (s : State) {w v : IRef} {f : Issued → Issued} (hf : ∀ i, (f i).idx = i.idx)
    (h : (v.part, v.queue, v.idx) ≠ (w.part, w.queue, w.idx)) : issuedOf (modIssued s w f) v = issuedOf s v := by
  unfold issuedOf
  by_cases hp : v.part = w.part
  · by_cases hq : v.queue = w.queue
    · have hi : v.idx ≠ w.idx := fun e => h (by rw [hp, hq, e])
      simp only [modIssued, hp, hq, queueOf_modQueue_self]
      rw [find?_map_idx (changeIssued_idx hf s.now)]
      simp [hi]
    · simp only [modIssued, hp]
      rw [queueOf_modQueue_ne _ _ hq]
  · simp only [modIssued]
    rw [partOf_modQueue_ne _ _ hp]

/-- An instruction at work whose work ends has the status, RESULT and effects given, from that time on. -/
theorem issuedOf_finish_self {s : State} {w : IRef} {i : Issued} (st r : Nat) (fx : List Effect) (h : issuedOf s w = some i)
    (hi : i.status = none) :
    issuedOf (finish s w st r fx) w = some { i with status := some st, result := r, effects := fx, doneAt := s.now } := by
  refine (issuedOf_modIssued_self (f := fun i => { i with status := some st, result := r, effects := fx }) (fun _ => rfl) h).trans ?_
  simp [changeIssued, hi]

theorem issuedOf_finish_ne (s : State) {w v : IRef} (st r : Nat) (fx : List Effect)
    (h : (v.part, v.queue, v.idx) ≠ (w.part, w.queue, w.idx)) : issuedOf (finish s w st r fx) v = issuedOf s v :=
  issuedOf_modIssued_ne s (fun _ => rfl) h

/-- A row on an instruction at work runs its meaning. -/
theorem withInstr_working {s : State} {w : IRef} {op : Nat} {i : Issued} {f : Issued → State}
    (h : ready s = true ∧ issuedOf s w = some i ∧ i.status = none ∧ opcodeOf i.words = op) :
    withInstr s w op f = .next (f i) := by
  unfold withInstr
  simp [h.1, h.2.1, h.2.2.1, h.2.2.2]

/-- A row on an instruction that is not at work changes nothing. -/
theorem withInstr_idle {s : State} {w : IRef} {op : Nat} {f : Issued → State}
    (h : ¬ ∃ i, ready s = true ∧ issuedOf s w = some i ∧ i.status = none ∧ opcodeOf i.words = op) :
    withInstr s w op f = .next s := by
  unfold withInstr
  split
  · split
    · split
      · next hr _ i hi hc => exact absurd ⟨i, hr, hi, by simpa using hc⟩ h
      · rfl
    · rfl
  · rfl

/-! ## Semaphores -/

@[simp] theorem semOf_setSem_self (s : State) (p sem : Nat) (x : Sem) : semOf (setSem s p sem x) p sem = x := by
  simp [semOf, setSem]

theorem semOf_setSem_ne (s : State) {p sem k : Nat} (x : Sem) (h : k ≠ sem) : semOf (setSem s p sem x) p k = semOf s p k := by
  simp [semOf, setSem, AMap.getD_insert_ne _ _ _ h]

@[simp] theorem semOf_modQueue (s : State) (p q : Nat) (f : Queue → Queue) (r k : Nat) :
    semOf (modQueue s p q f) r k = semOf s r k := by
  unfold semOf
  by_cases h : r = p
  · subst h
    simp [partOf_modQueue]
  · rw [partOf_modQueue_ne _ _ h]

@[simp] theorem semOf_finish (s : State) (w : IRef) (st r : Nat) (fx : List Effect) (p k : Nat) :
    semOf (finish s w st r fx) p k = semOf s p k := semOf_modQueue ..

/-! ## Request records -/

@[simp] theorem recOf_setRec_self (s : State) (p i : Nat) (r : Rec) : recOf (setRec s p i r) p i = r := by
  simp [recOf, setRec]

theorem recOf_setRec_ne (s : State) {p i k : Nat} (r : Rec) (h : k ≠ i) : recOf (setRec s p i r) p k = recOf s p k := by
  simp [recOf, setRec, AMap.getD_insert_ne _ _ _ h]

/-! ## setFrame -/

@[simp] theorem setFrame_pending (s : State) (g : Nat) (f : Frame) : (setFrame s g f).pending = s.pending := rfl
@[simp] theorem setFrame_now (s : State) (g : Nat) (f : Frame) : (setFrame s g f).now = s.now := rfl
@[simp] theorem setFrame_islands (s : State) (g : Nat) (f : Frame) : (setFrame s g f).islands = s.islands := rfl
@[simp] theorem setFrame_freeCtr (s : State) (g : Nat) (f : Frame) : (setFrame s g f).freeCtr = s.freeCtr := rfl
@[simp] theorem setFrame_out (s : State) (g : Nat) (f : Frame) : (setFrame s g f).out = s.out := rfl
@[simp] theorem setFrame_noc (s : State) (g : Nat) (f : Frame) : (setFrame s g f).noc = s.noc := rfl
@[simp] theorem setFrame_reported (s : State) (g : Nat) (f : Frame) : (setFrame s g f).reported = s.reported := rfl
@[simp] theorem setFrame_power (s : State) (g : Nat) (f : Frame) : (setFrame s g f).power = s.power := rfl
@[simp] theorem setFrame_life (s : State) (g : Nat) (f : Frame) : (setFrame s g f).life = s.life := rfl
@[simp] theorem setFrame_flash (s : State) (g : Nat) (f : Frame) : (setFrame s g f).flash = s.flash := rfl
@[simp] theorem setFrame_mgmt (s : State) (g : Nat) (f : Frame) : (setFrame s g f).mgmt = s.mgmt := rfl
@[simp] theorem setFrame_comp (s : State) (g : Nat) (f : Frame) : (setFrame s g f).comp = s.comp := rfl
@[simp] theorem setFrame_parts (s : State) (g : Nat) (f : Frame) : (setFrame s g f).parts = s.parts := rfl
@[simp] theorem setFrame_engines (s : State) (g : Nat) (f : Frame) : (setFrame s g f).engines = s.engines := rfl
@[simp] theorem setFrame_acts (s : State) (g : Nat) (f : Frame) : (setFrame s g f).acts = s.acts := rfl
@[simp] theorem setFrame_mem (s : State) (g : Nat) (f : Frame) : (setFrame s g f).mem = s.mem := rfl
@[simp] theorem setFrame_host (s : State) (g : Nat) (f : Frame) : (setFrame s g f).host = s.host := rfl
@[simp] theorem setFrame_poltex (s : State) (g : Nat) (f : Frame) : (setFrame s g f).poltex = s.poltex := rfl
@[simp] theorem setFrame_tlaley (s : State) (g : Nat) (f : Frame) : (setFrame s g f).tlaley = s.tlaley := rfl
@[simp] theorem setFrame_time (s : State) (g : Nat) (f : Frame) : (setFrame s g f).time = s.time := rfl
@[simp] theorem setFrame_streams (s : State) (g : Nat) (f : Frame) : (setFrame s g f).streams = s.streams := rfl
@[simp] theorem setFrame_index (s : State) (g : Nat) (f : Frame) : (setFrame s g f).index = s.index := rfl
@[simp] theorem setFrame_shaper (s : State) (g : Nat) (f : Frame) : (setFrame s g f).shaper = s.shaper := rfl
@[simp] theorem setFrame_counters (s : State) (g : Nat) (f : Frame) : (setFrame s g f).counters = s.counters := rfl
@[simp] theorem setFrame_selectors (s : State) (g : Nat) (f : Frame) : (setFrame s g f).selectors = s.selectors := rfl

/-! ## modNear -/

@[simp] theorem modNear_pending (s : State) (n : Nat) (f : NearPort → NearPort) : (modNear s n f).pending = s.pending := rfl
@[simp] theorem modNear_now (s : State) (n : Nat) (f : NearPort → NearPort) : (modNear s n f).now = s.now := rfl
@[simp] theorem modNear_islands (s : State) (n : Nat) (f : NearPort → NearPort) : (modNear s n f).islands = s.islands := rfl
@[simp] theorem modNear_freeCtr (s : State) (n : Nat) (f : NearPort → NearPort) : (modNear s n f).freeCtr = s.freeCtr := rfl
@[simp] theorem modNear_out (s : State) (n : Nat) (f : NearPort → NearPort) : (modNear s n f).out = s.out := rfl
@[simp] theorem modNear_noc (s : State) (n : Nat) (f : NearPort → NearPort) : (modNear s n f).noc = s.noc := rfl
@[simp] theorem modNear_reported (s : State) (n : Nat) (f : NearPort → NearPort) : (modNear s n f).reported = s.reported := rfl
@[simp] theorem modNear_power (s : State) (n : Nat) (f : NearPort → NearPort) : (modNear s n f).power = s.power := rfl
@[simp] theorem modNear_life (s : State) (n : Nat) (f : NearPort → NearPort) : (modNear s n f).life = s.life := rfl
@[simp] theorem modNear_flash (s : State) (n : Nat) (f : NearPort → NearPort) : (modNear s n f).flash = s.flash := rfl
@[simp] theorem modNear_mgmt (s : State) (n : Nat) (f : NearPort → NearPort) : (modNear s n f).mgmt = s.mgmt := rfl
@[simp] theorem modNear_comp (s : State) (n : Nat) (f : NearPort → NearPort) : (modNear s n f).comp = s.comp := rfl
@[simp] theorem modNear_parts (s : State) (n : Nat) (f : NearPort → NearPort) : (modNear s n f).parts = s.parts := rfl
@[simp] theorem modNear_engines (s : State) (n : Nat) (f : NearPort → NearPort) : (modNear s n f).engines = s.engines := rfl
@[simp] theorem modNear_acts (s : State) (n : Nat) (f : NearPort → NearPort) : (modNear s n f).acts = s.acts := rfl
@[simp] theorem modNear_home (s : State) (n : Nat) (f : NearPort → NearPort) : (modNear s n f).home = s.home := rfl
@[simp] theorem modNear_mem (s : State) (n : Nat) (f : NearPort → NearPort) : (modNear s n f).mem = s.mem := rfl
@[simp] theorem modNear_host (s : State) (n : Nat) (f : NearPort → NearPort) : (modNear s n f).host = s.host := rfl
@[simp] theorem modNear_tlaley (s : State) (n : Nat) (f : NearPort → NearPort) : (modNear s n f).tlaley = s.tlaley := rfl
@[simp] theorem modNear_time (s : State) (n : Nat) (f : NearPort → NearPort) : (modNear s n f).time = s.time := rfl
@[simp] theorem modNear_streams (s : State) (n : Nat) (f : NearPort → NearPort) : (modNear s n f).streams = s.streams := rfl
@[simp] theorem modNear_index (s : State) (n : Nat) (f : NearPort → NearPort) : (modNear s n f).index = s.index := rfl
@[simp] theorem modNear_shaper (s : State) (n : Nat) (f : NearPort → NearPort) : (modNear s n f).shaper = s.shaper := rfl
@[simp] theorem modNear_counters (s : State) (n : Nat) (f : NearPort → NearPort) : (modNear s n f).counters = s.counters := rfl
@[simp] theorem modNear_selectors (s : State) (n : Nat) (f : NearPort → NearPort) : (modNear s n f).selectors = s.selectors := rfl

/-! ## modFar -/

@[simp] theorem modFar_pending (s : State) (n : Nat) (f : FarPort → FarPort) : (modFar s n f).pending = s.pending := rfl
@[simp] theorem modFar_now (s : State) (n : Nat) (f : FarPort → FarPort) : (modFar s n f).now = s.now := rfl
@[simp] theorem modFar_islands (s : State) (n : Nat) (f : FarPort → FarPort) : (modFar s n f).islands = s.islands := rfl
@[simp] theorem modFar_freeCtr (s : State) (n : Nat) (f : FarPort → FarPort) : (modFar s n f).freeCtr = s.freeCtr := rfl
@[simp] theorem modFar_out (s : State) (n : Nat) (f : FarPort → FarPort) : (modFar s n f).out = s.out := rfl
@[simp] theorem modFar_noc (s : State) (n : Nat) (f : FarPort → FarPort) : (modFar s n f).noc = s.noc := rfl
@[simp] theorem modFar_reported (s : State) (n : Nat) (f : FarPort → FarPort) : (modFar s n f).reported = s.reported := rfl
@[simp] theorem modFar_power (s : State) (n : Nat) (f : FarPort → FarPort) : (modFar s n f).power = s.power := rfl
@[simp] theorem modFar_life (s : State) (n : Nat) (f : FarPort → FarPort) : (modFar s n f).life = s.life := rfl
@[simp] theorem modFar_flash (s : State) (n : Nat) (f : FarPort → FarPort) : (modFar s n f).flash = s.flash := rfl
@[simp] theorem modFar_mgmt (s : State) (n : Nat) (f : FarPort → FarPort) : (modFar s n f).mgmt = s.mgmt := rfl
@[simp] theorem modFar_comp (s : State) (n : Nat) (f : FarPort → FarPort) : (modFar s n f).comp = s.comp := rfl
@[simp] theorem modFar_parts (s : State) (n : Nat) (f : FarPort → FarPort) : (modFar s n f).parts = s.parts := rfl
@[simp] theorem modFar_engines (s : State) (n : Nat) (f : FarPort → FarPort) : (modFar s n f).engines = s.engines := rfl
@[simp] theorem modFar_acts (s : State) (n : Nat) (f : FarPort → FarPort) : (modFar s n f).acts = s.acts := rfl
@[simp] theorem modFar_home (s : State) (n : Nat) (f : FarPort → FarPort) : (modFar s n f).home = s.home := rfl
@[simp] theorem modFar_mem (s : State) (n : Nat) (f : FarPort → FarPort) : (modFar s n f).mem = s.mem := rfl
@[simp] theorem modFar_host (s : State) (n : Nat) (f : FarPort → FarPort) : (modFar s n f).host = s.host := rfl
@[simp] theorem modFar_poltex (s : State) (n : Nat) (f : FarPort → FarPort) : (modFar s n f).poltex = s.poltex := rfl
@[simp] theorem modFar_time (s : State) (n : Nat) (f : FarPort → FarPort) : (modFar s n f).time = s.time := rfl
@[simp] theorem modFar_streams (s : State) (n : Nat) (f : FarPort → FarPort) : (modFar s n f).streams = s.streams := rfl
@[simp] theorem modFar_index (s : State) (n : Nat) (f : FarPort → FarPort) : (modFar s n f).index = s.index := rfl
@[simp] theorem modFar_shaper (s : State) (n : Nat) (f : FarPort → FarPort) : (modFar s n f).shaper = s.shaper := rfl
@[simp] theorem modFar_counters (s : State) (n : Nat) (f : FarPort → FarPort) : (modFar s n f).counters = s.counters := rfl
@[simp] theorem modFar_selectors (s : State) (n : Nat) (f : FarPort → FarPort) : (modFar s n f).selectors = s.selectors := rfl

/-! ## modConn -/

@[simp] theorem modConn_pending (s : State) (n : Nat) (f : Conn → Conn) : (modConn s n f).pending = s.pending := rfl
@[simp] theorem modConn_now (s : State) (n : Nat) (f : Conn → Conn) : (modConn s n f).now = s.now := rfl
@[simp] theorem modConn_islands (s : State) (n : Nat) (f : Conn → Conn) : (modConn s n f).islands = s.islands := rfl
@[simp] theorem modConn_freeCtr (s : State) (n : Nat) (f : Conn → Conn) : (modConn s n f).freeCtr = s.freeCtr := rfl
@[simp] theorem modConn_out (s : State) (n : Nat) (f : Conn → Conn) : (modConn s n f).out = s.out := rfl
@[simp] theorem modConn_noc (s : State) (n : Nat) (f : Conn → Conn) : (modConn s n f).noc = s.noc := rfl
@[simp] theorem modConn_reported (s : State) (n : Nat) (f : Conn → Conn) : (modConn s n f).reported = s.reported := rfl
@[simp] theorem modConn_power (s : State) (n : Nat) (f : Conn → Conn) : (modConn s n f).power = s.power := rfl
@[simp] theorem modConn_life (s : State) (n : Nat) (f : Conn → Conn) : (modConn s n f).life = s.life := rfl
@[simp] theorem modConn_flash (s : State) (n : Nat) (f : Conn → Conn) : (modConn s n f).flash = s.flash := rfl
@[simp] theorem modConn_mgmt (s : State) (n : Nat) (f : Conn → Conn) : (modConn s n f).mgmt = s.mgmt := rfl
@[simp] theorem modConn_comp (s : State) (n : Nat) (f : Conn → Conn) : (modConn s n f).comp = s.comp := rfl
@[simp] theorem modConn_parts (s : State) (n : Nat) (f : Conn → Conn) : (modConn s n f).parts = s.parts := rfl
@[simp] theorem modConn_engines (s : State) (n : Nat) (f : Conn → Conn) : (modConn s n f).engines = s.engines := rfl
@[simp] theorem modConn_acts (s : State) (n : Nat) (f : Conn → Conn) : (modConn s n f).acts = s.acts := rfl
@[simp] theorem modConn_home (s : State) (n : Nat) (f : Conn → Conn) : (modConn s n f).home = s.home := rfl
@[simp] theorem modConn_mem (s : State) (n : Nat) (f : Conn → Conn) : (modConn s n f).mem = s.mem := rfl
@[simp] theorem modConn_host (s : State) (n : Nat) (f : Conn → Conn) : (modConn s n f).host = s.host := rfl
@[simp] theorem modConn_poltex (s : State) (n : Nat) (f : Conn → Conn) : (modConn s n f).poltex = s.poltex := rfl
@[simp] theorem modConn_time (s : State) (n : Nat) (f : Conn → Conn) : (modConn s n f).time = s.time := rfl
@[simp] theorem modConn_streams (s : State) (n : Nat) (f : Conn → Conn) : (modConn s n f).streams = s.streams := rfl
@[simp] theorem modConn_index (s : State) (n : Nat) (f : Conn → Conn) : (modConn s n f).index = s.index := rfl
@[simp] theorem modConn_shaper (s : State) (n : Nat) (f : Conn → Conn) : (modConn s n f).shaper = s.shaper := rfl
@[simp] theorem modConn_counters (s : State) (n : Nat) (f : Conn → Conn) : (modConn s n f).counters = s.counters := rfl
@[simp] theorem modConn_selectors (s : State) (n : Nat) (f : Conn → Conn) : (modConn s n f).selectors = s.selectors := rfl

/-! ## modTs -/

@[simp] theorem modTs_pending (s : State) (port : Nat) (f : TsPort → TsPort) : (modTs s port f).pending = s.pending := rfl
@[simp] theorem modTs_now (s : State) (port : Nat) (f : TsPort → TsPort) : (modTs s port f).now = s.now := rfl
@[simp] theorem modTs_islands (s : State) (port : Nat) (f : TsPort → TsPort) : (modTs s port f).islands = s.islands := rfl
@[simp] theorem modTs_freeCtr (s : State) (port : Nat) (f : TsPort → TsPort) : (modTs s port f).freeCtr = s.freeCtr := rfl
@[simp] theorem modTs_out (s : State) (port : Nat) (f : TsPort → TsPort) : (modTs s port f).out = s.out := rfl
@[simp] theorem modTs_noc (s : State) (port : Nat) (f : TsPort → TsPort) : (modTs s port f).noc = s.noc := rfl
@[simp] theorem modTs_reported (s : State) (port : Nat) (f : TsPort → TsPort) : (modTs s port f).reported = s.reported := rfl
@[simp] theorem modTs_power (s : State) (port : Nat) (f : TsPort → TsPort) : (modTs s port f).power = s.power := rfl
@[simp] theorem modTs_life (s : State) (port : Nat) (f : TsPort → TsPort) : (modTs s port f).life = s.life := rfl
@[simp] theorem modTs_flash (s : State) (port : Nat) (f : TsPort → TsPort) : (modTs s port f).flash = s.flash := rfl
@[simp] theorem modTs_mgmt (s : State) (port : Nat) (f : TsPort → TsPort) : (modTs s port f).mgmt = s.mgmt := rfl
@[simp] theorem modTs_comp (s : State) (port : Nat) (f : TsPort → TsPort) : (modTs s port f).comp = s.comp := rfl
@[simp] theorem modTs_parts (s : State) (port : Nat) (f : TsPort → TsPort) : (modTs s port f).parts = s.parts := rfl
@[simp] theorem modTs_engines (s : State) (port : Nat) (f : TsPort → TsPort) : (modTs s port f).engines = s.engines := rfl
@[simp] theorem modTs_acts (s : State) (port : Nat) (f : TsPort → TsPort) : (modTs s port f).acts = s.acts := rfl
@[simp] theorem modTs_home (s : State) (port : Nat) (f : TsPort → TsPort) : (modTs s port f).home = s.home := rfl
@[simp] theorem modTs_mem (s : State) (port : Nat) (f : TsPort → TsPort) : (modTs s port f).mem = s.mem := rfl
@[simp] theorem modTs_host (s : State) (port : Nat) (f : TsPort → TsPort) : (modTs s port f).host = s.host := rfl
@[simp] theorem modTs_poltex (s : State) (port : Nat) (f : TsPort → TsPort) : (modTs s port f).poltex = s.poltex := rfl
@[simp] theorem modTs_tlaley (s : State) (port : Nat) (f : TsPort → TsPort) : (modTs s port f).tlaley = s.tlaley := rfl
@[simp] theorem modTs_time (s : State) (port : Nat) (f : TsPort → TsPort) : (modTs s port f).time = s.time := rfl
@[simp] theorem modTs_streams (s : State) (port : Nat) (f : TsPort → TsPort) : (modTs s port f).streams = s.streams := rfl
@[simp] theorem modTs_index (s : State) (port : Nat) (f : TsPort → TsPort) : (modTs s port f).index = s.index := rfl
@[simp] theorem modTs_counters (s : State) (port : Nat) (f : TsPort → TsPort) : (modTs s port f).counters = s.counters := rfl
@[simp] theorem modTs_selectors (s : State) (port : Nat) (f : TsPort → TsPort) : (modTs s port f).selectors = s.selectors := rfl

/-! ## takeNoc -/

@[simp] theorem takeNoc_pending (s : State) (o : Out) : (takeNoc s o).pending = s.pending := rfl
@[simp] theorem takeNoc_now (s : State) (o : Out) : (takeNoc s o).now = s.now := rfl
@[simp] theorem takeNoc_islands (s : State) (o : Out) : (takeNoc s o).islands = s.islands := rfl
@[simp] theorem takeNoc_freeCtr (s : State) (o : Out) : (takeNoc s o).freeCtr = s.freeCtr := rfl
@[simp] theorem takeNoc_out (s : State) (o : Out) : (takeNoc s o).out = s.out := rfl
@[simp] theorem takeNoc_reported (s : State) (o : Out) : (takeNoc s o).reported = s.reported := rfl
@[simp] theorem takeNoc_power (s : State) (o : Out) : (takeNoc s o).power = s.power := rfl
@[simp] theorem takeNoc_life (s : State) (o : Out) : (takeNoc s o).life = s.life := rfl
@[simp] theorem takeNoc_flash (s : State) (o : Out) : (takeNoc s o).flash = s.flash := rfl
@[simp] theorem takeNoc_mgmt (s : State) (o : Out) : (takeNoc s o).mgmt = s.mgmt := rfl
@[simp] theorem takeNoc_comp (s : State) (o : Out) : (takeNoc s o).comp = s.comp := rfl
@[simp] theorem takeNoc_parts (s : State) (o : Out) : (takeNoc s o).parts = s.parts := rfl
@[simp] theorem takeNoc_engines (s : State) (o : Out) : (takeNoc s o).engines = s.engines := rfl
@[simp] theorem takeNoc_acts (s : State) (o : Out) : (takeNoc s o).acts = s.acts := rfl
@[simp] theorem takeNoc_home (s : State) (o : Out) : (takeNoc s o).home = s.home := rfl
@[simp] theorem takeNoc_mem (s : State) (o : Out) : (takeNoc s o).mem = s.mem := rfl
@[simp] theorem takeNoc_host (s : State) (o : Out) : (takeNoc s o).host = s.host := rfl
@[simp] theorem takeNoc_poltex (s : State) (o : Out) : (takeNoc s o).poltex = s.poltex := rfl
@[simp] theorem takeNoc_tlaley (s : State) (o : Out) : (takeNoc s o).tlaley = s.tlaley := rfl
@[simp] theorem takeNoc_time (s : State) (o : Out) : (takeNoc s o).time = s.time := rfl
@[simp] theorem takeNoc_streams (s : State) (o : Out) : (takeNoc s o).streams = s.streams := rfl
@[simp] theorem takeNoc_index (s : State) (o : Out) : (takeNoc s o).index = s.index := rfl
@[simp] theorem takeNoc_shaper (s : State) (o : Out) : (takeNoc s o).shaper = s.shaper := rfl
@[simp] theorem takeNoc_counters (s : State) (o : Out) : (takeNoc s o).counters = s.counters := rfl
@[simp] theorem takeNoc_selectors (s : State) (o : Out) : (takeNoc s o).selectors = s.selectors := rfl

/-! ## modStream -/

@[simp] theorem modStream_pending (s : State) (port n : Nat) (f : Stream → Stream) : (modStream s port n f).pending = s.pending := rfl
@[simp] theorem modStream_now (s : State) (port n : Nat) (f : Stream → Stream) : (modStream s port n f).now = s.now := rfl
@[simp] theorem modStream_islands (s : State) (port n : Nat) (f : Stream → Stream) : (modStream s port n f).islands = s.islands := rfl
@[simp] theorem modStream_freeCtr (s : State) (port n : Nat) (f : Stream → Stream) : (modStream s port n f).freeCtr = s.freeCtr := rfl
@[simp] theorem modStream_out (s : State) (port n : Nat) (f : Stream → Stream) : (modStream s port n f).out = s.out := rfl
@[simp] theorem modStream_noc (s : State) (port n : Nat) (f : Stream → Stream) : (modStream s port n f).noc = s.noc := rfl
@[simp] theorem modStream_reported (s : State) (port n : Nat) (f : Stream → Stream) : (modStream s port n f).reported = s.reported := rfl
@[simp] theorem modStream_power (s : State) (port n : Nat) (f : Stream → Stream) : (modStream s port n f).power = s.power := rfl
@[simp] theorem modStream_life (s : State) (port n : Nat) (f : Stream → Stream) : (modStream s port n f).life = s.life := rfl
@[simp] theorem modStream_flash (s : State) (port n : Nat) (f : Stream → Stream) : (modStream s port n f).flash = s.flash := rfl
@[simp] theorem modStream_mgmt (s : State) (port n : Nat) (f : Stream → Stream) : (modStream s port n f).mgmt = s.mgmt := rfl
@[simp] theorem modStream_comp (s : State) (port n : Nat) (f : Stream → Stream) : (modStream s port n f).comp = s.comp := rfl
@[simp] theorem modStream_parts (s : State) (port n : Nat) (f : Stream → Stream) : (modStream s port n f).parts = s.parts := rfl
@[simp] theorem modStream_engines (s : State) (port n : Nat) (f : Stream → Stream) : (modStream s port n f).engines = s.engines := rfl
@[simp] theorem modStream_acts (s : State) (port n : Nat) (f : Stream → Stream) : (modStream s port n f).acts = s.acts := rfl
@[simp] theorem modStream_home (s : State) (port n : Nat) (f : Stream → Stream) : (modStream s port n f).home = s.home := rfl
@[simp] theorem modStream_mem (s : State) (port n : Nat) (f : Stream → Stream) : (modStream s port n f).mem = s.mem := rfl
@[simp] theorem modStream_host (s : State) (port n : Nat) (f : Stream → Stream) : (modStream s port n f).host = s.host := rfl
@[simp] theorem modStream_poltex (s : State) (port n : Nat) (f : Stream → Stream) : (modStream s port n f).poltex = s.poltex := rfl
@[simp] theorem modStream_tlaley (s : State) (port n : Nat) (f : Stream → Stream) : (modStream s port n f).tlaley = s.tlaley := rfl
@[simp] theorem modStream_time (s : State) (port n : Nat) (f : Stream → Stream) : (modStream s port n f).time = s.time := rfl
@[simp] theorem modStream_index (s : State) (port n : Nat) (f : Stream → Stream) : (modStream s port n f).index = s.index := rfl
@[simp] theorem modStream_shaper (s : State) (port n : Nat) (f : Stream → Stream) : (modStream s port n f).shaper = s.shaper := rfl
@[simp] theorem modStream_counters (s : State) (port n : Nat) (f : Stream → Stream) : (modStream s port n f).counters = s.counters := rfl
@[simp] theorem modStream_selectors (s : State) (port n : Nat) (f : Stream → Stream) : (modStream s port n f).selectors = s.selectors := rfl

/-! ## modRctx -/

@[simp] theorem modRctx_pending (s : State) (p c : Nat) (f : RCtx → RCtx) : (modRctx s p c f).pending = s.pending := rfl
@[simp] theorem modRctx_now (s : State) (p c : Nat) (f : RCtx → RCtx) : (modRctx s p c f).now = s.now := rfl
@[simp] theorem modRctx_islands (s : State) (p c : Nat) (f : RCtx → RCtx) : (modRctx s p c f).islands = s.islands := rfl
@[simp] theorem modRctx_freeCtr (s : State) (p c : Nat) (f : RCtx → RCtx) : (modRctx s p c f).freeCtr = s.freeCtr := rfl
@[simp] theorem modRctx_out (s : State) (p c : Nat) (f : RCtx → RCtx) : (modRctx s p c f).out = s.out := rfl
@[simp] theorem modRctx_noc (s : State) (p c : Nat) (f : RCtx → RCtx) : (modRctx s p c f).noc = s.noc := rfl
@[simp] theorem modRctx_reported (s : State) (p c : Nat) (f : RCtx → RCtx) : (modRctx s p c f).reported = s.reported := rfl
@[simp] theorem modRctx_power (s : State) (p c : Nat) (f : RCtx → RCtx) : (modRctx s p c f).power = s.power := rfl
@[simp] theorem modRctx_life (s : State) (p c : Nat) (f : RCtx → RCtx) : (modRctx s p c f).life = s.life := rfl
@[simp] theorem modRctx_flash (s : State) (p c : Nat) (f : RCtx → RCtx) : (modRctx s p c f).flash = s.flash := rfl
@[simp] theorem modRctx_mgmt (s : State) (p c : Nat) (f : RCtx → RCtx) : (modRctx s p c f).mgmt = s.mgmt := rfl
@[simp] theorem modRctx_comp (s : State) (p c : Nat) (f : RCtx → RCtx) : (modRctx s p c f).comp = s.comp := rfl
@[simp] theorem modRctx_engines (s : State) (p c : Nat) (f : RCtx → RCtx) : (modRctx s p c f).engines = s.engines := rfl
@[simp] theorem modRctx_acts (s : State) (p c : Nat) (f : RCtx → RCtx) : (modRctx s p c f).acts = s.acts := rfl
@[simp] theorem modRctx_home (s : State) (p c : Nat) (f : RCtx → RCtx) : (modRctx s p c f).home = s.home := rfl
@[simp] theorem modRctx_mem (s : State) (p c : Nat) (f : RCtx → RCtx) : (modRctx s p c f).mem = s.mem := rfl
@[simp] theorem modRctx_host (s : State) (p c : Nat) (f : RCtx → RCtx) : (modRctx s p c f).host = s.host := rfl
@[simp] theorem modRctx_poltex (s : State) (p c : Nat) (f : RCtx → RCtx) : (modRctx s p c f).poltex = s.poltex := rfl
@[simp] theorem modRctx_tlaley (s : State) (p c : Nat) (f : RCtx → RCtx) : (modRctx s p c f).tlaley = s.tlaley := rfl
@[simp] theorem modRctx_time (s : State) (p c : Nat) (f : RCtx → RCtx) : (modRctx s p c f).time = s.time := rfl
@[simp] theorem modRctx_streams (s : State) (p c : Nat) (f : RCtx → RCtx) : (modRctx s p c f).streams = s.streams := rfl
@[simp] theorem modRctx_index (s : State) (p c : Nat) (f : RCtx → RCtx) : (modRctx s p c f).index = s.index := rfl
@[simp] theorem modRctx_shaper (s : State) (p c : Nat) (f : RCtx → RCtx) : (modRctx s p c f).shaper = s.shaper := rfl
@[simp] theorem modRctx_counters (s : State) (p c : Nat) (f : RCtx → RCtx) : (modRctx s p c f).counters = s.counters := rfl
@[simp] theorem modRctx_selectors (s : State) (p c : Nat) (f : RCtx → RCtx) : (modRctx s p c f).selectors = s.selectors := rfl

/-! ## setBucket -/

@[simp] theorem setBucket_pending (s : State) (p c : Nat) (b : Bucket) : (setBucket s p c b).pending = s.pending := rfl
@[simp] theorem setBucket_now (s : State) (p c : Nat) (b : Bucket) : (setBucket s p c b).now = s.now := rfl
@[simp] theorem setBucket_islands (s : State) (p c : Nat) (b : Bucket) : (setBucket s p c b).islands = s.islands := rfl
@[simp] theorem setBucket_freeCtr (s : State) (p c : Nat) (b : Bucket) : (setBucket s p c b).freeCtr = s.freeCtr := rfl
@[simp] theorem setBucket_out (s : State) (p c : Nat) (b : Bucket) : (setBucket s p c b).out = s.out := rfl
@[simp] theorem setBucket_noc (s : State) (p c : Nat) (b : Bucket) : (setBucket s p c b).noc = s.noc := rfl
@[simp] theorem setBucket_reported (s : State) (p c : Nat) (b : Bucket) : (setBucket s p c b).reported = s.reported := rfl
@[simp] theorem setBucket_power (s : State) (p c : Nat) (b : Bucket) : (setBucket s p c b).power = s.power := rfl
@[simp] theorem setBucket_life (s : State) (p c : Nat) (b : Bucket) : (setBucket s p c b).life = s.life := rfl
@[simp] theorem setBucket_flash (s : State) (p c : Nat) (b : Bucket) : (setBucket s p c b).flash = s.flash := rfl
@[simp] theorem setBucket_mgmt (s : State) (p c : Nat) (b : Bucket) : (setBucket s p c b).mgmt = s.mgmt := rfl
@[simp] theorem setBucket_comp (s : State) (p c : Nat) (b : Bucket) : (setBucket s p c b).comp = s.comp := rfl
@[simp] theorem setBucket_engines (s : State) (p c : Nat) (b : Bucket) : (setBucket s p c b).engines = s.engines := rfl
@[simp] theorem setBucket_acts (s : State) (p c : Nat) (b : Bucket) : (setBucket s p c b).acts = s.acts := rfl
@[simp] theorem setBucket_home (s : State) (p c : Nat) (b : Bucket) : (setBucket s p c b).home = s.home := rfl
@[simp] theorem setBucket_mem (s : State) (p c : Nat) (b : Bucket) : (setBucket s p c b).mem = s.mem := rfl
@[simp] theorem setBucket_host (s : State) (p c : Nat) (b : Bucket) : (setBucket s p c b).host = s.host := rfl
@[simp] theorem setBucket_poltex (s : State) (p c : Nat) (b : Bucket) : (setBucket s p c b).poltex = s.poltex := rfl
@[simp] theorem setBucket_tlaley (s : State) (p c : Nat) (b : Bucket) : (setBucket s p c b).tlaley = s.tlaley := rfl
@[simp] theorem setBucket_time (s : State) (p c : Nat) (b : Bucket) : (setBucket s p c b).time = s.time := rfl
@[simp] theorem setBucket_streams (s : State) (p c : Nat) (b : Bucket) : (setBucket s p c b).streams = s.streams := rfl
@[simp] theorem setBucket_index (s : State) (p c : Nat) (b : Bucket) : (setBucket s p c b).index = s.index := rfl
@[simp] theorem setBucket_shaper (s : State) (p c : Nat) (b : Bucket) : (setBucket s p c b).shaper = s.shaper := rfl
@[simp] theorem setBucket_counters (s : State) (p c : Nat) (b : Bucket) : (setBucket s p c b).counters = s.counters := rfl
@[simp] theorem setBucket_selectors (s : State) (p c : Nat) (b : Bucket) : (setBucket s p c b).selectors = s.selectors := rfl

/-! ## modTime -/

@[simp] theorem modTime_pending (s : State) (f : TimeBase → TimeBase) : (modTime s f).pending = s.pending := rfl
@[simp] theorem modTime_now (s : State) (f : TimeBase → TimeBase) : (modTime s f).now = s.now := rfl
@[simp] theorem modTime_islands (s : State) (f : TimeBase → TimeBase) : (modTime s f).islands = s.islands := rfl
@[simp] theorem modTime_freeCtr (s : State) (f : TimeBase → TimeBase) : (modTime s f).freeCtr = s.freeCtr := rfl
@[simp] theorem modTime_out (s : State) (f : TimeBase → TimeBase) : (modTime s f).out = s.out := rfl
@[simp] theorem modTime_noc (s : State) (f : TimeBase → TimeBase) : (modTime s f).noc = s.noc := rfl
@[simp] theorem modTime_reported (s : State) (f : TimeBase → TimeBase) : (modTime s f).reported = s.reported := rfl
@[simp] theorem modTime_power (s : State) (f : TimeBase → TimeBase) : (modTime s f).power = s.power := rfl
@[simp] theorem modTime_life (s : State) (f : TimeBase → TimeBase) : (modTime s f).life = s.life := rfl
@[simp] theorem modTime_flash (s : State) (f : TimeBase → TimeBase) : (modTime s f).flash = s.flash := rfl
@[simp] theorem modTime_mgmt (s : State) (f : TimeBase → TimeBase) : (modTime s f).mgmt = s.mgmt := rfl
@[simp] theorem modTime_comp (s : State) (f : TimeBase → TimeBase) : (modTime s f).comp = s.comp := rfl
@[simp] theorem modTime_parts (s : State) (f : TimeBase → TimeBase) : (modTime s f).parts = s.parts := rfl
@[simp] theorem modTime_engines (s : State) (f : TimeBase → TimeBase) : (modTime s f).engines = s.engines := rfl
@[simp] theorem modTime_acts (s : State) (f : TimeBase → TimeBase) : (modTime s f).acts = s.acts := rfl
@[simp] theorem modTime_home (s : State) (f : TimeBase → TimeBase) : (modTime s f).home = s.home := rfl
@[simp] theorem modTime_mem (s : State) (f : TimeBase → TimeBase) : (modTime s f).mem = s.mem := rfl
@[simp] theorem modTime_host (s : State) (f : TimeBase → TimeBase) : (modTime s f).host = s.host := rfl
@[simp] theorem modTime_poltex (s : State) (f : TimeBase → TimeBase) : (modTime s f).poltex = s.poltex := rfl
@[simp] theorem modTime_tlaley (s : State) (f : TimeBase → TimeBase) : (modTime s f).tlaley = s.tlaley := rfl
@[simp] theorem modTime_streams (s : State) (f : TimeBase → TimeBase) : (modTime s f).streams = s.streams := rfl
@[simp] theorem modTime_index (s : State) (f : TimeBase → TimeBase) : (modTime s f).index = s.index := rfl
@[simp] theorem modTime_shaper (s : State) (f : TimeBase → TimeBase) : (modTime s f).shaper = s.shaper := rfl
@[simp] theorem modTime_counters (s : State) (f : TimeBase → TimeBase) : (modTime s f).counters = s.counters := rfl
@[simp] theorem modTime_selectors (s : State) (f : TimeBase → TimeBase) : (modTime s f).selectors = s.selectors := rfl

/-! ## Frames, ports, connections, streams and contexts read back -/

@[simp] theorem frameAt_setFrame_self (s : State) (g : Nat) (f : Frame) : frameAt (setFrame s g f) g = f := AMap.getD_insert_self ..

theorem frameAt_setFrame_ne (s : State) {g k : Nat} (f : Frame) (h : k ≠ g) : frameAt (setFrame s g f) k = frameAt s k :=
  AMap.getD_insert_ne _ _ _ h

@[simp] theorem nearPort_modNear_self (s : State) (n : Nat) (f : NearPort → NearPort) :
    nearPort (modNear s n f) n = f (nearPort s n) := AMap.getD_insert_self ..

theorem nearPort_modNear_ne (s : State) {n k : Nat} (f : NearPort → NearPort) (h : k ≠ n) :
    nearPort (modNear s n f) k = nearPort s k := AMap.getD_insert_ne _ _ _ h

@[simp] theorem farPort_modFar_self (s : State) (n : Nat) (f : FarPort → FarPort) : farPort (modFar s n f) n = f (farPort s n) :=
  AMap.getD_insert_self ..

theorem farPort_modFar_ne (s : State) {n k : Nat} (f : FarPort → FarPort) (h : k ≠ n) : farPort (modFar s n f) k = farPort s k :=
  AMap.getD_insert_ne _ _ _ h

@[simp] theorem connOf_modConn_self (s : State) (n : Nat) (f : Conn → Conn) : connOf (modConn s n f) n = f (connOf s n) :=
  AMap.getD_insert_self ..

theorem connOf_modConn_ne (s : State) {n k : Nat} (f : Conn → Conn) (h : k ≠ n) : connOf (modConn s n f) k = connOf s k :=
  AMap.getD_insert_ne _ _ _ h

@[simp] theorem tsPort_modTs_self (s : State) (n : Nat) (f : TsPort → TsPort) : tsPort (modTs s n f) n = f (tsPort s n) :=
  AMap.getD_insert_self ..

theorem tsPort_modTs_ne (s : State) {n k : Nat} (f : TsPort → TsPort) (h : k ≠ n) : tsPort (modTs s n f) k = tsPort s k :=
  AMap.getD_insert_ne _ _ _ h

@[simp] theorem streamOf_modStream_self (s : State) (port n : Nat) (f : Stream → Stream) :
    streamOf (modStream s port n f) port n = f (streamOf s port n) := AMap.getD_insert_self ..

@[simp] theorem rctxOf_modRctx_self (s : State) (p c : Nat) (f : RCtx → RCtx) : rctxOf (modRctx s p c f) p c = f (rctxOf s p c) := by
  simp [rctxOf, modRctx]

end Sys2Proof.Machine
end

