-- ==== Sys2Proof/Tests/Slice0.lean ====
section
/-! SUPPORT. Tests of one step each, with the smoke test of the well-formedness checks, the manual's worked examples, and
for each statement a state and operands that meet what it assumes. -/

set_option Elab.async false

namespace Sys2Proof.Tests

open Sys2Proof.Machine Sys2Proof.Safety

/-! ## Well-formedness: an ill-formed term for each check -/

def noParty : Party := ⟨0, 0, 0, 1⟩
def tm (h : Nat) : TMsg := { ttype := 0, src := noParty, handle := h }

theorem test_wf_instructions :
    [Instr.nop ⟨16, 0, 0⟩, .fence ⟨0, 65, 0⟩, .wait ⟨0, 0, 2 ^ 32⟩, .attend ⟨0, 0, 0⟩ [(16, 1)] .kept, .replyWaitExpiry ⟨16, 0, 0⟩ false,
      .lateBoundExpiry ⟨0, 0, 0⟩ (2 ^ 64), .instructionIssue 16, .instructionCommit 0 65, .queueIssueStateFault 16 0,
      .semaphoreServe 0 0, .semaphoreServe 0 16].all (fun i => !i.wf) = true := by decide +kernel

theorem test_wf_registers :
    [Instr.doorbell .mgmt 0 64 8 false 0, .doorbell .mgmt 0 0 2 false 0, .doorbell (.pf 4) 0 0 8 false 0, .qBaseWrite .mgmt 0 64 false 0,
      .qResume .mgmt 16 0, .semaphoreWrite .mgmt 0 16 0, .errqBaseWrite .mgmt 16 0, .bucketWrite .mgmt 16 false 0,
      .meterWrite (.vf 16) 0 false 0, .preempt .mgmt 16, .resume .mgmt 16, .restart 16 .coreFailure, .restart 0 (.software (.pf 4)),
      .gateArm (.pf 4), .gateEnableWrite (.pf 4) 0, .injectArm (.pf 4) 0, .registerWrite .mgmt .module 0 8 [], .registerWrite .mgmt .module 0 4 [0, 0],
      .registerWrite .mgmt (.part 0) 0x40000 8 [0], .registerRead .mgmt .module 0x400000 8, .registerRead .mgmt .module 0 72,
      .portIdlePoint 32, .barWindowAccess .mgmt 16 0 (.read 4), .configurationRequest (.pf 0) ⟨.header 4096, none⟩].all (fun i => !i.wf) = true := by
  decide +kernel

theorem test_wf_messages :
    [Instr.releaseAtHome (tm (2 ^ 64)), .migrateCommit (tm (2 ^ 64)) none, .confirm (tm (2 ^ 64)) none, .reply (tm 0) [2 ^ 64],
      .reply { tm 0 with tag := 2 ^ 32 } [], .offer { tm 0 with level := 16 }, .offer { tm 0 with toPart := 16 },
      .offer { tm 0 with src := ⟨4096, 0, 0, 0⟩ }, .offer { tm 0 with peer := ⟨0, 0, 16, 0⟩ },
      .allocAtHome { src := noParty, tag := 0, home := (0, 0), part := 16, owner := noParty, flags := 0, sizeLog2 := 0, count := 1 },
      .sealAtHome ⟨noParty, 0, 2 ^ 64, 0, 0⟩, .freeAtHome { src := noParty, tag := 2 ^ 32, handle := 0 },
      .migrateAtSource ⟨noParty, 0, 0, ⟨0, 1024, 0, 0⟩, 0, []⟩,
      .migrateBegin { src := noParty, tag := 0, handle := 2 ^ 64, dest := noParty, owner := noParty, flags := 0, sizeLog2 := 0 },
      .migrateCopyDone (2 ^ 32), .offerDeadline (2 ^ 32), .forwardingHoldEnd (2 ^ 64), .outcomeWaitExpiry 0 (2 ^ 32),
      .fenceMsg { domain := 0, ep := 0, part := 0, gate := false, noFloor := false, fenceEpoch := 0, issued := 0, reserved := []
                  sigR := 0, sigS := 0, sender := noParty },
      .attendReq { src := noParty, tpart := 16, target := (0, 0), tag := 0, nent := 0, nrows := 0, body := [] },
      .remoteWaitExpiry 16 0 false, .rebuildRequestMsg 0 { src := noParty, shard := 0, tag := 2 ^ 64 },
      .rebuildWaitExpiry 0 (2 ^ 32), .ixTempSample 256].all (fun i => !i.wf) = true := by decide +kernel

theorem test_wf_links :
    [Instr.poltexLoad { port := 16, op := 1, tc := 0, src := 0, dst := 0, tag := 0, addr := 0, plen := 0 },
      .poltexStore { port := 0, op := 2, tc := 8, src := 0, dst := 0, tag := 0, addr := 0, plen := 0 },
      .data { port := 0, op := 8, tc := 0, src := 0, dst := 0, tag := 0, addr := 0, plen := 257, payload := List.replicate 257 0 },
      .atomicUnitApply (2 ^ 48), .deadBoundExpiry (2 ^ 16), .flitReceive 0 [], .linkTraining 0 512 0 1, .partnerTimeout 16,
      .laneFailure 0 9, .contributionSegment 0 32 0 ⟨1, 0, 0, false, 0, false, 0, 0, 0, []⟩,
      .segmentArrival 0 0 0 ⟨1, 0, 0, false, 0, false, 64, 0, 0, []⟩, .roundLimitExpiry 0 64,
      .write { port := 16, op := 1, dconn := 0, dcepoch := 0 }, .ack { port := 0, op := 1, dconn := 2 ^ 20, dcepoch := 0 },
      .open_ { port := 0, op := 1, dconn := 0, dcepoch := 0 } ⟨0, 0, 0, 0, 0, 0, 0⟩ [],
      .openAck { port := 0, op := 1, dconn := 0, dcepoch := 0 } ⟨0, 0, 16, 0, 0, 0, 0⟩, .openRetry (2 ^ 20), .stateFetchDone (2 ^ 20) true,
      .wavelengthFailure 0 ⟨9, none⟩, .spareWavelengthReady 16, .nonTlaleyFrame ⟨16, .other⟩, .pfcFrame 0 8 true, .pfcPauseLimit 16 0,
      .ptpMessage { port := 16, domain := 0, ipv6 := false, kind := .other, seq := 0, time := 0 }, .farPortTraining 0 512 none].all (fun i => !i.wf) = true := by decide +kernel

theorem test_wf_module :
    [Instr.portFrameSend 33, .pendingReexamine 0 8 0, .leafIdleForget 0 16 0 none, .mcAccess 0x3000000000 (.read 1) .selfTest [] 0,
      .mcAccess 0 (.read 257) .selfTest [] 0, .mcAccess 0 (.write (List.replicate 257 0)) .selfTest [] 0, .mcAccess 0 (.read 1) .selfTest [⟨1, 0, 1⟩] 0,
      .scrubGranule 24 [], .scrubGranule 0 [⟨0, 36, 1⟩], .refreshSlot 24, .dramTempSample [], .containmentTimeout ⟨.request 0 (2 ^ 20), .bound⟩,
      .containmentTimeout ⟨.instr ⟨16, 0, 0⟩, .logic⟩, .engineFailure 16, .coreFailure 16, .hostLinkLoss ⟨4, true⟩, .hostLinkUp 4 ⟨16, 1⟩, .bootCommand ⟨64, none⟩,
      .shutdownTestDone [] [] [], .sanitiseCommand false false (2 ^ 384) 0, .recertCommand 0 (2 ^ 384) true 0, .exportCommand 0 0 [],
      .tenantCommand [], .firmwareActivate 2, .compositionKeyInstall (2 ^ 384) 0 none, .getCertificate 8 0 0,
      .challenge 0 [], .getMeasurements 256 false (List.replicate 32 0)].all (fun i => !i.wf) = true := by decide +kernel

theorem test_wf_accepts :
    [Instr.nop ⟨0, 0, 0⟩, .doorbell (.vf 0) 0 63 4 true 0, .registerWrite (.pf 0) .module 0x48 8 [0], .releaseAtHome (tm 1),
      .scrubGranule 23 [⟨16, 35, 15⟩], .getMeasurements 0xFF true (List.replicate 32 0)].all Instr.wf = true := by decide +kernel


/-! ## The manual's worked examples -/

/-- The cache node of 03_state_blocks.md: domain 0x005, endpoint 0x021, partition 3 on channels 12 to 23. -/
def cacheNode : State :=
  { State.reset with
    comp := some { role := 2, domain := 5, endpoint := 0x21, parts := 8
                   slices := [(3, { chMask := 0xFFF000, shareSize := 28, base := 0x150 })] }
    parts := [(3, { geoms := [(0, { tCode := 1, format := 1, hkvLog2 := 3, dCode := 1, valid := true })] })] }

/-- The byte at offset 0x5678 of the block lies at channel 13, channel address 0x0184_5D78. -/
theorem test_placement : channelOf cacheNode 0x001512345678 = (13, 0x01845D78) := by decide +kernel

/-- The block's handle, and its first device address. -/
theorem test_handle : mkHandle (me cacheNode) 5 0x5448D0 = 0x01401421005448D0 ∧ hFrame 0x01401421005448D0 * 0x4000 = 0x001512340000 ∧
    hGen 0x01401421005448D0 = 5 := by decide +kernel

/-- The running geometry reads 0x0002_02B5. -/
theorem test_geometry : readReg cacheNode (.vf 3) (.part 3) 0x2000 8 = 0x202B5 := by decide +kernel

/-- MC_CHMAP[4] of a partition of 12 channels (19_control_registers.md). -/
theorem test_chmap : readReg cacheNode (.vf 3) (.part 3) (0x3040 + 32) 8 = 0x030201000B0A0908 := by decide +kernel

/-- The code word of 14_memory_protection.md: its check nibbles, and the check unit of word 7 of granule 99,421. -/
theorem test_code_encode : encodeWord [0x20, 0, 0x10, 0, 0, 0, 0x10, 0, 0, 0, 0, 0, 0x20, 0, 0, 0] = [5, 9, 7, 4] ∧
    checkUnit 0x01845D70 = 0x1C0308BA0 := by decide +kernel

/-- The faults of 14_memory_protection.md on word 7 of granule 99,421, whose W mod 8 is 7. -/
theorem test_code_single : decodeWord (syndrome [(20, 15)]) 7 none = .corrected [(20, 15)] := by decide +kernel

theorem test_code_erasures : syndrome [(29, 2), (33, 2)] = ⟨0, 9, 6, 8⟩ ∧
    decodeWord (syndrome [(29, 2), (33, 2)]) 7 (some 29) = .corrected [(29, 2), (33, 2)] ∧
    decodeWord (syndrome [(29, 2), (33, 2)]) 7 none = .uncorrectable := by decide +kernel

/-- The error record of 18_counters_and_errors.md: index 5 of a ring of 64. -/
theorem test_error_record :
    leAt (errBytes { code := 0x06, part := 3, queue := some 3, status := 0x33, detail := syndromeDetail 13 ⟨0, 9, 6, 8⟩
                     address := 0x01845D70 } (ringTag 5 64)) 0 8 = 0x0110D20D33433006 := by decide +kernel

/-- The generation module of 16_partitions_and_hosts.md, with both partitions running. -/
def twoTenants : State :=
  { State.reset with
    life := { sy := .ready, stepDone := 8, present := 0xFFFF }
    power := { links := [0, 1], fns := [(0, { vfEnable := true, numVfs := 16 }), (1, { vfEnable := true, numVfs := 16 })] }
    comp := some { role := 1, domain := 1, endpoint := 2, parts := 3, bifurcation := 1
                   slices := [(0, { engines := 0xFF, cores := 0xFF, chMask := 0xFFF, shareSize := 28, npDed := 0xFF, fpShared := 0xFFFF
                                    xsSize := 64, vf := true, weight := 1, records := 8192, ixSize := 128, connSize := 512, actSlots := 64
                                    hostQ := 0xFFFFFFFF, regs := [0, 0, 0, 0] }),
                              (1, { engines := 0xFF00, cores := 0xFF00, chMask := 0xFFF000, shareSize := 28, base := 0x150, npDed := 0xFF00
                                    fpShared := 0xFFFF, xsBase := 64, xsSize := 64, hostFn := 1, vf := true, weight := 1, records := 8192
                                    ixBase := 128, ixSize := 128, connBase := 512, connSize := 512, actSlots := 64
                                    hostQ := 0xFFFFFFFF, regs := [0, 0, 0, 0] })] }
    parts := [(0, { state := .running }), (1, { state := .running, buckets := [(0x400, { level := 249344, burst := 4000 })] })] }

/-- The example's record meets the rules of R432, and its tables lie where it says. -/
theorem test_composition : compOk (compOf twoTenants) = true ∧ recordTable twoTenants 0 = 0x0014FC000000 ∧
    bucketTable twoTenants 0 = 0x0014FBE00000 := by decide +kernel

/-- AE_LEAD of both partitions, and that of the example of 08_schedule_contract.md, whose slice spans both dies. -/
theorem test_lead : readReg twoTenants (.vf 0) (.part 0) 0x2088 8 = 0x2E05A0 ∧ readReg twoTenants (.vf 1) (.part 1) 0x2088 8 = 0x2E05A0 ∧
    readReg { twoTenants with comp := some { parts := 1, slices := [(0, { engines := 0xFFFF, chMask := 0xFFFFFF, shareSize := 28 })] } }
      (.vf 0) (.part 0) 0x2088 8 = 0x1002E0654 := by decide +kernel

/-- Steps of the example of 19_control_registers.md: 1, 2, 4, 5, 6, 7 and 8. -/
theorem test_read_id : (after (exec (.registerRead (.vf 1) (.part 1) 0 8) twoTenants) twoTenants).out
    = [.regRead (.vf 1) 0x110151] := by decide +kernel

theorem test_write_door :
    (queueOf (partOf (after (exec (.doorbell (.vf 1) 1 5 4 false 0x240) twoTenants) twoTenants) 1) 5).tail = 0x240 := by decide +kernel

theorem test_door_of_the_wrong_function :
    let t := after (exec (.doorbell (.pf 1) 1 5 4 false 0x240) twoTenants) twoTenants
    (queueOf (partOf t 1) 5).tail = 0 ∧ (partOf t 1).errq.overflow = 1 ∧ t.counters.prod = 0 := by decide +kernel

theorem test_bucket_level :
    let t := after (exec (.registerWrite (.vf 1) (.part 1) 0x5008 8 [0x400]) twoTenants) twoTenants
    readReg t (.vf 1) (.part 1) 0x5018 8 = 0x3CE00 ∧ readReg t (.ringmaster 1) (.part 1) 0x5008 8 = 0 := by decide +kernel

theorem test_scrub_of_another_group :
    let t := after (exec (.registerWrite (.pf 1) .module 0x20000 8 [48]) twoTenants) twoTenants
    t.mem.scrubPend = none ∧ t.counters.log.map (fun r => (r.code, r.address, r.detail % 4)) = [(3, 0x20000, 0)] := by decide +kernel

theorem test_scrub_period :
    let t := after (exec (.registerWrite (.pf 0) .module 0x20000 8 [48]) twoTenants) twoTenants
    t.mem.scrubPend = some 48 ∧ bits (readReg t (.pf 0) .module 0x20000 8) 8 0 = 256 + 48 := by decide +kernel

theorem test_read_of_another_group :
    let t := after (exec (.registerRead (.pf 0) (.part 1) 0 8) twoTenants) twoTenants
    t.out.getLast? = some (.completerAbort (.pf 0)) ∧ (partOf t 1).errq.overflow = 1 := by decide +kernel

/-- The APPEND of 07_instruction_set.md. -/
theorem test_append_word : let ws := [0x0050012305501130, 0x0007001200400000]
    (opcodeOf ws, levelOf ws, lenOf ws, waitOf ws, signalOf ws) = (0x30, 1, 1, 0, 5) ∧ reqIndex ws = 0x123 ∧ reqGen ws = 5 ∧
      bits (wordAt ws 0) 27 24 = 5 ∧ addrB ws = 0x001200400000 ∧ bits (opB ws) 63 48 = 7 ∧
      (ws.map (toLe 8)).flatten = toBytes [0x30, 0x11, 0x50, 5, 0x23, 1, 0x50, 0, 0, 0, 0x40, 0, 0x12, 0, 7, 0] := by decide +kernel

/-- The E4M3 elements of 09_link_transcoder.md under the scale 128. -/
theorem test_narrow_e4m3 :
    [fpOf32 0x446D8000, fpOf32 0x44160000, fpOf32 0xBF333333].map (fun x => match x with
      | .fin neg m e => (mxElem 1 neg m (e - 1)).1
      | _ => 0) = [0x7E, 0x79, 0xAB] ∧ (mxBlock 1 none [fpOf32 0x446D8000, fpOf32 0x44160000, fpOf32 0xBF333333]).1 = 0x80 := by
  decide +kernel

/-- The rescale of its four reduced elements, with HALF 0, HALF 1 and to FP32 and BF16. -/
theorem test_rescale :
    [129, 118, 24, -24].map (fun s => fromLe (rescale { mult := 3, rshift := 4 } s).1) = [24, 22, 5, 256 - 5] ∧
    [129, 118, 24, -24].map (fun s => fromLe (rescale { mult := 3, rshift := 4, half := true } s).1) = [24, 22, 4, 256 - 4] ∧
    fromLe (rescale { rmode := true, mult := 0x3C400000 } 129).1 = 0x3FC18000 ∧
    fromLe (rescale { rmode := true, outfmt := 1, mult := 0x3C400000 } 129).1 = 0x3FC2 := by decide +kernel

/-- Its coded BF16 block, and the block that the decoder makes of it. -/
def sixValues : List Byte :=
  ((List.range 128).map (fun i => toLe 2 (AMap.getD
    [(0, 0x3F80), (5, 0xBFC0), (17, 0x4040), (64, 0x3E80), (100, 0x4120), (127, 0xC000)] i 0))).flatten

def sixCoded : List Byte := toBytes
  [0x06, 0x7D, 0x21, 0, 2, 0, 0, 0, 0, 0, 1, 0, 0, 0, 0x10, 0, 0, 0x80, 0, 1, 0x94, 0xC0, 1, 0, 0xA0, 2, 0x98]

theorem test_codec_header : (encodeBlock 1 true sixValues) = sixCoded := by decide +kernel

theorem test_codec_decodes : decodeBlock 1 sixCoded = some (sixValues, []) := by decide +kernel

/-- The merged element of 05_attention_engines.md: 3.75 / 1.75. -/
theorem test_merge_division : fpTo32 (fpDiv (fpOf32 0x40700000) (fpOf32 0x3FE00000)) = 0x40092492 ∧
    fpToBf16 (fpDiv (fpOf32 0x40700000) (fpOf32 0x3FE00000)) = 0x4009 ∧ fpTo32 (fpExp2 (fpOf32 0xC0000000)) = 0x3E800000 := by
  decide +kernel

/-- The stamps of 11_admission_and_shaping.md at their first frames. -/
def threeLeaves : TsPort :=
  { frames := [⟨2, 3, none, { len := 976, plan := 976, what := .completerAbort .mgmt }, none⟩,
               ⟨2, 4, none, { len := 3976, plan := 3976, what := .completerAbort .mgmt }, none⟩,
               ⟨5, 3, none, { len := 976, plan := 976, what := .completerAbort .mgmt }, none⟩] }

def threeLeavesState : State :=
  { State.reset with comp := some { parts := 0x24, slices := [(2, { weight := 1 }), (5, { weight := 1 })] }
                     parts := [(2, { classWt := [(3, 1), (4, 1)] }), (5, { classWt := [(3, 1)] })]
                     shaper := { ports := [(19, threeLeaves)] } }

theorem test_stamps :
    [(2, 3, none), (2, 4, none), (5, 3, none)].map (fun l => stampFor threeLeavesState threeLeaves l
      (((leafHead threeLeaves l).map (frameLen threeLeavesState 19)).getD 0)) = [4000 * 65536, 16000 * 65536, 2000 * 65536] := by
  decide +kernel

/-- SHA-384 of "abc" (FIPS 180-4, which R278 names). -/
theorem test_sha384 : fromBe (sha384 (toBytes [0x61, 0x62, 0x63])) =
    0xCB00753F45A35E8BB5A03D699AC65007272C32AB0EDED1631A8B605A43FF5BED8086072BA1E7CC2358BAECA134C825A7 := by decide +kernel

/-- Two data shards of four come back from the other two with P and Q (R407, R412). -/
theorem test_two_erasures : let ds := [0x12, 0xA7, 0x00, 0xFF]
    recoverByte 4 1 [(0, 0x12), (2, 0), (4, parityP ds), (5, parityQ ds)] = 0xA7 ∧
    recoverByte 4 3 [(0, 0x12), (2, 0), (4, parityP ds), (5, parityQ ds)] = 0xFF := by decide +kernel

/-- The sources of that example in merge order, for one element: ls 1.75, os 3.75. -/
theorem test_merge_order :
    (let t := mergeTriples 1 [⟨fpOf32 0x40800000, fpOf32 0x3F000000, [fpOf32 0xBF800000]⟩, ⟨fpOf32 0x40400000, fpOf32 0x40000000, [fpOf32 0x3F800000]⟩,
      ⟨fpOf32 0x40A00000, fpOf32 0x3F800000, [fpOf32 0x40800000]⟩]
     (fpTo32 t.m, fpTo32 t.l, t.o.map fpTo32)) = (0x40A00000, 0x3FE00000, [0x40700000]) := by decide +kernel

/-- ECDSA P-384 with SHA-384: the vector of RFC 6979 A.2.6 for "sample", and with another message. -/
def rfcKey : Nat × Nat :=
  (0xEC3A4E415B4E19A4568618029F427FA5DA9A8BC4AE92E02E06AAE5286B300C64DEF8F0EA9055866064A254515480BC13,
   0x8015D9B72D7D57244EA8EF9AC0C621896708A59367F9DFB9F54CA84B3F1C9DB1288B231C3AE0D4FE7344FD2533264720)

def rfcSign : Nat × Nat :=
  (0x94EDBB92A5ECB8AAD4736E56C691916B3F88140666CE9FA73D64C4EA95AD133C81A648152E44ACF96E36DD1E80FABE46,
   0x99EF4AEB15F178CEA1FE40DB2603138F130E740A19624526203B6351D0A3A94FA329C145786E679E7B82C71A38628AC8)

theorem test_ecdsa : ecdsaVerify rfcKey.1 rfcKey.2 (toBytes [0x73, 0x61, 0x6D, 0x70, 0x6C, 0x65]) rfcSign.1 rfcSign.2 = true := by
  decide +kernel

theorem test_ecdsa_rejects : ecdsaVerify rfcKey.1 rfcKey.2 (toBytes [0x73]) rfcSign.1 rfcSign.2 = false := by decide +kernel

/-! ## What the statements assume is met: a state and operands for each clause -/

/-- Partitions 0 and 1 at epoch 5, in a module of the given role. -/
def hub (role : Nat := 1) : State :=
  { twoTenants with
    comp := some { compOf twoTenants with role := role }
    parts := [(0, { state := .running, epoch := 5 }), (1, { state := .running, epoch := 5 })] }

def hub0 (f : Part → Part) (role : Nat := 1) : State := modPart (hub role) 0 f

/-- An instruction in its words: opcode, words, flags, operands A and B, extension words. -/
def iw (op len flags a b : Nat) (ext : List Nat := []) : Issued :=
  { idx := 0, words := [op + 0x100 + len * 0x1000 + flags * 2 ^ 24 + a * 2 ^ 32, b] ++ ext }

/-- The same state with one instruction at work in queue 1 of partition 0. -/
def doing (i : Issued) (s : State := hub) : State := modQueue s 0 1 (fun q => { q with enable := true, issued := [i] })

def w1 : IRef := ⟨0, 1, 0⟩

def at0 (a : Nat) (bs : List Byte) (s : State := hub) : State := { s with mem := putRaw s.mem a bs }

def goesOn (a : Host.Outcome State Fault Refusal) : Bool :=
  match a with
  | .next _ => true
  | _ => false

theorem goesOn_next (a : Host.Outcome State Fault Refusal) (s : State) (h : goesOn a = true) : a = .next (after a s) := by
  cases a <;> simp_all [goesOn, after]

theorem met_StepRunsTheFrontCommand : { hub with pending := [.syFault] }.pending = .syFault :: [] := by decide +kernel

theorem met_IdleStepTicks : hub.pending = [] := by decide +kernel

theorem met_CommandsKeepQueueAndComposition : exec .syFault hub = .next (after (exec .syFault hub) hub) ∧ MayCompose .syFault = false :=
  ⟨goesOn_next _ _ (by decide +kernel), rfl⟩

theorem met_StepKeepsCompositionSound : CompositionSound hub ∧ step hub = .next (after (step hub) hub) := by
  refine ⟨fun c h => ?_, goesOn_next _ _ (by decide +kernel)⟩
  obtain rfl : _ = c := by simpa [hub] using h
  decide +kernel

theorem met_FinishChangesOnlyItsInstruction : issuedOf (doing (iw 0 1 0 0 0)) w1 = some (iw 0 1 0 0 0) := by decide +kernel

theorem met_ControlInstructionsEnd :
    Working (doing (iw 0x00 1 0 0 0)) w1 0x00 (iw 0x00 1 0 0 0) ∧ Working (doing (iw 0x01 1 1 0 0)) w1 0x01 (iw 0x01 1 1 0 0) ∧
    Working (doing (iw 0x03 1 0 15 0xFFFFFFFF)) w1 0x03 (iw 0x03 1 0 15 0xFFFFFFFF) ∧
    Working (doing (iw 0x04 1 0 0 0)) w1 0x04 (iw 0x04 1 0 0 0) ∧ Working (doing (iw 0x05 1 1 0 0)) w1 0x05 (iw 0x05 1 1 0 0) := by
  decide +kernel

theorem met_HaltqHalts :
    Working (doing (iw 0x06 1 0 63 0)) w1 0x06 (iw 0x06 1 0 63 0) ∧ bits (opA (iw 0x06 1 0 63 0).words) 5 0 ≠ w1.queue ∧
    (queueOf (partOf (doing (iw 0x06 1 0 63 0)) 0) 63).issued = [] ∧
    (let s := modQueue (doing (iw 0x06 1 0 63 0)) 0 63 (fun q => { q with issued := [iw 0 1 0 0 0] })
     Working s w1 0x06 (iw 0x06 1 0 63 0) ∧ (queueOf (partOf s 0) 63).issued ≠ []) ∧
    Working (doing (iw 0x06 1 0 1 0)) w1 0x06 (iw 0x06 1 0 1 0) ∧
    (queueOf (partOf (doing (iw 0x06 1 0 1 0)) 0) 1).issued.head? = some (iw 0x06 1 0 1 0) := by decide +kernel

theorem met_WaitTakesItsTokensOrTimesOut :
    (let i := iw 0x02 1 0 15 (1 + 2 ^ 32)
     let s := doing i (hub0 fun P => { P with sems := [(15, { value := 1 })] })
     Working s w1 0x02 i ∧ (partOf s 0).waiters = [] ∧ bits (opB i.words) 31 0 ≤ (semOf s 0 (bits (opA i.words) 3 0)).value) ∧
    (let i := iw 0x02 1 0 15 (1 + 2 ^ 32)
     let s := { doing i with now := 1000 }
     Working s w1 0x02 i ∧ bits (opB i.words) 63 32 ≠ 0 ∧ i.issuedAt + bits (opB i.words) 63 32 * 1000 ≤ s.now) := by
  decide +kernel

theorem met_SemaphoresServeAndAdd :
    (let x : Waiter := ⟨15, 1, none, 2⟩
     let s := hub0 fun P => { P with sems := [(15, { value := 2 })], waiters := [x] }
     let s' := hub0 fun P => { P with sems := [(15, { value := 1 })], waiters := [x] }
     ready s = true ∧ (partOf s 0).state = .running ∧ firstWaiter s 0 15 = some x ∧ x.need ≤ (semOf s 0 15).value ∧
     firstWaiter s' 0 15 = some x ∧ (semOf s' 0 15).value < x.need) ∧
    (semOf hub 0 15).value + 0xFFFFFFFF ≤ 0xFFFFFFFF ∧ 0xFFFFFFFF < (semOf hub 0 15).value + 0x100000000 := by decide +kernel

theorem met_CommitsEndInstructions :
    (let i := { iw 0x00 1 0 0 0 with status := some St.ok }
     let s := modQueue hub 0 63 (fun q => { q with enable := true, issued := [i, { i with idx := 1 }] })
     ready s = true ∧ (partOf s 0).state = .running ∧ (queueOf (partOf s 0) 63).cause ≠ 0x07 ∧ (queueOf (partOf s 0) 63).frozen = none ∧
     (queueOf (partOf s 0) 63).issued = i :: [{ i with idx := 1 }] ∧ (∀ j ∈ [{ i with idx := 1 }], j.idx ≠ i.idx) ∧
     i.status = some St.ok ∧ i.effects = [] ∧ i.undefs = [] ∧ cplOf i.words = false ∧ signalOf i.words = 0) ∧
    (let i := { iw 0x00 1 0x80 0 0 with status := some St.ok }
     let s := modQueue hub 0 63 (fun q => { q with enable := true, cbase := 0x10000, cprod := 15, issued := [i] })
     let x := queueOf (partOf s 0) 63
     x.cause ≠ 0x07 ∧ x.issued = [i] ∧ i.effects = [] ∧ i.stuck = false ∧ cplOf i.words = true ∧ signalOf i.words = 0 ∧
     x.cplHost = false ∧ cplFull x = false ∧ inRange s 0 (cplAddr x) 16 = true ∧ GoodMemory s) ∧
    (let i := { iw 0x00 1 0 0 0 with status := some St.address }
     let s := modQueue hub 0 63 (fun q => { q with enable := true, haltOnErr := true, cbase := 0x10000, issued := [i] })
     let x := queueOf (partOf s 0) 63
     x.cause = 0 ∧ x.haltOnErr = true ∧ x.issued = [i] ∧ i.status ≠ some St.ok ∧ i.effects = [] ∧ i.stuck = false ∧
     cplFull x = false ∧ cplWritable s 0 x = true) := by decide +kernel

/-- Queue 1 of partition 0 alone with words at its ring. -/
def issuing (ws : List Nat) (granted : Nat := 0) : State :=
  at0 0x10000 (((ws.map (toLe 8))).flatten)
    (hub0 fun P => { P with queues := [(1, { enable := true, base := 0x10000, tail := 1, granted := granted })] })

theorem issuing_alone (ws : List Nat) (g k : Nat) (h : k ≠ 1) : mayIssue (issuing ws g) 0 k = false := by
  have hq : queueOf (partOf (issuing ws g) 0) k = {} := by
    show AMap.getD [(1, _)] k ({} : Queue) = {}
    simp [AMap.getD, AMap.find?, Ne.symm h]
  simp [mayIssue, hq]

/-- A FENCE, and words that wait for a token: granted to the queue, or of an instruction that fails a check. -/
theorem met_IssueFollowsTheChecks :
    ready State.reset = false ∧ (partOf (issuing []) 0).attendInbox = [] ∧
    ([((iw 0x00 1 0 0 0).words, 0), ((iw 0x01 1 0 0 0).words, 0), ([0x100 + 0x1000 + 3 * 2 ^ 16, 0], 3), ([0x100 + 0x10F0 + 3 * 2 ^ 16, 0], 0)].all (fun e =>
      let s := issuing e.1 e.2
      let x := queueOf (partOf s 0) 1
      decide (ready s = true ∧ composed s 0 = true ∧ (partOf s 0).state = .running ∧ (partOf s 0).attendInbox = [] ∧ mayIssue s 0 1 = true ∧
        (∀ i ∈ x.issued, i.idx ≠ x.next) ∧ fetchNext s 0 1 = .whole e.1 ∧
        (waitOf e.1 = 0 ∨ x.granted = waitOf e.1 ∨ (issueStatus s 0 e.1).isSome = true) ∧ (opcodeOf e.1 ≠ 0x01 ∨ x.issued = []) ∧
        issueStatus s 0 e.1 ≠ some St.address ∧ destRegions s 0 e.1 = []))) = true ∧
    (∀ ws g k, k ≠ 1 → mayIssue (issuing ws g) 0 k = false) ∧
    (let s := issuing [0x5100, 0]
     mayIssue s 0 1 = true ∧ fetchNext s 0 1 = .badLen [0x5100, 0]) ∧
    levelOf [0x1200] ≠ 1 ∧ (levelOf [0x1107] = 1 ∧ opLen (opcodeOf [0x1107]) = none) ∧
    (levelOf [0x2100] = 1 ∧ opLen (opcodeOf [0x2100]) = some (1, 1) ∧ lenOf [0x2100] ≠ 1) ∧
    (levelOf [0x1181] = 1 ∧ opLen (opcodeOf [0x1181]) = some (1, 1) ∧ lenOf [0x1181] = 1 ∧ roleRuns (roleOf hub) 0x81 = false) :=
  ⟨by decide +kernel, by decide +kernel, by decide +kernel, issuing_alone, by decide +kernel, by decide +kernel, by decide +kernel,
    by decide +kernel, by decide +kernel⟩

/-- A frame of this home at granule 5, generation 1, and its handle. -/
def h5 : Nat := mkHandle (1, 2) 1 5
def frame5 (f : Frame) (s : State := hub) : State := { s with home := { s.home with frames := [(5, f)] } }
def pa : Party := ⟨1, 2, 0, 5⟩
def pb : Party := ⟨3, 4, 15, 7⟩
def fm (src : Party) (peer : Party := ⟨0, 0, 0, 0⟩) (h : Nat := h5) : TMsg := { ttype := 0, src := src, handle := h, tag := 9, peer := peer }
def openF : Frame := { state := .open_, owner := pa }
def offered : Frame := { state := .offered, owner := pa, offeree := pb, deadline := 10 }

theorem met_ReleaseOffersOrWithdraws :
    ([(openF, pb), (offered, pa)].all (fun x =>
      let s := frame5 x.1
      let m := fm pa x.2
      let s0 := judged s (.trapeze (me s) m) m.handle
      decide (InTurn s (.trapeze (me s) m) ∧ m.level = 1 ∧ claimStatus s0 h5 pa true = none ∧ frameAt s0 (hFrame h5) = x.1 ∧
        x.1.owner = m.src ∧ ((x.1.state = .open_ ∧ sameIdentity m.peer m.src = false) ∨
          (x.1.state = .offered ∧ sameIdentity m.peer m.src = true))))) = true := by decide +kernel

/-- The gate is open for modules that are not of the rack's own list. -/
def opened (s : State) : State := { s with home := { s.home with gateOpen := true } }

theorem met_CatchTakesTheOffer :
    (let s := { opened (frame5 offered) with now := 9 }
     let m := fm pb
     let s0 := judged s (.trapeze (me s) m) m.handle
     InTurn s (.trapeze (me s) m) ∧ m.level = 1 ∧ claimStatus s0 h5 pb true = none ∧ (frameAt s0 (hFrame h5)).state = .offered ∧
     sameIdentity (frameAt s0 5).offeree pb = true ∧ (frameAt s0 5).offeree.epoch = pb.epoch ∧ s0.now < (frameAt s0 5).deadline) ∧
    (let s := { opened (frame5 offered) with now := 10 }
     let m := fm pb
     InTurn s (.trapeze (me s) m) ∧ claimStatus (judged s (.trapeze (me s) m) m.handle) h5 pb true = none ∧
     (frameAt s 5).state = .offered ∧ (frameAt s 5).deadline ≤ s.now ∧ floorOf s (frameAt s 5).owner < (frameAt s 5).owner.epoch ∧
     forwardOf s h5 = none ∧ migrationOf s 5 true = none ∧ migrationOf s 5 false = none ∧ (frameAt s 5).owner ≠ m.src) := by decide +kernel

theorem met_ClaimsAreCheckedFirst :
    ([(openF, pb, St.fencePending), (openF, { pa with epoch := 0 }, St.fenced), ({ openF with state := .lost, deadline := 10 }, pa, St.lost)].all (fun x =>
      let s := frame5 x.1
      let m := fm x.2.1
      let c : SealMsg := ⟨x.2.1, 9, h5, 0, 0⟩
      let g : MigrateMsg := ⟨x.2.1, 9, h5, pb, 0, []⟩
      let f : FreeMsg := { src := x.2.1, tag := 9, handle := h5 }
      decide (InTurn s (.trapeze (me s) m) ∧ m.level = 1 ∧ claimStatus (judged s (.trapeze (me s) m) h5) h5 x.2.1 true = some (x.2.2, 0) ∧
        InTurn s (.sealMsg (me s) c) ∧ claimStatus (judged s (.sealMsg (me s) c) h5) h5 x.2.1 true = some (x.2.2, 0) ∧
        InTurn s (.migrateMsg (me s) g) ∧ beingRead s (hFrame h5) = false ∧ claimStatus (judged s (.migrateMsg (me s) g) h5) h5 x.2.1 true = some (x.2.2, 0) ∧
        InTurn s (.freeMsg (me s) f) ∧ f.add = false ∧ (x.2.2 = St.lost ∨
          claimStatus (judged s (.freeMsg (me s) f) h5) h5 x.2.1 false = some (x.2.2, 0))))) = true ∧
    claimStatus (frame5 openF) (h5 + 2 ^ 54) pa true = some (St.staleHandle, 0) ∧
    (let s := frame5 openF
     forwardOf s h5 = none ∧ hGen h5 ≠ 0 ∧ namesFrame s (hFrame h5) = true ∧ (frameNow s 5).state ≠ .free ∧ hGen 5 = 0 ∧
     (frameNow s 5).gen = hGen h5 ∧ foreign s pb = true ∧ s.home.gateOpen = false ∧ foreign s pa = false ∧ floorOf s pa < pa.epoch ∧
     (frameNow s 5).state ≠ .lost ∧ { pa with epoch := 0 }.epoch ≤ floorOf s pa ∧ (frameNow (frame5 { openF with state := .lost, deadline := 10 }) 5).state = .lost) := by
  decide +kernel

theorem runFree_fits (s : State) (lo hi k g : Nat) (h : hi - lo < k) : runFree s lo hi k g = false := by
  have : ¬(lo ≤ g ∧ g + k ≤ hi) := by omega
  simp [runFree, this]

/-- An allocation succeeds where a run is free, whichever place the home takes. -/
theorem alloc_succeeds (s : State) (lo hi n event : Nat) (mk : Nat → Frame) (h : (lowestRun s lo hi (2 ^ n)).isSome = true) :
    (allocFrame s lo hi n mk event).isSome = true := by
  obtain ⟨g, hg⟩ := Option.isSome_iff_exists.mp h
  unfold allocFrame chooseRun
  by_cases hc : runFree s lo hi (2 ^ n) (Config.framePick s.freeCtr) = true <;> simp [hc, hg]

theorem alloc_fails (s : State) (lo hi n event : Nat) (mk : Nat → Frame) (hr : hi - lo < 2 ^ n)
    (h : lowestRun s lo hi (2 ^ n) = none) : allocFrame s lo hi n mk event = none := by
  simp [allocFrame, chooseRun, runFree_fits s lo hi _ _ hr, h]

theorem met_AllocTakesFreeFrames :
    (let a : AllocMsg := { src := pa, tag := 9, home := (1, 2), part := 0, owner := pb, flags := 0, sizeLog2 := 2, count := 1 }
     let s := frame5 openF
     InTurn s (.allocMsg a) ∧ claimCheck (takeNoc s (.allocMsg a)) pb = some St.fencePending ∧
     claimCheck (takeNoc s (.allocMsg { a with owner := pa })) pa = none ∧ composed (takeNoc s (.allocMsg a)) 0 = true ∧
     composed (takeNoc s (.allocMsg a)) 15 = false ∧ runFree s (mainRegion s 0).1 (mainRegion s 0).2 (2 ^ 2) 8 = true) ∧
    (∀ g, runFree (frame5 openF) (mainRegion hub 0).1 (mainRegion hub 0).2 (2 ^ 24) g = false) ∧
    (∀ mk event, (allocFrame (frame5 openF) (mainRegion hub 0).1 (mainRegion hub 0).2 2 mk event).isSome = true) ∧
    (∀ mk event, allocFrame (frame5 openF) (mainRegion hub 0).1 (mainRegion hub 0).2 24 mk event = none) :=
  ⟨by decide +kernel, fun _ => runFree_fits _ _ _ _ _ (by decide +kernel), fun _ _ => alloc_succeeds _ _ _ _ _ _ (by decide +kernel),
    fun _ _ => alloc_fails _ _ _ _ _ _ (by decide +kernel) (by decide +kernel)⟩

theorem met_SealAndFreeCountReferences :
    (let s := frame5 openF
     let m : SealMsg := ⟨pa, 9, h5, 0, 0⟩
     let s0 := judged s (.sealMsg (me s) m) h5
     InTurn s (.sealMsg (me s) m) ∧ claimStatus s0 h5 pa true = none ∧ (frameAt s0 (hFrame h5)).state = .open_ ∧
     (frameAt s0 5).owner = pa) ∧
    ([openF, { openF with state := .sealed, refs := 1 }, { openF with state := .sealed, refs := 2 },
      { openF with state := .sealed, refs := 65534 }, { openF with state := .sealed, refs := 65535 }].all (fun f =>
      let s := frame5 f
      let m : FreeMsg := { src := pa, tag := 9, handle := h5 }
      let s0 := judged s (.freeMsg (me s) m) h5
      decide (InTurn s (.freeMsg (me s) m) ∧ m.add = false ∧ beingRead s (hFrame h5) = false ∧ claimStatus s0 h5 pa false = none ∧ frameAt s0 5 = f ∧ f.owner = m.src ∧
        migrationOf s0 5 true = none))) = true := by
  decide +kernel

def moving (f : Frame) (x : Migration) : State := { frame5 f with home := { (frame5 f).home with migrations := [x] } }
def outbound : Migration := { granule := 5, asSource := true, dest := pb, asker := pa, tag := 9, rows := [(0, 0x4000)], deadline := 100 }
def migF : Frame := { openF with state := .migrating, deadline := 100 }

theorem met_MigrationSteps :
    ([openF, { openF with state := .sealed, refs := 1 }].all (fun f =>
      let s := frame5 f
      let m : MigrateMsg := ⟨pa, 9, h5, pb, 0, [(0, 0x4000)]⟩
      let s0 := judged s (.migrateMsg (me s) m) h5
      decide (InTurn s (.migrateMsg (me s) m) ∧ beingRead s (hFrame h5) = false ∧ claimStatus s0 h5 pa true = none ∧
        ((frameAt s0 5).state = .open_ ∨ (frameAt s0 5).state = .sealed) ∧ (frameAt s0 5).owner = pa ∧ migrationOf s0 5 true = none ∧
        s0.home.forwards.length < 65536))) = true ∧
    (let m : BeginMsg := { src := pa, tag := 9, handle := h5, dest := { pa with epoch := 0 }, owner := pa, flags := 0, sizeLog2 := 2 }
     let s0 := freeHeld (takeNoc hub (.beginMsg m)) 0 h5
     InTurn hub (.beginMsg m) ∧ composed s0 0 = true ∧ runFree s0 (mainRegion s0 0).1 (mainRegion s0 0).2 (2 ^ 2) 8 = true ∧ 8 < 2 ^ 32) ∧
    (let s := moving migF outbound
     let s0 := judged s (.trapeze (me s) (fm pb)) h5
     InTurn s (.trapeze (me s) (fm pb)) ∧ (fm pb).level = 1 ∧ h5 ≠ 0 ∧ handleCheck s0 h5 = none ∧
     (migrationOf s0 (hFrame h5) true).isSome = true ∧ s0.mem.errors = [] ∧ tierFails s0 (hFrame h5) = false) ∧
    ([true, false].all (fun k =>
      let x := { outbound with ready := true, keepSealed := k }
      let s := moving migF x
      let s0 := cacheFrame (migrationLapse s 5) 5
      decide (ready s = true ∧ migrationOf s0 5 true = some x ∧ (frameAt s0 5).committed = false ∧ forwardOf s0 (handleOf s0 5) = none ∧
        copyFailed s0 (.frame 5) = false ∧ copyPending s0 (.frame 5) = false ∧ s0.home.forwards.length < 65536))) = true ∧
    ([0, 2].all (fun n =>
      let s := moving { migF with inbound := true } { outbound with asSource := false }
      let m := { fm pb with refs := n }
      let s0 := judged s (.trapeze (me s) m) h5
      decide (InTurn s (.trapeze (me s) m) ∧ m.level = 1 ∧ handleCheck s0 h5 = none ∧ migrationOf s0 (hFrame h5) false = some { outbound with asSource := false } ∧
        (frameAt s0 5).state = .migrating))) = true := by decide +kernel

theorem met_HoldsAndMovesEnd :
    (let s := { frame5 offered with now := 10 }
     ready s = true ∧ (frameAt s 5).state = .offered ∧ (frameAt s 5).deadline ≤ s.now ∧
     floorOf s (frameAt s 5).owner < (frameAt s 5).owner.epoch) ∧
    (let s := { frame5 offered with now := 10, home := { (frame5 offered).home with floors := [(pa, 5)] } }
     (frameAt s 5).owner.epoch ≤ floorOf s (frameAt s 5).owner) ∧
    (let s := { frame5 { openF with state := .lost, deadline := 10 } with now := 10 }
     (frameAt s 5).state = .lost ∧ (frameAt s 5).deadline ≤ s.now) ∧
    (let s := { hub with now := 1, home := { hub.home with forwards := [{ oldHandle := h5, newHandle := 0, until_ := 1 }] } }
     forwardOf s h5 = some { oldHandle := h5, newHandle := 0, until_ := 1 } ∧ 1 ≤ s.now) ∧
    (let s := { moving migF outbound with now := 100 }
     migrationOf s 5 true = some outbound ∧ outbound.deadline ≤ s.now ∧ (frameAt s 5).state = .migrating ∧
     (frameAt s 5).committed = false ∧ forwardOf s (handleOf s 5) = none) ∧
    ([true, false].all (fun c =>
      let s := moving { migF with committed := c } outbound
      let s0 := judged s (.trapeze (me s) (fm pb)) h5
      decide (InTurn s (.trapeze (me s) (fm pb)) ∧ (fm pb).toEpoch = 0 ∧ h5 ≠ 0 ∧ (frameAt s0 (hFrame h5)).gen = hGen h5 ∧
        migrationOf s0 (hFrame h5) true = some outbound ∧ (frameAt s0 5).committed = c ∧ (frameAt s 5).gen = hGen h5 ∧
        migrationOf s 5 true = some outbound ∧ forwardOf s h5 = none ∧ (frameAt s 5).committed = c))) = true := by decide +kernel

/-- A FENCE of partition 15 of another endpoint, signed with the key of RFC 6979 A.2.6. -/
def signed7 : FenceMsg :=
  { domain := 3, ep := 4, part := 15, gate := true, noFloor := false, fenceEpoch := 7, issued := 0, reserved := List.replicate 41 0
    sigR := 0x67D71C8FE859D616113DCCD4B1CBFC4FB35645E288AD6B0280F9D355B96A57D851214C055E8C53E7799800AA58C57A6E
    sigS := 0x2418AAA7752F9D0E5DA55B40D1345471B3C948B33C23414F5462B621469E4462385698128E68032C1B0845A37E2C29FC, sender := pa }
def keyed : State := { hub with comp := some { compOf hub with fenceX := rfcKey.1, fenceY := rfcKey.2 } }

theorem met_FenceRaisesTheFloor :
    InTurn keyed (.fenceTo (me keyed) signed7) ∧ InTurn keyed (.fenceTo (me keyed) { signed7 with fenceEpoch := 8 }) ∧ signed7.level = 1 ∧
    signed7.noFloor = false ∧
    ecdsaVerify (compOf keyed).fenceX (compOf keyed).fenceY (fenceSigned signed7) signed7.sigR signed7.sigS = true ∧
    ecdsaVerify (compOf keyed).fenceX (compOf keyed).fenceY (fenceSigned { signed7 with fenceEpoch := 8 }) signed7.sigR signed7.sigS = false := by
  decide +kernel

/-- Partition 0 with geometry 0 of 64-kB blocks and a request at index 0. -/
def served (r : Rec) (role : Nat := 1) : State :=
  hub0 (fun P => { P with geoms := [(0, { tCode := 1, format := 1, hkvLog2 := 3, dCode := 1, valid := true })], recs := [(0, r)] }) role
def running : Rec :=
  { rgen := 3, geom := 0, state := .running, layers := 2, stride := 4, btable := 0x20000, tokens := 0x30000, ring := 0x40000, ringLog2 := 6
    depth := 8, c := 64, w := 64 }
/-- Both layers' blocks 0 of the request are the open frame at granule 5. -/
def tabled (r : Rec) (role : Nat := 1) : State :=
  let s := at0 0x20000 (toLe 8 h5) (at0 0x20020 (toLe 8 h5) (served r role))
  { s with home := (frame5 { openF with sizeLog2 := 1 }).home }

theorem met_StateInstructionsSend :
    (let i := iw 0x10 2 0 0 0
     let s := doing i (served running)
     i.started = false ∧ Working s w1 0x10 i ∧ usableGeom s 0 0 = some ((32, 8, 128, 1), 2) ∧ allocHome s 0 0 0 = some (me s, 0)) ∧
    ([(0x12, 0), (0x13, 2 ^ 16), (0x14, 2 ^ 16)].all (fun e =>
      let i := iw e.1 1 0 e.2 h5
      decide (Working (doing i) w1 e.1 i ∧ handlesOf (doing i) i.words 1 = some [h5] ∧ earlierWrites (doing i) w1 [h5] = false ∧
        namedBy (doing i) 0 h5 = none)) = true) ∧
    (let i := iw 0x15 2 1 0 h5 [(pb.domain + 2 ^ 12 * pb.ep), 0]
     Working (doing i) w1 0x15 i ∧ flagOf i.words 24 = true) ∧
    (let i := iw 0x16 1 0 0 h5
     Working (doing i) w1 0x16 i) ∧
    (let i := iw 0x11 1 1 (3 * 2 ^ 20) 0
     let s := doing i (tabled running)
     let r := recOf s 0 (reqIndex i.words)
     i.awaits = [] ∧ i.held = [] ∧ r.rgen = reqGen i.words ∧ 0 < r.stride ∧ List.range r.layers = [0, 1] ∧ Working s w1 0x11 i ∧
     sealCheck s 0 r 0 0 St.ok = St.ok ∧ sealCheck s 0 r 1 0 St.ok = St.ok ∧ (chainHash s 0 r 0).isSome = true ∧
     [handleAt s 0 r 0 0, handleAt s 0 r 1 0].all (fun h => hHome h == me s) = true ∧
     sealCheck s 0 r 0 2 St.ok = St.notFull) ∧
    (let i := iw 0x11 1 1 (3 * 2 ^ 20) 0
     let s := at0 0x20020 (toLe 8 (mkHandle (3, 4) 1 5)) (doing i (tabled running))
     let r := recOf s 0 (reqIndex i.words)
     Working s w1 0x11 i ∧ tokensOf s 0 r ≤ r.c ∧ isNull (handleAt s 0 r 1 0) = false ∧ hHome (handleAt s 0 r 1 0) ≠ me s) ∧
    (let i := { iw 0x11 1 1 (3 * 2 ^ 20) 0 with started := true, held := [1], awaits := [⟨9, 1, mkHandle (3, 4) 1 5, some St.ok, 0⟩] }
     let s := at0 0x20020 (toLe 8 (mkHandle (3, 4) 1 5)) (doing i (tabled running))
     let r := recOf s 0 (reqIndex i.words)
     Working s w1 0x11 i ∧ (i.awaits.all (fun a => a.status.isSome)) = true ∧
     [0, 1].all (fun l => sealCheck s 0 r l 0 (askedStatus i l) == St.ok) = true ∧ (chainHash s 0 r 0).isSome = true) ∧
    (let i := iw 0x17 2 0 1 0x50000 [0x51000, 0]
     let s := doing i
     Working s w1 0x17 i ∧ isSteward s 0 1 = true ∧ isSteward { s with comp := some { compOf s with stewardFn := 1 } } 0 1 = false ∧
     (devRead s (addrB i.words) 160).isSome = true ∧ (devRead s (extAddr i.words 1) 8).isSome = true) ∧
    ([openF, { openF with state := .lost, deadline := 10 }, { openF with state := .sealed, refs := 65535 }].all (fun f =>
      let i := iw 0x18 1 0 0 h5
      let s := doing i (frame5 f)
      let s0 := lapse s (opB i.words)
      decide (Working s w1 0x18 i ∧ hHome (opB i.words) = me s ∧ frameAt s0 5 = f ∧ migrationOf s0 (hFrame h5) true = none ∧
        claimStatus s0 h5 (selfParty s0 0) false = none))) = true := by
  refine ⟨?_, ?_, ?_, ?_, ?_, ?_, ?_, ?_, ?_⟩ <;> decide +kernel

/-- An instruction that waits for one answer, with tag 9. -/
def asked (op : Nat) (h : Nat := h5) : Issued := { iw op 1 0 0 h with started := true, awaits := [⟨9, 0, h, none, 0⟩] }

theorem met_AnswersEndInstructions :
    ([0x10, 0x14, 0x15, 0x16].all (fun op =>
      let s := doing (asked op)
      let m : TMsg := { fm pa with toEpoch := 5 }
      decide (m.level = 1 ∧ forEpoch s m = true ∧ awaiting s 0 9 = some (w1, asked op, ⟨9, 0, h5, none, 0⟩) ∧
        issuedOf s w1 = some (asked op) ∧ (asked op).held = [] ∧ InTurn s (replyForm s m []) ∧ InTurn s (.trapeze (me s) m) ∧
        m.handle = h5))) = true ∧
    (let a : Await := ⟨0, 0, 1 * 1024 + 2, none, 0⟩
     let i := { iw 0x17 2 0 1 0x50000 [0x51000, 0] with started := true, awaits := [a], aux := (3 * 1024 + 4) * 16 + 15 }
     let s := { doing i with now := 10000000 }
     let m : TMsg := { fm pa with peer := { pb with epoch := 0 } }
     InTurn s (.trapeze (me s) m) ∧ Working s w1 0x17 i ∧ m.toPart = w1.part ∧ (partOf s 0).queues = [(1, queueOf (partOf s 0) 1)] ∧
     (queueOf (partOf s 0) 1).issued = [i] ∧ a.handle = m.src.domain * 1024 + m.src.ep ∧
     i.aux = (m.peer.domain * 1024 + m.peer.ep) * 16 + m.peer.part ∧ i.sentAt + 10000000 ≤ s.now ∧ (∃ a ∈ i.awaits, a.status = none)) ∧
    (let i := { asked 0x13 (mkHandle (3, 4) 1 5) with due := 5 }
     let s := { doing i with now := 5 }
     ready s = true ∧ i.status = none ∧ issuedOf s w1 = some i ∧ 0x10 ≤ opcodeOf i.words ∧ opcodeOf i.words ≤ 0x16 ∧ hHome (mkHandle (3, 4) 1 5) ≠ me s ∧ i.held = [] ∧
     i.due ≤ s.now) := by decide +kernel

theorem met_OffersAndOutcomes :
    (InTurn hub (.trapeze (me hub) (fm pb)) ∧ (fm pb).level = 1 ∧ forEpoch hub { fm pb with toEpoch := 5 } = true ∧
     forEpoch hub { fm pb with toEpoch := 4 } = false ∧
     namedBy (outcomeCame (takeNoc hub (.trapeze (me hub) (fm pb))) 0 h5) 0 h5 = none) ∧
    (let o : Outcome := ⟨9, h5, 0, false, true⟩
     let s := hub0 fun P => { P with outcomes := [o] }
     (partOf s 0).recovering.find? (fun x => x.tag == 9) = none ∧ o.asked = false ∧ (partOf s 0).outcomes.find? (fun o => o.tag == 9) = some o ∧ o.deadline ≤ s.now ∧ hHome o.handle = me s) := by decide +kernel

/-- Operand A of a serving instruction on request 0 at generation g. -/
def req0 (g : Nat) : Nat := g * 2 ^ 20

theorem met_ServingChecksItsRequest :
    ([0x30, 0x31, 0x32, 0x33, 0x35, 0x36].all (fun op =>
      let i := iw op 1 0 (req0 2) 0
      let s := doing i (served running)
      decide (heldByOther s w1 i = false ∧ (recOf s 0 (reqIndex i.words)).rgen ≠ reqGen i.words ∧ Working s w1 op i))) = true ∧
    ([0x30, 0x31, 0x32, 0x33].all (fun op =>
      let i := iw op 1 0 (req0 3) 0
      let s := doing i (served { running with state := .paused })
      decide (heldByOther s w1 i = false ∧ (recOf s 0 (reqIndex i.words)).rgen = reqGen i.words ∧
        (recOf s 0 0).state ≠ .running ∧ (recOf s 0 0).state ≠ .prefill ∧ Working s w1 op i))) = true := by decide +kernel

/-- The request's third block of layer 0 is this home's open frame at granule 5. -/
def written (r : Rec) : State :=
  let s := at0 0x20010 (toLe 8 h5) (served r)
  { s with home := (frame5 { openF with sizeLog2 := 2 }).home }

theorem met_ServingInstructionsEnd :
    (let i := iw 0x30 1 1 (req0 3) 0x60000
     let s := doing i (written running)
     let r := recOf s 0 0
     heldByOther s w1 i = false ∧ r.rgen = reqGen i.words ∧ Working s w1 0x30 i ∧ bits (wordAt i.words 0) 27 24 = 1 ∧
     bits (opB i.words) 63 48 < r.layers ∧ 1 ≤ r.depth + 1 ∧ ¬ r.c < r.w ∧ (usableGeom s 0 r.geom).isSome = true ∧
     appendHandles s 0 r 0 1 = [h5] ∧ (accessByHandle s h5 (selfParty s 0) true).1 = St.ok ∧
     (devRead s (addrB i.words) (stagingBytes s 0 i.words)).isSome = true) ∧
    (let i := iw 0x31 1 0 (req0 3) 0x60000
     let s := doing i (at0 0x60000 (toLe 8 1) (written { running with w := 66 }))
     let r := recOf s 0 0
     let es := takeEntries [0]
     r.rgen = reqGen i.words ∧ Working s w1 0x31 i ∧ (devRead s (addrB i.words) 88).map (fun v => bits (leAt v 0 8) 3 0) = some 1 ∧
     (devRead s (addrB i.words) 88).map (fun v => takeEntries ((wordList (v.drop 0x10)).take 1)) = some es ∧ r.c < r.w ∧
     es.length ≤ r.w - r.c ∧ mayAccess s 0 (r.tokens + 4 * (r.c + 1)) (4 * es.length) = true ∧
     es.length ≤ ringFree (recOf (refreshCons s 0 0 es.length) 0 0)) ∧
    (let i := iw 0x33 1 0 (req0 3) 0x60000
     let s := doing i (at0 0x60000 (toLe 8 1) (written running))
     let r := recOf s 0 0
     Working s w1 0x33 i ∧ (devRead s (addrB i.words) 24).map (fun v => bits (leAt v 0 8) 3 0) = some 1 ∧ r.w = r.c ∧
     mayAccess s 0 (r.tokens + 4 * r.c) 4 = true ∧ 1 ≤ ringFree (recOf (refreshCons s 0 0 1) 0 0)) ∧
    Working (doing (iw 0x32 1 0 (req0 3) 0) (written running)) w1 0x32 (iw 0x32 1 0 (req0 3) 0) ∧
    Working (doing (iw 0x35 1 0 (req0 3) 0xFF) (written running)) w1 0x35 (iw 0x35 1 0 (req0 3) 0xFF) ∧
    (let i := iw 0x36 1 0 (req0 3) 0x60000
     let s := doing i (at0 0x60010 (toLe 8 (8 + 2 ^ 16 + 2 ^ 32)) (at0 0x60030 (toLe 8 4) (written { rgen := 3 })))
     heldByOther s w1 i = false ∧ Working s w1 0x36 i ∧ (recOf s 0 0).state = .free ∧
     (devRead s (addrB i.words) 128).map (fun t =>
       let r' := fillRecord (recOf s 0 0) t false
       templateOk r' && (usableGeom s 0 r'.geom).isSome && decide (r'.c ≤ r'.w ∧ r'.w ≤ r'.c + 9 ∧ r'.sealed * 32 ≤ r'.c)) = some true) := by
  decide +kernel

theorem met_StepWritesItsTable :
    (let i := iw 0x34 1 0 255 0x60000
     let s := doing i (served { running with mbatch := 255 })
     Working s w1 0x34 i ∧ stepMustWait s w1 i (bits (opA i.words) 7 0) = false ∧
     (let a := stepWork s 0 255 0 1
      a.1.mem.errors = [] ∧ a.1.mem.inject.armed = false ∧ a.1.mem.undef = [] ∧ memWf a.1.mem.dram = true)) := by decide +kernel

/-- A header of one entry of one row and eight heads, its entry of one block listed at 0x61000, and the key it needs bound. -/
def hdr1 : AttnHdr :=
  { nent := 1, geom := 0, qfmt := 1, wfmt := 0, pmode := 0, ofmt := 0, window := 0, sigma := 0x3F800000, kscale := 0x3F800000
    vscale := 0x3F800000, hq := 8, nrows := 1, qbase := 0x62000, pbase := 0x64000 }
def ent1 : AttnEnt :=
  { hlist := 0x61000, nblk := 1, nq := 1, first := 0, qpos := 0, visible := 1, qrow := 0, req := 0, rgen := 3, useReq := true
    tdomain := 1, tep := 2, tpart := 0 }
def bound0 (s : State) : State :=
  modPart s 0 (fun P => { P with bindings := (List.range 8).map (fun n => (n, [(attendKey hdr1 { tCode := 1, format := 1, hkvLog2 := 3, dCode := 1 }, 0)])) })
/-- The list names a block of the window, the lower tier. -/
def hLow : Nat := mkHandle (1, 2) 1 0x80000000
def attending (h : Nat) : State :=
  at0 0x61000 (toLe 8 h) (at0 0x60000 (attnHdrBytes hdr1 ++ attnEntBytes ent1) (bound0 (served running)))

theorem met_AttendRuns :
    (let i := iw 0x20 1 0 0 0x60000
     Working (doing i hub) w1 0x20 i ∧ i.started = false ∧
     (devRead (doing i hub) 0x60000 64).map (fun hb => attendHdrChecks (doing i hub) 0 (attnHdr hb)) = some (some St.badDescriptor)) ∧
    ([h5, hLow].all (fun h =>
      let i := iw 0x20 1 0 0 0x60000
      let s := doing i (attending h)
      let b := boundEntry s 0 ent1
      decide (Working s w1 0x20 i ∧ i.started = false ∧ (devRead s 0x60000 64).map attnHdr = some hdr1 ∧ attendHdrChecks s 0 hdr1 = none ∧
        readEnts s 0 (entryAddrs 0x60000 1) = some [ent1] ∧ attendChecks s 0 0x60000 hdr1 [ent1] = none ∧ entHandles s ent1 = some [h] ∧
        isLocal s 0 ent1 = true ∧ (devRead s hdr1.qbase (queryLen hdr1.qfmt hdr1.hq (geomD s 0 0) hdr1.nrows)).isSome = true ∧
        (partOf s 0).remotes = [] ∧ readsLower s 0 0 (geomT s 0 0) [(b, some [h])] = (h == hLow)))) = true ∧
    (let i := iw 0x20 1 0 0 0x60000
     let s := doing i (at0 0x60040 (attnEntBytes { ent1 with qrow := 1 }) (attending h5))
     attendHdrChecks s 0 hdr1 = none ∧ readEnts s 0 (entryAddrs 0x60000 1) = some [{ ent1 with qrow := 1 }] ∧
     attendChecks s 0 0x60000 hdr1 [{ ent1 with qrow := 1 }] = some (St.badDescriptor, 0)) ∧
    (let i := iw 0x20 1 0 0 0x60000
     let e := { ent1 with tdomain := 3, tep := 4, tpart := 15 }
     let s := doing i (at0 0x60040 (attnEntBytes e) (attending h5))
     attendHdrChecks s 0 hdr1 = none ∧ readEnts s 0 (entryAddrs 0x60000 1) = some [e] ∧ attendChecks s 0 0x60000 hdr1 [e] = none ∧
     (entHandles s e).isSome = true ∧
     (let placed := [(boundEntry s 0 e, entHandles s e)].map (rehomeEntry s 0
        (boundEverywhere s 0 (attendKey hdr1 (AMap.getD (partOf s 0).geoms 0 {}))) [(boundEntry s 0 e, entHandles s e)])
      placed.all (fun x => !isLocal s 0 x.1) = true ∧ placed ≠ [] ∧ readsLower s 0 0 (geomT s 0 0) placed = false)) ∧
    (let i := { iw 0x20 1 0 0 0x60000 with started := true, image := attnHdrBytes hdr1 ++ attnEntBytes ent1, due := 1000 }
     let s := { doing i (attending hLow) with now := 1000 }
     Working s w1 0x20 i ∧ i.aux = 0 ∧ (usableGeom s 0 (heldHdr i).geom).isSome = true ∧ heldEnts i = [ent1] ∧
     isLocal s 0 ent1 = true ∧ (partOf s 0).remotes = [] ∧
     (devRead s (heldHdr i).qbase (queryLen (heldHdr i).qfmt (heldHdr i).hq 128 (heldHdr i).nrows)).isSome = true ∧
     w1.queue ≠ inboxQueue ∧ i.due ≤ s.now ∧ heldEnts i ≠ [] ∧ (flagOf i.words 24 = true → ([] : List (Nat × Nat)) = []) ∧ ActRun.kept ≠ .beyond) := by
  decide +kernel

/-- The first 64 bytes of an activation image of one page, whose bytes after its digest are zero. -/
def actHead : List Byte :=
  toLe 4 0x4B414354 ++ toLe 2 1 ++ toLe 2 0x4801 ++ toLe 4 0xFF00 ++ toLe 4 0x1000 ++ toLe 8 (0x10000 + 0x80) ++ toLe 2 0xFFFF ++
    toLe 2 0xFFFF ++ toLe 4 1 ++ toLe 2 1 ++ toLe 2 6144 ++ List.replicate 28 0

theorem actDigestOk_parts (h d z tail : List Byte) (hh : h.length = 64) (hd : d.length = 48) (hz : z.length = 16) :
    actDigestOk (h ++ (d ++ (z ++ tail))) = (sha384 (h ++ tail) == d) := by
  simp [actDigestOk, List.drop_append, hh, hd, hz, List.drop_of_length_le]

/-- Some 48 bytes are its digest, and some are not. -/
theorem act_image :
    (∃ d : List Byte, d.length = 48 ∧ actDigestOk (actHead ++ (d ++ (List.replicate 16 0 ++ List.replicate 0xF80 0))) = true) ∧
    (∃ d : List Byte, d.length = 48 ∧ actDigestOk (actHead ++ (d ++ (List.replicate 16 0 ++ List.replicate 0xF80 0))) = false) := by
  have hl : (sha384 (actHead ++ List.replicate 0xF80 0)).length = 48 := by decide +kernel
  refine ⟨⟨_, hl, by rw [actDigestOk_parts _ _ _ _ (by decide) hl (by decide)]; exact beq_self_eq_true _⟩, ?_⟩
  by_cases h : sha384 (actHead ++ List.replicate 0xF80 0) = List.replicate 48 0
  · exact ⟨List.replicate 48 1, by decide, by
      rw [actDigestOk_parts _ _ _ _ (by decide) (by decide) (by decide), h]; decide⟩
  · exact ⟨List.replicate 48 0, by decide, by
      rw [actDigestOk_parts _ _ _ _ (by decide) (by decide) (by decide)]; exact beq_eq_false_iff_ne.mpr h⟩

theorem met_MergeAndLoadact :
    (let i := iw 0x21 1 0 0 0x60000
     let s := doing i (at0 0x60000 (toLe 8 (1 + 2 ^ 16 + 8 * 2 ^ 32)) hub)
     Working s w1 0x21 i ∧ (devRead s 0x60000 64).map (fun hb => (bits (leAt hb 0 8) 15 0, bits (leAt hb 0 8) 17 16, bits (leAt hb 0 8) 47 32))
       = some (1, 1, 8) ∧
     mayAccess s 0 (0x60000 + 64) 32 = true ∧ (devRead s (0x60000 + 64) 32).isSome = true ∧
     (match runJobs s 0 128 8 [mergeJob (List.replicate 32 0)] with
      | .ok rs => decide (rs.map (fun r => r.status) = [St.badDescriptor])
      | .error _ => false) = true) ∧
    (let i := iw 0x22 1 0 (63 * 2 ^ 16) 0x60000
     let s := doing i (at0 0x60000 actHead hub)
     Working s w1 0x22 i ∧ (devRead s 0x60000 128).map (actOk s 0 stepping) = some true ∧
     (actEngines s 0 0).all (fun e => decide (e ∈ enginesOf s 0)) = true ∧ (sliceOf s 0).actBase ≤ 63 ∧
     63 + 0x1000 / 0x1000 ≤ (sliceOf s 0).actBase + (sliceOf s 0).actSlots ∧ mayAccess s 0 0x60000 0x1000 = true ∧
     s.mem.errors = []) := by decide +kernel

/-- The request of hdr1 and ent1 as another module sends it: the entry's list stands after the queries and the entry. -/
def attendMsg (src : Party) : AttendMsg :=
  { src := src, tpart := 0, target := (1, 2), tag := 9, nent := 1, nrows := 1
    body := attnHdrBytes hdr1 ++ attnEntBytes { ent1 with hlist := 112, useReq := false } ++ toLe 8 h5 ++ List.replicate 1056 0 }

theorem met_RemoteAttention :
    (let s := bound0 (served running)
     InTurn s (.attend true (attendMsg pa)) ∧ (attendMsg pa).level = 1 ∧ attendRoom s (attendMsg pa) = true ∧
     requestRefusal s (attendMsg pa) = none ∧ requestRefusal s (attendMsg pb) = some St.fencePending ∧
     InTurn (served running) (.attend true (attendMsg pa)) ∧ requestRefusal (served running) (attendMsg pa) = some St.noAttend ∧
     ((attendMsg pa).src.domain, (attendMsg pa).src.ep) = me s) ∧
    (let i := { iw 0x20 1 0 0 0x60000 with started := true, aux := 1 }
     let r : Remote := { tag := 9, w := w1, target := (3, 4), tpart := 0, entries := [0, 1], sentAt := 0, due := 1000 }
     let s := { doing i (hub0 fun P => { P with remotes := [r] }) with now := 1000 }
     Working s w1 0x20 i ∧ (partOf s 0).remotes = [r] ∧ InTurn s (.attend false (attendMsg pb)) ∧
     r.target = ((attendMsg pb).src.domain, (attendMsg pb).src.ep) ∧ r.tag = (attendMsg pb).tag ∧ (attendMsg pb).tpart = w1.part ∧ (attendMsg pb).level = 1 ∧
     r.due ≤ s.now) := by decide +kernel

/-- Partition 0's run of the index with one entry of band 7 at position 0. -/
def ixE (v : Nat) : IxEntry := { value := v + 2 ^ 128, mask := 2 ^ 144 - 1, band := 7, result := 33 }
def indexed (m : AMap IxEntry) : State := { hub with index := { hub.index with array := m, shadow := m } }
/-- A record of kind 1 with a key, a band and a change. -/
def ixR (v band : Nat) (delete : Bool := false) : List Byte :=
  toLe 16 v ++ toLe 8 (1 + 0xFFFF * 2 ^ 16 + band * 2 ^ 32 + flag delete * 2 ^ 40) ++ toLe 16 (2 ^ 128 - 1) ++ toLe 8 44

theorem met_SeekFindsTheLowestMatch :
    (let i := iw 0x50 2 0 1 0x60000 [0x61000, 0]
     let s := doing i (at0 0x60000 (toLe 16 5 ++ toLe 8 1) (indexed [(0, ixE 5)]))
     Working s w1 0x50 i ∧ i.started = false ∧ i.aux = 0 ∧ i.result = 0 ∧ i.effects = [] ∧ i.held = [] ∧ (regOf s 0 3).1 = 0 ∧ s.index.step ≠ 4 ∧
     (devRead s 0x60000 24).map (fun bs => (pieces 24 bs).map keyOf) = some [5 + 2 ^ 128] ∧ (search s 0 (5 + 2 ^ 128)).isSome = true ∧
     AMap.wf s.index.array = true) ∧
    (∀ x, shadowLost (indexed [(0, ixE 5)]) x = false ∧
      AMap.find? (indexed [(0, ixE 5)]).index.array x = AMap.find? (indexed [(0, ixE 5)]).index.shadow x) ∧
    { (indexed []).index with step := 4 }.step = 4 :=
  ⟨by decide +kernel, fun _ => ⟨rfl, rfl⟩, rfl⟩

def recorded (op v band : Nat) (m : AMap IxEntry) (s0 : State → State := id) : State :=
  doing (iw op 1 0 1 0x60000) (at0 0x60000 (ixR v band) (s0 (indexed m)))
/-- The partition has no position of the index. -/
def noRun (s : State) : State := { s with comp := some { compOf s with slices := [(0, { sliceOf s 0 with ixSize := 0 })] } }

theorem met_IndexWritesPlaceEntries :
    ([0x51, 0x52].all (fun op =>
      let s := recorded op 5 7 [(0, ixE 5)]
      decide (Working s w1 op (iw op 1 0 1 0x60000) ∧ (partOf s 0).respread = false ∧
        (devRead s 0x60000 48).map (pieces 48) = some [ixR 5 7] ∧ (ixRecord (ixR 5 7)).ok = true ∧ AMap.wf s.index.array = true ∧
        (runCopy s 0).ents = [(0, ixE 5)] ∧ sameEntry (ixE 5) (ixRecord (ixR 5 7)).entry = true ∧ (ixRecord (ixR 5 7)).entry.band = 7 ∧
        sameEntry (ixE 5) (ixRecord (ixR 6 255)).entry = false))) = true ∧
    (let r := runCopy (recorded 0x51 6 255 [(0, ixE 5)]) 0
     (lowestHole r (r.hi - r.lo) (bandRange r 255).1 (bandRange r 255).2).isSome = true) ∧
    (let r := runCopy (recorded 0x51 6 255 [] noRun) 0
     lowestHole r (r.hi - r.lo) (bandRange r 255).1 (bandRange r 255).2 = none ∧ nearestHole r (bandRange r 255) = none) ∧
    ([(ixR 6 7, ixR 5 7 true, 2), (ixR 6 7, ixR 9 7 true, 1), (ixR 9 7 true, ixR 6 7, 0)].all (fun x =>
      let i := iw 0x53 1 0 0 0x60000
      let s := doing i (at0 0x60000 (x.1 ++ x.2.1) (indexed [(0, ixE 5)]))
      let r := runCopy s 0
      decide (Working s w1 0x53 i ∧ devRead s 0x60000 96 = some (x.1 ++ x.2.1) ∧ (ixRecord x.1).ok = true ∧ (ixRecord x.2.1).ok = true ∧
        x.1.length = 48) &&
        match planChange r r (ixRecord x.1) (shiftLimit s 0) false with
        | .placed m _ => (match planChange r m (ixRecord x.2.1) (shiftLimit s 0) false with
            | .placed _ _ => x.2.2 == 2
            | .failed _ => x.2.2 == 1
            | .respread => false)
        | .failed _ => x.2.2 == 0
        | .respread => false)) = true := by decide +kernel

theorem met_IndexSweepsRepair :
    (let i := iw 0x54 1 0 0 0
     let s := doing i (indexed [(0, ixE 5)])
     Working s w1 0x54 i ∧ flagOf i.words 24 = false ∧ AMap.wf s.index.array = true ∧ AMap.wf s.index.shadow = true ∧ s.mem.errors = [] ∧
     s.index.shadowBad = []) ∧
    (let i := iw 0x54 1 1 0 0
     Working (doing i (indexed [])) w1 0x54 i ∧ flagOf i.words 24 = true ∧ i.started = false) ∧
    (let i := { iw 0x54 1 1 0 0 with started := true }
     let s := modPart (doing i (indexed [])) 0 (fun P => { P with respread := true })
     Working s w1 0x54 i ∧ (partOf s 0).respread = true) ∧
    (let s := { indexed [(0, ixE 5)] with now := 100000000 * 20 }
     ready s = true ∧ s.index.sweepEnable = true ∧ s.index.sweepAt + 100000000 * max 1 s.index.sweepForce ≤ s.now ∧ s.index.step = 0) := by
  decide +kernel

/-- Endpoint 3 has a live path by port 0. -/
def fab7 : State :=
  { hub with poltex := { hub.poltex with ports := [(0, { state := .up, level := 1, width := 8 })], masks := [(3, 1)], heard := [3] } }

theorem met_TranscoderInstructionsEnd :
    (let i := iw 0x40 1 0 (0x7F * 2 ^ 8) 0x60000
     let s := doing i hub
     Working s w1 0x40 i ∧ bits (opA i.words) 15 8 < 0x80 ∧
     (devRead s 0x60000 64).map (fun b => streamRecordOk 0 (streamOfImage 0 b)) = some true) ∧
    (let i := iw 0x40 1 0 (0x80 * 2 ^ 8) 0x60000
     let s := doing i (at0 0x60000 (toLe 8 (5 * 2 ^ 4) ++ toLe 8 (1 + 2 ^ 16) ++ toLe 8 0 ++ toLe 8 0x70000 ++ toLe 8 0x71000 ++ toLe 8 0x72000 ++ toLe 8 0x73000) hub)
     Working s w1 0x40 i ∧ 0x80 ≤ bits (opA i.words) 15 8 ∧
     (devRead s 0x60000 64).map (fun b => rctxRecordOk (rctxOfImage b) &&
       (rctxRegions (rctxOfImage b)).all (fun r => mayAccess s 0 r.1 r.2)) = some true) ∧
    (let i := iw 0x40 1 0 0 0x60000
     let s := doing i (at0 0x60000 [6] hub)
     Working s w1 0x40 i ∧ (devRead s 0x60000 64).map (fun b => streamRecordOk 0 (streamOfImage 0 b)) = some false ∧
     (devRead s 0x60000 64).map (fun b => rctxRecordOk (rctxOfImage b)) = some false) ∧
    Working (doing (iw 0x41 1 0 0 0)) w1 0x41 (iw 0x41 1 0 0 0) ∧
    ([2, 3].all (fun target =>
      let i := iw 0x42 2 0 (0x44 + 27) 0x60000 [0x61000 + target * 2 ^ 48, 256]
      let s := doing i (at0 0x60000 (toLe 8 (0x4B574754 + 2 ^ 32 + 2 ^ 36) ++ toLe 8 (256 + 2 ^ 32)) (at0 0x60040 (toLe 4 0x44 ++ sixCoded) fab7))
      decide (Working s w1 0x42 i ∧ i.started = false ∧ (devRead s 0x60000 64).map imageHeader = some (some (1, 256, 1)) ∧
        0x40 + 4 * 1 ≤ bits (opA i.words) 31 0 ∧ bits (extLo i.words 1) 57 48 = target ∧
        (match imageChunks s 0x60000 (0x44 + 27) 1 256 0 1 with
         | .ok bs => bs == sixValues
         | .error _ => false) = true ∧ (me s).2 = 2 ∧ 64 ≤ bits (opA i.words) 31 0 ∧ setBits 16 (pathSet s 0 3) ≠ [] ∧
        mustHold s 0 3 = false ∧ s.poltex.held = [] ∧ imageHeader (List.replicate 64 0) = none))) = true := by decide +kernel

/-- A segment of 32 BF16 values, uncompressed, and a contribution of one block in the KQuant form. -/
def seg0 : Segment := ⟨1, 0, 0, false, 0, false, 0, 64, 0x60000, List.replicate 64 1⟩
def seg5 : Segment := ⟨1, 5, 0, false, 0, true, 0, 64, 0, toLe 4 (7 + 2 * 2 ^ 16) ++ List.replicate 256 1⟩
/-- Endpoint 8 may use the module. -/
def bound8 : State := { hub with comp := some { compOf hub with binds := [(8, (2, 0))] } }
def summing (enable : Bool) : State :=
  modPart bound8 0 fun P => { P with rctxs := [(0,
    { enable := enable, wire := 5, expScale := 7, expShift := 2, k := 4096, nblk := 1, acc := 0x70000, cnt := 0x71000, out := 0x72000
      status := 0x73000, limit := 1, started := some 0 })] }

theorem met_SegmentsAtTheirTarget :
    (ready bound8 = true ∧ composed bound8 0 = true ∧ seg0.level = 1 ∧ mayReach bound8 0 0 8 = true ∧ mayReach bound8 0 31 0 = true ∧
     mayReach bound8 0 0 9 = false ∧ segmentData { seg0 with reduce := false } = some seg0.body ∧
     accessVerdict bound8 ⟨0, selfParty bound8 0, true⟩ 0x60000 64 true = St.ok ∧ GoodMemory bound8 ∧
     weightWindow bound8 0 0x60000 64 = none ∧ weightWindow bound8 15 0x60000 64 = none ∧ { seg0 with level := 2 }.level ≠ 1 ∧
     (weightWindow { bound8 with streams := [(0, { enable := true, mode := 1, winBase := 0x6003F, winLen := 1 })] } 0 0x60000 64).isSome = true) ∧
    ((rctxOf (summing false) 0 0).enable = false ∧ mayReach (summing false) 0 0 8 = true ∧ seg5.nativeLen ≠ 0 ∧
     seg5.nativeLen % (32 * nativeWidth seg5.native) = 0 ∧ seg5.nativeLen ≤ 4096) ∧
    (let c := rctxOf (summing true) 0 0
     c.enable = true ∧ mayReach (summing true) 0 0 8 = true ∧ seg5.nativeLen = 32 * nativeWidth seg5.native ∧ seg5.wire = c.wire ∧
     bits seg5.dest 19 0 + 1 ≤ c.nblk ∧
     (match segmentBody { seg5 with reduce := true } with
      | some body => (bodyScales 5 body).all (fun x => x == c.expScale + c.expShift * 2 ^ 16) &&
          ((pieces 32 (bodyValues 5 body)).head?.map List.length == some 32)
      | none => false) = true ∧
     GoodMemory (summing true) ∧ word32 (summing true) (c.cnt + 0) + 1 < c.k ∧ c.k ≤ 4096 ∧ (c.cnt + 4 ≤ c.acc ∨ c.acc + 128 ≤ c.cnt)) ∧
    (let s := { summing true with now := 1000 }
     let c := rctxOf s 0 0
     c.started = some 0 ∧ c.enable = true ∧ c.limit ≠ 0 ∧ 0 + c.limit * 1000 ≤ s.now) := by decide +kernel

/-- Endpoint 7 may use partition 0 and has a live path by port 0; endpoint 8 may use the module. -/
def fab (s : State := hub) : State :=
  { s with comp := some { compOf s with binds := [(7, (1, 0)), (8, (2, 0))] }
           poltex := { s.poltex with ports := [(0, { state := .up, level := 1, width := 8 })], masks := [(7, 1)], heard := [7] } }

theorem met_FabricInstructionsLaunch :
    ([(0x60, 2 ^ 16 + 7), (0x61, 2 ^ 16 + 7), (0x62, 7), (0x63, 2 ^ 16 + 7)].all (fun e =>
      [fab, hub].all (fun base =>
        let i := iw e.1 2 0 e.2 0x60000 [0x61000, 0]
        let s := doing i base
        decide (Working s w1 e.1 i ∧ i.started = false ∧ (setBits 16 (pathSet s 0 (fabricTarget i.words)) ≠ [] ∨ base = hub) ∧
          (setBits 16 (pathSet s 0 (fabricTarget i.words)) = [] ∨ base = fab) ∧ fabricPending s w1 = false ∧
          mustHold s 0 (fabricTarget i.words) = false ∧ s.poltex.held = [] ∧ (devRead s (extAddr i.words 1) 64).isSome = true ∧
          (devRead s (addrB i.words) 1).isSome = true ∧ nearClaim s 0 (classOf i.words) 7 0 none = none)))) = true := by decide +kernel

def pk (op : Nat) (payload : List Byte := []) (addr : Nat := 0) : Packet :=
  { port := 0, op := op, tc := 0, src := 7, dst := 2, tag := 9, addr := addr, plen := 64, payload := payload }

theorem met_FabricAnswersEndInstructions :
    ([1, 2, 3].all (fun op =>
      let i := { iw 0x60 2 0 (2 ^ 16 + 7) 0 [0x61000, 0] with started := true }
      let x : Txn := { tag := 9, w := some w1, op := op, target := 7, addr := 0, len := 64, part := 0, tc := 0, deadline := 10 }
      let s := doing i fab
      let s := { s with now := 10, poltex := { s.poltex with txns := [x] } }
      decide (ready s = true ∧ s.poltex.held = [] ∧ issuedOf s w1 = some i ∧ i.status = none ∧ i.aux = 0 ∧ x.dev = none ∧
        Arrives s (pk 8) ∧ Arrives s (pk 9) ∧ s.poltex.txns.find? (fun t => t.tag == 9 && t.target == (pk 8).src) = some x ∧
        s.poltex.txns.find? (fun t => t.tag == 9 && decide (t.deadline ≤ s.now)) = some x))) = true ∧
    (Arrives fab (pk 8) ∧ fab.poltex.txns.find? (fun t => t.tag == 9 && t.target == 7) = none) := by decide +kernel

/-- Stream 0 of near port 0 with given settings. -/
def setAt (s : State) (x : Stream) : State := { s with streams := [(0, x)] }

/-- A segment for a STORE: its packet of 64 bytes and the rest. -/
def seg6 : Packet := { pk 2 (segmentBytes { seg0 with dest := 0 }) with seg := true, plen := (segmentBytes { seg0 with dest := 0 }).length }

theorem met_PoltexRequestsAreServed :
    (Arrives fab (pk 1) ∧ Arrives fab (pk 2) ∧ Arrives fab (pk 3) ∧ weightWindow fab 0 0 64 = none ∧ (poltexVerdict fab (pk 1)).isOk = true ∧
     (devRead fab 0 64).isSome = true ∧ (poltexVerdict fab { pk 1 with src := 9 }).isOk = false ∧ (pk 2).seg = false ∧
     (poltexVerdict fab (pk 2 (List.replicate 64 1))).isOk = true ∧ (poltexVerdict fab { pk 3 (List.replicate 8 1) with aw := true }).isOk = true ∧
     (poltexVerdict fab { pk 2 (List.replicate 64 1) with src := 9 }).isOk = false ∧ (poltexVerdict fab { pk 3 (List.replicate 8 1) with src := 9 }).isOk = false) ∧
    (let x : Stream := { enable := true, mode := 1, winBase := 0, winLen := 300, image := 0x60000 }
     let s := at0 0x60000 (toLe 8 (0x4B574754 + 2 ^ 32 + 2 ^ 36) ++ toLe 8 (256 + 2 ^ 32)) (at0 0x60040 (toLe 4 0x44 ++ sixCoded) (setAt fab x))
     Arrives s (pk 1) ∧ weightWindow s 0 0 64 = some x ∧ mayUseWindow s (pk 1) 0 = true ∧ mayUseWindow s { pk 1 with src := 8 } 0 = false ∧
     inGranule 0 64 = true ∧ inGranule 0xF8 64 = false ∧ weightWindow s 0 0xF8 64 = some x ∧ (windowLoad s x 0 64).isOk = true) ∧
    (let k := seg6
     Arrives fab k ∧ Arrives fab { k with last := false } ∧ k.seg = true ∧ k.first = true ∧ k.last = true ∧
     (let g := segmentOf k.payload
      g.1.level = 1 ∧ g.1.reduce = false ∧ g.2 = g.1.body.length ∧ g.1.nativeLen ≤ 4096 ∧ (segmentAccess fab k g.1).isSome = true)) ∧
    ([2, 3].all (fun op =>
      let k : Packet := { pk op (List.replicate (if op = 2 then 64 else 8) 1) with aw := true }
      let o : LineOp := { pkt := k }
      let s : State := { fab with poltex := { fab.poltex with lineOps := [o] } }
      decide (((List.range s.poltex.lineOps.length).zip s.poltex.lineOps).find? (fun e => (opLines e.2.pkt).contains 0) = some (0, o) ∧
        o.inUnit = true ∧ ready s = true ∧ GoodMemory s ∧ (poltexVerdict s k).isOk = true ∧ k.op = op ∧ k.seg = false))) = true ∧
    (let k := pk 4 [1, 2]
     Arrives fab k ∧ k.first = true ∧ k.last = true ∧ k.seg = false ∧ bits k.addr 31 0 ≠ 0xFFFFFFFF ∧ composed fab (bits k.addr 35 32) = true ∧
     bit (nearPorts fab 0) k.port = true ∧ bindOf fab k.src = (1, 0) ∧ inboxRoom fab 0 k.payload.length = true ∧
     ([1, 2] : List Byte).length ≤ trainBound { k with last := false } ∧ Arrives fab { k with last := false } ∧ bindOf fab 9 ≠ (1, 0) ∧ (bindOf fab 9).1 ≠ 2 ∧
     Arrives fab { k with src := 9 } ∧
     inboxRoom (modPart fab 0 (fun P => { P with inbox := List.replicate 64 (List.replicate 4096 0) })) 0 1 = false ∧
     (bindOf fab 8).1 = 2 ∧ attendHeld fab (tmsgBytes { fm pa with ttype := 7 }) = false ∧
     (deviceMessageOf fab ⟨1, 8, 0, 0⟩ 0 (tmsgBytes { fm pa with ttype := 7 })).isSome = true) := by
  refine ⟨?_, ?_, ?_, ?_, ?_⟩ <;> decide +kernel

theorem met_NearPortsFollowTheirLinks :
    (Arrives fab (pk 12) ∧ (bindOf fab 7).1 ≠ 0) ∧ fab.poltex.lastLstate + 100000 ≤ { fab with now := 100000 }.now ∧
    (flitDecode ([1, 0, 2, 0, 3]) = none ∧ flitDecode (List.replicate 272 0) = some (0, List.replicate 256 0) ∧ (nearPort fab 0).expSeq = 0 ∧
     flitErrors (List.replicate 272 0) = some [] ∧ noisyLanes fab 0 = [] ∧ linkReady fab 0 1 = true ∧ (nearPort fab 0).tx = []) ∧
    ((nearPort hub 15).state = .noPartner ∧ (setBits 9 0xF).length = 4 ∧ (setBits 9 0x7).length = 3) ∧
    (let s := { fab with poltex := { fab.poltex with ports := [(15, { state := .training })] }, now := 100000000 }
     (nearPort s 15).state = .training ∧ (nearPort s 15).trainAt + 100000000 ≤ s.now) ∧
    (let n := nearPort fab 0
     n.state = .up ∧ bit n.failed 7 = false ∧ bit n.failed 8 = false ∧ n.width ≠ 4 ∧ n.spareUsed = false ∧ n.spareBad = false ∧
     n.spareBusy = false) ∧
    (let s := { fab with poltex := { fab.poltex with ports := [(0, { state := .up, level := 1, width := 8, spareUsed := true })] } }
     (nearPort s 0).state = .up ∧ bit (nearPort s 0).failed 8 = false ∧ (nearPort s 0).width ≠ 4 ∧ (nearPort s 0).spareUsed = true) ∧
    (let s := { fab with poltex := { fab.poltex with ports := [(0, { state := .up, level := 1, width := 4, spareBusy := true })] } }
     (nearPort s 0).width = 4 ∧ (nearPort s 0).spareBusy = true) := by decide +kernel

/-- Connection 511 of partition 0 runs to partition 15 of another module by far port 0. -/
def conn0 : Conn := { state := .open_, part := 0, peer := ⟨3, 4, 15, 0⟩, lcepoch := 7, rconn := 6, rcepoch := 8, ports := 1 }
def far (c : Conn := conn0) (s : State := hub) : State :=
  { s with tlaley := { s.tlaley with ports := [(0, { state := .up })], conns := [(511, c)] } }

theorem met_RemoteInstructionsStart :
    ([(0x70, 64), (0x71, 64), (0x72, 0)].all (fun e =>
      let i := iw e.1 2 0 511 0x60000 [0x61000, e.2]
      let s := doing i far
      let s' := doing i hub
      decide (Working s w1 e.1 i ∧ Working s' w1 e.1 i ∧ i.started = false ∧ ownsConn s 0 511 = true ∧ (connOf s 511).state = .open_ ∧
        (connOf s 511).onChip = true ∧ (devRead s 0x60000 64).isSome = true ∧ (connOf s' 511).state ≠ .open_))) = true ∧
    (let i := iw 0x73 1 0 0 0x60000
     let s := doing i far
     let none_ := { s with comp := some { compOf s with slices := [(0, { sliceOf s 0 with connSize := 0 })] } }
     Working s w1 0x73 i ∧ (devRead s 0x60000 48).map (fun d => bits (leAt d 0 8) 27 0) = some 0 ∧ (me s).1 ≠ 0 ∧ lowestFree s 0 = some 0 ∧
     Working none_ w1 0x73 i ∧ lowestFree none_ 0 = none ∧
     [(me s).1, 128 * 2 ^ 12, 3 * 2 ^ 26].all (fun x => decide (bits x 27 26 = 3 ∨ bits x 11 0 = (me s).1 ∨ 128 ≤ bits x 21 12)) = true) ∧
    ([conn0, { conn0 with state := .failed }].all (fun c =>
      let i := iw 0x74 1 0 511 0
      let s := doing i (far c)
      decide (Working s w1 0x74 i ∧ ownsConn s 0 511 = true ∧ connOf s 511 = c ∧ c.xfers = [] ∧ c.onChip = true ∧ earlierOnConn s w1 511 = false ∧
        ownsConn s 0 (2 ^ 19) = false))) = true := by
  decide +kernel

def tk (op : Nat) (payload : List Byte := []) : TPacket := { port := 0, op := op, dconn := 511, dcepoch := 7, payload := payload, spart := 15, pepoch := 5 }

/-- One transfer of n PSNs in flight. -/
def inFlight (op : Nat) (n : Nat := 1) : State :=
  let i := { iw 0x70 2 0 511 0x60000 [0x61000, 64] with started := true }
  doing i (far { conn0 with xfers := [{ w := some w1, op := op, first := 0, npsn := n, src := 0x60000, len := 64 * n, tc := 0 }]
                            sendNext := n, sentTo := n, allocated := n })

/-- Partition 0 grants memory space 0 to reads and writes. -/
def spaced : State := opened (far conn0 (hub0 fun P => { P with spaces := [(0, { valid := true, read := true, write := true, length := 1 })] }))

theorem met_TlaleyPackets :
    (let s := spaced
     let x : Segment := { seg0 with dest := 0 }
     let k : TPacket := { tk 1 (segmentBytes x) with seg := true }
     Enters s (tk 1 [1, 2]) conn0 ∧ (tk 1).psn = conn0.expected ∧ GoodMemory s ∧ writeAddress s conn0 (tk 1 [1, 2]) 2 = some 0 ∧
     accessVerdict s (connAccess conn0 (tk 1)) 0 2 true = St.ok ∧
     Enters s k conn0 ∧ k.last = true ∧ Enters s { k with last := false } conn0 ∧ (segmentOf (messageWith conn0 k)).1 = x ∧ x.level = 1) ∧
    (let s := spaced
     let x : Segment := { seg0 with dest := 0 }
     let k : TPacket := { tk 1 (segmentBytes x) with seg := true }
     x.reduce = false ∧ (segmentOf (messageWith conn0 k)).2 = x.body.length ∧ segmentData x = some x.body ∧ conn0.broken = false ∧
     (writeAddress s conn0 k k.payload.length).isSome = true ∧ mayAccess s 0 0 k.payload.length = true ∧
     spaceAddress s 0 0 0 64 true = some 0 ∧ accessVerdict s (connAccess conn0 k) 0 64 true = St.ok ∧
     Enters s { k with key := 1 } conn0 ∧ writeAddress s conn0 { k with key := 1 } k.payload.length = none) ∧
    Enters (far { conn0 with broken := true }) { tk 1 [1] with seg := true, first := false } { conn0 with broken := true } ∧
    (let s := spaced
     Enters s (tk 2 [4, 0, 0, 0]) conn0 ∧ leAt (tk 2 [4, 0, 0, 0]).payload 0 4 = 4 ∧ spaceAddress s 0 0 0 4 false = some 0 ∧ (devRead s 0 4).isSome = true ∧
     accessVerdict s (connAccess conn0 (tk 2)) 0 4 false = St.ok ∧ Enters s (tk 4 [1, 2]) conn0 ∧ (tk 4).first = true ∧ (tk 4).last = true ∧
     (tk 4).seg = false ∧ inboxRoom s 0 2 = true ∧ attendHeld s (tmsgBytes { fm pb with ttype := 7 }) = false ∧
     (deviceMessageOf s ⟨3, 4, 15, 5⟩ 0 (tmsgBytes { fm pb with ttype := 7 })).isSome = true ∧
     Enters (far { conn0 with device := true }) { tk 4 with dev := true } { conn0 with device := true }) ∧
    ([(1, 1), (2, 1), (2, 2)].all (fun e =>
      let s := inFlight e.1 e.2
      decide (Enters s (tk 5) (connOf s 511) ∧ Enters s (tk 6) (connOf s 511) ∧ Enters s (tk 3) (connOf s 511) ∧ (connOf s 511).una = 0 ∧
        (connOf s 511).sentTo = (0 + e.2) % 2 ^ 24 ∧
        (connOf s 511).xfers.map (fun x => (x.op, x.status, x.first, x.npsn)) = [(e.1, 0, 0, e.2)] ∧ (tk 5).psn = 0 ∧ (tk 3).psn = 0 ∧
        (issuedOf s w1).map (fun i => (i.started, i.status, i.aux)) = some (true, none, 0) ∧ AMap.wf s.tlaley.conns = true))) = true ∧
    (∀ e ∈ (inFlight 1).tlaley.conns, e.1 ≠ 511 → ∀ y ∈ e.2.xfers, y.w ≠ some w1) ∧
    (Enters far { tk 6 with syndrome := 1, apsn := 2 ^ 24 - 1 } conn0 ∧ ({ tk 6 with syndrome := 1, apsn := 2 ^ 24 - 1 }.apsn + 1) % 2 ^ 24 = conn0.una) ∧
    (Enters far (tk 7) conn0 ∧ far.tlaley.ccEnable = true ∧ 100 ≤ conn0.rho ∧ conn0.alphaNum ≤ 16 ^ conn0.alphaExp) := by
  refine ⟨?_, ?_, ?_, ?_, ?_, ?_, ?_, ?_⟩ <;> decide +kernel

theorem met_ConnectionsOpenRunAndClose :
    (let s := far
     let r : ConnRecord := ⟨3, 4, 0, 0, 6, 0, 8⟩
     ready s = true ∧ (farPort s 0).state = .up ∧ FirstAt s 0 (.connMsg 8 (tk 8) r) ∧ 1 ≤ (tk 8).level ∧ (tk 8).level ≤ 3 ∧ (tk 8).dev = false ∧
     r.sdomain ≠ (me s).1 ∧ s.tlaley.answers = [] ∧ composed s r.tpart = true ∧
     (partOf s r.tpart).state = .running ∧ lowestFree s r.tpart = some 0 ∧ inboxRoom s r.tpart 64 = true) ∧
    lowestFree { far with comp := some { compOf far with slices := [(0, { sliceOf far 0 with connSize := 0 })] } } 0 = none ∧
    (let c := { conn0 with state := .opening, opener := some w1, tries := 3 }
     let s := { doing { iw 0x73 1 0 0 0 with started := true } (far c) with now := 100000 }
     FirstAt s 0 (.connMsg 9 (tk 9) default) ∧ (connOf s 511).state = .opening ∧ (connOf s 511).lcepoch = (tk 9).dcepoch ∧ (tk 9).level = 1 ∧
     (connOf s 511).opener = some w1 ∧
     (issuedOf s w1).isSome = true ∧ c.triedAt + 100000 ≤ s.now ∧ 3 ≤ c.tries ∧ { c with tries := 2 }.tries < 3) ∧
    (FirstAt far 0 (.connMsg 10 (tk 10) default) ∧ (connOf far 511).state = .open_ ∧ conn0.lcepoch = (tk 10).dcepoch ∧ (tk 10).level = conn0.level ∧
     conn0.onChip = true ∧ conn0.xfers = [] ∧ inboxRoom far 0 64 = true ∧ connPort far 511 = some 0) ∧
    (let c := { conn0 with state := .closing, closer := some w1, tries := 3 }
     let s := { doing { iw 0x74 1 0 511 0 with started := true } (far c) with now := 100000 }
     FirstAt s 0 (.connMsg 11 (tk 11) default) ∧ (connOf s 511).state = .closing ∧ (connOf s 511).closer = some w1 ∧ (issuedOf s w1).isSome = true ∧
     (connOf s 511).lcepoch = (tk 11).dcepoch ∧ (tk 11).level = c.level ∧ c.triedAt + 100000 ≤ s.now) ∧
    (let c := { conn0 with
        firstUnackedAt := some 0, rnrUntil := some 5, periodAt := some 6, sentTo := 3, rnrPsn := 2 }
     let s := { far c with now := 2000 }
     (connOf s 511).firstUnackedAt = some 0 ∧ 0 + 2000 ≤ s.now ∧ psnSub c.rnrPsn c.una ≤ psnSub c.sentTo c.una ∧
     s.tlaley.ccEnable = true) ∧
    (let s := { inFlight 1 with now := 1000000000 }
     (connOf s 511).state = .open_ ∧ (connOf s 511).xfers ≠ [] ∧ (connOf s 511).rnrUntil = none ∧ (connOf s 511).rtoAt ≤ s.now ∧
     (connOf s 511).timeouts + 1 < max 1 s.tlaley.retryLimit ∧ max 1 { s.tlaley with retryLimit := 1 }.retryLimit ≤ (connOf s 511).timeouts + 1) ∧
    (let c := { conn0 with onChip := false }
     (connOf (far c) 511).onChip = false ∧ c.held = [] ∧ c.state = .open_ ∧ hostTableUp (far c) c = true ∧
     hostTableUp { far c with power := { (far c).power with links := [1] } } c = false) := by
  refine ⟨?_, ?_, ?_, ?_, ?_, ?_, ?_, ?_⟩ <;> decide +kernel

theorem met_FarPortsFollowTheirLinks :
    ((farPort hub 15).state = .noPartner ∧ (farPort hub 15).spareBusy = false ∧
     ((List.range 8).filter (fun i => !bit 0xFF i)) = [] ∧ ((List.range 8).filter (fun i => !bit 0x1FE i)).length = 1 ∧ bit 0x1FE 8 = true ∧
     ((List.range 8).filter (fun i => !bit 0xFE i)).length = 1 ∧ bit 0xFE 8 = false ∧ ((List.range 8).filter (fun i => !bit 0 i)).length = 8 ∧
     (some 10000000).any (fun t => decide ((farPort hub 15).trainAt ≤ t ∧ t ≤ (farPort hub 15).trainAt + 10000000)) = true ∧
     (some 10000001).any (fun t => decide ((farPort hub 15).trainAt ≤ t ∧ t ≤ (farPort hub 15).trainAt + 10000000)) = false) ∧
    ([true, false].all (fun c =>
      let s := { hub with tlaley := { hub.tlaley with ports := [(15, { state := .up, crinum := c })] } }
      decide ((farPort s 15).state = .up ∧ (farPort s 15).spareBusy = false ∧ bit (farPort s 15).failed 7 = false ∧
        (farPort s 15).crinum = c ∧ (farPort s 15).spareUsed = false ∧ (farPort s 15).spareBad = false ∧ wavelengthFails s none = true ∧
        wavelengthFails s (some (s.tlaley.wlLimit + 1)) = true ∧ wavelengthFails s (some s.tlaley.wlLimit) = false))) = true ∧
    (let s := { hub with tlaley := { hub.tlaley with ports := [(15, { state := .training, spareBusy := true, pausedHi := some 0 })] }, now := 10000000 }
     (farPort s 15).state = .training ∧ (farPort s 15).spareBusy = true ∧ (farPort s 15).pausedHi = some 0 ∧ 0 + 10000000 ≤ s.now ∧
     (compOf s).prioHi ∉ (farPort s 15).pauseNoted) := by
  refine ⟨?_, ?_, ?_⟩ <;> decide +kernel

/-- A stripe of two data shards: the first here, sealed at granule 5, the second elsewhere, without parity. -/
def stripe0 : List Byte :=
  toLe 8 2 ++ List.replicate 56 0 ++ toLe 8 h5 ++ toLe 8 (mkHandle (3, 4) 1 6) ++ toLe 8 (mkHandle (5, 6) 0 0) ++ toLe 8 (mkHandle (7, 8) 0 0) ++
    List.replicate 96 0
def striped (i : Issued) (bs : List Byte := stripe0) : State := doing i (at0 0x60000 bs (frame5 { openF with state := .sealed, refs := 1 }))

theorem met_StripeInstructionsEnd :
    ([0x80, 0x81, 0x82].all (fun op =>
      let i := iw op 1 0 0 0x60000
      decide (Working (striped i []) w1 op i ∧ (stripeBytes (striped i []) w1 i).map (fun b => stripeOk (stripeOf b) (op == 0x80)) = some false))) = true ∧
    ([0x80, 0x82].all (fun op =>
      let i := iw op 1 0 0 0x60000
      let s := striped i
      let d := stripeOf stripe0
      decide (Working s w1 op i ∧ stripeBytes s w1 i = some stripe0 ∧ stripeOk d true = true ∧ stripeOk d false = true ∧ i.awaits = [] ∧ i.late = [] ∧
        i.result < d.k ∧ isNull (shardAt d i.result) = false ∧ hHome (shardAt d i.result) = me s ∧
        claimStatus s (shardAt d i.result) (selfParty s 0) true = none ∧ (frameAt s (hFrame (shardAt d i.result))).state = .sealed ∧
        (frameAt s (hFrame (shardAt d i.result))).sizeLog2 = d.size ∧ tierFails s (hFrame (shardAt d i.result)) = false ∧
        (frameBytes s (hFrame (shardAt d i.result))).isSome = true))) = true ∧
    ([(0x80, 6), (0x82, 4), (0x81, 0)].all (fun e =>
      let i := { iw e.1 1 0 3 0x60000 with result := e.2, held := if e.1 = 0x81 then [0, 1] else [] }
      decide (Working (striped i) w1 e.1 i ∧ i.result = e.2 ∧ (stripeBytes (striped i) w1 i).isSome = true ∧ bits (opA i.words) 3 0 ≤ (stripeOf stripe0).k + 1))) = true ∧
    (∀ mk event, (allocFrame (striped (iw 0x81 1 0 3 0x60000)) (mainRegion hub 0).1 (mainRegion hub 0).2 0 mk event).isSome = true) ∧
    (nextSurvivor (stripeOf stripe0) 3 4 = 4 ∧ nextSurvivor (stripeOf stripe0) 3 0 = 0 ∧ (stripeOf stripe0).rrefs ≤ 65534 ∧
     [0x81].all (fun op => decide (Working (striped (iw op 1 0 3 0x60000)) w1 op (iw op 1 0 3 0x60000))) = true) ∧ (2 ≤ [1, 255].length ∧ 1 < [1, 255].length) :=
  ⟨by decide +kernel, by decide +kernel, by decide +kernel, fun _ _ => alloc_succeeds _ _ _ _ _ _ (by decide +kernel), by decide +kernel,
    by decide⟩

theorem met_RebuildsBetweenRingmasters :
    (let m : RebuildMsg := { src := pa, shard := 0, tag := 9 }
     composed (hub 2) 0 = true ∧ (partOf (hub 2) 0).state = .running ∧ roleOf (hub 2) = roleCache ∧ roleOf hub ≠ roleCache ∧ (pa.domain, pa.ep) = me hub ∧
     nocFirst (hub 2) (.rebuildMsg (1, 2, 0) true m) = true ∧ nocFirst hub (.rebuildMsg (1, 2, 0) true m) = true ∧
     me (hub 2) = (1, 2) ∧ me hub = (1, 2)) ∧
    (let x : RebuildWait := { tag := 9, req := 0, descr := 0x60000, shard := 1, tries := 3, due := 5, homes := [] }
     let s := { hub0 fun P => { P with rebuildsOut := [x] } with now := 5 }
     nocFirst s (.rebuildMsg (1, 2, 0) false { src := pa, shard := 1, tag := 9 }) = true ∧
     (partOf s 0).rebuildsOut.find? (fun x => x.tag == 9) = some x ∧ x.due ≤ s.now ∧ 3 ≤ x.tries) ∧
    (let x : RebuildWait := { tag := 9, req := 0, descr := 0x60000, shard := 1, tries := 2, due := 5, homes := [(3, 4)] }
     let s := at0 0x80000 (toLe 8 1 ++ toLe 8 (9 + 2 ^ 12 * 10 + 2 ^ 32 * 5))
       { hub0 fun P => { P with rebuildsOut := [x], place := { base := 0x80000, nlists := 0, enable := true } } with now := 1000000000 }
     (partOf s 0).rebuildsOut.find? (fun x => x.tag == 9) = some x ∧ x.due ≤ s.now ∧ x.tries < 3 ∧
     (chooseHome s 0 (recOf s 0 x.req).pool ((stripeShards s 0 x.descr).map hHome ++ x.homes)).isSome = true) := by decide +kernel

def bucketed (mode : Nat) (r : Rec := { rgen := 3, filled := true }) : State := modPart (served r) 0 (fun P => { P with buckets := [(0, { mode := mode, burst := 4 })] })

theorem met_TurnstileAdmitsAndCharges :
    ([0, 1].all (fun mode =>
      let i := iw 0x90 1 0 (req0 3) 0
      let s := doing i (bucketed mode)
      decide (Working s w1 0x90 i ∧ reqIndex i.words = 0 ∧ (partOf s 0).placePend = none ∧ heldByOther s w1 i = false ∧
        (recOf s 0 0).rgen = reqGen i.words ∧ (recOf s 0 0).state = .free ∧
        admits (bucketLeft s 0 (recOf s 0 0).customer) (reservation s 0 (recOf s 0 0)) = (mode == 0)))) = true ∧
    ([0x91, 0x92].all (fun op => decide (Working (doing (iw op 1 0 0 1)) w1 op (iw op 1 0 0 1)))) = true ∧
    (bucketOf (bucketed 1) 0 0).mode ≠ 0 ∧
    ([0, 1].all (fun mode =>
      let s := modPart (bucketed mode) 0 (fun P => { P with refused := [(0, 0)] })
      decide (ready s = true ∧ (partOf s 0).state = .running ∧ (partOf s 0).placePend = none ∧ (partOf s 0).refused = [(0, 0)] ∧ 0 ≤ s.now ∧
        (recOf s 0 0).state = .free ∧ (recOf s 0 0).filled = true ∧ admits (bucketLeft s 0 (recOf s 0 0).customer) (reservation s 0 (recOf s 0 0)) = (mode == 0)))) = true := by
  decide +kernel

/-- A cache module whose main region is nearly full, with one sealed block that may go to the cold region. -/
def full : State :=
  let s := hub 2
  { s with comp := some { compOf s with slices := [(0, { sliceOf s 0 with coldPct := 50 })] }
           home := { s.home with frames := [(0, { openF with sizeLog2 := 21 }), (0x200000, { openF with sizeLog2 := 19 }),
                                            (0x280000, { openF with state := .sealed, refs := 2, flags := 4 })] } }

/-- The same with a block that may go to the host window alone, and one entry of it. -/
def fullHost : State :=
  let s := modPart full 0 (fun P => { P with winEnable := true, winLen := 1, winTable := 0x40000 })
  at0 0x40000 (toLe 8 (1 + 2 ^ 21))
    { s with home := { s.home with frames := [(0, { openF with sizeLog2 := 21 }), (0x200000, { openF with sizeLog2 := 19 }),
                                              (0x280000, { openF with state := .sealed, refs := 2, flags := 0x20 })] } }

theorem met_DemotionMovesToTheColdRegion :
    ready full = true ∧ composed full 0 = true ∧ roleOf full = roleCache ∧ demotes full 0 = true ∧
    demotable full 0 = [(0x280000, { openF with state := .sealed, refs := 2, flags := 4 })] ∧ full.home.forwards.length < 65536 ∧
    (frameBytes full 0x280000).isSome = true ∧
    (lowestRun full (coldRegion full 0).1 (coldRegion full 0).2 1).isSome = true ∧ forwardOf full (handleOf full 0x280000) = none ∧
    GoodMemory full ∧
    (let s := fullHost
     demotes s 0 = true ∧ demotable s 0 = [(0x280000, { openF with state := .sealed, refs := 2, flags := 0x20 })] ∧
     (partOf s 0).winEnable = true ∧ linkUp s (partOf s 0).winFn = true ∧ hostFrames s < 4194304 ∧ (hostPlace s 0 1).isSome = true ∧
     (frameBytes s 0x280000).isSome = true ∧ GoodMemory s) := by decide +kernel

theorem met_QueueRegisterWritesAct :
    (Reaches hub (.vf 0) (.part 0) (0x1018 + 64 * 31) ∧ Reaches hub (.ringmaster 0) (.part 0) (0x1018 + 64 * 63) ∧
     Reaches hub (.vf 0) (.part 0) (0x1000 + 64 * 31) ∧ Reaches hub (.vf 0) (.part 0) (0x1008 + 64 * 31) ∧
     Reaches hub (.vf 0) (.part 0) (0x1010 + 64 * 31) ∧ queueStopped (queueOf (partOf hub 0) 31) = true) ∧
    (let s := hub0 fun P => { P with saved := true, saveAt := 0x60000 }
     (partOf s 0).saved = true ∧ GoodMemory s ∧ mayAccess s 0 ((partOf s 0).saveAt + 16 * 31) 16 = true) ∧
    (let s := modQueue hub 0 31 (fun q => { q with enable := true })
     queueStopped (queueOf (partOf s 0) 31) = false ∧ bits 0x100 63 8 ≠ bits (queueOf (partOf s 0) 31).base 63 8) ∧
    (Reaches hub (.vf 0) (.part 0) (0x80 + 8 * 1) ∧ Reaches hub (.vf 0) (.part 0) (0x80 + 8 * 15) ∧ (partOf hub 0).waiters = []) ∧
    (Reaches hub (.vf 0) (.part 0) 0x30 ∧ (partOf hub 0).errq.enable = false) ∧
    Reaches hub (.vf 0) (.part 0) 0x5010 ∧ Reaches hub (.vf 0) (.part 0) 0x5018 ∧
    (let s := { hub with selectors := [(.vf 0, selMtr, 2 ^ 8)] }
     Reaches s (.vf 0) (.part 0) 0x5048 ∧ Reaches s (.vf 0) (.part 0) 0x5050 ∧ (mtrSelOf s (.vf 0)).1 ≠ 0) := by decide +kernel

theorem met_PartitionsPauseAndResume :
    Reaches hub (.pf 0) .module (0x10000 + 8 * 0) ∧ Reaches hub (.pf 1) .module (0x10000 + 8 * 1) ∧ composed hub 1 = true ∧
    (partOf hub 0).state = .running ∧
    (let s := hub0 fun P => { P with state := .preempted, saved := true, saveAt := 0x60000, queues := [(63, {})] }
     (partOf s 0).state = .preempted ∧ GoodMemory s ∧ (partOf s 0).saved = true ∧ 63 ∈ listedQueues s 0) ∧
    ([true, false].all (fun h =>
      let s := hub0 fun P => { P with state := .preempting, saveAt := 0x60000, resumeHeld := h }
      decide ((partOf s 0).state = .preempting ∧ drained s 0 = true ∧ (partOf s 0).resumeHeld = h ∧ GoodMemory s ∧
        mayAccess s 0 (partOf s 0).saveAt 1024 = true))) = true := by decide +kernel

theorem met_RestartsTakeANewEpoch :
    (composed hub 0 = true ∧ Reaches hub (.pf 0) .module (0x10000 + 8 * 0) ∧ (partOf hub 0).state ≠ .notStarted ∧
     (partOf hub 0).state ≠ .restarting ∧ AMap.getD hub.flash.epochs 0 0 < 0xFFFFFFFF ∧ (partOf hub 0).queues = []) ∧
    (let s := doing (iw 0x30 1 0 0 0)
     1 ∈ listedQueues s 0 ∧ iw 0x30 1 0 0 0 ∈ (queueOf (partOf s 0) 1).issued ∧ restartClass (iw 0x30 1 0 0 0).words = false ∧
     restartClass (iw 0x20 1 0 0 0).words = true) := by decide +kernel

theorem met_FailuresAreContained :
    (ready hub = true ∧ composed hub 0 = true ∧ (sliceOf hub 0).vf = true ∧ bit (sliceOf hub 0).hostQ 31 = true ∧ linkUp hub 0 = true ∧
     linkUp hub 1 = true ∧ 0 ∈ vfsOf hub 0) ∧
    (let s := { hub with power := { hub.power with links := [0] } }
     s.comp.isSome = true ∧ 1 < hostLinks s ∧ linkUp s 1 = false ∧ 1 ≤ fullLanes s) ∧
    ([ErrContext.request 0 0, .queue 0 63, .partition 0].all (fun ctx =>
      [MachineryError.bound, .record, .logic].all (fun why =>
        let h : Handling := { ctx := ctx, level := 1, seq := 0, since := 0, toLog := true, toPart := none, broken := true }
        let s := modPart { hub with now := 100000000, counters := { hub.counters with handling := [h] } } 0 (fun P => { P with stepQueue := [(0, 3)] })
        decide (handlingIn s ctx = some h ∧ escalates s ctx h why = true ∧ (partOf s 0).state = .running ∧ requestQueue s 0 0 = some 3)))) = true ∧
    (let i := { iw 0x20 1 0 0 0x60000 with started := true, image := attnHdrBytes hdr1 ++ attnEntBytes ent1 }
     let s := doing i (attending hLow)
     ready s = true ∧ composed s 0 = true ∧ engineAbsent s 7 = false ∧ 7 ∈ enginesOf s 0 ∧ i ∈ (queueOf (partOf s 0) 1).issued ∧ i.status = none ∧
     opcodeOf i.words = 0x20 ∧ i.aux = 0 ∧ localEntries s 0 i ≠ [] ∧ (∀ j ∈ (queueOf (partOf s 0) 1).issued, j.idx = i.idx → j = i)) ∧
    (15 ∉ hub.life.ccAbsent ∧ bit (sliceOf hub 1).cores 15 = true ∧ (partOf hub 1).state = .running) ∧ hub.life.sy ≠ .stopped := by
  decide +kernel

theorem met_RegisterPagesAndWindows :
    (canAccess hub (.pf 0) = true ∧ mayWrite hub (.pf 0) .module 0 = true ∧ mayWrite hub (.pf 1) .module 0x20000 = false ∧
     goodForm 4 8 = false ∧ goodForm 0x30 16 = true ∧ goodForm 0x38 16 = false ∧ mayRead hub (.pf 0) .module 0 = true ∧
     mayRead hub (.vf 0) .module 0 = false ∧ canAccess hub (.pf 3) = false ∧ mregAt (0x70 / 8 * 8) = none) ∧
    (Reaches hub (.pf 0) .module 0x48 ∧ Reaches hub (.pf 0) .module 0x60 ∧ Reaches hub (.pf 0) .module 0x20000 ∧
     Reaches hub (.vf 0) (.part 0) 0x0010 ∧ Reaches hub (.vf 0) (.part 0) 0x0058 ∧ (partOf hub 0).state ≠ .preempted ∧
     bits 0x1000 47 12 ≠ bits (partOf hub 0).winTable 47 12) ∧
    (Reaches hub (.pf 0) .module 0x60218 ∧ (gateSel hub (.pf 0)).1 ≤ 32 ∧
     (gateSel { hub with selectors := [(.pf 0, selGate, 32)] } (.pf 0)).1 = 32) ∧
    (Reaches hub (.pf 0) .module 0x68 ∧ armingOf hub.counters hub.counters.snapTime = .takes 1 ∧
     armingOf { hub.counters with latches := [(1, 5)] } 4 = .refused ∧ Reaches hub (.pf 0) .module 0x88 ∧ Reaches hub (.pf 0) .module 0x20010) ∧
    (portIdle hub 15 = true ∧ portIdle hub 31 = true) ∧
    (canAccess hub (.vf 0) = true ∧ (partOf hub 0).barWait = [] ∧ barPasses hub 0 (.read 4096) = true ∧ barPasses hub 0 (.write (List.replicate 512 0)) = true ∧
     (sliceOf hub 0).vf = true ∧ accessVerdict hub ⟨0, selfParty hub 0, true⟩ (rangeBase hub 0 + 4096) 4096 false = St.ok ∧
     accessVerdict hub ⟨0, selfParty hub 0, true⟩ (rangeBase hub 0) 512 true = St.ok ∧ GoodMemory hub ∧ canAccess hub (.vf 1) = true) ∧
    (let s := modPart hub 0 (fun P => { P with regLevels := [(64 + 33, 0)], regLast := [(64 + 33, 0)] })
     let s := { s with comp := some { compOf s with slices := [(0, { sliceOf s 0 with regs := [0, 1 + 2 ^ 24, 0, 0] })] } }
     canAccess s (.vf 0) = true ∧ (partOf s 0).barWait = [] ∧ barPasses s 0 (.read 4) = false) ∧
    (functionGroup hub (.vf 0) = some 0 ∧ functionGroup hub (.pf 0) = some 0 ∧ linkUp hub 0 = true ∧ ready hub = true ∧
     hasCap (.pf 0) (.header 0) = true ∧ hasCap (.pf 0) (.ext 0x10 12) = true ∧ hasCap (.vf 0) (.ext 0x10 12) = false ∧
     ready { hub with life := { hub.life with sy := .test } } = false) := by decide +kernel

theorem met_TimeIsDisciplined :
    (let s := { hub with tlaley := { hub.tlaley with
                  ptpEnable := true, ptpPort := 15, ptpDomain := 255, ptpIpv6 := true, ports := [(15, { state := .up })]
                  ptpClock := { seq := 3, reqSeq := 4, sentAt := some 7 } } }
     let m : PtpMsg := { port := 15, domain := 255, ipv6 := true, kind := .delayResp, seq := 4, time := -21 }
     ready s = true ∧ s.tlaley.ptpEnable = true ∧ m.port = s.tlaley.ptpPort ∧ m.domain = s.tlaley.ptpDomain ∧ m.ipv6 = s.tlaley.ptpIpv6 ∧
     (farPort s m.port).state = .up ∧ { m with seq := 3 }.seq = s.tlaley.ptpClock.seq ∧ s.tlaley.ptpClock.origin = none ∧
     m.seq = s.tlaley.ptpClock.reqSeq ∧ { s.tlaley.ptpClock with origin := some 5 }.origin = some 5 ∧ s.tlaley.ptpClock.sentAt = some 7) ∧
    hub.tlaley.ptpEnable = false ∧
    (let s := { hub with counters := { hub.counters with latches := [(1, 5), (2, 6)] }, now := 5 }
     ready s = true ∧ s.counters.latched = [] ∧ (∀ e ∈ [(2, 6)], ∀ i, i < 18 → localTime s i < e.2) ∧ (∀ i, i < 18 → 5 ≤ localTime s i)) ∧
    (let s := { hub with counters := { hub.counters with latches := [(1, 5)] }, now := 5, islands := [(Isl.hp, -1)] }
     localTime s Isl.hp < 5 ∧ 5 ≤ localTime s Isl.ts) ∧ hub.power.pgood = true := by
  decide +kernel

/-- A frame of 100 bytes of partition 0. -/
def held0 (tc : Nat) : QFrame := ⟨0, tc, none, { len := 100, plan := 100, what := .completerAbort .mgmt }, some (7, 24)⟩

/-- It waits at far port 15. -/
def queued (tc : Nat) (f : TsPort → TsPort := id) : State :=
  { hub with
    tlaley := { hub.tlaley with ports := [(15, { state := .up })] }
    shaper := { hub.shaper with ports := [(31, f { frames := [held0 tc] })] } }

theorem met_ShapersReleaseAndGate :
    ([0, 7].all (fun tc =>
      let s := queued tc
      decide (ready s = true ∧ portUp s 31 = true ∧ pump s 15 = s ∧ (tsPort s 31).frames = [held0 tc] ∧
        mayStart s 31 (held0 tc) = true ∧ leafEligible s 31 (held0 tc) = true))) = true ∧
    (let f : QFrame := ⟨0, 7, none, { len := 20, plan := 20, what := .tlp 0 0x100 [1, 2] }, some (7, 24)⟩
     let s := { hub with shaper := { hub.shaper with ports := [(32, { frames := [f] })] } }
     portUp s 32 = true ∧ (tsPort s 32).frames = [f] ∧ leafEligible s 32 f = true ∧ (hostWrite s 0 0x100 [1, 2]).isSome = true) ∧
    (let s := { queued 7 fun t => { t with parked := [((0, 7), .pending 5)] } with now := 5 }
     (tsPort s 31).parked = [((0, 7), .pending 5)] ∧ 5 ≤ s.now ∧ (classHead (tsPort s 31) 0 7).isSome = true ∧
     colourOk (meterOf s 0 7 31) (colourOf (meterOf s 0 7 31) (frameLen s 31 (held0 7))) = true) ∧
    (let s := { queued 7 fun t => { t with parked := [((0, 7), .overflow 1 0x100080)] } with now := 0x100000 }
     (tsPort s 31).parked = [((0, 7), .overflow 1 0x100080)] ∧ 1 % 1024 = 1025 % 1024 ∧ 1 * 0x100000 ≤ s.now ∧ 0x100080 < (1 + 1) * 0x100000) ∧
    (let s := { queued 7 fun t => { t with
                  running := some (1, 0), enable := true, armed := some (0, 0), bank0 := [(0, ⟨1, 0⟩)] } with now := 1 }
     let T := tsPort s 31
     T.running = some (1, 0) ∧ T.entryAt + entryNs (gateEntry T T.bank T.entry) ≤ localTime s (portIsland 31) ∧ T.armed = some (0, 0) ∧
     T.enable = true ∧ takeoverAt T = some 0 ∧ 0 ≤ localTime s (portIsland 31)) ∧
    (∀ f ∈ (tsPort (queued 7) 31).frames, leafOf f ≠ (0, 6, none)) := by decide +kernel

theorem met_MemoryControllersServe :
    (ready hub = true ∧ accessFits hub 0 256 .selfTest = false ∧ accessFits hub 0 256 (.deviceRead w1) = true ∧
     privateUser (.deviceRead w1) = false ∧ GoodMemory hub) ∧
    (let s := { doing (iw 0x60 2 0 0 0 [0, 0]) with mem := { hub.mem with errors := [(0, [(1, 1), (2, 2)])] } }
     accessFits s 0 16 (.engine w1) = true ∧ (issuedOf s w1).map (fun i => (i.status, opcodeOf i.words)) = some (none, 0x60) ∧
     decodeAt s 0 (noiseOn [] 0) = .uncorrectable ∧ w1.queue ≠ inboxQueue ∧ accessFits s 0 16 (.engine ⟨0, inboxQueue, 0⟩) = true ∧
     (partOf (modPart s 0 (fun P => { P with attendInbox := [attendMsg pa] })) 0).attendInbox ≠ []) ∧
    (let c := (channelOf hub 0).1
     let s := { hub with mem := { hub.mem with channels := [(c, { crcRun := 15 })] } }
     15 ≤ (chan s (channelOf s 0).1).crcRun) ∧
    (let w := 0x100000
     let c := channelOf hub w
     let s := { hub with mem := { hub.mem with channels := [(c.1, { scrubPos := c.2 / 256 })], errors := [(w / 16, [(20, 15)])] } }
     c.1 < 24 ∧ 0 < (chan s c.1).scrubPos ∧ w % 16 = 0 ∧ channelOf s w = c ∧ c.2 / 256 = (chan s c.1).scrubPos ∧
     decodeAt s w [] = .corrected [(20, 15)] ∧ (wordBytes s w []).isSome = true ∧ memWf s.mem.dram = true) := by decide +kernel

theorem met_RunsBeginAndEnd :
    ({ hub.power with en := false }.en = false ∧ (hub.power.en = true ∧ hub.power.rails = true ∧ { hub.power with pgood := false }.pgood = false) ∧
     hub.power.pgood = true ∧ mgmtAnswers hub = true ∧ hub.life.sy = .ready ∧ syRuns hub = true) ∧
    (let s := { hub with life := { hub.life with sy := .boot } }
     mgmtAnswers s = true ∧ s.life.sy = .boot) ∧
    (let s := { hub with life := { hub.life with sy := .shutdown, testing := true }, flash := { hub.flash with golden := List.replicate 40 7 } }
     s.life.sy = .shutdown ∧ s.life.testing = true ∧ (List.replicate 40 7).length = 40 ∧ HasRoom s 592 ∧ List.replicate 40 7 = s.flash.golden) ∧
    (sanitiseSigned hub true false 0 0 = true ∧
     sanitiseSigned { hub with flash := { hub.flash with compKey := some (0, 0) } } true false 0 0 = false) ∧
    (let s := { hub with life := { hub.life with sy := .sanitising }, flash := { hub.flash with sanitising := some (true, false) } }
     s.life.sy = .sanitising ∧ s.flash.sanitising = some (true, false)) ∧ HasRoom hub 288 := by
  refine ⟨by decide +kernel, by decide +kernel, by decide +kernel, ⟨rfl, ?_⟩, by decide +kernel, by decide +kernel⟩
  simp [sanitiseSigned, ecdsaVerify]

theorem met_StartsStepThroughTheBoot :
    ([0, 1, 2, 3, 4, 5, 6, 7].all (fun n =>
      let s := { hub with life := { sy := .boot, stepDone := n, bootCmd := some ⟨0, some 1000⟩ }, flash := { hub.flash with comps := [(0, [])] } }
      decide (s.power.pgood = true ∧ s.power.rstN = true ∧ s.life.sy = .boot ∧ s.life.fail = 0 ∧ s.life.stepDone = n ∧ s.flash.sanitising = none ∧
        s.flash.finalSeen = true ∧ chosenSlot s = some 0 ∧ s.life.bootCmd.isSome = true ∧ AMap.find? s.flash.comps 0 = some [] ∧ s.life.quick = false ∧
        s.flash.hwFailed = [] ∧ s.life.held = false ∧ composed s 0 = true ∧ absentIn s 0 = 0 ∧ AMap.getD s.flash.epochs 0 0 < 0xFFFFFFFF))) = true ∧
    (let s := { hub with life := { sy := .boot, stepDone := 2, cmdClosed := true } }
     s.life.bootCmd = none ∧ s.life.cmdClosed = true ∧ chosenSlot s = none ∧ { s.life with cmdClosed := false }.cmdClosed = false) ∧
    ({ hub.life with fail := 3 }.fail ≠ 0 ∧ { failEngines := [15, 16] : BootFindings }.failCores = []) ∧
    (let s := { hub with life := { sy := .boot, stepDone := 2 }, now := 300000000 }
     s.life.stepDone ≤ 2 ∧ s.life.cmdClosed = false ∧ s.life.bootCmd = none ∧ s.life.goodAt + 50000000 ≤ s.now ∧
     s.now ≤ s.life.goodAt + 300000000) := by decide +kernel

theorem met_ManagementAnswers :
    (mgmtAnswers hub = true ∧ syRuns hub = true ∧ takesCommands hub = true ∧ HasRoom hub 32 ∧ hub.life.slot ≤ 1 ∧ hub.flash.compKey = none ∧
     hub.mgmt.events = [] ∧ { hub.mgmt with events := [9] }.events = [9] ∧ { hub.mgmt with version := true }.version = true ∧
     { hub.mgmt with capable := true }.capable = true ∧ { hub.mgmt with negotiated := true }.negotiated = true ∧ hub.mgmt.version = false ∧
     hub.mgmt.capable = false ∧ hub.mgmt.negotiated = false) ∧ { hub.flash with compKey := some (1, 2) }.compKey = some (1, 2) := by decide +kernel

theorem met_StepKeepsForm : Formed hub ∧ step hub = .next (after (step hub) hub) := by
  refine ⟨⟨by decide +kernel, fun g => ?_, by decide +kernel, by decide +kernel, by decide +kernel⟩, goesOn_next _ _ (by decide +kernel)⟩
  rfl

end Sys2Proof.Tests
end

section
/-! PROOFS. Error records, semaphores and memory: what they leave alone of every partition, queue and link. -/

namespace Sys2Proof.Machine

open Sys2Proof.Safety

/-! ## What the work of one unit leaves alone of the others (R420) -/

/-- Of a partition: its state, the cause of its last restart, its reduce contexts, and of each queue its halt and its enable. -/
structure PartStanding where
  state     : PState
  lastCause : Nat
  rctxs     : AMap RCtx
  halts     : Nat → Nat × Bool

/-- Of a partition as it stands. -/
def partStanding (P : Part) : PartStanding :=
  ⟨P.state, P.lastCause, P.rctxs, fun q => ((queueOf P q).cause, (queueOf P q).enable)⟩

/-- Of the module: every partition's, the host links that are up, the absent cores and the failures recorded in flash. -/
structure Standing where
  parts    : Nat → PartStanding
  links    : List Nat
  ccAbsent : List Nat
  hwFailed : List (Bool × Nat)

/-- Of the module as it stands. -/
def standing (s : State) : Standing :=
  ⟨fun p => partStanding (partOf s p), s.power.links, s.life.ccAbsent, s.flash.hwFailed⟩

theorem state_of_standing {s t : State} (h : standing t = standing s) (p : Nat) : (partOf t p).state = (partOf s p).state :=
  congrArg (fun x : Standing => (x.parts p).state) h

theorem lastCause_of_standing {s t : State} (h : standing t = standing s) (p : Nat) :
    (partOf t p).lastCause = (partOf s p).lastCause := congrArg (fun x : Standing => (x.parts p).lastCause) h

theorem rctxOf_of_standing {s t : State} (h : standing t = standing s) (p ci : Nat) : rctxOf t p ci = rctxOf s p ci :=
  congrArg (fun x : Standing => AMap.getD (x.parts p).rctxs ci {}) h

theorem tornDown_iff {t : State} {p q : Nat} : TornDown t p q ↔ ((standing t).parts p).halts q = (0x07, false) := by
  simp [TornDown, standing, partStanding]

/-- A state like another but for what is outside partitions, power and life, and for the rest of the flash. -/
structure Alike (s t : State) : Prop where
  parts    : t.parts = s.parts
  power    : t.power = s.power
  life     : t.life = s.life
  hwFailed : t.flash.hwFailed = s.flash.hwFailed

theorem Alike.refl (s : State) : Alike s s := ⟨rfl, rfl, rfl, rfl⟩

/-- What writes none of them leaves a state alike. -/
theorem alike_of_eq {s t : State} (hp : t.parts = s.parts := by rfl) (hw : t.power = s.power := by rfl)
    (hl : t.life = s.life := by rfl) (hf : t.flash.hwFailed = s.flash.hwFailed := by rfl) : Alike s t := ⟨hp, hw, hl, hf⟩

theorem Alike.trans {s t u : State} (h : Alike s t) (k : Alike t u) : Alike s u :=
  ⟨k.parts.trans h.parts, k.power.trans h.power, k.life.trans h.life, k.hwFailed.trans h.hwFailed⟩

theorem Alike.after {s t u : State} (k : Alike t u) (h : Alike s t) : Alike s u := h.trans k

theorem Alike.partOf {s t : State} (h : Alike s t) (p : Nat) : partOf t p = partOf s p := by
  rw [Machine.partOf, Machine.partOf, h.parts]

theorem Alike.modErrq {s t : State} (h : Alike s t) (p : Nat) (f : ErrQueue → ErrQueue) : Alike (modErrq s p f) (modErrq t p f) :=
  ⟨by simp only [Machine.modErrq, modPart, setPart, h.parts, h.partOf], h.power, h.life, h.hwFailed⟩

theorem foldl_alike {α : Type} {f : State → α → State} (h : ∀ s a, Alike s (f s a)) (l : List α) (s : State) :
    Alike s (l.foldl f s) := by
  induction l generalizing s with
  | nil => exact .refl s
  | cons a l ih => exact (h s a).trans (ih _)

theorem standing_ext {s t : State} (hp : ∀ p, partStanding (partOf t p) = partStanding (partOf s p))
    (hl : t.power.links = s.power.links) (hc : t.life.ccAbsent = s.life.ccAbsent)
    (hf : t.flash.hwFailed = s.flash.hwFailed) : standing t = standing s := by
  simp only [standing, hl, hc, hf, funext hp]

theorem Alike.standing {s t : State} (h : Alike s t) : standing t = standing s :=
  standing_ext (fun p => by rw [h.partOf]) (by rw [h.power]) (by rw [h.life]) h.hwFailed

theorem standing_eq {s t : State} (hp : t.parts = s.parts := by rfl) (hl : t.power = s.power := by rfl)
    (hc : t.life = s.life := by rfl) (hf : t.flash.hwFailed = s.flash.hwFailed := by rfl) :
    standing t = standing s := Alike.standing ⟨hp, hl, hc, hf⟩

theorem standing_after {s t u : State} (h : standing u = standing s) (hp : t.parts = u.parts := by rfl)
    (hl : t.power = u.power := by rfl) (hc : t.life = u.life := by rfl)
    (hf : t.flash.hwFailed = u.flash.hwFailed := by rfl) : standing t = standing s := (standing_eq hp hl hc hf).trans h

theorem setPart_standing (s : State) (p : Nat) (x : Part) (h : partStanding x = partStanding (partOf s p)) :
    standing (setPart s p x) = standing s := by
  refine standing_ext (fun k => ?_) rfl rfl rfl
  by_cases hk : k = p
  · subst hk
    rw [partOf_setPart_self, h]
  · rw [partOf_setPart_ne _ _ hk]

theorem modPart_standing (s : State) (p : Nat) (f : Part → Part) (h : ∀ P, partStanding (f P) = partStanding P) :
    standing (modPart s p f) = standing s := setPart_standing _ _ _ (h _)

theorem modQueue_standing (s : State) (p q : Nat) (f : Queue → Queue)
    (h : ∀ x, (f x).cause = x.cause ∧ (f x).enable = x.enable) : standing (modQueue s p q f) = standing s := by
  refine modPart_standing _ _ _ fun P => ?_
  have halts : ∀ k, queueOf (setQueue P q (f (queueOf P q))) k = if k = q then f (queueOf P q) else queueOf P k := fun k => by
    split
    · next hk => rw [hk, queueOf_setQueue_self]
    · next hk => exact queueOf_setQueue_ne _ _ hk
  simp only [partStanding, setQueue, PartStanding.mk.injEq, true_and]
  funext k
  have := halts k
  simp only [setQueue] at this
  rw [this]
  split
  · next hk => rw [hk, (h _).1, (h _).2]
  · rfl

theorem foldl_standing {α : Type} {f : State → α → State} (h : ∀ s a, standing (f s a) = standing s) (l : List α) (s : State) :
    standing (l.foldl f s) = standing s := by
  induction l generalizing s with
  | nil => rfl
  | cons a l ih => rw [List.foldl_cons, ih, h]

theorem modIssued_standing (s : State) (w : IRef) (f : Issued → Issued) : standing (modIssued s w f) = standing s :=
  modQueue_standing _ _ _ _ fun _ => ⟨rfl, rfl⟩

theorem setSem_standing (s : State) (p sem : Nat) (x : Sem) : standing (setSem s p sem x) = standing s :=
  modPart_standing _ _ _ fun _ => rfl

theorem setRec_standing (s : State) (p i : Nat) (r : Rec) : standing (setRec s p i r) = standing s :=
  modPart_standing _ _ _ fun _ => rfl

theorem modErrq_standing (s : State) (p : Nat) (f : ErrQueue → ErrQueue) : standing (modErrq s p f) = standing s :=
  modPart_standing _ _ _ fun _ => rfl

theorem setBucket_standing (s : State) (p c : Nat) (b : Bucket) : standing (setBucket s p c b) = standing s :=
  modPart_standing _ _ _ fun _ => rfl

/-! ## Memory, host memory and the logs (R394, R464, R485) -/

theorem raisePfs_alike (s : State) (vector : Nat) : Alike s (raisePfs s vector) :=
  foldl_alike (f := fun s g => emitOut s (.msix g none vector)) (fun _ _ => alike_of_eq) _ _

theorem raiseVf_alike (s : State) (p vector : Nat) : Alike s (raiseVf s p vector) := by
  unfold raiseVf
  split
  · exact alike_of_eq
  · exact .refl s

theorem countEv_alike (s : State) (island code : Nat) (inst part : Option Nat) (n : Nat) :
    Alike s (countEv s island code inst part n) := alike_of_eq

theorem errToLog_alike (s : State) (r : ErrRec) : Alike s (errToLog s r).1 := by
  unfold errToLog
  dsimp only
  refine .trans ?_ ((raisePfs_alike ..).trans (countEv_alike ..))
  split
  · exact (countEv_alike ..).after alike_of_eq
  · exact alike_of_eq

theorem logService_alike (s : State) (etype : Nat) (body : List Byte) : Alike s (logService s etype body) := by
  unfold logService
  dsimp only
  split <;> exact alike_of_eq

theorem logSpare_alike (s : State) (kind unit index : Nat) : Alike s (logSpare s kind unit index) := logService_alike ..

theorem modChan_alike (s : State) (c : Nat) (f : Channel → Channel) : Alike s (modChan s c f) := alike_of_eq

theorem modDev_alike (s : State) (d : Nat) (f : DevErr → DevErr) : Alike s (modDev s d f) := alike_of_eq

theorem keepRetired_alike (s : State) (m : AMap Nat) : Alike s { s with flash := { s.flash with retired := m } } := alike_of_eq

theorem countCorrection_alike (s : State) (c pin : Nat) : Alike s (countCorrection s c pin) := by
  unfold countCorrection
  dsimp only
  split
  · exact (modChan_alike ..).after ((countEv_alike ..).after (modDev_alike ..))
  · split
    · exact (logSpare_alike ..).after ((keepRetired_alike ..).after ((modChan_alike ..).after ((modChan_alike ..).after
        ((countEv_alike ..).after (modDev_alike ..)))))
    · split
      · exact (modChan_alike ..).after ((countEv_alike ..).after (modDev_alike ..))
      · exact (errToLog_alike ..).after ((modChan_alike ..).after ((modChan_alike ..).after
          ((countEv_alike ..).after (modDev_alike ..))))

theorem countWord_alike (s : State) (a : Nat) (noise : WordError) : Alike s (countWord s a noise) := by
  unfold countWord
  split
  · exact foldl_alike (fun _ _ => countCorrection_alike ..) _ _
  · exact .refl s

theorem endRuns_alike (s : State) (a n : Nat) : Alike s (endRuns s a n) := by
  unfold endRuns
  split
  · exact .refl s
  · exact foldl_alike (fun _ _ => modChan_alike ..) _ _

theorem writeWord_alike (s : State) (w off : Nat) (bs : List Byte) : Alike s (writeWord s w off bs).1 := by
  unfold writeWord
  split
  · exact alike_of_eq
  · split
    · exact .refl s
    · exact (countWord_alike s w []).trans alike_of_eq

theorem devWriteWords_alike (s : State) (a : Nat) (bs : List Byte) (ws : List Nat) : Alike s (devWriteWords s a bs ws).1 := by
  induction ws generalizing s with
  | nil => exact .refl s
  | cons w ws ih => exact (writeWord_alike ..).trans (ih _)

theorem devWrite_alike (s : State) (a : Nat) (bs : List Byte) : Alike s (devWrite s a bs).1 := by
  unfold devWrite
  dsimp only
  split
  · exact (endRuns_alike s a bs.length).trans alike_of_eq
  · exact (endRuns_alike ..).trans (devWriteWords_alike ..)

theorem hostWrite_alike {s t : State} {g a : Nat} {bs : List Byte} (h : hostWrite s g a bs = some t) : Alike s t := by
  unfold hostWrite at h
  split at h
  · cases h
    exact alike_of_eq
  · cases h

theorem hostPost_alike {s t : State} {g a : Nat} {bs : List Byte} (h : hostPost s g a bs = some t) : Alike s t := by
  obtain ⟨u, hu, rfl⟩ := Option.map_eq_some_iff.mp h
  exact (hostWrite_alike hu).trans alike_of_eq

theorem ringWrite_alike {s t : State} {p g a : Nat} {host : Bool} {bs : List Byte} (h : ringWrite s p host g a bs = some t) :
    Alike s t := by
  unfold ringWrite at h
  split at h
  · exact hostPost_alike h
  · split at h
    · dsimp only at h
      split at h <;> cases h
      exact devWrite_alike s a bs
    · cases h

/-! ## Error records (R479 to R485) -/

/-- A record to a partition's queue changes that queue alone. -/
theorem errToPart_alike (s : State) (p : Nat) (r : ErrRec) : ∃ f, Alike (modErrq s p f) (errToPart s p r).1 := by
  unfold errToPart
  dsimp only
  split
  · exact ⟨_, countEv_alike ..⟩
  · split
    · exact ⟨_, countEv_alike ..⟩
    · next h => exact ⟨_, ((ringWrite_alike h).modErrq p _).trans ((raiseVf_alike ..).trans (countEv_alike ..))⟩

theorem errToPart_standing (s : State) (p : Nat) (r : ErrRec) : standing (errToPart s p r).1 = standing s := by
  obtain ⟨f, h⟩ := errToPart_alike s p r
  exact h.standing.trans (modErrq_standing ..)

theorem countEv_standing (s : State) (island code : Nat) (inst part : Option Nat) (n : Nat) :
    standing (countEv s island code inst part n) = standing s := standing_eq

theorem errLost_standing (s : State) (p : Nat) : standing (errLost s p) = standing s :=
  (countEv_standing ..).trans (modErrq_standing ..)

theorem errWrite_standing (s : State) (toPart : Option Nat) (toLog : Bool) (r : ErrRec) :
    standing (errWrite s toPart toLog r).1 = standing s := by
  cases toPart with
  | none =>
    unfold errWrite
    dsimp only
    split
    · exact (errToLog_alike s r).standing
    · rfl
  | some p =>
    unfold errWrite
    dsimp only
    split
    · exact (errToLog_alike ..).standing.trans (errToPart_standing s p r)
    · exact errToPart_standing s p r

/-- An error record leaves every partition, queue and link as it stands. -/
theorem report_standing (s : State) (ctx : Option ErrContext) (toPart : Option Nat) (toLog : Bool) (r : ErrRec) :
    standing (report s ctx toPart toLog r) = standing s := by
  unfold report
  dsimp only
  split
  · exact errWrite_standing ..
  · split
    · split
      · split
        · exact errLost_standing ..
        · rfl
      · exact standing_after (errWrite_standing ..)
    · exact standing_after (errWrite_standing ..)

theorem semAdd_standing (s : State) (p sem n : Nat) : standing (semAdd s p sem n) = standing s := by
  unfold semAdd
  dsimp only
  split
  · rfl
  · split
    · exact setSem_standing ..
    · exact (report_standing ..).trans (setSem_standing ..)

end Sys2Proof.Machine
end

section
/-! PROOFS. Segments and contributions at their target, and the end of a round (O36). -/

namespace Sys2Proof.Machine

open Sys2Proof.Safety

/-! ## Memory without code errors (R395) -/

theorem fromLe_toLe (n v : Nat) : fromLe (toLe n v) = v % 256 ^ n := by
  induction n generalizing v with
  | zero => simp [toLe, fromLe, Nat.mod_one]
  | succ n ih =>
    have split : v % 256 ^ (n + 1) = v % 256 + 256 * (v / 256 % 256 ^ n) := by rw [Nat.pow_succ', Nat.mod_mul]
    simp only [toLe, fromLe, ih, BitVec.toNat_ofNat, split]

theorem length_toLe (n v : Nat) : (toLe n v).length = n := by
  induction n generalizing v with
  | zero => rfl
  | succ n ih => simp [toLe, ih]

theorem unsignedOf_lt (n : Nat) (v : Int) : unsignedOf n v < 2 ^ n := by
  have pos : (0 : Int) < 2 ^ n := by positivity
  have below := Int.emod_lt_of_pos v pos
  have above := Int.emod_nonneg v pos.ne'
  unfold unsignedOf
  zify
  rwa [Int.toNat_of_nonneg above]

/-- The end of a run of exhausted retries changes channels alone. -/
theorem endRuns_channels (s : State) (a n : Nat) :
    ∃ cs, endRuns s a n = { s with mem := { s.mem with channels := cs } } := by
  have go : ∀ (gs : List Nat) (s : State), ∃ cs, gs.foldl (fun s g =>
      modChan s (channelOf s (256 * g)).1 (fun x => { x with crcRun := 0 })) s = { s with mem := { s.mem with channels := cs } } := by
    intro gs
    induction gs with
    | nil => exact fun s => ⟨s.mem.channels, rfl⟩
    | cons g gs ih =>
      intro s
      obtain ⟨cs, h⟩ := ih (modChan s (channelOf s (256 * g)).1 (fun x => { x with crcRun := 0 }))
      exact ⟨cs, h⟩
  unfold endRuns
  split
  · exact ⟨s.mem.channels, rfl⟩
  · exact go _ s

/-- A read that the code could deliver, of memory without errors, changes channels alone. -/
theorem tookRead_channels {s : State} (h : GoodMemory s) (a n : Nat) :
    ∃ cs, tookRead s a n = { s with mem := { s.mem with channels := cs } } := by
  have clean : s.mem.errors.isEmpty = true := by simp [h.2.1]
  rw [tookRead, if_pos clean]
  exact endRuns_channels s a n

/-- A write to memory without errors takes every byte and changes nothing else but channels. -/
theorem devWrite_good {s : State} (h : GoodMemory s) (a : Nat) (bs : List Byte) :
    ∃ cs, devWrite s a bs = ({ s with mem := { s.mem with channels := cs, dram := memPutN s.mem.dram a bs } }, true) := by
  obtain ⟨-, herr, harm, hundef⟩ := h
  obtain ⟨cs, hcs⟩ := endRuns_channels s a bs.length
  refine ⟨cs, ?_⟩
  simp [devWrite, hcs, herr, harm, putRaw, hundef]

theorem devPut_good {s : State} (h : GoodMemory s) (a : Nat) (bs : List Byte) :
    ∃ cs, devPut s a bs = { s with mem := { s.mem with channels := cs, dram := memPutN s.mem.dram a bs } } := by
  obtain ⟨cs, hcs⟩ := devWrite_good h a bs
  exact ⟨cs, by rw [devPut, hcs]⟩

theorem rawByte_good {s : State} (h : GoodMemory s) (a : Nat) : rawByte s.mem a = memGet s.mem.dram a := by
  obtain ⟨-, -, -, hundef⟩ := h
  simp [rawByte, hundef]

theorem rawBytes_good {s : State} (h : GoodMemory s) (a n : Nat) : rawBytes s.mem a n = memGetN s.mem.dram a n := by
  obtain ⟨-, -, -, hundef⟩ := h
  simp [rawBytes, hundef]

theorem word32_good {s : State} (h : GoodMemory s) (a : Nat) : word32 s a = fromLe (memGetN s.mem.dram a 4) := by
  have herr : s.mem.errors = [] := h.2.1
  simp [word32, devRead, herr, rawBytes_good h]

theorem badWords_good {s : State} (h : GoodMemory s) (a n : Nat) : badWords s a n = [] := by
  obtain ⟨-, herr, -, -⟩ := h
  simp [badWords, herr]

/-- A state whose memory has other bytes in canonical form, and other channels, is as good. -/
theorem goodMemory_dram {s : State} (h : GoodMemory s) {m : Memory} (hm : memWf m = true) (cs : AMap Channel) :
    GoodMemory { s with mem := { s.mem with channels := cs, dram := m } } := ⟨hm, h.2⟩

/-- A write's bytes stand at their place, and no other byte changes. -/
theorem stored_of_dram {s t : State} (h : GoodMemory s) (ht : GoodMemory t) {a : Nat} {bs : List Byte}
    (e : t.mem.dram = memPutN s.mem.dram a bs) : Stored s t a bs := by
  refine ⟨?_, fun x hx => ?_⟩
  · rw [rawBytes_good ht, e, memGetN_putN h.1]
  · rw [rawByte_good ht, rawByte_good h, e, memGet_putN_out _ _ _ hx]

/-! ## Words of 32 bits written (R255) -/

theorem devPut_keeps {s : State} (h : GoodMemory s) (a : Nat) (bs : List Byte) :
    GoodMemory (devPut s a bs) ∧ (devPut s a bs).out = s.out := by
  obtain ⟨cs, e⟩ := devPut_good h a bs
  rw [e]
  exact ⟨goodMemory_dram h (memWf_putN h.1 a bs) cs, rfl⟩

theorem word32_devPut_self {s : State} (h : GoodMemory s) (a v : Nat) (hv : v < 2 ^ 32) :
    word32 (devPut s a (toLe 4 v)) a = v := by
  have read := memGetN_putN h.1 a (toLe 4 v)
  rw [length_toLe] at read
  rw [word32_good (devPut_keeps h a _).1]
  obtain ⟨cs, e⟩ := devPut_good h a (toLe 4 v)
  rw [e, read, fromLe_toLe]
  exact Nat.mod_eq_of_lt hv

theorem word32_devPut_ne {s : State} (h : GoodMemory s) {a x : Nat} (v : Nat) (hx : x + 4 ≤ a ∨ a + 4 ≤ x) :
    word32 (devPut s a (toLe 4 v)) x = word32 s x := by
  rw [word32_good (devPut_keeps h a _).1, word32_good h]
  obtain ⟨cs, e⟩ := devPut_good h a (toLe 4 v)
  rw [e]
  refine congrArg fromLe (List.map_congr_left fun i hi => ?_)
  have := List.mem_range.mp hi
  exact memGet_putN_out _ _ _ (by rw [length_toLe]; omega)

theorem word32_emitOut (s : State) (o : Out) (a : Nat) : word32 (emitOut s o) a = word32 s a := rfl

theorem word32_congr {s t : State} (h : GoodMemory s) (ht : GoodMemory t) (e : t.mem.dram = s.mem.dram) (a : Nat) :
    word32 t a = word32 s a := by
  rw [word32_good ht, word32_good h, e]

/-- One value added to its accumulator, element e.1 of those at a base (R255). -/
def addValue (base : Nat) (s : State) (e : Nat × Int) : State :=
  devPut s (base + 4 * e.1) (toLe 4 (unsignedOf 32 (signed 32 (word32 s (base + 4 * e.1)) + e.2)))

/-- Values added to the accumulators from element i on: each of those is its sum, every other word is as it was. -/
theorem foldl_addValue (base : Nat) (qs : List Int) (i : Nat) (s : State) (h : GoodMemory s) :
    GoodMemory (((List.range' i qs.length).zip qs).foldl (addValue base) s) ∧
    (((List.range' i qs.length).zip qs).foldl (addValue base) s).out = s.out ∧
    (∀ k, i ≤ k → k < i + qs.length → word32 (((List.range' i qs.length).zip qs).foldl (addValue base) s) (base + 4 * k) =
      unsignedOf 32 (signed 32 (word32 s (base + 4 * k)) + qs.getD (k - i) 0)) ∧
    (∀ x, x + 4 ≤ base + 4 * i ∨ base + 4 * (i + qs.length) ≤ x →
      word32 (((List.range' i qs.length).zip qs).foldl (addValue base) s) x = word32 s x) := by
  induction qs generalizing i s with
  | nil => exact ⟨h, rfl, fun k h1 h2 => absurd h2 (by simp; omega), fun _ _ => rfl⟩
  | cons q qs ih =>
    obtain ⟨hgood, hout⟩ := devPut_keeps h (base + 4 * i) (toLe 4 (unsignedOf 32 (signed 32 (word32 s (base + 4 * i)) + q)))
    have hself := word32_devPut_self h (base + 4 * i) _ (unsignedOf_lt 32 (signed 32 (word32 s (base + 4 * i)) + q))
    have hne := fun x => word32_devPut_ne h (a := base + 4 * i) (x := x) (unsignedOf 32 (signed 32 (word32 s (base + 4 * i)) + q))
    simp only [List.length_cons, List.range'_succ, List.zip_cons_cons, List.foldl_cons, addValue]
    generalize devPut s (base + 4 * i) (toLe 4 (unsignedOf 32 (signed 32 (word32 s (base + 4 * i)) + q))) = u at hgood hout hself hne ⊢
    obtain ⟨igood, iout, iin, iother⟩ := ih (i + 1) u hgood
    refine ⟨igood, iout.trans hout, fun k h1 h2 => ?_, fun x hx => ?_⟩
    · by_cases hk : k = i
      · subst hk
        rw [iother _ (.inl (by omega)), hself]
        simp
      · rw [iin k (by omega) (by omega), hne _ (.inr (by omega)), show k - i = k - (i + 1) + 1 by omega]
        rfl
    · rw [iother x (by omega), hne x (by omega)]

/-! ## Contributions (R255 to R257) -/

/-- A contribution that does not complete its block: every accumulator of the block has its sum, and the count one more. -/
theorem addBlock_open {s : State} (h : GoodMemory s) (p ci b : Nat) (qs : List Int) (hq : qs.length = 32)
    (hk : word32 s ((rctxOf s p ci).cnt + 4 * b) + 1 < (rctxOf s p ci).k) (hmax : (rctxOf s p ci).k ≤ 4096)
    (apart : (rctxOf s p ci).cnt + 4 * b + 4 ≤ (rctxOf s p ci).acc + b * 128 ∨
      (rctxOf s p ci).acc + b * 128 + 128 ≤ (rctxOf s p ci).cnt + 4 * b) :
    (addBlock s p ci b qs).out = s.out ∧ GoodMemory (addBlock s p ci b qs) ∧
    word32 (addBlock s p ci b qs) ((rctxOf s p ci).cnt + 4 * b) = word32 s ((rctxOf s p ci).cnt + 4 * b) + 1 ∧
    ∀ k, k < 32 → word32 (addBlock s p ci b qs) ((rctxOf s p ci).acc + b * 128 + 4 * k) =
      unsignedOf 32 (signed 32 (word32 s ((rctxOf s p ci).acc + b * 128 + 4 * k)) + qs.getD k 0) := by
  generalize hc : rctxOf s p ci = c at *
  obtain ⟨hgood, hout, hin, hother⟩ := foldl_addValue (c.acc + b * 128) qs 0 s h
  rw [hq, ← List.range_eq_range'] at hgood hout hin hother
  generalize hu : ((List.range 32).zip qs).foldl (addValue (c.acc + b * 128)) s = u at hgood hout hin hother
  have hcnt : word32 u (c.cnt + 4 * b) = word32 s (c.cnt + 4 * b) := hother _ (by omega)
  have hadd : addBlock s p ci b qs = modRctx (devPut u (c.cnt + 4 * b) (toLe 4 (word32 s (c.cnt + 4 * b) + 1))) p ci
      (fun c => { c with started := some (c.started.getD s.now) }) := by
    rw [← hcnt, ← hu]
    subst hc
    have more : word32 (((List.range 32).zip qs).foldl (addValue ((rctxOf s p ci).acc + b * 128)) s)
        ((rctxOf s p ci).cnt + 4 * b) + 1 < (rctxOf s p ci).k := by
      rw [hu, hcnt]
      exact hk
    exact if_pos more
  obtain ⟨pgood, pout⟩ := devPut_keeps hgood (c.cnt + 4 * b) (toLe 4 (word32 s (c.cnt + 4 * b) + 1))
  have hmem : ∀ x, word32 (addBlock s p ci b qs) x =
      word32 (devPut u (c.cnt + 4 * b) (toLe 4 (word32 s (c.cnt + 4 * b) + 1))) x := fun x => by
    rw [hadd]
    exact word32_congr pgood pgood rfl x
  refine ⟨by rw [hadd, modRctx_out, pout, hout], by rw [hadd]; exact pgood, ?_, fun k hk32 => ?_⟩
  · rw [hmem, word32_devPut_self hgood _ _ (by omega)]
  · rw [hmem, word32_devPut_ne hgood _ (by omega), hin k (by omega) (by omega)]
    rfl

/-- A contribution of one block that passes every check of R255 is added to its block. -/
theorem takeContribution_block {s : State} (h : GoodMemory s) (p port : Nat) (g : Segment) {body : List Byte} {qs : List Int}
    (hlen : g.nativeLen = 32 * nativeWidth g.native) (hen : (rctxOf s p g.rctx).enable = true)
    (hwire : g.wire = (rctxOf s p g.rctx).wire) (hfits : bits g.dest 19 0 + 1 ≤ (rctxOf s p g.rctx).nblk)
    (hbody : segmentBody g = some body)
    (hscales : ∀ x ∈ bodyScales g.wire body, x = (if (rctxOf s p g.rctx).wire = 5
      then (rctxOf s p g.rctx).expScale + (rctxOf s p g.rctx).expShift * 2 ^ 16 else (rctxOf s p g.rctx).expE))
    (hqs : (pieces 32 (bodyValues g.wire body)).head? = some qs) :
    ∃ s0, (∃ cs, s0 = { s with mem := { s.mem with channels := cs } }) ∧
      takeContribution s p port g = (addBlock s0 p g.rctx (bits g.dest 19 0) qs, St.ok) := by
  have hwidth : nativeWidth g.native = 2 ∨ nativeWidth g.native = 4 := by
    unfold nativeWidth
    split <;> simp
  have hone : ceilDiv g.nativeLen (32 * nativeWidth g.native) = 1 := by
    rw [hlen]
    rcases hwidth with e | e <;> rw [e] <;> rfl
  have hshape : ¬ (g.nativeLen = 0 ∨ g.nativeLen % (32 * nativeWidth g.native) ≠ 0 ∨ 4096 < g.nativeLen) := by
    rw [hlen, Nat.mod_self]
    omega
  have hopen : ¬ ((!(rctxOf s p g.rctx).enable) = true ∨ (rctxOf s p g.rctx).nblk < bits g.dest 19 0 + 1) := by
    simp [hen]
    omega
  have hsame : (bodyScales g.wire body).any (· != (if (rctxOf s p g.rctx).wire = 5
      then (rctxOf s p g.rctx).expScale + (rctxOf s p g.rctx).expShift * 2 ^ 16 else (rctxOf s p g.rctx).expE)) = false := by
    rw [List.any_eq_false]
    intro x hx
    simp [hscales x hx]
  obtain ⟨qss, hpieces⟩ : ∃ qss, pieces 32 (bodyValues g.wire body) = qs :: qss := List.head?_eq_some_iff.mp hqs
  obtain ⟨cs1, h1⟩ := tookRead_channels h ((rctxOf s p g.rctx).acc + bits g.dest 19 0 * 128) (1 * 128)
  have g1 : GoodMemory { s with mem := { s.mem with channels := cs1 } } := h
  obtain ⟨cs2, h2⟩ := tookRead_channels g1 ((rctxOf s p g.rctx).cnt + 4 * bits g.dest 19 0) (4 * 1)
  refine ⟨_, ⟨cs2, rfl⟩, ?_⟩
  unfold takeContribution
  dsimp only
  rw [if_neg hshape, hone, if_neg hopen, if_neg (not_not.mpr hwire), hbody]
  dsimp only
  rw [hsame, h1, h2, hpieces]
  simp [badWords_good h]

theorem emitOut_appends (s : State) (o : Out) : (emitOut s o).out = s.out ++ [o] := rfl

/-! ## Segments that arrive (R47, R328) -/

theorem arrive_stray {s : State} {p port src : Nat} {g : Segment} (hr : ready s = true) (hc : composed s p = true)
    (hl : g.level ≠ 1) : arrive p port src g s = .next (segmentError s port) := by
  simp [arrive, hr, hc, hl]

theorem arrive_barred {s : State} {p port src : Nat} {g : Segment} (hr : ready s = true) (hc : composed s p = true)
    (hl : g.level = 1) (hm : mayReach s p port src = false) :
    ∃ t, arrive p port src g s = .next t ∧ t.out.getLast? = some (.segAnswer port src St.address) ∧
      ∀ ci, rctxOf t p ci = rctxOf s p ci := by
  refine ⟨_, by simp [arrive, hr, hc, hl, hm]; rfl, by simp [emitOut], fun ci => ?_⟩
  exact rctxOf_of_standing (standing_after (report_standing ..)) p ci

theorem arrive_taken {s u : State} {p port src st : Nat} {g : Segment} (hr : ready s = true) (hc : composed s p = true)
    (hl : g.level = 1) (hm : mayReach s p port src = true)
    (htake : takeSegment s ⟨p, selfParty s p, true⟩ port g = (u, st)) :
    arrive p port src g s = .next (emitOut u (.segAnswer port src st)) := by
  simp [arrive, hr, hc, hl, hm, htake]

/-- A segment that passes the checks is written in its expanded form, and nothing else but channels changes. -/
theorem arrive_written {s : State} {p port src : Nat} {g : Segment} {bs : List Byte} (hr : ready s = true)
    (hc : composed s p = true) (hl : g.level = 1) (hm : mayReach s p port src = true) (hg : g.reduce = false)
    (hbs : segmentData g = some bs) (hw : ¬ (port < 16 ∧ (weightWindow s port g.dest bs.length).isSome = true))
    (hv : accessVerdict s ⟨p, selfParty s p, true⟩ g.dest bs.length true = St.ok) (h : GoodMemory s) :
    ∃ t, arrive p port src g s = .next t ∧ t.out = s.out ++ [.segAnswer port src St.ok] ∧
      Stored s t g.dest bs ∧ t.parts = s.parts ∧ t.home = s.home := by
  obtain ⟨cs, hcs⟩ := devWrite_good h g.dest bs
  have htake : takeSegment s ⟨p, selfParty s p, true⟩ port g =
      ({ s with mem := { s.mem with channels := cs, dram := memPutN s.mem.dram g.dest bs } }, St.ok) := by
    simp [takeSegment, hg, hbs, hw, hv, outsideWrite, hcs]
  refine ⟨_, arrive_taken hr hc hl hm htake, rfl, ?_, rfl, rfl⟩
  exact stored_of_dram h (goodMemory_dram h (memWf_putN h.1 g.dest bs) cs) rfl

/-- A segment that would write into a weight window is refused with ADDRESS (R266). -/
theorem arrive_window {s : State} {p port src : Nat} {g : Segment} {bs : List Byte} (hr : ready s = true)
    (hc : composed s p = true) (hl : g.level = 1) (hm : mayReach s p port src = true) (hg : g.reduce = false)
    (hbs : segmentData g = some bs) (hp : port < 16) (hw : (weightWindow s port g.dest bs.length).isSome = true) :
    ∃ t, arrive p port src g s = .next t ∧ t.out.getLast? = some (.segAnswer port src St.address) := by
  have htake : takeSegment s ⟨p, selfParty s p, true⟩ port g =
      (violation s (some p) 2 ((selfParty s p).domain, (selfParty s p).ep) g.dest none none St.address, St.address) := by
    simp [takeSegment, hg, hbs, hw, hp]
  exact ⟨_, arrive_taken hr hc hl hm htake, by simp [emitOut]⟩

/-- A contribution to a context that is not enabled is refused with BAD_OPERAND, and the context stays (R255). -/
theorem arrive_disabled {s : State} {p port src : Nat} {g : Segment} (hr : ready s = true) (hc : composed s p = true)
    (hl : g.level = 1) (hm : mayReach s p port src = true) (hg : g.reduce = true) (h0 : g.nativeLen ≠ 0)
    (hlen : g.nativeLen % (32 * nativeWidth g.native) = 0) (hmax : g.nativeLen ≤ 4096) (hoff : (rctxOf s p g.rctx).enable = false) :
    ∃ t, arrive p port src g s = .next t ∧ t.out.getLast? = some (.segAnswer port src St.badOperand) ∧
      rctxOf t p g.rctx = rctxOf s p g.rctx := by
  have htake : takeSegment s ⟨p, selfParty s p, true⟩ port g = refuseContribution s p g 1 := by
    simp [takeSegment, hg, takeContribution, h0, hlen, hoff, Nat.not_lt.mpr hmax]
  refine ⟨_, arrive_taken hr hc hl hm htake, by simp [emitOut], ?_⟩
  exact rctxOf_of_standing (standing_after (report_standing ..)) p g.rctx

/-! ## The end of a round (R257, R258) -/

theorem endRound_rctx (s : State) (p ci rounds rstatus missing : Nat) :
    (rctxOf (endRound s p ci rounds rstatus missing) p ci).started = none ∧
    (rctxOf (endRound s p ci rounds rstatus missing) p ci).missing = missing := by
  unfold endRound
  dsimp only
  rw [rctxOf_of_standing (semAdd_standing ..), rctxOf_modRctx_self]
  exact ⟨rfl, rfl⟩

/-- A round that has reached its limit: what is left is finalised, the round ends with it missing, and the context is disabled. -/
theorem roundLimitExpiry_due {s : State} {p ci t0 : Nat} (hr : ready s = true) (hs : (rctxOf s p ci).started = some t0)
    (he : (rctxOf s p ci).enable = true) (hl : (rctxOf s p ci).limit ≠ 0) (hd : t0 + (rctxOf s p ci).limit * 1000 ≤ s.now) :
    ∃ s1 r, exec (.roundLimitExpiry p ci) s = .next (modRctx (report (endRound s1 p ci (rctxOf s p ci).rounds 1
      ((List.range (rctxOf s p ci).nblk).filter (fun b => !(rctxOf s p ci).doneBlks.contains b)).length) none (some p) false r)
        p ci (fun c => { c with enable := false })) := by
  have due : (ready s && (rctxOf s p ci).enable && (rctxOf s p ci).limit != 0 &&
      decide (t0 + (rctxOf s p ci).limit * 1000 ≤ s.now)) = true := by simp [hr, he, hl, hd]
  change ∃ s1 r, execRoundLimitExpiry p ci s = _
  unfold execRoundLimitExpiry
  dsimp only
  rw [hs]
  exact ⟨_, _, if_pos due⟩

/-- A round that reaches its limit ends, and its context is disabled (R258). -/
theorem roundLimitExpiry_ends {s : State} {p ci t0 : Nat} (hr : ready s = true) (hs : (rctxOf s p ci).started = some t0)
    (he : (rctxOf s p ci).enable = true) (hl : (rctxOf s p ci).limit ≠ 0) (hd : t0 + (rctxOf s p ci).limit * 1000 ≤ s.now) :
    ∃ t, exec (.roundLimitExpiry p ci) s = .next t ∧ (rctxOf t p ci).enable = false ∧ (rctxOf t p ci).started = none ∧
      (rctxOf t p ci).missing =
        ((List.range (rctxOf s p ci).nblk).filter (fun b => !(rctxOf s p ci).doneBlks.contains b)).length := by
  obtain ⟨s1, r, run⟩ := roundLimitExpiry_due hr hs he hl hd
  refine ⟨_, run, ?_⟩
  rw [rctxOf_modRctx_self, rctxOf_of_standing (report_standing ..)]
  exact ⟨rfl, endRound_rctx ..⟩

/-- Settles O36, by what a segment meets on its way in: its level, its sender's reach, and then the write, the window or the
reduce context that it is for. -/
theorem segmentsAtTheirTarget : Obligations.SegmentsAtTheirTarget := by
  intro s p port src g hr hc c nw first
  refine ⟨fun hl => ⟨arrive_stray (g := { g with reduce := false }) hr hc hl, arrive_stray (g := { g with reduce := true }) hr hc hl⟩,
    fun hl hm => ⟨arrive_barred (g := { g with reduce := false }) hr hc hl hm, arrive_barred (g := { g with reduce := true }) hr hc hl hm⟩,
    fun bs hl hm hbs => ⟨fun _ hw hv h => ?_, fun hp hv h => ?_, fun hp hw => ?_⟩,
    fun hl hm h0 hlen hmax hoff => arrive_disabled (g := { g with reduce := true }) hr hc hl hm rfl h0 hlen hmax hoff,
    fun body qs hl hm hlen hen hwire hfits hbody hscales hqs hq h hk hmax apart => ?_,
    fun ci t0 hs he hlim hd => roundLimitExpiry_ends hr hs he hlim hd⟩
  · exact arrive_written (g := { g with reduce := false }) hr hc hl hm rfl hbs (by simp [hw]) hv h
  · exact arrive_written (g := { g with reduce := false }) hr hc hl hm rfl hbs (by omega) hv h
  · exact arrive_window (g := { g with reduce := false }) hr hc hl hm rfl hbs hp hw
  · obtain ⟨s0, ⟨cs, hs0⟩, htake⟩ := takeContribution_block (g := { g with reduce := true }) h p port hlen hen hwire hfits hbody hscales hqs
    have h0 : GoodMemory s0 := by
      rw [hs0]
      exact h
    have hout0 : s0.out = s.out := by rw [hs0]
    have hctx : rctxOf s0 p g.rctx = c := by
      rw [hs0]
      rfl
    have hword : ∀ x, word32 s0 x = word32 s x := word32_congr h h0 (by rw [hs0])
    obtain ⟨hout, hgood, hcnt, hacc⟩ := addBlock_open h0 p g.rctx first qs hq (by rw [hctx, hword]; exact hk) (by rw [hctx]; exact hmax)
      (by rw [hctx, Nat.mul_comm first 128]; exact apart)
    rw [hctx] at hcnt hacc
    refine ⟨_, arrive_taken (g := { g with reduce := true }) hr hc hl hm htake, ?_, ?_, fun k hk32 => ?_⟩
    · rw [emitOut_appends, hout, hout0]
    · rw [word32_emitOut, hcnt, hword]
    · rw [word32_emitOut, Nat.mul_comm 128 first, hacc k hk32, hword]

end Sys2Proof.Machine
end

section
/-! PROOFS. Device time: the latches, the copies of the islands, and the time sources (O54). -/

namespace Sys2Proof.Machine

open Sys2Proof.Safety

/-! ## Snapshot latches (R478) -/

theorem latchUnit_latchUnit (n : Nat) (x : Unit) : latchUnit n (latchUnit n x) = latchUnit n x := rfl

theorem unitIsland_lt (u : Nat) : unitIsland u < 18 := by
  unfold unitIsland
  repeat' split
  all_goals omega

/-- Units latched one after the other: those of the list are latched, the others are as they were. -/
theorem getD_foldl_latchUnit (n : Nat) (us : List Nat) (m : AMap Unit) (u : Nat) :
    AMap.getD (us.foldl (fun m u => AMap.insert m u (latchUnit n (AMap.getD m u {}))) m) u {} =
      if u ∈ us then latchUnit n (AMap.getD m u {}) else AMap.getD m u {} := by
  induction us generalizing m with
  | nil => simp
  | cons v us ih =>
    rw [List.foldl_cons, ih]
    by_cases h : u = v
    · subst h
      simp [latchUnit_latchUnit]
    · simp [h, AMap.getD_insert_ne _ _ _ h]

theorem latchIsland_unit (n : Nat) (c : Counters) (i u : Nat) (hu : u < 320) :
    AMap.getD (latchIsland n c i).units u {} =
      if unitIsland u = i then latchUnit n (AMap.getD c.units u {}) else AMap.getD c.units u {} := by
  simp [latchIsland, getD_foldl_latchUnit, hu]

/-- Islands latched one after the other: what their units hold, and the (number, island) pairs that are noted. -/
theorem foldl_latchIsland (n : Nat) (is : List Nat) (c : Counters) :
    (is.foldl (latchIsland n) c).latches = c.latches ∧ (is.foldl (latchIsland n) c).done = c.done ∧
    (is.foldl (latchIsland n) c).latched = c.latched ++ is.map (n, ·) ∧
    ∀ u, u < 320 → AMap.getD (is.foldl (latchIsland n) c).units u {} =
      if unitIsland u ∈ is then latchUnit n (AMap.getD c.units u {}) else AMap.getD c.units u {} := by
  induction is generalizing c with
  | nil => simp
  | cons i is ih =>
    obtain ⟨hl, hd, hp, hu⟩ := ih (latchIsland n c i)
    refine ⟨hl, hd, by rw [List.foldl_cons, hp]; simp [latchIsland], fun u h => ?_⟩
    rw [List.foldl_cons, hu u h, latchIsland_unit n c i u h]
    by_cases hi : unitIsland u = i <;> by_cases hm : unitIsland u ∈ is <;> simp [hi, hm, latchUnit_latchUnit]

/-- A pending latch whose time no island has reached fires nowhere. -/
theorem fireLatch_early (s : State) (c : Counters) (l : Nat × Nat) (h : ∀ i, i < 18 → localTime s i < l.2) :
    fireLatch s c l = c := by
  have none_due : (List.range 18).filter (fun i => decide (l.2 ≤ localTime s i) && !c.latched.contains (l.1, i)) = [] := by
    rw [List.filter_eq_nil_iff]
    intro i hi
    have := h i (List.mem_range.mp hi)
    simp
    omega
  rw [fireLatch, none_due]
  rfl

theorem foldl_fireLatch_early (s : State) (ls : List (Nat × Nat)) (c : Counters)
    (h : ∀ e ∈ ls, ∀ i, i < 18 → localTime s i < e.2) : ls.foldl (fireLatch s) c = c := by
  induction ls with
  | nil => rfl
  | cons l ls ih =>
    rw [List.foldl_cons, fireLatch_early s c l (h l (.head _))]
    exact ih fun e he => h e (.tail _ he)

/-- A latch that no island has taken does not settle. -/
theorem settleLatches_none (ls : List (Nat × Nat)) (c : Counters) (h : c.latched = []) : settleLatches ls c = c := by
  cases ls with
  | nil => rfl
  | cons l ls =>
    have waits : latchedAll c l.1 = false := List.all_eq_false.mpr ⟨0, by simp [h]⟩
    rw [settleLatches, waits]
    rfl

/-- The islands whose copy of device time has reached a time. -/
def reached (s : State) (at_ : Nat) : List Nat := (List.range 18).filter (fun i => decide (at_ ≤ localTime s i))

theorem mem_reached {s : State} {at_ i : Nat} : i ∈ reached s at_ ↔ i < 18 ∧ at_ ≤ localTime s i := by
  simp [reached]

/-- The counters after the only latch that is due has fired, before any leaves the pending ones. -/
def fired (s : State) (n at_ : Nat) : Counters := (reached s at_).foldl (latchIsland n) s.counters

theorem snapLatch_fires {s : State} {n at_ : Nat} {rest : List (Nat × Nat)} (hr : ready s = true)
    (hl : s.counters.latches = (n, at_) :: rest) (h0 : s.counters.latched = [])
    (hrest : ∀ e ∈ rest, ∀ i, i < 18 → localTime s i < e.2) :
    exec .snapLatch s = .next { s with counters := settleLatches s.counters.latches (fired s n at_) } := by
  have hfire : s.counters.latches.foldl (fireLatch s) s.counters = fired s n at_ := by
    rw [hl, List.foldl_cons, foldl_fireLatch_early s rest _ hrest]
    simp [fireLatch, fired, reached, h0]
  show execSnapLatch s = _
  simp [execSnapLatch, hr, hfire, fired, (foldl_latchIsland n (reached s at_) s.counters).1]

theorem latchedAll_fired {s : State} {n at_ : Nat} (h0 : s.counters.latched = []) :
    latchedAll (fired s n at_) n = true ↔ ∀ i, i < 18 → at_ ≤ localTime s i := by
  have hp := (foldl_latchIsland n (reached s at_) s.counters).2.2.1
  simp only [latchedAll, fired, hp, h0, List.all_eq_true, List.mem_range]
  simp [mem_reached]
  exact forall_congr' fun i => ⟨fun h hi => (h hi).2, fun h hi => ⟨hi, h hi⟩⟩

theorem fired_unit (s : State) (n at_ u : Nat) (hu : u < 320) :
    AMap.getD (fired s n at_).units u {} = if at_ ≤ localTime s (unitIsland u)
      then latchUnit n (AMap.getD s.counters.units u {}) else AMap.getD s.counters.units u {} := by
  rw [fired, (foldl_latchIsland n (reached s at_) s.counters).2.2.2 u hu]
  simp [mem_reached, unitIsland_lt]

theorem latched_of_eq {s t : State} {n u : Nat}
    (h : AMap.getD t.counters.units u {} = latchUnit n (AMap.getD s.counters.units u {})) : Latched s t n u := by
  simp [Latched, h, latchUnit]

/-- Once every island has reached the latch, it leaves the pending ones and every unit has its copy. -/
theorem snapLatch_all {s : State} {n at_ : Nat} {rest : List (Nat × Nat)} (hr : ready s = true)
    (hl : s.counters.latches = (n, at_) :: rest) (h0 : s.counters.latched = [])
    (hrest : ∀ e ∈ rest, ∀ i, i < 18 → localTime s i < e.2) (hall : ∀ i, i < 18 → at_ ≤ localTime s i) :
    ∃ t, exec .snapLatch s = .next t ∧ t.counters.latches = rest ∧ t.counters.done = n ∧ ∀ u, u < 320 → Latched s t n u := by
  have hp := (foldl_latchIsland n (reached s at_) s.counters).2.2.1
  have gone : (fired s n at_).latched.filter (fun e => e.1 != n) = [] := by
    simp [fired, hp, h0]
  have hs : settleLatches s.counters.latches (fired s n at_) =
      { fired s n at_ with latches := rest, done := n, latched := [] } := by
    rw [hl, settleLatches, if_pos ((latchedAll_fired h0).mpr hall), gone]
    exact settleLatches_none _ _ rfl
  refine ⟨_, snapLatch_fires hr hl h0 hrest, by rw [hs], by rw [hs], fun u hu => latched_of_eq ?_⟩
  rw [hs]
  simpa [hall _ (unitIsland_lt u)] using fired_unit s n at_ u hu

/-- While an island has not reached the latch it stays pending; the units of those that have are latched, the others are not. -/
theorem snapLatch_part {s : State} {n at_ i : Nat} {rest : List (Nat × Nat)} (hr : ready s = true)
    (hl : s.counters.latches = (n, at_) :: rest) (h0 : s.counters.latched = [])
    (hrest : ∀ e ∈ rest, ∀ i, i < 18 → localTime s i < e.2) (hi : i < 18) (hlate : localTime s i < at_) :
    ∃ t, exec .snapLatch s = .next t ∧ t.counters.latches = s.counters.latches ∧ t.counters.done = s.counters.done ∧
      ∀ u, u < 320 → (at_ ≤ localTime s (unitIsland u) → Latched s t n u) ∧
        (localTime s (unitIsland u) < at_ → AMap.getD t.counters.units u {} = AMap.getD s.counters.units u {}) := by
  have hnot : ¬ latchedAll (fired s n at_) n = true := fun h => by
    have := (latchedAll_fired h0).mp h i hi
    omega
  have hs : settleLatches s.counters.latches (fired s n at_) = fired s n at_ := by
    rw [hl, settleLatches, if_neg hnot]
  obtain ⟨hlat, hdone, -, -⟩ := foldl_latchIsland n (reached s at_) s.counters
  refine ⟨_, snapLatch_fires hr hl h0 hrest, by rw [hs]; exact hlat, by rw [hs]; exact hdone, fun u hu => ⟨fun h => ?_, fun h => ?_⟩⟩
  · refine latched_of_eq ?_
    rw [hs]
    simpa [h] using fired_unit s n at_ u hu
  · rw [hs]
    simpa [Nat.not_le.mpr h] using fired_unit s n at_ u hu

/-! ## The copies of device time (R29) -/

theorem find?_map_range {α : Type} (f : Nat → α) (a n i : Nat) :
    AMap.find? ((List.range' a n).map (fun k => (k, f k))) i = if a ≤ i ∧ i < a + n then some (f i) else none := by
  induction n generalizing a with
  | zero =>
    rw [if_neg (by omega)]
    rfl
  | succ n ih =>
    simp only [List.range'_succ, List.map_cons, AMap.find?]
    by_cases h : a = i
    · simp [h]
    · rw [if_neg h, ih]
      exact if_congr (by omega) rfl rfl

/-- The lead of an island's copy over device time after a correction: none at TS, at most 4 ns elsewhere. -/
theorem getD_copies (k i : Nat) (hi : i < 18) :
    AMap.getD (copies k) i 0 = if i = Isl.ts then 0 else ((Config.islandSkew (18 * k + i) % 9 : Nat) : Int) - 4 := by
  rw [copies, List.range_eq_range', AMap.getD, find?_map_range, if_pos (by omega)]

theorem slew_islands (s : State) : (slew s).islands = s.islands := by
  unfold slew
  repeat' split
  all_goals rfl

/-- A correction slews by one nanosecond at most. -/
theorem slew_now (s : State) : (slew s).now = s.now ∨ (slew s).now = s.now + 1 := by
  unfold slew
  split
  · exact .inl rfl
  · split
    · exact .inl rfl
    · split
      · exact .inr rfl
      · exact .inl rfl

theorem timeCorrection_near {s : State} (hr : ready s = true) :
    ∃ t, exec .timeCorrection s = .next t ∧ (t.now = s.now ∨ t.now = s.now + 1) ∧ localTime t Isl.ts = t.now ∧
      ∀ i, i < 18 → localTime t i ≤ t.now + 4 ∧ t.now ≤ localTime t i + 4 := by
  have hlead : ∀ i, i < 18 → AMap.getD (slew (draw { s with islands := copies s.freeCtr })).islands i 0 =
      if i = Isl.ts then 0 else ((Config.islandSkew (18 * s.freeCtr + i) % 9 : Nat) : Int) - 4 := fun i hi => by
    rw [slew_islands]
    exact getD_copies s.freeCtr i hi
  refine ⟨slew (draw { s with islands := copies s.freeCtr }), ?_, slew_now _, ?_, fun i hi => ?_⟩
  · show execTimeCorrection s = _
    simp [execTimeCorrection, hr]
  · simp [localTime, hlead Isl.ts (by decide)]
  · simp only [localTime, hlead i hi]
    split <;> omega

/-! ## The time sources (R379, R518) -/

/-- A PTP message that the module acts on: it runs PTP, and the message is on the port, in the domain and over the IP version
of FP_PTP, on a port that is UP (R379). -/
def PtpTakes (s : State) (m : PtpMsg) : Prop :=
  ready s = true ∧ s.tlaley.ptpEnable = true ∧ m.port = s.tlaley.ptpPort ∧ m.domain = s.tlaley.ptpDomain ∧
    m.ipv6 = s.tlaley.ptpIpv6 ∧ (farPort s m.port).state = .up

theorem ptpMessage_sync {s : State} {m : PtpMsg} {twoStep : Bool} (h : PtpTakes s m) (hk : m.kind = .sync twoStep) :
    exec (.ptpMessage m) s = .next (if twoStep
      then modPtp s (fun c => { c with seq := m.seq, arrive := s.now - m.corr, origin := none, sentAt := none })
      else askDelay (modPtp s (fun c => { c with seq := m.seq, arrive := s.now, origin := none, sentAt := none })) (m.time + m.corr)) := by
  obtain ⟨hr, he, hp, hd, hv, hu⟩ := h
  rw [hp] at hu
  show execPtpMessage m s = _
  cases twoStep <;> simp [execPtpMessage, hr, he, hp, hd, hv, hu, hk, modPtp]

theorem ptpMessage_followUp {s : State} {m : PtpMsg} (h : PtpTakes s m) (hk : m.kind = .followUp)
    (hs : m.seq = s.tlaley.ptpClock.seq) (ho : s.tlaley.ptpClock.origin = none) :
    exec (.ptpMessage m) s = .next (askDelay s (m.time + m.corr)) := by
  obtain ⟨hr, he, hp, hd, hv, hu⟩ := h
  rw [hp] at hu
  show execPtpMessage m s = _
  simp [execPtpMessage, hr, he, hp, hd, hv, hu, hk, hs, ho]

theorem ptpMessage_delayResp {s : State} {m : PtpMsg} {d : Int} (h : PtpTakes s m) (hk : m.kind = .delayResp)
    (hs : m.seq = s.tlaley.ptpClock.reqSeq) (hm : measured s.tlaley.ptpClock (m.time - m.corr) = some d) :
    exec (.ptpMessage m) s = .next (takeOffset (modPtp s (fun c => { c with sentAt := none })) d) := by
  obtain ⟨hr, he, hp, hd, hv, hu⟩ := h
  rw [hp] at hu
  show execPtpMessage m s = _
  simp [execPtpMessage, hr, he, hp, hd, hv, hu, hk, hs, hm]

theorem ptpMessage_other {s : State} {m : PtpMsg} (h : PtpTakes s m) (hk : m.kind = .other) :
    exec (.ptpMessage m) s = .next s := by
  obtain ⟨hr, he, hp, hd, hv, hu⟩ := h
  rw [hp] at hu
  show execPtpMessage m s = _
  simp [execPtpMessage, hr, he, hp, hd, hv, hu, hk]

theorem ppsPulse_ignored {s : State} (interval : Nat) (h : s.tlaley.ptpEnable = true) : exec (.ppsPulse interval) s = .next s := by
  show execPpsPulse interval s = _
  simp [execPpsPulse, h]

theorem ppsPulse_counts {s : State} (interval : Nat) (hr : ready s = true) (h : s.tlaley.ptpEnable = false) :
    ∃ t, exec (.ppsPulse interval) s = .next t ∧ t.now = s.now ∧
      t.time.ppsRun = (if 999999000 ≤ interval ∧ interval ≤ 1000001000 then s.time.ppsRun + 1 else 1) ∧
      (t.time.ppsLocked = true ↔ 3 ≤ t.time.ppsRun) := by
  refine ⟨_, if_neg (by simp [hr, h]), rfl, ?_, ?_⟩ <;> simp [modTime]

/-- Settles O54: each source of device time, the copies of the islands, and the latches by the islands that have reached one. -/
theorem timeIsDisciplined : Obligations.TimeIsDisciplined := by
  refine ⟨fun s hr => ⟨fun m he hp hd hv hu => ?_, fun interval he => ppsPulse_ignored interval he,
    fun interval he => ppsPulse_counts interval hr he, ?_, timeCorrection_near hr,
    fun n at_ rest hl h0 hrest => ⟨snapLatch_all hr hl h0 hrest, fun i hi => snapLatch_part hr hl h0 hrest hi⟩⟩, fun s valid hg => ?_⟩
  · have takes : PtpTakes s m := ⟨hr, he, hp, hd, hv, hu⟩
    refine ⟨fun hk => ⟨_, ptpMessage_sync takes hk, rfl, rfl, ?_⟩, fun hk => ⟨_, ptpMessage_sync takes hk, rfl, rfl, rfl⟩,
      fun hk hs ho => ⟨_, ptpMessage_followUp takes hk hs ho, rfl, ?_⟩, fun t1 t3 hk hs ho hat => ?_, ptpMessage_other takes⟩
    · rw [hp, hv, hd]
      rfl
    · rw [hp, hv, hd]
      rfl
    · have hm : measured s.tlaley.ptpClock (m.time - m.corr) =
          some (((s.tlaley.ptpClock.arrive - t1) - (m.time - m.corr - t3)) / 2) := by
        simp [measured, ho, hat]
      exact ⟨_, ptpMessage_delayResp takes hk hs hm, rfl, rfl, rfl, by simp [takeOffset]⟩
  · exact ⟨_, if_pos hr, rfl, rfl, rfl, rfl, rfl⟩
  · show execRef10mSignal valid s = _
    simp [execRef10mSignal, hg, modTime]

end Sys2Proof.Machine
end

section
/-! PROOFS. Messages, frames, requests and restarts: what they leave alone of other partitions. -/

namespace Sys2Proof.Machine

open Sys2Proof.Safety

/-! ## Ports (R308 to R320) -/

theorem modTs_standing (s : State) (port : Nat) (f : TsPort → TsPort) : standing (modTs s port f) = standing s := standing_eq

theorem stampHead_standing (s : State) (port : Nat) (l : Leaf) : standing (stampHead s port l) = standing s := by
  unfold stampHead
  dsimp only
  split
  · rfl
  · split
    · rfl
    · exact modTs_standing ..

theorem park_standing (s : State) (port part tc : Nat) (k : Parked) : standing (park s port part tc k) = standing s := by
  unfold park
  cases k with
  | pending e => exact modTs_standing ..
  | main i e => exact (countEv_standing ..).trans standing_eq
  | overflow i e => exact (countEv_standing ..).trans standing_eq
  | zeroRate => exact (countEv_standing ..).trans (modTs_standing ..)

theorem examine_standing (s : State) (port part tc : Nat) : standing (examine s port part tc) = standing s := by
  unfold examine
  dsimp only
  split
  · exact modTs_standing ..
  · split
    · exact modTs_standing ..
    · split <;> exact (park_standing ..).trans (modTs_standing ..)

theorem enqueueFrame_standing (s : State) (port part tc : Nat) (req : Option Nat) (f : TxFrame) :
    standing (enqueueFrame s port part tc req f) = standing s := by
  have queued : ∀ q : QFrame, standing (stampHead (modTs s port (fun t => { t with frames := t.frames ++ [q] })) port (leafOf q)) =
      standing s := fun q => (stampHead_standing ..).trans (modTs_standing ..)
  unfold enqueueFrame
  dsimp only
  split
  · exact queued _
  · exact (examine_standing ..).trans (queued _)

/-! ## Transactions (R341, R342, R350) -/

theorem reportDead_standing (s : State) (o : Out) : standing (reportDead s o) = standing s := standing_eq

theorem closeFabric_standing (s : State) (w : IRef) : standing (closeFabric s w) = standing s := by
  unfold closeFabric
  split
  · rfl
  · exact modIssued_standing ..

theorem noteCopy_standing (s : State) (c : Option CopyOf) (status : Nat) : standing (noteCopy s c status) = standing s := by
  unfold noteCopy
  split
  · split
    · rfl
    · exact standing_eq
  · rfl

theorem deadForInstr_standing (s : State) (t : Txn) : standing (deadForInstr s t) = standing s := by
  unfold deadForInstr
  split
  · rfl
  · exact (closeFabric_standing ..).trans (modIssued_standing ..)

theorem deadTxn_standing (s : State) (t : Txn) : standing (deadTxn s t) = standing s := by
  unfold deadTxn
  dsimp only
  split
  · exact (reportDead_standing ..).trans ((report_standing ..).trans ((countEv_standing ..).trans standing_eq))
  · exact (deadForInstr_standing ..).trans ((noteCopy_standing ..).trans ((report_standing ..).trans
      ((countEv_standing ..).trans standing_eq)))

theorem launchTxn_standing (s : State) (t : Txn) (frames : List TxFrame) : standing (launchTxn s t frames) = standing s := by
  unfold launchTxn
  dsimp only
  split
  · exact deadTxn_standing ..
  · exact (foldl_standing (fun _ _ => enqueueFrame_standing ..) _ _).trans standing_eq

theorem sendTxn_standing (s : State) (t : Txn) (frames : List TxFrame) : standing (sendTxn s t frames) = standing s := by
  unfold sendTxn
  split
  · exact standing_eq
  · exact launchTxn_standing ..

/-! ## Connections and messages (R98, R365, R378) -/

theorem modConn_standing (s : State) (n : Nat) (f : Conn → Conn) : standing (modConn s n f) = standing s := standing_eq

theorem sendConnMsg_standing (s : State) (n op : Nat) (c : Conn) (r : ConnRecord) :
    standing (sendConnMsg s n op c r) = standing s := by
  unfold sendConnMsg
  dsimp only
  split
  · rfl
  · exact enqueueFrame_standing ..

theorem sendOpen_standing (s : State) (n : Nat) : standing (sendOpen s n) = standing s :=
  (sendConnMsg_standing ..).trans (modConn_standing ..)

theorem makeRoom_standing (s : State) : standing (makeRoom s) = standing s := by
  unfold makeRoom
  split
  · rfl
  · split
    · next e _ =>
      refine (modConn_standing ..).trans ?_
      cases h : hostPost (draw s) (partOf s e.2.part).connHostFn (hostTableAddr s e.1 e.2)
        ((List.range 256).map (Config.freeByte s.freeCtr)) with
      | none => rfl
      | some t => exact (hostPost_alike h).standing.trans standing_eq
    · rfl

theorem deviceConn_standing (s : State) (p tpart : Nat) (dest : Nat × Nat) : standing (deviceConn s p tpart dest).1 = standing s := by
  unfold deviceConn peerConn
  split
  · rfl
  · split
    · rfl
    · exact (sendOpen_standing ..).trans ((modConn_standing ..).trans ((makeRoom_standing ..).trans standing_eq))

theorem addXfer_standing (s : State) (n : Nat) (x : Xfer) : standing (addXfer s n x) = standing s := modConn_standing ..

/-- A device message leaves every partition, queue and link as it stands, on whatever way it goes. -/
theorem sendMsg_standing (s : State) (p tc : Nat) (dest : Nat × Nat) (tpart len : Nat) (o : Out) (req : Option Nat) :
    standing (sendMsg s p tc dest tpart len o req) = standing s := by
  have opened := deviceConn_standing (draw s) p tpart dest
  unfold sendMsg
  dsimp only
  split
  · exact standing_eq
  · split
    · exact (sendTxn_standing ..).trans standing_eq
    · split
      · next h =>
        rw [h] at opened
        exact (reportDead_standing ..).trans (opened.trans standing_eq)
      · next h =>
        rw [h] at opened
        exact (addXfer_standing ..).trans (opened.trans standing_eq)

theorem answerAttend_standing (s : State) (m : AttendMsg) (status : Nat) (body : List Byte) :
    standing (answerAttend s m status body) = standing s := sendMsg_standing ..

theorem reportXfers_standing (s : State) (xs : List Xfer) : standing (reportXfers s xs) = standing s := by
  refine foldl_standing (fun s x => ?_) xs s
  split
  · exact reportDead_standing ..
  · rfl

theorem dropDeviceConns_standing (s : State) (p : Nat) : standing (dropDeviceConns s p) = standing s :=
  foldl_standing (fun _ _ => (reportXfers_standing ..).trans standing_eq) _ _

/-! ## Frames of the home (R104, R107, R118) -/

theorem transition_standing (s : State) (g : Nat) (f : Frame) (event : Nat) : standing (transition s g f event) = standing s :=
  standing_eq

theorem freeFrame_standing (s : State) (g event : Nat) : standing (freeFrame s g event) = standing s := standing_eq

theorem dropMigration_standing (s : State) (g : Nat) (asSource : Bool) : standing (dropMigration s g asSource) = standing s :=
  standing_eq

theorem beginHold_standing (s : State) (h : Nat) : standing (beginHold s h) = standing s := standing_eq

theorem sendTrapeze_standing (s : State) (p : Nat) (dest : Nat × Nat) (m : TMsg) : standing (sendTrapeze s p dest m) = standing s :=
  sendMsg_standing ..

theorem tellParty_standing (s : State) (g : Nat) (to_ : Party) (m : TMsg) : standing (tellParty s g to_ m) = standing s :=
  sendTrapeze_standing ..

theorem returnedToBoth_standing (s : State) (g handle status : Nat) (owner offeree : Party) :
    standing (returnedToBoth s g handle status owner offeree) = standing s :=
  (tellParty_standing ..).trans (tellParty_standing ..)

theorem loseFrame_standing (s : State) (g event : Nat) : standing (loseFrame s g event) = standing s :=
  (tellParty_standing ..).trans (transition_standing ..)

theorem sendAbort_standing (s : State) (g : Nat) (x : Migration) (status handle peer : Nat) :
    standing (sendAbort s g x status handle peer) = standing s := (tellParty_standing ..).trans (sendTrapeze_standing ..)

theorem abortAtSource_standing (s : State) (g : Nat) (x : Migration) (status event : Nat) :
    standing (abortAtSource s g x status event) = standing s := by
  unfold abortAtSource
  refine (sendAbort_standing ..).trans ?_
  split
  · exact (transition_standing ..).trans (dropMigration_standing ..)
  · exact dropMigration_standing ..

theorem offerLapse_standing (s : State) (g : Nat) : standing (offerLapse s g) = standing s := by
  unfold offerLapse
  dsimp only
  split
  · split
    · exact loseFrame_standing ..
    · exact (returnedToBoth_standing ..).trans (transition_standing ..)
  · rfl

theorem lostLapse_standing (s : State) (g : Nat) : standing (lostLapse s g) = standing s := by
  unfold lostLapse
  dsimp only
  split
  · exact freeFrame_standing ..
  · rfl

theorem migrationLapse_standing (s : State) (g : Nat) : standing (migrationLapse s g) = standing s := by
  unfold migrationLapse
  split
  · split
    · rfl
    · split
      · exact (freeFrame_standing ..).trans (dropMigration_standing ..)
      · split
        · exact (beginHold_standing ..).trans (dropMigration_standing ..)
        · exact abortAtSource_standing ..
  · split
    · split
      · rfl
      · exact (sendAbort_standing ..).trans ((freeFrame_standing ..).trans (dropMigration_standing ..))
    · rfl

theorem forwardLapse_standing (s : State) (h : Nat) : standing (forwardLapse s h) = standing s := by
  unfold forwardLapse
  dsimp only
  split
  · split
    · split
      · exact (freeFrame_standing ..).trans standing_eq
      · exact standing_eq
    · rfl
  · rfl

theorem lapse_standing (s : State) (h : Nat) : standing (lapse s h) = standing s :=
  (lostLapse_standing ..).trans ((offerLapse_standing ..).trans ((migrationLapse_standing ..).trans (forwardLapse_standing ..)))

theorem fenceFrame_standing (x : Party) (s : State) (g : Nat) : standing (fenceFrame x s g) = standing s := by
  unfold fenceFrame
  dsimp only
  split
  · split
    · exact loseFrame_standing ..
    · rfl
  · split
    · exact (returnedToBoth_standing ..).trans (transition_standing ..)
    · rfl
  · split
    · split
      · exact (loseFrame_standing ..).trans ((sendAbort_standing ..).trans (dropMigration_standing ..))
      · exact loseFrame_standing ..
    · rfl
  · rfl

theorem applyFence_standing (s : State) (x : Party) (e : Nat) : standing (applyFence s x e) = standing s :=
  (foldl_standing (fun _ _ => (fenceFrame_standing ..).trans (lapse_standing ..)) _ _).trans standing_eq

/-! ## Requests that end (R182, R305) -/

theorem refreshCons_standing (s : State) (p idx n : Nat) : standing (refreshCons s p idx n) = standing s := by
  unfold refreshCons
  dsimp only
  split
  · rfl
  · split
    · exact setRec_standing ..
    · rfl

theorem ringPut_standing (s : State) (p : Nat) (leaf : Option Nat) (r : Rec) (off : Nat) (bs : List Byte) :
    standing (ringPut s p leaf r off bs) = standing s := by
  unfold ringPut
  split
  · exact enqueueFrame_standing ..
  · rfl

theorem endRequest_standing (s : State) (p idx : Nat) (leaf : Option Nat) (final : Nat) (entry : Option Nat) :
    standing (endRequest s p idx leaf final entry) = standing s := by
  unfold endRequest
  dsimp only
  refine (ringPut_standing ..).trans ((ringPut_standing ..).trans ((ringPut_standing ..).trans ((setRec_standing ..).trans ?_)))
  split
  · exact refreshCons_standing ..
  · split
    · exact (setRec_standing ..).trans ((ringPut_standing ..).trans (refreshCons_standing ..))
    · exact refreshCons_standing ..

theorem retire_standing (s : State) (p idx : Nat) (leaf : Option Nat) (final : Nat) :
    standing (retire s p idx leaf final) = standing s := by
  unfold retire
  refine (endRequest_standing ..).trans ?_
  split
  · dsimp only
    split
    · rfl
    · exact setBucket_standing ..
  · rfl

theorem endRequests_standing (s : State) (p : Nat) : standing (endRequests s p) = standing s :=
  foldl_standing (fun _ _ => retire_standing ..) _ _

end Sys2Proof.Machine
end

section
/-! PROOFS. Containment: torn down queues, failed units, and the stop of the module (O52). -/

namespace Sys2Proof.Machine

open Sys2Proof.Safety

/-! ## Queues torn down (R208, R421) -/

/-- What the teardown of a queue keeps: links, absent cores, recorded failures, the state and last cause of every partition, and
every queue torn down before. -/
structure Tears (s t : State) : Prop where
  links     : t.power.links = s.power.links
  ccAbsent  : t.life.ccAbsent = s.life.ccAbsent
  hwFailed  : t.flash.hwFailed = s.flash.hwFailed
  state     : ∀ k, (partOf t k).state = (partOf s k).state
  lastCause : ∀ k, (partOf t k).lastCause = (partOf s k).lastCause
  torn      : ∀ k q, TornDown s k q → TornDown t k q

theorem Tears.refl (s : State) : Tears s s := ⟨rfl, rfl, rfl, fun _ => rfl, fun _ => rfl, fun _ _ h => h⟩

theorem Tears.trans {s t u : State} (h : Tears s t) (k : Tears t u) : Tears s u :=
  ⟨k.links.trans h.links, k.ccAbsent.trans h.ccAbsent, k.hwFailed.trans h.hwFailed, fun p => (k.state p).trans (h.state p),
    fun p => (k.lastCause p).trans (h.lastCause p), fun p q hq => k.torn p q (h.torn p q hq)⟩

theorem tears_of_standing {s t : State} (h : standing t = standing s) : Tears s t :=
  ⟨congrArg Standing.links h, congrArg Standing.ccAbsent h, congrArg Standing.hwFailed h, state_of_standing h, lastCause_of_standing h,
    fun k q hq => by rwa [tornDown_iff, h, ← tornDown_iff]⟩

theorem foldl_tears {α : Type} {f : State → α → State} (h : ∀ s a, Tears s (f s a)) (l : List α) (s : State) :
    Tears s (l.foldl f s) := by
  induction l generalizing s with
  | nil => exact .refl s
  | cons a l ih => exact (h s a).trans (ih _)

/-- A queue changed by what leaves a torn-down one torn down. -/
theorem modQueue_tears (s : State) (p q : Nat) (f : Queue → Queue)
    (h : ∀ x : Queue, x.cause = 0x07 → x.enable = false → (f x).cause = 0x07 ∧ (f x).enable = false) :
    Tears s (modQueue s p q f) := by
  have other : ∀ k, k ≠ p → partOf (modQueue s p q f) k = partOf s k := fun k hk => partOf_modQueue_ne s f hk
  refine ⟨rfl, rfl, rfl, fun k => ?_, fun k => ?_, fun k r hr => ?_⟩
  · by_cases hk : k = p
    · rw [hk, partOf_modQueue]
    · rw [other k hk]
  · by_cases hk : k = p
    · rw [hk, partOf_modQueue]
    · rw [other k hk]
  · by_cases hk : k = p
    · subst hk
      by_cases hq : r = q
      · subst hq
        rw [TornDown, queueOf_modQueue_self]
        exact h _ hr.1 hr.2
      · rw [TornDown, queueOf_modQueue_ne s f hq]
        exact hr
    · rw [TornDown, other k hk]
      exact hr

theorem unhalt_tears (s : State) (p q : Nat) (i : Issued) : Tears s (unhalt s p q i) := by
  unfold unhalt
  dsimp only
  split
  · refine modQueue_tears _ _ _ _ fun x hc he => ?_
    rw [if_neg (by omega)]
    exact ⟨hc, he⟩
  · exact .refl s

theorem freeRebuilt_standing (s : State) (i : Issued) : standing (freeRebuilt s i) = standing s := by
  unfold freeRebuilt
  split
  · exact freeFrame_standing ..
  · rfl

theorem returnTokens_standing (s : State) (p q : Nat) : standing (returnTokens s p q) = standing s := by
  unfold returnTokens
  dsimp only
  refine (modPart_standing _ p (fun P => { P with waiters := P.waiters.filter (fun y => y.queue != q) }) fun _ => rfl).trans ?_
  exact foldl_standing (fun s (e : Nat × Nat) => semAdd_standing s p e.1 e.2) _ _

theorem forgetWork_standing (s : State) (p q : Nat) (idxs : List Nat) : standing (forgetWork s p q idxs) = standing s := by
  let others := fun r : Remote => !(r.w.part == p && r.w.queue == q && idxs.contains r.w.idx)
  have forgotten := modPart_standing s p (fun P => { P with remotes := P.remotes.filter others }) fun _ => rfl
  exact standing_after forgotten

theorem abandonQueue_tears (s : State) (p q : Nat) : Tears s (abandonQueue s p q) := by
  unfold abandonQueue
  dsimp only
  refine .trans ?_ (modQueue_tears _ _ _ _ fun _ hc he => ⟨hc, he⟩)
  refine .trans (foldl_tears (fun s i => ?_) _ _)
    (tears_of_standing ((forgetWork_standing ..).trans (returnTokens_standing ..)))
  exact (tears_of_standing (freeRebuilt_standing s i)).trans (unhalt_tears ..)

/-- A queue halted with CAUSE 0x07 and disabled is torn down. -/
theorem tornDown_modQueue (s : State) (p q : Nat) :
    TornDown (modQueue s p q (fun x => { x with cause := 0x07, enable := false })) p q := by
  rw [TornDown, queueOf_modQueue_self]
  exact ⟨rfl, rfl⟩

theorem draw_standing (s : State) : standing (draw s) = standing s := standing_eq

theorem loosePointers_tears (s : State) (p q : Nat) : Tears s (loosePointers s p q) :=
  (modQueue_tears s p q (fun x => { x with
    head := Config.freeWord (4 * s.freeCtr) % 2 ^ 32, tail := Config.freeWord (4 * s.freeCtr + 1) % 2 ^ 32
    cprod := Config.freeWord (4 * s.freeCtr + 2) % 2 ^ 32, ccons := Config.freeWord (4 * s.freeCtr + 3) % 2 ^ 32
    frozen := none }) fun _ hc he => ⟨hc, he⟩).trans (tears_of_standing (draw_standing _))

theorem tearQueue_tears (s : State) (p q : Nat) : Tears s (tearQueue s p q) := by
  have halted : Tears s (modQueue (abandonQueue s p q) p q (fun x => { x with cause := 0x07, enable := false })) :=
    (abandonQueue_tears s p q).trans (modQueue_tears _ _ _ _ fun _ _ _ => ⟨rfl, rfl⟩)
  unfold tearQueue
  dsimp only
  split
  · exact halted.trans (loosePointers_tears ..)
  · exact halted

theorem tearQueue_torn (s : State) (p q : Nat) : TornDown (tearQueue s p q) p q := by
  unfold tearQueue
  dsimp only
  split
  · exact (loosePointers_tears ..).torn p q (tornDown_modQueue ..)
  · exact tornDown_modQueue ..

theorem handled_standing (s : State) (ctx : ErrContext) : standing (handled s ctx) = standing s := standing_eq

theorem teardown_tears (s : State) (p q level : Nat) : Tears s (teardown s p q level) :=
  (tearQueue_tears s p q).trans (tears_of_standing ((handled_standing ..).trans (report_standing ..)))

theorem teardown_torn (s : State) (p q level : Nat) : TornDown (teardown s p q level) p q :=
  (tears_of_standing ((handled_standing ..).trans (report_standing ..))).torn p q (tearQueue_torn s p q)

/-- Queues torn down one after the other all are. -/
theorem foldl_teardown_torn (p : Nat) (qs : List Nat) (s : State) {q : Nat} (hq : q ∈ qs) :
    TornDown (qs.foldl (fun s q => teardown s p q) s) p q := by
  induction qs generalizing s with
  | nil => cases hq
  | cons r qs ih =>
    rw [List.foldl_cons]
    rcases List.mem_cons.mp hq with rfl | hq
    · exact (foldl_tears (fun s q => teardown_tears s p q 2) qs (teardown s p q)).torn p q (teardown_torn s p q 2)
    · exact ih _ hq

/-! ## Resets of functions and links (R438) -/

theorem resetVf_tears (s : State) (p : Nat) : Tears s (resetVf s p) :=
  (tears_of_standing (modPart_standing s p (fun P => { P with barWait := [] }) fun _ => rfl)).trans
    (foldl_tears (fun s q => teardown_tears s p q 2) (hostQueues s p) _)

theorem resetVf_torn (s : State) {p q : Nat} (hq : q ∈ hostQueues s p) : TornDown (resetVf s p) p q :=
  foldl_teardown_torn p _ _ hq

theorem mem_hostQueues {s : State} {p q : Nat} : q ∈ hostQueues s p ↔ q < 64 ∧ bit (sliceOf s p).hostQ q = true := by
  simp [hostQueues, setBits]

theorem hostQueues_congr {s t : State} (h : t.comp = s.comp) (p : Nat) : hostQueues t p = hostQueues s p := by
  simp only [hostQueues, sliceOf, compOf, h]

theorem foldl_resetVf_torn (ps : List Nat) (s : State) {p q : Nat} (hp : p ∈ ps) (hq : q ∈ hostQueues s p) :
    TornDown (ps.foldl resetVf s) p q := by
  induction ps generalizing s with
  | nil => cases hp
  | cons r ps ih =>
    cases hp with
    | head => exact (foldl_tears resetVf_tears ps _).torn p q (resetVf_torn s hq)
    | tail _ hp => exact ih _ hp (by rwa [hostQueues_congr (resetVf_kept s r).2])

/-- The reset of a group's functions keeps its links and tears down the host queues of its virtual functions. -/
theorem resetFns_effect {s : State} (hr : ready s = true) (g : Nat) :
    (resetFns s g).power.links = s.power.links ∧
    ∀ p ∈ vfsOf s g, ∀ q, q < 64 → bit (sliceOf s p).hostQ q = true → TornDown (resetFns s g) p q := by
  have run : resetFns s g = (vfsOf s g).foldl resetVf { s with power := { s.power with fns := AMap.erase s.power.fns g } } :=
    if_pos hr
  rw [run]
  exact ⟨(foldl_tears resetVf_tears _ _).links, fun p hp q hq hb => foldl_resetVf_torn _ _ hp (mem_hostQueues.mpr ⟨hq, hb⟩)⟩

theorem hostLinkLoss_resets {s : State} (hr : ready s = true) (g : Nat) (down : Bool) (hu : linkUp s g = true) :
    ∃ t, exec (.hostLinkLoss ⟨g, down⟩) s = .next t ∧ linkUp t g = !down ∧
      ∀ p ∈ vfsOf s g, ∀ q, q < 64 → bit (sliceOf s p).hostQ q = true → TornDown t p q := by
  cases down with
  | false =>
    obtain ⟨hlinks, htorn⟩ := resetFns_effect hr g
    exact ⟨_, if_pos hu, (congrArg (·.contains g) hlinks).trans hu, htorn⟩
  | true =>
    obtain ⟨hlinks, htorn⟩ := resetFns_effect (s := modTs (failTierReads { s with power := { s.power with links := s.power.links.filter (· != g) } })
      32 (fun t => { t with frames := t.frames.filter (fun f => frameGroup f.frame.what != g) })) hr g
    refine ⟨_, if_pos hu, (congrArg (·.contains g) hlinks).trans ?_, htorn⟩
    simp [modTs, failTierReads]

theorem functionLevelReset_tears {s : State} {p : Nat} (hr : ready s = true) (hc : composed s p = true) (hv : (sliceOf s p).vf = true) :
    ∃ t, exec (.functionLevelReset p) s = .next t ∧ ∀ q, q < 64 → bit (sliceOf s p).hostQ q = true → TornDown t p q :=
  ⟨_, if_pos (by simp [hr, hc, hv]), fun _ hq hb => resetVf_torn s (mem_hostQueues.mpr ⟨hq, hb⟩)⟩

theorem queueIssueStateFault_tears {s : State} {p q : Nat} (hr : ready s = true) (hc : composed s p = true) (hq : q < 64) :
    ∃ t, exec (.queueIssueStateFault p q) s = .next t ∧ TornDown t p q :=
  ⟨_, if_pos (by simp [hr, hc, hq]), teardown_torn s p q 2⟩

theorem hostLinkUp_trains {s : State} (hr : ready s = true) {g rate lanes : Nat} (hc : s.comp.isSome = true) (hg : g < hostLinks s)
    (hu : linkUp s g = false) (h1 : 1 ≤ lanes) (h2 : lanes ≤ fullLanes s) :
    (16 ≤ rate → exec (.hostLinkUp g ⟨rate, lanes⟩) s = .next { s with power := { s.power with
      links := s.power.links ++ [g], rates := AMap.insert s.power.rates g rate, lanes := AMap.insert s.power.lanes g lanes } }) ∧
    (rate < 16 → exec (.hostLinkUp g ⟨rate, lanes⟩) s = .next (emitOut s (.linkReport g rate))) := by
  have trains : ((ready s || (s.life.sy == .boot && s.life.fail == 0 && decide (4 ≤ s.life.stepDone))) && s.comp.isSome &&
      decide (g < hostLinks s) && !linkUp s g && decide (1 ≤ lanes ∧ lanes ≤ fullLanes s)) = true := by
    simp [hr, hc, hg, hu, h1, h2]
  exact ⟨fun h => (if_pos trains).trans (if_neg (Nat.not_lt.mpr h)), fun h => (if_pos trains).trans (if_pos h)⟩

/-! ## Restarts (R443) -/

/-- What the restart of partition p keeps: absent cores, recorded failures, and the state and last cause of every other. -/
structure Spares (p : Nat) (s t : State) : Prop where
  ccAbsent  : t.life.ccAbsent = s.life.ccAbsent
  hwFailed  : t.flash.hwFailed = s.flash.hwFailed
  state     : ∀ k, k ≠ p → (partOf t k).state = (partOf s k).state
  lastCause : ∀ k, k ≠ p → (partOf t k).lastCause = (partOf s k).lastCause

theorem Spares.trans {p : Nat} {s t u : State} (h : Spares p s t) (k : Spares p t u) : Spares p s u :=
  ⟨k.ccAbsent.trans h.ccAbsent, k.hwFailed.trans h.hwFailed, fun q hq => (k.state q hq).trans (h.state q hq),
    fun q hq => (k.lastCause q hq).trans (h.lastCause q hq)⟩

theorem Tears.spares {s t : State} (h : Tears s t) (p : Nat) : Spares p s t :=
  ⟨h.ccAbsent, h.hwFailed, fun k _ => h.state k, fun k _ => h.lastCause k⟩

theorem setPart_spares (s : State) (p : Nat) (x : Part) : Spares p s (setPart s p x) :=
  ⟨rfl, rfl, fun _ hk => by rw [partOf_setPart_ne _ _ hk], fun _ hk => by rw [partOf_setPart_ne _ _ hk]⟩

theorem logFault_alike (s : State) (cause parts detail : Nat) : Alike s (logFault s cause parts detail) := logService_alike ..

theorem setEpochs_standing (s : State) (m : AMap Nat) : standing { s with flash := { s.flash with epochs := m } } = standing s :=
  standing_eq

theorem forgetPart_standing (s : State) (p : Nat) : standing (forgetPart s p) = standing s := standing_eq

/-- A partition that starts keeps the last cause that it starts with, and leaves the others alone. -/
theorem startPart_spares (s : State) (p : Nat) (P : Part) :
    Spares p s (startPart s p P) ∧ (partOf (startPart s p P) p).lastCause = P.lastCause := by
  unfold startPart
  dsimp only
  split
  · have logged := logFault_alike (setPart s p { P with state := .notStarted }) 2 (2 ^ p) 0
    refine ⟨(setPart_spares ..).trans ((tears_of_standing logged.standing).spares p), ?_⟩
    rw [logged.partOf, partOf_setPart_self]
  · exact ⟨Spares.trans ((tears_of_standing (setEpochs_standing s _)).spares p) (setPart_spares ..),
      by rw [partOf_setPart_self]⟩

theorem finishRestart_spares (s : State) (p : Nat) :
    Spares p s (finishRestart s p) ∧ (partOf (finishRestart s p) p).lastCause = (partOf s p).lastCause := by
  unfold finishRestart
  dsimp only
  have fenced : standing (dropDeviceConns (applyFence (endRequests s p) (selfParty s p) (selfParty s p).epoch) p) = standing s :=
    (dropDeviceConns_standing ..).trans ((applyFence_standing ..).trans (endRequests_standing ..))
  generalize dropDeviceConns (applyFence (endRequests s p) (selfParty s p) (selfParty s p).epoch) p = u at fenced ⊢
  obtain ⟨spares, cause⟩ := startPart_spares (forgetPart u p) p (freshPart (partOf u p))
  refine ⟨.trans ((tears_of_standing ((forgetPart_standing u p).trans fenced)).spares p) spares, ?_⟩
  exact cause.trans (lastCause_of_standing fenced p)

theorem continueRestart_spares (s : State) (p : Nat) :
    Spares p s (continueRestart s p) ∧ (partOf (continueRestart s p) p).lastCause = (partOf s p).lastCause := by
  unfold continueRestart
  split
  · exact finishRestart_spares s p
  · exact ⟨(Tears.refl s).spares p, rfl⟩

/-- A partition as step 1 of its restart leaves it. -/
def restarted (s : State) (p : Nat) (cause : RestartCause) : State :=
  let err : ErrRec := { code := 0x11, level := 3, part := p, detail := restartCode cause }
  let s1 := report s (some (.partition p)) (some p) true err
  let s2 := (listedQueues s1 p).foldl (fun s q => tearQueue s p q) s1
  let s3 := (partOf s p).attendInbox.foldl (fun s m => answerAttend s m St.noAttend []) s2
  modPart s3 p (fun P => { P with state := .restarting, resumeHeld := false, attendInbox := [], lastCause := restartCode cause
                                  queues := AMap.erase P.queues 64, rebuildIn := [] })

theorem restartPart_runs (s : State) (p : Nat) (cause : RestartCause) (h1 : (partOf s p).state ≠ .notStarted)
    (h2 : (partOf s p).state ≠ .restarting) : restartPart s p cause = continueRestart (restarted s p cause) p := by
  unfold restartPart
  dsimp only
  rw [if_neg h1, if_neg h2]
  rfl

theorem restarted_spares (s : State) (p : Nat) (cause : RestartCause) : Spares p s (restarted s p cause) := by
  unfold restarted
  dsimp only
  refine .trans ?_ (setPart_spares ..)
  refine Tears.spares ?_ p
  refine .trans ?_ (tears_of_standing (foldl_standing (fun s m => answerAttend_standing s m St.noAttend []) _ _))
  exact .trans (tears_of_standing (report_standing ..)) (foldl_tears (fun s q => tearQueue_tears s p q) _ _)

theorem restarted_lastCause (s : State) (p : Nat) (cause : RestartCause) :
    (partOf (restarted s p cause) p).lastCause = restartCode cause := by
  unfold restarted
  dsimp only
  rw [partOf_modPart_self]

theorem restartPart_spares (s : State) (p : Nat) (cause : RestartCause) : Spares p s (restartPart s p cause) := by
  by_cases h1 : (partOf s p).state = .notStarted
  · rw [restartPart, if_pos h1]
    exact (Tears.refl s).spares p
  · by_cases h2 : (partOf s p).state = .restarting
    · rw [restartPart, if_neg h1, if_pos h2]
      split
      · exact (tears_of_standing (report_standing ..)).spares p
      · exact (Tears.refl s).spares p
    · rw [restartPart_runs s p cause h1 h2]
      exact (restarted_spares s p cause).trans (continueRestart_spares ..).1

theorem restartPart_lastCause (s : State) (p : Nat) (cause : RestartCause) (h : (partOf s p).state = .running) :
    (partOf (restartPart s p cause) p).lastCause = restartCode cause := by
  rw [restartPart_runs s p cause (by simp [h]) (by simp [h]), (continueRestart_spares ..).2, restarted_lastCause]

/-- Partitions restarted one after the other: each that ran has the cause, and absent cores and recorded failures stay. -/
theorem foldl_restartPart (cause : RestartCause) (ps : List Nat) (s : State) (hn : ps.Nodup) :
    (ps.foldl (fun s p => restartPart s p cause) s).life.ccAbsent = s.life.ccAbsent ∧
    (ps.foldl (fun s p => restartPart s p cause) s).flash.hwFailed = s.flash.hwFailed ∧
    (∀ k, k ∉ ps → (partOf (ps.foldl (fun s p => restartPart s p cause) s) k).lastCause = (partOf s k).lastCause) ∧
    (∀ p ∈ ps, (partOf s p).state = .running →
      (partOf (ps.foldl (fun s p => restartPart s p cause) s) p).lastCause = restartCode cause) := by
  induction ps generalizing s with
  | nil => exact ⟨rfl, rfl, fun _ _ => rfl, fun _ h => absurd h (List.not_mem_nil)⟩
  | cons r ps ih =>
    obtain ⟨hr, hn⟩ := List.nodup_cons.mp hn
    obtain ⟨icc, ihw, iother, iin⟩ := ih (restartPart s r cause) hn
    have first := restartPart_spares s r cause
    refine ⟨icc.trans first.ccAbsent, ihw.trans first.hwFailed, fun k hk => ?_, fun p hp hs => ?_⟩
    · exact (iother k (List.not_mem_of_not_mem_cons hk)).trans (first.lastCause k (List.ne_of_not_mem_cons hk))
    · rcases List.mem_cons.mp hp with rfl | hp
      · exact (iother p hr).trans (restartPart_lastCause s p cause hs)
      · have hne : p ≠ r := fun e => hr (e ▸ hp)
        exact iin p hp ((first.state p hne).trans hs)

/-! ## Units that fail in operation (R42, R422) -/

/-- A unit's failure is recorded in flash; partitions, power and life stay. -/
theorem recordFailure_alike (s : State) (core : Bool) (n : Nat) :
    Alike { s with flash := { s.flash with hwFailed := s.flash.hwFailed ++
      [(core, if (if core then s.life.ccSpare else s.life.aeSpare) = some n then 16 else n)] } } (recordFailure s core n) := by
  unfold recordFailure
  dsimp only
  exact (errToLog_alike ..).after (logSpare_alike ..)

theorem coreFailure_restarts {s : State} (hr : ready s = true) {n : Nat} (hn : n < 16) (habs : n ∉ s.life.ccAbsent) :
    ∃ t, exec (.coreFailure n) s = .next t ∧ n ∈ t.life.ccAbsent ∧
      t.flash.hwFailed = s.flash.hwFailed ++ [(true, if s.life.ccSpare = some n then 16 else n)] ∧
      ∀ p, composed s p = true → bit (sliceOf s p).cores n = true → (partOf s p).state = .running → (partOf t p).lastCause = 2 := by
  have noted := recordFailure_alike { s with life := { s.life with ccAbsent := n :: s.life.ccAbsent } } true n
  have once : ((List.range 16).filter (fun p => composed s p && bit (sliceOf s p).cores n)).Nodup := List.nodup_range.filter _
  have hits : ∀ p, composed s p = true → bit (sliceOf s p).cores n = true →
      p ∈ (List.range 16).filter (fun p => composed s p && bit (sliceOf s p).cores n) := fun p hc hb => by
    have : p < 16 := by
      simp [composed] at hc
      omega
    simp [hc, hb, this]
  obtain ⟨hcc, hhw, -, hcause⟩ := foldl_restartPart .coreFailure _
    (recordFailure { s with life := { s.life with ccAbsent := n :: s.life.ccAbsent } } true n) once
  refine ⟨_, if_neg (by simp [hr, habs]; omega), ?_, hhw.trans noted.hwFailed, fun p hc hb hs => hcause p (hits p hc hb) ?_⟩
  · rw [hcc, noted.life]
    exact .head _
  · rw [noted.partOf]
    exact hs

/-- What an instruction that failed is found with. -/
theorem failWith_status_self {s : State} {w : IRef} {i : Issued} (st : Nat) (h : issuedOf s w = some i) :
    (issuedOf (failWith s w st) w).map (·.status) = some (some st) := by
  have failed : issuedOf (failWith s w st) w = _ :=
    issuedOf_modIssued_self (f := fun i => { i with status := some st, result := 0, effects := [] }) (fun _ => rfl) h
  rw [failed, changeIssued]
  split <;> rfl

theorem failWith_issued_ne (s : State) {w v : IRef} (st : Nat) (h : v ≠ w) : issuedOf (failWith s w st) v = issuedOf s v := by
  refine issuedOf_finish_ne s st 0 [] fun e => h ?_
  cases v
  cases w
  simpa using e

/-- Instructions failed one after the other: those found among them have the status. -/
theorem foldl_failWith_status (st : Nat) (v : IRef) (ws : List IRef) (s : State) (hs : (issuedOf s v).isSome = true)
    (h : v ∈ ws ∨ (issuedOf s v).map (·.status) = some (some st)) :
    (issuedOf (ws.foldl (fun s w => failWith s w st) s) v).map (·.status) = some (some st) := by
  induction ws generalizing s with
  | nil => exact h.resolve_left List.not_mem_nil
  | cons w ws ih =>
    obtain ⟨i, hi⟩ := Option.isSome_iff_exists.mp hs
    by_cases hw : v = w
    · subst hw
      have failed := failWith_status_self st hi
      refine ih _ ?_ (.inr failed)
      cases h : issuedOf (failWith s v st) v with
      | none => simp [h] at failed
      | some j => rfl
    · refine ih _ ?_ ?_
      · rw [failWith_issued_ne s st hw]
        exact hs
      · rw [failWith_issued_ne s st hw]
        exact h.imp_left fun hv => (List.mem_cons.mp hv).resolve_left hw

theorem foldl_failWith_frame (st : Nat) (ws : List IRef) (s : State) :
    (ws.foldl (fun s w => failWith s w st) s).life = s.life ∧ (ws.foldl (fun s w => failWith s w st) s).flash = s.flash := by
  induction ws generalizing s with
  | nil => exact ⟨rfl, rfl⟩
  | cons w ws ih => exact ih (failWith s w st)

theorem mem_of_find? {α : Type} {m : AMap α} {k : Nat} {v : α} (h : AMap.find? m k = some v) : (k, v) ∈ m := by
  induction m with
  | nil => cases h
  | cons e m ih =>
    obtain ⟨j, u⟩ := e
    simp only [AMap.find?] at h
    split at h
    · next hj =>
      cases h
      rw [hj]
      exact .head _
    · exact .tail _ (ih h)

/-- A queue with an issued instruction is one of those that its partition lists. -/
theorem queue_listed {P : Part} {q : Nat} {i : Issued} (h : i ∈ (queueOf P q).issued) : (q, queueOf P q) ∈ P.queues := by
  unfold queueOf AMap.getD at h ⊢
  split
  · next x hx => exact mem_of_find? hx
  · next hx =>
    rw [hx] at h
    cases h

/-- A started, unfinished ATTEND with local entries is one that a failed engine of its partition ends. -/
theorem mem_attendsOf {s : State} {p q : Nat} {i : Issued} (h : i ∈ (queueOf (partOf s p) q).issued) (hop : opcodeOf i.words = 0x20)
    (hs : i.started = true) (hn : i.status = none) (ha : i.aux = 0) (hl : localEntries s p i ≠ []) :
    (⟨p, q, i.idx⟩ : IRef) ∈ attendsOf s p := by
  unfold attendsOf
  refine List.mem_flatten.mpr ⟨_, List.mem_map.mpr ⟨_, queue_listed h, rfl⟩, List.mem_map.mpr ⟨i, List.mem_filter.mpr ⟨h, ?_⟩, rfl⟩⟩
  simp [hop, hs, hn, ha, hl]

theorem issuedOf_isSome {s : State} {p q : Nat} {i : Issued} (h : i ∈ (queueOf (partOf s p) q).issued) :
    (issuedOf s ⟨p, q, i.idx⟩).isSome = true := by
  rw [issuedOf, List.find?_isSome]
  exact ⟨i, h, by simp⟩

theorem engineFailure_ends {s : State} (hr : ready s = true) {n : Nat} (hn : n < 16) (habs : engineAbsent s n = false) :
    ∃ t, exec (.engineFailure n) s = .next t ∧ engineAbsent t n = true ∧
      t.flash.hwFailed = s.flash.hwFailed ++ [(false, if s.life.aeSpare = some n then 16 else n)] ∧
      ∀ p q i, composed s p = true → n ∈ enginesOf s p → i ∈ (queueOf (partOf s p) q).issued →
        opcodeOf i.words = 0x20 → i.started = true → i.status = none → i.aux = 0 → localEntries s p i ≠ [] →
        (issuedOf t ⟨p, q, i.idx⟩).map (·.status) = some (some St.absent) := by
  have noted := recordFailure_alike { s with life := { s.life with aeAbsent := n :: s.life.aeAbsent } } false n
  obtain ⟨hlife, hflash⟩ := foldl_failWith_frame St.absent
    (((List.range 16).filter (fun p => composed s p && (enginesOf s p).contains n)).map (attendsOf s)).flatten
    (recordFailure { s with life := { s.life with aeAbsent := n :: s.life.aeAbsent } } false n)
  refine ⟨_, if_neg (by simp [hr, habs]; omega), ?_, by rw [hflash]; exact noted.hwFailed, fun p q i hc he hi hop hs hst ha hl => ?_⟩
  · rw [engineAbsent, hlife, noted.life]
    simp
  · have here : p < 16 := by
      simp [composed] at hc
      omega
    have hit : p ∈ (List.range 16).filter (fun p => composed s p && (enginesOf s p).contains n) := by simp [hc, he, here]
    refine foldl_failWith_status St.absent _ _ _ ?_ (.inl ?_)
    · rw [issuedOf, noted.partOf]
      exact issuedOf_isSome (s := s) hi
    · exact List.mem_flatten.mpr ⟨_, List.mem_map.mpr ⟨p, hit, rfl⟩, mem_attendsOf hi hop hs hst ha hl⟩

/-! ## Escalation (R426) -/

/-- A record to a partition's queue and the log leaves everything of its partition but that queue. -/
theorem report_part (s : State) (p : Nat) (r : ErrRec) : ∃ f, Alike (modErrq s p f) (report s none (some p) true r) := by
  obtain ⟨f, h⟩ := errToPart_alike s p { r with time := s.now }
  refine ⟨f, ?_⟩
  unfold report errWrite
  exact (errToLog_alike ..).after h

theorem report_requestQueue (s : State) (p idx : Nat) (r : ErrRec) :
    requestQueue (report s none (some p) true r) p idx = requestQueue s p idx := by
  obtain ⟨f, h⟩ := report_part s p r
  simp only [requestQueue, recOf, h.partOf, modErrq, partOf_modPart_self]

/-- A state whose handlings of a context have ended. -/
def unhandled (s : State) (ctx : ErrContext) : State :=
  { s with counters := { s.counters with handling := s.counters.handling.filter (fun x => x.ctx != ctx) } }

theorem unhandled_alike (s : State) (ctx : ErrContext) : Alike s (unhandled s ctx) := alike_of_eq

/-- The record of a containment action that failed (R426, R480). -/
def escalation (ctx : ErrContext) : ErrRec :=
  { code := 0x12, level := levelOfCtx ctx + 1, part := partOfCtx ctx, detail := levelOfCtx ctx }

/-- A containment action that failed is recorded, and the next context acts. -/
theorem containmentTimeout_runs {s : State} (hr : ready s = true) {ctx : ErrContext} {why : MachineryError} {h : Handling}
    (hh : handlingIn s ctx = some h) (he : escalates s ctx h why = true) :
    execContainmentTimeout ⟨ctx, why⟩ s =
      .next (escalate (report (unhandled s ctx) none (some (partOfCtx ctx)) true (escalation ctx)) ctx) := by
  unfold execContainmentTimeout
  dsimp only
  rw [hh]
  exact if_pos (by simp [hr, he])

theorem escalate_request {s : State} {p idx q : Nat} (hq : requestQueue s p idx = some q) : TornDown (escalate s (.request p idx)) p q := by
  simp only [escalate, hq]
  exact teardown_torn ..

theorem escalate_queue {s : State} {p : Nat} (q : Nat) (hs : (partOf s p).state = .running) :
    (partOf (escalate s (.queue p q)) p).lastCause = 3 := restartPart_lastCause s p .escalation hs

theorem stopModule_stopped (s : State) (p : Nat) : (stopModule s p).life.sy = .stopped := rfl

theorem escalate_partition (s : State) (p : Nat) : (escalate s (.partition p)).life.sy = .stopped := stopModule_stopped ..

theorem containmentTimeout_escalates {s : State} (hr : ready s = true) {ctx : ErrContext} {why : MachineryError} {h : Handling}
    (hh : handlingIn s ctx = some h) (he : escalates s ctx h why = true) :
    ∃ t, exec (.containmentTimeout ⟨ctx, why⟩) s = .next t ∧
      (∀ p idx q, ctx = .request p idx → requestQueue s p idx = some q → TornDown t p q) ∧
      (∀ p q, ctx = .queue p q → (partOf s p).state = .running → (partOf t p).lastCause = 3) ∧
      (∀ p, ctx = .partition p → t.life.sy = .stopped) := by
  have kept := unhandled_alike s ctx
  refine ⟨_, containmentTimeout_runs hr hh he, ?_, ?_, ?_⟩
  · rintro p idx q rfl hq
    refine escalate_request ?_
    rw [partOfCtx, report_requestQueue, ← hq]
    simp only [requestQueue, recOf, kept.partOf]
  · rintro p q rfl hs
    refine escalate_queue q ?_
    rw [state_of_standing (report_standing ..), kept.partOf]
    exact hs
  · rintro p rfl
    exact escalate_partition ..

/-- Settles O52, unit by unit: functions and links, queues, containment actions, engines and cores, and SY. -/
theorem failuresAreContained : Obligations.FailuresAreContained := by
  refine ⟨fun s hr => ⟨fun p hc hv => functionLevelReset_tears hr hc hv, fun g down hu => hostLinkLoss_resets hr g down hu,
    fun g rate lanes hc hg hu h1 h2 => hostLinkUp_trains hr hc hg hu h1 h2, fun p q hc hq => queueIssueStateFault_tears hr hc hq,
    fun ctx why h hh he => containmentTimeout_escalates hr hh he, fun n hn habs => ?_,
    fun n hn habs => coreFailure_restarts hr hn habs⟩, fun s hs => ?_⟩
  · obtain ⟨t, run, absent, failed, ends⟩ := engineFailure_ends hr hn habs
    exact ⟨t, run, absent, failed, fun p q i hc he hi hop hst hn ha hl _ => ends p q i hc he hi hop hst hn ha hl⟩
  · refine ⟨stopModule s 0, if_neg hs, rfl, fun kept => ?_, fun lost => ?_, fun g => rfl, fun a => rfl⟩
    · simp [stopModule, kept, quietPorts, draw]
    · simp [stopModule, lost, quietPorts, draw]

end Sys2Proof.Machine
end

section
/-! PROOFS. Error records, memory writes and messages: what they leave alone of the home. -/

namespace Sys2Proof.Machine

open Sys2Proof.Safety

theorem foldl_home {α : Type} {f : State → α → State} (h : ∀ s a, (f s a).home = s.home) (l : List α) (s : State) :
    (l.foldl f s).home = s.home := by
  induction l generalizing s with
  | nil => rfl
  | cons a l ih => rw [List.foldl_cons, ih, h]

/-! ## The logs (R464, R485) -/

@[simp] theorem raisePfs_home (s : State) (vector : Nat) : (raisePfs s vector).home = s.home :=
  foldl_home (f := fun s g => emitOut s (.msix g none vector)) (fun _ _ => rfl) _ _

@[simp] theorem raiseVf_home (s : State) (p vector : Nat) : (raiseVf s p vector).home = s.home := by
  unfold raiseVf
  split <;> rfl

@[simp] theorem errToLog_home (s : State) (r : ErrRec) : (errToLog s r).1.home = s.home := by
  unfold errToLog
  dsimp only
  rw [countEv_home, raisePfs_home]
  split <;> rfl

@[simp] theorem logService_home (s : State) (etype : Nat) (body : List Byte) : (logService s etype body).home = s.home := by
  unfold logService
  dsimp only
  split <;> rfl

@[simp] theorem logSpare_home (s : State) (kind unit index : Nat) : (logSpare s kind unit index).home = s.home :=
  logService_home ..

/-! ## Memory and host memory (R394 to R397, R438) -/

@[simp] theorem countCorrection_home (s : State) (c pin : Nat) : (countCorrection s c pin).home = s.home := by
  unfold countCorrection
  dsimp only
  split
  · simp
  · split
    · simp
    · split <;> simp

@[simp] theorem countWord_home (s : State) (a : Nat) (noise : WordError) : (countWord s a noise).home = s.home := by
  unfold countWord
  split
  · exact foldl_home (fun _ _ => countCorrection_home ..) _ _
  · rfl

@[simp] theorem endRuns_home (s : State) (a n : Nat) : (endRuns s a n).home = s.home := by
  unfold endRuns
  split
  · rfl
  · exact foldl_home (fun _ _ => modChan_home ..) _ _

@[simp] theorem writeWord_home (s : State) (w off : Nat) (bs : List Byte) : (writeWord s w off bs).1.home = s.home := by
  unfold writeWord
  split
  · rfl
  · split
    · rfl
    · exact countWord_home s w []

@[simp] theorem devWriteWords_home (s : State) (a : Nat) (bs : List Byte) (ws : List Nat) :
    (devWriteWords s a bs ws).1.home = s.home := by
  induction ws generalizing s with
  | nil => rfl
  | cons w ws ih => exact (ih _).trans (writeWord_home ..)

@[simp] theorem devWrite_home (s : State) (a : Nat) (bs : List Byte) : (devWrite s a bs).1.home = s.home := by
  unfold devWrite
  dsimp only
  split
  · exact endRuns_home ..
  · exact (devWriteWords_home ..).trans (endRuns_home ..)

theorem hostWrite_home {s t : State} {g a : Nat} {bs : List Byte} (h : hostWrite s g a bs = some t) : t.home = s.home := by
  unfold hostWrite at h
  split at h
  · cases h
    rfl
  · cases h

theorem hostPost_home {s t : State} {g a : Nat} {bs : List Byte} (h : hostPost s g a bs = some t) : t.home = s.home := by
  obtain ⟨u, hu, rfl⟩ := Option.map_eq_some_iff.mp h
  exact (hostWrite_home hu : u.home = s.home)

theorem ringWrite_home {s t : State} {p g a : Nat} {host : Bool} {bs : List Byte} (h : ringWrite s p host g a bs = some t) :
    t.home = s.home := by
  unfold ringWrite at h
  split at h
  · exact hostPost_home h
  · split at h
    · dsimp only at h
      split at h <;> cases h
      exact devWrite_home s a bs
    · cases h

/-! ## Error records (R479 to R485) -/

@[simp] theorem errLost_home (s : State) (p : Nat) : (errLost s p).home = s.home := rfl

@[simp] theorem errToPart_home (s : State) (p : Nat) (r : ErrRec) : (errToPart s p r).1.home = s.home := by
  unfold errToPart
  dsimp only
  split
  · rfl
  · split
    · rfl
    · next h =>
      rw [countEv_home, raiseVf_home, modErrq_home]
      exact ringWrite_home h

@[simp] theorem errWrite_home (s : State) (toPart : Option Nat) (toLog : Bool) (r : ErrRec) :
    (errWrite s toPart toLog r).1.home = s.home := by
  unfold errWrite
  cases toPart <;> cases toLog <;> simp

@[simp] theorem report_home (s : State) (ctx : Option ErrContext) (toPart : Option Nat) (toLog : Bool) (r : ErrRec) :
    (report s ctx toPart toLog r).home = s.home := by
  unfold report
  dsimp only
  split
  · exact errWrite_home ..
  · split
    · split
      · split
        · exact errLost_home ..
        · rfl
      · exact errWrite_home ..
    · exact errWrite_home ..

/-! ## Ports (R308 to R320) -/

@[simp] theorem stampHead_home (s : State) (port : Nat) (l : Leaf) : (stampHead s port l).home = s.home := by
  unfold stampHead
  dsimp only
  split
  · rfl
  · split <;> rfl

@[simp] theorem park_home (s : State) (port part tc : Nat) (k : Parked) : (park s port part tc k).home = s.home := by
  cases k <;> rfl

@[simp] theorem examine_home (s : State) (port part tc : Nat) : (examine s port part tc).home = s.home := by
  unfold examine
  dsimp only
  split
  · rfl
  · split
    · rfl
    · split <;> exact park_home ..

@[simp] theorem enqueueFrame_home (s : State) (port part tc : Nat) (req : Option Nat) (f : TxFrame) :
    (enqueueFrame s port part tc req f).home = s.home := by
  unfold enqueueFrame
  dsimp only
  split <;> simp

@[simp] theorem enqueue_home (s : State) (port part tc : Nat) (req : Option Nat) (len : Nat) (what : Out) :
    (enqueue s port part tc req len what).home = s.home := enqueueFrame_home ..

/-! ## Device messages (R23, R98, R342, R350, R365, R378) -/

/-- A dead device message is reported, and nothing of the home changes; a dead transaction of a copy would be noted there. -/
theorem deadTxn_home (s : State) {t : Txn} {o : Out} (h : t.dev = some o) : (deadTxn s t).home = s.home := by
  unfold deadTxn
  dsimp only
  rw [h]
  exact report_home ..

theorem launchTxn_home (s : State) {t : Txn} {o : Out} (h : t.dev = some o) (frames : List TxFrame) :
    (launchTxn s t frames).home = s.home := by
  unfold launchTxn
  dsimp only
  split
  · exact deadTxn_home s (t := { t with tag := 0x10000 }) h
  · exact foldl_home (fun _ _ => enqueueFrame_home ..) _ _

theorem sendTxn_home (s : State) {t : Txn} {o : Out} (h : t.dev = some o) (frames : List TxFrame) :
    (sendTxn s t frames).home = s.home := by
  unfold sendTxn
  split
  · rfl
  · exact launchTxn_home s h frames

@[simp] theorem sendConnMsg_home (s : State) (n op : Nat) (c : Conn) (r : ConnRecord) : (sendConnMsg s n op c r).home = s.home := by
  unfold sendConnMsg
  dsimp only
  split
  · rfl
  · exact enqueueFrame_home ..

@[simp] theorem sendOpen_home (s : State) (n : Nat) : (sendOpen s n).home = s.home := sendConnMsg_home ..

@[simp] theorem makeRoom_home (s : State) : (makeRoom s).home = s.home := by
  unfold makeRoom
  split
  · rfl
  · split
    · next e _ =>
      rw [modConn_home]
      cases h : hostPost (draw s) (partOf s e.2.part).connHostFn (hostTableAddr s e.1 e.2)
        ((List.range 256).map (Config.freeByte s.freeCtr)) with
      | none => rfl
      | some t =>
        show t.home = (draw s).home
        exact hostPost_home h
    · rfl

@[simp] theorem deviceConn_home (s : State) (p tpart : Nat) (dest : Nat × Nat) : (deviceConn s p tpart dest).1.home = s.home := by
  unfold deviceConn peerConn
  split
  · rfl
  · split
    · rfl
    · exact (sendOpen_home ..).trans (makeRoom_home ..)

/-- A device message leaves the home as it stands, on whatever way it goes. -/
@[simp] theorem sendMsg_home (s : State) (p tc : Nat) (dest : Nat × Nat) (tpart len : Nat) (o : Out) (req : Option Nat) :
    (sendMsg s p tc dest tpart len o req).home = s.home := by
  have opened : (deviceConn (draw s) p tpart dest).1.home = s.home := deviceConn_home ..
  unfold sendMsg
  dsimp only
  split
  · rfl
  · split
    · exact sendTxn_home _ rfl _
    · split
      · next h =>
        rw [h] at opened
        exact opened
      · next h =>
        rw [h] at opened
        exact opened

@[simp] theorem sendTrapeze_home (s : State) (p : Nat) (dest : Nat × Nat) (m : TMsg) : (sendTrapeze s p dest m).home = s.home :=
  sendMsg_home ..

@[simp] theorem tellParty_home (s : State) (g : Nat) (to_ : Party) (m : TMsg) : (tellParty s g to_ m).home = s.home :=
  sendTrapeze_home ..

end Sys2Proof.Machine
end

section
/-! PROOFS. Frame records, free places, and allocation at the home (O17). -/

namespace Sys2Proof.Machine

open Sys2Proof.Safety

/-! ## Frame records (R55, R107, R114) -/

theorem frameAt_of_frames {s t : State} (h : t.home.frames = s.home.frames) (g : Nat) : frameAt t g = frameAt s g := by
  rw [frameAt, frameAt, h]

theorem frameAt_of_home {s t : State} (h : t.home = s.home) (g : Nat) : frameAt t g = frameAt s g :=
  frameAt_of_frames (by rw [h]) g

@[simp] theorem frameAt_transition_self (s : State) (g : Nat) (f : Frame) (event : Nat) :
    frameAt (transition s g f event) g = f := frameAt_setFrame_self ..

theorem frameAt_transition_ne (s : State) {g k : Nat} (f : Frame) (event : Nat) (h : k ≠ g) :
    frameAt (transition s g f event) k = frameAt s k := frameAt_setFrame_ne _ _ h

/-! ## Free places (R53) -/

theorem runFree_iff {s : State} {lo hi k g : Nat} : runFree s lo hi k g = true ↔
    g % k = 0 ∧ lo ≤ g ∧ g + k ≤ hi ∧
      ∀ e ∈ s.home.frames, e.2.state = .free ∨ g + k ≤ e.1 ∨ e.1 + frameGranules e.2 ≤ g := by
  simp [runFree, and_assoc]

/-- The multiple of k less than k above a is a rounded up. -/
theorem alignUp_eq {a k g : Nat} (hg : g % k = 0) (ha : a ≤ g) (hk : g < a + k) : alignUp a k = g := by
  have pos : 0 < k := by omega
  obtain ⟨q, rfl⟩ := Nat.dvd_of_mod_eq_zero hg
  have rounded : (a + k - 1) / k = q := Nat.div_eq_of_lt_le (by rw [Nat.mul_comm]; omega) (by rw [Nat.succ_mul, Nat.mul_comm]; omega)
  rw [alignUp, ceilDiv, if_neg pos.ne', rounded, Nat.mul_comm]

/-- The places that the search of `lowestRun` looks at: where the region begins, and where each frame in use ends. -/
def placesTried (s : State) (lo k : Nat) : List Nat :=
  alignUp lo k :: (s.home.frames.filter (fun e => e.2.state != .free)).map (fun e => alignUp (e.1 + frameGranules e.2) k)

/-- One step of the search for the lowest: the lesser of the place found and the next. -/
def lesserPlace (a : Option Nat) (g : Nat) : Option Nat := match a with
  | none => some g
  | some b => some (min b g)

theorem foldl_lesserPlace (l : List Nat) : l.foldl lesserPlace none = l.min? := by
  cases l with
  | nil => rfl
  | cons a l =>
    rw [List.min?_cons', List.foldl_cons]
    induction l generalizing a with
    | nil => rfl
    | cons b l ih => exact ih (min a b)

theorem lowestRun_eq_min? (s : State) (lo hi k : Nat) :
    lowestRun s lo hi k = ((placesTried s lo k).filter (runFree s lo hi k)).min? := foldl_lesserPlace _

theorem runFree_of_lowestRun {s : State} {lo hi k g : Nat} (h : lowestRun s lo hi k = some g) : runFree s lo hi k g = true := by
  rw [lowestRun_eq_min?] at h
  exact (List.mem_filter.mp (List.min?_mem h)).2

/-- The lowest free place is one that the search looks at: one step below it the region or a frame in use is in the way. -/
theorem lowest_mem_placesTried {s : State} {lo hi k g : Nat} (hg : runFree s lo hi k g = true)
    (below : ∀ x < g, runFree s lo hi k x = false) (hk : 0 < k) : g ∈ placesTried s lo k := by
  obtain ⟨aligned, hlo, hhi, clear⟩ := runFree_iff.mp hg
  by_cases first : g < lo + k
  · exact alignUp_eq aligned hlo first ▸ List.mem_cons_self
  · have taken : ¬ runFree s lo hi k (g - k) = true := by simp [below (g - k) (by omega)]
    have inside : (g - k) % k = 0 ∧ lo ≤ g - k ∧ g - k + k ≤ hi := by
      rw [← Nat.mod_eq_sub_mod (by omega)]
      omega
    simp only [runFree_iff, inside, true_and, not_forall, not_or] at taken
    obtain ⟨e, he, used, starts, ends⟩ := taken
    have before : e.1 + frameGranules e.2 ≤ g := by
      have := (clear e he).resolve_left used
      omega
    refine List.mem_cons_of_mem _ (List.mem_map.mpr ⟨e, List.mem_filter.mpr ⟨he, by simpa using used⟩, ?_⟩)
    exact alignUp_eq aligned before (by omega)

theorem lowestRun_isSome {s : State} {lo hi k g : Nat} (hg : runFree s lo hi k g = true) (hk : 0 < k) :
    ∃ x, lowestRun s lo hi k = some x := by
  have free : ∃ x, runFree s lo hi k x = true := ⟨g, hg⟩
  have below : ∀ x < Nat.find free, runFree s lo hi k x = false := fun x hx => by simpa using Nat.find_min free hx
  have tried := lowest_mem_placesTried (Nat.find_spec free) below hk
  refine Option.ne_none_iff_exists'.mp fun none => ?_
  rw [lowestRun_eq_min?, List.min?_eq_none_iff] at none
  exact List.not_mem_nil (none ▸ List.mem_filter.mpr ⟨tried, Nat.find_spec free⟩)

theorem runFree_of_chooseRun {s : State} {lo hi k g : Nat} (h : chooseRun s lo hi k = some g) : runFree s lo hi k g = true := by
  unfold chooseRun at h
  dsimp only at h
  split at h
  · next pick =>
    cases h
    exact pick
  · exact runFree_of_lowestRun h

theorem chooseRun_isSome {s : State} {lo hi k g : Nat} (hg : runFree s lo hi k g = true) (hk : 0 < k) :
    ∃ x, chooseRun s lo hi k = some x := by
  unfold chooseRun
  dsimp only
  split
  · exact ⟨_, rfl⟩
  · exact lowestRun_isSome hg hk

theorem chooseRun_eq_none {s : State} {lo hi k : Nat} (h : ∀ g, runFree s lo hi k g = false) : chooseRun s lo hi k = none := by
  refine Option.eq_none_iff_forall_ne_some.mpr fun g hg => ?_
  simpa [h g] using runFree_of_chooseRun hg

/-! ## Allocation (R53, R54, R55, R213) -/

theorem allocFrame_eq {s : State} {lo hi size g : Nat} (h : chooseRun s lo hi (2 ^ size) = some g) (mk : Nat → Frame) (event : Nat) :
    allocFrame s lo hi size mk event =
      some (transition (draw s) g (mk (frameAt s g).gen) event, mkHandle (me s) (frameAt s g).gen g) := by
  rw [allocFrame, h]

theorem allocFrame_eq_none {s : State} {lo hi size : Nat} (h : chooseRun s lo hi (2 ^ size) = none) (mk : Nat → Frame) (event : Nat) :
    allocFrame s lo hi size mk event = none := by
  rw [allocFrame, h]

/-- What an allocation can do: it takes a free place, which it gives its record and journals. -/
theorem allocFrame_cases {s t : State} {lo hi size event h : Nat} {mk : Nat → Frame}
    (e : allocFrame s lo hi size mk event = some (t, h)) :
    ∃ g, runFree s lo hi (2 ^ size) g = true ∧ t = transition (draw s) g (mk (frameAt s g).gen) event ∧
      h = mkHandle (me s) (frameAt s g).gen g := by
  cases chosen : chooseRun s lo hi (2 ^ size) with
  | none =>
    rw [allocFrame_eq_none chosen] at e
    cases e
  | some g =>
    rw [allocFrame_eq chosen] at e
    cases e
    exact ⟨g, runFree_of_chooseRun chosen, rfl, rfl⟩

/-- Every handle asked for is in the answer to an allocation that succeeds. -/
theorem allocFrames_length {lo hi size n : Nat} {mk : Nat → Frame} {s : State} {hs all : List Nat}
    (h : (allocFrames lo hi size mk n s hs).2 = some all) : all.length = hs.length + n := by
  induction n generalizing s hs with
  | zero =>
    cases h
    rfl
  | succ n ih =>
    rw [allocFrames] at h
    split at h
    · cases h
    · rw [ih h, List.length_append, List.length_singleton, Nat.add_assoc, Nat.add_comm 1]

theorem allocFrames_one {s : State} {lo hi size g : Nat} (h : chooseRun s lo hi (2 ^ size) = some g) (mk : Nat → Frame) :
    allocFrames lo hi size mk 1 s [] =
      (transition (draw s) g (mk (frameAt s g).gen) 0x01, some [mkHandle (me s) (frameAt s g).gen g]) := by
  rw [allocFrames, allocFrame_eq h]
  rfl

theorem allocFrames_one_none {s : State} {lo hi size : Nat} (h : chooseRun s lo hi (2 ^ size) = none) (mk : Nat → Frame) :
    allocFrames lo hi size mk 1 s [] = (s, none) := by
  rw [allocFrames, allocFrame_eq_none h]
  rfl

/-! ## ALLOC_AT_HOME (R94, R213) -/

/-- A message in its turn passes the check with which the row of every message begins (R36, R37). -/
theorem inTurn_goes {s : State} {o : Out} (h : InTurn s o) : ¬ (!ready s || !nocFirst s o) = true := by
  obtain ⟨up, first⟩ := h
  simp [up, first]

/-- The record that an ALLOC asks for, at a tag. -/
def askedFrame (m : AllocMsg) (gen : Nat) : Frame :=
  { state := .open_, sizeLog2 := m.sizeLog2, flags := m.flags, gen := gen, owner := m.owner }

/-- What the home makes of an ALLOC whose claimant passes: the frames in the main region of its partition. -/
def allocAsked (s : State) (m : AllocMsg) : State × Option (List Nat) :=
  allocFrames (mainRegion s m.part).1 (mainRegion s m.part).2 m.sizeLog2 (askedFrame m) m.count s []

theorem allocAtHome_claimFails {s : State} {m : AllocMsg} {st : Nat} (h : InTurn s (.allocMsg m))
    (hc : claimCheck (takeNoc s (.allocMsg m)) m.owner = some st) :
    exec (.allocAtHome m) s = .next (allocReplyTo (takeNoc s (.allocMsg m)) m st []) := by
  show execAllocAtHome m s = _
  unfold execAllocAtHome
  rw [if_neg (inTurn_goes h)]
  dsimp only
  rw [hc]

theorem allocAtHome_claimPasses {s : State} {m : AllocMsg} (h : InTurn s (.allocMsg m))
    (hc : claimCheck (takeNoc s (.allocMsg m)) m.owner = none) :
    exec (.allocAtHome m) s =
      let s0 := takeNoc s (.allocMsg m)
      let a := allocAsked s0 m
      if composed s0 m.part = true then .next (allocReplyTo a.1 m (if a.2.isSome then St.ok else St.noSpace) (a.2.getD []))
      else .next (allocReplyTo s0 m St.noSpace []) := by
  show execAllocAtHome m s = _
  unfold execAllocAtHome allocAsked askedFrame
  rw [if_neg (inTurn_goes h)]
  dsimp only
  rw [hc]
  dsimp only
  cases hp : composed (takeNoc s (.allocMsg m)) m.part with
  | false => rfl
  | true =>
    rw [if_neg (show ¬ (!true) = true by decide), if_pos rfl]
    split
    · next all =>
      rw [all]
      rfl
    · next none =>
      rw [none]
      rfl

theorem allocAtHome_absent {s : State} {m : AllocMsg} (h : InTurn s (.allocMsg m))
    (hc : claimCheck (takeNoc s (.allocMsg m)) m.owner = none) (hp : composed (takeNoc s (.allocMsg m)) m.part = false) :
    exec (.allocAtHome m) s = .next (allocReplyTo (takeNoc s (.allocMsg m)) m St.noSpace []) := by
  rw [allocAtHome_claimPasses h hc]
  exact if_neg (by simp [hp])

theorem allocAtHome_runs {s t : State} {m : AllocMsg} {a : Option (List Nat)} (h : InTurn s (.allocMsg m))
    (hc : claimCheck (takeNoc s (.allocMsg m)) m.owner = none) (hp : composed (takeNoc s (.allocMsg m)) m.part = true)
    (ha : allocAsked (takeNoc s (.allocMsg m)) m = (t, a)) :
    exec (.allocAtHome m) s = .next (allocReplyTo t m (if a.isSome then St.ok else St.noSpace) (a.getD [])) := by
  rw [allocAtHome_claimPasses h hc]
  dsimp only
  rw [if_pos hp, ha]

/-- Settles O17: the search finds a place where there is one, and an allocation writes the record of its place alone. -/
theorem allocTakesFreeFrames : Obligations.AllocTakesFreeFrames := by
  refine ⟨fun s m h => ⟨fun st hc => allocAtHome_claimFails h hc, fun hc hp => allocAtHome_absent h hc hp,
    fun hc hp one place => ?_, fun hc hp one full => ?_, fun hc hp hs all => ⟨?_, ?_⟩, fun hc hp none => ?_⟩,
    fun s t lo hi size event h mk e => ?_⟩
  · obtain ⟨x, hx⟩ := place
    obtain ⟨g, chosen⟩ := chooseRun_isSome hx (Nat.two_pow_pos _)
    have asked := allocFrames_one chosen (askedFrame m)
    rw [← one] at asked
    have ran := allocAtHome_runs h hc hp asked
    exact ⟨_, g, ran, runFree_of_chooseRun chosen, frameAt_transition_self ..,
      fun k hk => frameAt_transition_ne _ _ _ hk⟩
  · have asked := allocFrames_one_none (chooseRun_eq_none full) (askedFrame m)
    rw [← one] at asked
    have ran := allocAtHome_runs h hc hp asked
    exact ran
  · exact allocAtHome_runs (a := some hs) h hc hp (Prod.ext rfl all)
  · simpa using allocFrames_length all
  · exact allocAtHome_runs (a := Option.none) h hc hp (Prod.ext rfl none)
  · obtain ⟨g, free, rfl, rfl⟩ := allocFrame_cases e
    obtain ⟨aligned, hlo, hhi, -⟩ := runFree_iff.mp free
    exact ⟨g, free, aligned, hlo, hhi, frameAt_transition_self .., rfl, fun k hk => frameAt_transition_ne _ _ _ hk⟩

end Sys2Proof.Machine
end

section
/-! PROOFS. SEAL, and FREE that counts references down (O18). -/

namespace Sys2Proof.Machine

open Sys2Proof.Safety

/-! ## What FREE makes of a frame (R63, R107) -/

@[simp] theorem freeReplyTo_home (s : State) (m : FreeMsg) (refs granules : Nat) : (freeReplyTo s m refs granules).home = s.home :=
  sendMsg_home ..

@[simp] theorem frameAt_freeFrame_self (s : State) (g event : Nat) :
    frameAt (freeFrame s g event) g = { gen := nextGen (frameAt s g).gen } := frameAt_transition_self ..

theorem freeAt_open {s : State} {h : Nat} {x : Party} (hs : (frameAt s (hFrame h)).state = .open_)
    (ho : (frameAt s (hFrame h)).owner = x) : freeAt s h x = (freeFrame s (hFrame h) 0x08, St.ok, 0) := by
  simp [freeAt, hs, ho]

theorem freeAt_pinned {s : State} {h : Nat} (x : Party) (hs : (frameAt s (hFrame h)).state = .sealed)
    (hr : (frameAt s (hFrame h)).refs = 65535) : freeAt s h x = (s, St.ok, 65535) := by
  simp [freeAt, hs, hr]

theorem freeAt_counts {s : State} {h : Nat} (x : Party) (hs : (frameAt s (hFrame h)).state = .sealed)
    (h1 : 1 < (frameAt s (hFrame h)).refs) (h2 : (frameAt s (hFrame h)).refs < 65535) :
    freeAt s h x = (setFrame s (hFrame h) { frameAt s (hFrame h) with refs := (frameAt s (hFrame h)).refs - 1 }, St.ok,
      (frameAt s (hFrame h)).refs - 1) := by
  simp [freeAt, hs, h1, h2.ne]

theorem freeAt_last {s : State} {h : Nat} (x : Party) (hs : (frameAt s (hFrame h)).state = .sealed)
    (hr : (frameAt s (hFrame h)).refs ≤ 1) (hm : migrationOf s (hFrame h) true = none) :
    freeAt s h x = (freeFrame s (hFrame h) 0x08, St.ok, 0) := by
  have few : (frameAt s (hFrame h)).refs ≠ 65535 := by omega
  simp [freeAt, hs, hr.not_gt, few, endCopy, hm]

/-! ## The rows (R94, R107, R134) -/

theorem sealAtHome_seals {s : State} {m : SealMsg} (h : InTurn s (.sealMsg (me s) m))
    (hc : claimStatus (judged s (.sealMsg (me s) m) m.handle) m.handle m.src true = none)
    (hf : (frameAt (judged s (.sealMsg (me s) m) m.handle) (hFrame m.handle)).state = .open_ ∧
      (frameAt (judged s (.sealMsg (me s) m) m.handle) (hFrame m.handle)).owner = m.src) :
    exec (.sealAtHome m) s =
      let s0 := judged s (.sealMsg (me s) m) m.handle
      let f := frameAt s0 (hFrame m.handle)
      .next (replyTo (transition s0 (hFrame m.handle)
        { f with state := .sealed, refs := 1, hash := m.hashLo + m.hashHi * 2 ^ 64, owner := ⟨0, 0, 0, 0⟩, lastRead := s0.now } 0x07)
        m.src m.tag m.handle St.ok ⟨0, 0, 0, 0⟩ 0 f.flags) := by
  show execSealAtHome m s = _
  unfold execSealAtHome
  rw [if_neg (inTurn_goes h)]
  dsimp only
  rw [hc]
  exact if_pos hf

/-- A FREE whose claimant passes the checks, of a block that is not being read, and which carries it out: the home is as `freeAt`
leaves it. -/
theorem freeAtHome_home {s t : State} {m : FreeMsg} {refs : Nat} (h : InTurn s (.freeMsg (me s) m)) (ha : m.add = false)
    (hb : beingRead s (hFrame m.handle) = false)
    (hc : claimStatus (judged s (.freeMsg (me s) m) m.handle) m.handle m.src false = none)
    (hf : freeAt (judged s (.freeMsg (me s) m) m.handle) m.handle m.src = (t, St.ok, refs)) :
    ∃ u, exec (.freeAtHome m) s = .next u ∧ u.home = t.home := by
  show ∃ u, execFreeAtHome m s = _ ∧ _
  unfold execFreeAtHome
  rw [if_neg (inTurn_goes h), if_neg (by simp [hb]), if_neg (by simp [ha])]
  dsimp only
  rw [hc]
  dsimp only
  rw [hf]
  exact ⟨_, if_pos rfl, freeReplyTo_home ..⟩

/-- Settles O18: the four outcomes of `freeAt`, of which the answer leaves the frames as they are. -/
theorem sealAndFreeCountReferences : Obligations.SealAndFreeCountReferences := by
  refine ⟨fun s m h hc hs ho => sealAtHome_seals h hc ⟨hs, ho⟩, fun s m h ha hb hc => ?_⟩
  have frees {t : State} {refs : Nat} {f : Frame}
      (hf : freeAt (judged s (.freeMsg (me s) m) m.handle) m.handle m.src = (t, St.ok, refs))
      (ht : frameAt t (hFrame m.handle) = f) : ∃ u, exec (.freeAtHome m) s = .next u ∧ frameAt u (hFrame m.handle) = f := by
    obtain ⟨u, run, kept⟩ := freeAtHome_home h ha hb hc hf
    exact ⟨u, run, (frameAt_of_home kept _).trans ht⟩
  refine ⟨fun hs h1 h2 => ?_, fun hs hr hm => ?_, fun hs hr => ?_, fun hs ho => ?_⟩
  · exact frees (freeAt_counts _ hs h1 h2) (frameAt_setFrame_self ..)
  · exact frees (freeAt_last _ hs hr hm) (frameAt_freeFrame_self ..)
  · exact frees (freeAt_pinned _ hs hr) rfl
  · exact frees (freeAt_open hs ho) (frameAt_freeFrame_self ..)

end Sys2Proof.Machine
end

section
/-! PROOFS. Demotion to the cold region and to the host window (O48). -/

namespace Sys2Proof.Machine

open Sys2Proof.Safety

/-! ## A block moved to its new place (R79) -/

theorem forwardOf_of_home {s t : State} (h : t.home = s.home) (k : Nat) : forwardOf t k = forwardOf s k := by
  rw [forwardOf, forwardOf, h]

theorem handleOf_of_home {s t : State} (h : t.home = s.home) (hc : t.comp = s.comp) (g : Nat) : handleOf t g = handleOf s g := by
  simp only [handleOf, frameAt_of_home h, me, compOf, hc]

/-- In t the block f stands at `new` with the tag of that place, its old handle forwards there, and every other frame is as in s. -/
def Demoted (s t : State) (g : Nat) (f : Frame) (new : Nat) : Prop :=
  frameAt t new = { f with gen := (frameAt s new).gen } ∧
    (∃ e, forwardOf t (handleOf s g) = some e ∧ e.newHandle = handleOf t new) ∧
    ∀ k, k ≠ new → frameAt t k = frameAt s k

/-- Only the home and the module's name bear on it. -/
theorem Demoted.congr {s s' t t' : State} {g : Nat} {f : Frame} {new : Nat} (h : Demoted s' t' g f new) (hs : s'.home = s.home)
    (hsc : s'.comp = s.comp) (ht : t.home = t'.home) (htc : t.comp = t'.comp) : Demoted s t g f new := by
  unfold Demoted at h ⊢
  simpa only [frameAt_of_home hs, handleOf_of_home hs hsc, frameAt_of_home ht, handleOf_of_home ht htc, forwardOf_of_home ht] using h

theorem demoteTo_frames (s : State) (g : Nat) (f : Frame) (new : Nat) (bs : List Byte) :
    (demoteTo s g f new bs).home.frames = (setFrame s new { f with gen := (frameAt s new).gen }).home.frames := rfl

theorem demoteTo_demoted {s : State} {g : Nat} (hf : forwardOf s (handleOf s g) = none) (f : Frame) (new : Nat) (bs : List Byte) :
    Demoted s (demoteTo s g f new bs) g f new := by
  let e : Forward := ⟨handleOf s g, handleOf (demoteTo s g f new bs) new, s.now + fwdHoldNs s, false⟩
  have frame := frameAt_of_frames (demoteTo_frames s g f new bs)
  refine ⟨?_, ⟨e, ?_, rfl⟩, fun k hk => ?_⟩
  · rw [frame, frameAt_setFrame_self]
  · have forwards : (demoteTo s g f new bs).home.forwards = s.home.forwards ++ [e] := rfl
    unfold forwardOf at hf ⊢
    rw [forwards, List.find?_append, hf]
    simp [e]
  · rw [frame, frameAt_setFrame_ne _ _ hk]

theorem demoteTo_stored {s : State} (h : GoodMemory s) (g : Nat) (f : Frame) (new : Nat) (bs : List Byte) :
    Stored s (demoteTo s g f new bs) (new * 0x4000) bs := by
  obtain ⟨hwf, herr, harm, hundef⟩ := h
  have written : (demoteTo s g f new bs).mem = { s.mem with dram := memPutN s.mem.dram (new * 0x4000) bs, undef := [] } := by
    show putRaw s.mem (new * 0x4000) bs = _
    simp [putRaw, hundef]
  refine stored_of_dram ⟨hwf, herr, harm, hundef⟩ ?_ (by rw [written])
  rw [GoodMemory, written]
  exact ⟨memWf_putN hwf _ bs, herr, harm, rfl⟩

/-! ## What the choice of a place reads (R53, R78, R82) -/

/-- Of a partition's host window: its table and length, the entries that the device has read, its group and its enable. -/
structure HostWindow where
  table : Nat
  len   : Nat
  cache : AMap Nat
  fn    : Nat
  on    : Bool

/-- A partition's host window as it stands. -/
def hostWindow (P : Part) : HostWindow := ⟨P.winTable, P.winLen, P.winCache, P.winFn, P.winEnable⟩

/-- Device memory, the home, the links and every partition's host window read in t as in s. -/
structure ReadsAlike (s t : State) : Prop where
  home   : t.home = s.home
  comp   : t.comp = s.comp
  power  : t.power = s.power
  read   : ∀ a n, devRead t a n = devRead s a n
  window : ∀ k, hostWindow (partOf t k) = hostWindow (partOf s k)

/-- The partition notes that it demotes. -/
def noteDemoting (s : State) (p : Nat) : State := modPart s p (fun P => { P with demoting := true })

theorem noteDemoting_readsAlike (s : State) (p : Nat) : ReadsAlike s (noteDemoting s p) := by
  refine ⟨rfl, rfl, rfl, fun _ _ => rfl, fun k => ?_⟩
  unfold noteDemoting
  by_cases hk : k = p
  · rw [hk, partOf_modPart_self]
    rfl
  · rw [partOf_modPart_ne _ _ hk]

theorem channels_readsAlike {s : State} (h : GoodMemory s) (cs : AMap Channel) :
    ReadsAlike s { s with mem := { s.mem with channels := cs } } := by
  obtain ⟨-, clean, -, -⟩ := h
  refine ⟨rfl, rfl, rfl, fun a n => ?_, fun _ => rfl⟩
  simp [devRead, clean, rawBytes, rawByte]

section
variable {s t : State} (h : ReadsAlike s t)
include h

theorem ReadsAlike.inRange (p a n : Nat) : inRange t p a n = inRange s p a n :=
  congrArg (fun c => Machine.inRange { s with comp := c } p a n) h.comp

theorem ReadsAlike.coldRegion (p : Nat) : coldRegion t p = coldRegion s p :=
  congrArg (fun c => Machine.coldRegion { s with comp := c } p) h.comp

theorem ReadsAlike.runFree (lo hi k g : Nat) : runFree t lo hi k g = runFree s lo hi k g :=
  congrArg (fun x => Machine.runFree { s with home := x } lo hi k g) h.home

theorem ReadsAlike.lowestRun (lo hi k : Nat) : lowestRun t lo hi k = lowestRun s lo hi k :=
  congrArg (fun x => Machine.lowestRun { s with home := x } lo hi k) h.home

theorem ReadsAlike.hostFrames : hostFrames t = hostFrames s :=
  congrArg (fun x => Machine.hostFrames { s with home := x }) h.home

theorem ReadsAlike.linkUp (g : Nat) : linkUp t g = linkUp s g :=
  congrArg (fun x => Machine.linkUp { s with power := x } g) h.power

theorem ReadsAlike.winFn (p : Nat) : (partOf t p).winFn = (partOf s p).winFn := congrArg HostWindow.fn (h.window p)

theorem ReadsAlike.winEnable (p : Nat) : (partOf t p).winEnable = (partOf s p).winEnable := congrArg HostWindow.on (h.window p)

theorem ReadsAlike.winLen (p : Nat) : (partOf t p).winLen = (partOf s p).winLen := congrArg HostWindow.len (h.window p)

theorem ReadsAlike.tierFails (g : Nat) : tierFails t g = tierFails s g := by
  have part : framePart t g = framePart s g := congrArg (fun c => Machine.framePart { s with comp := c } g) h.comp
  rw [Machine.tierFails, Machine.tierFails, part, h.winFn, h.linkUp]

theorem ReadsAlike.frameBytes (g : Nat) : frameBytes t g = frameBytes s g := by
  have rows : ∀ rs, rowBytes t g rs = rowBytes s g rs := fun rs => by
    induction rs with
    | nil => rfl
    | cons r rs ih => rw [rowBytes, rowBytes, h.tierFails, h.read, ih]
  rw [Machine.frameBytes, Machine.frameBytes, rows, frameAt_of_home h.home]

theorem ReadsAlike.windowEntry (p x : Nat) : windowEntry t p x = windowEntry s p x := by
  have table : (partOf t p).winTable = (partOf s p).winTable := congrArg HostWindow.table (h.window p)
  have cache : (partOf t p).winCache = (partOf s p).winCache := congrArg HostWindow.cache (h.window p)
  unfold Machine.windowEntry
  dsimp only
  rw [h.winLen, table, cache, h.inRange, devWord, devWord, h.read]

theorem ReadsAlike.hostPlace (p k : Nat) : hostPlace t p k = hostPlace s p k := by
  unfold Machine.hostPlace
  dsimp only
  rw [h.winLen, funext (h.windowEntry p), h.home]
  simp only [h.runFree]

end

/-! ## One block demoted (R77, R78, R95) -/

@[simp] theorem cacheFrame_home (s : State) (g : Nat) : (cacheFrame s g).home = s.home := by
  unfold cacheFrame cacheWindow
  dsimp only
  split
  · split <;> rfl
  · rfl

@[simp] theorem writeHostFrame_home (s : State) (p g : Nat) (bs : List Byte) : (writeHostFrame s p g bs).home = s.home := by
  unfold writeHostFrame
  dsimp only
  split
  · exact foldl_home (fun _ _ => enqueue_home ..) _ _
  · rfl

/-- A block that may go to the cold region, which has a place for it, stands there with its bytes. -/
theorem demoteOne_cold {s : State} {p g new : Nat} {f : Frame} {bs : List Byte} (h : GoodMemory s)
    (hb : frameBytes s g = some bs) (hf : forwardOf s (handleOf s g) = none) (cold : bit f.flags 2 = true)
    (hn : lowestRun s (coldRegion s p).1 (coldRegion s p).2 (frameGranules f) = some new) :
    ∃ t, demoteOne s p (g, f) = (t, true) ∧ Demoted s t g f new ∧ Stored s t (new * 0x4000) bs := by
  obtain ⟨cs, took⟩ := tookRead_channels h (g * 0x4000) (0x4000 * frameGranules f)
  have alike := channels_readsAlike h cs
  refine ⟨demoteTo { s with mem := { s.mem with channels := cs } } g f new bs, ?_, demoteTo_demoted hf f new bs,
    demoteTo_stored h g f new bs⟩
  unfold demoteOne
  dsimp only
  rw [hb]
  dsimp only
  rw [took, if_pos cold, alike.coldRegion, alike.lowestRun, hn]

/-- A block that has no place in the cold region and may go to the host window, which is up and has one, stands there. -/
theorem demoteOne_host {s : State} {p g new : Nat} {f : Frame} {bs : List Byte} (h : GoodMemory s)
    (hb : frameBytes s g = some bs) (hf : forwardOf s (handleOf s g) = none)
    (hn : bit f.flags 2 = false ∨ lowestRun s (coldRegion s p).1 (coldRegion s p).2 (frameGranules f) = none)
    (host : bit f.flags 5 = true) (on : (partOf s p).winEnable = true) (up : linkUp s (partOf s p).winFn = true)
    (room : hostFrames s < 4194304) (place : hostPlace s p (frameGranules f) = some new) :
    ∃ t, demoteOne s p (g, f) = (t, true) ∧ Demoted s t g f new := by
  obtain ⟨cs, took⟩ := tookRead_channels h (g * 0x4000) (0x4000 * frameGranules f)
  have alike := channels_readsAlike h cs
  let u : State := cacheFrame { s with mem := { s.mem with channels := cs } } new
  have uhome : u.home = s.home := cacheFrame_home ..
  have ucomp : u.comp = s.comp := (cacheFrame_kept ..).2
  have moved : Demoted u (demoteTo u g f new bs) g f new :=
    demoteTo_demoted (by rw [forwardOf_of_home uhome, handleOf_of_home uhome ucomp, hf]) f new bs
  refine ⟨writeHostFrame (demoteTo u g f new bs) p new bs, ?_,
    moved.congr uhome ucomp (writeHostFrame_home ..) (writeHostFrame_kept ..).2⟩
  have noCold : (if bit f.flags 2 = true then lowestRun s (coldRegion s p).1 (coldRegion s p).2 (frameGranules f) else none) = none := by
    rcases hn with hn | hn <;> simp [hn]
  unfold demoteOne
  dsimp only
  rw [hb]
  dsimp only
  rw [took, alike.coldRegion, alike.lowestRun, noCold]
  dsimp only
  rw [if_neg (by simp [host, on, up, alike.winEnable, alike.winFn, alike.linkUp]), if_neg (by rw [alike.hostFrames]; omega), alike.hostPlace, place]

/-! ## DEMOTION (R78) -/

/-- The partition notes that it demotes, and demotes the one block that may be. -/
theorem demotion_runs {s t : State} {p g : Nat} {f : Frame} (up : ready s = true) (hc : composed s p = true)
    (role : roleOf s = roleCache) (hd : demotes s p = true) (one : demotable s p = [(g, f)]) (room : s.home.forwards.length < 65536)
    (h : demoteOne (noteDemoting s p) p (g, f) = (t, true)) : exec (.demotion p) s = .next t := by
  unfold noteDemoting at h
  show execDemotion p s = _
  unfold execDemotion
  rw [if_pos (by simp [up, hc, role])]
  dsimp only
  rw [if_pos (by simp [hd, room]), one, hd, demoteFirst, h]
  rfl

/-- Settles O48: what the choice of a place reads stands as it was until the block moves. -/
theorem demotionMovesToTheColdRegion : Obligations.DemotionMovesToTheColdRegion := by
  intro s p g new f bs up hc role c k hd one room hb hf good
  have alike := noteDemoting_readsAlike s p
  have good' : GoodMemory (noteDemoting s p) := good
  have hb' := (alike.frameBytes g).trans hb
  refine ⟨fun cold hn => ?_, fun hn host on link few place => ?_⟩
  · obtain ⟨t, moves, ⟨stands, ⟨e, he, names⟩, others⟩, stored⟩ := demoteOne_cold (p := p) (new := new) good' hb' hf cold
      (by rwa [alike.coldRegion, alike.lowestRun])
    exact ⟨t, e, demotion_runs up hc role hd one room moves, stands, stored, he, names, others⟩
  · obtain ⟨t, moves, stands, ⟨e, he, names⟩, others⟩ := demoteOne_host (p := p) (new := new) good' hb' hf
      (by rwa [alike.coldRegion, alike.lowestRun]) host (by rwa [alike.winEnable]) (by rwa [alike.linkUp, alike.winFn])
      (by rwa [alike.hostFrames]) (by rwa [alike.hostPlace])
    exact ⟨t, e, demotion_runs up hc role hd one room moves, stands, he, names, others⟩

end Sys2Proof.Machine
end

section
/-! PROOFS. Transitions of frames, and the claims on them that the home judges (O13, O14, O15, O16). -/

namespace Sys2Proof.Machine

open Sys2Proof.Safety

/-- Settles O13: a transition writes one record, and its journal entry in front of the older ones. -/
theorem transitionIsJournalled : Obligations.TransitionIsJournalled := fun _ _ _ _ =>
  ⟨frameAt_transition_self .., fun _ hk => frameAt_transition_ne _ _ _ hk, rfl, rfl, rfl⟩

/-! ## Events of the home (R36, R104) -/

/-- A message of level 1 in its turn acts on the state in which it is judged. -/
theorem homeEvent_runs {s : State} {m : TMsg} (h : InTurn s (.trapeze (me s) m)) (hl : m.level = 1) (f : State → State) :
    homeEvent m s f = .next (f (judged s (.trapeze (me s) m) m.handle)) := by
  unfold homeEvent
  dsimp only
  rw [if_neg (inTurn_goes h), if_neg (not_not.mpr hl)]

/-! ## RELEASE (R102, R105) -/

section
variable {s : State} {m : TMsg} (h : InTurn s (.trapeze (me s) m)) (hl : m.level = 1)
include h hl

/-- A RELEASE or a CATCH whose claimant fails a check is refused. -/
theorem releaseAtHome_refused {e : Nat × Nat}
    (hc : claimStatus (judged s (.trapeze (me s) m) m.handle) m.handle m.src true = some e) :
    exec (.releaseAtHome m) s = .next (refuse (judged s (.trapeze (me s) m) m.handle) m.src m.tag m.handle e) := by
  show execReleaseAtHome m s = _
  unfold execReleaseAtHome
  rw [homeEvent_runs h hl]
  dsimp only
  rw [hc]

theorem releaseAtHome_offers (hc : claimStatus (judged s (.trapeze (me s) m) m.handle) m.handle m.src true = none)
    (ho : (frameAt (judged s (.trapeze (me s) m) m.handle) (hFrame m.handle)).owner = m.src)
    (hs : (frameAt (judged s (.trapeze (me s) m) m.handle) (hFrame m.handle)).state = .open_)
    (other : sameIdentity m.peer m.src = false) :
    exec (.releaseAtHome m) s =
      let s0 := judged s (.trapeze (me s) m) m.handle
      let g := hFrame m.handle
      let dl := s0.now + holdNs s0 m.hold
      .next (replyTo
        (tellParty (transition s0 g { frameAt s0 g with state := .offered, offeree := m.peer, deadline := dl } 0x02) g m.peer
          { ttype := 0x02, src := m.src, tag := m.tag, handle := m.handle, peer := m.src, time := dl })
        m.src m.tag m.handle St.ok ⟨0, 0, 0, 0⟩ dl) := by
  show execReleaseAtHome m s = _
  unfold execReleaseAtHome
  rw [homeEvent_runs h hl]
  dsimp only
  rw [hc]
  dsimp only
  rw [hs]
  dsimp only
  rw [if_neg (by simp [ho]), if_neg (by simp [other])]

theorem releaseAtHome_withdraws (hc : claimStatus (judged s (.trapeze (me s) m) m.handle) m.handle m.src true = none)
    (ho : (frameAt (judged s (.trapeze (me s) m) m.handle) (hFrame m.handle)).owner = m.src)
    (hs : (frameAt (judged s (.trapeze (me s) m) m.handle) (hFrame m.handle)).state = .offered)
    (self : sameIdentity m.peer m.src = true) :
    exec (.releaseAtHome m) s =
      let s0 := judged s (.trapeze (me s) m) m.handle
      let g := hFrame m.handle
      let f := frameAt s0 g
      .next (replyTo
        (returnedToBoth (transition s0 g { f with state := .open_, offeree := ⟨0, 0, 0, 0⟩, deadline := 0 } 0x05) g
          m.handle St.withdrawn f.owner f.offeree)
        m.src m.tag m.handle St.ok) := by
  show execReleaseAtHome m s = _
  unfold execReleaseAtHome
  rw [homeEvent_runs h hl]
  dsimp only
  rw [hc]
  dsimp only
  rw [hs]
  dsimp only
  rw [if_neg (by simp [ho]), if_pos self]

/-! ## CATCH (R103) -/

theorem catchAtHome_refused {e : Nat × Nat}
    (hc : claimStatus (judged s (.trapeze (me s) m) m.handle) m.handle m.src true = some e) :
    exec (.catchAtHome m) s = .next (refuse (judged s (.trapeze (me s) m) m.handle) m.src m.tag m.handle e) := by
  show execCatchAtHome m s = _
  unfold execCatchAtHome
  rw [homeEvent_runs h hl]
  dsimp only
  rw [hc]

theorem catchAtHome_takes (hc : claimStatus (judged s (.trapeze (me s) m) m.handle) m.handle m.src true = none)
    (hm : catchMeets (judged s (.trapeze (me s) m) m.handle)
      (frameAt (judged s (.trapeze (me s) m) m.handle) (hFrame m.handle)) m.src = true) :
    exec (.catchAtHome m) s =
      let s0 := judged s (.trapeze (me s) m) m.handle
      let g := hFrame m.handle
      let f := frameAt s0 g
      let c : TMsg := { ttype := 0x04, src := m.src, handle := m.handle, time := s0.now, state := 1 }
      .next (tellParty
        (tellParty (transition s0 g { f with state := .open_, owner := m.src, offeree := ⟨0, 0, 0, 0⟩, deadline := 0 } 0x03)
          g m.src { c with tag := m.tag, peer := f.owner })
        g f.owner { c with peer := m.src }) := by
  show execCatchAtHome m s = _
  unfold execCatchAtHome
  rw [homeEvent_runs h hl]
  dsimp only
  rw [hc]
  exact congrArg _ (if_pos hm)

theorem catchAtHome_noOffer (hc : claimStatus (judged s (.trapeze (me s) m) m.handle) m.handle m.src true = none)
    (hs : (frameAt (judged s (.trapeze (me s) m) m.handle) (hFrame m.handle)).state = .open_)
    (ho : (frameAt (judged s (.trapeze (me s) m) m.handle) (hFrame m.handle)).owner ≠ m.src) :
    exec (.catchAtHome m) s =
      .next (refuse (judged s (.trapeze (me s) m) m.handle) m.src m.tag m.handle (St.noOffer, 0)) := by
  show execCatchAtHome m s = _
  unfold execCatchAtHome
  rw [homeEvent_runs h hl]
  dsimp only
  rw [hc]
  dsimp only
  rw [if_neg (by simp [catchMeets, hs]), hs]
  exact congrArg _ (if_neg ho)

end

theorem catchMeets_iff {s : State} {f : Frame} {x : Party} : catchMeets s f x = true ↔
    f.state = .offered ∧ sameIdentity f.offeree x = true ∧ (f.offeree.epoch = x.epoch ∨ f.offeree.epoch = 0) ∧ s.now < f.deadline := by
  simp [catchMeets, and_assoc]

/-- Settles O14. -/
theorem releaseOffersOrWithdraws : Obligations.ReleaseOffersOrWithdraws := fun _ _ h hl hc ho =>
  ⟨fun hs other => releaseAtHome_offers h hl hc ho hs other, fun hs self => releaseAtHome_withdraws h hl hc ho hs self⟩

/-! ## Deadlines that have been reached (R104, R107) -/

theorem forwardLapse_none {s : State} {h : Nat} (hf : forwardOf s h = none) : forwardLapse s h = s := by
  rw [forwardLapse, hf]

theorem migrationLapse_none {s : State} {g : Nat} (hs : migrationOf s g true = none) (hd : migrationOf s g false = none) :
    migrationLapse s g = s := by
  rw [migrationLapse, hs, hd]

/-- A frame after its offer: open, with its owner. -/
def offerOver (f : Frame) : Frame := { f with state := .open_, offeree := ⟨0, 0, 0, 0⟩, deadline := 0 }

/-- An offer that has expired: both parties hear of it. -/
def offerExpired (s : State) (g : Nat) : State :=
  let f := frameAt s g
  returnedToBoth (transition s g (offerOver f) 0x04) g (handleOf s g) St.expired f.owner f.offeree

theorem offerLapse_expires {s : State} {g : Nat} (hs : (frameAt s g).state = .offered) (hd : (frameAt s g).deadline ≤ s.now)
    (live : floorOf s (frameAt s g).owner < (frameAt s g).owner.epoch) : offerLapse s g = offerExpired s g := by
  unfold offerLapse
  dsimp only
  rw [if_pos (by simp [hs, hd]), if_neg (Nat.not_le.mpr live)]
  rfl

theorem offerLapse_loses {s : State} {g : Nat} (hs : (frameAt s g).state = .offered) (hd : (frameAt s g).deadline ≤ s.now)
    (fenced : (frameAt s g).owner.epoch ≤ floorOf s (frameAt s g).owner) : offerLapse s g = loseFrame s g 0x04 := by
  unfold offerLapse
  dsimp only
  rw [if_pos (by simp [hs, hd]), if_pos fenced]

@[simp] theorem returnedToBoth_home (s : State) (g handle status : Nat) (owner offeree : Party) :
    (returnedToBoth s g handle status owner offeree).home = s.home := by
  simp [returnedToBoth]

@[simp] theorem frameAt_offerExpired (s : State) (g : Nat) : frameAt (offerExpired s g) g = offerOver (frameAt s g) := by
  rw [offerExpired, frameAt_of_home (returnedToBoth_home ..), frameAt_transition_self]

theorem lostLapse_eq_self {s : State} {g : Nat} (hs : (frameAt s g).state ≠ .lost) : lostLapse s g = s := by
  unfold lostLapse
  exact if_neg (by simp [hs])

/-- A handle whose frame is offered, and neither forwarded nor moving: what its deadline leaves of it. -/
theorem lapse_expires {s : State} {h : Nat} (hf : forwardOf s h = none) (ms : migrationOf s (hFrame h) true = none)
    (md : migrationOf s (hFrame h) false = none) (hs : (frameAt s (hFrame h)).state = .offered)
    (hd : (frameAt s (hFrame h)).deadline ≤ s.now)
    (live : floorOf s (frameAt s (hFrame h)).owner < (frameAt s (hFrame h)).owner.epoch) :
    lapse s h = offerExpired s (hFrame h) := by
  rw [lapse, forwardLapse_none hf, migrationLapse_none ms md, offerLapse_expires hs hd live, lostLapse_eq_self]
  simp [offerOver]

/-- Settles O15: an offer whose deadline has been reached is over before the CATCH is judged. -/
theorem catchTakesTheOffer : Obligations.CatchTakesTheOffer := by
  intro s m h hl s0 g f c hc
  refine ⟨fun hs same epoch early => catchAtHome_takes h hl hc (catchMeets_iff.mpr ⟨hs, same, epoch, early⟩),
    fun hs late live hf ms md other => ?_⟩
  have ended : f = offerOver (frameAt s g) := by
    have lapsed : s0 = offerExpired (takeNoc s (.trapeze (me s) m)) g := lapse_expires hf ms md hs late live
    show frameAt s0 g = _
    rw [lapsed, frameAt_offerExpired, frameAt_of_home (takeNoc_home ..)]
  have opened : f.state = .open_ := by rw [ended, offerOver]
  have owned : f.owner = (frameAt s g).owner := by rw [ended, offerOver]
  exact ⟨opened, owned, catchAtHome_noOffer h hl hc opened (owned ▸ other)⟩

/-! ## The other claims (R94) -/

theorem sealAtHome_refused {s : State} {m : SealMsg} {e : Nat × Nat} (h : InTurn s (.sealMsg (me s) m))
    (hc : claimStatus (judged s (.sealMsg (me s) m) m.handle) m.handle m.src true = some e) :
    exec (.sealAtHome m) s = .next (refuse (judged s (.sealMsg (me s) m) m.handle) m.src m.tag m.handle e) := by
  show execSealAtHome m s = _
  unfold execSealAtHome
  rw [if_neg (inTurn_goes h)]
  dsimp only
  rw [hc]

theorem migrateAtSource_refused {s : State} {m : MigrateMsg} {e : Nat × Nat} (h : InTurn s (.migrateMsg (me s) m))
    (hb : beingRead s (hFrame m.handle) = false)
    (hc : claimStatus (judged s (.migrateMsg (me s) m) m.handle) m.handle m.src true = some e) :
    exec (.migrateAtSource m) s = .next (refuse (judged s (.migrateMsg (me s) m) m.handle) m.src m.tag m.handle e) := by
  show execMigrateAtSource m s = _
  unfold execMigrateAtSource
  rw [if_neg (inTurn_goes h), if_neg (by simp [hb])]
  dsimp only
  rw [hc]

theorem freeAtHome_refused {s : State} {m : FreeMsg} {e : Nat × Nat} (h : InTurn s (.freeMsg (me s) m)) (ha : m.add = false)
    (hb : beingRead s (hFrame m.handle) = false)
    (hc : claimStatus (judged s (.freeMsg (me s) m) m.handle) m.handle m.src false = some e) :
    exec (.freeAtHome m) s = .next (refuse (judged s (.freeMsg (me s) m) m.handle) m.src m.tag m.handle e) := by
  show execFreeAtHome m s = _
  unfold execFreeAtHome
  rw [if_neg (inTurn_goes h), if_neg (by simp [hb]), if_neg (by simp [ha])]
  dsimp only
  rw [hc]

/-! ## The order of the checks (R94) -/

section
variable {s : State} {h : Nat}

theorem handleCheck_stale (hf : forwardOf s h = none) (stale : hGen h = 0 ∨ namesFrame s (hFrame h) = false ∨
    (frameNow s (hFrame h)).state = .free ∨ (frameNow s (hFrame h)).gen ≠ hGen h) :
    handleCheck s h = some (St.staleHandle, 0) := by
  rw [handleCheck, hf]
  exact if_pos (by simpa using stale)

theorem handleCheck_passes (hf : forwardOf s h = none) (hg : hGen h ≠ 0) (hn : namesFrame s (hFrame h) = true)
    (used : (frameNow s (hFrame h)).state ≠ .free) (gen : (frameNow s (hFrame h)).gen = hGen h) : handleCheck s h = none := by
  rw [handleCheck, hf]
  exact if_neg (by simp [hg, hn, used, gen])

theorem claimStatus_of_handle {e : Nat × Nat} (hh : handleCheck s h = some e) (x : Party) (lostToo : Bool) :
    claimStatus s h x lostToo = some e := by
  rw [claimStatus, hh]

theorem claimStatus_of_claim {x : Party} {st : Nat} (hh : handleCheck s h = none) (hc : claimCheck s x = some st) (lostToo : Bool) :
    claimStatus s h x lostToo = some (st, 0) := by
  rw [claimStatus, hh, hc]

theorem claimStatus_of_passes {x : Party} (hh : handleCheck s h = none) (hc : claimCheck s x = none) (lostToo : Bool) :
    claimStatus s h x lostToo = if lostToo && (frameNow s (hFrame h)).state == .lost then some (St.lost, 0) else none := by
  rw [claimStatus, hh, hc]

theorem claimCheck_pending {x : Party} (far : foreign s x = true) (shut : s.home.gateOpen = false) :
    claimCheck s x = some St.fencePending := if_pos (by simp [far, shut])

theorem claimCheck_open {x : Party} (way : foreign s x = false ∨ s.home.gateOpen = true) :
    claimCheck s x = if x.epoch ≤ floorOf s x then some St.fenced else none :=
  if_neg (by rcases way with way | way <;> simp [way])

end

/-! ## QUERY (R96, R108) -/

theorem queryStatus_forward {s : State} {h : Nat} {e : Forward} (hf : forwardOf s h = some e) :
    queryStatus s h =
      if e.lost = true ∨ (e.until_ ≠ 0 ∧ e.until_ ≤ s.now) then (St.staleHandle, 0) else (St.moved, e.newHandle) := by
  by_cases ended : e.lost = true ∨ (e.until_ ≠ 0 ∧ e.until_ ≤ s.now)
  · rw [queryStatus, handleCheck, hf, if_pos ended]
    dsimp only
    rw [if_pos (by simpa using ended)]
  · rw [queryStatus, handleCheck, hf, if_neg ended]
    dsimp only
    rw [if_neg (by simpa using ended)]

theorem queryStatus_here {s : State} {h : Nat} (hf : forwardOf s h = none) :
    queryStatus s h = if handleCheck s h = none then (if (frameAt s (hFrame h)).state = .lost then St.lost else St.ok, 0)
      else (St.staleHandle, 0) := by
  cases hh : handleCheck s h with
  | none =>
    rw [queryStatus, hh]
    rfl
  | some e =>
    rw [queryStatus, hh, if_neg (Option.some_ne_none e)]
    rw [handleCheck, hf] at hh
    dsimp only at hh
    split at hh <;> cases hh
    rfl

theorem interior_eq (s : State) (g : Nat) : interior s g = (coveringFrame s g).any (fun e => e.1 != g) := by
  unfold interior
  cases coveringFrame s g <;> rfl

theorem queryAtHome_answers {s : State} {m : TMsg} (h : InTurn s (.trapeze (me s) m)) (hl : m.level = 1) :
    exec (.queryAtHome m) s =
      let s0 := judged s (.trapeze (me s) m) m.handle
      let g := hFrame m.handle
      let f := frameAt s0 g
      .next (tellParty s0 g m.src
        { ttype := 0x08, status := (queryStatus s0 m.handle).1, src := m.src, tag := m.tag, handle := m.handle, peer := f.owner
          time := f.deadline, state := if (coveringFrame s0 g).any (fun e => e.1 != g) = true then 7 else stateCode f.state
          newHandle := (queryStatus s0 m.handle).2
          offeree := if f.state = .offered then f.offeree else ⟨0, 0, 0, 0⟩, size := some f.sizeLog2 }) := by
  show execQueryAtHome m s = _
  unfold execQueryAtHome granuleState
  rw [homeEvent_runs h hl]
  dsimp only
  rw [interior_eq]

/-- Settles O16: the rows of the claims, the order of the checks, and QUERY. -/
theorem claimsAreCheckedFirst : Obligations.ClaimsAreCheckedFirst := by
  refine ⟨⟨fun s e => ⟨fun m h hl hc => ⟨releaseAtHome_refused h hl hc, catchAtHome_refused h hl hc⟩,
    fun m h hc => sealAtHome_refused h hc, fun m h hb hc => migrateAtSource_refused h hb hc,
    fun m h ha hb hc => freeAtHome_refused h ha hb hc⟩, fun s h x hf => ?_⟩, fun s m h hl => ?_⟩
  · refine ⟨fun stale => claimStatus_of_handle (handleCheck_stale hf stale) x true, fun hg hn used gen => ?_⟩
    have passes := handleCheck_passes hf hg hn used gen
    refine ⟨fun far shut => claimStatus_of_claim passes (claimCheck_pending far shut) true, fun way fenced => ?_,
      fun way live lost => ?_, fun way live kept => ?_⟩
    · exact claimStatus_of_claim passes ((claimCheck_open way).trans (if_pos fenced)) true
    · rw [claimStatus_of_passes passes ((claimCheck_open way).trans (if_neg (Nat.not_le.mpr live)))]
      exact if_pos (by simp [lost])
    · rw [claimStatus_of_passes passes ((claimCheck_open way).trans (if_neg (Nat.not_le.mpr live)))]
      exact if_neg (by simp [kept])
  · rw [queryAtHome_answers h hl]
    dsimp only
    cases hf : forwardOf (judged s (.trapeze (me s) m) m.handle) m.handle with
    | none => rw [queryStatus_here hf]
    | some e => rw [queryStatus_forward hf]

end Sys2Proof.Machine
end

section
/-! PROOFS. Deadlines of holds and migrations, and the end of a move at its source (O20). -/

namespace Sys2Proof.Machine

open Sys2Proof.Safety

/-! ## Forwarding entries and migrations that end (R79, R111, R112) -/

@[simp] theorem sendAbort_home (s : State) (g : Nat) (x : Migration) (status handle peer : Nat) :
    (sendAbort s g x status handle peer).home = s.home :=
  (tellParty_home ..).trans (sendTrapeze_home ..)

@[simp] theorem frameAt_dropMigration (s : State) (g : Nat) (asSource : Bool) (k : Nat) :
    frameAt (dropMigration s g asSource) k = frameAt s k := rfl

@[simp] theorem migrationOf_dropMigration_self (s : State) (g : Nat) (asSource : Bool) :
    migrationOf (dropMigration s g asSource) g asSource = none := by
  refine List.find?_eq_none.mpr fun x hx hit => ?_
  have kept := (List.mem_filter.mp hx).2
  simp [hit] at kept

@[simp] theorem migrationOf_transition (s : State) (g : Nat) (f : Frame) (event k : Nat) (asSource : Bool) :
    migrationOf (transition s g f event) k asSource = migrationOf s k asSource := rfl

@[simp] theorem migrationOf_freeFrame (s : State) (g event k : Nat) (asSource : Bool) :
    migrationOf (freeFrame s g event) k asSource = migrationOf s k asSource := rfl

/-- A migration that its source gives up leaves the frame open. -/
theorem frameAt_abortAtSource {s : State} {g : Nat} (hs : (frameAt s g).state = .migrating) (x : Migration) (status event : Nat) :
    frameAt (abortAtSource s g x status event) g =
      { frameAt s g with state := .open_, deadline := 0, peer := 0, committed := false } := by
  unfold abortAtSource
  dsimp only
  rw [frameAt_of_home (sendAbort_home ..), if_pos hs, frameAt_transition_self]

theorem migrationLapse_aborts {s : State} {g : Nat} {x : Migration} (hm : migrationOf s g true = some x) (hd : x.deadline ≤ s.now)
    (hc : (frameAt s g).committed = false) (hf : forwardOf s (handleOf s g) = none) :
    migrationLapse s g = abortAtSource s g x St.migrateAbort := by
  rw [migrationLapse, hm]
  dsimp only
  rw [if_neg (Nat.not_lt.mpr hd), if_neg (by simp [hc]), if_neg (by simp [hf])]

theorem lostLapse_frees {s : State} {g : Nat} (hs : (frameAt s g).state = .lost) (hd : (frameAt s g).deadline ≤ s.now) :
    lostLapse s g = freeFrame s g 0x10 := if_pos (by simp [hs, hd])

/-- The home without the forwarding entry of an old handle. -/
def dropForward (s : State) (h : Nat) : State :=
  { s with home := { s.home with forwards := s.home.forwards.filter (fun x => x.oldHandle != h) } }

theorem forwardOf_dropForward (s : State) (h : Nat) : forwardOf (dropForward s h) h = none := by
  simp [forwardOf, dropForward, List.find?_filter]

/-- A forwarding hold that has passed: the entry is gone, and the old frame is free where it still has the old tag. -/
theorem forwardLapse_ends {s : State} {h : Nat} {e : Forward} (hf : forwardOf s h = some e) (h0 : e.until_ ≠ 0) (hu : e.until_ ≤ s.now) :
    forwardOf (forwardLapse s h) h = none ∧
      ((frameAt s (hFrame h)).gen = hGen h → (frameAt (forwardLapse s h) (hFrame h)).state = .free) := by
  have ends : forwardLapse s h = if (frameAt s (hFrame h)).gen = hGen h ∧ (frameAt s (hFrame h)).state ≠ .free
      then freeFrame (dropForward s h) (hFrame h) 0x08 else dropForward s h := by
    rw [forwardLapse, hf]
    exact if_pos (by simp [h0, hu])
  rw [ends]
  split
  · refine ⟨forwardOf_dropForward s h, fun _ => ?_⟩
    rw [frameAt_freeFrame_self]
  · next kept => exact ⟨forwardOf_dropForward s h, fun gen => by_contra fun used => kept ⟨gen, used⟩⟩

/-! ## The rows of the deadlines (R104, R107, R111) -/

section
variable {s : State} (hr : ready s = true)
include hr

theorem offerDeadline_runs (g : Nat) : exec (.offerDeadline g) s = .next (offerLapse s g) := if_pos hr

theorem lostHoldEnd_runs (g : Nat) : exec (.lostHoldEnd g) s = .next (lostLapse s g) := if_pos hr

theorem forwardingHoldEnd_runs (h : Nat) : exec (.forwardingHoldEnd h) s = .next (forwardLapse s h) := if_pos hr

theorem migrationDeadline_runs (g : Nat) : exec (.migrationDeadline g) s = .next (migrationLapse s g) := if_pos hr

end

/-! ## Events of a party (R106) -/

/-- A message of level 1 for a current epoch acts in its turn. -/
theorem partyEvent_runs {s : State} {m : TMsg} {o : Out} (h : InTurn s o) (hl : m.level = 1) (he : forEpoch s m = true)
    (f : State → State) : partyEvent o m s f = .next (f (takeNoc s o)) := by
  unfold partyEvent
  dsimp only
  rw [if_neg (inTurn_goes h), if_neg (not_not.mpr hl)]
  exact congrArg _ (if_pos he)

/-- One more event of a retired epoch. -/
def staleEvent (s : State) : State := { s with home := { s.home with staleEvents := s.home.staleEvents + 1 } }

/-- A message for a retired epoch is counted. -/
theorem partyEvent_retired {s : State} {m : TMsg} {o : Out} (h : InTurn s o) (hl : m.level = 1) (he : forEpoch s m = false)
    (f : State → State) : partyEvent o m s f = .next (staleEvent (takeNoc s o)) := by
  unfold partyEvent
  dsimp only
  rw [if_neg (inTurn_goes h), if_neg (not_not.mpr hl)]
  exact congrArg _ (if_neg (by show ¬ forEpoch s m = true; simp [he]))

theorem forEpoch_module {s : State} {m : TMsg} (h : m.toEpoch = 0) : forEpoch s m = true := by
  simp [forEpoch, h]

/-! ## MIGRATE_DONE and MIGRATE_ABORT at the source (R111, R112) -/

section
variable {s : State} {m : TMsg} (h : InTurn s (.trapeze (me s) m)) (hl : m.level = 1) (he : m.toEpoch = 0)
include h hl he

theorem migrateDone_atSource :
    exec (.migrateDone m) s = .next (doneAtSource (judged s (.trapeze (me s) m) m.handle) m) := by
  show execMigrateDone m s = _
  unfold execMigrateDone withEvent
  rw [partyEvent_runs h hl (forEpoch_module he)]
  exact congrArg _ (if_pos he)

theorem migrateAbort_atHome : exec (.migrateAbort m) s = .next (abortAtHome (takeNoc s (.trapeze (me s) m)) m) := by
  show execMigrateAbort m s = _
  unfold execMigrateAbort withEvent
  rw [partyEvent_runs h hl (forEpoch_module he)]
  exact congrArg _ (if_pos he)

end

theorem doneAtSource_frees {s : State} {m : TMsg} {x : Migration} (hg : (frameAt s (hFrame m.handle)).gen = hGen m.handle)
    (hm : migrationOf s (hFrame m.handle) true = some x) (hk : x.keepSealed = false)
    (hc : (frameAt s (hFrame m.handle)).committed = true) :
    doneAtSource s m = freeFrame (dropMigration s (hFrame m.handle) true) (hFrame m.handle) 0x08 := by
  unfold doneAtSource
  dsimp only
  rw [if_pos hg, hm]
  dsimp only
  rw [if_neg (by simp [hk]), if_pos ⟨hg, hc⟩]

theorem abortAtHome_opens {s : State} {m : TMsg} {x : Migration} (h0 : m.handle ≠ 0)
    (hg : (frameAt s (hFrame m.handle)).gen = hGen m.handle) (hm : migrationOf s (hFrame m.handle) true = some x)
    (hk : x.keepSealed = false) (hf : forwardOf s m.handle = none) (hc : (frameAt s (hFrame m.handle)).committed = false) :
    abortAtHome s m = dropMigration (transition s (hFrame m.handle)
      { frameAt s (hFrame m.handle) with state := .open_, deadline := 0, peer := 0 } 0x0C) (hFrame m.handle) true := by
  unfold abortAtHome
  dsimp only
  rw [if_pos h0, if_neg (by simp [h0, hg]), hm]
  dsimp only
  rw [if_neg (by simp [hc, hf]), if_neg (by simp [hk])]

/-- Settles O20: each deadline's lapse, and the two messages that end a move at its source. -/
theorem holdsAndMovesEnd : Obligations.HoldsAndMovesEnd := by
  refine ⟨fun s g hr => ⟨fun hs hd live => ?_, fun hs hd fenced => ?_, fun hs hd => ?_, fun h e hf h0 hu => ?_,
    fun x hm hd hs hc hf => ?_⟩, fun s m h hl he h0 => ⟨fun x hg hm hk hc => ?_, fun x hg hm hk hf hc => ?_⟩⟩
  · exact (offerDeadline_runs hr g).trans (congrArg _ (offerLapse_expires hs hd live))
  · exact (offerDeadline_runs hr g).trans (congrArg _ (offerLapse_loses hs hd fenced))
  · exact ⟨_, (lostHoldEnd_runs hr g).trans (congrArg _ (lostLapse_frees hs hd)), frameAt_freeFrame_self ..⟩
  · exact ⟨_, forwardingHoldEnd_runs hr h, forwardLapse_ends hf h0 hu⟩
  · exact ⟨_, (migrationDeadline_runs hr g).trans (congrArg _ (migrationLapse_aborts hm hd hc hf)), frameAt_abortAtSource hs x _ _⟩
  · refine ⟨_, (migrateDone_atSource h hl he).trans (congrArg _ (doneAtSource_frees hg hm hk hc)), ?_, ?_⟩
    · rw [frameAt_freeFrame_self, frameAt_dropMigration]
      rfl
    · rw [migrationOf_freeFrame, migrationOf_dropMigration_self]
  · have opens := abortAtHome_opens (s := takeNoc s (.trapeze (me s) m)) h0 hg hm hk hf hc
    refine ⟨_, (migrateAbort_atHome h hl he).trans (congrArg _ opens), ?_, migrationOf_dropMigration_self ..⟩
    rw [frameAt_dropMigration, frameAt_transition_self]
    rfl

end Sys2Proof.Machine
end

section
/-! PROOFS. Offers and outcomes at a party (O24). -/

namespace Sys2Proof.Machine

open Sys2Proof.Safety

theorem partOf_takeNoc (s : State) (o : Out) (p : Nat) : partOf (takeNoc s o) p = partOf s p := rfl

/-! ## OFFER and RETURNED (R102, R105) -/

theorem offer_held {s : State} {m : TMsg} (h : InTurn s (.trapeze (me s) m)) (hl : m.level = 1) (he : forEpoch s m = true) :
    exec (.offer m) s = .next (modPart (takeNoc s (.trapeze (me s) m)) m.toPart
      (fun P => { P with offersIn := P.offersIn.filter (fun o => o.handle != m.handle) ++ [m] })) := by
  show execOffer m s = _
  unfold execOffer withEvent
  rw [partyEvent_runs h hl he]

/-- An OFFER for a retired epoch is counted. -/
theorem offer_retired {s : State} {m : TMsg} (h : InTurn s (.trapeze (me s) m)) (hl : m.level = 1) (he : forEpoch s m = false) :
    exec (.offer m) s = .next (staleEvent (takeNoc s (.trapeze (me s) m))) := by
  show execOffer m s = _
  unfold execOffer withEvent
  rw [partyEvent_retired h hl he]

theorem returned_runs {s : State} {m : TMsg} (h : InTurn s (.trapeze (me s) m)) (hl : m.level = 1) (he : forEpoch s m = true) :
    exec (.returned m) s = .next (returned (takeNoc s (.trapeze (me s) m)) m.toPart m.handle m.status m.peer) := by
  show execReturned m s = _
  unfold execReturned withEvent
  rw [partyEvent_runs h hl he]

theorem returned_retired {s : State} {m : TMsg} (h : InTurn s (.trapeze (me s) m)) (hl : m.level = 1) (he : forEpoch s m = false) :
    exec (.returned m) s = .next (staleEvent (takeNoc s (.trapeze (me s) m))) := by
  show execReturned m s = _
  unfold execReturned withEvent
  rw [partyEvent_retired h hl he]

/-- The outcome of a handle that no request names: the wait for it is over, and its offer. -/
theorem returned_unnamed {s : State} {p h : Nat} (hn : namedBy (outcomeCame s p h) p h = none) (st : Nat) (peer : Party) :
    returned s p h st peer = dropOffer (outcomeCame s p h) p h := by
  unfold returned
  dsimp only
  rw [hn]

theorem partOf_outcomeOver_self (s : State) (p h : Nat) : partOf (dropOffer (outcomeCame s p h) p h) p =
    { partOf s p with offersIn := (partOf s p).offersIn.filter (fun o => o.handle != h)
                      outcomes := (partOf s p).outcomes.filter (fun o => o.handle != h) } := by
  simp [dropOffer, outcomeCame]

theorem partOf_outcomeOver_ne (s : State) {p k : Nat} (h : Nat) (hk : k ≠ p) :
    partOf (dropOffer (outcomeCame s p h) p h) k = partOf s k := by
  rw [dropOffer, partOf_modPart_ne _ _ hk, outcomeCame, partOf_modPart_ne _ _ hk]

/-! ## The ringmaster's question (R109) -/

theorem sendTrapeze_here {s : State} {dest : Nat × Nat} (h : dest = me s) (p : Nat) (m : TMsg) :
    sendTrapeze s p dest m = { s with noc := s.noc ++ [.trapeze dest m] } := if_pos h

theorem partOf_sendTrapeze_here {s : State} {dest : Nat × Nat} (h : dest = me s) (p : Nat) (m : TMsg) (k : Nat) :
    partOf (sendTrapeze s p dest m) k = partOf s k := by
  rw [sendTrapeze_here h]
  rfl

theorem outcomeWaitExpiry_asks {s : State} {p tag : Nat} {o : Outcome} (hr : ready s = true)
    (hn : (partOf s p).recovering.find? (fun x => x.tag == tag) = none)
    (ho : (partOf s p).outcomes.find? (fun o => o.tag == tag) = some o) (hd : o.deadline ≤ s.now) (ha : o.asked = false) :
    exec (.outcomeWaitExpiry p tag) s = .next (askHome (outcomeCame s p o.handle) p o.handle o.move) := by
  show execOutcomeWaitExpiry p tag s = _
  unfold execOutcomeWaitExpiry
  rw [hn]
  dsimp only
  rw [ho]
  dsimp only
  rw [if_neg (by simp [hr, hd]), if_neg (by simp [ha])]

/-- A question to this module's own home stands on the network-on-chip, and the party waits for its answer. -/
theorem askHome_here {s : State} {h : Nat} (here : hHome h = me s) (p : Nat) (move : Bool) :
    (askHome s p h move).noc = s.noc ++ [.trapeze (me s)
      { ttype := 0x07, src := selfParty s p, tag := (partOf s p).nextTag, handle := h }] ∧
    (partOf (askHome s p h move) p).outcomes = (partOf s p).outcomes ++
      [⟨(partOf s p).nextTag, h, s.now + replyWaitNs s, true, move⟩] := by
  unfold askHome takeTag
  dsimp only
  refine ⟨?_, ?_⟩
  · rw [modPart_noc, sendTrapeze_here (by exact here), here]
    simp [selfParty]
  · rw [partOf_modPart_self, partOf_sendTrapeze_here (by exact here), partOf_modPart_self]

/-- Settles O24. -/
theorem offersAndOutcomes : Obligations.OffersAndOutcomes := by
  refine fun s => ⟨fun m h hl => ⟨fun he => ?_, fun he => ?_, fun he hn => ?_⟩, fun p tag o hr hn ho hd ha here => ?_⟩
  · exact ⟨_, offer_held h hl he, partOf_modPart_self .., fun k hk => partOf_modPart_ne _ _ hk⟩
  · exact ⟨_, offer_retired h hl he, returned_retired h hl he, rfl, rfl⟩
  · exact ⟨_, (returned_runs h hl he).trans (congrArg _ (returned_unnamed hn ..)), partOf_outcomeOver_self ..,
      fun k hk => partOf_outcomeOver_ne _ _ hk⟩
  · have asked := askHome_here (s := outcomeCame s p o.handle) here p o.move
    simp only [outcomeCame, selfParty, modPart_me, partOf_modPart_self] at asked
    exact ⟨_, outcomeWaitExpiry_asks hr hn ho hd ha, asked⟩

end Sys2Proof.Machine
end

section
/-! PROOFS. What error records, messages and events of the home leave of partitions and their epochs. -/

namespace Sys2Proof.Machine

open Sys2Proof.Safety

/-! ## Partitions but for what records, requests and semaphores write -/

/-- Of the module: its partitions but for error queues, request records, buckets, semaphores, waiters and remote requests, and
the epoch counters. -/
structure Ledger where
  parts  : Nat → Part
  epochs : AMap Nat

/-- A partition without its error queue, request records, buckets, semaphores, waiters and remote requests. -/
def bare (P : Part) : Part := { P with errq := {}, recs := [], buckets := [], sems := [], waiters := [], remotes := [] }

/-- Of the module as it stands. -/
def ledger (s : State) : Ledger := ⟨fun p => bare (partOf s p), s.flash.epochs⟩

/-- A field of a partition that is in the ledger. -/
theorem part_of_ledger {α : Type} {s t : State} (h : ledger t = ledger s) {π : Part → α} (hπ : ∀ P, π (bare P) = π P) (p : Nat) :
    π (partOf t p) = π (partOf s p) := by
  rw [← hπ, ← hπ (partOf s p)]
  exact congrArg (fun x : Ledger => π (x.parts p)) h

theorem queues_of_ledger {s t : State} (h : ledger t = ledger s) (p : Nat) : (partOf t p).queues = (partOf s p).queues :=
  part_of_ledger h (π := Part.queues) (fun _ => rfl) p

theorem restarts_of_ledger {s t : State} (h : ledger t = ledger s) (p : Nat) : (partOf t p).restarts = (partOf s p).restarts :=
  part_of_ledger h (π := Part.restarts) (fun _ => rfl) p

theorem epochs_of_ledger {s t : State} (h : ledger t = ledger s) : t.flash.epochs = s.flash.epochs := congrArg Ledger.epochs h

theorem ledger_eq {s t : State} (hp : t.parts = s.parts := by rfl) (he : t.flash.epochs = s.flash.epochs := by rfl) :
    ledger t = ledger s := by
  simp only [ledger, partOf, hp, he]

theorem Alike.ledger {s t : State} (h : Alike s t) (he : t.flash.epochs = s.flash.epochs) : ledger t = ledger s := ledger_eq h.parts he

theorem modPart_ledger (s : State) (p : Nat) (f : Part → Part) (h : ∀ P, bare (f P) = bare P) : ledger (modPart s p f) = ledger s := by
  have parts : ∀ k, bare (partOf (modPart s p f) k) = bare (partOf s k) := fun k => by
    by_cases hk : k = p
    · rw [hk, partOf_modPart_self, h]
    · rw [partOf_modPart_ne _ _ hk]
  exact congrArg (fun x => Ledger.mk x s.flash.epochs) (funext parts)

theorem foldl_ledger {α : Type} {f : State → α → State} (h : ∀ s a, ledger (f s a) = ledger s) (l : List α) (s : State) :
    ledger (l.foldl f s) = ledger s := by
  induction l generalizing s with
  | nil => rfl
  | cons a l ih => rw [List.foldl_cons, ih, h]

theorem modErrq_ledger (s : State) (p : Nat) (f : ErrQueue → ErrQueue) : ledger (modErrq s p f) = ledger s :=
  modPart_ledger _ _ _ fun _ => rfl

theorem setRec_ledger (s : State) (p i : Nat) (r : Rec) : ledger (setRec s p i r) = ledger s := modPart_ledger _ _ _ fun _ => rfl

theorem setSem_ledger (s : State) (p sem : Nat) (x : Sem) : ledger (setSem s p sem x) = ledger s :=
  modPart_ledger _ _ _ fun _ => rfl

theorem setBucket_ledger (s : State) (p c : Nat) (b : Bucket) : ledger (setBucket s p c b) = ledger s :=
  modPart_ledger _ _ _ fun _ => rfl

/-! ## The epoch counters in the logs and in memory (R91, R394, R464) -/

theorem foldl_epochs {α : Type} {f : State → α → State} (h : ∀ s a, (f s a).flash.epochs = s.flash.epochs) (l : List α) (s : State) :
    (l.foldl f s).flash.epochs = s.flash.epochs := by
  induction l generalizing s with
  | nil => rfl
  | cons a l ih => rw [List.foldl_cons, ih, h]

@[simp] theorem raisePfs_epochs (s : State) (vector : Nat) : (raisePfs s vector).flash.epochs = s.flash.epochs :=
  foldl_epochs (f := fun s g => emitOut s (.msix g none vector)) (fun _ _ => rfl) _ _

@[simp] theorem raiseVf_epochs (s : State) (p vector : Nat) : (raiseVf s p vector).flash.epochs = s.flash.epochs := by
  unfold raiseVf
  split <;> rfl

@[simp] theorem errToLog_epochs (s : State) (r : ErrRec) : (errToLog s r).1.flash.epochs = s.flash.epochs := by
  unfold errToLog
  dsimp only
  rw [countEv_flash, raisePfs_epochs]
  split <;> rfl

@[simp] theorem logService_epochs (s : State) (etype : Nat) (body : List Byte) :
    (logService s etype body).flash.epochs = s.flash.epochs := by
  unfold logService
  dsimp only
  split <;> rfl

@[simp] theorem logSpare_epochs (s : State) (kind unit index : Nat) : (logSpare s kind unit index).flash.epochs = s.flash.epochs :=
  logService_epochs ..

@[simp] theorem countCorrection_epochs (s : State) (c pin : Nat) : (countCorrection s c pin).flash.epochs = s.flash.epochs := by
  unfold countCorrection
  dsimp only
  split
  · simp
  · split
    · simp
    · split <;> simp

@[simp] theorem countWord_epochs (s : State) (a : Nat) (noise : WordError) : (countWord s a noise).flash.epochs = s.flash.epochs := by
  unfold countWord
  split
  · exact foldl_epochs (fun _ _ => countCorrection_epochs ..) _ _
  · rfl

@[simp] theorem endRuns_epochs (s : State) (a n : Nat) : (endRuns s a n).flash.epochs = s.flash.epochs := by
  unfold endRuns
  split
  · rfl
  · exact foldl_epochs (fun s g => by rw [modChan_flash]) _ _

@[simp] theorem writeWord_epochs (s : State) (w off : Nat) (bs : List Byte) :
    (writeWord s w off bs).1.flash.epochs = s.flash.epochs := by
  unfold writeWord
  split
  · rfl
  · split
    · rfl
    · exact countWord_epochs s w []

@[simp] theorem devWriteWords_epochs (s : State) (a : Nat) (bs : List Byte) (ws : List Nat) :
    (devWriteWords s a bs ws).1.flash.epochs = s.flash.epochs := by
  induction ws generalizing s with
  | nil => rfl
  | cons w ws ih => exact (ih _).trans (writeWord_epochs ..)

@[simp] theorem devWrite_epochs (s : State) (a : Nat) (bs : List Byte) : (devWrite s a bs).1.flash.epochs = s.flash.epochs := by
  unfold devWrite
  dsimp only
  split
  · exact endRuns_epochs ..
  · exact (devWriteWords_epochs ..).trans (endRuns_epochs ..)

theorem hostPost_epochs {s t : State} {g a : Nat} {bs : List Byte} (h : hostPost s g a bs = some t) :
    t.flash.epochs = s.flash.epochs := by
  obtain ⟨u, hu, rfl⟩ := Option.map_eq_some_iff.mp h
  unfold hostWrite at hu
  split at hu <;> cases hu
  rfl

theorem ringWrite_epochs {s t : State} {p g a : Nat} {host : Bool} {bs : List Byte} (h : ringWrite s p host g a bs = some t) :
    t.flash.epochs = s.flash.epochs := by
  unfold ringWrite at h
  split at h
  · exact hostPost_epochs h
  · split at h
    · dsimp only at h
      split at h <;> cases h
      exact devWrite_epochs s a bs
    · cases h

/-! ## Error records (R479 to R485) -/

theorem errToPart_epochs (s : State) (p : Nat) (r : ErrRec) : (errToPart s p r).1.flash.epochs = s.flash.epochs := by
  unfold errToPart
  dsimp only
  split
  · rfl
  · split
    · rfl
    · next h =>
      rw [countEv_flash, raiseVf_epochs, modErrq_flash]
      exact ringWrite_epochs h

theorem errToPart_ledger (s : State) (p : Nat) (r : ErrRec) : ledger (errToPart s p r).1 = ledger s := by
  obtain ⟨f, h⟩ := errToPart_alike s p r
  exact (h.ledger (errToPart_epochs s p r)).trans (modErrq_ledger s p f)

theorem errToLog_ledger (s : State) (r : ErrRec) : ledger (errToLog s r).1 = ledger s := (errToLog_alike s r).ledger (errToLog_epochs s r)

theorem errLost_ledger (s : State) (p : Nat) : ledger (errLost s p) = ledger s :=
  modErrq_ledger s p (fun e => { e with overflow := (e.overflow + 1) % 2 ^ 32 })

theorem errWrite_ledger (s : State) (toPart : Option Nat) (toLog : Bool) (r : ErrRec) :
    ledger (errWrite s toPart toLog r).1 = ledger s := by
  cases toPart with
  | none =>
    unfold errWrite
    dsimp only
    split
    · exact errToLog_ledger s r
    · rfl
  | some p =>
    unfold errWrite
    dsimp only
    split
    · exact (errToLog_ledger ..).trans (errToPart_ledger s p r)
    · exact errToPart_ledger s p r

/-- An error record leaves partitions and epochs as they stand. -/
theorem report_ledger (s : State) (ctx : Option ErrContext) (toPart : Option Nat) (toLog : Bool) (r : ErrRec) :
    ledger (report s ctx toPart toLog r) = ledger s := by
  unfold report
  dsimp only
  split
  · exact errWrite_ledger ..
  · split
    · split
      · split
        · exact errLost_ledger ..
        · rfl
      · exact (ledger_eq (s := (errWrite s _ _ _).1)).trans (errWrite_ledger ..)
    · exact (ledger_eq (s := (errWrite s _ _ _).1)).trans (errWrite_ledger ..)

theorem semAdd_ledger (s : State) (p sem n : Nat) : ledger (semAdd s p sem n) = ledger s := by
  unfold semAdd
  dsimp only
  split
  · rfl
  · split
    · exact setSem_ledger ..
    · exact (report_ledger ..).trans (setSem_ledger ..)

/-! ## Ports (R308 to R320) -/

theorem stampHead_ledger (s : State) (port : Nat) (l : Leaf) : ledger (stampHead s port l) = ledger s := by
  unfold stampHead
  dsimp only
  split
  · rfl
  · split <;> rfl

theorem park_ledger (s : State) (port part tc : Nat) (k : Parked) : ledger (park s port part tc k) = ledger s := by
  cases k <;> rfl

theorem examine_ledger (s : State) (port part tc : Nat) : ledger (examine s port part tc) = ledger s := by
  unfold examine
  dsimp only
  split
  · rfl
  · split
    · rfl
    · split <;> exact park_ledger ..

theorem enqueueFrame_ledger (s : State) (port part tc : Nat) (req : Option Nat) (f : TxFrame) :
    ledger (enqueueFrame s port part tc req f) = ledger s := by
  unfold enqueueFrame
  dsimp only
  split
  · exact stampHead_ledger ..
  · exact (examine_ledger ..).trans (stampHead_ledger ..)

/-! ## Device messages (R98, R342, R350, R365, R378) -/

/-- A dead device message is reported; a dead transaction of an instruction would end in its queue. -/
theorem deadTxn_ledger (s : State) {t : Txn} {o : Out} (h : t.dev = some o) : ledger (deadTxn s t) = ledger s := by
  unfold deadTxn
  dsimp only
  rw [h]
  exact (report_ledger ..)

theorem launchTxn_ledger (s : State) {t : Txn} {o : Out} (h : t.dev = some o) (frames : List TxFrame) :
    ledger (launchTxn s t frames) = ledger s := by
  unfold launchTxn
  dsimp only
  split
  · exact deadTxn_ledger s (t := { t with tag := 0x10000 }) h
  · exact foldl_ledger (fun _ _ => enqueueFrame_ledger ..) _ _

theorem sendTxn_ledger (s : State) {t : Txn} {o : Out} (h : t.dev = some o) (frames : List TxFrame) :
    ledger (sendTxn s t frames) = ledger s := by
  unfold sendTxn
  split
  · rfl
  · exact launchTxn_ledger s h frames

theorem sendConnMsg_ledger (s : State) (n op : Nat) (c : Conn) (r : ConnRecord) : ledger (sendConnMsg s n op c r) = ledger s := by
  unfold sendConnMsg
  dsimp only
  split
  · rfl
  · exact enqueueFrame_ledger ..

theorem sendOpen_ledger (s : State) (n : Nat) : ledger (sendOpen s n) = ledger s := sendConnMsg_ledger ..

theorem makeRoom_ledger (s : State) : ledger (makeRoom s) = ledger s := by
  unfold makeRoom
  split
  · rfl
  · split
    · next e _ =>
      refine (ledger_eq (t := modConn _ _ _)).trans ?_
      cases h : hostPost (draw s) (partOf s e.2.part).connHostFn (hostTableAddr s e.1 e.2)
        ((List.range 256).map (Config.freeByte s.freeCtr)) with
      | none => rfl
      | some t => exact (hostPost_alike h).ledger (hostPost_epochs h)
    · rfl

theorem deviceConn_ledger (s : State) (p tpart : Nat) (dest : Nat × Nat) : ledger (deviceConn s p tpart dest).1 = ledger s := by
  unfold deviceConn peerConn
  split
  · rfl
  · split
    · rfl
    · exact (sendOpen_ledger ..).trans (makeRoom_ledger (draw s))

/-- A device message leaves partitions and epochs as they stand, on whatever way it goes. -/
theorem sendMsg_ledger (s : State) (p tc : Nat) (dest : Nat × Nat) (tpart len : Nat) (o : Out) (req : Option Nat) :
    ledger (sendMsg s p tc dest tpart len o req) = ledger s := by
  have opened : ledger (deviceConn (draw s) p tpart dest).1 = ledger s := deviceConn_ledger ..
  unfold sendMsg
  dsimp only
  split
  · rfl
  · split
    · exact sendTxn_ledger _ rfl _
    · split
      · next h =>
        rw [h] at opened
        exact opened
      · next h =>
        rw [h] at opened
        exact opened

theorem answerAttend_ledger (s : State) (m : AttendMsg) (status : Nat) (body : List Byte) :
    ledger (answerAttend s m status body) = ledger s := sendMsg_ledger ..

theorem dropDeviceConns_ledger (s : State) (p : Nat) : ledger (dropDeviceConns s p) = ledger s := by
  refine foldl_ledger (fun s e => ?_) _ s
  refine (foldl_ledger (fun s x => ?_) e.2.xfers (freeConn s e.1)).trans rfl
  split <;> rfl

/-! ## Frames of the home (R104, R107, R118) -/

theorem sendTrapeze_ledger (s : State) (p : Nat) (dest : Nat × Nat) (m : TMsg) : ledger (sendTrapeze s p dest m) = ledger s :=
  sendMsg_ledger ..

theorem tellParty_ledger (s : State) (g : Nat) (to_ : Party) (m : TMsg) : ledger (tellParty s g to_ m) = ledger s :=
  sendTrapeze_ledger ..

theorem transition_ledger (s : State) (g : Nat) (f : Frame) (event : Nat) : ledger (transition s g f event) = ledger s := rfl

theorem freeFrame_ledger (s : State) (g event : Nat) : ledger (freeFrame s g event) = ledger s := rfl

theorem dropMigration_ledger (s : State) (g : Nat) (asSource : Bool) : ledger (dropMigration s g asSource) = ledger s := rfl

theorem returnedToBoth_ledger (s : State) (g handle status : Nat) (owner offeree : Party) :
    ledger (returnedToBoth s g handle status owner offeree) = ledger s := (tellParty_ledger ..).trans (tellParty_ledger ..)

theorem loseFrame_ledger (s : State) (g event : Nat) : ledger (loseFrame s g event) = ledger s :=
  (tellParty_ledger ..).trans (transition_ledger ..)

theorem sendAbort_ledger (s : State) (g : Nat) (x : Migration) (status handle peer : Nat) :
    ledger (sendAbort s g x status handle peer) = ledger s := (tellParty_ledger ..).trans (sendTrapeze_ledger ..)

theorem abortAtSource_ledger (s : State) (g : Nat) (x : Migration) (status event : Nat) :
    ledger (abortAtSource s g x status event) = ledger s := by
  unfold abortAtSource
  refine (sendAbort_ledger ..).trans ?_
  split <;> rfl

theorem offerLapse_ledger (s : State) (g : Nat) : ledger (offerLapse s g) = ledger s := by
  unfold offerLapse
  dsimp only
  split
  · split
    · exact loseFrame_ledger ..
    · exact (returnedToBoth_ledger ..).trans (transition_ledger ..)
  · rfl

theorem lostLapse_ledger (s : State) (g : Nat) : ledger (lostLapse s g) = ledger s := by
  unfold lostLapse
  dsimp only
  split <;> rfl

theorem migrationLapse_ledger (s : State) (g : Nat) : ledger (migrationLapse s g) = ledger s := by
  unfold migrationLapse
  split
  · split
    · rfl
    · split
      · rfl
      · split
        · rfl
        · exact abortAtSource_ledger ..
  · split
    · split
      · rfl
      · exact (sendAbort_ledger ..).trans ((freeFrame_ledger ..).trans (dropMigration_ledger ..))
    · rfl

theorem forwardLapse_ledger (s : State) (h : Nat) : ledger (forwardLapse s h) = ledger s := by
  unfold forwardLapse
  dsimp only
  split
  · split
    · split <;> rfl
    · rfl
  · rfl

theorem lapse_ledger (s : State) (h : Nat) : ledger (lapse s h) = ledger s :=
  (lostLapse_ledger ..).trans ((offerLapse_ledger ..).trans ((migrationLapse_ledger ..).trans (forwardLapse_ledger ..)))

theorem fenceFrame_ledger (x : Party) (s : State) (g : Nat) : ledger (fenceFrame x s g) = ledger s := by
  unfold fenceFrame
  dsimp only
  split
  · split
    · exact loseFrame_ledger ..
    · rfl
  · split
    · exact (returnedToBoth_ledger ..).trans (transition_ledger ..)
    · rfl
  · split
    · split
      · exact (loseFrame_ledger ..).trans ((sendAbort_ledger ..).trans (dropMigration_ledger ..))
      · exact loseFrame_ledger ..
    · rfl
  · rfl

theorem applyFence_ledger (s : State) (x : Party) (e : Nat) : ledger (applyFence s x e) = ledger s :=
  (foldl_ledger (fun _ _ => (fenceFrame_ledger ..).trans (lapse_ledger ..)) _ _).trans (ledger_eq (t := raiseFloor s x e))

/-! ## Requests that end (R182, R305) -/

theorem refreshCons_ledger (s : State) (p idx n : Nat) : ledger (refreshCons s p idx n) = ledger s := by
  unfold refreshCons
  dsimp only
  split
  · rfl
  · split
    · exact setRec_ledger ..
    · rfl

theorem ringPut_ledger (s : State) (p : Nat) (leaf : Option Nat) (r : Rec) (off : Nat) (bs : List Byte) :
    ledger (ringPut s p leaf r off bs) = ledger s := by
  unfold ringPut
  split
  · exact enqueueFrame_ledger ..
  · rfl

theorem endRequest_ledger (s : State) (p idx : Nat) (leaf : Option Nat) (final : Nat) (entry : Option Nat) :
    ledger (endRequest s p idx leaf final entry) = ledger s := by
  unfold endRequest
  dsimp only
  refine (ringPut_ledger ..).trans ((ringPut_ledger ..).trans ((ringPut_ledger ..).trans ((setRec_ledger ..).trans ?_)))
  split
  · exact refreshCons_ledger ..
  · split
    · exact (setRec_ledger ..).trans ((ringPut_ledger ..).trans (refreshCons_ledger ..))
    · exact refreshCons_ledger ..

theorem retire_ledger (s : State) (p idx : Nat) (leaf : Option Nat) (final : Nat) : ledger (retire s p idx leaf final) = ledger s := by
  unfold retire
  refine (endRequest_ledger ..).trans ?_
  split
  · dsimp only
    split
    · rfl
    · exact setBucket_ledger ..
  · rfl

theorem endRequests_ledger (s : State) (p : Nat) : ledger (endRequests s p) = ledger s :=
  foldl_ledger (fun _ _ => retire_ledger ..) _ _

end Sys2Proof.Machine
end

section
/-! PROOFS. Restarts: what is left of a partition's queues, and its start at the next epoch (O51). -/

namespace Sys2Proof.Machine

open Sys2Proof.Safety

/-! ## Queues that are torn down (R208, R421) -/

/-- The instructions of a queue that teardown lets run on (R208). -/
def drainClass (x : Queue) : List Issued := x.issued.filter (fun i => !isRestart i)

/-- What the teardown of some queues of a partition leaves: the epoch counters, the count of restarts, of each queue torn down
its drain-class instructions, and of every other all. -/
structure Drains (p : Nat) (qs : List Nat) (s t : State) : Prop where
  epochs   : t.flash.epochs = s.flash.epochs
  restarts : (partOf t p).restarts = (partOf s p).restarts
  issued   : ∀ q, (queueOf (partOf t p) q).issued =
    if q ∈ qs then drainClass (queueOf (partOf s p) q) else (queueOf (partOf s p) q).issued

section
variable {p : Nat} {s t u : State}

theorem drains_of_ledger (h : ledger t = ledger s) : Drains p [] s t :=
  ⟨epochs_of_ledger h, restarts_of_ledger h p, fun q => by simp [queueOf, queues_of_ledger h]⟩

theorem Drains.trans {qs rs : List Nat} (h : Drains p qs s t) (k : Drains p rs t u) : Drains p (qs ++ rs) s u := by
  refine ⟨k.epochs.trans h.epochs, k.restarts.trans h.restarts, fun q => ?_⟩
  have once : ∀ l : List Issued, (l.filter (fun i => !isRestart i)).filter (fun i => !isRestart i) = l.filter (fun i => !isRestart i) :=
    fun l => by simp
  rw [k.issued, drainClass, h.issued]
  by_cases hq : q ∈ qs <;> by_cases hr : q ∈ rs <;> simp [hq, hr, drainClass, once]

theorem foldl_drains {α : Type} {f : State → α → State} (h : ∀ s a, Drains p [] s (f s a)) (l : List α) (s : State) :
    Drains p [] s (l.foldl f s) := by
  induction l generalizing s with
  | nil => exact drains_of_ledger rfl
  | cons a l ih => exact (h s a).trans (ih _)

end

/-- A queue changed in more than what it has issued. -/
theorem modQueue_drains (s : State) (p q : Nat) {f : Queue → Queue} (h : ∀ x, (f x).issued = x.issued) :
    Drains p [] s (modQueue s p q f) := by
  refine ⟨rfl, by rw [partOf_modQueue], fun k => ?_⟩
  by_cases hk : k = q
  · rw [hk, queueOf_modQueue_self, h]
    rfl
  · rw [queueOf_modQueue_ne _ _ hk]
    rfl

/-- A queue that keeps its drain-class instructions. -/
theorem modQueue_drains_self (s : State) (p q : Nat) {f : Queue → Queue} (h : ∀ x, (f x).issued = drainClass x) :
    Drains p [q] s (modQueue s p q f) := by
  refine ⟨rfl, by rw [partOf_modQueue], fun k => ?_⟩
  by_cases hk : k = q
  · rw [hk, queueOf_modQueue_self, h, if_pos List.mem_cons_self]
  · rw [queueOf_modQueue_ne _ _ hk, if_neg (by simpa using hk)]

theorem unhalt_drains (s : State) (p q : Nat) (i : Issued) : Drains p [] s (unhalt s p q i) := by
  unfold unhalt
  dsimp only
  split
  · exact modQueue_drains _ _ _ fun x => by split <;> rfl
  · exact drains_of_ledger rfl

theorem freeRebuilt_ledger (s : State) (i : Issued) : ledger (freeRebuilt s i) = ledger s := by
  unfold freeRebuilt
  split <;> rfl

theorem returnTokens_ledger (s : State) (p q : Nat) : ledger (returnTokens s p q) = ledger s := by
  unfold returnTokens
  dsimp only
  refine (modPart_ledger _ p (fun P => { P with waiters := P.waiters.filter (fun y => y.queue != q) }) fun _ => rfl).trans ?_
  exact foldl_ledger (fun s (e : Nat × Nat) => semAdd_ledger s p e.1 e.2) _ _

theorem forgetWork_ledger (s : State) (p q : Nat) (idxs : List Nat) : ledger (forgetWork s p q idxs) = ledger s := by
  have forgotten := modPart_ledger s p (fun P => { P with
    remotes := P.remotes.filter (fun r => !(r.w.part == p && r.w.queue == q && idxs.contains r.w.idx)) }) fun _ => rfl
  exact .trans (ledger_eq (s := modPart s p _)) forgotten

theorem abandonQueue_drains (s : State) (p q : Nat) : Drains p [q] s (abandonQueue s p q) := by
  unfold abandonQueue
  dsimp only
  refine .trans (qs := []) ?_ (modQueue_drains_self _ _ _ fun _ => rfl)
  refine .trans (rs := []) (foldl_drains (fun s i => ?_) _ s)
    (drains_of_ledger ((forgetWork_ledger ..).trans (returnTokens_ledger ..)))
  exact (drains_of_ledger (freeRebuilt_ledger s i)).trans (unhalt_drains ..)

theorem loosePointers_drains (s : State) (p q : Nat) : Drains p [] s (loosePointers s p q) := by
  refine .trans (rs := []) (modQueue_drains s p q (f := fun x => { x with
    head := Config.freeWord (4 * s.freeCtr) % 2 ^ 32, tail := Config.freeWord (4 * s.freeCtr + 1) % 2 ^ 32
    cprod := Config.freeWord (4 * s.freeCtr + 2) % 2 ^ 32, ccons := Config.freeWord (4 * s.freeCtr + 3) % 2 ^ 32
    frozen := none }) fun _ => rfl) ?_
  exact drains_of_ledger ledger_eq

theorem tearQueue_drains (s : State) (p q : Nat) : Drains p [q] s (tearQueue s p q) := by
  have halted : Drains p [q] s (modQueue (abandonQueue s p q) p q (fun x => { x with cause := 0x07, enable := false })) :=
    .trans (rs := []) (abandonQueue_drains s p q) (modQueue_drains _ _ _ fun _ => rfl)
  unfold tearQueue
  dsimp only
  split
  · exact halted.trans (rs := []) (loosePointers_drains ..)
  · exact halted

/-- Queues torn down one after the other. -/
theorem foldl_tearQueue_drains (p : Nat) (qs : List Nat) (s : State) : Drains p qs s (qs.foldl (fun s q => tearQueue s p q) s) := by
  induction qs generalizing s with
  | nil => exact drains_of_ledger rfl
  | cons q qs ih =>
    rw [List.foldl_cons, ← List.singleton_append]
    exact (tearQueue_drains s p q).trans (ih (tearQueue s p q))

/-! ## Step 1 of a restart (R443) -/

theorem mem_listedQueues {s : State} {p q : Nat} {i : Issued} (hq : q < 64) (h : i ∈ (queueOf (partOf s p) q).issued) :
    q ∈ listedQueues s p := by
  simp only [listedQueues, List.mem_filter, List.mem_map, hq, decide_true, and_true]
  exact ⟨_, queue_listed h, rfl⟩

theorem lt_of_mem_listedQueues {s : State} {p q : Nat} (h : q ∈ listedQueues s p) : q < 64 := by
  simpa using (List.mem_filter.mp h).2

/-- What step 1 of a restart leaves: epochs, the count of restarts, and of each queue of software its drain-class instructions. -/
theorem restarted_drains (s : State) (p : Nat) (cause : RestartCause) :
    (restarted s p cause).flash.epochs = s.flash.epochs ∧
    (partOf (restarted s p cause) p).restarts = (partOf s p).restarts ∧
    ∀ q, q < 64 → (queueOf (partOf (restarted s p cause) p) q).issued = drainClass (queueOf (partOf s p) q) := by
  unfold restarted
  dsimp only
  have reported := report_ledger s (some (.partition p)) (some p) true
    { code := 0x11, level := 3, part := p, detail := restartCode cause }
  generalize report s (some (.partition p)) (some p) true
    { code := 0x11, level := 3, part := p, detail := restartCode cause } = s1 at reported ⊢
  have listed : listedQueues s1 p = listedQueues s p := by simp only [listedQueues, queues_of_ledger reported]
  have answered := foldl_ledger (fun s m => answerAttend_ledger s m St.noAttend []) (partOf s p).attendInbox
    ((listedQueues s1 p).foldl (fun s q => tearQueue s p q) s1)
  have torn := ((drains_of_ledger (p := p) reported).trans (foldl_tearQueue_drains p (listedQueues s1 p) s1)).trans
    (drains_of_ledger answered)
  generalize (partOf s p).attendInbox.foldl (fun s m => answerAttend s m St.noAttend [])
    ((listedQueues s1 p).foldl (fun s q => tearQueue s p q) s1) = s3 at torn ⊢
  rw [partOf_modPart_self]
  refine ⟨torn.epochs, torn.restarts, fun q hq => ?_⟩
  have kept : (queueOf { partOf s3 p with queues := AMap.erase (partOf s3 p).queues 64 } q).issued = (queueOf (partOf s3 p) q).issued :=
    congrArg Queue.issued (AMap.getD_erase_ne _ _ (by omega))
  refine kept.trans ((torn.issued q).trans ?_)
  split
  · rfl
  · next unlisted =>
    have idle : (queueOf (partOf s p) q).issued = [] := List.eq_nil_iff_forall_not_mem.mpr fun i hi =>
      unlisted (by simp [listed, mem_listedQueues hq hi])
    rw [drainClass, idle]
    rfl

theorem restarted_state (s : State) (p : Nat) (cause : RestartCause) : (partOf (restarted s p cause) p).state = .restarting := by
  unfold restarted
  dsimp only
  rw [partOf_modPart_self]

theorem restarted_drained {s : State} {p : Nat} (cause : RestartCause)
    (h : ∀ q i, q < 64 → i ∈ (queueOf (partOf s p) q).issued → restartClass i.words = true) :
    drained (restarted s p cause) p = true := by
  obtain ⟨-, -, issued⟩ := restarted_drains s p cause
  refine List.all_eq_true.mpr fun q hq => ?_
  have hq := lt_of_mem_listedQueues hq
  rw [issued q hq, List.isEmpty_iff, drainClass, List.filter_eq_nil_iff]
  exact fun i hi => by simp [isRestart, h q i hq hi]

theorem restarted_not_drained {s : State} {p q : Nat} {i : Issued} (cause : RestartCause) (hq : q < 64)
    (hi : i ∈ (queueOf (partOf s p) q).issued) (hc : restartClass i.words = false) : drained (restarted s p cause) p = false := by
  obtain ⟨-, -, issued⟩ := restarted_drains s p cause
  have runs : i ∈ (queueOf (partOf (restarted s p cause) p) q).issued := by
    rw [issued q hq]
    exact List.mem_filter.mpr ⟨hi, by simp [isRestart, hc]⟩
  refine List.all_eq_false.mpr ⟨q, mem_listedQueues hq runs, ?_⟩
  simp [List.ne_nil_of_mem runs]

/-! ## Steps 2 to 5 (R91, R439, R443) -/

/-- A partition whose epoch counter is not used up starts PREEMPTED at its next epoch. -/
theorem startPart_starts {s : State} {p : Nat} (P : Part) (h : AMap.getD s.flash.epochs p 0 < 0xFFFFFFFF) :
    partOf (startPart s p P) p = { P with state := .preempted, epoch := AMap.getD s.flash.epochs p 0 + 1 } ∧
    (startPart s p P).flash.epochs = AMap.insert s.flash.epochs p (AMap.getD s.flash.epochs p 0 + 1) := by
  unfold startPart
  dsimp only
  rw [if_neg (Nat.not_le.mpr h)]
  exact ⟨partOf_setPart_self .., rfl⟩

/-- Steps 2 to 5 start the partition afresh at the next epoch. -/
theorem finishRestart_starts {s : State} {p : Nat} (h : AMap.getD s.flash.epochs p 0 < 0xFFFFFFFF) :
    ∃ u, ledger u = ledger s ∧
      partOf (finishRestart s p) p = { freshPart (partOf u p) with state := .preempted, epoch := AMap.getD s.flash.epochs p 0 + 1 } ∧
      (finishRestart s p).flash.epochs = AMap.insert s.flash.epochs p (AMap.getD s.flash.epochs p 0 + 1) := by
  unfold finishRestart
  dsimp only
  have fenced : ledger (dropDeviceConns (applyFence (endRequests s p) (selfParty s p) (selfParty s p).epoch) p) = ledger s :=
    (dropDeviceConns_ledger ..).trans ((applyFence_ledger ..).trans (endRequests_ledger ..))
  generalize dropDeviceConns (applyFence (endRequests s p) (selfParty s p) (selfParty s p).epoch) p = u at fenced ⊢
  have epochs : (forgetPart u p).flash.epochs = s.flash.epochs := epochs_of_ledger fenced
  have starts := startPart_starts (s := forgetPart u p) (freshPart (partOf u p)) (by rw [epochs]; exact h)
  rw [epochs] at starts
  exact ⟨u, fenced, starts⟩

theorem queueOf_freshPart (P : Part) (q : Nat) : queueOf (freshPart P) q = {} := rfl

/-- Every record of a partition that starts afresh is free. -/
theorem freshPart_free (P : Part) (idx n : Nat) : (AMap.getD (freshPart P).recs idx { rgen := n }).state = .free := by
  unfold AMap.getD
  split
  · next r hr =>
    obtain ⟨e, -, he⟩ := List.mem_map.mp (mem_of_find? (m := (freshPart P).recs) hr)
    cases he
    rfl
  · rfl

/-- What a restart gives a partition all of whose instructions are of the restart class. -/
theorem restartPart_starts {s : State} {p : Nat} (cause : RestartCause) (h1 : (partOf s p).state ≠ .notStarted)
    (h2 : (partOf s p).state ≠ .restarting) (hn : AMap.getD s.flash.epochs p 0 < 0xFFFFFFFF)
    (h : ∀ q i, q < 64 → i ∈ (queueOf (partOf s p) q).issued → restartClass i.words = true) :
    ∃ u, (partOf u p).restarts = (partOf s p).restarts ∧ (partOf u p).lastCause = restartCode cause ∧
      partOf (restartPart s p cause) p =
        { freshPart (partOf u p) with state := .preempted, epoch := AMap.getD s.flash.epochs p 0 + 1 } ∧
      (restartPart s p cause).flash.epochs = AMap.insert s.flash.epochs p (AMap.getD s.flash.epochs p 0 + 1) := by
  obtain ⟨epochs, restarts, -⟩ := restarted_drains s p cause
  obtain ⟨u, fenced, starts⟩ := finishRestart_starts (s := restarted s p cause) (p := p) (by rw [epochs]; exact hn)
  rw [epochs] at starts
  have goes : restartPart s p cause = finishRestart (restarted s p cause) p := by
    rw [restartPart_runs s p cause h1 h2, continueRestart, if_pos ⟨restarted_state .., restarted_drained cause h⟩]
  rw [goes]
  exact ⟨u, (restarts_of_ledger fenced p).trans restarts,
    (part_of_ledger fenced (π := Part.lastCause) (fun _ => rfl) p).trans (restarted_lastCause ..), starts⟩

/-- While a drain-class instruction is in flight the partition is RESTARTING. -/
theorem restartPart_waits {s : State} {p q : Nat} {i : Issued} (cause : RestartCause) (h1 : (partOf s p).state ≠ .notStarted)
    (h2 : (partOf s p).state ≠ .restarting) (hq : q < 64) (hi : i ∈ (queueOf (partOf s p) q).issued)
    (hc : restartClass i.words = false) : restartPart s p cause = restarted s p cause := by
  rw [restartPart_runs s p cause h1 h2, continueRestart, if_neg (by simp [restarted_not_drained cause hq hi hc])]

/-! ## CC_PART.RESTART (R445, R489, R499) -/

theorem mregAt_ccPart {p : Nat} (h : p < 16) : mregAt (0x10000 + 8 * p) = some (.ccPart p) := by
  have all : ∀ p < 16, mregAt (0x10000 + 8 * p) = some (.ccPart p) := by decide
  exact all p h

theorem mayWrite_hostTlp (s : State) (a acc : Accessor) (page : Page) (off : Nat) :
    mayWrite (hostTlp s a) acc page off = mayWrite s acc page off := by
  cases a <;> rfl

/-- A write of 4 to CC_PART fires RESTART alone. -/
theorem applyM_ccPart_restart {s : State} {p : Nat} (hc : composed s p = true) (acc : Accessor) (old : Nat) :
    applyM s acc (writtenBy (mfields (.ccPart p)) old 63 0 4) (.ccPart p) = restartPart s p (.software acc) := by
  show writePartCtrl s acc p _ = _
  have fires : ∀ i < 3, (writtenBy (mfields (.ccPart p)) old 63 0 4).fires i = decide (i = 2) := by
    have trig : (writtenBy (mfields (.ccPart p)) old 63 0 4).trig = 4 := by rfl
    unfold Written.fires
    rw [trig]
    decide
  unfold writePartCtrl
  dsimp only
  rw [fires 0 (by decide), fires 1 (by decide), fires 2 (by decide), if_neg (by simp [hc])]
  rfl

theorem write8_restart {s : State} {acc : Accessor} {p : Nat} (hc : composed s p = true)
    (hw : Reaches s acc .module (0x10000 + 8 * p)) :
    write8 s acc .module (0x10000 + 8 * p) 4 = restartPart (hostTlp s acc) p (.software acc) := by
  obtain ⟨reach, may⟩ := hw
  have hp : p < 16 := by
    simp [composed] at hc
    omega
  have composed' : composed (hostTlp s acc) p = true := by
    rw [← hc]
    cases acc <;> rfl
  have base : (0x10000 + 8 * p) / 8 * 8 = 0x10000 + 8 * p := by omega
  have form : goodForm (0x10000 + 8 * p) 8 = true := by
    have aligned : (0x10000 + 8 * p) % 8 = 0 := by omega
    exact decide_eq_true (.inr ⟨rfl, by decide, aligned, by omega⟩)
  unfold write8 writeRegs
  rw [if_neg (by simp [reach])]
  dsimp only
  rw [if_neg (by simp [form]), if_neg (by decide)]
  show writeReg (hostTlp s acc) acc .module (0x10000 + 8 * p) 8 4 = _
  unfold writeReg
  dsimp only
  rw [if_neg (by simp [mayWrite_hostTlp, may]), base, mregAt_ccPart hp]
  dsimp only
  rw [if_neg (by simp [changesStop, mfields])]
  exact applyM_ccPart_restart composed' acc _

/-- A RESTART restarts its partition: by its cause alone, or by the write of a register, whose access is counted before. -/
theorem restart_runs {s : State} {p : Nat} {cause : RestartCause} (hr : ready s = true) (hc : composed s p = true)
    (hw : ∀ acc, cause = .software acc → Reaches s acc .module (0x10000 + 8 * p)) :
    ∃ u, u.parts = s.parts ∧ u.flash = s.flash ∧ exec (.restart p cause) s = .next (restartPart u p cause) := by
  cases cause with
  | software acc =>
    refine ⟨hostTlp s acc, by cases acc <;> rfl, by cases acc <;> rfl, ?_⟩
    exact congrArg _ (write8_restart hc (hw acc rfl))
  | coreFailure => exact ⟨s, rfl, rfl, if_pos (by simp [hr, hc])⟩
  | escalation => exact ⟨s, rfl, rfl, if_pos (by simp [hr, hc])⟩

/-- Settles O51: step 1 leaves the drain-class instructions, and without one the partition starts afresh. -/
theorem restartsTakeANewEpoch : Obligations.RestartsTakeANewEpoch := by
  intro s p cause hr hc hw h1 h2 hn
  obtain ⟨u, parts, flash, run⟩ := restart_runs hr hc hw
  have same : partOf u p = partOf s p := by rw [partOf, parts, ← partOf]
  refine ⟨fun idle => ?_, fun ⟨q, i, hq, hi, drain⟩ => ?_⟩
  · obtain ⟨v, restarts, last, part, epochs⟩ := restartPart_starts (s := u) (p := p) cause (by rwa [same]) (by rwa [same])
      (by rwa [flash]) (by rwa [same])
    rw [flash] at part epochs
    rw [same] at restarts
    refine ⟨_, run, ?_, ?_, ?_, ?_, ?_, fun q => ?_, fun idx => ?_⟩
    · rw [part]
    · rw [part]
    · rw [part, epochs, AMap.getD_insert_self]
    · rw [part]
      exact last
    · rw [part, ← restarts]
      rfl
    · rw [part]
      exact queueOf_freshPart (partOf v p) q
    · rw [recOf, part]
      exact freshPart_free (partOf v p) idx _
  · have waits := restartPart_waits (s := u) (p := p) cause (by rwa [same]) (by rwa [same]) (lt_of_mem_listedQueues hq)
      (by rwa [same]) drain
    rw [waits] at run
    exact ⟨_, run, restarted_state .., restarted_lastCause ..⟩

end Sys2Proof.Machine
end

section
/-! PROOFS. Answers to the messages of State instructions (O23). -/

namespace Sys2Proof.Machine

open Sys2Proof.Safety

/-! ## The queues as they stand -/

/-- Every partition's queues stand in t as in s. -/
structure SameQueues (s t : State) : Prop where
  queues : ∀ p, (partOf t p).queues = (partOf s p).queues

section
variable {s t u : State}

theorem SameQueues.rfl : SameQueues s s := ⟨fun _ => Eq.refl _⟩

theorem SameQueues.trans (h : SameQueues s t) (k : SameQueues t u) : SameQueues s u := ⟨fun p => (k.queues p).trans (h.queues p)⟩

theorem sameQueues_of_ledger (h : ledger t = ledger s) : SameQueues s t := ⟨queues_of_ledger h⟩

theorem modPart_sameQueues (s : State) (p : Nat) {f : Part → Part} (h : ∀ P, (f P).queues = P.queues) :
    SameQueues s (modPart s p f) := by
  refine ⟨fun k => ?_⟩
  by_cases hk : k = p
  · rw [hk, partOf_modPart_self, h]
  · rw [partOf_modPart_ne _ _ hk]

theorem SameQueues.issuedOf (h : SameQueues s t) (w : IRef) : issuedOf t w = issuedOf s w := by
  simp only [Machine.issuedOf, queueOf, h.queues w.part]

theorem SameQueues.awaiting (h : SameQueues s t) (p tag : Nat) : awaiting t p tag = awaiting s p tag := by
  simp only [Machine.awaiting, h.queues p]

end

theorem takeNoc_sameQueues (s : State) (o : Out) : SameQueues s (takeNoc s o) := sameQueues_of_ledger ledger_eq

theorem noteFenced_sameQueues (s : State) (p st : Nat) : SameQueues s (noteFenced s p st) := by
  unfold noteFenced
  split
  · exact modPart_sameQueues _ _ fun _ => rfl
  · exact .rfl

theorem outcomeCame_sameQueues (s : State) (p h : Nat) : SameQueues s (outcomeCame s p h) := modPart_sameQueues _ _ fun _ => rfl

theorem expectOutcome_sameQueues (s : State) (p tag h deadline : Nat) (move : Bool) :
    SameQueues s (expectOutcome s p tag h deadline move) := modPart_sameQueues _ _ fun _ => rfl

theorem modHomeUse_sameQueues (s : State) (p : Nat) (home : Nat × Nat × Nat) (f : HomeUse → HomeUse) :
    SameQueues s (modHomeUse s p home f) := modPart_sameQueues _ _ fun P => by
  dsimp only
  split <;> rfl

theorem sizeHandles_sameQueues (s : State) (p : Nat) (hs : List Nat) (n : Nat) : SameQueues s (sizeHandles s p hs n) :=
  modPart_sameQueues _ _ fun _ => rfl

theorem noteAlloc_sameQueues (s : State) (p : Nat) (i : Issued) (m : TMsg) (hs : List Nat) :
    SameQueues s (noteAlloc s p i m hs) := by
  unfold noteAlloc
  split
  · exact .rfl
  · dsimp only
    unfold useHome homeFull
    split
    · exact (modHomeUse_sameQueues ..).trans (sizeHandles_sameQueues ..)
    · split
      · exact modHomeUse_sameQueues ..
      · exact .rfl

theorem noteFree_sameQueues (s : State) (p : Nat) (m : TMsg) (hs : List Nat) : SameQueues s (noteFree s p m hs) := by
  unfold noteFree useHome
  dsimp only
  split
  · exact (modHomeUse_sameQueues ..).trans (modPart_sameQueues _ _ fun _ => rfl)
  · exact .rfl

theorem noteRelease_sameQueues (s : State) (p h : Nat) (m : TMsg) : SameQueues s (noteRelease s p h m) := by
  unfold noteRelease
  split
  · exact (outcomeCame_sameQueues ..).trans (expectOutcome_sameQueues ..)
  · exact outcomeCame_sameQueues ..

theorem sendRecord_sameQueues (s : State) (p h : Nat) (to_ : Party) : SameQueues s (sendRecord s p h to_) := by
  unfold sendRecord
  split
  · exact .rfl
  · dsimp only
    split <;> exact sameQueues_of_ledger ledger_eq

theorem dissolve_sameQueues (s : State) (p : Nat) (i : Issued) : SameQueues s (dissolve s p i) := by
  unfold dissolve
  exact modPart_sameQueues _ _ fun _ => rfl

theorem noteNotOwner_ledger (s : State) (w : IRef) (st h : Nat) : ledger (noteNotOwner s w st h) = ledger s := by
  unfold noteNotOwner violation
  split
  · exact report_ledger ..
  · rfl

/-! ## What a REPLY tells the ringmaster before it ends its instruction (R75, R109, R120, R184, R411) -/

/-- The state in which the answer m to the await a of the instruction i is given. -/
def noteReply (s : State) (m : TMsg) (hs : List Nat) (i : Issued) (a : Await) : State :=
  let p := m.toPart
  let s1 := noteAlloc (noteFenced s p m.status) p i m hs
  if opcodeOf i.words = 0x13 then
    noteRelease (if m.status = St.ok then sendRecord s1 p a.handle (partyOfWord (extLo i.words 1)) else s1) p a.handle m
  else if opcodeOf i.words = 0x14 then outcomeCame s1 p a.handle
  else if opcodeOf i.words = 0x12 then noteFree (dissolve s1 p i) p m hs else s1

theorem noteReply_sameQueues (s : State) (m : TMsg) (hs : List Nat) (i : Issued) (a : Await) :
    SameQueues s (noteReply s m hs i a) := by
  unfold noteReply
  dsimp only
  refine ((noteFenced_sameQueues s m.toPart m.status).trans (noteAlloc_sameQueues _ m.toPart i m hs)).trans ?_
  split
  · refine SameQueues.trans ?_ (noteRelease_sameQueues ..)
    split
    · exact sendRecord_sameQueues ..
    · exact .rfl
  · split
    · exact outcomeCame_sameQueues ..
    · split
      · exact (dissolve_sameQueues ..).trans (noteFree_sameQueues ..)
      · exact .rfl

/-- A REPLY that an instruction awaits tells the ringmaster and answers the instruction. -/
theorem reply_runs {s : State} {m : TMsg} {hs : List Nat} {w : IRef} {i : Issued} {a : Await} (h : InTurn s (replyForm s m hs))
    (hl : m.level = 1) (he : forEpoch s m = true) (hw : awaiting s m.toPart m.tag = some (w, i, a)) :
    let t := noteReply (takeNoc s (replyForm s m hs)) m hs i a
    exec (.reply m hs) s = .next ((answerInstr t m.toPart m.tag m.status (replyValue i m hs).1
      (if m.status = St.ok then (replyValue i m hs).2 else [])).getD t) := by
  show execReply m hs s = _
  unfold execReply
  rw [partyEvent_runs h hl he]
  dsimp only
  have found : awaiting (noteFenced (takeNoc s (replyForm s m hs)) m.toPart m.status) m.toPart m.tag = some (w, i, a) :=
    ((noteFenced_sameQueues ..).awaiting ..).trans hw
  rw [found]
  rfl

/-! ## Instructions changed and ended -/

theorem changeIssued_open {f : Issued → Issued} {i : Issued} (h : (f i).status = none) (now : Nat) : changeIssued now f i = f i := by
  simp [changeIssued, h]

/-- A field of a partition other than its queues stays where an instruction changes. -/
theorem modIssued_field {α : Type} {π : Part → α} (hπ : ∀ P qs, π { P with queues := qs } = π P) (s : State) (w : IRef)
    (f : Issued → Issued) (p : Nat) : π (partOf (modIssued s w f) p) = π (partOf s p) := by
  by_cases hp : p = w.part
  · rw [hp, modIssued, partOf_modQueue, hπ]
  · rw [modIssued, partOf_modQueue_ne _ _ hp]

/-- Every other partition stays where an instruction changes. -/
theorem partOf_modIssued_ne (s : State) {w : IRef} (f : Issued → Issued) {p : Nat} (hp : p ≠ w.part) :
    partOf (modIssued s w f) p = partOf s p := partOf_modQueue_ne _ _ hp

/-- An instruction that has sent its messages ends with what they gathered once none is unanswered, or when forced. -/
theorem settle_finishes {s : State} {w : IRef} {i : Issued} {force : Bool} (h : issuedOf s w = some i) (hs : i.status = none)
    (started : i.started = true) (asking : sealAsking i = false) (answered : (∀ a ∈ i.awaits, a.status ≠ none) ∨ force = true) :
    settle s w force = finish s w (settled i).1 (settled i).2.1 (settled i).2.2 := by
  have ends : (i.awaits.any (·.status.isNone) && !force) = false := by
    rcases answered with all | forced
    · rw [Bool.and_eq_false_iff, List.any_eq_false]
      exact .inl fun a ha => by simpa using all a ha
    · simp [forced]
  unfold settle
  simp only [h]
  rw [if_neg (by simp [hs, started, asking, ends])]

theorem sealAsking_of_held {i : Issued} (h : i.held = []) : sealAsking i = false := by simp [sealAsking, h]

theorem sealAsking_of_opcode {i : Issued} (h : opcodeOf i.words ≠ 0x11) : sealAsking i = false := by simp [sealAsking, h]

/-- The one message of the instruction i is out, unanswered or not, and i has not ended. -/
structure AsksOne (s : State) (w : IRef) (i : Issued) (a : Await) : Prop where
  issued  : issuedOf s w = some i
  awaits  : i.awaits = [a]
  started : i.started = true
  asking  : sealAsking i = false
  status  : i.status = none

/-- The instruction i with its one message answered, and more effects. -/
def withAnswer (i : Issued) (a : Await) (st v : Nat) (fx : List Effect) : Issued :=
  { i with awaits := [{ a with status := some st, value := v }], effects := i.effects ++ fx }

/-- The instruction i with its message of a tag answered. -/
def answered (tag st v : Nat) (i : Issued) : Issued :=
  { i with awaits := i.awaits.map (fun a => if a.tag == tag then { a with status := some st, value := v } else a) }

theorem AsksOne.of_sameQueues {s t : State} {w : IRef} {i : Issued} {a : Await} (h : AsksOne s w i a) (k : SameQueues s t) :
    AsksOne t w i a := { h with issued := (k.issuedOf w).trans h.issued }

/-- An instruction whose one message is answered ends with what the answer gives. -/
theorem settle_answered {s : State} {w : IRef} {i : Issued} {a : Await} {st v : Nat} {fx : List Effect}
    (h : issuedOf s w = some (withAnswer i a st v fx)) (hs : i.status = none) (started : i.started = true)
    (asking : sealAsking i = false) :
    settle s w = finish s w (settled (withAnswer i a st v fx)).1 (settled (withAnswer i a st v fx)).2.1
      (settled (withAnswer i a st v fx)).2.2 :=
  settle_finishes h hs started asking (.inl fun b hb => by simp [List.mem_singleton.mp hb])

theorem AsksOne.answerAwait {s : State} {w : IRef} {i : Issued} {a : Await} (h : AsksOne s w i a) (st v : Nat) :
    Machine.issuedOf (Machine.answerAwait s w a.tag st v) w = some (withAnswer i a st v []) := by
  refine (issuedOf_modIssued_self (f := answered a.tag st v) (fun _ => rfl) h.issued).trans (congrArg some ?_)
  rw [changeIssued_open (by exact h.status)]
  simp [answered, withAnswer, h.awaits]

theorem withAnswer_words (i : Issued) (a : Await) (st v : Nat) (fx : List Effect) : (withAnswer i a st v fx).words = i.words := rfl

theorem firstBad_withAnswer (i : Issued) (a : Await) (st v : Nat) (fx : List Effect) :
    firstBad (statusesOf (withAnswer i a st v fx)) = st := by
  simp only [statusesOf, withAnswer, List.map_cons, List.map_nil, Option.getD_some, firstBad]
  split
  · next h => exact h.symm
  · rfl

section
variable {i : Issued} (a : Await) (st v : Nat) (fx : List Effect)

/-- The status that an instruction of the State group gathers from its one answer is the answer's. -/
theorem settled_status (h1 : 0x10 ≤ opcodeOf i.words) (h2 : opcodeOf i.words ≤ 0x16) :
    (settled (withAnswer i a st v fx)).1 = st := by
  obtain h | h | h | h | h | h | h : opcodeOf i.words = 0x10 ∨ opcodeOf i.words = 0x11 ∨ opcodeOf i.words = 0x12 ∨
      opcodeOf i.words = 0x13 ∨ opcodeOf i.words = 0x14 ∨ opcodeOf i.words = 0x15 ∨ opcodeOf i.words = 0x16 := by omega
  all_goals simp only [settled, withAnswer_words, h, firstBad_withAnswer]
  split <;> rfl

theorem settled_alloc (h : opcodeOf i.words = 0x10) : settled (withAnswer i a st v fx) =
    (st, if st = St.ok then v else 0, if st = St.ok then i.effects ++ fx else []) := by
  simp only [settled, withAnswer_words, h, firstBad_withAnswer]
  rfl

theorem settled_migrate (h : opcodeOf i.words = 0x15) : settled (withAnswer i a st v fx) =
    (st, if st = St.ok then v else 0, []) := by
  simp only [settled, withAnswer_words, h, firstBad_withAnswer]
  rfl

theorem settled_query (h : opcodeOf i.words = 0x16) : settled (withAnswer i a st v fx) = (st, v, i.effects ++ fx) := by
  simp only [settled, withAnswer_words, h, firstBad_withAnswer]
  rfl

theorem settled_fence (h : opcodeOf i.words = 0x17) : settled (withAnswer i a st v fx) =
    (st, if st = St.ok then 1 else 0, [.devWrite (extAddr i.words 1 + 8 * a.pos + 4) [BitVec.ofNat 8 st]]) := by
  simp only [settled, withAnswer_words, h, firstBad_withAnswer]
  by_cases hst : st = St.ok <;> simp [withAnswer, fenceMarks, hst]

end

/-- The instruction i with more effects. -/
def withEffects (fx : List Effect) (i : Issued) : Issued := { i with effects := i.effects ++ fx }

/-- What an answer leaves: the instruction's end, and of each partition all but its queues and what an error record writes. -/
theorem answerInstr_ends {s : State} {w : IRef} {i : Issued} {a : Await} (h : AsksOne s w i a) {p : Nat}
    (hw : awaiting s p a.tag = some (w, i, a)) (st v : Nat) (fx : List Effect) :
    ∃ t j, answerInstr s p a.tag st v fx = some t ∧ issuedOf t w = some j ∧
      j.status = some (settled (withAnswer i a st v fx)).1 ∧ j.result = (settled (withAnswer i a st v fx)).2.1 ∧
      j.effects = (settled (withAnswer i a st v fx)).2.2 ∧
      ∀ {α : Type} {π : Part → α}, (∀ P, π (bare P) = π P) → (∀ P qs, π { P with queues := qs } = π P) →
        ∀ k, π (partOf t k) = π (partOf s k) := by
  have told := noteNotOwner_ledger s w st a.handle
  have given := (h.of_sameQueues (sameQueues_of_ledger told)).answerAwait st v
  have more := issuedOf_modIssued_self (f := withEffects fx) (fun _ => rfl) given
  rw [changeIssued_open (by exact h.status),
    show withEffects fx (withAnswer i a st v []) = withAnswer i a st v fx by simp [withEffects, withAnswer]] at more
  have ends := settle_answered more h.status h.started h.asking
  refine ⟨_, _, ?_, issuedOf_finish_self _ _ _ more h.status, rfl, rfl, rfl, fun hb hq k => ?_⟩
  · unfold answerInstr
    rw [hw]
    exact congrArg some ends
  · exact ((modIssued_field hq ..).trans ((modIssued_field hq ..).trans (modIssued_field hq ..))).trans (part_of_ledger told hb k)

/-! ## REPLY, QUERY_REPLY and CONFIRM (R97, R102, R103, R108, R212) -/

/-- The await that a tag finds has the tag. -/
theorem awaiting_tag {s : State} {p tag : Nat} {w : IRef} {i : Issued} {a : Await} (h : awaiting s p tag = some (w, i, a)) :
    a.tag = tag := by
  obtain ⟨_, he, found⟩ := List.mem_flatten.mp (List.mem_of_head? h)
  obtain ⟨e, -, rfl⟩ := List.mem_map.mp he
  obtain ⟨_, hi, found⟩ := List.mem_flatten.mp found
  obtain ⟨j, -, rfl⟩ := List.mem_map.mp hi
  obtain ⟨b, hb, same⟩ := List.mem_map.mp found
  cases same
  simpa using (List.mem_filter.mp hb).2

section
variable {s : State} {m : TMsg} {w : IRef} {i : Issued} {a : Await} (hl : m.level = 1) (he : forEpoch s m = true)
  (hw : awaiting s m.toPart m.tag = some (w, i, a)) (asks : AsksOne s w i a)
include hl he hw asks

/-- REPLY ends the instruction that awaits it, with its status and the value that it brings. -/
theorem reply_ends {hs : List Nat} (h : InTurn s (replyForm s m hs)) (h1 : 0x10 ≤ opcodeOf i.words) (h2 : opcodeOf i.words ≤ 0x15) :
    ∃ t j, exec (.reply m hs) s = .next t ∧ issuedOf t w = some j ∧ j.status = some m.status ∧
      (opcodeOf i.words = 0x10 → m.status ≠ St.ok → j.effects = [] ∧ j.result = 0) ∧
      (opcodeOf i.words = 0x10 ∨ opcodeOf i.words = 0x15 → m.status = St.ok → j.result = m.newHandle) := by
  have kept := (takeNoc_sameQueues s (replyForm s m hs)).trans (noteReply_sameQueues _ m hs i a)
  have tag := awaiting_tag hw
  obtain ⟨t, j, gives, issued, status, result, effects, -⟩ := answerInstr_ends (asks.of_sameQueues kept)
    (p := m.toPart) ((kept.awaiting ..).trans (by rw [tag]; exact hw)) m.status (replyValue i m hs).1
    (if m.status = St.ok then (replyValue i m hs).2 else [])
  rw [tag] at gives
  refine ⟨t, j, (reply_runs h hl he hw).trans (by rw [gives, Option.getD_some]), issued, ?_, fun op bad => ?_, fun op good => ?_⟩
  · rw [status, settled_status _ _ _ _ h1 (by omega)]
  · simp [effects, result, settled_alloc _ _ _ _ op, bad]
  · rcases op with op | op
    · simp [result, settled_alloc _ _ _ _ op, good, replyValue, op]
    · simp [result, settled_migrate _ _ _ _ op, good, replyValue, op]

/-- QUERY_REPLY ends the QUERY that awaits it. -/
theorem queryReply_ends (h : InTurn s (.trapeze (me s) m)) (op : opcodeOf i.words = 0x16) (empty : i.effects = []) :
    ∃ t, exec (.queryReply m) s = .next t ∧ Finished t w m.status (queryResult m)
      (if flagOf i.words 24 then [.devWrite (extAddr i.words 1) (tmsgBytes m)] else []) := by
  have tag := awaiting_tag hw
  obtain ⟨t, j, gives, issued, status, result, effects, -⟩ := answerInstr_ends (s := takeNoc s (.trapeze (me s) m))
    (asks.of_sameQueues (takeNoc_sameQueues ..)) (p := m.toPart) (by rw [tag]; exact hw) m.status (queryResult m)
    (if flagOf i.words 24 then [.devWrite (extAddr i.words 1) (tmsgBytes m)] else [])
  rw [tag] at gives
  rw [settled_query _ _ _ _ op] at status result effects
  refine ⟨t, ?_, j, issued, status, result, by rw [effects, empty, List.nil_append]⟩
  show execQueryReply m s = _
  unfold execQueryReply withEvent
  rw [partyEvent_runs h hl he]
  dsimp only
  rw [show awaiting (takeNoc s (.trapeze (me s) m)) m.toPart m.tag = _ from hw]
  dsimp only
  rw [if_pos op, gives, Option.getD_some]

/-- CONFIRM ends the CATCH that awaits it, and with it the party's offer and its wait for the outcome. -/
theorem confirm_ends (h : InTurn s (.trapeze (me s) m)) (op : opcodeOf i.words = 0x14) (same : a.handle = m.handle) :
    ∃ t j, exec (.confirm m none) s = .next t ∧ issuedOf t w = some j ∧ j.status = some St.ok ∧
      (partOf t m.toPart).offersIn = (partOf s m.toPart).offersIn.filter (fun o => o.handle != m.handle) ∧
      (partOf t m.toPart).outcomes = (partOf s m.toPart).outcomes.filter (fun o => o.handle != m.handle) := by
  have tag := awaiting_tag hw
  have dropped := partOf_outcomeOver_self (takeNoc s (.trapeze (me s) m)) m.toPart m.handle
  have kept : SameQueues s (dropOffer (outcomeCame (takeNoc s (.trapeze (me s) m)) m.toPart m.handle) m.toPart m.handle) :=
    ((takeNoc_sameQueues ..).trans (outcomeCame_sameQueues ..)).trans (modPart_sameQueues _ _ fun _ => rfl)
  obtain ⟨t, j, gives, issued, status, -, -, rest⟩ := answerInstr_ends (asks.of_sameQueues kept) (p := m.toPart)
    ((kept.awaiting ..).trans (by rw [tag]; exact hw)) St.ok 0 []
  rw [tag] at gives
  refine ⟨t, j, ?_, issued, ?_, ?_, ?_⟩
  · show execConfirm m none s = _
    unfold execConfirm withEvent
    rw [partyEvent_runs h hl he]
    dsimp only
    rw [show awaiting (takeNoc s (.trapeze (me s) m)) m.toPart m.tag = _ from hw]
    dsimp only
    rw [if_pos (by simp [op, same])]
    unfold confirmCatcher
    dsimp only
    rw [gives, Option.getD_some]
  · rw [status, settled_status _ _ _ _ (by omega) (by omega)]
  · rw [rest (π := Part.offersIn) (fun _ => rfl) (fun _ _ => rfl), dropped]
    rfl
  · rw [rest (π := Part.outcomes) (fun _ => rfl) (fun _ _ => rfl), dropped]
    rfl

end

/-! ## FENCE_ACK and the limit of FENCEEP (R117, R216) -/

/-- The instruction i with the answer st of the home. -/
def homeAnswered (home st : Nat) (i : Issued) : Issued :=
  { i with awaits := i.awaits.map (fun a => if a.handle = home ∧ a.status.isNone then { a with status := some st } else a) }

/-- FENCE_ACK answers and settles the only FENCEEP that waits for it. -/
theorem fenceAck_runs {s : State} {m : TMsg} {w : IRef} {i : Issued} {a : Await} {x : Queue} (h : InTurn s (.trapeze (me s) m))
    (hl : m.level = 1) (hp : w.part = m.toPart) (op : opcodeOf i.words = 0x17) (asks : i.awaits = [a]) (open_ : i.status = none)
    (started : i.started = true) (hq : (partOf s w.part).queues = [(w.queue, x)]) (hx : x.issued = [i]) (hi : w.idx = i.idx)
    (unanswered : a.status = none) (home : a.handle = m.src.domain * 1024 + m.src.ep)
    (fenced : i.aux = (m.peer.domain * 1024 + m.peer.ep) * 16 + m.peer.part) :
    exec (.fenceAck m) s = .next (settle (modIssued (takeNoc s (.trapeze (me s) m)) w
      (homeAnswered (m.src.domain * 1024 + m.src.ep) m.status)) w) := by
  show execFenceAck m s = _
  unfold execFenceAck
  dsimp only
  rw [if_neg (inTurn_goes h), if_neg (not_not.mpr hl), partOf_takeNoc, ← hp, hq]
  have waits : (i.status.isNone && opcodeOf i.words == 0x17 && i.started
      && i.aux == (m.peer.domain * 1024 + m.peer.ep) * 16 + m.peer.part
      && i.awaits.any (fun a => a.handle == m.src.domain * 1024 + m.src.ep && a.status.isNone)) = true := by
    simp [open_, op, started, fenced, asks, home, unanswered]
  simp only [List.map_cons, List.map_nil, hx, List.filter_cons, waits, if_true, List.filter_nil, List.flatten_cons,
    List.flatten_nil, List.append_nil, List.head?_cons, ← hi]
  rfl

/-- The answer of its last home ends FENCEEP, and marks the home's entry. -/
theorem fenceAck_ends {s : State} {m : TMsg} {w : IRef} {i : Issued} {a : Await}
    (ran : exec (.fenceAck m) s = .next (settle (modIssued (takeNoc s (.trapeze (me s) m)) w
      (homeAnswered (m.src.domain * 1024 + m.src.ep) m.status)) w))
    (asks : AsksOne s w i a) (op : opcodeOf i.words = 0x17) (unanswered : a.status = none)
    (home : a.handle = m.src.domain * 1024 + m.src.ep) :
    ∃ t, exec (.fenceAck m) s = .next t ∧ Finished t w m.status (if m.status = St.ok then 1 else 0)
      [.devWrite (extAddr i.words 1 + 8 * a.pos + 4) [BitVec.ofNat 8 m.status]] := by
  have given := issuedOf_modIssued_self (s := takeNoc s (.trapeze (me s) m))
    (f := homeAnswered (m.src.domain * 1024 + m.src.ep) m.status) (fun _ => rfl) (show issuedOf _ w = some i from asks.issued)
  have one : homeAnswered (m.src.domain * 1024 + m.src.ep) m.status i = withAnswer i a m.status a.value [] := by
    simp [homeAnswered, withAnswer, asks.awaits, home, unanswered]
  rw [changeIssued_open (by exact asks.status), one] at given
  rw [settle_answered given asks.status asks.started asks.asking, settled_fence _ _ _ _ op] at ran
  exact ⟨_, ran, _, issuedOf_finish_self _ _ _ given asks.status, rfl, rfl, rfl⟩

/-- What FENCEEP gives where a home has not answered. -/
theorem settled_fenceLate {i : Issued} (op : opcodeOf i.words = 0x17) (late : ∃ a ∈ i.awaits, a.status = none) :
    settled i = (St.timeout, 0, fenceMarks (extAddr i.words 1) i) := by
  have any : i.awaits.any (·.status.isNone) = true := by simpa using late
  simp only [settled, op, any, if_true]
  rfl

/-- The limit of FENCEEP ends it with what its homes have answered until then. -/
theorem fenceepLimit_ends {s : State} {w : IRef} {i : Issued} (h : Working s w 0x17 i) (started : i.started = true)
    (limit : i.sentAt + 10000000 ≤ s.now) (late : ∃ a ∈ i.awaits, a.status = none) :
    exec (.fenceepLimit w) s = .next (finish s w St.timeout 0 (fenceMarks (extAddr i.words 1) i)) := by
  show execFenceepLimit w s = _
  unfold execFenceepLimit
  rw [withInstr_working h, if_pos (by simp [started, limit])]
  obtain ⟨-, issued, status, op⟩ := h
  rw [settle_finishes issued status started (sealAsking_of_opcode (by omega)) (.inr rfl), settled_fenceLate op late]

/-! ## REPLY_WAIT_EXPIRY (R103, R212) -/

/-- The await a of the instruction i has ended without an answer. -/
def waitedOut (s : State) (w : IRef) (i : Issued) (a : Await) : State :=
  let t := clearReport (answerAwait s w a.tag St.timeout 0) w.part a.tag
  match outcomeDeadline s i with
  | some d => expectOutcome t w.part a.tag a.handle d (opcodeOf i.words == 0x15)
  | none => t

theorem waitedOut_issued {s : State} {w : IRef} {i : Issued} {a : Await} (h : AsksOne s w i a) :
    issuedOf (waitedOut s w i a) w = some (withAnswer i a St.timeout 0 []) := by
  have given := h.answerAwait St.timeout 0
  unfold waitedOut
  dsimp only
  split
  · exact ((expectOutcome_sameQueues (clearReport (answerAwait s w a.tag St.timeout 0) w.part a.tag) ..).issuedOf w).trans given
  · exact given

theorem partOf_waitedOut_ne (s : State) (w : IRef) (i : Issued) (a : Await) {k : Nat} (hk : k ≠ w.part) :
    partOf (waitedOut s w i a) k = partOf s k := by
  unfold waitedOut
  dsimp only
  split
  · exact (partOf_modPart_ne _ _ hk).trans (partOf_modIssued_ne _ _ hk)
  · exact partOf_modIssued_ne _ _ hk

/-- The wait for the one answer, from another module, ends at its time. -/
theorem replyWaitExpiry_runs {s : State} {w : IRef} {i : Issued} {a : Await} (hr : ready s = true) (h : AsksOne s w i a)
    (h1 : 0x10 ≤ opcodeOf i.words) (h2 : opcodeOf i.words ≤ 0x16) (unanswered : a.status = none) (far : hHome a.handle ≠ me s)
    (due : i.due ≤ s.now) : exec (.replyWaitExpiry w false) s = .next (settle (waitedOut s w i a) w) := by
  have ends : awaitEnds s w.part i false a = true := by simp [awaitEnds, unanswered, due, far]
  show execReplyWaitExpiry w false s = _
  unfold execReplyWaitExpiry
  rw [if_pos hr, h.issued]
  dsimp only
  rw [if_neg (by simp [h.status, h.started, h1, h2]), h.awaits, List.filter_cons_of_pos ends]
  rfl

/-- It ends the instruction with TIMEOUT and changes no other partition. -/
theorem replyWaitExpiry_ends {s : State} {w : IRef} {i : Issued} {a : Await} (h : AsksOne s w i a) (h1 : 0x10 ≤ opcodeOf i.words)
    (h2 : opcodeOf i.words ≤ 0x16) :
    ∃ j, issuedOf (settle (waitedOut s w i a) w) w = some j ∧ j.status = some St.timeout ∧
      ∀ k, k ≠ w.part → partOf (settle (waitedOut s w i a) w) k = partOf s k := by
  have given := waitedOut_issued h
  rw [settle_answered given h.status h.started h.asking, settled_status _ _ _ _ h1 h2]
  exact ⟨_, issuedOf_finish_self _ _ _ given h.status, rfl,
    fun k hk => (partOf_modIssued_ne _ _ hk).trans (partOf_waitedOut_ne s w i a hk)⟩

/-- Settles O23: each answer is gathered by the one instruction that awaits it, which then ends. -/
theorem answersEndInstructions : Obligations.AnswersEndInstructions := by
  refine ⟨fun s m w i a hl he hw issued awaits started held status => ?_, fun s w i started => ⟨?_, fun working limit late => ?_⟩,
    fun s w i a hr issued status started held h1 h2 awaits unanswered far due => ?_⟩
  · have asks : AsksOne s w i a := ⟨issued, awaits, started, sealAsking_of_held held, status⟩
    exact ⟨fun hs h h1 h2 => reply_ends hl he hw asks h h1 h2, fun h op empty => queryReply_ends hl he hw asks h op empty,
      fun h op same => confirm_ends hl he hw asks h op same⟩
  · intro m a x h ⟨_, issued, status, op⟩ hl hp hq hx hi awaits unanswered home fenced
    exact fenceAck_ends (fenceAck_runs h hl hp op awaits status started hq hx hi unanswered home fenced)
      ⟨issued, awaits, started, sealAsking_of_opcode (by omega), status⟩ op unanswered home
  · exact fenceepLimit_ends working started limit late
  · have asks : AsksOne s w i a := ⟨issued, awaits, started, sealAsking_of_held held, status⟩
    obtain ⟨j, issued, status, rest⟩ := replyWaitExpiry_ends asks h1 h2
    exact ⟨_, j, replyWaitExpiry_runs hr asks h1 h2 unanswered far due, issued, status, rest⟩

end Sys2Proof.Machine
end

section
/-! PROOFS. MERGE's jobs and LOADACT's image (O30). -/

namespace Sys2Proof.Machine

open Sys2Proof.Safety

/-! ## Merge order (R142) -/

/-- A source is merged no later than another: ascending SRCKEY, then FIRSTBLK. -/
abbrev MergesBefore (a b : MergeSrc) : Prop := a.key < b.key ∨ (a.key = b.key ∧ a.first ≤ b.first)

theorem mergesBefore_total : Std.Total MergesBefore := ⟨fun a b => by unfold MergesBefore; omega⟩

theorem mergesBefore_trans : IsTrans MergeSrc MergesBefore := ⟨fun a b c hab hbc => by unfold MergesBefore at *; omega⟩

theorem mergeInsert_eq_orderedInsert (x : MergeSrc) (ys : List MergeSrc) : mergeInsert x ys = ys.orderedInsert MergesBefore x := by
  induction ys with
  | nil => rfl
  | cons y ys ih => rw [mergeInsert, ih, List.orderedInsert_cons]

theorem mergeSort_eq_insertionSort (xs : List MergeSrc) : mergeSort xs = xs.insertionSort MergesBefore := by
  induction xs with
  | nil => rfl
  | cons x xs ih => rw [mergeSort, ih, mergeInsert_eq_orderedInsert, List.insertionSort_cons]

theorem mergeSort_perm (xs : List MergeSrc) : (mergeSort xs).Perm xs := by
  rw [mergeSort_eq_insertionSort]
  exact List.perm_insertionSort ..

theorem mergeSort_pairwise (xs : List MergeSrc) : (mergeSort xs).Pairwise MergesBefore := by
  have := mergesBefore_total
  have := mergesBefore_trans
  rw [mergeSort_eq_insertionSort]
  exact List.pairwise_insertionSort ..

/-! ## Instructions that end (R205, R209) -/

/-- The instruction w has issued and its work has not ended. -/
def AtWork (s : State) (w : IRef) : Prop := ∃ i, issuedOf s w = some i ∧ i.status = none

theorem AtWork.of_working {s : State} {w : IRef} {op : Nat} {i : Issued} (h : Working s w op i) : AtWork s w := by
  obtain ⟨-, issued, status, -⟩ := h
  exact ⟨i, issued, status⟩

theorem AtWork.finish {s : State} {w : IRef} (h : AtWork s w) (st r : Nat) (fx : List Effect) :
    Finished (finish s w st r fx) w st r fx := by
  obtain ⟨i, issued, status⟩ := h
  exact ⟨_, issuedOf_finish_self st r fx issued status, rfl, rfl, rfl⟩

theorem AtWork.of_sameQueues {s t : State} {w : IRef} (h : AtWork s w) (k : SameQueues s t) : AtWork t w := by
  obtain ⟨i, issued, status⟩ := h
  exact ⟨i, (k.issuedOf w).trans issued, status⟩

/-- A change that ends no work leaves the instruction at work. -/
theorem AtWork.modIssued {s : State} {w : IRef} (h : AtWork s w) {f : Issued → Issued} (hi : ∀ i, (f i).idx = i.idx)
    (hs : ∀ i, (f i).status = i.status) : AtWork (modIssued s w f) w := by
  obtain ⟨i, issued, status⟩ := h
  have still : (f i).status = none := (hs i).trans status
  exact ⟨f i, by rw [issuedOf_modIssued_self hi issued, changeIssued_open still], still⟩

theorem makeUndef_sameQueues (s : State) (a n : Nat) : SameQueues s (makeUndef s a n) := by
  unfold makeUndef
  split <;> exact ⟨fun _ => rfl⟩

/-- Memory that becomes undefined until the commit leaves the instruction at work. -/
theorem AtWork.undefWrites {s : State} {w : IRef} (h : AtWork s w) (fx : List Effect) : AtWork (undefWrites s w fx) w := by
  unfold Machine.undefWrites
  induction fx generalizing s with
  | nil => exact h
  | cons e fx ih =>
    refine ih ?_
    dsimp only
    split
    · exact (h.of_sameQueues (makeUndef_sameQueues ..)).modIssued (fun _ => rfl) (fun _ => rfl)
    · exact h

/-! ## MERGE (R141 to R146, R155) -/

/-- A MERGE whose jobs could all run ends with their counts and their effects. -/
theorem merge_ends {s : State} {w : IRef} {i : Issued} {hb jb : List Byte} {rs : List JobDone} (h : Working s w 0x21 i)
    (head : devRead s (addrB i.words) 64 = some hb) {n d hq : Nat} (hn : bits (leAt hb 0 8) 15 0 = n)
    (hd : bits (leAt hb 0 8) 17 16 = d) (hhq : bits (leAt hb 0 8) 47 32 = hq)
    (shape : 1 ≤ n ∧ n ≤ 1024 ∧ d ≠ 3 ∧ 1 ≤ hq ∧ hq ≤ 1024)
    (access : mayAccess s w.part (addrB i.words + 64) (32 * n) = true) (jobs : devRead s (addrB i.words + 64) (32 * n) = some jb)
    (ran : runJobs s w.part (64 * 2 ^ d) hq ((pieces 32 jb).map mergeJob) = .ok rs) :
    ∃ t, exec (.merge w) s = .next t ∧ Finished t w St.ok
      ((rs.filter (fun r => r.status != St.ok)).length + (rs.map (·.empties)).foldl (· + ·) 0 * 2 ^ 16)
      ((rs.map (·.effects)).flatten ++ [.jobStatus (rs.filterMap (fun r => r.req.map (fun q => (q, r.status, r.blocks))))]) := by
  have well : ¬ (n = 0 ∨ 1024 < n ∨ d = 3 ∨ hq = 0 ∨ 1024 < hq) := by omega
  have work := AtWork.of_working h
  refine ⟨_, ?_, (work.undefWrites (rs.map (·.effects)).flatten).finish ..⟩
  show execMerge w s = _
  unfold execMerge
  rw [withInstr_working h]
  simp only [head, hn, hd, hhq]
  rw [if_neg well, if_neg (by simp [access]), jobs]
  simp only [ran]

/-! ## LOADACT (R226 to R229) -/

/-- What goes of the bindings is a partition's. -/
theorem foldl_unbindSlots (p slot n : Nat) (engines : List Nat) (s : State) :
    ∃ ps, engines.foldl (fun s e => unbindSlots s p e slot n) s = { s with parts := ps } := by
  induction engines generalizing s with
  | nil => exact ⟨s.parts, rfl⟩
  | cons e es ih => exact ih (unbindSlots s p e slot n)

theorem foldl_unbindSlots_devRead (s : State) (p slot n : Nat) (engines : List Nat) (a len : Nat) :
    devRead (engines.foldl (fun s e => unbindSlots s p e slot n) s) a len = devRead s a len := by
  obtain ⟨ps, eq⟩ := foldl_unbindSlots p slot n engines s
  rw [eq]
  rfl

theorem foldl_sameQueues {α : Type} {f : State → α → State} (h : ∀ s a, SameQueues s (f s a)) (l : List α) (s : State) :
    SameQueues s (l.foldl f s) := by
  induction l generalizing s with
  | nil => exact .rfl
  | cons a l ih => exact (h s a).trans (ih _)

/-- The state in which an image stands in its slots on the engines named, and what it overlapped is no longer bound. -/
def actPlaced (s : State) (p slot n : Nat) (engines : List Nat) (image : List Byte) : State :=
  engines.foldl (fun s e => copyAct s e slot image) (engines.foldl (fun s e => unbindSlots s p e slot n) s)

theorem actPlaced_sameQueues (s : State) (p slot n : Nat) (engines : List Nat) (image : List Byte) :
    SameQueues s (actPlaced s p slot n engines image) :=
  (foldl_sameQueues (f := fun s e => unbindSlots s p e slot n) (fun _ _ => modPart_sameQueues _ _ fun _ => rfl) ..).trans
    (foldl_sameQueues (f := fun s e => copyAct s e slot image) (fun _ _ => ⟨fun _ => rfl⟩) ..)

/-- An image that passes the checks of R226, and may stand in its slots, is placed; its digest decides how LOADACT ends. -/
theorem loadact_runs {s : State} {w : IRef} {i : Issued} {hb image : List Byte} {engines : List Nat} {slot len : Nat}
    (h : Working s w 0x22 i) (head : devRead s (addrB i.words) 128 = some hb) (checked : actOk s w.part stepping hb = true)
    (hslot : bits (opA i.words) 23 16 = slot) (hengines : actEngines s w.part (bits (opA i.words) 15 0) = engines)
    (hlen : leAt hb 0x0C 4 = len) (own : ∀ e ∈ engines, e ∈ enginesOf s w.part) (low : (sliceOf s w.part).actBase ≤ slot)
    (high : slot + len / 0x1000 ≤ (sliceOf s w.part).actBase + (sliceOf s w.part).actSlots)
    (access : mayAccess s w.part (addrB i.words) len = true) (read : devRead s (addrB i.words) len = some image) :
    exec (.loadact w) s = .next (
      if actDigestOk image then finish (actPlaced s w.part slot (len / 0x1000) engines image) w St.ok len
        [.bindAct engines (bits (leAt hb 0x10 8) 22 0) slot (len / 0x1000)]
      else failWith (actPlaced s w.part slot (len / 0x1000) engines image) w St.badAct) := by
  show execLoadact w s = _
  unfold execLoadact
  rw [withInstr_working h]
  simp only [head, checked, hslot, hengines, hlen]
  rw [if_neg (by decide), if_neg (by simpa using ⟨⟨own, low⟩, high⟩), if_neg (by simp [access]), foldl_unbindSlots_devRead,
    read]
  rfl

/-! ## The binding of an act (R227) -/

/-- An engine's bindings of a key in a partition: all of them, and one at least, name a slot. -/
def BindsTo (s : State) (p e key slot : Nat) : Prop :=
  let b := AMap.getD (partOf s p).bindings e []
  (key, slot) ∈ b ∧ ∀ x ∈ b, x.1 = key → x.2 = slot

theorem bindAct_cons (s : State) (p e key slot : Nat) (es : List Nat) :
    bindAct s p (e :: es) key slot = bindAct (bindAct s p [e] key slot) p es key slot := rfl

theorem bindAct_one_self (s : State) (p e key slot : Nat) : BindsTo (bindAct s p [e] key slot) p e key slot := by
  simp only [BindsTo, bindAct, List.foldl_cons, List.foldl_nil, partOf_modPart_self, AMap.getD_insert_self]
  refine ⟨by simp, fun x hx hk => ?_⟩
  rcases List.mem_append.mp hx with old | new
  · simp [hk] at old
  · rw [List.mem_singleton.mp new]

theorem bindAct_one_ne {s : State} {p e k key slot : Nat} (h : BindsTo s p e key slot) (hk : e ≠ k) :
    BindsTo (bindAct s p [k] key slot) p e key slot := by
  simpa only [BindsTo, bindAct, List.foldl_cons, List.foldl_nil, partOf_modPart_self, AMap.getD_insert_ne _ _ _ hk] using h

theorem bindAct_keeps {s : State} {p e key slot : Nat} (h : BindsTo s p e key slot) (engines : List Nat) :
    BindsTo (bindAct s p engines key slot) p e key slot := by
  induction engines generalizing s with
  | nil => exact h
  | cons k es ih =>
    rw [bindAct_cons]
    refine ih ?_
    by_cases hk : e = k
    · exact hk ▸ bindAct_one_self ..
    · exact bindAct_one_ne h hk

theorem bindAct_binds {p e key slot : Nat} {engines : List Nat} (he : e ∈ engines) (s : State) :
    BindsTo (bindAct s p engines key slot) p e key slot := by
  induction engines generalizing s with
  | nil => cases he
  | cons k es ih =>
    rw [bindAct_cons]
    rcases List.mem_cons.mp he with rfl | he
    · exact bindAct_keeps (bindAct_one_self ..) es
    · exact ih he _

/-- Settles O30: MERGE's row and its order are each one lemma; LOADACT's row places the image and its digest decides; the commit
binds by induction on the engines. -/
theorem mergeAndLoadact : Obligations.MergeAndLoadact := by
  refine ⟨⟨fun s w i hb jb rs h head least most d hq_pos hq_le access jobs ran => ?_,
    fun xs => ⟨mergeSort_perm xs, mergeSort_pairwise xs⟩⟩,
    fun s w i hb image h head checked own low high access read => ?_,
    fun s p key slot engines e he => bindAct_binds he s⟩
  · exact merge_ends h head rfl rfl rfl ⟨least, most, d, hq_pos, hq_le⟩ access jobs ran
  · have runs := loadact_runs h head checked rfl rfl rfl own low high access read
    have work : ∀ engines slot n, AtWork (actPlaced s w.part slot n engines image) w := fun _ _ _ =>
      (AtWork.of_working h).of_sameQueues (actPlaced_sameQueues ..)
    constructor
    · intro good
      rw [if_pos good] at runs
      exact ⟨_, runs, (work ..).finish ..⟩
    · intro bad
      rw [if_neg (by simp [bad])] at runs
      exact ⟨_, runs, (work ..).finish ..⟩

end Sys2Proof.Machine
end

section
/-! PROOFS. Remote attention requests at their target, and their answers (O31). -/

namespace Sys2Proof.Machine

open Sys2Proof.Safety

/-! ## ATTEND_REQ at its target (R150) -/

section
variable {s : State} {m : AttendMsg} (h : InTurn s (.attend true m)) (hl : m.level = 1)
include h hl

/-- A request that nothing refuses waits in the attend inbox that has room for it. -/
theorem attendReq_waits (accepted : requestRefusal s m = none) (room : attendRoom s m = true) :
    exec (.attendReq m) s = .next (modPart (takeNoc s (.attend true m)) m.tpart
      (fun P => { P with attendInbox := P.attendInbox ++ [m] })) := by
  show execAttendReq m s = _
  unfold execAttendReq
  dsimp only
  rw [if_neg (inTurn_goes h), if_neg (not_not.mpr hl), accepted]
  dsimp only
  rw [if_pos room]

/-- A request that is refused is answered with the status of its first refusal. -/
theorem attendReq_refused {st : Nat} (refused : requestRefusal s m = some st) :
    exec (.attendReq m) s = .next (answerAttend (takeNoc s (.attend true m)) m st []) := by
  show execAttendReq m s = _
  unfold execAttendReq
  dsimp only
  rw [if_neg (inTurn_goes h), if_neg (not_not.mpr hl), refused]

end

/-- A message to this module goes over the network-on-chip and changes nothing else. -/
theorem sendMsg_here {s : State} {dest : Nat × Nat} (here : dest = me s) (p tc tpart len : Nat) (o : Out) (req : Option Nat) :
    sendMsg s p tc dest tpart len o req = { s with noc := s.noc ++ [o] } := if_pos here

/-- An answer to a party in this module has its status, tag and body, and names the party's partition. -/
theorem answerAttend_here {s : State} {m : AttendMsg} (here : (m.src.domain, m.src.ep) = me s) (st : Nat) (body : List Byte) :
    ∃ a, answerAttend s m st body = { s with noc := s.noc ++ [.attend false a] } ∧ a.status = st ∧ a.tag = m.tag ∧
      a.tpart = m.src.part ∧ a.body = body := by
  unfold answerAttend
  exact ⟨_, sendMsg_here here .., rfl, rfl, rfl, rfl⟩

/-! ## What waits for answers -/

/-- Every partition's queues, and the remote requests that it awaits, stand in t as in s. -/
structure SameWaits (s t : State) : Prop extends SameQueues s t where
  remotes : ∀ p, (partOf t p).remotes = (partOf s p).remotes

theorem SameWaits.refl (s : State) : SameWaits s s := ⟨.rfl, fun _ => rfl⟩

theorem modPart_sameWaits (s : State) (p : Nat) {f : Part → Part} (hq : ∀ P, (f P).queues = P.queues)
    (hr : ∀ P, (f P).remotes = P.remotes) : SameWaits s (modPart s p f) := by
  refine ⟨modPart_sameQueues s p hq, fun k => ?_⟩
  by_cases hk : k = p
  · rw [hk, partOf_modPart_self, hr]
  · rw [partOf_modPart_ne _ _ hk]

theorem noteFenced_sameWaits (s : State) (p st : Nat) : SameWaits s (noteFenced s p st) := by
  unfold noteFenced
  split
  · exact modPart_sameWaits _ _ (fun _ => rfl) fun _ => rfl
  · exact .refl s

/-! ## Outcomes of entries placed (R131) -/

/-- The instruction i is at work at w with the outcomes of n more entries placed, which bring its RESULT to r, and its partition
awaits no remote answer. -/
structure EntriesPlaced (s : State) (w : IRef) (i : Issued) (r n : Nat) : Prop where
  issued  : ∃ fx : List Effect, fx.length = 2 * n ∧ issuedOf s w = some { i with result := r, effects := i.effects ++ fx }
  remotes : (partOf s w.part).remotes = []

section
variable {s t : State} {w : IRef} {i : Issued} {r n : Nat}

theorem entriesPlaced_zero (issued : issuedOf s w = some i) (remotes : (partOf s w.part).remotes = []) :
    EntriesPlaced s w i i.result 0 :=
  ⟨⟨[], rfl, by simpa using issued⟩, remotes⟩

theorem EntriesPlaced.of_sameWaits (h : EntriesPlaced s w i r n) (k : SameWaits s t) : EntriesPlaced t w i r n := by
  obtain ⟨⟨fx, len, issued⟩, remotes⟩ := h
  exact ⟨⟨fx, len, (k.issuedOf w).trans issued⟩, (k.remotes _).trans remotes⟩

/-- What `placeOutcome` adds to RESULT: 1 where the entry's status is not OK, and its NaN row-heads from bit 16 on. -/
def entryCount (st nans : Nat) : Nat := (if st = St.ok then 0 else 1) + nans * 2 ^ 16

theorem EntriesPlaced.placeOutcome (h : EntriesPlaced s w i r n) (open_ : i.status = none) (hdr : AttnHdr) (d : Nat)
    (es : List AttnEnt) (e st : Nat) (bytes : List Byte) (nans : Nat) :
    EntriesPlaced (modIssued s w (placeOutcome hdr d es e st bytes nans)) w i (r + entryCount st nans) (n + 1) := by
  obtain ⟨⟨fx, len, issued⟩, remotes⟩ := h
  refine ⟨⟨fx ++ [.devWrite (hdr.pbase + entryBase hdr d es e) bytes,
    .devWrite (hdr.pbase + entryBase hdr d es es.length + e) [BitVec.ofNat 8 st]], by simp [len]; omega, ?_⟩, ?_⟩
  · rw [issuedOf_modIssued_self (f := Machine.placeOutcome hdr d es e st bytes nans) (fun _ => rfl) issued,
      changeIssued_open (by exact open_)]
    simp only [Machine.placeOutcome, entryCount, List.append_assoc, Nat.add_assoc]
  · exact (modIssued_field (π := Part.remotes) (fun _ _ => rfl) ..).trans remotes

/-- Outcomes placed one after another, each after a change that leaves what waits as it stands. -/
theorem EntriesPlaced.foldl {α : Type} (h : EntriesPlaced s w i r n) (open_ : i.status = none) (hdr : AttnHdr) (d : Nat)
    (es : List AttnEnt) {u : State → α → State} (hu : ∀ s a, SameWaits s (u s a)) (e st nans : α → Nat) (bytes : α → List Byte)
    (l : List α) :
    EntriesPlaced
      (l.foldl (fun s a => modIssued (u s a) w (Machine.placeOutcome hdr d es (e a) (st a) (bytes a) (nans a))) s) w i
      (r + (l.map (fun a => entryCount (st a) (nans a))).sum) (n + l.length) := by
  induction l generalizing s r n with
  | nil => exact h
  | cons a l ih =>
    rw [List.foldl_cons, List.map_cons, List.sum_cons, List.length_cons, ← Nat.add_assoc, Nat.add_comm l.length, ← Nat.add_assoc]
    exact ih ((h.of_sameWaits (hu s a)).placeOutcome open_ ..)

/-- The ATTEND i at w has ended with OK and a RESULT, with the two writes of each of n entries, and its partition awaits
nothing. -/
def AttendEnded (t : State) (w : IRef) (i : Issued) (r n : Nat) : Prop :=
  ∃ j fx, issuedOf t w = some j ∧ j.status = some St.ok ∧ j.result = r ∧ j.effects = i.effects ++ fx ∧
    fx.length = 2 * n ∧ (partOf t w.part).remotes = []

theorem EntriesPlaced.attendEnd (h : EntriesPlaced s w i r n) (open_ : i.status = none) (started : i.started = true)
    (done : i.aux = 1) : AttendEnded (attendEnd s w) w i r n := by
  obtain ⟨⟨fx, len, issued⟩, remotes⟩ := h
  unfold Machine.attendEnd
  rw [if_neg (by simp [remotes])]
  refine ⟨_, fx, issuedOf_modIssued_self (fun i => by split <;> rfl) issued, ?_, ?_, ?_, len,
    (modIssued_field (π := Part.remotes) (fun _ _ => rfl) ..).trans remotes⟩
  all_goals simp [changeIssued, open_, started, done]

end

/-! ## The entries of a request, refused and answered (R131, R148, R151) -/

section
variable {s : State} {i : Issued} {r : Remote} (issued : issuedOf s r.w = some i) (free : (partOf s r.w.part).remotes = [])
  (open_ : i.status = none) (started : i.started = true) (done : i.aux = 1)
include issued free open_ started done

/-- A refusal counts each of the request's entries in RESULT. -/
theorem refuseEntries_ends {st : Nat} (bad : st ≠ St.ok) :
    AttendEnded (refuseEntries s r st) r.w i (i.result + r.entries.length) r.entries.length := by
  have placed := (entriesPlaced_zero issued free).foldl open_ (heldHdr i) (geomD s r.w.part (heldHdr i).geom) (heldEnts i)
    (fun s _ => .refl s) id (fun _ => st) (fun _ => 0) (fun n => emptyTriples (heldHdr i) (geomD s r.w.part (heldHdr i).geom)
      ((heldEnts i).getD n default)) r.entries
  have counts : (r.entries.map (fun _ => entryCount st 0)).sum = r.entries.length := by simp [entryCount, bad]
  rw [counts, Nat.zero_add] at placed
  unfold refuseEntries
  rw [issued]
  exact placed.attendEnd open_ started done

/-- A response leaves two writes for each of the request's entries. -/
theorem placeResponse_ends (m : AttendMsg) : ∃ k, AttendEnded (placeResponse s r m) r.w i k r.entries.length := by
  unfold placeResponse
  rw [issued]
  dsimp only
  refine ⟨?k, EntriesPlaced.attendEnd ?placed open_ started done⟩
  case placed =>
    have count : r.entries.length = 0 +
        ((List.range (r.entries.map (fun n => (heldEnts i).getD n default)).length).zip r.entries).length := by simp
    rw [count]
    exact (entriesPlaced_zero issued free).foldl open_ _ _ _ (fun s _ => noteFenced_sameWaits s ..) ..

end

/-! ## ATTEND_RESP and the end of the wait (R148, R149, R151) -/

theorem dropRemote_sameQueues (s : State) (p tag : Nat) : SameQueues s (dropRemote s p tag) := modPart_sameQueues _ _ fun _ => rfl

/-- The only request awaited is no longer awaited, and its ATTEND stands as it was. -/
theorem dropRemote_only {s t : State} {i : Issued} {r : Remote} (issued : issuedOf s r.w = some i)
    (only : (partOf s r.w.part).remotes = [r]) (k : SameWaits s t) {p tag : Nat} (hp : p = r.w.part) (htag : r.tag = tag) :
    issuedOf (dropRemote t p tag) r.w = some i ∧ (partOf (dropRemote t p tag) r.w.part).remotes = [] := by
  refine ⟨((dropRemote_sameQueues ..).issuedOf _).trans ((k.issuedOf _).trans issued), ?_⟩
  simp [dropRemote, hp, k.remotes, only, htag]

/-- The state in which the answer m to the request r has come in time: r is no longer awaited, and its time is noted. -/
def answerCame (s : State) (m : AttendMsg) (r : Remote) : State :=
  modPart (dropRemote (takeNoc s (.attend false m)) m.tpart m.tag) m.tpart
    (fun P => { P with respTimes := P.respTimes ++ r.mb.toList.map (fun mb => (mb, r.target, s.now - r.sentAt)) })

theorem answerCame_only {s : State} {m : AttendMsg} {i : Issued} {r : Remote} (issued : issuedOf s r.w = some i)
    (only : (partOf s r.w.part).remotes = [r]) (hp : m.tpart = r.w.part) (htag : r.tag = m.tag) :
    issuedOf (answerCame s m r) r.w = some i ∧ (partOf (answerCame s m r) r.w.part).remotes = [] := by
  obtain ⟨stands, free⟩ := dropRemote_only issued only (t := takeNoc s (.attend false m)) ⟨⟨fun _ => rfl⟩, fun _ => rfl⟩ hp htag
  have noted : SameWaits (dropRemote (takeNoc s (.attend false m)) m.tpart m.tag) (answerCame s m r) :=
    modPart_sameWaits _ _ (fun _ => rfl) fun _ => rfl
  exact ⟨(noted.issuedOf _).trans stands, (noted.remotes _).trans free⟩

section
variable {s : State} {m : AttendMsg} (h : InTurn s (.attend false m)) (hl : m.level = 1)
include h hl

/-- An answer that nothing awaits is counted. -/
theorem attendResp_unknown
    (unknown : (partOf s m.tpart).remotes.find? (fun r => r.tag == m.tag && r.target == (m.src.domain, m.src.ep)) = none) :
    exec (.attendResp m) s = .next (countEv (takeNoc s (.attend false m)) Isl.cc 0x065 none (some m.tpart)) := by
  show execAttendResp m s = _
  unfold execAttendResp
  dsimp only
  rw [if_neg (inTurn_goes h), if_neg (not_not.mpr hl), partOf_takeNoc, unknown]

/-- An answer to a request: after REMOTE_WAIT its entries have HOME_LOST, else they have what it says. -/
theorem attendResp_awaited {r : Remote}
    (found : (partOf s m.tpart).remotes.find? (fun r => r.tag == m.tag && r.target == (m.src.domain, m.src.ep)) = some r) :
    exec (.attendResp m) s = .next (
      if r.due < s.now then
        refuseEntries (dropRemote (countEv (takeNoc s (.attend false m)) Isl.cc 0x065 none (some m.tpart)) m.tpart m.tag) r
          St.homeLost
      else if m.status = St.ok then placeResponse (answerCame s m r) r m
      else refuseEntries (noteFenced (answerCame s m r) m.tpart m.status) r m.status) := by
  show execAttendResp m s = _
  unfold execAttendResp
  dsimp only
  rw [if_neg (inTurn_goes h), if_neg (not_not.mpr hl), partOf_takeNoc, found]
  dsimp only
  rw [takeNoc_now]
  split
  · rfl
  · split <;> rfl

end

/-- The wait for a request's answer ends without one at its time. -/
theorem remoteWaitExpiry_runs {s : State} {p : Nat} {r : Remote} (up : ready s = true)
    (found : (partOf s p).remotes.find? (fun x => x.tag == r.tag) = some r) (due : r.due ≤ s.now) :
    exec (.remoteWaitExpiry p r.tag false) s
      = .next (refuseEntries (clearReport (dropRemote s p r.tag) p r.tag) r St.homeLost) := by
  show execRemoteWaitExpiry p r.tag false s = _
  unfold execRemoteWaitExpiry
  rw [found]
  dsimp only
  rw [if_pos (by simp [up, due])]

section
variable {s : State} {i : Issued} {r : Remote} (issued : issuedOf s r.w = some i) (only : (partOf s r.w.part).remotes = [r])
  (open_ : i.status = none) (started : i.started = true) (done : i.aux = 1)
include issued only open_ started done

/-- The answer to the last request awaited ends its ATTEND: each of its entries has two writes, and counts in RESULT where
the answer is a refusal or late. -/
theorem attendResp_ends {m : AttendMsg} (h : InTurn s (.attend false m)) (hl : m.level = 1) (part : m.tpart = r.w.part)
    (tag : r.tag = m.tag) (target : r.target = (m.src.domain, m.src.ep)) :
    ∃ t k, exec (.attendResp m) s = .next t ∧ AttendEnded t r.w i k r.entries.length ∧
      (m.status ≠ St.ok ∨ r.due < s.now → k = i.result + r.entries.length) := by
  have found : (partOf s m.tpart).remotes.find? (fun x => x.tag == m.tag && x.target == (m.src.domain, m.src.ep)) = some r := by
    simp [part, only, tag, target]
  have runs := attendResp_awaited h hl found
  by_cases late : r.due < s.now
  · obtain ⟨stands, free⟩ := dropRemote_only issued only
      (t := countEv (takeNoc s (.attend false m)) Isl.cc 0x065 none (some m.tpart)) ⟨⟨fun _ => rfl⟩, fun _ => rfl⟩ part tag
    rw [if_pos late] at runs
    exact ⟨_, _, runs, refuseEntries_ends stands free open_ started done (by decide), fun _ => rfl⟩
  · obtain ⟨stands, free⟩ := answerCame_only issued only part tag
    rw [if_neg late] at runs
    by_cases good : m.status = St.ok
    · obtain ⟨k, ended⟩ := placeResponse_ends stands free open_ started done m
      rw [if_pos good] at runs
      exact ⟨_, k, runs, ended, fun bad => absurd bad (by simp [good, late])⟩
    · have noted := noteFenced_sameWaits (answerCame s m r) m.tpart m.status
      rw [if_neg good] at runs
      exact ⟨_, _, runs, refuseEntries_ends ((noted.issuedOf _).trans stands) ((noted.remotes _).trans free) open_ started done
        good, fun _ => rfl⟩

/-- The end of the wait for the last request awaited ends its ATTEND, and counts each of its entries in RESULT. -/
theorem remoteWaitExpiry_ends (up : ready s = true) (due : r.due ≤ s.now) :
    ∃ t, exec (.remoteWaitExpiry r.w.part r.tag false) s = .next t ∧
      AttendEnded t r.w i (i.result + r.entries.length) r.entries.length := by
  obtain ⟨stands, free⟩ := dropRemote_only issued only (.refl s) rfl rfl
  exact ⟨_, remoteWaitExpiry_runs up (by simp [only]) due,
    refuseEntries_ends (s := clearReport (dropRemote s r.w.part r.tag) r.w.part r.tag) stands free open_ started done
      (by decide)⟩

end

/-- Settles O31: the target's row by its first refusal; at the requester the placing of outcomes keeps `EntriesPlaced`, from which
ATTEND's end follows. -/
theorem remoteAttention : Obligations.RemoteAttention := by
  refine ⟨fun s m h hl => ⟨fun accepted room => ?_, fun st refused here => ?_⟩,
    fun s w i r ⟨up, issued, open_, _⟩ started done only hw => ?_⟩
  · exact ⟨_, attendReq_waits h hl accepted room, partOf_modPart_self .., fun k hk => partOf_modPart_ne _ _ hk, fun _ => rfl⟩
  · obtain ⟨a, sent, status, tag, tpart, body⟩ := answerAttend_here (s := takeNoc s (.attend true m)) here st []
    exact ⟨_, a, attendReq_refused h hl refused, by rw [sent], status, tag, tpart, body, fun k => by rw [sent]; rfl⟩
  · subst hw
    refine ⟨fun m h hl part => ⟨fun tag target => ?_, fun other => ?_⟩, fun due => ?_⟩
    · obtain ⟨t, k, runs, ⟨j, fx, issued', status, result, effects, len, free⟩, counts⟩ :=
        attendResp_ends issued only open_ started done h hl part tag target
      exact ⟨fun bad => ⟨t, j, runs, issued', status, result.trans (counts (.inl bad)), free⟩,
        fun _ => ⟨t, j, fx, runs, issued', status, effects, len, fun late => result.trans (counts (.inr late)), free⟩⟩
    · exact ⟨_, attendResp_unknown h hl (by simp [part, only, other]), fun _ => rfl⟩
    · obtain ⟨t, runs, j, fx, issued', status, result, -, -, free⟩ :=
        remoteWaitExpiry_ends issued only open_ started done up due
      exact ⟨t, j, runs, issued', status, result, free⟩

end Sys2Proof.Machine
end

section
/-! PROOFS. The serving instructions: their checks and their ends (O25, O26). -/

namespace Sys2Proof.Machine

open Sys2Proof.Safety

/-! ## A serving instruction on its request (R169, R173) -/

section
variable {s : State} {w : IRef} {i : Issued} {op : Nat} {allowed : RState → Bool} {f : Issued → Rec → State}
variable (h : Working s w op i) (free : heldByOther s w i = false)
include h free

theorem withRequest_stale (stale : (recOf s w.part (reqIndex i.words)).rgen ≠ reqGen i.words) :
    withInstr s w op (fun i => withRequest s w i allowed (f i)) = .next (failWith s w St.staleRequest) := by
  rw [withInstr_working h]
  simp [withRequest, free, stale]

theorem withRequest_notRunning (current : (recOf s w.part (reqIndex i.words)).rgen = reqGen i.words)
    (unready : allowed (recOf s w.part (reqIndex i.words)).state = false) :
    withInstr s w op (fun i => withRequest s w i allowed (f i)) = .next (failWith s w St.notRunning) := by
  rw [withInstr_working h]
  simp [withRequest, free, current, unready]

theorem withRequest_runs (current : (recOf s w.part (reqIndex i.words)).rgen = reqGen i.words)
    (fit : allowed (recOf s w.part (reqIndex i.words)).state = true) :
    withInstr s w op (fun i => withRequest s w i allowed (f i)) = .next (f i (recOf s w.part (reqIndex i.words))) := by
  rw [withInstr_working h]
  simp [withRequest, free, current, fit]

end

/-- OPENREQ on a request of another generation. -/
theorem openreq_stale {s : State} {w : IRef} {i : Issued} (h : Working s w 0x36 i) (free : heldByOther s w i = false)
    (stale : (recOf s w.part (reqIndex i.words)).rgen ≠ reqGen i.words) :
    exec (.openreq w) s = .next (failWith s w St.staleRequest) := by
  show execOpenreq w s = _
  unfold execOpenreq
  rw [withInstr_working h]
  simp [free, stale]

/-- Settles O25, by the order of the checks that the serving instructions share. -/
theorem servingChecksItsRequest : Obligations.ServingChecksItsRequest := by
  intro s w i free
  refine ⟨fun stale => ?_, fun current idle => ?_⟩
  · refine ⟨?_, ?_, ?_, ?_, ?_, fun h => openreq_stale h free stale⟩ <;> exact fun h => withRequest_stale h free stale
  · refine ⟨?_, ?_, ?_, fun waiting h => withRequest_notRunning h free current (by simp [idle, waiting])⟩ <;>
      exact fun h => withRequest_notRunning h free current (by simpa using idle)

/-! ## What they do (R169 to R172) -/

theorem firstBad_ok {l : List Nat} (h : ∀ x ∈ l, x = St.ok) : firstBad l = St.ok := by
  induction l with
  | nil => rfl
  | cons x l ih => simp_all [firstBad]

/-- An EMIT whose checks all pass. -/
theorem emitStatus_ok {s : State} {p idx : Nat} {v : List Byte} (one : bits (leAt v 0 8) 3 0 = 1)
    (level : (recOf s p idx).w = (recOf s p idx).c)
    (access : mayAccess s p ((recOf s p idx).tokens + 4 * (recOf s p idx).c) 4 = true)
    (room : 1 ≤ ringFree (recOf (refreshCons s p idx 1) p idx)) :
    emitStatus s p idx v = (refreshCons s p idx 1, St.ok) := by
  unfold emitStatus
  dsimp only
  rw [if_neg (by simp [one]), if_neg (by simp [level]), if_neg (by simp [access]), if_neg (by omega)]

/-- An OPENREQ whose template passes every check. -/
theorem templateStatus_ok {s : State} {p : Nat} {r : Rec} {sh : Nat × Nat × Nat × Nat} {k : Nat} (fields : templateOk r = true)
    (geom : usableGeom s p r.geom = some (sh, k)) (ordered : r.c ≤ r.w) (near : r.w ≤ r.c + 9) (below : r.sealed * sh.1 ≤ r.c) :
    templateStatus s p r = St.ok := by
  unfold templateStatus
  rw [if_neg (by simp [fields]), geom]
  exact if_neg (by omega)

/-- Settles O26: past the shared checks each instruction's own checks pass in turn. -/
theorem servingInstructionsEnd : Obligations.ServingInstructionsEnd := by
  intro s w i free p idx r current
  refine ⟨?append, ?commit, ?emit, fun h running => ?rollback, fun h => ?retire, ?openreq⟩
  case append =>
    intro sh k rows h running n l w' layer least most drafts geom frames read
    refine (withRequest_runs h free current (by simpa using running)).trans (congrArg _ ?_)
    have length : ¬ (n = 0 ∨ r.depth + 1 < n ∨ (r.c < r.w ∧ n ≠ r.w - r.c)) := by
      rintro (none | more | ⟨open_, other⟩)
      · omega
      · omega
      · exact other (drafts open_)
    have good : firstBad ((appendHandles s p r l n).map fun h => (accessByHandle s h (selfParty s p) true).1) = St.ok :=
      firstBad_ok (by simpa using fun h hh => (frames h hh).2.2)
    dsimp only
    rw [if_neg (not_le.mpr layer), if_neg length, geom]
    dsimp only
    rw [if_neg (by simpa using fun h hh => (frames h hh).1), if_neg (by simpa using fun h hh => (frames h hh).2.1),
      if_neg (not_not.mpr good), read]
  case commit =>
    intro v h running read N es n s1 least most drafts enough access room
    refine (withRequest_runs h free current (by simpa using running)).trans (congrArg _ ?_)
    have size : ¬ (N = 0 ∨ 9 < N) := by omega
    have length : ¬ (r.w = r.c ∨ r.w - r.c < n) := by omega
    have reach : ¬ (!mayAccess s p (r.tokens + 4 * (r.c + 1)) (4 * n)) = true := by simp [access]
    dsimp only
    rw [read]
    dsimp only
    rw [if_neg size, if_neg length, if_neg reach, if_neg (not_lt.mpr room)]
  case emit =>
    intro v h fit read one level access room
    refine (withRequest_runs h free current (by simpa using fit)).trans (congrArg _ ?_)
    dsimp only
    rw [read]
    dsimp only
    rw [emitStatus_ok one level access room]
    rfl
  case rollback => exact withRequest_runs h free current (by simpa using running)
  case retire => exact withRequest_runs h free current rfl
  case openreq =>
    intro t sh k h unused read r' fields geom ordered near below
    show execOpenreq w s = _
    unfold execOpenreq
    rw [withInstr_working h]
    dsimp only
    rw [if_neg (by simp [free]), if_neg (not_not.mpr current), if_neg (not_not.mpr unused), read]
    exact congrArg _ (if_pos (templateStatus_ok fields geom ordered near below))

end Sys2Proof.Machine
end

section
/-! PROOFS. What error records, messages and events of the home leave of partitions: all but their error queues. -/

namespace Sys2Proof.Machine

open Sys2Proof.Safety

/-! ## Partitions but for their error queues -/

/-- The partitions of the module without their error queues. -/
def errless (s : State) (p : Nat) : Part := { partOf s p with errq := {} }

/-- A field of a partition other than its error queue. -/
theorem part_of_errless {α : Type} {s t : State} (h : errless t = errless s) {π : Part → α}
    (hπ : ∀ P, π { P with errq := {} } = π P) (p : Nat) : π (partOf t p) = π (partOf s p) := by
  rw [← hπ, ← hπ (partOf s p)]
  exact congrArg π (congrFun h p)

theorem errless_eq {s t : State} (h : t.parts = s.parts := by rfl) : errless t = errless s := by
  funext p
  rw [errless, errless, partOf, partOf, h]

theorem Alike.errless {s t : State} (h : Alike s t) : errless t = errless s := errless_eq h.parts

theorem modErrq_errless (s : State) (p : Nat) (f : ErrQueue → ErrQueue) : errless (modErrq s p f) = errless s := by
  funext k
  by_cases hk : k = p
  · simp [errless, modErrq, hk]
  · simp [errless, modErrq, partOf_modPart_ne _ _ hk]

theorem foldl_errless {α : Type} {f : State → α → State} (h : ∀ s a, errless (f s a) = errless s) (l : List α) (s : State) :
    errless (l.foldl f s) = errless s := by
  induction l generalizing s with
  | nil => rfl
  | cons a l ih => rw [List.foldl_cons, ih, h]

/-! ## Error records (R479 to R485) -/

theorem errToPart_errless (s : State) (p : Nat) (r : ErrRec) : errless (errToPart s p r).1 = errless s := by
  obtain ⟨f, h⟩ := errToPart_alike s p r
  exact h.errless.trans (modErrq_errless s p f)

theorem errWrite_errless (s : State) (toPart : Option Nat) (toLog : Bool) (r : ErrRec) :
    errless (errWrite s toPart toLog r).1 = errless s := by
  cases toPart with
  | none =>
    unfold errWrite
    dsimp only
    split
    · exact (errToLog_alike s r).errless
    · rfl
  | some p =>
    unfold errWrite
    dsimp only
    split
    · exact (errToLog_alike ..).errless.trans (errToPart_errless s p r)
    · exact errToPart_errless s p r

/-- An error record changes error queues alone. -/
theorem report_errless (s : State) (ctx : Option ErrContext) (toPart : Option Nat) (toLog : Bool) (r : ErrRec) :
    errless (report s ctx toPart toLog r) = errless s := by
  unfold report
  dsimp only
  split
  · exact errWrite_errless ..
  · split
    · split
      · split
        · exact modErrq_errless s _ (fun e => { e with overflow := (e.overflow + 1) % 2 ^ 32 })
        · rfl
      · exact (errless_eq (s := (errWrite s _ _ _).1)).trans (errWrite_errless ..)
    · exact (errless_eq (s := (errWrite s _ _ _).1)).trans (errWrite_errless ..)

theorem withCounters_errless (s : State) (c : Counters) : errless { s with counters := c } = errless s := rfl

theorem handled_errless (s : State) (ctx : ErrContext) : errless (handled s ctx) = errless s := rfl

/-! ## Ports (R308 to R320) -/

theorem stampHead_errless (s : State) (port : Nat) (l : Leaf) : errless (stampHead s port l) = errless s := by
  unfold stampHead
  dsimp only
  split
  · rfl
  · split <;> rfl

theorem park_errless (s : State) (port part tc : Nat) (k : Parked) : errless (park s port part tc k) = errless s := by
  cases k <;> rfl

theorem examine_errless (s : State) (port part tc : Nat) : errless (examine s port part tc) = errless s := by
  unfold examine
  dsimp only
  split
  · rfl
  · split
    · rfl
    · split <;> exact park_errless ..

theorem enqueueFrame_errless (s : State) (port part tc : Nat) (req : Option Nat) (f : TxFrame) :
    errless (enqueueFrame s port part tc req f) = errless s := by
  unfold enqueueFrame
  dsimp only
  split
  · exact stampHead_errless ..
  · exact (examine_errless ..).trans (stampHead_errless ..)

/-! ## Device messages (R98, R342, R350, R365, R378) -/

/-- A dead device message is reported; a dead transaction of an instruction would end in its queue. -/
theorem deadTxn_errless (s : State) {t : Txn} {o : Out} (h : t.dev = some o) : errless (deadTxn s t) = errless s := by
  unfold deadTxn
  dsimp only
  rw [h]
  exact report_errless ..

theorem launchTxn_errless (s : State) {t : Txn} {o : Out} (h : t.dev = some o) (frames : List TxFrame) :
    errless (launchTxn s t frames) = errless s := by
  unfold launchTxn
  dsimp only
  split
  · exact deadTxn_errless s (t := { t with tag := 0x10000 }) h
  · exact foldl_errless (fun _ _ => enqueueFrame_errless ..) _ _

theorem sendTxn_errless (s : State) {t : Txn} {o : Out} (h : t.dev = some o) (frames : List TxFrame) :
    errless (sendTxn s t frames) = errless s := by
  unfold sendTxn
  split
  · rfl
  · exact launchTxn_errless s h frames

theorem sendConnMsg_errless (s : State) (n op : Nat) (c : Conn) (r : ConnRecord) :
    errless (sendConnMsg s n op c r) = errless s := by
  unfold sendConnMsg
  dsimp only
  split
  · rfl
  · exact enqueueFrame_errless ..

theorem sendOpen_errless (s : State) (n : Nat) : errless (sendOpen s n) = errless s := sendConnMsg_errless ..

theorem makeRoom_errless (s : State) : errless (makeRoom s) = errless s := by
  unfold makeRoom
  split
  · rfl
  · split
    · next e _ =>
      refine (errless_eq (t := modConn _ _ _)).trans ?_
      cases h : hostPost (draw s) (partOf s e.2.part).connHostFn (hostTableAddr s e.1 e.2)
        ((List.range 256).map (Config.freeByte s.freeCtr)) with
      | none => rfl
      | some t => exact (hostPost_alike h).errless
    · rfl

theorem deviceConn_errless (s : State) (p tpart : Nat) (dest : Nat × Nat) :
    errless (deviceConn s p tpart dest).1 = errless s := by
  unfold deviceConn peerConn
  split
  · rfl
  · split
    · rfl
    · exact (sendOpen_errless ..).trans (makeRoom_errless (draw s))

/-- A device message changes error queues alone, on whatever way it goes. -/
theorem sendMsg_errless (s : State) (p tc : Nat) (dest : Nat × Nat) (tpart len : Nat) (o : Out) (req : Option Nat) :
    errless (sendMsg s p tc dest tpart len o req) = errless s := by
  have opened : errless (deviceConn (draw s) p tpart dest).1 = errless s := deviceConn_errless ..
  unfold sendMsg
  dsimp only
  split
  · rfl
  · split
    · exact sendTxn_errless _ rfl _
    · split
      · next h =>
        rw [h] at opened
        exact opened
      · next h =>
        rw [h] at opened
        exact opened

/-! ## Frames of the home (R104, R107) -/

theorem tellParty_errless (s : State) (g : Nat) (to_ : Party) (m : TMsg) : errless (tellParty s g to_ m) = errless s :=
  sendMsg_errless ..

theorem transition_errless (s : State) (g : Nat) (f : Frame) (event : Nat) : errless (transition s g f event) = errless s := rfl

theorem freeFrame_errless (s : State) (g event : Nat) : errless (freeFrame s g event) = errless s := rfl

theorem dropMigration_errless (s : State) (g : Nat) (asSource : Bool) : errless (dropMigration s g asSource) = errless s := rfl

theorem loseFrame_errless (s : State) (g event : Nat) : errless (loseFrame s g event) = errless s := tellParty_errless ..

theorem sendAbort_errless (s : State) (g : Nat) (x : Migration) (status handle peer : Nat) :
    errless (sendAbort s g x status handle peer) = errless s := (tellParty_errless ..).trans (sendMsg_errless ..)

theorem abortAtSource_errless (s : State) (g : Nat) (x : Migration) (status event : Nat) :
    errless (abortAtSource s g x status event) = errless s := by
  unfold abortAtSource
  refine (sendAbort_errless ..).trans ?_
  split <;> rfl

theorem endCopy_errless (s : State) (g : Nat) : errless (endCopy s g) = errless s := by
  unfold endCopy
  split
  · exact abortAtSource_errless ..
  · rfl

theorem offerLapse_errless (s : State) (g : Nat) : errless (offerLapse s g) = errless s := by
  unfold offerLapse
  dsimp only
  split
  · split
    · exact loseFrame_errless ..
    · exact (tellParty_errless ..).trans (tellParty_errless ..)
  · rfl

theorem lostLapse_errless (s : State) (g : Nat) : errless (lostLapse s g) = errless s := by
  unfold lostLapse
  dsimp only
  split <;> rfl

theorem migrationLapse_errless (s : State) (g : Nat) : errless (migrationLapse s g) = errless s := by
  unfold migrationLapse
  split
  · split
    · rfl
    · split
      · rfl
      · split
        · rfl
        · exact abortAtSource_errless ..
  · split
    · split
      · rfl
      · exact (sendAbort_errless ..).trans ((freeFrame_errless ..).trans (dropMigration_errless ..))
    · rfl

theorem forwardLapse_errless (s : State) (h : Nat) : errless (forwardLapse s h) = errless s := by
  unfold forwardLapse
  dsimp only
  split
  · split
    · split <;> rfl
    · rfl
  · rfl

/-- The deadlines of a frame, acted on, change error queues alone. -/
theorem lapse_errless (s : State) (h : Nat) : errless (lapse s h) = errless s :=
  (lostLapse_errless ..).trans ((offerLapse_errless ..).trans ((migrationLapse_errless ..).trans (forwardLapse_errless ..)))

/-- A frame given up changes error queues alone: the copy that ends with it sends messages. -/
theorem freeAt_errless (s : State) (h : Nat) (x : Party) : errless (freeAt s h x).1 = errless s := by
  unfold freeAt
  dsimp only
  split
  · split <;> rfl
  · rfl
  · split
    · rfl
    · split
      · rfl
      · exact (freeFrame_errless ..).trans (endCopy_errless ..)
  · rfl
  · split <;> rfl
  · rfl

end Sys2Proof.Machine
end

section
/-! PROOFS. The positions of requests through the commits of COMMIT and ROLLBACK (O27). -/

namespace Sys2Proof.Machine

open Sys2Proof.Safety

/-! ## Positions as they stand -/

/-- The work of partition p left every other partition's request records as they were. -/
def SameElsewhere (p : Nat) (s t : State) : Prop := ∀ k, k ≠ p → (partOf t k).recs = (partOf s k).recs

/-- The work of partition p left C and W of its requests as they were, and every other partition's records. -/
structure SamePositions (p : Nat) (s t : State) : Prop where
  elsewhere : SameElsewhere p s t
  c : ∀ i, (recOf t p i).c = (recOf s p i).c
  w : ∀ i, (recOf t p i).w = (recOf s p i).w

section
variable {p : Nat} {s t u : State}

theorem SameElsewhere.trans (h : SameElsewhere p s t) (k : SameElsewhere p t u) : SameElsewhere p s u :=
  fun j hj => (k j hj).trans (h j hj)

theorem modPart_sameElsewhere (s : State) (p : Nat) (f : Part → Part) : SameElsewhere p s (modPart s p f) :=
  fun _ hk => congrArg Part.recs (partOf_modPart_ne _ _ hk)

theorem SamePositions.refl (p : Nat) (s : State) : SamePositions p s s := ⟨fun _ _ => rfl, fun _ => rfl, fun _ => rfl⟩

theorem SamePositions.trans (h : SamePositions p s t) (k : SamePositions p t u) : SamePositions p s u :=
  ⟨h.elsewhere.trans k.elsewhere, fun i => (k.c i).trans (h.c i), fun i => (k.w i).trans (h.w i)⟩

theorem recOf_of_errless (h : errless t = errless s) (p i : Nat) : recOf t p i = recOf s p i :=
  part_of_errless h (π := fun P => AMap.getD P.recs i { rgen := P.rgenBase }) (fun _ => rfl) p

/-- What changes error queues alone. -/
theorem samePositions_of_errless (h : errless t = errless s) (p : Nat) : SamePositions p s t :=
  ⟨fun k _ => part_of_errless h (π := Part.recs) (fun _ => rfl) k, fun i => by rw [recOf_of_errless h],
    fun i => by rw [recOf_of_errless h]⟩

theorem Alike.samePositions (h : Alike s t) (p : Nat) : SamePositions p s t := samePositions_of_errless h.errless p

/-- What changes a partition and neither its records nor the generation of unused ones. -/
theorem modPart_samePositions (s : State) (p : Nat) (f : Part → Part) (recs : ∀ P, (f P).recs = P.recs := by intro; rfl)
    (base : ∀ P, (f P).rgenBase = P.rgenBase := by intro; rfl) : SamePositions p s (modPart s p f) := by
  have same : ∀ i, recOf (modPart s p f) p i = recOf s p i := fun i => by simp [recOf, recs, base]
  exact ⟨modPart_sameElsewhere s p f, fun i => by rw [same], fun i => by rw [same]⟩

/-- A record written with the C and W that it had. -/
theorem SamePositions.setRec (h : SamePositions p s t) {i : Nat} {r : Rec} (hc : r.c = (recOf s p i).c)
    (hw : r.w = (recOf s p i).w) : SamePositions p s (setRec t p i r) := by
  refine ⟨h.elsewhere.trans (modPart_sameElsewhere t p _), fun k => ?_, fun k => ?_⟩ <;> by_cases hk : k = i
  · rw [hk, recOf_setRec_self, hc]
  · rw [recOf_setRec_ne _ _ hk, h.c]
  · rw [hk, recOf_setRec_self, hw]
  · rw [recOf_setRec_ne _ _ hk, h.w]

theorem foldl_samePositions {α : Type} {f : State → α → State} (h : ∀ s a, SamePositions p s (f s a)) (l : List α) (s : State) :
    SamePositions p s (l.foldl f s) := by
  induction l generalizing s with
  | nil => exact .refl p s
  | cons a l ih => exact (h s a).trans (ih _)

end

/-! ## Memory, rings and messages (R65, R178 to R182) -/

theorem devPut_samePositions (s : State) (p a : Nat) (bs : List Byte) : SamePositions p s (devPut s a bs) :=
  (devWrite_alike s a bs).samePositions p

theorem putEntry_samePositions (s : State) (p : Nat) (r : Rec) (l j h : Nat) : SamePositions p s (putEntry s p r l j h) := by
  unfold putEntry
  split
  · exact devPut_samePositions ..
  · exact .refl p s

theorem ringPut_errless (s : State) (p : Nat) (leaf : Option Nat) (r : Rec) (off : Nat) (bs : List Byte) :
    errless (ringPut s p leaf r off bs) = errless s := by
  unfold ringPut
  split
  · exact enqueueFrame_errless ..
  · rfl

theorem putCarousel_errless (s : State) (p : Nat) (leaf : Option Nat) (r : Rec) (i word : Nat) (last : Bool) :
    errless (putCarousel s p leaf r i word last) = errless s := ringPut_errless ..

theorem putEntries_errless (p idx : Nat) (r : Rec) (es : List Nat) (i : Nat) (s : State) :
    errless (putEntries p idx r es i s) = errless s := by
  induction es generalizing i s with
  | nil => rfl
  | cons e es ih => exact (ih ..).trans (putCarousel_errless ..)

theorem putHeader_errless (s : State) (p idx : Nat) (r : Rec) (ended : Option Nat) :
    errless (putHeader s p idx r ended) = errless s := by
  unfold putHeader
  dsimp only
  split
  · exact (ringPut_errless ..).trans ((ringPut_errless ..).trans (ringPut_errless ..))
  · exact (ringPut_errless ..).trans (ringPut_errless ..)

theorem takeTag_samePositions (s : State) (p : Nat) : SamePositions p s (takeTag s p).1 := by
  unfold takeTag
  dsimp only
  exact modPart_samePositions ..

theorem noteFenced_samePositions (s : State) (p st : Nat) : SamePositions p s (noteFenced s p st) := by
  unfold noteFenced
  split
  · exact modPart_samePositions ..
  · exact .refl p s

theorem setBucket_samePositions (s : State) (p c : Nat) (b : Bucket) : SamePositions p s (setBucket s p c b) :=
  modPart_samePositions ..

theorem charge_samePositions (s : State) (p c amt : Nat) : SamePositions p s (charge s p c amt) := setBucket_samePositions ..

theorem useHome_samePositions (s : State) (p : Nat) (home : Nat × Nat × Nat) (g : Int) : SamePositions p s (useHome s p home g) := by
  unfold useHome modHomeUse
  refine modPart_samePositions s p _ (fun P => ?_) fun P => ?_ <;> dsimp only <;> split <;> rfl

/-! ## Positions given up (R174, R175) -/

theorem addWaste_samePositions (s : State) (p n : Nat) : SamePositions p s (addWaste s p n) := by
  unfold addWaste
  split
  · exact .refl p s
  · exact (modPart_samePositions ..).trans ((countEv_alike ..).samePositions p)

theorem creditHere_samePositions (s : State) (p g n : Nat) : SamePositions p s (creditHere s p g n) := by
  unfold creditHere
  dsimp only
  split
  · exact useHome_samePositions ..
  · exact .refl p s

theorem freeHandle_samePositions (s : State) (p h : Nat) : SamePositions p s (freeHandle s p h) := by
  have lapsed := samePositions_of_errless (lapse_errless s h) p
  unfold freeHandle
  split
  · exact .refl p s
  · split
    · dsimp only
      split
      · exact lapsed.trans (noteFenced_samePositions ..)
      · have freed := lapsed.trans (samePositions_of_errless (freeAt_errless (lapse s h) h (selfParty (lapse s h) p)) p)
        split
        · exact freed.trans (creditHere_samePositions ..)
        · exact freed
    · exact (takeTag_samePositions s p).trans (samePositions_of_errless (sendMsg_errless ..) p)

theorem freeFrom_samePositions (s : State) (p idx bound : Nat) : SamePositions p s (freeFrom s p idx bound) := by
  refine foldl_samePositions (fun s e => ?_) _ s
  dsimp only
  split
  · exact .refl p s
  · exact (freeHandle_samePositions ..).trans (putEntry_samePositions ..)

/-! ## Seals of full blocks (R74, R113, R176) -/

theorem afterSeal_positions (r : Rec) (l j hash : Nat) : (afterSeal r l j hash).c = r.c ∧ (afterSeal r l j hash).w = r.w := by
  unfold afterSeal
  dsimp only
  split <;> exact ⟨rfl, rfl⟩

theorem startMove_samePositions (s : State) (p idx l j handle : Nat) (dest : Party) (flags : Nat) (back : Bool) (hold : Option Nat)
    (pool : Option ((Nat × Nat × Nat) × Nat)) (rehome : Option (Nat × Nat × Nat)) :
    SamePositions p s (startMove s p idx l j handle dest flags back hold pool rehome) := by
  unfold startMove sendMigrate
  exact ((takeTag_samePositions s p).trans (samePositions_of_errless (sendMsg_errless ..) p)).trans (modPart_samePositions ..)

theorem moveIfShared_samePositions (s : State) (p idx l j handle flags : Nat) :
    SamePositions p s (moveIfShared s p idx l j handle flags) := by
  unfold moveIfShared
  dsimp only
  split
  · unfold moveToPool
    split
    · exact .refl p s
    · exact (useHome_samePositions ..).trans (startMove_samePositions ..)
  · exact .refl p s

theorem sealDone_samePositions (s : State) (p idx l j h hash flags : Nat) :
    SamePositions p s (sealDone s p idx l j h hash flags) := by
  obtain ⟨hc, hw⟩ := afterSeal_positions (recOf s p idx) l j hash
  exact ((SamePositions.refl p s).setRec hc hw).trans (moveIfShared_samePositions ..)

theorem expectOutcome_samePositions (s : State) (p tag h deadline : Nat) (move : Bool) :
    SamePositions p s (expectOutcome s p tag h deadline move) := modPart_samePositions ..

theorem askSeal_samePositions (s : State) (p idx l j h hash : Nat) : SamePositions p s (askSeal s p idx l j h hash) := by
  unfold askSeal
  exact (((takeTag_samePositions s p).trans (samePositions_of_errless (sendMsg_errless ..) p)).trans
    (modPart_samePositions ..)).trans (expectOutcome_samePositions ..)

theorem sealLocal_samePositions (s : State) (p h hash : Nat) : SamePositions p s (sealLocal s p h hash).1 := by
  have lapsed := samePositions_of_errless (lapse_errless s h) p
  unfold sealLocal
  dsimp only
  split
  · exact lapsed.trans (noteFenced_samePositions ..)
  · split
    · split
      · exact lapsed.trans (samePositions_of_errless (transition_errless ..) p)
      · exact lapsed
    · exact lapsed

theorem sealLayer_samePositions (s : State) (p idx l j hash : Nat) : SamePositions p s (sealLayer s p idx l j hash).1 := by
  unfold sealLayer
  dsimp only
  split
  · exact .refl p s
  · split
    · exact .refl p s
    · split
      · exact askSeal_samePositions ..
      · split
        · exact (sealLocal_samePositions ..).trans (sealDone_samePositions ..)
        · exact sealLocal_samePositions ..

theorem sealLayers_samePositions (p idx j hash : Nat) (ls : List Nat) (s : State) :
    SamePositions p s (sealLayers p idx j hash ls s).1 := by
  induction ls generalizing s with
  | nil => exact .refl p s
  | cons l ls ih => exact (sealLayer_samePositions ..).trans (ih _)

theorem sealFull_samePositions (p idx fuel : Nat) (s : State) : SamePositions p s (sealFull p idx fuel s).1 := by
  induction fuel generalizing s with
  | zero => exact .refl p s
  | succ fuel ih =>
    unfold sealFull
    dsimp only
    split
    · split
      · exact .refl p s
      · split
        · exact (sealLayers_samePositions ..).trans (ih _)
        · exact sealLayers_samePositions ..
    · exact .refl p s

/-! ## A request that ends with an error (R155, R182, R420) -/

theorem refreshCons_samePositions (s : State) (p idx n : Nat) : SamePositions p s (refreshCons s p idx n) := by
  unfold refreshCons
  dsimp only
  split
  · exact .refl p s
  · split
    · exact (SamePositions.refl p s).setRec rfl rfl
    · exact .refl p s

/-- An ending entry in the ring, and the record with a new PROD. -/
theorem endingEntry_samePositions {s t : State} {p : Nat} (h : SamePositions p s t) (idx : Nat) (leaf : Option Nat)
    (i word prod : Nat) :
    SamePositions p s (setRec (putCarousel t p leaf (recOf t p idx) i word true) p idx { recOf t p idx with prod := prod }) :=
  (h.trans (samePositions_of_errless (putCarousel_errless ..) p)).setRec (h.c idx) (h.w idx)

theorem endHeader_errless (s : State) (p : Nat) (leaf : Option Nat) (r : Rec) (off : Nat) (bs : List Byte) (st final : Nat) :
    errless (putRingState (ringPut (putProd s p leaf r) p leaf r off bs) p leaf r st final) = errless s :=
  (ringPut_errless ..).trans ((ringPut_errless ..).trans (ringPut_errless ..))

theorem endRequest_samePositions (s : State) (p idx : Nat) (leaf : Option Nat) (final : Nat) (entry : Option Nat) :
    SamePositions p s (endRequest s p idx leaf final entry) := by
  have fresh := refreshCons_samePositions s p idx 1
  have closed : ∀ u, SamePositions p s u →
      SamePositions p s (setRec u p idx { recOf u p idx with state := .ended, caught := false, stalled := false }) :=
    fun u h => h.setRec (h.c idx) (h.w idx)
  unfold endRequest
  dsimp only
  refine SamePositions.trans (closed _ ?_) (samePositions_of_errless (endHeader_errless ..) p)
  split
  · exact fresh
  · split
    · exact endingEntry_samePositions fresh ..
    · exact fresh

theorem retire_samePositions (s : State) (p idx : Nat) (leaf : Option Nat) (final : Nat) :
    SamePositions p s (retire s p idx leaf final) := by
  unfold retire
  refine SamePositions.trans ?_ (endRequest_samePositions ..)
  split
  · dsimp only
    split
    · exact .refl p s
    · exact setBucket_samePositions ..
  · exact .refl p s

theorem failRequest_samePositions (s : State) (p idx status : Nat) : SamePositions p s (failRequest s p idx status) := by
  unfold failRequest
  dsimp only
  split
  · split
    · exact samePositions_of_errless (report_errless ..) p
    · exact .refl p s
  · have retired := fun err : ErrRec => (samePositions_of_errless
      (report_errless s (some (.request p idx)) (some p) false err) p).trans (retire_samePositions _ p idx none (0x40 + status))
    split
    · exact (retired _).trans (samePositions_of_errless (withCounters_errless ..) p)
    · exact (retired _).trans (samePositions_of_errless (handled_errless ..) p)

/-- The sealing work of a request moves no positions, also where it ends the request. -/
theorem sealOn_samePositions (s : State) (p idx : Nat) : SamePositions p s (sealOn s p idx) := by
  have sealed := sealFull_samePositions p idx (fullBlocks s p (recOf s p idx)) s
  unfold sealOn
  dsimp only
  split
  · exact sealed
  · exact sealed.trans (failRequest_samePositions ..)

/-! ## COMMIT and ROLLBACK at their commits (R169, R171) -/

/-- The request idx of partition p has C and W as given in t, and every other partition its records of s. -/
structure PositionsAt (s t : State) (p idx c w : Nat) : Prop where
  elsewhere : SameElsewhere p s t
  c : (recOf t p idx).c = c
  w : (recOf t p idx).w = w

theorem PositionsAt.trans {s t u : State} {p idx c w : Nat} (h : PositionsAt s t p idx c w) (k : SamePositions p t u) :
    PositionsAt s u p idx c w := ⟨h.elsewhere.trans k.elsewhere, (k.c idx).trans h.c, (k.w idx).trans h.w⟩

theorem setRec_positionsAt {s t : State} {p c w : Nat} (h : SamePositions p s t) (idx : Nat) {r : Rec} (hc : r.c = c) (hw : r.w = w) :
    PositionsAt s (setRec t p idx r) p idx c w :=
  ⟨h.elsewhere.trans (modPart_sameElsewhere t p _), by rw [recOf_setRec_self, hc], by rw [recOf_setRec_self, hw]⟩

/-- An emission leaves the record with the C and W of the record that it is given. -/
theorem emission_positionsAt {s t : State} {p : Nat} (h : SamePositions p s t) (idx : Nat) (r : Rec) (es : List Nat) :
    PositionsAt s (emission t p idx r es) p idx r.c r.w := by
  have entered := h.trans (samePositions_of_errless (putEntries_errless p idx r es r.prod t) p)
  unfold emission
  dsimp only
  refine PositionsAt.trans (PositionsAt.trans ?_ (samePositions_of_errless (putHeader_errless ..) p)) (charge_samePositions ..)
  exact setRec_positionsAt entered idx rfl rfl

theorem commitReq_positionsAt (s : State) (p idx : Nat) (es : List Nat) :
    PositionsAt s (commitReq s p idx es) p idx ((recOf s p idx).c + es.length) ((recOf s p idx).c + es.length) := by
  unfold commitReq
  exact (((emission_positionsAt (devPut_samePositions ..) ..).trans (addWaste_samePositions ..)).trans
    (freeFrom_samePositions ..)).trans (sealOn_samePositions ..)

theorem rollbackReq_positionsAt (s : State) (p idx : Nat) :
    PositionsAt s (rollbackReq s p idx) p idx (recOf s p idx).c (recOf s p idx).c := by
  unfold rollbackReq
  exact ((setRec_positionsAt (.refl p s) idx rfl rfl).trans (addWaste_samePositions ..)).trans (freeFrom_samePositions ..)

/-- Settles O27: each commit writes the record's positions once, and everything else that it does keeps them. -/
theorem commitMovesThePositions : Obligations.CommitMovesThePositions := by
  intro s p idx es r
  have committed := commitReq_positionsAt s p idx es
  have rolled := rollbackReq_positionsAt s p idx
  exact ⟨⟨committed.c, committed.w⟩, ⟨rolled.c, rolled.w⟩, fun k hk => ⟨committed.elsewhere k hk, rolled.elsewhere k hk⟩⟩

end Sys2Proof.Machine
end

section
/-! PROOFS. Instructions that end, the Control group, and semaphores (O6, O7, O8, O9, O10). -/

namespace Sys2Proof.Machine

open Sys2Proof.Safety

/-! ## The end of an instruction's work (R205) -/

/-- Instructions of one queue stand as they do where another queue changes. -/
theorem issuedOf_modQueue_ne (s : State) {w : IRef} {q : Nat} (f : Queue → Queue) (h : q ≠ w.queue) :
    issuedOf (modQueue s w.part q f) w = issuedOf s w := by
  unfold issuedOf
  rw [queueOf_modQueue_ne _ _ h.symm]

theorem modIssued_queue (s : State) (w : IRef) (f : Issued → Issued) (q : Nat) :
    ∃ is, queueOf (partOf (modIssued s w f) w.part) q = { queueOf (partOf s w.part) q with issued := is } := by
  by_cases hq : q = w.queue
  · subst hq
    exact ⟨_, queueOf_modQueue_self ..⟩
  · exact ⟨_, queueOf_modQueue_ne _ _ hq⟩

/-- Settles O6: only the queue that holds the instruction is written, and in it only that instruction. -/
theorem finishChangesOnlyItsInstruction : Obligations.FinishChangesOnlyItsInstruction := by
  intro s w i st r fx issued
  refine ⟨?_, fun v => issuedOf_finish_ne s st r fx, fun p hp => partOf_modIssued_ne s _ hp, ⟨_, partOf_modQueue ..⟩,
    modIssued_queue s w _, ⟨_, rfl⟩⟩
  have ended := issuedOf_modIssued_self
    (f := fun i => { i with status := some st, result := r, effects := fx }) (fun _ => rfl) issued
  refine ended.trans (congrArg some ?_)
  unfold changeIssued
  cases i.status <;> rfl

/-! ## NOP, FENCE, SIGNAL, TIMEWAIT and SNAP (R204, R211) -/

/-- Settles O7: each row runs its meaning on the instruction at work. -/
theorem controlInstructionsEnd : Obligations.ControlInstructionsEnd := fun _ _ _ =>
  ⟨fun h => withInstr_working h, fun h => withInstr_working h, fun h => withInstr_working h, fun h => withInstr_working h,
    fun h => withInstr_working h⟩

/-! ## HALTQ (R191, R211) -/

/-- What HALTQ notes of the instruction before it waits: whether it halts the queue. -/
def haltNoted (s : State) (w : IRef) (q : Nat) : State :=
  if (queueOf (partOf s w.part) q).cause == 0 then modIssued s w (fun i => { i with aux := 1 }) else s

/-- HALTQ has halted the other queue q. -/
def otherHalted (s : State) (w : IRef) (q : Nat) : State :=
  modQueue (haltNoted s w q) w.part q (fun x => if x.cause = 0 then { x with cause := 0x02 } else x)

section
variable {s : State} {w : IRef} {i : Issued} {q : Nat}

theorem queueOf_haltNoted (hq : q ≠ w.queue) : queueOf (partOf (haltNoted s w q) w.part) q = queueOf (partOf s w.part) q := by
  unfold haltNoted
  split
  · exact queueOf_modQueue_ne _ _ hq
  · rfl

theorem queueOf_otherHalted (hq : q ≠ w.queue) : queueOf (partOf (otherHalted s w q) w.part) q =
    if (queueOf (partOf s w.part) q).cause = 0 then { queueOf (partOf s w.part) q with cause := 0x02 }
    else queueOf (partOf s w.part) q := by
  rw [otherHalted, queueOf_modQueue_self, queueOf_haltNoted hq]

theorem otherHalted_cause (hq : q ≠ w.queue) : (queueOf (partOf (otherHalted s w q) w.part) q).cause =
    if (queueOf (partOf s w.part) q).cause = 0 then 0x02 else (queueOf (partOf s w.part) q).cause := by
  rw [queueOf_otherHalted hq]
  split <;> rfl

theorem otherHalted_issued (hq : q ≠ w.queue) :
    (queueOf (partOf (otherHalted s w q) w.part) q).issued = (queueOf (partOf s w.part) q).issued := by
  rw [queueOf_otherHalted hq]
  split <;> rfl

theorem issuedOf_otherHalted (hq : q ≠ w.queue) (issued : issuedOf s w = some i) (open_ : i.status = none) :
    issuedOf (otherHalted s w q) w =
      some { i with aux := if (queueOf (partOf s w.part) q).cause = 0 then 1 else i.aux } := by
  rw [otherHalted, issuedOf_modQueue_ne _ _ hq, haltNoted]
  by_cases running : (queueOf (partOf s w.part) q).cause = 0
  · rw [if_pos (by simpa using running), if_pos running, issuedOf_modIssued_self (f := fun i => { i with aux := 1 }) (fun _ => rfl) issued,
      changeIssued_open open_]
  · rw [if_neg (by simpa using running), if_neg running, issued]

theorem otherHalted_now : (otherHalted s w q).now = s.now := by
  unfold otherHalted haltNoted
  split <;> exact modQueue_now ..

theorem haltq_other (h : Working s w 0x06 i) (hq : bits (opA i.words) 5 0 ≠ w.queue) :
    exec (.haltq w) s = .next (
      if (queueOf (partOf (otherHalted s w (bits (opA i.words) 5 0)) w.part) (bits (opA i.words) 5 0)).issued.isEmpty
      then finish (otherHalted s w (bits (opA i.words) 5 0)) w St.ok 0 else otherHalted s w (bits (opA i.words) 5 0)) :=
  (withInstr_working h).trans (congrArg _ (if_neg hq))

theorem haltq_own (h : Working s w 0x06 i) (hq : bits (opA i.words) 5 0 = w.queue)
    (oldest : (queueOf (partOf s w.part) (bits (opA i.words) 5 0)).issued.head? = some i) :
    exec (.haltq w) s = .next (finish s w St.ok 0 [.halted (bits (opA i.words) 5 0)]) := by
  refine (withInstr_working h).trans (congrArg _ ?_)
  dsimp only
  rw [if_pos hq, oldest]
  exact if_pos rfl

end

/-- Settles O8: HALTQ of another queue writes that queue's CAUSE and its own note, and ends if the queue is drained. -/
theorem haltqHalts : Obligations.HaltqHalts := by
  intro s w i h q
  obtain ⟨-, issued, open_, -⟩ := id h
  refine ⟨fun hq => ⟨_, haltq_other h hq, ?_⟩, haltq_own h⟩
  have noted := issuedOf_otherHalted hq issued open_
  rw [otherHalted_issued hq]
  by_cases drained : (queueOf (partOf s w.part) q).issued = []
  · rw [if_pos (List.isEmpty_iff.mpr drained)]
    refine ⟨?_, fun _ => ?_, fun busy => absurd drained busy⟩
    · exact (congrArg Queue.cause (queueOf_modQueue_ne _ _ hq)).trans (otherHalted_cause hq)
    · rw [issuedOf_finish_self St.ok 0 [] noted open_, otherHalted_now]
  · rw [if_neg (drained ∘ List.isEmpty_iff.mp)]
    exact ⟨otherHalted_cause hq, fun none_ => absurd none_ drained, fun _ => noted⟩

/-! ## Waiters (R200) -/

theorem sem_of_firstWaiter {s : State} {p sem : Nat} {x : Waiter} (h : firstWaiter s p sem = some x) : x.sem = sem := by
  simpa using List.find?_some h

theorem waiters_of_firstWaiter {s : State} {p sem : Nat} {x : Waiter} (h : firstWaiter s p sem = some x) :
    (partOf s p).waiters.length = (partOf s p).waiters.length - 1 + 1 := by
  have := List.length_pos_of_mem (List.mem_of_find?_eq_some h)
  omega

theorem serve_grants {s : State} {p sem : Nat} {x : Waiter} (first : firstWaiter s p sem = some x)
    (covered : x.need ≤ (semOf s p sem).value) :
    serve s p sem = serveSem (grant s p x) p sem ((partOf s p).waiters.length - 1) := by
  unfold serve
  rw [waiters_of_firstWaiter first]
  simp [serveSem, first, covered]

theorem serve_waits {s : State} {p sem : Nat} {x : Waiter} (first : firstWaiter s p sem = some x)
    (short : (semOf s p sem).value < x.need) : serve s p sem = s := by
  unfold serve
  rw [waiters_of_firstWaiter first]
  simp [serveSem, first, Nat.not_le.mpr short]

theorem serve_idle {s : State} {p : Nat} (idle : (partOf s p).waiters = []) (sem : Nat) : serve s p sem = s := by
  unfold serve
  rw [idle]
  rfl

/-! ## WAIT (R200, R211) -/

/-- The place that a WAIT takes among the waiters. -/
def placeOfWait (w : IRef) (i : Issued) : Waiter :=
  { sem := bits (opA i.words) 3 0, queue := w.queue, idx := some w.idx, need := bits (opB i.words) 31 0 }

/-- The partition of a WAIT with its waiters replaced. -/
def withWaiters (s : State) (p : Nat) (xs : List Waiter) : State := modPart s p (fun P => { P with waiters := xs })

theorem semOf_withWaiters (s : State) (p : Nat) (xs : List Waiter) (k : Nat) : semOf (withWaiters s p xs) p k = semOf s p k := by
  simp [semOf, withWaiters]

theorem issuedOf_withWaiters (s : State) (w : IRef) (xs : List Waiter) : issuedOf (withWaiters s w.part xs) w = issuedOf s w :=
  (modPart_sameQueues s w.part (f := fun P => { P with waiters := xs }) fun _ => rfl).issuedOf w

section
variable {s : State} {w : IRef} {i : Issued}

theorem wait_serves (h : Working s w 0x02 i) (idle : (partOf s w.part).waiters = []) :
    exec (.wait w) s = .next (serve (withWaiters s w.part [placeOfWait w i]) w.part (bits (opA i.words) 3 0)) := by
  refine (withInstr_working h).trans (congrArg _ ?_)
  simp only [idle, List.any_nil, Bool.false_eq_true, if_false]
  simp only [withWaiters, modPart, idle, List.nil_append, placeOfWait]

theorem serve_onlyWaiter {x : Waiter} (covered : x.need ≤ (semOf s w.part x.sem).value) :
    serve (withWaiters s w.part [x]) w.part x.sem = grant (withWaiters s w.part [x]) w.part x := by
  have first : firstWaiter (withWaiters s w.part [x]) w.part x.sem = some x := by simp [firstWaiter, withWaiters]
  rw [serve_grants first (by rwa [semOf_withWaiters])]
  simp [withWaiters, serveSem]

theorem waitLimitExpiry_ends (h : Working s w 0x02 i) (limited : bits (opB i.words) 63 32 ≠ 0)
    (passed : i.issuedAt + bits (opB i.words) 63 32 * 1000 ≤ s.now) :
    ∃ xs, exec (.waitLimitExpiry w) s = .next (failWith (withWaiters s w.part xs) w St.timeout) :=
  ⟨_, (withInstr_working h).trans (congrArg _ (if_pos ⟨limited, passed⟩))⟩

end

/-- The tokens of a waiter taken, and its place among the waiters given up. -/
def tokensTaken (s : State) (p : Nat) (x : Waiter) : State :=
  withWaiters (setSem s p x.sem { semOf s p x.sem with value := (semOf s p x.sem).value - x.need }) p
    (dropWaiter x (partOf s p).waiters)

theorem grant_wait (s : State) (p : Nat) {x : Waiter} {k : Nat} (hx : x.idx = some k) : grant s p x =
    finish (tokensTaken s p x) ⟨p, x.queue, k⟩ St.ok ((semOf s p x.sem).value - x.need) := by
  simp [grant, hx, tokensTaken, withWaiters, modPart, setSem]

theorem setSem_sameQueues (s : State) (p sem : Nat) (x : Sem) : SameQueues s (setSem s p sem x) :=
  modPart_sameQueues s p fun _ => rfl

theorem issuedOf_tokensTaken (s : State) (w : IRef) (x : Waiter) : issuedOf (tokensTaken s w.part x) w = issuedOf s w :=
  (issuedOf_withWaiters _ w _).trans ((setSem_sameQueues ..).issuedOf w)

theorem semOf_tokensTaken_self (s : State) (p : Nat) (x : Waiter) :
    semOf (tokensTaken s p x) p x.sem = { semOf s p x.sem with value := (semOf s p x.sem).value - x.need } := by
  rw [tokensTaken, semOf_withWaiters, semOf_setSem_self]

theorem semOf_tokensTaken_ne (s : State) (p : Nat) {x : Waiter} {k : Nat} (hk : k ≠ x.sem) :
    semOf (tokensTaken s p x) p k = semOf s p k := by
  rw [tokensTaken, semOf_withWaiters, semOf_setSem_ne _ _ hk]

theorem waiters_tokensTaken (s : State) (p : Nat) (x : Waiter) :
    (partOf (tokensTaken s p x) p).waiters = dropWaiter x (partOf s p).waiters := by
  rw [tokensTaken, withWaiters, partOf_modPart_self]

theorem waiters_finish (s : State) (w : IRef) (st r : Nat) (fx : List Effect) (p : Nat) :
    (partOf (finish s w st r fx) p).waiters = (partOf s p).waiters := modIssued_field (fun _ _ => rfl) s w _ p

/-- Settles O9: a WAIT alone among the waiters is served at once; one that is late gives up its place. -/
theorem waitTakesItsTokensOrTimesOut : Obligations.WaitTakesItsTokensOrTimesOut := by
  refine ⟨fun s w i h idle covered => ?_, fun s w i h limited passed => ?_⟩
  · obtain ⟨-, issued, open_, -⟩ := id h
    have sems := semOf_withWaiters s w.part [placeOfWait w i]
    refine ⟨_, (wait_serves h idle).trans (congrArg _ ((serve_onlyWaiter (x := placeOfWait w i) covered).trans
      (grant_wait _ _ rfl))), ?_, ?_, fun k hk => ?_, ?_⟩
    · rw [sems]
      exact issuedOf_finish_self _ _ _ ((issuedOf_tokensTaken ..).trans ((issuedOf_withWaiters ..).trans issued)) open_
    · rw [semOf_finish]
      exact (congrArg Sem.value (semOf_tokensTaken_self _ w.part (placeOfWait w i))).trans (by rw [sems]; rfl)
    · rw [semOf_finish, semOf_tokensTaken_ne _ _ hk, sems]
    · rw [waiters_finish, waiters_tokensTaken, withWaiters, partOf_modPart_self]
      exact if_pos rfl
  · obtain ⟨-, issued, open_, -⟩ := id h
    obtain ⟨xs, run⟩ := waitLimitExpiry_ends h limited passed
    refine ⟨_, run, issuedOf_finish_self _ _ _ ((issuedOf_withWaiters ..).trans issued) open_, fun k => ?_⟩
    rw [failWith, semOf_finish, semOf_withWaiters]

/-! ## Additions (R202) -/

theorem semOf_report (s : State) (ctx : Option ErrContext) (toPart : Option Nat) (toLog : Bool) (r : ErrRec) (p k : Nat) :
    semOf (report s ctx toPart toLog r) p k = semOf s p k :=
  part_of_errless (π := fun P => AMap.getD P.sems k {}) (report_errless s ctx toPart toLog r) (fun _ => rfl) p

section
variable {s : State} {p sem n : Nat} (real : sem ≠ 0)
include real

theorem semAdd_within (fits : (semOf s p sem).value + n ≤ 0xFFFFFFFF) :
    semAdd s p sem n = setSem s p sem { semOf s p sem with value := (semOf s p sem).value + n } := by
  simp [semAdd, real, fits]

theorem semAdd_past (past : 0xFFFFFFFF < (semOf s p sem).value + n) :
    ∃ r, semAdd s p sem n = report (setSem s p sem { value := 0xFFFFFFFF, overflow := true }) none (some p) false r :=
  ⟨_, by simp [semAdd, real, Nat.not_le.mpr past]; rfl⟩

theorem semOf_semAdd_ne {k : Nat} (hk : k ≠ sem) : semOf (semAdd s p sem n) p k = semOf s p k := by
  by_cases fits : (semOf s p sem).value + n ≤ 0xFFFFFFFF
  · rw [semAdd_within real fits, semOf_setSem_ne _ _ hk]
  · obtain ⟨r, run⟩ := semAdd_past real (Nat.not_le.mp fits)
    rw [run, semOf_report, semOf_setSem_ne _ _ hk]

end

/-- Settles O10: the first waiter decides what `serve` does, and the sum decides what `semAdd` does. -/
theorem semaphoresServeAndAdd : Obligations.SemaphoresServeAndAdd := by
  refine ⟨fun s p sem x up running first => ?_, fun s p sem n real => ⟨fun fits => ?_, fun past => ?_, fun k => semOf_semAdd_ne real⟩⟩
  · have runs : exec (.semaphoreServe p sem) s = .next (serve s p sem) := if_pos (by simp [up, running])
    exact ⟨fun covered => runs.trans (congrArg _ (serve_grants first covered)),
      fun short => runs.trans (congrArg _ (serve_waits first short))⟩
  · rw [semAdd_within real fits, semOf_setSem_self]
  · obtain ⟨r, run⟩ := semAdd_past real past
    rw [run, semOf_report, semOf_setSem_self]

end Sys2Proof.Machine
end

section
/-! PROOFS. Issue (O12): a fetch can make a destination readable that the checks before it did not see. -/

namespace Sys2Proof.Machine

open Sys2Proof.Safety

/-- The words of a MERGE whose header lies at 0x40. -/
def mergeWords : List Nat := [0x1121, 0x40]

/-- A queue whose next instruction is that MERGE. The words' own block and the header's block each hold a pinned bit, and the
module may retire one more: the fetch of the words retires their pin, which leaves the header with one error, so that from then
on its code corrects it (R394). v is the byte at 0x100, in the destination that the header gives. -/
def staleHeader (v : Byte) : State :=
  { life := { sy := .ready }
    comp := some { role := 1, parts := 1, slices := [(0, { chMask := 1, shareSize := 1 })] }
    parts := [(0, { state := .running, queues := [(0, { enable := true, tail := 1 })] })]
    mem := { dram := [(0, 0x21), (1, 0x11), (8, 0x40), (64, 1), (68, 1), (128, 1), (130, 1), (137, 1), (256, v)]
             errors := [(0, [(16, 1)]), (4, [(16, 1), (32, 1)])], retireLimit := 1 } }

/-- The region of undefined memory, if any, that holds the byte at 0x100. -/
def undefinedAt256 (t : State) : Option Undef := t.mem.undef.find? (fun u => decide (u.start ≤ 256 ∧ 256 < u.start + u.len))

/-- The instruction issued, and the serial number of the undefined region that then holds the byte at 0x100. -/
def issueUndefines (s : State) : Option Nat :=
  match exec (.instructionIssue 0) s with
  | .next t => (undefinedAt256 t).map (·.serial)
  | _ => none

theorem rawByte_undefined {m : Mem} {a n : Nat}
    (h : (m.undef.find? (fun u => decide (u.start ≤ a ∧ a < u.start + u.len))).map (·.serial) = some n) :
    rawByte m a = Config.freeByte n a := by
  obtain ⟨u, found, rfl⟩ := Option.map_eq_some_iff.mp h
  unfold rawByte
  rw [found]

theorem staleHeader_alone (v : Byte) (k : Nat) (h : k ≠ 0) : mayIssue (staleHeader v) 0 k = false := by
  have hq : queueOf (partOf (staleHeader v) 0) k = {} := by
    show AMap.getD [(0, _)] k ({} : Queue) = {}
    simp [AMap.getD, AMap.find?, Ne.symm h]
  simp [mayIssue, hq]

/-- What `Obligations.IssueFollowsTheChecks` asks for of this issue, but for the frame on memory. -/
def staleHeaderMet (v : Byte) : Bool :=
  let s := staleHeader v
  ready s && composed s 0 && (partOf s 0).state == .running && (partOf s 0).attendInbox.isEmpty && mayIssue s 0 0 &&
    fetchNext s 0 0 == .whole mergeWords && (issueStatus s 0 mergeWords).isNone && (destRegions s 0 mergeWords).isEmpty

theorem staleHeader_met (v : Byte) (hv : v = 1 ∨ v = 2) : staleHeaderMet v = true ∧ issueUndefines (staleHeader v) = some 1 := by
  rcases hv with rfl | rfl <;> decide +kernel

theorem staleHeader_byte (v : Byte) (hv : v = 1 ∨ v = 2) : rawByte (staleHeader v).mem 256 = v := by
  rcases hv with rfl | rfl <;> decide +kernel

/-- If the statement held, the byte at 0x100 would be one and the same free byte whatever it was before. -/
theorem staleHeader_freeByte (h : Obligations.IssueFollowsTheChecks) (v : Byte) (hv : v = 1 ∨ v = 2) : Config.freeByte 1 256 = v := by
  obtain ⟨met, undefines⟩ := staleHeader_met v hv
  simp only [staleHeaderMet, Bool.and_eq_true, beq_iff_eq, List.isEmpty_iff, Option.isNone_iff_eq_none] at met
  obtain ⟨⟨⟨⟨⟨⟨⟨up, here⟩, running⟩, idle⟩, may⟩, fetched⟩, passes⟩, noDest⟩ := met
  obtain ⟨t, -, issued, -, -, -, -, -, -, same⟩ := (h.2.1 (staleHeader v) 0 0 up here running idle may (staleHeader_alone v)
    (fun _ hi => nomatch hi)).1 _ fetched (.inl rfl) (.inl (by decide))
  have undefined : (undefinedAt256 t).map (·.serial) = some 1 := by rw [issueUndefines, issued] at undefines; exact undefines
  have kept := (same (by rw [passes]; exact nofun)).2 noDest 256
  rw [rawByte_undefined undefined, staleHeader_byte v hv] at kept
  exact kept

/-- Refutes O12: a MERGE whose header the module cannot read when the checks look at it has no destination then, but the fetch
that issues it corrects the header's block, and the destination that the header gives becomes undefined at issue. -/
theorem not_issueFollowsTheChecks : ¬ Obligations.IssueFollowsTheChecks := by
  intro h
  exact absurd ((staleHeader_freeByte h 1 (.inl rfl)).symm.trans (staleHeader_freeByte h 2 (.inr rfl))) (by decide)

end Sys2Proof.Machine
end

section
/-! PROOFS. Sweeps of the index, the end of a re-spread, and the throttle (O34). -/

namespace Sys2Proof.Machine

open Sys2Proof.Safety

/-! ## Lists and tables -/

theorem nodup_eraseDups (l : List Nat) : l.eraseDups.Nodup := by
  induction hn : l.length using Nat.strongRecOn generalizing l with
  | ind n ih =>
    subst hn
    cases l with
    | nil => simp
    | cons x xs =>
      rw [List.eraseDups_cons, List.nodup_cons]
      exact ⟨by simp, ih _ (Nat.lt_succ_of_le (List.length_filter_le ..)) _ rfl⟩

/-- Two lists without repetition that hold the same elements have one length. -/
theorem length_eq_of_mem_iff {l m : List Nat} (hl : l.Nodup) (hm : m.Nodup) (h : ∀ x, x ∈ l ↔ x ∈ m) : l.length = m.length :=
  ((List.perm_ext_iff_of_nodup hl hm).mpr h).length_eq

theorem mem_keys_of_find?_ne {α : Type} {m : AMap α} {x : Nat} (h : AMap.find? m x ≠ none) : x ∈ AMap.keys m := by
  obtain ⟨v, hv⟩ := Option.ne_none_iff_exists'.mp h
  exact List.mem_map_of_mem (mem_of_find? hv)

theorem find?_mapValues {α : Type} (m : AMap α) (f : α → α) (x : Nat) :
    AMap.find? (m.map fun e => (e.1, f e.2)) x = (AMap.find? m x).map f := by
  induction m with
  | nil => rfl
  | cons e m ih =>
    by_cases h : e.1 = x <;> simp [AMap.find?, h, ih]

theorem find?_putPos_self {m : AMap IxEntry} (h : AMap.wf m = true) (x : Nat) (e : Option IxEntry) : AMap.find? (putPos m x e) x = e := by
  cases e with
  | none => exact AMap.find?_erase_self h x
  | some e => exact AMap.find?_insert_self ..

theorem find?_putPos_ne (m : AMap IxEntry) {x y : Nat} (e : Option IxEntry) (h : y ≠ x) :
    AMap.find? (putPos m x e) y = AMap.find? m y := by
  cases e with
  | none => exact AMap.find?_erase_ne _ h
  | some e => exact AMap.find?_insert_ne _ _ h

theorem wf_putPos {m : AMap IxEntry} (h : AMap.wf m = true) (x : Nat) (e : Option IxEntry) : AMap.wf (putPos m x e) = true := by
  cases e with
  | none => exact AMap.wf_erase h x
  | some e => exact AMap.wf_insert h x e

/-! ## Comparison with the shadow (R290) -/

/-- No shadow is lost, and the array is in its canonical form. -/
structure Comparable (s : State) : Prop where
  noErrors : s.mem.errors = []
  noneBad : s.index.shadowBad = []
  wf : AMap.wf s.index.array = true

/-- Does a position differ from its shadow. -/
def differs (s : State) (x : Nat) : Bool := AMap.find? s.index.array x != AMap.find? s.index.shadow x

/-- From s to t the positions of P have taken their shadow, and nothing but them and the count of repairs has changed. -/
structure Repairs (P : Nat → Prop) (s t : State) : Prop where
  rest : ∃ a n, t = { s with index := { s.index with array := a, repaired := n } }
  wf : AMap.wf t.index.array = true
  inside : ∀ x, P x → AMap.find? t.index.array x = AMap.find? s.index.shadow x
  outside : ∀ x, ¬ P x → AMap.find? t.index.array x = AMap.find? s.index.array x

section
variable {s t u : State} {P Q : Nat → Prop}

theorem Repairs.shadow (h : Repairs P s t) : t.index.shadow = s.index.shadow := by
  obtain ⟨a, n, rfl⟩ := h.rest
  rfl

theorem Repairs.now (h : Repairs P s t) : t.now = s.now := by
  obtain ⟨a, n, rfl⟩ := h.rest
  rfl

theorem Repairs.sweepPeriod (h : Repairs P s t) : t.index.sweepPeriod = s.index.sweepPeriod := by
  obtain ⟨a, n, rfl⟩ := h.rest
  rfl

theorem Repairs.comparable (h : Repairs P s t) (c : Comparable s) : Comparable t := by
  obtain ⟨⟨a, n, rfl⟩, wf, -, -⟩ := h
  exact ⟨c.noErrors, c.noneBad, wf⟩

theorem Repairs.refl (c : Comparable s) (h : ∀ x, ¬ P x) : Repairs P s s := ⟨⟨_, _, rfl⟩, c.wf, fun x hx => absurd hx (h x), fun _ _ => rfl⟩

theorem Repairs.trans (h : Repairs P s t) (k : Repairs Q t u) : Repairs (fun x => P x ∨ Q x) s u := by
  refine ⟨?_, k.wf, fun x hx => ?_, fun x hx => ?_⟩
  · obtain ⟨a, n, rfl⟩ := h.rest
    obtain ⟨b, m, rfl⟩ := k.rest
    exact ⟨b, m, rfl⟩
  · by_cases hq : Q x
    · rw [k.inside x hq, h.shadow]
    · rw [k.outside x hq, h.inside x (hx.resolve_right hq)]
  · rw [k.outside x (hx ∘ .inr), h.outside x (hx ∘ .inl)]

/-- Positions that do not differ may be counted among those repaired. -/
theorem Repairs.mono (h : Repairs P s t) (wider : ∀ x, P x → Q x) (same : ∀ x, Q x → ¬ P x → differs s x = false) : Repairs Q s t := by
  refine ⟨h.rest, h.wf, fun x hx => ?_, fun x hx => h.outside x (hx ∘ wider x)⟩
  by_cases hp : P x
  · exact h.inside x hp
  · rw [h.outside x hp]
    simpa [differs] using same x hx hp

theorem Repairs.differs (h : Repairs P s t) {x : Nat} (hx : ¬ P x) : differs t x = differs s x := by
  unfold Machine.differs
  rw [h.outside x hx, h.shadow]

theorem shadowLost_comparable (c : Comparable s) (x : Nat) : shadowLost s x = false := by
  simp [shadowLost, badWords, c.noErrors, c.noneBad]

theorem comparePos_repairs (c : Comparable s) (pos : Nat) : Repairs (· = pos) s (comparePos s pos).1 := by
  unfold comparePos
  rw [if_neg (by simp [shadowLost_comparable c])]
  dsimp only
  split
  · next same => exact ⟨⟨_, _, rfl⟩, c.wf, fun x hx => by rw [hx, same], fun _ _ => rfl⟩
  · exact ⟨⟨_, _, rfl⟩, wf_putPos c.wf .., fun x hx => by rw [hx]; exact find?_putPos_self c.wf .., fun x hx => find?_putPos_ne _ _ hx⟩

theorem comparePos_flag (c : Comparable s) (pos : Nat) : (comparePos s pos).2 = differs s pos := by
  unfold comparePos differs
  rw [if_neg (by simp [shadowLost_comparable c])]
  dsimp only
  split
  · next same => simp [same]
  · next other => simpa using other

/-! ## A run swept (R291) -/

/-- Positions compared one after another: they are repaired, and those that differed are counted. -/
theorem foldl_comparePos (l : List Nat) : ∀ {s : State} (n : Nat), Comparable s → l.Nodup →
    Repairs (· ∈ l) s (l.foldl (fun a x => ((comparePos a.1 x).1, a.2 + (if (comparePos a.1 x).2 then 1 else 0))) (s, n)).1 ∧
    (l.foldl (fun a x => ((comparePos a.1 x).1, a.2 + (if (comparePos a.1 x).2 then 1 else 0))) (s, n)).2
      = n + (l.filter (differs s)).length := by
  induction l with
  | nil => exact fun n c _ => ⟨.refl c fun _ => List.not_mem_nil, rfl⟩
  | cons x xs ih =>
    intro s n c hn
    obtain ⟨hx, hxs⟩ := List.nodup_cons.mp hn
    have first := comparePos_repairs c x
    obtain ⟨rest, count⟩ := ih (n + if (comparePos s x).2 then 1 else 0) (first.comparable c) hxs
    refine ⟨(first.trans rest).mono (fun y hy => List.mem_cons.mpr hy) fun y hy hn => absurd (List.mem_cons.mp hy) hn, ?_⟩
    have later : xs.filter (differs (comparePos s x).1) = xs.filter (differs s) :=
      List.filter_congr fun y hy => first.differs (ne_of_mem_of_not_mem hy hx)
    rw [List.foldl_cons, count, later, comparePos_flag c, List.filter_cons]
    split
    · simp
      omega
    · simp

theorem mem_comparable (c : Comparable s) {lo hi x : Nat} :
    x ∈ comparable s lo hi ↔ (x ∈ AMap.keys s.index.array ∨ x ∈ AMap.keys s.index.shadow) ∧ lo ≤ x ∧ x < hi := by
  simp [comparable, c.noErrors, c.noneBad, List.mem_eraseDups, or_and_right]

theorem nodup_comparable (c : Comparable s) (lo hi : Nat) : (comparable s lo hi).Nodup := by
  simp only [comparable, c.noErrors, List.isEmpty_nil, if_true, List.append_nil]
  exact nodup_eraseDups _

/-- A position whose array and shadow differ stands in one of the two tables. -/
theorem keys_of_differs {x : Nat} (h : differs s x = true) : x ∈ AMap.keys s.index.array ∨ x ∈ AMap.keys s.index.shadow := by
  by_cases ha : AMap.find? s.index.array x = none
  · refine .inr (mem_keys_of_find?_ne fun hs => ?_)
    simp [differs, ha, hs] at h
  · exact .inl (mem_keys_of_find?_ne ha)

theorem sweepRun_repairs (c : Comparable s) (lo hi : Nat) : Repairs (fun x => lo ≤ x ∧ x < hi) s (sweepRun s lo hi).1 := by
  refine (foldl_comparePos _ 0 c (nodup_comparable c lo hi)).1.mono (fun x hx => ((mem_comparable c).mp hx).2) fun x hx none_ => ?_
  by_contra h
  exact none_ ((mem_comparable c).mpr ⟨keys_of_differs (by simpa using h), hx⟩)

theorem sweepRun_count (c : Comparable s) (lo hi : Nat) :
    (sweepRun s lo hi).2 = ((List.range (hi - lo)).filter (fun k => differs s (lo + k))).length := by
  have counted : (sweepRun s lo hi).2 = ((comparable s lo hi).filter (differs s)).length :=
    (foldl_comparePos _ 0 c (nodup_comparable c lo hi)).2.trans (Nat.zero_add _)
  rw [counted, ← List.length_map (as := (List.range (hi - lo)).filter _) (f := (lo + ·))]
  refine length_eq_of_mem_iff ((nodup_comparable c lo hi).filter _)
    ((List.nodup_range.filter _).map fun a b h => Nat.add_left_cancel h) fun x => ?_
  simp only [List.mem_filter, List.mem_map, List.mem_range, mem_comparable c]
  constructor
  · rintro ⟨⟨-, hlo, hhi⟩, differ⟩
    refine ⟨x - lo, ⟨by omega, ?_⟩, by omega⟩
    rwa [Nat.add_sub_cancel' hlo]
  · rintro ⟨k, ⟨hk, differ⟩, rfl⟩
    exact ⟨⟨keys_of_differs differ, by omega, by omega⟩, differ⟩

theorem ixRun_repairs (h : Repairs P s t) (p : Nat) : ixRun t p = ixRun s p := by
  obtain ⟨a, n, rfl⟩ := h.rest
  rfl

/-- The runs of several partitions swept. -/
theorem foldl_sweepRun (ps : List Nat) : ∀ {s : State}, Comparable s →
    Repairs (fun x => ∃ p ∈ ps, (ixRun s p).1 ≤ x ∧ x < (ixRun s p).2) s
      (ps.foldl (fun s p => (sweepRun s (ixRun s p).1 (ixRun s p).2).1) s) := by
  induction ps with
  | nil => exact fun c => .refl c (by simp)
  | cons p ps ih =>
    intro s c
    have first := sweepRun_repairs c (ixRun s p).1 (ixRun s p).2
    refine (first.trans (ih (first.comparable c))).mono (fun x hx => ?_) fun x hx none_ => absurd ?_ none_
    · simpa only [ixRun_repairs first, List.exists_mem_cons_iff] using hx
    · simpa only [ixRun_repairs first, List.exists_mem_cons_iff] using hx

end

/-! ## The end of a re-spread (R286, R220) -/

theorem storeWord_parts (s : State) (a : Nat) : (storeWord s a).parts = s.parts := rfl

theorem rewriteWords_parts (s : State) (a n : Nat) : (rewriteWords s a n).parts = s.parts := by
  unfold rewriteWords
  induction wordsOf a n generalizing s with
  | nil => rfl
  | cons w ws ih => rw [List.foldl_cons, ih, storeWord_parts]

theorem writeShadow_parts (s : State) (x : Nat) (e : Option IxEntry) : (writeShadow s x e).parts = s.parts := by
  unfold writeShadow
  rw [rewriteWords_parts]

theorem withArray_parts (t : State) (m : AMap IxEntry) : ({ t with index := { t.index with array := m } } : State).parts = t.parts := rfl

theorem writePos_parts (s : State) (x : Nat) (e : Option IxEntry) : (writePos s x e).parts = s.parts :=
  (withArray_parts ..).trans (writeShadow_parts ..)

theorem foldl_writePos_parts (f : Nat → Option IxEntry) (xs : List Nat) (s : State) :
    (xs.foldl (fun s x => writePos s x (f x)) s).parts = s.parts := by
  induction xs generalizing s with
  | nil => rfl
  | cons x xs ih => exact (ih _).trans (writePos_parts ..)

theorem writeRun_parts (s : State) (r : RunCopy) (moves p : Nat) : (writeRun s r moves p).parts = s.parts := by
  unfold writeRun
  dsimp only
  split
  · exact foldl_writePos_parts ..
  · rw [countEv_parts]
    exact foldl_writePos_parts ..

/-- What the end of a re-spread makes of an instruction: a SWEEP that asked for it ends with the moves counted. -/
def respreadEnds (moves : Nat) (i : Issued) : Issued :=
  if i.status.isNone && opcodeOf i.words == 0x54 && i.started then { i with status := some St.ok, result := moves } else i

theorem respreadEnds_idx (moves : Nat) (i : Issued) : (respreadEnds moves i).idx = i.idx := by
  unfold respreadEnds
  split <;> rfl

/-- The instructions of every queue of a partition changed. -/
def mapIssued (f : Issued → Issued) (P : Part) : Part :=
  { P with queues := P.queues.map (fun e => (e.1, { e.2 with issued := e.2.issued.map f })) }

theorem queueOf_mapIssued (f : Issued → Issued) (P : Part) (q : Nat) :
    (queueOf (mapIssued f P) q).issued = (queueOf P q).issued.map f := by
  unfold queueOf mapIssued AMap.getD
  rw [find?_mapValues P.queues (fun x => { x with issued := x.issued.map f }) q]
  cases AMap.find? P.queues q <;> rfl

theorem issuedOf_mapIssued {f : Issued → Issued} (hf : ∀ i, (f i).idx = i.idx) (s : State) (w : IRef) :
    issuedOf (modPart s w.part (mapIssued f)) w = (issuedOf s w).map f := by
  unfold issuedOf
  rw [partOf_modPart_self, queueOf_mapIssued, List.find?_map]
  simp only [Function.comp_def, hf]

theorem respreadDone_ends {s : State} {p : Nat} (up : ready s = true) (spreading : (partOf s p).respread = true) :
    exec (.respreadDone p) s = .next (modPart
      (modPart (writeRun s (respreadRun (runCopy s p)).1 (respreadRun (runCopy s p)).2 p) p (fun P => { P with respread := false }))
      p (mapIssued (respreadEnds (respreadRun (runCopy s p)).2))) :=
  if_pos (by simp [up, spreading])

/-! ## SWEEP (R220) -/

section
variable {s : State} {w : IRef} {i : Issued}

theorem sweep_compares (h : Working s w 0x54 i) (plain : flagOf i.words 24 = false) : exec (.sweep w) s = .next
    (finish (sweepRun s (ixRun s w.part).1 (ixRun s w.part).2).1 w St.ok (sweepRun s (ixRun s w.part).1 (ixRun s w.part).2).2) :=
  (withInstr_working h).trans (congrArg _ (if_neg (by simp [plain])))

theorem sweep_respreads (h : Working s w 0x54 i) (spread : flagOf i.words 24 = true) (fresh : i.started = false) :
    exec (.sweep w) s = .next (modIssued (beginRespread s w.part) w (fun i => { i with started := true })) :=
  (withInstr_working h).trans (congrArg _ ((if_pos spread).trans (if_neg (by simp [fresh]))))

theorem issuedOf_repaired {P : Nat → Prop} {t : State} (h : Repairs P s t) : issuedOf t w = issuedOf s w := by
  obtain ⟨a, n, rfl⟩ := h.rest
  rfl

theorem mirrorSweep_compares (up : ready s = true) (on : s.index.sweepEnable = true)
    (due : s.index.sweepAt + 100000000 * max 1 s.index.sweepForce ≤ s.now) :
    exec .mirrorSweep s = .next (
      let s1 := ((List.range 16).filter (composed s)).foldl (fun s p => (sweepRun s (ixRun s p).1 (ixRun s p).2).1) s
      { s1 with index := { s1.index with sweepAt := s1.now, sweepForce := s1.index.sweepPeriod } }) :=
  if_pos (by simp [up, on, due])

end

theorem lt16_of_composed {s : State} {p : Nat} (h : composed s p = true) : p < 16 := by
  simp only [composed, Bool.and_eq_true, decide_eq_true_eq] at h
  exact h.1.2

/-! ## The throttle (R293) -/

theorem reachesStep_iff (c k : Nat) : decide (stepThreshold (k + 1) ≤ c) = true ↔ 95 + 5 * k ≤ c := by
  rw [decide_eq_true_eq, stepThreshold]
  omega

theorem throttleStep_hot {c : Nat} (step : Nat) (hot : 110 ≤ c) : throttleStep c step = 4 := by
  have up : (List.range 4).filter (fun k => decide (stepThreshold (k + 1) ≤ c)) = List.range 4 :=
    List.filter_eq_self.mpr fun k hk => (reachesStep_iff c k).mpr (by have := List.mem_range.mp hk; omega)
  have keep := List.length_filter_le (fun k => decide (stepThreshold (k + 1) < c + 3)) (List.range 4)
  simp only [throttleStep, up, List.length_range] at keep ⊢
  omega

theorem throttleStep_cool {c : Nat} (step : Nat) (cool : c ≤ 92) : throttleStep c step = 0 := by
  have up : (List.range 4).filter (fun k => decide (stepThreshold (k + 1) ≤ c)) = [] :=
    List.filter_eq_nil_iff.mpr fun k _ => by rw [reachesStep_iff]; omega
  have keep : (List.range 4).filter (fun k => decide (stepThreshold (k + 1) < c + 3)) = [] :=
    List.filter_eq_nil_iff.mpr fun k _ => by rw [decide_eq_true_eq, stepThreshold]; omega
  simp [throttleStep, up, keep]

theorem throttleStep_first {c : Nat} (low : 95 ≤ c) (high : c < 100) : throttleStep c 0 = 1 := by
  have up : (List.range 4).filter (fun k => decide (stepThreshold (k + 1) ≤ c)) = [0] := by
    have reach : ∀ k, decide (stepThreshold (k + 1) ≤ c) = decide (k = 0) := fun k => by
      rw [Bool.eq_iff_iff, reachesStep_iff, decide_eq_true_eq]
      omega
    simp only [reach]
    decide
  simp [throttleStep, up]

/-- Settles O34: a sweep copies the shadow of every position that differs, one after another. -/
theorem indexSweepsRepair : Obligations.IndexSweepsRepair := by
  refine fun s => ⟨fun w i h wfA wfS => ⟨fun plain noErrors noneBad => ?_, fun spread fresh => ?_, fun started spreading => ?_⟩,
    fun up on due wfA wfS noErrors noneBad => ?_, fun c => ?_⟩
  · obtain ⟨-, issued, open_, -⟩ := id h
    have c : Comparable s := ⟨noErrors, noneBad, wfA⟩
    have repairs := sweepRun_repairs c (ixRun s w.part).1 (ixRun s w.part).2
    refine ⟨_, sweep_compares h plain,
      ⟨_, issuedOf_finish_self _ _ _ ((issuedOf_repaired repairs).trans issued) open_, rfl, sweepRun_count c _ _, rfl⟩, ?_, fun x => ?_⟩
    · rw [finish_index, repairs.shadow]
    · rw [finish_index]
      split
      · next hx => exact repairs.inside x hx
      · next hx => exact repairs.outside x hx
  · obtain ⟨-, issued, open_, -⟩ := id h
    have kept : issuedOf (beginRespread s w.part) w = some i :=
      ((modPart_sameQueues s w.part (f := fun P => { P with respread := true }) fun _ => rfl).issuedOf w).trans issued
    refine ⟨_, sweep_respreads h spread fresh, ?_, ?_⟩
    · rw [issuedOf_modIssued_self (f := fun i => { i with started := true }) (fun _ => rfl) kept, changeIssued_open open_]
    · rw [modIssued_field (π := Part.respread) (fun _ _ => rfl), beginRespread, partOf_modPart_self]
  · obtain ⟨up, issued, open_, op⟩ := id h
    refine ⟨_, respreadDone_ends up spreading, ?_, ?_⟩
    · rw [issuedOf_mapIssued (respreadEnds_idx _), (modPart_sameQueues _ w.part (f := fun P => { P with respread := false }) fun _ => rfl).issuedOf w]
      have same : issuedOf (writeRun s (respreadRun (runCopy s w.part)).1 (respreadRun (runCopy s w.part)).2 w.part) w = issuedOf s w := by
        simp only [issuedOf, partOf, writeRun_parts]
      rw [same, issued]
      simp [respreadEnds, open_, op, started]
    · simp [mapIssued]
  · have c : Comparable s := ⟨noErrors, noneBad, wfA⟩
    have repairs := foldl_sweepRun ((List.range 16).filter (composed s)) c
    refine ⟨_, mirrorSweep_compares up on due, ?_, ?_, fun p x here lo hi => repairs.inside x ⟨p, ?_, lo, hi⟩⟩
    · exact repairs.now
    · exact repairs.sweepPeriod
    · exact List.mem_filter.mpr ⟨List.mem_range.mpr (lt16_of_composed here), here⟩
  · exact ⟨_, rfl, rfl, rfl, throttleStep_hot _, throttleStep_cool _, fun low high zero => by rw [← throttleStep_first low high, zero]⟩

end Sys2Proof.Machine
end

section
/-! PROOFS. The commit of the oldest instruction (O11). -/

namespace Sys2Proof.Machine

open Sys2Proof.Safety

/-! ## What the corrections of a read leave alone (R394) -/

/-- Every partition, every byte of device memory and every byte of host memory stand in t as in s. -/
structure Settled (s t : State) : Prop where
  parts : t.parts = s.parts
  dram  : t.mem.dram = s.mem.dram
  undef : t.mem.undef = s.mem.undef
  host  : t.host = s.host

theorem Settled.refl (s : State) : Settled s s := ⟨rfl, rfl, rfl, rfl⟩

/-- What writes none of them leaves them as they are. -/
theorem settled_of_eq {s t : State} (hp : t.parts = s.parts := by rfl) (hd : t.mem.dram = s.mem.dram := by rfl)
    (hu : t.mem.undef = s.mem.undef := by rfl) (hh : t.host = s.host := by rfl) : Settled s t := ⟨hp, hd, hu, hh⟩

theorem Settled.trans {s t u : State} (h : Settled s t) (k : Settled t u) : Settled s u :=
  ⟨k.parts.trans h.parts, k.dram.trans h.dram, k.undef.trans h.undef, k.host.trans h.host⟩

theorem Settled.after {s t u : State} (k : Settled t u) (h : Settled s t) : Settled s u := h.trans k

theorem Settled.partOf {s t : State} (h : Settled s t) (p : Nat) : partOf t p = partOf s p := by
  rw [Machine.partOf, Machine.partOf, h.parts]

theorem Settled.issuedOf {s t : State} (h : Settled s t) (w : IRef) : issuedOf t w = issuedOf s w := by
  rw [Machine.issuedOf, Machine.issuedOf, h.partOf]

theorem Settled.dramSame {s t : State} (h : Settled s t) : DramSame s t := fun a => by
  rw [rawByte, rawByte, h.dram, h.undef]

theorem Settled.hostSame {s t : State} (h : Settled s t) : HostSame s t := fun g a => by rw [h.host]

theorem foldl_settled {α : Type} {f : State → α → State} (h : ∀ s a, Settled s (f s a)) (l : List α) (s : State) :
    Settled s (l.foldl f s) := by
  induction l generalizing s with
  | nil => exact .refl s
  | cons a l ih => exact (h s a).trans (ih _)

theorem countEv_settled (s : State) (island code : Nat) (inst part : Option Nat) (n : Nat) :
    Settled s (countEv s island code inst part n) := settled_of_eq

theorem modChan_settled (s : State) (c : Nat) (f : Channel → Channel) : Settled s (modChan s c f) := settled_of_eq

theorem modDev_settled (s : State) (d : Nat) (f : DevErr → DevErr) : Settled s (modDev s d f) := settled_of_eq

theorem keepRetired_settled (s : State) (m : AMap Nat) : Settled s { s with flash := { s.flash with retired := m } } := settled_of_eq

theorem raisePfs_settled (s : State) (vector : Nat) : Settled s (raisePfs s vector) :=
  foldl_settled (f := fun s g => emitOut s (.msix g none vector)) (fun _ _ => settled_of_eq) _ _

theorem errToLog_settled (s : State) (r : ErrRec) : Settled s (errToLog s r).1 := by
  unfold errToLog
  dsimp only
  refine .trans ?_ ((raisePfs_settled ..).trans (countEv_settled ..))
  split
  · exact (countEv_settled ..).after settled_of_eq
  · exact settled_of_eq

theorem logService_settled (s : State) (etype : Nat) (body : List Byte) : Settled s (logService s etype body) := by
  unfold logService
  dsimp only
  split <;> exact settled_of_eq

theorem logSpare_settled (s : State) (kind unit index : Nat) : Settled s (logSpare s kind unit index) := logService_settled ..

theorem countCorrection_settled (s : State) (c pin : Nat) : Settled s (countCorrection s c pin) := by
  have counted : Settled s (countEv (modDev s (2 * c + pin / 16) fun e => { e with corrected := (e.corrected + 1) % 2 ^ 32, lastPin := pin })
      (Isl.mc (c / 4)) 0x022 (some (c % 4)) none) := (countEv_settled ..).after (modDev_settled ..)
  unfold countCorrection
  dsimp only
  split
  · exact (modChan_settled ..).after counted
  · split
    · exact (logSpare_settled ..).after ((keepRetired_settled ..).after ((modChan_settled ..).after ((modChan_settled ..).after counted)))
    · split
      · exact (modChan_settled ..).after counted
      · exact (errToLog_settled ..).after ((modChan_settled ..).after ((modChan_settled ..).after counted))

theorem countWord_settled (s : State) (a : Nat) (noise : WordError) : Settled s (countWord s a noise) := by
  unfold countWord
  split
  · exact foldl_settled (fun _ _ => countCorrection_settled ..) _ _
  · exact .refl s

theorem endRuns_settled (s : State) (a n : Nat) : Settled s (endRuns s a n) := by
  obtain ⟨cs, h⟩ := endRuns_channels s a n
  rw [h]
  exact settled_of_eq

theorem tookRead_settled (s : State) (a n : Nat) : Settled s (tookRead s a n) := by
  unfold tookRead
  split
  · exact endRuns_settled ..
  · exact (endRuns_settled ..).after (foldl_settled (fun _ _ => countWord_settled ..) _ _)

/-! ## What is settled before the commit (R62, R300, R394, R395) -/

/-- The reads of an instruction's operands counted. -/
def sourcesRead (s : State) (p : Nat) (i : Issued) : State :=
  (sourceRegions s p i.words).foldl (fun s r => tookRead s r.1 r.2) s

theorem sourcesRead_settled (s : State) (p : Nat) (i : Issued) : Settled s (sourcesRead s p i) :=
  foldl_settled (fun _ _ => tookRead_settled ..) _ _

theorem sourcesRead_good {s : State} (h : GoodMemory s) (p : Nat) (i : Issued) :
    ∃ cs, sourcesRead s p i = { s with mem := { s.mem with channels := cs } } := by
  unfold sourcesRead
  generalize sourceRegions s p i.words = rs
  induction rs generalizing s with
  | nil => exact ⟨_, rfl⟩
  | cons r rs ih =>
    obtain ⟨cs, hr⟩ := tookRead_channels h r.1 r.2
    obtain ⟨ds, hrs⟩ := ih (s := tookRead s r.1 r.2) (by rw [hr]; exact h)
    exact ⟨ds, by rw [List.foldl_cons, hrs, hr]⟩

section
variable {s : State} {w : IRef} {i : Issued}

/-- An instruction without effects has only its reads settled. -/
theorem settleHead_noEffects (issued : issuedOf s w = some i) (none_ : i.effects = []) : settleHead s w = sourcesRead s w.part i := by
  have kept := ((sourcesRead_settled s w.part i).issuedOf w).trans issued
  unfold settleHead
  simp only [issued]
  rw [sourcesRead] at kept
  simp only [kept, admitAgain, refuseSealed, refuseParts, partWords, none_, List.find?_nil, List.filterMap_nil, List.flatMap_nil]
  rfl

theorem commitStatus_noEffects (t : State) (none_ : i.effects = []) : commitStatus t i = i.status := by
  rw [commitStatus, none_]

end

/-! ## The oldest instruction (R197, R205) -/

section
variable {s : State} {p q st : Nat} {i : Issued} {rest : List Issued}

theorem issuedOf_head (head : (queueOf (partOf s p) q).issued = i :: rest) : issuedOf s ⟨p, q, i.idx⟩ = some i := by
  unfold issuedOf
  rw [head]
  simp

theorem instructionCommit_runs (up : ready s = true) (hq : q < 64) (head : (queueOf (partOf s p) q).issued = i :: rest)
    (ended : i.status = some st) : exec (.instructionCommit p q) s = .next (commitWith s p q i) := by
  show execInstructionCommit p q s = _
  rw [execInstructionCommit, if_neg (by simp [up]), if_neg (by omega), commitHead, head]
  simp [ended]

/-- An instruction that owes no record commits without one. -/
theorem commitWith_unrecorded (head : (queueOf (partOf s p) q).issued = i :: rest) (none_ : i.effects = []) (ended : i.status = some St.ok)
    (plain : cplOf i.words = false) : commitWith s p q i = commitNow (sourcesRead s p i) p q i St.ok false := by
  have issued := issuedOf_head head
  unfold commitWith
  rw [settleHead_noEffects issued none_]
  simp [(sourcesRead_settled s p i).issuedOf, issued, commitStatus_noEffects _ none_, ended, plain]

/-- An instruction that owes a record, where it can be written, commits with it. -/
theorem commitWith_recorded (head : (queueOf (partOf s p) q).issued = i :: rest) (none_ : i.effects = []) (ended : i.status = some st)
    (due : st ≠ St.ok ∨ cplOf i.words = true) (fresh : i.stuck = false) (room : cplFull (queueOf (partOf s p) q) = false)
    (writable : cplWritable s p (queueOf (partOf s p) q) = true) :
    commitWith s p q i = commitNow (sourcesRead s p i) p q i st true := by
  have issued := issuedOf_head head
  have owes : (st != St.ok || cplOf i.words) = true := by simpa using due
  unfold commitWith
  rw [settleHead_noEffects issued none_]
  simp [(sourcesRead_settled s p i).issuedOf, issued, commitStatus_noEffects _ none_, ended, owes, fresh, room, writable]

end

/-! ## The commit itself (R201) -/

/-- The completion record written, where one is. -/
def recorded (s : State) (p q : Nat) (i : Issued) (st : Nat) (record : Bool) : State :=
  if record then writeCpl s p q i st i.result false else s

/-- The queue halted with CAUSE 0x01, where the commit stops it. -/
def errorHalts (s : State) (p q : Nat) (stops : Bool) : State :=
  if stops then modQueue s p q (fun x => if x.cause = 0 then { x with cause := 0x01 } else x) else s

/-- Whether the error of an instruction halts its queue (R201). -/
def errorStops (x : Queue) (st : Nat) : Bool := st != St.ok && x.haltOnErr

/-- The commit's counts, and the end of what is handled for the instruction. -/
def commitCounted (s : State) (w : IRef) (st : Nat) : State :=
  let s1 := countEv s Isl.cc 0x060 none (some w.part)
  let s2 := if st != St.ok then countEv s1 Isl.cc 0x061 none (some w.part) else s1
  let s3 := if st = St.leadMiss then modPart s2 w.part (fun P => { P with strictFaults := (P.strictFaults + 1) % 2 ^ 32 }) else s2
  handled s3 (.instr w)

/-- The instruction out of its queue, its record written and the queue halted, where that is due. -/
def committed (s : State) (p q : Nat) (i : Issued) (st : Nat) (record stops : Bool) : State :=
  errorHalts (recorded (leaveQueue (endUndef s i st) p q i) p q i st record) p q stops

/-- From s to t nothing of memory and of the partitions changes but the count of strict faults of p. -/
structure Counted (p : Nat) (s t : State) : Prop where
  mem    : t.mem = s.mem
  host   : t.host = s.host
  others : ∀ k, k ≠ p → partOf t k = partOf s k
  part   : ∃ n, partOf t p = { partOf s p with strictFaults := n }

section
variable {s t : State} {p q st : Nat} {i : Issued}

theorem Counted.queueOf (h : Counted p s t) (q : Nat) : queueOf (partOf t p) q = queueOf (partOf s p) q := by
  obtain ⟨n, e⟩ := h.part
  rw [e]
  rfl

theorem Counted.semOf (h : Counted p s t) (k : Nat) : semOf t p k = semOf s p k := by
  obtain ⟨n, e⟩ := h.part
  rw [Machine.semOf, e]
  rfl

theorem Counted.state (h : Counted p s t) : (partOf t p).state = (partOf s p).state := by
  obtain ⟨n, e⟩ := h.part
  rw [e]

theorem countEv_counted (s : State) (p island code : Nat) (inst part : Option Nat) (n : Nat) : Counted p s (countEv s island code inst part n) :=
  ⟨rfl, rfl, fun _ _ => rfl, ⟨_, rfl⟩⟩

theorem handled_counted (s : State) (p : Nat) (c : ErrContext) : Counted p s (handled s c) := ⟨rfl, rfl, fun _ _ => rfl, ⟨_, rfl⟩⟩

theorem strictFault_counted (s : State) (p : Nat) :
    Counted p s (modPart s p (fun P => { P with strictFaults := (P.strictFaults + 1) % 2 ^ 32 })) :=
  ⟨rfl, rfl, fun _ hk => partOf_modPart_ne _ _ hk, ⟨_, partOf_modPart_self ..⟩⟩

theorem Counted.trans {u : State} (h : Counted p s t) (k : Counted p t u) : Counted p s u := by
  refine ⟨k.mem.trans h.mem, k.host.trans h.host, fun j hj => (k.others j hj).trans (h.others j hj), ?_⟩
  obtain ⟨n, e⟩ := h.part
  obtain ⟨m, f⟩ := k.part
  exact ⟨m, by rw [f, e]⟩

theorem commitCounted_counted (s : State) (w : IRef) (st : Nat) : Counted w.part s (commitCounted s w st) := by
  unfold commitCounted
  refine .trans ?_ (handled_counted ..)
  have first := countEv_counted s w.part Isl.cc 0x060 none (some w.part) 1
  by_cases bad : (st != St.ok) = true
  · have second := first.trans (countEv_counted _ w.part Isl.cc 0x061 none (some w.part) 1)
    simp only [bad, if_true]
    split
    · exact second.trans (strictFault_counted ..)
    · exact second
  · simp only [bad]
    split
    · exact first.trans (strictFault_counted ..)
    · exact first

theorem continueRestart_running (running : (partOf s p).state = .running) : continueRestart s p = s :=
  if_neg (by simp [running])

/-- A commit without effects and without a signal, of a queue that is not torn down. -/
theorem commitNow_quiet {record : Bool} (none_ : i.effects = []) (ended : i.status = some st)
    (quiet : (signalOf i.words != 0 && !errorStops (queueOf (partOf s p) q) st) = false) (running : (partOf s p).state = .running)
    (kept : (partOf (committed s p q i st record (errorStops (queueOf (partOf s p) q) st)) p).state = (partOf s p).state)
    (standing : (queueOf (partOf (committed s p q i st record (errorStops (queueOf (partOf s p) q) st)) p) q).cause ≠ 0x07) :
    Counted p (committed s p q i st record (errorStops (queueOf (partOf s p) q) st)) (commitNow s p q i st record) := by
  have counted := commitCounted_counted
    (committed s p q i st record (errorStops (queueOf (partOf s p) q) st)) ⟨p, q, i.idx⟩ st
  have now : commitNow s p q i st record =
      commitCounted (committed s p q i st record (errorStops (queueOf (partOf s p) q) st)) ⟨p, q, i.idx⟩ st := by
    rw [errorStops] at quiet
    unfold commitNow
    simp only [none_, ended, quiet, List.filter_nil, List.foldl_nil, Option.getD_some, if_true]
    refine (congrArg (continueRestart · p) (if_neg fun torn => standing ?_)).trans (continueRestart_running ?_)
    · exact (congrArg Queue.cause (counted.queueOf q)).symm.trans torn.1
    · exact counted.state.trans (kept.trans running)
  rw [now]
  exact counted

end

/-! ## The queue after the commit (R197, R206) -/

theorem endUndef_parts (s : State) (i : Issued) (st : Nat) : (endUndef s i st).parts = s.parts := by
  unfold endUndef
  split <;> rfl

theorem endUndef_none {s : State} {i : Issued} (st : Nat) (h : i.undefs = [] ∨ s.mem.undef = []) : endUndef s i st = s := by
  have kept : s.mem.undef.filter (fun u => !i.undefs.contains u.serial) = s.mem.undef := by
    rcases h with h | h <;> simp [h]
  unfold endUndef
  split
  · rfl
  · rw [kept]

/-- The queue without its oldest instruction. -/
def withoutHead (x : Queue) (i : Issued) : Queue :=
  { x with issued := x.issued.filter (fun j => j.idx != i.idx)
           head := if x.frozen.all (wordBefore i.idx) then (i.idx + wordsTaken i) % 2 ^ 32 else x.head }

/-- From s to t one queue of one partition takes the value x. -/
structure QueueTakes (p q : Nat) (x : Queue) (s t : State) : Prop where
  part   : partOf t p = setQueue (partOf s p) q x
  others : ∀ k, k ≠ p → partOf t k = partOf s k

section
variable {s t u : State} {p q : Nat} {x y : Queue}

theorem QueueTakes.queueOf (h : QueueTakes p q x s t) : queueOf (partOf t p) q = x := by
  rw [h.part, queueOf_setQueue_self]

theorem QueueTakes.state (h : QueueTakes p q x s t) : (partOf t p).state = (partOf s p).state := by
  rw [h.part]
  rfl

theorem QueueTakes.semOf (h : QueueTakes p q x s t) (k : Nat) : semOf t p k = semOf s p k := by
  rw [Machine.semOf, h.part]
  rfl

theorem modQueue_takes (s : State) (p q : Nat) (f : Queue → Queue) :
    QueueTakes p q (f (Machine.queueOf (Machine.partOf s p) q)) s (modQueue s p q f) :=
  ⟨partOf_modQueue .., fun _ hk => partOf_modQueue_ne _ _ hk⟩

theorem QueueTakes.alike (h : QueueTakes p q x s t) (k : Alike t u) : QueueTakes p q x s u :=
  ⟨(k.partOf p).trans h.part, fun j hj => (k.partOf j).trans (h.others j hj)⟩

theorem insert_insert_same {α : Type} (m : AMap α) (i : Nat) (v v' : α) : AMap.insert (AMap.insert m i v) i v' = AMap.insert m i v' := by
  induction m with
  | nil => simp [AMap.insert]
  | cons e m ih =>
    by_cases lt : i < e.1
    · simp [AMap.insert, lt]
    · by_cases eq : e.1 = i <;> simp [AMap.insert, lt, eq, ih]

theorem QueueTakes.modQueue (h : QueueTakes p q x s t) (f : Queue → Queue) : QueueTakes p q (f x) s (modQueue t p q f) := by
  obtain ⟨part, others⟩ := modQueue_takes t p q f
  refine ⟨?_, fun k hk => (others k hk).trans (h.others k hk)⟩
  rw [part, h.queueOf, h.part]
  simp only [setQueue, insert_insert_same]

theorem leaveQueue_takes (s : State) (p q : Nat) (i : Issued) (st : Nat) :
    QueueTakes p q (withoutHead (Machine.queueOf (Machine.partOf s p) q) i) s (leaveQueue (endUndef s i st) p q i) := by
  obtain ⟨part, others⟩ := modQueue_takes (endUndef s i st) p q (withoutHead · i)
  have same : ∀ k, Machine.partOf (endUndef s i st) k = Machine.partOf s k := fun k => by
    rw [Machine.partOf, Machine.partOf, endUndef_parts]
  exact ⟨by rw [← same]; exact part, fun k hk => (others k hk).trans (same k)⟩

theorem ringWrite_getD_alike (s : State) (p : Nat) (host : Bool) (g a : Nat) (bs : List Byte) :
    Alike s ((ringWrite s p host g a bs).getD s) := by
  cases h : ringWrite s p host g a bs with
  | none => exact .refl s
  | some t => exact ringWrite_alike h

/-- The queue after its completion record, where one is written. -/
def afterRecord (record : Bool) (x : Queue) : Queue := if record then { x with cprod := (x.cprod + 1) % 2 ^ 32 } else x

theorem QueueTakes.recorded (h : QueueTakes p q x s t) (i : Issued) (st : Nat) (record : Bool) :
    QueueTakes p q (afterRecord record x) s (recorded t p q i st record) := by
  cases record with
  | false => exact h
  | true => exact ((h.alike (ringWrite_getD_alike ..)).modQueue (fun x => { x with cprod := (x.cprod + 1) % 2 ^ 32 })).alike (raiseVf_alike ..)

/-- The queue after an error that halts it. -/
def afterError (stops : Bool) (x : Queue) : Queue := if stops then (if x.cause = 0 then { x with cause := 0x01 } else x) else x

theorem QueueTakes.errorHalts (h : QueueTakes p q x s t) (stops : Bool) :
    QueueTakes p q (afterError stops x) s (errorHalts t p q stops) := by
  cases stops with
  | false => exact h
  | true => exact h.modQueue (fun x => if x.cause = 0 then { x with cause := 0x01 } else x)

theorem committed_takes (s : State) (p q : Nat) (i : Issued) (st : Nat) (record stops : Bool) : QueueTakes p q
    (afterError stops (afterRecord record (withoutHead (Machine.queueOf (Machine.partOf s p) q) i))) s (committed s p q i st record stops) :=
  ((leaveQueue_takes s p q i st).recorded i st record).errorHalts stops

theorem afterError_cause (stops : Bool) (x : Queue) : (afterError stops x).cause = if stops ∧ x.cause = 0 then 0x01 else x.cause := by
  unfold afterError
  cases stops
  · simp
  · by_cases h : x.cause = 0 <;> simp [h]

theorem afterError_fields (stops : Bool) (x : Queue) : (afterError stops x).issued = x.issued ∧ (afterError stops x).cprod = x.cprod := by
  unfold afterError
  cases stops
  · exact ⟨rfl, rfl⟩
  · rw [if_pos rfl]
    split <;> exact ⟨rfl, rfl⟩

theorem afterRecord_fields (record : Bool) (x : Queue) :
    (afterRecord record x).issued = x.issued ∧ (afterRecord record x).cause = x.cause := by
  cases record <;> exact ⟨rfl, rfl⟩

end

/-! ## The commit of an instruction without effects -/

section
variable {s : State} {p q st : Nat} {i : Issued} {record : Bool}

theorem commitNow_counted (none_ : i.effects = []) (ended : i.status = some st)
    (quiet : signalOf i.words = 0 ∨ errorStops (queueOf (partOf s p) q) st = true) (running : (partOf s p).state = .running)
    (standing : (queueOf (partOf s p) q).cause ≠ 0x07) :
    Counted p (committed s p q i st record (errorStops (queueOf (partOf s p) q) st)) (commitNow s p q i st record) := by
  have takes := committed_takes s p q i st record (errorStops (queueOf (partOf s p) q) st)
  refine commitNow_quiet none_ ended ?_ running takes.state ?_
  · rcases quiet with none_ | stops
    · simp [none_]
    · simp [stops]
  · rw [takes.queueOf, afterError_cause, (afterRecord_fields ..).2]
    split
    · exact nofun
    · exact standing

theorem commitNow_queue (none_ : i.effects = []) (ended : i.status = some st)
    (quiet : signalOf i.words = 0 ∨ errorStops (queueOf (partOf s p) q) st = true) (running : (partOf s p).state = .running)
    (standing : (queueOf (partOf s p) q).cause ≠ 0x07) :
    queueOf (partOf (commitNow s p q i st record) p) q =
      afterError (errorStops (queueOf (partOf s p) q) st) (afterRecord record (withoutHead (queueOf (partOf s p) q) i)) ∧
    (∀ k, semOf (commitNow s p q i st record) p k = semOf s p k) ∧
    (∀ k, k ≠ p → partOf (commitNow s p q i st record) k = partOf s k) := by
  have counted := commitNow_counted (record := record) none_ ended quiet running standing
  have takes := committed_takes s p q i st record (errorStops (queueOf (partOf s p) q) st)
  exact ⟨(counted.queueOf q).trans takes.queueOf, fun k => (counted.semOf k).trans (takes.semOf k),
    fun k hk => (counted.others k hk).trans (takes.others k hk)⟩

theorem errorHalts_mem (s : State) (p q : Nat) (stops : Bool) : (errorHalts s p q stops).mem = s.mem := by
  cases stops <;> rfl

theorem errorHalts_host (s : State) (p q : Nat) (stops : Bool) : (errorHalts s p q stops).host = s.host := by
  cases stops <;> rfl

theorem raiseVf_mem (s : State) (p vector : Nat) : (raiseVf s p vector).mem = s.mem := by
  unfold raiseVf
  split <;> rfl

/-- Where no destination was undefined and no record is written, no memory changes. -/
theorem committed_unrecorded (s : State) (p q st : Nat) {i : Issued} (stops : Bool) (none_ : i.undefs = []) :
    (committed s p q i st false stops).mem = s.mem ∧ (committed s p q i st false stops).host = s.host := by
  rw [committed, errorHalts_mem, errorHalts_host, endUndef_none st (.inl none_)]
  exact ⟨rfl, rfl⟩

/-- A ring in the partition's range of a memory without errors takes the bytes. -/
theorem ringWrite_good {host : Bool} {g a : Nat} {bs : List Byte} (good : GoodMemory s) (dev : host = false)
    (within : inRange s p a bs.length = true) : ∃ cs, ringWrite s p host g a bs =
      some { s with mem := { s.mem with channels := cs, dram := memPutN s.mem.dram a bs } } := by
  obtain ⟨cs, write⟩ := devWrite_good good a bs
  exact ⟨cs, by simp [ringWrite, dev, within, write]⟩

theorem length_cplBytes (q : Nat) (x : Queue) (i : Issued) (st r : Nat) (sig : Bool) : (cplBytes q x i st r sig).length = 16 := by
  simp [cplBytes, length_toLe]

theorem writeCpl_mem (s : State) (p q : Nat) (i : Issued) (st r : Nat) (sig : Bool) : (writeCpl s p q i st r sig).mem =
    ((ringWrite s p (queueOf (partOf s p) q).cplHost (queueOf (partOf s p) q).hostFn (cplAddr (queueOf (partOf s p) q))
      (cplBytes q (queueOf (partOf s p) q) i st r sig)).getD s).mem := raiseVf_mem ..

theorem queueOf_leaveQueue (s : State) (p q : Nat) (i : Issued) :
    queueOf (partOf (leaveQueue s p q i) p) q = withoutHead (queueOf (partOf s p) q) i := queueOf_modQueue_self ..

/-- In memory without errors the record's bytes stand at the ring's next place. -/
theorem committed_stores (good : GoodMemory s) (stops : Bool) (dev : (queueOf (partOf s p) q).cplHost = false)
    (within : inRange s p (cplAddr (queueOf (partOf s p) q)) 16 = true) : Stored s (committed s p q i st true stops)
      (cplAddr (queueOf (partOf s p) q)) (cplBytes q (queueOf (partOf s p) q) i st i.result false) := by
  obtain ⟨cs, ring⟩ := ringWrite_good (s := leaveQueue s p q i) (p := p) (g := (queueOf (partOf s p) q).hostFn)
    (a := cplAddr (queueOf (partOf s p) q)) (bs := cplBytes q (queueOf (partOf s p) q) i st i.result false) good dev
    (by rw [length_cplBytes]; exact within)
  have mem : (committed s p q i st true stops).mem = { s.mem with
      channels := cs
      dram := memPutN s.mem.dram (cplAddr (queueOf (partOf s p) q)) (cplBytes q (queueOf (partOf s p) q) i st i.result false) } := by
    rw [committed, errorHalts_mem, endUndef_none st (.inr good.2.2.2), recorded, if_pos rfl, writeCpl_mem, queueOf_leaveQueue]
    exact congrArg (fun o : Option State => (o.getD (leaveQueue s p q i)).mem) ring
  refine stored_of_dram good ?_ (by rw [mem])
  rw [GoodMemory, mem]
  exact ⟨memWf_putN good.1 .., good.2⟩

end

/-! ## The obligation -/

theorem filter_idx_rest {i : Issued} {rest : List Issued} (fresh : ∀ j ∈ rest, j.idx ≠ i.idx) :
    (i :: rest).filter (fun j => j.idx != i.idx) = rest := by
  rw [List.filter_cons_of_neg (by simp)]
  exact List.filter_eq_self.mpr fun j hj => by simpa using fresh j hj

/-- A commit that owes no record. -/
theorem commit_unrecorded (s : State) (p q : Nat) (i : Issued) (rest : List Issued) (up : ready s = true) (hq : q < 64)
    (running : (partOf s p).state = .running) (standing : (queueOf (partOf s p) q).cause ≠ 0x07)
    (thawed : (queueOf (partOf s p) q).frozen = none) (head : (queueOf (partOf s p) q).issued = i :: rest)
    (fresh : ∀ j ∈ rest, j.idx ≠ i.idx) (ended : i.status = some St.ok) (none_ : i.effects = []) (defined_ : i.undefs = [])
    (plain : cplOf i.words = false) (silent : signalOf i.words = 0) :
    ∃ t, exec (.instructionCommit p q) s = .next t ∧
      queueOf (partOf t p) q = { queueOf (partOf s p) q with issued := rest, head := (i.idx + wordsTaken i) % 2 ^ 32 } ∧
      DramSame s t ∧ HostSame s t ∧ (∀ k, semOf t p k = semOf s p k) ∧ (∀ k, k ≠ p → partOf t k = partOf s k) := by
  have settled := sourcesRead_settled s p i
  have same := settled.partOf
  have counted := commitNow_counted (s := sourcesRead s p i) (q := q) (record := false) none_ ended (.inl silent)
    (by rw [same]; exact running) (by rw [same]; exact standing)
  obtain ⟨queue, sems, others⟩ := commitNow_queue (s := sourcesRead s p i) (q := q) (record := false) none_ ended (.inl silent)
    (by rw [same]; exact running) (by rw [same]; exact standing)
  obtain ⟨mem, host⟩ := committed_unrecorded (sourcesRead s p i) p q St.ok
    (errorStops (queueOf (partOf (sourcesRead s p i) p) q) St.ok) defined_
  refine ⟨_, (instructionCommit_runs up hq head ended).trans (congrArg _ (commitWith_unrecorded head none_ ended plain)), ?_,
    fun a => ?_, fun g a => ?_, fun k => ?_, fun k hk => (others k hk).trans (same k)⟩
  · rw [queue, same]
    simp [errorStops, afterError, afterRecord, withoutHead, thawed, head, filter_idx_rest fresh]
  · rw [counted.mem, mem, settled.dramSame]
  · rw [counted.host, host, settled.hostSame]
  · rw [sems, semOf, semOf, same]

/-- Settles O11: the reads are settled first, then the instruction leaves, its record is written, and an error halts the queue. -/
theorem commitsEndInstructions : Obligations.CommitsEndInstructions := by
  refine ⟨⟨commit_unrecorded, ?_⟩, ?_⟩
  · intro s p q st r i rest x up hq running standing head ended result none_ fresh due silent dev room within wf clean unarmed defined_
    subst result
    have good : GoodMemory s := ⟨wf, clean, unarmed, defined_⟩
    obtain ⟨cs, settled⟩ := sourcesRead_good good p i
    have writable : cplWritable s p x = true := by
      obtain ⟨ds, ring⟩ := ringWrite_good (g := x.hostFn) (bs := List.replicate 16 0) good dev within
      rw [cplWritable, ring]
      rfl
    refine ⟨_, (instructionCommit_runs up hq head ended).trans (congrArg _ (commitWith_recorded head none_ ended due fresh room writable)),
      ?_⟩
    rw [settled]
    have counted := commitNow_counted (s := { s with mem := { s.mem with channels := cs } }) (p := p) (q := q) (record := true) none_ ended
      (.inl silent) running standing
    obtain ⟨queue, -, -⟩ := commitNow_queue (s := { s with mem := { s.mem with channels := cs } }) (p := p) (q := q) (record := true)
      none_ ended (.inl silent) running standing
    obtain ⟨bytes, elsewhere⟩ := committed_stores (s := { s with mem := { s.mem with channels := cs } }) (p := p) (q := q) (i := i) (st := st)
      good (errorStops x st) dev within
    have length := length_cplBytes q x i st i.result false
    refine ⟨?_, fun a ha => ?_, ?_, ?_⟩
    · rw [counted.mem]
      exact length ▸ bytes
    · rw [counted.mem]
      exact elsewhere a (length.symm ▸ ha)
    · rw [queue, (afterError_fields ..).2]
      rfl
    · rw [queue, (afterError_fields ..).1, (afterRecord_fields ..).1]
      simp [withoutHead]
  · intro s p q st i rest x up hq running free stops head ended bad none_ fresh room writable
    have same := (sourcesRead_settled s p i).partOf
    have halts : errorStops (queueOf (partOf (sourcesRead s p i) p) q) st = true := by
      rw [same]
      simp [errorStops, bad, show (queueOf (partOf s p) q).haltOnErr = true from stops]
    obtain ⟨queue, sems, -⟩ := commitNow_queue (s := sourcesRead s p i) (q := q) (record := true) none_ ended (.inr halts)
      (by rw [same]; exact running) (by rw [same, show (queueOf (partOf s p) q).cause = 0 from free]; exact nofun)
    refine ⟨_, (instructionCommit_runs up hq head ended).trans
      (congrArg _ (commitWith_recorded head none_ ended (.inl bad) fresh room writable)), ?_, fun k => ?_⟩
    · rw [queue, halts, afterError_cause, (afterRecord_fields ..).2, same]
      exact if_pos ⟨rfl, free⟩
    · rw [sems, semOf, semOf, same]

end Sys2Proof.Machine
end

section
/-! PROOFS. Poltex transactions sent, or dead for want of a path; LOAD, STORE, ATOMIC and MSG (O37). -/

namespace Sys2Proof.Machine

open Sys2Proof.Safety

/-! ## Pieces of a transfer (R221, R341) -/

theorem length_memGetN (m : Memory) (a n : Nat) : (memGetN m a n).length = n := by simp [memGetN]

theorem length_rawBytes (m : Mem) (a n : Nat) : (rawBytes m a n).length = n := by
  unfold rawBytes
  split
  · exact length_memGetN ..
  · simp

theorem length_wordBytes {s : State} {a : Nat} {noise : WordError} {bs : List Byte} (h : wordBytes s a noise = some bs) :
    bs.length = 16 := by
  unfold wordBytes at h
  dsimp only at h
  split at h <;> cases h
  · exact length_rawBytes ..
  · simp [applyErrors, length_rawBytes]

theorem wordsOf_ne_nil (a : Nat) {n : Nat} (hn : 0 < n) : wordsOf a n ≠ [] := by
  simp [wordsOf, hn.ne']

/-- A read of some bytes through the code gives some. -/
theorem devRead_ne_nil {s : State} {a n : Nat} {bs : List Byte} (h : devRead s a n = some bs) (hn : 0 < n) : bs ≠ [] := by
  unfold devRead at h
  split at h
  · cases h
    exact List.ne_nil_of_length_pos (by rw [length_rawBytes]; exact hn)
  · dsimp only at h
    split at h
    · cases h
    · next whole =>
      cases h
      obtain ⟨w, ws, words⟩ := List.exists_cons_of_ne_nil (wordsOf_ne_nil a hn)
      rw [words] at whole ⊢
      obtain ⟨first, hw⟩ := Option.ne_none_iff_exists'.mp (fun none_ : wordBytes s w [] = none => whole (by simp [none_]))
      have := length_wordBytes hw
      have := Nat.mod_lt a (show 0 < 16 by omega)
      refine List.ne_nil_of_length_pos ?_
      simp [hw]
      omega

theorem linePieces_sum (wide : Bool) (fuel : Nat) : ∀ off n : Nat, n ≤ fuel → ((linePieces wide fuel off n).map Prod.snd).sum = n := by
  induction fuel with
  | zero => intro off n hn; simp [linePieces]; omega
  | succ fuel ih =>
    intro off n hn
    unfold linePieces
    split
    · simp [*]
    · dsimp only
      split
      · next wide256 =>
        simp only [Bool.and_eq_true, decide_eq_true_eq] at wide256
        rw [List.map_cons, List.sum_cons, ih _ _ (by omega)]
        omega
      · rw [List.map_cons, List.sum_cons, ih _ _ (by omega)]
        omega

theorem linePieces_ne_nil (wide : Bool) {fuel off n : Nat} (hf : 0 < fuel) (hn : 0 < n) : linePieces wide fuel off n ≠ [] := by
  obtain ⟨k, rfl⟩ := Nat.exists_eq_add_one_of_ne_zero hf.ne'
  rw [linePieces, if_neg hn.ne']
  exact List.cons_ne_nil _ _

theorem linePieces_any (wide : Bool) (off : Nat) (bs : List Byte) :
    (linePieces wide (bs.length + 1) off bs.length).any (fun _ => true) = !bs.isEmpty := by
  cases bs with
  | nil => rfl
  | cons b bs =>
    obtain ⟨e, es, some_⟩ := List.exists_cons_of_ne_nil (linePieces_ne_nil wide (off := off) (Nat.succ_pos (b :: bs).length)
      (Nat.succ_pos bs.length))
    rw [List.length_cons] at some_ ⊢
    rw [some_]
    rfl

theorem chunks_sum {α : Type} {n : Nat} (hn : 0 < n) (fuel : Nat) : ∀ l : List α, l.length ≤ n * fuel →
    (((chunks n fuel l).filter (fun c => !c.isEmpty)).map List.length).sum = l.length := by
  induction fuel with
  | zero => intro l hl; simp [List.eq_nil_of_length_eq_zero (Nat.le_zero.mp hl), chunks]
  | succ fuel ih =>
    intro l hl
    cases l with
    | nil => rfl
    | cons x l =>
      have first : ((x :: l).take n).isEmpty = false := by
        rw [List.isEmpty_eq_false_iff, ← List.length_pos_iff, List.length_take]
        simp
        exact hn
      rw [chunks, if_neg (by simp), List.filter_cons_of_pos (by simp [first]), List.map_cons, List.sum_cons,
        ih _ (by rw [List.length_drop]; rw [Nat.mul_succ] at hl; omega), List.length_take, List.length_drop]
      omega

theorem pieces_sum {α : Type} {n : Nat} (hn : 0 < n) (l : List α) : ((pieces n l).map List.length).sum = l.length :=
  chunks_sum hn _ l (by rw [Nat.mul_succ]; have := Nat.div_add_mod l.length n; have := Nat.mod_lt l.length hn; omega)

theorem zip_range_snd {α : Type} (l : List α) : ((List.range l.length).zip l).map Prod.snd = l :=
  List.map_snd_zip (by simp)

theorem pagePieces_sum (off : Nat) (bs : List Byte) : ((pagePieces off bs).map (fun e => e.2.length)).sum = bs.length := by
  have rest := pieces_sum (n := 4096) (by omega) (bs.drop (min bs.length (4096 - off % 4096)))
  have others : ∀ (f : Nat → Nat) (ps : List (List Byte)),
      (((List.range ps.length).zip ps).map (fun e => (f e.1, e.2))).map (fun e => e.2.length) = ps.map List.length := fun f ps => by
    have lengths : ((List.range ps.length).zip ps).map (List.length ∘ Prod.snd) = ps.map List.length := by
      rw [← List.map_map, zip_range_snd]
    rw [List.map_map, ← lengths]
    rfl
  unfold pagePieces
  dsimp only
  rw [List.map_append, List.sum_append, others (off + min bs.length (4096 - off % 4096) + 4096 * ·), rest, List.length_drop]
  split <;> simp
  omega

/-- A transfer of some bytes has a page with some. -/
theorem pagePieces_any (off : Nat) {bs : List Byte} (some_ : bs ≠ []) : (pagePieces off bs).any (fun e => !e.2.isEmpty) = true := by
  by_contra none_
  refine some_ (List.length_eq_zero_iff.mp ((pagePieces_sum off bs).symm.trans (List.sum_eq_zero fun n hn => ?_)))
  obtain ⟨e, he, rfl⟩ := List.mem_map.mp hn
  have empty := List.any_eq_false.mp (Bool.not_eq_true _ ▸ none_) e he
  simpa using empty

/-! ## Frames queued at a port (R308, R309, R319) -/

/-- From s to t only the ports of the shaper and the counters change. -/
def Shapes (s t : State) : Prop := ∃ x c, t = { s with shaper := x, counters := c }

theorem Shapes.refl (s : State) : Shapes s s := ⟨_, _, rfl⟩

theorem Shapes.trans {s t u : State} (h : Shapes s t) (k : Shapes t u) : Shapes s u := by
  obtain ⟨x, c, rfl⟩ := h
  obtain ⟨y, d, rfl⟩ := k
  exact ⟨y, d, rfl⟩

theorem foldl_shapes {α : Type} {f : State → α → State} (h : ∀ s a, Shapes s (f s a)) (l : List α) (s : State) : Shapes s (l.foldl f s) := by
  induction l generalizing s with
  | nil => exact .refl s
  | cons a l ih => exact (h s a).trans (ih _)

theorem modTs_shapes (s : State) (port : Nat) (f : TsPort → TsPort) : Shapes s (modTs s port f) := ⟨_, _, rfl⟩

theorem stampHead_shapes (s : State) (port : Nat) (l : Leaf) : Shapes s (stampHead s port l) := by
  unfold stampHead
  dsimp only
  split
  · exact .refl s
  · split
    · exact .refl s
    · exact modTs_shapes ..

theorem park_shapes (s : State) (port part tc : Nat) (k : Parked) : Shapes s (park s port part tc k) := by
  cases k <;> exact ⟨_, _, rfl⟩

theorem examine_shapes (s : State) (port part tc : Nat) : Shapes s (examine s port part tc) := by
  unfold examine
  dsimp only
  split
  · exact modTs_shapes ..
  · split
    · exact modTs_shapes ..
    · split <;> exact (modTs_shapes ..).trans (park_shapes ..)

theorem enqueueFrame_shapes (s : State) (port part tc : Nat) (req : Option Nat) (f : TxFrame) :
    Shapes s (enqueueFrame s port part tc req f) := by
  unfold enqueueFrame
  dsimp only
  split
  · exact (modTs_shapes ..).trans (stampHead_shapes ..)
  · exact ((modTs_shapes ..).trans (stampHead_shapes ..)).trans (examine_shapes ..)

/-! ## Transactions on a live path (R341, R342) -/

theorem planeOf_eq_none_iff {P a t src : Nat} : planeOf P a t src = none ↔ setBits 16 P = [] := by
  unfold planeOf
  dsimp only
  split
  · next h => simp [List.isEmpty_iff.mp h]
  · next h =>
    have some_ : setBits 16 P ≠ [] := fun e => h (by simp [e])
    have := Nat.mod_lt (planeHash a t src) (List.length_pos_iff.mpr some_)
    simp [some_, this]

/-- Transactions of w to a target have a path, and nothing holds them back. -/
structure Clear (w : IRef) (target : Nat) (s : State) : Prop where
  path : setBits 16 (pathSet s w.part target) ≠ []
  free : mustHold s w.part target = false
  held : s.poltex.held = []

/-- From s to t the instruction w has launched transactions for the pieces, in order; frames wait at the ports for them, and
nothing but ports, counters and streams has changed besides. -/
structure Launches (w : IRef) (op target : Nat) (ps : List (Nat × Nat)) (s t : State) : Prop where
  rest : ∃ n x c m, t = { s with poltex := { s.poltex with txns := t.poltex.txns, nextTag := n }, shaper := x, counters := c, streams := m }
  sent : Launched s t w op target ps
  path : ∀ x ∈ t.poltex.txns, x ∈ s.poltex.txns ∨ x.stale = false

section
variable {s t u : State} {w : IRef} {op target : Nat} {ps qs : List (Nat × Nat)}

theorem Clear.holds (c : Clear w target s) : holds s w.part target = false := by
  simp [Machine.holds, c.free, c.held]

theorem Launches.clear (h : Launches w op target ps s t) (c : Clear w target s) : Clear w target t := by
  obtain ⟨⟨n, x, d, m, e⟩, -, fresh⟩ := h
  refine ⟨?_, ?_, ?_⟩
  · rw [e]
    exact c.path
  · refine List.any_eq_false.mpr fun y hy => ?_
    rcases fresh y hy with old | new
    · exact List.any_eq_false.mp c.free y old
    · simp [new]
  · rw [e]
    exact c.held

theorem Launches.refl (s : State) : Launches w op target [] s s :=
  ⟨⟨_, _, _, _, rfl⟩, ⟨[], by simp, rfl, by simp⟩, fun _ hx => .inl hx⟩

theorem Launches.now (h : Launches w op target ps s t) : t.now = s.now := by
  obtain ⟨n, x, c, m, e⟩ := h.rest
  rw [e]

theorem Launches.deadBoundNs (h : Launches w op target ps s t) : deadBoundNs t = deadBoundNs s := by
  obtain ⟨n, x, c, m, e⟩ := h.rest
  rw [e]
  rfl

theorem Launches.trans (h : Launches w op target ps s t) (k : Launches w op target qs t u) : Launches w op target (ps ++ qs) s u := by
  refine ⟨?_, ?_, fun x hx => (k.path x hx).elim (h.path x) .inr⟩
  · obtain ⟨n, x, c, m, e⟩ := h.rest
    obtain ⟨n', x', c', m', e'⟩ := k.rest
    exact ⟨n', x', c', m', by rw [e', e]⟩
  · obtain ⟨ts, ht, hps, own⟩ := h.sent
    obtain ⟨us, hu, hqs, own'⟩ := k.sent
    refine ⟨ts ++ us, by rw [hu, ht, List.append_assoc], by rw [List.map_append, hps, hqs], fun x hx => ?_⟩
    rcases List.mem_append.mp hx with hx | hx
    · exact own x hx
    · rw [← h.now, ← h.deadBoundNs]
      exact own' x hx

/-- A transaction of an instruction to a target. -/
structure Owned (w : IRef) (op target : Nat) (x : Txn) : Prop where
  part   : x.part = w.part
  target : x.target = target
  op     : x.op = op
  w      : x.w = some w
  fresh  : x.stale = false

/-- A transaction as it is sent by a plane. -/
def sentTxn (s : State) (x : Txn) (n : Nat) : Txn :=
  { x with tag := s.poltex.nextTag % 65536, plane := n, paths := pathSet s x.part x.target, deadline := s.now + Machine.deadBoundNs s }

/-- The module with a transaction sent by a plane. -/
def withSent (s : State) (x : Txn) (n : Nat) : State :=
  { s with poltex := { s.poltex with txns := s.poltex.txns ++ [sentTxn s x n], nextTag := (s.poltex.nextTag % 65536 + 1) % 65536 } }

theorem launchTxn_shapes {x : Txn} {n : Nat} (frames : List TxFrame)
    (plane : planeOf (pathSet s x.part x.target) (if x.op = 4 then 0 else x.addr) x.target (me s).2 = some n) :
    Shapes (withSent s x n) (launchTxn s x frames) := by
  unfold launchTxn
  dsimp only
  rw [plane]
  exact foldl_shapes (fun s f => enqueueFrame_shapes s n ..) frames _

theorem launchTxn_launches {x : Txn} (own : Owned w op target x) (c : Clear w target s) (frames : List TxFrame) :
    Launches w op target [(x.addr, x.len)] s (launchTxn s x frames) := by
  obtain ⟨hpart, htarget, hop, hw, hfresh⟩ := own
  have path : setBits 16 (pathSet s x.part x.target) ≠ [] := by
    rw [hpart, htarget]
    exact c.path
  obtain ⟨n, plane⟩ := Option.ne_none_iff_exists'.mp (mt planeOf_eq_none_iff.mp path)
  obtain ⟨y, d, e⟩ := launchTxn_shapes frames plane
  rw [e]
  refine ⟨⟨_, _, _, _, rfl⟩, ⟨[sentTxn s x n], rfl, rfl, fun z hz => ?_⟩, fun z hz => ?_⟩
  · rw [List.mem_singleton.mp hz]
    exact ⟨hw, hop, htarget, hpart, rfl⟩
  · rcases List.mem_append.mp hz with old | new
    · exact .inl old
    · rw [List.mem_singleton.mp new]
      exact .inr hfresh

/-- Launches for a list of places, each of them with as many bytes as it has. -/
theorem foldl_launches {α : Type} {f : State → α → State} {size : α → Nat}
    (h : ∀ s a, Clear w target s → ∃ ps, (ps.map Prod.snd).sum = size a ∧ Launches w op target ps s (f s a)) (l : List α) :
    ∀ s, Clear w target s → ∃ ps, (ps.map Prod.snd).sum = (l.map size).sum ∧ Launches w op target ps s (l.foldl f s) := by
  induction l with
  | nil => exact fun s _ => ⟨[], rfl, .refl s⟩
  | cons a l ih =>
    intro s c
    obtain ⟨ps, hps, first⟩ := h s a c
    obtain ⟨qs, hqs, rest⟩ := ih _ (first.clear c)
    exact ⟨ps ++ qs, by simp [hps, hqs], first.trans rest⟩

/-- Launches of given pieces, one after another. -/
theorem foldl_launches_pieces {f : State → Nat × Nat → State}
    (h : ∀ s e, Clear w target s → Launches w op target [e] s (f s e)) (l : List (Nat × Nat)) :
    ∀ s, Clear w target s → Launches w op target l s (l.foldl f s) := by
  induction l with
  | nil => exact fun s _ => .refl s
  | cons e l ih => exact fun s c => (h s e c).trans (ih _ ((h s e c).clear c))

theorem sendTxn_launches {x : Txn} (own : Owned w op target x) (c : Clear w target s) (frames : List TxFrame) :
    Launches w op target [(x.addr, x.len)] s (sendTxn s x frames) := by
  have free := c.holds
  rw [sendTxn, own.part, own.target, free, if_neg (by simp)]
  exact launchTxn_launches own c frames

theorem launchPlain_launches {x : Txn} {c : Cargo} (own : Owned w op target x) (clear : Clear w target s) (len : x.len = c.bytes.length) :
    ∃ ps, (ps.map Prod.snd).sum = c.bytes.length ∧ (op = 4 → ps = [(x.addr, x.len)]) ∧ Launches w op target ps s (launchPlain s x c) := by
  unfold launchPlain
  split
  · exact ⟨_, by simp [len], fun _ => rfl, launchTxn_launches own clear _⟩
  · next plain =>
    refine ⟨_, linePieces_sum _ _ x.addr _ (Nat.le_succ _), fun e => absurd (own.op.trans e) plain,
      foldl_launches_pieces (fun s e clear => ?_) _ s clear⟩
    exact launchTxn_launches (x := { x with addr := e.1, len := e.2 }) ⟨own.part, own.target, own.op, own.w, own.fresh⟩ clear _

/-- The count of a stream's segment leaves ports, paths and transactions as they are. -/
theorem modStream_launches {x : Txn} {port n : Nat} {f : Stream → Stream} (own : Owned w op target x) (clear : Clear w target s)
    (frames : List TxFrame) : Launches w op target [(x.addr, x.len)] s (launchTxn (modStream s port n f) x frames) := by
  have counted : Launches w op target [] s (modStream s port n f) :=
    ⟨⟨_, _, _, _, rfl⟩, ⟨[], by simp [modStream], rfl, by simp⟩, fun _ hx => .inl hx⟩
  exact counted.trans (launchTxn_launches own (counted.clear clear) frames)

/-- A page of a STORE, or a MSG, is launched in its whole length, plain or as a segment. -/
theorem launchCargo_launches {x : Txn} {c : Cargo} (own : Owned w op target x) (clear : Clear w target s) (len : x.len = c.bytes.length) :
    ∃ ps, (ps.map Prod.snd).sum = c.bytes.length ∧ (op = 4 → ps = [(x.addr, x.len)]) ∧ Launches w op target ps s (launchCargo s x c) := by
  unfold launchCargo
  split
  · exact launchPlain_launches own clear len
  · next port n y claim =>
    dsimp only
    by_cases fits : (if x.op = 4 then c.bytes.length % nativeWidth y.native == 0 && !y.reduce
      else segmentable y x.addr c.bytes.length) = true
    · rw [if_pos fits]
      refine ⟨[(x.addr, c.bytes.length)], by simp, fun _ => by rw [len], ?_⟩
      exact modStream_launches (x := { x with len := c.bytes.length }) ⟨own.part, own.target, own.op, own.w, own.fresh⟩ clear _
    · rw [if_neg fits]
      exact launchPlain_launches own clear len

theorem sendCargo_launches {x : Txn} {c : Cargo} (own : Owned w op target x) (clear : Clear w target s) (len : x.len = c.bytes.length) :
    ∃ ps, (ps.map Prod.snd).sum = c.bytes.length ∧ (op = 4 → ps = [(x.addr, x.len)]) ∧ Launches w op target ps s (sendCargo s x c) := by
  have free := clear.holds
  rw [sendCargo, own.part, own.target, free, if_neg (by simp)]
  exact launchCargo_launches own clear len

/-- An instruction all of whose transactions are launched waits for their answers. -/
theorem allSent_launched {i : Issued} (h : Launches w op target ps s t) (some_ : ps ≠ []) (issued : issuedOf s w = some i)
    (open_ : i.status = none) :
    issuedOf (allSent t w) w = some { i with started := true, sentAt := s.now } ∧ Launched s (allSent t w) w op target ps ∧
      DramSame s (allSent t w) := by
  obtain ⟨ts, txns, pieces, own⟩ := h.sent
  have pending : fabricPending (modIssued t w (fun i => { i with started := true, sentAt := t.now })) w = true := by
    obtain ⟨x, ts', e⟩ := List.exists_cons_of_ne_nil (l := ts) fun none_ => some_ (by rw [← pieces, none_]; rfl)
    refine Bool.or_eq_true_iff.mpr (.inl (List.any_eq_true.mpr ⟨x, ?_, ?_⟩))
    · rw [modIssued_poltex, txns, e]
      simp
    · simp [(own x (by rw [e]; exact List.mem_cons_self ..)).1]
  rw [allSent, closeFabric, if_pos pending]
  refine ⟨?_, ⟨ts, txns, pieces, own⟩, ?_⟩
  · have same : issuedOf t w = some i := by
      obtain ⟨n, x, c, m, e⟩ := h.rest
      rw [e]
      exact issued
    rw [issuedOf_modIssued_self (f := fun i => { i with started := true, sentAt := t.now }) (fun _ => rfl) same, changeIssued_open open_, h.now]
  · obtain ⟨n, x, c, m, e⟩ := h.rest
    rw [e]
    exact fun _ => rfl

end

/-! ## The Fabric group (R221) -/

/-- A transaction of a Fabric instruction w with words ws, of a type, for some bytes at a remote offset. -/
def fabricTxn (w : IRef) (ws : List Nat) (op addr len : Nat) (dst : Nat := 0) : Txn :=
  { tag := 0, w := some w, op := op, target := fabricTarget ws, addr := addr, len := len, dst := dst, part := w.part, tc := classOf ws }

theorem fabricTxn_owned (w : IRef) (ws : List Nat) (op addr len dst : Nat) :
    Owned w op (fabricTarget ws) (fabricTxn w ws op addr len dst) := ⟨rfl, rfl, rfl, rfl, rfl⟩

/-- The pieces of a LOAD. -/
def loadPieces (ws : List Nat) : List (Nat × Nat) :=
  linePieces (flagOf ws 24) (bits (opA ws) 31 16) (addrB ws) (64 * bits (opA ws) 31 16)

/-- The transactions of a LOAD sent. -/
def loadSent (s : State) (w : IRef) (ws : List Nat) : State :=
  (loadPieces ws).foldl (fun s e =>
    let k : Packet := { ownPacket s w.part 1 (classOf ws) (fabricTarget ws) 0 e.1 e.2 [] with plen := e.2 }
    sendTxn s (fabricTxn w ws 1 e.1 e.2 (extAddr ws 1 + (e.1 - addrB ws))) [packetFrame k]) s

/-- A page of a STORE sent. -/
def pageSent (s : State) (w : IRef) (ws : List Nat) (e : Nat × List Byte) : State :=
  sendCargo s (fabricTxn w ws 2 e.1 e.2.length)
    { range := some (addrB ws, 64 * bits (opA ws) 31 16), wide := flagOf ws 24, bytes := e.2 }

/-- The pages of a STORE of bytes sent. -/
def storeSent (s : State) (w : IRef) (ws : List Nat) (bs : List Byte) : State :=
  (pagePieces (addrB ws) bs).foldl (fun s e => pageSent s w ws e) s

/-- The transaction of an ATOMIC sent. -/
def atomicSent (s : State) (w : IRef) (ws : List Nat) : State :=
  let k : Packet := { ownPacket s w.part 3 (classOf ws) (fabricTarget ws) 0 (addrB ws) 16 (toLe 8 (extLo ws 1) ++ toLe 8 (extHi ws 1))
                      with aop := bits (opA ws) 13 10, aw := bit (opA ws) 14 }
  sendTxn s (fabricTxn w ws 3 (addrB ws) (if bit (opA ws) 14 then 8 else 4)) [packetFrame k]

/-- The message of a MSG sent. -/
def msgSent (s : State) (w : IRef) (ws : List Nat) (bs : List Byte) : State :=
  sendCargo s (fabricTxn w ws 4 (bits (extLo ws 1) 31 0) (bits (opA ws) 31 16)) { tag := bits (extLo ws 1) 31 0, bytes := bs }

section
variable {s : State} {w : IRef} {i : Issued} {bs : List Byte}

theorem load_sends (h : Working s w 0x60 i) (fresh : i.started = false) : exec (.load w) s = .next (allSent (loadSent s w i.words) w) :=
  (withInstr_working h).trans (congrArg _ (if_neg (by simp [fresh])))

theorem store_sends (h : Working s w 0x61 i) (fresh : i.started = false)
    (read : devRead s (extAddr i.words 1) (64 * bits (opA i.words) 31 16) = some bs) :
    exec (.store w) s = .next (allSent (storeSent s w i.words bs) w) := by
  refine (withInstr_working h).trans (congrArg _ ((if_neg (by simp [fresh])).trans ?_))
  dsimp only
  rw [read]
  rfl

theorem atomic_sends (h : Working s w 0x62 i) (fresh : i.started = false) :
    exec (.atomic w) s = .next (allSent (atomicSent s w i.words) w) :=
  (withInstr_working h).trans (congrArg _ (if_neg (by simp [fresh])))

theorem msg_sends (h : Working s w 0x63 i) (fresh : i.started = false)
    (read : devRead s (addrB i.words) (bits (opA i.words) 31 16) = some bs) :
    exec (.msg w) s = .next (allSent (msgSent s w i.words bs) w) := by
  refine (withInstr_working h).trans (congrArg _ ((if_neg (by simp [fresh])).trans ?_))
  dsimp only
  rw [read]
  rfl

variable {ws : List Nat} (c : Clear w (fabricTarget ws) s)
include c

theorem loadSent_launches : Launches w 1 (fabricTarget ws) (loadPieces ws) s (loadSent s w ws) :=
  foldl_launches_pieces (fun _ _ c => sendTxn_launches (fabricTxn_owned ..) c _) _ s c

theorem storeSent_launches (bs : List Byte) :
    ∃ ps, (ps.map Prod.snd).sum = bs.length ∧ Launches w 2 (fabricTarget ws) ps s (storeSent s w ws bs) := by
  obtain ⟨ps, sum, launched⟩ := foldl_launches (size := fun e : Nat × List Byte => e.2.length) (f := fun s e => pageSent s w ws e)
    (fun s e c => by
      obtain ⟨ps, sum, -, launched⟩ := sendCargo_launches (fabricTxn_owned w ws 2 e.1 e.2.length 0) c rfl
        (c := { range := some (addrB ws, 64 * bits (opA ws) 31 16), wide := flagOf ws 24, bytes := e.2 })
      exact ⟨ps, sum, launched⟩) (pagePieces (addrB ws) bs) s c
  exact ⟨ps, sum.trans (pagePieces_sum ..), launched⟩

theorem atomicSent_launches :
    Launches w 3 (fabricTarget ws) [(addrB ws, if bit (opA ws) 14 then 8 else 4)] s (atomicSent s w ws) :=
  sendTxn_launches (fabricTxn_owned ..) c _

theorem msgSent_launches (len : bs.length = bits (opA ws) 31 16) :
    Launches w 4 (fabricTarget ws) [(bits (extLo ws 1) 31 0, bits (opA ws) 31 16)] s (msgSent s w ws bs) := by
  obtain ⟨ps, -, one, launched⟩ := sendCargo_launches (c := { tag := bits (extLo ws 1) 31 0, bytes := bs })
    (fabricTxn_owned w ws 4 (bits (extLo ws 1) 31 0) (bits (opA ws) 31 16) 0) c len.symm
  rw [one rfl] at launched
  exact launched

end

/-! ## Error records leave transactions and paths alone (R479 to R485) -/

/-- From s to t only memories, counters, flash, outputs, free values and partitions change. -/
def Logs (s t : State) : Prop := ∃ m h c f o n ps,
  t = { s with mem := m, host := h, counters := c, flash := f, out := o, freeCtr := n, parts := ps }

theorem Logs.refl (s : State) : Logs s s := ⟨_, _, _, _, _, _, _, rfl⟩

theorem Logs.trans {s t u : State} (h : Logs s t) (k : Logs t u) : Logs s u := by
  obtain ⟨m, h, c, f, o, n, ps, rfl⟩ := h
  obtain ⟨m', h', c', f', o', n', ps', rfl⟩ := k
  exact ⟨m', h', c', f', o', n', ps', rfl⟩

theorem Logs.after {s t u : State} (k : Logs t u) (h : Logs s t) : Logs s u := h.trans k

theorem Logs.poltex {s t : State} (h : Logs s t) : t.poltex = s.poltex := by
  obtain ⟨m, h, c, f, o, n, ps, rfl⟩ := h
  rfl

theorem Logs.comp {s t : State} (h : Logs s t) : t.comp = s.comp := by
  obtain ⟨m, h, c, f, o, n, ps, rfl⟩ := h
  rfl

theorem foldl_logs {α : Type} {f : State → α → State} (h : ∀ s a, Logs s (f s a)) (l : List α) (s : State) : Logs s (l.foldl f s) := by
  induction l generalizing s with
  | nil => exact .refl s
  | cons a l ih => exact (h s a).trans (ih _)

theorem emitOut_logs (s : State) (o : Out) : Logs s (emitOut s o) := ⟨_, _, _, _, _, _, _, rfl⟩

theorem countEv_logs (s : State) (island code : Nat) (inst part : Option Nat) (n : Nat) : Logs s (countEv s island code inst part n) :=
  ⟨_, _, _, _, _, _, _, rfl⟩

theorem modChan_logs (s : State) (c : Nat) (f : Channel → Channel) : Logs s (modChan s c f) := ⟨_, _, _, _, _, _, _, rfl⟩

theorem modDev_logs (s : State) (d : Nat) (f : DevErr → DevErr) : Logs s (modDev s d f) := ⟨_, _, _, _, _, _, _, rfl⟩

theorem modErrq_logs (s : State) (p : Nat) (f : ErrQueue → ErrQueue) : Logs s (modErrq s p f) := ⟨_, _, _, _, _, _, _, rfl⟩

theorem withCounters_logs (s : State) (c : Counters) : Logs s { s with counters := c } := ⟨_, _, _, _, _, _, _, rfl⟩

theorem withMem_logs (s : State) (m : Mem) : Logs s { s with mem := m } := ⟨_, _, _, _, _, _, _, rfl⟩

theorem withFlash_logs (s : State) (f : Flash) : Logs s { s with flash := f } := ⟨_, _, _, _, _, _, _, rfl⟩

theorem draw_logs (s : State) : Logs s (draw s) := ⟨_, _, _, _, _, _, _, rfl⟩

theorem raisePfs_logs (s : State) (vector : Nat) : Logs s (raisePfs s vector) := foldl_logs (fun _ _ => emitOut_logs ..) _ _

theorem raiseVf_logs (s : State) (p vector : Nat) : Logs s (raiseVf s p vector) := by
  unfold raiseVf
  split
  · exact emitOut_logs ..
  · exact .refl s

theorem errToLog_logs (s : State) (r : ErrRec) : Logs s (errToLog s r).1 := by
  unfold errToLog
  dsimp only
  refine .trans ?_ ((raisePfs_logs ..).trans (countEv_logs ..))
  split
  · exact (withCounters_logs ..).trans (countEv_logs ..)
  · exact withCounters_logs ..

theorem logService_logs (s : State) (etype : Nat) (body : List Byte) : Logs s (logService s etype body) := by
  unfold logService
  dsimp only
  split
  · exact withFlash_logs ..
  · exact (withFlash_logs ..).trans (draw_logs _)

theorem countCorrection_logs (s : State) (c pin : Nat) : Logs s (countCorrection s c pin) := by
  have counted : Logs s (countEv (modDev s (2 * c + pin / 16) fun e => { e with corrected := (e.corrected + 1) % 2 ^ 32, lastPin := pin })
      (Isl.mc (c / 4)) 0x022 (some (c % 4)) none) := (modDev_logs ..).trans (countEv_logs ..)
  unfold countCorrection
  dsimp only
  split
  · exact counted.trans (modChan_logs ..)
  · split
    · exact (logService_logs ..).after ((withFlash_logs ..).after ((modChan_logs ..).after ((modChan_logs ..).after counted)))
    · split
      · exact counted.trans (modChan_logs ..)
      · exact (errToLog_logs ..).after ((modChan_logs ..).after ((modChan_logs ..).after counted))

theorem countWord_logs (s : State) (a : Nat) (noise : WordError) : Logs s (countWord s a noise) := by
  unfold countWord
  split
  · exact foldl_logs (fun _ _ => countCorrection_logs ..) _ _
  · exact .refl s

theorem endRuns_logs (s : State) (a n : Nat) : Logs s (endRuns s a n) := by
  obtain ⟨cs, h⟩ := endRuns_channels s a n
  rw [h]
  exact withMem_logs ..

theorem writeWord_logs (s : State) (w off : Nat) (bs : List Byte) : Logs s (writeWord s w off bs).1 := by
  unfold writeWord
  split
  · exact ⟨_, _, _, _, _, _, _, rfl⟩
  · split
    · exact .refl s
    · exact (countWord_logs ..).trans (withMem_logs ..)

theorem devWriteWords_logs (a : Nat) (bs : List Byte) (ws : List Nat) : ∀ s : State, Logs s (devWriteWords s a bs ws).1 := by
  induction ws with
  | nil => exact Logs.refl
  | cons w ws ih => exact fun s => (writeWord_logs ..).trans (ih _)

theorem devWrite_logs (s : State) (a : Nat) (bs : List Byte) : Logs s (devWrite s a bs).1 := by
  unfold devWrite
  dsimp only
  split
  · exact (endRuns_logs s a bs.length).trans (withMem_logs ..)
  · exact (endRuns_logs ..).trans (devWriteWords_logs ..)

theorem ringWrite_logs {s t : State} {p g a : Nat} {host : Bool} {bs : List Byte} (h : ringWrite s p host g a bs = some t) : Logs s t := by
  unfold ringWrite at h
  split at h
  · obtain ⟨u, hu, rfl⟩ := Option.map_eq_some_iff.mp h
    unfold hostWrite at hu
    split at hu
    · cases hu
      exact ⟨_, _, _, _, _, _, _, rfl⟩
    · cases hu
  · split at h
    · dsimp only at h
      split at h <;> cases h
      exact devWrite_logs s a bs
    · cases h

theorem errToPart_logs (s : State) (p : Nat) (r : ErrRec) : Logs s (errToPart s p r).1 := by
  have lost : Logs s (errLost s p) := (modErrq_logs ..).trans (countEv_logs ..)
  unfold errToPart
  dsimp only
  split
  · exact lost
  · split
    · exact lost
    · next h => exact (countEv_logs ..).after ((raiseVf_logs ..).after ((modErrq_logs ..).after (ringWrite_logs h)))

theorem errWrite_logs (s : State) (toPart : Option Nat) (toLog : Bool) (r : ErrRec) : Logs s (errWrite s toPart toLog r).1 := by
  unfold errWrite
  cases toPart <;> cases toLog
  · exact .refl s
  · exact errToLog_logs ..
  · exact errToPart_logs ..
  · exact (errToPart_logs ..).trans (errToLog_logs ..)

theorem report_logs (s : State) (ctx : Option ErrContext) (toPart : Option Nat) (toLog : Bool) (r : ErrRec) :
    Logs s (report s ctx toPart toLog r) := by
  unfold report
  dsimp only
  split
  · exact errWrite_logs ..
  · split
    · split
      · split
        · exact (modErrq_logs ..).trans (countEv_logs ..)
        · exact .refl s
      · exact (errWrite_logs ..).trans (withCounters_logs ..)
    · exact (errWrite_logs ..).trans (withCounters_logs ..)

/-! ## Transactions without a path (R342, R350) -/

/-- The instruction w, with no path to its target, has no transaction and is not started; where it has lost one (hit), it will
end with DEAD_TARGET. -/
structure AtDeadEnd (w : IRef) (target : Nat) (hit : Bool) (s : State) : Prop where
  path    : setBits 16 (pathSet s w.part target) = []
  free    : mustHold s w.part target = false
  held    : s.poltex.held = []
  clear   : fabricPending s w = false
  waiting : ∃ j, issuedOf s w = some j ∧ j.started = false ∧ j.status = none ∧ (hit = true → j.aux = St.deadTarget)

/-- A transaction of an instruction alone, that carries no device message and no copy. -/
structure Lone (w : IRef) (target : Nat) (x : Txn) : Prop where
  part   : x.part = w.part
  target : x.target = target
  w      : x.w = some w
  dev    : x.dev = none
  copy   : x.copy = none

section
variable {s t : State} {w : IRef} {target : Nat} {hit : Bool}

theorem AtDeadEnd.weaken (h : AtDeadEnd w target true s) (hit : Bool) : AtDeadEnd w target hit s := by
  obtain ⟨j, issued, fresh, open_, lost⟩ := h.waiting
  exact ⟨h.path, h.free, h.held, h.clear, ⟨j, issued, fresh, open_, fun _ => lost rfl⟩⟩

theorem AtDeadEnd.holds (h : AtDeadEnd w target hit s) : holds s w.part target = false := by
  simp [Machine.holds, h.free, h.held]

/-- What the end of its last transaction makes of an instruction (R221). -/
def fabricEnd (i : Issued) : Issued :=
  if i.started && i.status.isNone then
    { i with status := some i.aux
             result := if i.aux ≠ 0 ∧ opcodeOf i.words ≠ 0x60 ∧ opcodeOf i.words ≠ 0x62 then 0 else i.result }
  else i

theorem fabricEnd_idx (i : Issued) : (fabricEnd i).idx = i.idx := by
  unfold fabricEnd
  split <;> rfl

theorem closeFabric_clear (clear : fabricPending s w = false) : closeFabric s w = modIssued s w fabricEnd :=
  if_neg (by simp [clear])

theorem issuedOf_closeFabric {j : Issued} (clear : fabricPending s w = false) (issued : issuedOf s w = some j) :
    issuedOf (closeFabric s w) w = some (changeIssued s.now fabricEnd j) := by
  rw [closeFabric_clear clear, issuedOf_modIssued_self fabricEnd_idx issued]

/-- What a dead transaction gives its instruction (R350). -/
def deadFor (x : Txn) (i : Issued) : Issued :=
  { i with
    aux := St.deadTarget
    result := if x.op = 1 then i.result + x.len / 64 else if x.op = 3 then 2 ^ (8 * x.len) - 1 else i.result
    effects := if x.op = 1 then i.effects ++ [.devWrite x.dst (List.replicate x.len 0xFF)] else i.effects }

/-- The module without a transaction. -/
def withoutTxn (s : State) (x : Txn) : State :=
  { s with poltex := { s.poltex with txns := s.poltex.txns.filter (fun y => y.tag != x.tag) } }

/-- A transaction declared dead, counted and recorded, and not yet answered in the target's place. -/
def txnLost (s : State) (x : Txn) : State :=
  report (countEv (withoutTxn s x) Isl.np 0x035 (some x.plane) (some x.part)) (x.w.map ErrContext.instr) (some x.part) false
    { code := 0x05, part := x.part, queue := x.w.map (·.queue), status := St.deadTarget, address := x.addr, detail := x.target }

theorem txnLost_logs (s : State) (x : Txn) : Logs (withoutTxn s x) (txnLost s x) := (countEv_logs ..).trans (report_logs ..)

theorem txnLost_sameQueues (s : State) (x : Txn) : SameQueues s (txnLost s x) := sameQueues_of_ledger (report_ledger ..)

theorem deadTxn_lone {x : Txn} (lone : Lone w target x) (s : State) :
    deadTxn s x = closeFabric (modIssued (txnLost s x) w (deadFor x)) w := by
  unfold deadTxn
  simp only [lone.dev, lone.copy, noteCopy, deadForInstr, lone.w]
  simp only [txnLost, lone.w]
  rfl

theorem deadTxn_atDeadEnd {x : Txn} (lone : Lone w target x) (h : AtDeadEnd w target hit s) : AtDeadEnd w target true (deadTxn s x) := by
  have run := deadTxn_lone lone s
  have logs := txnLost_logs s x
  have same := txnLost_sameQueues s x
  generalize txnLost s x = u at run logs same
  obtain ⟨j, issued, fresh, open_, -⟩ := h.waiting
  have noted : issuedOf (modIssued u w (deadFor x)) w = some (deadFor x j) := by
    rw [issuedOf_modIssued_self (f := deadFor x) (fun _ => rfl) ((same.issuedOf w).trans issued), changeIssued_open open_]
  have fewer : ∀ f : Txn → Bool, s.poltex.txns.any f = false → u.poltex.txns.any f = false := fun f none_ => by
    rw [logs.poltex]
    exact List.any_eq_false.mpr fun y hy => List.any_eq_false.mp none_ y (List.mem_of_mem_filter hy)
  have held : u.poltex.held = [] := by rw [logs.poltex]; exact h.held
  have clear : fabricPending (modIssued u w (deadFor x)) w = false := by
    have none_ := h.clear
    simp only [fabricPending, Bool.or_eq_false_iff, modIssued_poltex] at none_ ⊢
    exact ⟨fewer _ none_.1, by rw [held]; rfl⟩
  have kept : deadTxn s x = modIssued (modIssued u w (deadFor x)) w fabricEnd := run.trans (closeFabric_clear clear)
  refine ⟨?_, ?_, ?_, ?_, ⟨deadFor x j, ?_, fresh, open_, fun _ => rfl⟩⟩
  · have path : pathSet (deadTxn s x) w.part target = pathSet s w.part target := by
      rw [kept]
      simp only [pathSet, livePlanes, heardMask, nearPort, nearPorts, sliceOf, compOf, modIssued_poltex, modIssued_comp, logs.poltex, logs.comp, withoutTxn]
    rw [path, h.path]
  · rw [kept]
    exact fewer _ h.free
  · rw [kept]
    exact held
  · rw [kept]
    exact clear
  · rw [run, issuedOf_closeFabric clear noted, changeIssued_open] <;> simp [fabricEnd, deadFor, fresh, open_]

/-- A transaction without a path is declared dead; it has no tag of those that are sent. -/
def untagged (x : Txn) : Txn := { x with tag := 0x10000 }

theorem launchTxn_noPath {x : Txn} (noPath : setBits 16 (pathSet s x.part x.target) = []) (frames : List TxFrame) :
    launchTxn s x frames = deadTxn s (untagged x) := by
  unfold launchTxn
  dsimp only
  rw [planeOf_eq_none_iff.mpr noPath]
  rfl

theorem launchTxn_atDeadEnd {x : Txn} (lone : Lone w target x) (h : AtDeadEnd w target hit s) (frames : List TxFrame) :
    AtDeadEnd w target true (launchTxn s x frames) := by
  rw [launchTxn_noPath (by rw [lone.part, lone.target]; exact h.path)]
  exact deadTxn_atDeadEnd ⟨lone.part, lone.target, lone.w, lone.dev, lone.copy⟩ h

/-- A list of transactions, or of pages, sent to a dead end: the instruction is hit where one of them has something to send. -/
theorem foldl_atDeadEnd {α : Type} {f : State → α → State} {sends : α → Bool}
    (step : ∀ s hit a, AtDeadEnd w target hit s → AtDeadEnd w target (hit || sends a) (f s a)) (l : List α) :
    ∀ s hit, AtDeadEnd w target hit s → AtDeadEnd w target (hit || l.any sends) (l.foldl f s) := by
  induction l with
  | nil => intro s hit h; simpa using h
  | cons a l ih =>
    intro s hit h
    rw [List.any_cons, ← Bool.or_assoc]
    exact ih _ _ (step s hit a h)

theorem sendTxn_atDeadEnd {x : Txn} (lone : Lone w target x) (h : AtDeadEnd w target hit s) (frames : List TxFrame) :
    AtDeadEnd w target true (sendTxn s x frames) := by
  have free := h.holds
  rw [sendTxn, lone.part, lone.target, free, if_neg (by simp)]
  exact launchTxn_atDeadEnd lone h frames

theorem sendCargo_atDeadEnd {x : Txn} {c : Cargo} (lone : Lone w target x) (h : AtDeadEnd w target hit s) :
    AtDeadEnd w target (hit || (x.op == 4 || !c.bytes.isEmpty)) (sendCargo s x c) := by
  have free := h.holds
  have noClaim : nearClaim s w.part x.tc target (if x.op = 4 then 0 else x.addr) c.range = none := by
    rw [nearClaim, planeOf_eq_none_iff.mpr h.path]
  rw [sendCargo, lone.part, lone.target, free, if_neg (by simp), launchCargo, lone.part, lone.target, noClaim]
  dsimp only
  unfold launchPlain
  split
  · next message => exact (launchTxn_atDeadEnd lone h _).weaken _
  · next page =>
    have sent := foldl_atDeadEnd (sends := fun _ => true) (fun s hit e h => (launchTxn_atDeadEnd (x := { x with addr := e.1, len := e.2 })
      ⟨lone.part, lone.target, lone.w, lone.dev, lone.copy⟩ h
      [packetFrame (ownPacket s x.part 2 x.tc x.target 0 e.1 e.2 ((c.bytes.drop (e.1 - x.addr)).take e.2))]).weaken _)
      (linePieces c.wide (c.bytes.length + 1) x.addr c.bytes.length) s hit h
    have some_ : (x.op == 4 || !c.bytes.isEmpty) = (linePieces c.wide (c.bytes.length + 1) x.addr c.bytes.length).any (fun _ => true) := by
      rw [linePieces_any]
      simp [page]
    rw [some_]
    exact sent

/-- An instruction that has lost a transaction and has none left ends with DEAD_TARGET. -/
theorem allSent_dead (h : AtDeadEnd w target true s) : ∃ j, issuedOf (allSent s w) w = some j ∧ j.status = some St.deadTarget := by
  obtain ⟨j, issued, fresh, open_, lost⟩ := h.waiting
  have started : issuedOf (modIssued s w (fun i => { i with started := true, sentAt := s.now })) w =
      some { j with started := true, sentAt := s.now } := by
    rw [issuedOf_modIssued_self (f := fun i => { i with started := true, sentAt := s.now }) (fun _ => rfl) issued, changeIssued_open open_]
  refine ⟨_, issuedOf_closeFabric h.clear started, ?_⟩
  simp [changeIssued, fabricEnd, open_, lost rfl]

end

section
variable {s : State} {w : IRef} {ws : List Nat} {hit : Bool}

theorem fabricTxn_lone (w : IRef) (ws : List Nat) (op addr len dst : Nat) : Lone w (fabricTarget ws) (fabricTxn w ws op addr len dst) :=
  ⟨rfl, rfl, rfl, rfl, rfl⟩

variable (h : AtDeadEnd w (fabricTarget ws) hit s)
include h

theorem loadSent_atDeadEnd (lines : 1 ≤ bits (opA ws) 31 16) : AtDeadEnd w (fabricTarget ws) true (loadSent s w ws) := by
  have sent := foldl_atDeadEnd (sends := fun _ => true)
    (fun s hit e h => (sendTxn_atDeadEnd (fabricTxn_lone w ws 1 e.1 e.2 (extAddr ws 1 + (e.1 - addrB ws))) h
      [packetFrame { ownPacket s w.part 1 (classOf ws) (fabricTarget ws) 0 e.1 e.2 [] with plen := e.2 }]).weaken _)
    (loadPieces ws) s hit h
  obtain ⟨e, es, some_⟩ := List.exists_cons_of_ne_nil (linePieces_ne_nil (flagOf ws 24) (off := addrB ws) (n := 64 * bits (opA ws) 31 16) lines
    (by omega))
  have any : (hit || (loadPieces ws).any (fun _ => true)) = true := by
    rw [loadPieces, some_]
    simp
  rw [any] at sent
  exact sent

theorem storeSent_atDeadEnd {bs : List Byte} (some_ : bs ≠ []) : AtDeadEnd w (fabricTarget ws) true (storeSent s w ws bs) := by
  have sent := foldl_atDeadEnd (f := fun s e => pageSent s w ws e) (sends := fun e => !e.2.isEmpty)
    (fun s hit e h => sendCargo_atDeadEnd (fabricTxn_lone w ws 2 e.1 e.2.length 0) h
      (c := { range := some (addrB ws, 64 * bits (opA ws) 31 16), wide := flagOf ws 24, bytes := e.2 })) (pagePieces (addrB ws) bs) s hit h
  rw [pagePieces_any _ some_, Bool.or_true] at sent
  exact sent

theorem atomicSent_atDeadEnd : AtDeadEnd w (fabricTarget ws) true (atomicSent s w ws) := sendTxn_atDeadEnd (fabricTxn_lone ..) h _

theorem msgSent_atDeadEnd (bs : List Byte) : AtDeadEnd w (fabricTarget ws) true (msgSent s w ws bs) := by
  have sent := sendCargo_atDeadEnd (c := { tag := bits (extLo ws 1) 31 0, bytes := bs })
    (fabricTxn_lone w ws 4 (bits (extLo ws 1) 31 0) (bits (opA ws) 31 16) 0) h
  have message : (hit || ((fabricTxn w ws 4 (bits (extLo ws 1) 31 0) (bits (opA ws) 31 16)).op == 4 || !bs.isEmpty)) = true := by
    simp [fabricTxn]
  rw [message] at sent
  exact sent

end

/-- Settles O37: on a live path every piece is launched and the instruction waits; without a path its transactions are dead. -/
theorem fabricInstructionsLaunch : Obligations.FabricInstructionsLaunch := by
  intro s w i fresh ws target free held lines started dead
  refine ⟨fun path => ?_, fun noPath clear => ?_⟩
  · have c : Clear w (fabricTarget ws) s := ⟨path, free, held⟩
    refine ⟨fun h some_ => ⟨_, load_sends h fresh, ?_⟩, fun bs h some_ read len => ?_, fun h => ⟨_, atomic_sends h fresh, ?_⟩,
      fun bs h read len => ⟨_, msg_sends h fresh read, ?_⟩⟩
    · obtain ⟨-, issued, open_, -⟩ := id h
      exact allSent_launched (loadSent_launches c) (linePieces_ne_nil _ some_ (by omega)) issued open_
    · obtain ⟨-, issued, open_, -⟩ := id h
      obtain ⟨ps, sum, launched⟩ := storeSent_launches c bs
      obtain ⟨waits, sent, same⟩ := allSent_launched launched (fun none_ => by rw [none_, List.map_nil, List.sum_nil] at sum; omega) issued open_
      exact ⟨_, ps, store_sends h fresh read, waits, sent, sum.trans len, same⟩
    · obtain ⟨-, issued, open_, -⟩ := id h
      exact allSent_launched (atomicSent_launches c) (List.cons_ne_nil _ _) issued open_
    · obtain ⟨-, issued, open_, -⟩ := id h
      exact allSent_launched (msgSent_launches c len) (List.cons_ne_nil _ _) issued open_
  · have start : ∀ {op}, Working s w op i → AtDeadEnd w (fabricTarget ws) false s := fun ⟨_, issued, open_, _⟩ =>
      ⟨noPath, free, held, clear, ⟨i, issued, fresh, open_, nofun⟩⟩
    refine ⟨fun h some_ => ?_, fun h some_ read => ?_, fun h => ?_, fun h read => ?_⟩
    · obtain ⟨j, ends, status⟩ := allSent_dead (loadSent_atDeadEnd (start h) some_)
      exact ⟨_, j, load_sends h fresh, ends, status⟩
    · obtain ⟨bs, read⟩ := Option.isSome_iff_exists.mp read
      obtain ⟨j, ends, status⟩ := allSent_dead (storeSent_atDeadEnd (start h) (devRead_ne_nil read (by omega)))
      exact ⟨_, j, store_sends h fresh read, ends, status⟩
    · obtain ⟨j, ends, status⟩ := allSent_dead (atomicSent_atDeadEnd (start h))
      exact ⟨_, j, atomic_sends h fresh, ends, status⟩
    · obtain ⟨bs, read⟩ := Option.isSome_iff_exists.mp read
      obtain ⟨j, ends, status⟩ := allSent_dead (msgSent_atDeadEnd (start h) bs)
      exact ⟨_, j, msg_sends h fresh read, ends, status⟩

end Sys2Proof.Machine
end

section
/-! PROOFS. Register writes of the partition page: fields, and what the queue, semaphore, bucket and meter registers do (O49). -/

namespace Sys2Proof.Machine

open Sys2Proof.Safety

/-! ## Fields of a word (R3) -/

theorem testBit_bits (w hi lo j : Nat) : (bits w hi lo).testBit j = (decide (j < hi + 1 - lo) && w.testBit (lo + j)) := by
  rw [bits, Nat.testBit_mod_two_pow, Nat.testBit_div_two_pow, Nat.add_comm lo]

/-- A word with a field replaced: what is above the field, the field, and what is below. -/
theorem putBits_eq {hi lo : Nat} (h : lo ≤ hi) (w x : Nat) : putBits w hi lo x =
    2 ^ lo * (2 ^ (hi + 1 - lo) * (w / 2 ^ (hi + 1)) + x % 2 ^ (hi + 1 - lo)) + w % 2 ^ lo := by
  have low := Nat.div_add_mod w (2 ^ lo)
  have high := Nat.div_add_mod (w / 2 ^ lo) (2 ^ (hi + 1 - lo))
  rw [Nat.div_div_eq_div_mul, ← pow_add, show lo + (hi + 1 - lo) = hi + 1 by omega] at high
  have cut : w = 2 ^ lo * (2 ^ (hi + 1 - lo) * (w / 2 ^ (hi + 1))) + bits w hi lo * 2 ^ lo + w % 2 ^ lo := by
    rw [bits, Nat.mul_comm _ (2 ^ lo), ← Nat.mul_add, high, low]
  have rest : w - bits w hi lo * 2 ^ lo = 2 ^ lo * (2 ^ (hi + 1 - lo) * (w / 2 ^ (hi + 1))) + w % 2 ^ lo := by omega
  rw [putBits, rest, Nat.mul_add, Nat.mul_comm (x % _)]
  omega

theorem testBit_putBits {hi lo : Nat} (h : lo ≤ hi) (w x i : Nat) :
    (putBits w hi lo x).testBit i = if lo ≤ i ∧ i ≤ hi then x.testBit (i - lo) else w.testBit i := by
  rw [putBits_eq h, Nat.testBit_two_pow_mul_add _ (Nat.mod_lt _ (Nat.two_pow_pos lo))]
  split
  · next below => rw [if_neg (by omega), Nat.testBit_mod_two_pow]; simp [below]
  · next above =>
    rw [Nat.testBit_two_pow_mul_add _ (Nat.mod_lt _ (Nat.two_pow_pos _))]
    split
    · next inside => rw [if_pos (by omega), Nat.testBit_mod_two_pow]; simp [inside]
    · next past =>
      rw [if_neg (by omega), Nat.testBit_div_two_pow]
      congr 1
      omega

theorem bits_putBits_self {hi lo : Nat} (h : lo ≤ hi) (w x : Nat) : bits (putBits w hi lo x) hi lo = x % 2 ^ (hi + 1 - lo) := by
  refine Nat.eq_of_testBit_eq fun i => ?_
  rw [testBit_bits, testBit_putBits h, Nat.testBit_mod_two_pow]
  by_cases inside : i < hi + 1 - lo
  · rw [if_pos (by omega), Nat.add_sub_cancel_left]
  · simp [inside]

/-- A field that shares no bit with the one replaced stays. -/
theorem bits_putBits_other {hi lo hi' lo' : Nat} (h : lo ≤ hi) (apart : hi' < lo ∨ hi < lo') (w x : Nat) :
    bits (putBits w hi lo x) hi' lo' = bits w hi' lo' := by
  refine Nat.eq_of_testBit_eq fun i => ?_
  rw [testBit_bits, testBit_bits, testBit_putBits h]
  by_cases inside : i < hi' + 1 - lo'
  · rw [if_neg (by omega)]
  · simp [inside]

theorem bits_mod (w : Nat) {n hi : Nat} (lo : Nat) (h : hi < n) : bits (w % 2 ^ n) hi lo = bits w hi lo := by
  refine Nat.eq_of_testBit_eq fun i => ?_
  rw [testBit_bits, testBit_bits, Nat.testBit_mod_two_pow]
  by_cases inside : i < hi + 1 - lo
  · simp [show lo + i < n by omega]
  · simp [inside]

theorem bits_low (w n : Nat) : bits w n 0 = w % 2 ^ (n + 1) := by
  rw [bits, pow_zero, Nat.div_one, Nat.sub_zero]

theorem bit_eq_bits (w i : Nat) : bit w i = (bits w i i == 1) := by
  rw [bit, bits, Nat.add_sub_cancel_left, pow_one]

/-- A write's effect on one field of a register (R10). -/
def fieldStep (v a : Nat) (f : Field) : Nat :=
  match f.kind with
  | .trigger => a
  | .w1c => if bit v f.lo then putBits a f.hi f.lo 0 else a
  | _ => putBits a f.hi f.lo (bits v f.hi f.lo)

/-- Fields of a register: none empty, no two with a common bit. -/
abbrev FieldsApart (fs : List Field) : Prop := (∀ f ∈ fs, f.lo ≤ f.hi) ∧ fs.Pairwise (fun f g => f.hi < g.lo ∨ g.hi < f.lo)

/-- What a field holds after a write that covers it, from what is written and what it held (R10). -/
def fieldAfter (f : Field) (v b : Nat) : Nat :=
  match f.kind with
  | .trigger => b
  | .w1c => if bit v f.lo then 0 else b
  | _ => bits v f.hi f.lo

theorem bits_fieldStep_other {f : Field} (h : f.lo ≤ f.hi) {hi lo : Nat} (apart : hi < f.lo ∨ f.hi < lo) (v a : Nat) :
    bits (fieldStep v a f) hi lo = bits a hi lo := by
  unfold fieldStep
  split
  · rfl
  · split
    · exact bits_putBits_other h apart ..
    · rfl
  · exact bits_putBits_other h apart ..

theorem bits_fieldStep_self {f : Field} (h : f.lo ≤ f.hi) (v a : Nat) :
    bits (fieldStep v a f) f.hi f.lo = fieldAfter f v (bits a f.hi f.lo) := by
  unfold fieldStep fieldAfter
  split
  · rfl
  · split
    · rw [bits_putBits_self h, Nat.zero_mod]
    · rfl
  · rw [bits_putBits_self h, bits, Nat.mod_mod]

/-- Bits that no field of a write holds stay. -/
theorem bits_foldl_other {hi lo : Nat} (v : Nat) (fs : List Field) : ∀ a, (∀ f ∈ fs, f.lo ≤ f.hi ∧ (hi < f.lo ∨ f.hi < lo)) →
    bits (fs.foldl (fieldStep v) a) hi lo = bits a hi lo := by
  induction fs with
  | nil => exact fun _ _ => rfl
  | cons f fs ih =>
    intro a h
    obtain ⟨first, rest⟩ := List.forall_mem_cons.mp h
    exact (ih _ rest).trans (bits_fieldStep_other first.1 first.2 v a)

theorem bits_foldl_field {f : Field} (v : Nat) (fs : List Field) : ∀ a, f ∈ fs → FieldsApart fs →
    bits (fs.foldl (fieldStep v) a) f.hi f.lo = fieldAfter f v (bits a f.hi f.lo) := by
  induction fs with
  | nil => exact fun _ h => absurd h List.not_mem_nil
  | cons g fs ih =>
    rintro a hf ⟨whole, apart⟩
    obtain ⟨hg, rest⟩ := List.forall_mem_cons.mp whole
    obtain ⟨first, others⟩ := List.pairwise_cons.mp apart
    rcases List.mem_cons.mp hf with rfl | hf
    · exact (bits_foldl_other v fs _ fun h hh => ⟨rest h hh, first h hh⟩).trans (bits_fieldStep_self hg v a)
    · rw [List.foldl_cons, ih _ hf ⟨rest, others⟩, bits_fieldStep_other hg (first f hf).symm]

theorem pfields_apart (r : PReg) : FieldsApart (pfields r) := by
  cases r <;> simp only [pfields] <;> decide

theorem writtenBy_value (fs : List Field) (old whi wlo v : Nat) :
    (writtenBy fs old whi wlo v).value = (writtenBy fs old whi wlo v).covered.foldl (fieldStep v) old := rfl

theorem bits_written_field {r : PReg} {f : Field} (hf : f ∈ pfields r) {whi wlo : Nat} (inside : wlo ≤ f.lo ∧ f.hi ≤ whi)
    (old v : Nat) : bits (writtenBy (pfields r) old whi wlo v).value f.hi f.lo = fieldAfter f v (bits old f.hi f.lo) := by
  obtain ⟨whole, apart⟩ := pfields_apart r
  rw [writtenBy_value]
  exact bits_foldl_field v _ old (List.mem_filter.mpr ⟨hf, decide_eq_true inside⟩)
    ⟨fun g hg => whole g (List.mem_of_mem_filter hg), apart.filter _⟩

/-- A field that a write covers holds what is written to it, where it is of class L, B or S. -/
theorem bits_written {r : PReg} {hi lo whi wlo : Nat} (k : FieldKind) (hf : (⟨hi, lo, k⟩ : Field) ∈ pfields r)
    (takes : k ≠ .trigger ∧ k ≠ .w1c) (inside : wlo ≤ lo ∧ hi ≤ whi) (old v : Nat) :
    bits (writtenBy (pfields r) old whi wlo v).value hi lo = bits v hi lo := by
  refine (bits_written_field hf inside old v).trans ?_
  unfold fieldAfter
  split
  · next h => exact absurd h takes.1
  · next h => exact absurd h takes.2
  · rfl

theorem bit_written {r : PReg} {i whi wlo : Nat} (k : FieldKind) (hf : (⟨i, i, k⟩ : Field) ∈ pfields r)
    (takes : k ≠ .trigger ∧ k ≠ .w1c) (inside : wlo ≤ i ∧ i ≤ whi) (old v : Nat) :
    bit (writtenBy (pfields r) old whi wlo v).value i = bit v i := by
  rw [bit_eq_bits, bits_written k hf takes inside, ← bit_eq_bits]

/-- A bit that goes by writing 1 to it. -/
theorem bit_written_w1c {r : PReg} {i whi wlo : Nat} (hf : (⟨i, i, .w1c⟩ : Field) ∈ pfields r) (inside : wlo ≤ i ∧ i ≤ whi)
    (old v : Nat) : bit (writtenBy (pfields r) old whi wlo v).value i = (bit old i && !bit v i) := by
  have held : bits (writtenBy (pfields r) old whi wlo v).value i i = if bit v i then 0 else bits old i i :=
    bits_written_field hf inside old v
  rw [bit_eq_bits, held]
  cases bit v i
  · simp [bit_eq_bits]
  · simp

/-- Bits outside every field that a write covers stay. -/
theorem bits_written_other {r : PReg} {hi lo whi wlo : Nat} (outside : ∀ f ∈ pfields r, wlo ≤ f.lo ∧ f.hi ≤ whi → hi < f.lo ∨ f.hi < lo)
    (old v : Nat) : bits (writtenBy (pfields r) old whi wlo v).value hi lo = bits old hi lo := by
  rw [writtenBy_value]
  refine bits_foldl_other v _ old fun f hf => ?_
  obtain ⟨hf, inside⟩ := List.mem_filter.mp hf
  exact ⟨(pfields_apart r).1 f hf, outside f hf (of_decide_eq_true inside)⟩

/-- A word of 64 bits from its halves. -/
theorem bits_halves {lo hi : Nat} (hlo : lo < 2 ^ 32) (hhi : hi < 2 ^ 32) :
    bits (lo + hi * 2 ^ 32) 31 0 = lo ∧ bits (lo + hi * 2 ^ 32) 63 32 = hi := by
  simp only [bits]
  omega

/-! ## A write that goes through (R489) -/

theorem hostTlp_counts (s : State) (acc : Accessor) : ∃ c, hostTlp s acc = { s with counters := c } := by
  cases acc <;> exact ⟨_, rfl⟩

theorem readP_withCounters (s : State) (c : Counters) (acc : Accessor) (p : Nat) (r : PReg) :
    readP { s with counters := c } acc p r = readP s acc p r := by
  cases r <;> rfl

theorem stoppedP_withCounters (s : State) (c : Counters) (p : Nat) (r : PReg) : stoppedP { s with counters := c } p r = stoppedP s p r := by
  cases r <;> rfl

section
variable {s : State} {acc : Accessor} {p off v : Nat} {r : PReg}

theorem readReg_half (reg : pregAt (off / 8 * 8) = some r) (t : State) :
    readReg t acc (.part p) off 4 = if off % 8 = 4 then bits (readP t acc p r) 63 32 else bits (readP t acc p r) 31 0 := by
  simp [readReg, reg]

theorem readReg_word (reg : pregAt (off / 8 * 8) = some r) (t : State) : readReg t acc (.part p) off 8 = readP t acc p r := by
  rw [readReg, reg, if_pos rfl, Option.map_some, Option.getD_some]

/-- A permitted write of a register, where its class S fields keep their values or their block is stopped. -/
theorem writeReg_applies {size : Nat} (may : mayWrite s acc (.part p) off = true) (reg : pregAt (off / 8 * 8) = some r)
    {whi wlo x : Nat} (range : (if size = 8 then 63 else if off % 8 == 4 then 63 else 31) = whi)
    (low : (if size = 8 then 0 else if off % 8 == 4 then 32 else 0) = wlo)
    (word : (if size = 8 then v % 2 ^ 64 else v % 2 ^ 32 * 2 ^ wlo) = x)
    (free : changesStop (pfields r) (readP s acc p r) whi wlo x = false ∨ stoppedP s p r = true) :
    writeReg s acc (.part p) off size v = applyP s acc p (writtenBy (pfields r) (readP s acc p r) whi wlo x) r := by
  have passes : (changesStop (pfields r) (readP s acc p r) whi wlo x && !stoppedP s p r) = false := by
    rcases free with h | h <;> simp [h]
  unfold writeReg
  simp only [may, reg, range, low, word, passes, Bool.not_true, Bool.false_eq_true, if_false]

/-- A write of a register's 8 bytes, where its class S fields keep their values or their block is stopped. -/
theorem write8_applies (reach : Reaches s acc (.part p) off) (aligned : off % 8 = 0) (reg : pregAt off = some r) (hv : v < 2 ^ 64)
    (free : changesStop (pfields r) (readP s acc p r) 63 0 v = false ∨ stoppedP s p r = true) : ∃ c, write8 s acc (.part p) off v =
      applyP { s with counters := c } acc p (writtenBy (pfields r) (readP s acc p r) 63 0 v) r := by
  obtain ⟨access, may⟩ := reach
  obtain ⟨c, counted⟩ := hostTlp_counts s acc
  have may' := mayWrite_hostTlp s acc acc (.part p) off
  rw [counted, may] at may'
  have form : goodForm off 8 = true := by
    simp [goodForm]
    omega
  rw [← readP_withCounters s c] at free ⊢
  rw [← stoppedP_withCounters s c] at free
  refine ⟨c, ?_⟩
  rw [write8, writeRegs, if_neg (by simp [access]), counted]
  simp only [form, Bool.not_true, Bool.false_eq_true, if_false, Nat.reduceEqDiff, Nat.reduceDiv, List.range_one, List.foldl_cons,
    List.foldl_nil, Nat.mul_zero, Nat.add_zero]
  exact writeReg_applies may' (by rw [show off / 8 * 8 = off by omega, reg]) rfl rfl (Nat.mod_eq_of_lt hv) free

/-- A write of a register's lower or upper 4 bytes. -/
theorem write4_applies (reach : Reaches s acc (.part p) off) (aligned : off % 4 = 0) (reg : pregAt (off / 8 * 8) = some r) {whi wlo : Nat}
    (range : (if off % 8 == 4 then 63 else 31) = whi) (low : (if off % 8 == 4 then 32 else 0) = wlo)
    (free : changesStop (pfields r) (readP s acc p r) whi wlo (v % 2 ^ 32 * 2 ^ wlo) = false ∨ stoppedP s p r = true) :
    ∃ c, writeRegs s acc (.part p) off 4 [v] =
      applyP { s with counters := c } acc p (writtenBy (pfields r) (readP s acc p r) whi wlo (v % 2 ^ 32 * 2 ^ wlo)) r := by
  obtain ⟨access, may⟩ := reach
  obtain ⟨c, counted⟩ := hostTlp_counts s acc
  have may' := mayWrite_hostTlp s acc acc (.part p) off
  rw [counted, may] at may'
  rw [← readP_withCounters s c] at free ⊢
  rw [← stoppedP_withCounters s c] at free
  refine ⟨c, ?_⟩
  rw [writeRegs, if_neg (by simp [access]), counted]
  simp only [goodForm, aligned, Nat.reduceMod, and_self, true_or, decide_true, Bool.not_true, Bool.false_eq_true, if_false, if_true]
  exact writeReg_applies may' reg range low rfl free

/-- A write that would change a class S field of a block that is not stopped is refused. -/
theorem write8_refused (reach : Reaches s acc (.part p) off) (aligned : off % 8 = 0) (reg : pregAt off = some r) (hv : v < 2 ^ 64)
    (changes : changesStop (pfields r) (readP s acc p r) 63 0 v = true) (runs : stoppedP s p r = false) :
    write8 s acc (.part p) off v = refuseWrite (hostTlp s acc) acc (.part p) off := by
  obtain ⟨access, may⟩ := reach
  obtain ⟨c, counted⟩ := hostTlp_counts s acc
  have may' := mayWrite_hostTlp s acc acc (.part p) off
  rw [counted, may] at may'
  have form : goodForm off 8 = true := by
    simp [goodForm]
    omega
  rw [← readP_withCounters s c] at changes
  rw [← stoppedP_withCounters s c] at runs
  rw [write8, writeRegs, if_neg (by simp [access]), counted]
  simp only [form, Bool.not_true, Bool.false_eq_true, if_false, Nat.reduceEqDiff, Nat.reduceDiv, List.range_one, List.foldl_cons,
    List.foldl_nil, Nat.mul_zero, Nat.add_zero]
  unfold writeReg
  simp only [may', show off / 8 * 8 = off by omega, reg, if_true, List.getD_cons_zero, Nat.mod_eq_of_lt hv, changes, runs,
    Bool.not_true, Bool.not_false, Bool.and_self, Bool.false_eq_true, if_false]

end

/-! ## The registers of a queue (R189, R500) -/

theorem pregAt_queue {q : Nat} (hq : q < 64) : pregAt (0x1000 + 64 * q) = some (.qBase q) ∧ pregAt (0x1008 + 64 * q) = some (.qCbase q) ∧
    pregAt (0x1010 + 64 * q) = some (.qCtrl q) ∧ pregAt (0x1018 + 64 * q) = some (.qDoor q) := by
  have all : ∀ q < 64, pregAt (0x1000 + 64 * q) = some (.qBase q) ∧ pregAt (0x1008 + 64 * q) = some (.qCbase q) ∧
    pregAt (0x1010 + 64 * q) = some (.qCtrl q) ∧ pregAt (0x1018 + 64 * q) = some (.qDoor q) := by decide
  exact all q hq

theorem pregAt_sem {k : Nat} (hk : 1 ≤ k) (hk' : k < 16) : pregAt (0x80 + 8 * k) = some (.sem k) := by
  have all : ∀ k < 16, 1 ≤ k → pregAt (0x80 + 8 * k) = some (.sem k) := by decide
  exact all k hk' hk

/-- Both halves of a register lie with one queue. -/
theorem queueAt_upper {off : Nat} (aligned : off % 8 = 0) : queueAt (off + 4) = queueAt off := by
  have same : (off + 4 - 0x1000) / 64 = (off - 0x1000) / 64 ∨ off < 0x1000 := by omega
  unfold queueAt
  rcases same with same | below
  · rw [same]
    exact if_congr (by omega) rfl rfl
  · rw [if_neg (by omega), if_neg (by omega)]

theorem mayWrite_upper (s : State) (acc : Accessor) (p : Nat) {off : Nat} (aligned : off % 8 = 0) :
    mayWrite s acc (.part p) (off + 4) = mayWrite s acc (.part p) off := by
  cases acc <;> simp only [mayWrite, queueAt_upper aligned]

/-! ## The save area (R440, R441, R445) -/

/-- The saved pointers of a queue written: partitions stay. -/
theorem savePointers_alike (s : State) (p q : Nat) : Alike s (savePointers s p q) := by
  unfold savePointers
  dsimp only
  split
  · exact devWrite_alike ..
  · exact .refl s

theorem savePointers_stored {s : State} {p q : Nat} (good : GoodMemory s) (may : mayAccess s p ((partOf s p).saveAt + 16 * q) 16 = true) :
    Stored s (savePointers s p q) ((partOf s p).saveAt + 16 * q) (pointerBytes (queueOf (partOf s p) q)) := by
  obtain ⟨cs, put⟩ := devPut_good good ((partOf s p).saveAt + 16 * q) (pointerBytes (queueOf (partOf s p) q))
  have stored : (savePointers s p q) = { s with mem := { s.mem with
      channels := cs, dram := memPutN s.mem.dram ((partOf s p).saveAt + 16 * q) (pointerBytes (queueOf (partOf s p) q)) } } :=
    (if_pos may).trans put
  rw [stored]
  exact stored_of_dram good (goodMemory_dram good (memWf_putN good.1 ..) cs) rfl

/-! ## Doorbells (R189, R191, R441) -/

/-- A queue whose doorbell brings a TAIL, where the write covers it, and CCONS. -/
def rung (x : Queue) (tail ccons : Nat) (covers : Bool) : Queue :=
  { x with tail := tail, ccons := ccons
           cause := if covers && decide (2 ^ clampN 6 16 x.sizeLog2 < (tail + 2 ^ 32 - x.head) % 2 ^ 32) && x.cause == 0 then 0x03
             else x.cause }

/-- A doorbell that lands: the queue takes it, and the save area too while the partition's pointers are saved. -/
def ring (s : State) (p q tail ccons : Nat) (covers : Bool) : State :=
  let t := modQueue s p q (fun x => rung x tail ccons covers)
  if (partOf t p).saved then savePointers t p q else t

section
variable {s : State} {acc : Accessor} {p q tail ccons : Nat} {covers : Bool}

theorem ring_alike (s : State) (p q tail ccons : Nat) (covers : Bool) :
    Alike (modQueue s p q (fun x => rung x tail ccons covers)) (ring s p q tail ccons covers) := by
  unfold ring
  dsimp only
  split
  · exact savePointers_alike ..
  · exact .refl _

theorem queueOf_ring : queueOf (partOf (ring s p q tail ccons covers) p) q = rung (queueOf (partOf s p) q) tail ccons covers := by
  rw [(ring_alike ..).partOf, queueOf_modQueue_self]

theorem queueOf_ring_ne {k : Nat} (hk : k ≠ q) : queueOf (partOf (ring s p q tail ccons covers) p) k = queueOf (partOf s p) k := by
  rw [(ring_alike ..).partOf, queueOf_modQueue_ne _ _ hk]

theorem partOf_ring_ne {k : Nat} (hk : k ≠ p) : partOf (ring s p q tail ccons covers) k = partOf s k := by
  rw [(ring_alike ..).partOf, partOf_modQueue_ne _ _ hk]

theorem ring_unsaved (unsaved : (partOf s p).saved = false) : DramSame s (ring s p q tail ccons covers) := by
  have kept : ring s p q tail ccons covers = modQueue s p q (fun x => rung x tail ccons covers) :=
    if_neg (by rw [partOf_modQueue]; simp [unsaved])
  rw [kept]
  exact fun _ => rfl

theorem ring_saved (saved : (partOf s p).saved = true) (good : GoodMemory s) (may : mayAccess s p ((partOf s p).saveAt + 16 * q) 16 = true) :
    Stored s (ring s p q tail ccons covers) ((partOf s p).saveAt + 16 * q)
      (pointerBytes (queueOf (partOf (ring s p q tail ccons covers) p) q)) := by
  have part := partOf_modQueue s p q (fun x => rung x tail ccons covers)
  have stored := savePointers_stored (s := modQueue s p q (fun x => rung x tail ccons covers)) (p := p) (q := q) good
    (by rw [part]; exact may)
  have kept : ring s p q tail ccons covers = savePointers (modQueue s p q (fun x => rung x tail ccons covers)) p q :=
    if_pos (by rw [part]; exact saved)
  rw [(ring_alike ..).partOf, kept]
  rw [part] at stored ⊢
  exact stored

theorem writeDoor_rings (s : State) (p q : Nat) (w : Written) :
    writeDoor s p q w = ring s p q (bits w.value 31 0) (bits w.value 63 32) (w.covers 0) := rfl

theorem doorbell_whole (hq : q < 64) (reach : Reaches s acc (.part p) (0x1018 + 64 * q)) (v : W64) :
    ∃ c, exec (.doorbell acc p q 8 false v) s = .next (ring { s with counters := c } p q (v.toNat % 2 ^ 32) (v.toNat / 2 ^ 32) true) := by
  obtain ⟨c, run⟩ := write8_applies reach (by omega) (pregAt_queue hq).2.2.2 v.isLt (.inl rfl)
  refine ⟨c, congrArg _ (run.trans ((writeDoor_rings ..).trans ?_))⟩
  have lower : bits v.toNat 31 0 = v.toNat % 2 ^ 32 := by simp [bits]
  have upper : bits v.toNat 63 32 = v.toNat / 2 ^ 32 := Nat.mod_eq_of_lt (Nat.div_lt_of_lt_mul v.isLt)
  rw [bits_written (hi := 31) .live (by simp [pfields]) ⟨nofun, nofun⟩ (by omega),
    bits_written (hi := 63) .live (by simp [pfields]) ⟨nofun, nofun⟩ (by omega), lower, upper]
  rfl

theorem pregAt_door_halves (hq : q < 64) : pregAt ((0x1018 + 64 * q) / 8 * 8) = some (.qDoor q) ∧
    pregAt ((0x1018 + 64 * q + 4) / 8 * 8) = some (.qDoor q) := by
  have reg := (pregAt_queue hq).2.2.2
  rw [show (0x1018 + 64 * q) / 8 * 8 = 0x1018 + 64 * q by omega, show (0x1018 + 64 * q + 4) / 8 * 8 = 0x1018 + 64 * q by omega]
  exact ⟨reg, reg⟩

/-- The lower half of a doorbell brings TAIL alone, its upper half CCONS. -/
theorem doorbell_half (hq : q < 64) (reach : Reaches s acc (.part p) (0x1018 + 64 * q)) (v : W64) :
    (∃ c, exec (.doorbell acc p q 4 false v) s = .next (ring { s with counters := c } p q (v.toNat % 2 ^ 32)
      (bits (readP s acc p (.qDoor q)) 63 32) true)) ∧
    (∃ c, exec (.doorbell acc p q 4 true v) s = .next (ring { s with counters := c } p q (bits (readP s acc p (.qDoor q)) 31 0)
      (v.toNat % 2 ^ 32) false)) := by
  obtain ⟨lowReg, highReg⟩ := pregAt_door_halves hq
  have reachHigh : Reaches s acc (.part p) (0x1018 + 64 * q + 4) := ⟨reach.1, (mayWrite_upper s acc p (by omega)).trans reach.2⟩
  constructor
  · obtain ⟨c, run⟩ := write4_applies (v := v.toNat) reach (by omega) lowReg (whi := 31) (wlo := 0)
      (by rw [if_neg (by simp; omega)]) (by rw [if_neg (by simp; omega)]) (.inl rfl)
    refine ⟨c, congrArg _ (run.trans ((writeDoor_rings ..).trans ?_))⟩
    have value : bits (v.toNat % 2 ^ 32 * 2 ^ 0) 31 0 = v.toNat % 2 ^ 32 := by simp [bits]
    rw [bits_written (hi := 31) .live (by simp [pfields]) ⟨nofun, nofun⟩ (by omega), value,
      bits_written_other (by simp [pfields])]
    rfl
  · obtain ⟨c, run⟩ := write4_applies (v := v.toNat) reachHigh (by omega) highReg (whi := 63) (wlo := 32)
      (by rw [if_pos (by simp; omega)]) (by rw [if_pos (by simp; omega)]) (.inl rfl)
    refine ⟨c, congrArg _ (run.trans ((writeDoor_rings ..).trans ?_))⟩
    have value : bits (v.toNat % 2 ^ 32 * 2 ^ 32) 63 32 = v.toNat % 2 ^ 32 := by simp [bits]
    rw [bits_written (hi := 63) .live (by simp [pfields]) ⟨nofun, nofun⟩ (by omega), value,
      bits_written_other (by simp [pfields])]
    rfl

theorem rung_tail (x : Queue) (tail ccons : Nat) (covers : Bool) : (rung x tail ccons covers).tail = tail := rfl

theorem rung_ccons (x : Queue) (tail ccons : Nat) (covers : Bool) : (rung x tail ccons covers).ccons = ccons := rfl

theorem rung_cause (x : Queue) (tail ccons : Nat) : (rung x tail ccons true).cause =
    if decide (2 ^ clampN 6 16 x.sizeLog2 < (tail + 2 ^ 32 - x.head) % 2 ^ 32) = true ∧ x.cause = 0 then 0x03 else x.cause := by
  simp [rung]

theorem rung_whole (x : Queue) (tail ccons : Nat) : rung x tail ccons true = { x with
    tail := tail, ccons := ccons
    cause := if decide (2 ^ clampN 6 16 x.sizeLog2 < (tail + 2 ^ 32 - x.head) % 2 ^ 32) = true ∧ x.cause = 0 then 0x03 else x.cause } := by
  simp [rung]

theorem readP_door (t : State) (acc : Accessor) (p q : Nat) :
    readP t acc p (.qDoor q) = (queueOf (partOf t p) q).tail + (queueOf (partOf t p) q).ccons * 2 ^ 32 := rfl

/-- A doorbell register reads the TAIL and CCONS that were brought. -/
theorem readReg_ring {off : Nat} (reg : pregAt (off / 8 * 8) = some (.qDoor q)) (ht : tail < 2 ^ 32) (hc : ccons < 2 ^ 32) (s : State) :
    readReg (ring s p q tail ccons covers) acc (.part p) off 4 = if off % 8 = 4 then ccons else tail := by
  obtain ⟨lower, upper⟩ := bits_halves ht hc
  rw [readReg_half reg, readP_door, queueOf_ring, rung_tail, rung_ccons, lower, upper]

theorem rung_cause_upper (x : Queue) (tail ccons : Nat) : (rung x tail ccons false).cause = x.cause := rfl

/-- The half of a doorbell register that a write leaves. -/
theorem readReg_ring_upper {off : Nat} (reg : pregAt (off / 8 * 8) = some (.qDoor q)) (half : off % 8 = 4) (ht : tail < 2 ^ 32) (c : Counters) :
    readReg (ring { s with counters := c } p q tail (bits (readP s acc p (.qDoor q)) 63 32) covers) acc (.part p) off 4 =
      readReg s acc (.part p) off 4 := by
  have word : bits (readP s acc p (.qDoor q)) 63 32 < 2 ^ 32 := Nat.mod_lt _ (Nat.two_pow_pos _)
  rw [readReg_ring reg ht word, readReg_half reg, if_pos half, if_pos half]

theorem readReg_ring_lower {off : Nat} (reg : pregAt (off / 8 * 8) = some (.qDoor q)) (half : off % 8 = 0) (hc : ccons < 2 ^ 32) (c : Counters) :
    readReg (ring { s with counters := c } p q (bits (readP s acc p (.qDoor q)) 31 0) ccons covers) acc (.part p) off 4 =
      readReg s acc (.part p) off 4 := by
  have word : bits (readP s acc p (.qDoor q)) 31 0 < 2 ^ 32 := Nat.mod_lt _ (Nat.two_pow_pos _)
  rw [readReg_ring reg word hc, readReg_half reg, if_neg (by omega), if_neg (by omega)]

/-- What O49 says of doorbells. -/
theorem doorbells (s : State) (acc : Accessor) (p q : Nat) (v : W64) (hq : q < 64) (reach : Reaches s acc (.part p) (0x1018 + 64 * q)) :
    let x := queueOf (partOf s p) q
    let far : Nat → Bool := fun tail => decide (2 ^ clampN 6 16 x.sizeLog2 < (tail + 2 ^ 32 - x.head) % 2 ^ 32)
    (∃ t, exec (.doorbell acc p q 8 false v) s = .next t ∧
      queueOf (partOf t p) q = { x with
        tail := v.toNat % 2 ^ 32, ccons := v.toNat / 2 ^ 32
        cause := if far (v.toNat % 2 ^ 32) = true ∧ x.cause = 0 then 0x03 else x.cause } ∧
      (∀ k, k ≠ q → queueOf (partOf t p) k = queueOf (partOf s p) k) ∧ (∀ k, k ≠ p → partOf t k = partOf s k) ∧
      ((partOf s p).saved = false → DramSame s t) ∧
      ((partOf s p).saved = true → GoodMemory s → mayAccess s p ((partOf s p).saveAt + 16 * q) 16 = true →
        Stored s t ((partOf s p).saveAt + 16 * q) (pointerBytes (queueOf (partOf t p) q)))) ∧
    (∃ t, exec (.doorbell acc p q 4 false v) s = .next t ∧
      (queueOf (partOf t p) q).tail = v.toNat % 2 ^ 32 ∧
      (queueOf (partOf t p) q).cause = (if far (v.toNat % 2 ^ 32) = true ∧ x.cause = 0 then 0x03 else x.cause) ∧
      readReg t acc (.part p) (0x101C + 64 * q) 4 = readReg s acc (.part p) (0x101C + 64 * q) 4) ∧
    (∃ t, exec (.doorbell acc p q 4 true v) s = .next t ∧
      (queueOf (partOf t p) q).ccons = v.toNat % 2 ^ 32 ∧ (queueOf (partOf t p) q).cause = x.cause ∧
      readReg t acc (.part p) (0x1018 + 64 * q) 4 = readReg s acc (.part p) (0x1018 + 64 * q) 4) := by
  intro x far
  obtain ⟨c, whole⟩ := doorbell_whole hq reach v
  obtain ⟨⟨d, lower⟩, ⟨e, upper⟩⟩ := doorbell_half hq reach v
  have small : v.toNat % 2 ^ 32 < 2 ^ 32 := Nat.mod_lt _ (by omega)
  obtain ⟨lowReg, highReg⟩ := pregAt_door_halves hq
  rw [show 0x1018 + 64 * q + 4 = 0x101C + 64 * q by omega] at highReg
  refine ⟨⟨_, whole, ?_, fun k hk => queueOf_ring_ne hk, fun k hk => partOf_ring_ne hk,
      fun unsaved => ring_unsaved (s := { s with counters := c }) unsaved,
      fun saved good may => ring_saved (s := { s with counters := c }) saved good may⟩,
    ⟨_, lower, ?_, ?_, ?_⟩, ⟨_, upper, ?_, ?_, ?_⟩⟩
  · rw [queueOf_ring]
    exact rung_whole x _ _
  · rw [queueOf_ring, rung_tail]
  · rw [queueOf_ring]
    exact rung_cause x _ _
  · exact readReg_ring_upper highReg (by omega) small _
  · rw [queueOf_ring, rung_ccons]
  · rw [queueOf_ring]
    exact rung_cause_upper x _ _
  · exact readReg_ring_lower lowReg (by omega) small _

end

/-! ## Bases (R189) -/

section
variable {s t : State} {p q : Nat}

theorem dropNext_sameQueues (s : State) (p q : Nat) : SameQueues s (dropNext s p q) :=
  (sameQueues_of_ledger (semAdd_ledger ..)).trans (modPart_sameQueues (semAdd s p (queueOf (partOf s p) q).granted 1) p
    (f := fun P => { P with waiters := P.waiters.filter (fun y => y.queue != q || y.idx.isSome) }) fun _ => rfl)

/-- A queue with its pointers zeroed and nothing of its next instruction kept. -/
def zeroed (x : Queue) : Queue := { x with head := 0, tail := 0, cprod := 0, ccons := 0, next := 0, frozen := none, waiting := false, granted := 0 }

theorem queueOf_zeroPointers (s : State) (p q : Nat) : queueOf (partOf (zeroPointers s p q) p) q = zeroed (queueOf (partOf s p) q) := by
  have saves : Alike (modQueue (dropNext s p q) p q zeroed) (zeroPointers s p q) := by
    unfold zeroPointers
    dsimp only
    split
    · exact savePointers_alike ..
    · exact .refl _
  rw [saves.partOf, queueOf_modQueue_self, queueOf, queueOf, (dropNext_sameQueues s p q).queues]

end

/-- A base written to a stopped queue. -/
theorem baseWrite_lands {s : State} {acc : Accessor} {p q : Nat} (hq : q < 64) (stopped : queueStopped (queueOf (partOf s p) q) = true) (v : W64) :
    (Reaches s acc (.part p) (0x1000 + 64 * q) → ∃ t b, exec (.qBaseWrite acc p q false v) s = .next t ∧ bits b 63 8 = bits v.toNat 63 8 ∧
      queueOf (partOf t p) q = zeroed { queueOf (partOf s p) q with base := b }) ∧
    (Reaches s acc (.part p) (0x1008 + 64 * q) → ∃ t b, exec (.qBaseWrite acc p q true v) s = .next t ∧ bits b 63 8 = bits v.toNat 63 8 ∧
      queueOf (partOf t p) q = zeroed { queueOf (partOf s p) q with cbase := b }) := by
  refine ⟨fun reach => ?_, fun reach => ?_⟩
  · obtain ⟨c, run⟩ := write8_applies reach (by omega) (pregAt_queue hq).1 v.isLt (.inr stopped)
    have base := bits_written (hi := 63) (lo := 8) (r := .qBase q) (whi := 63) (wlo := 0) .stop (by simp [pfields]) ⟨nofun, nofun⟩ (by decide)
      (readP s acc p (.qBase q)) v.toNat
    refine ⟨_, _, congrArg Host.Outcome.next run, base, ?_⟩
    exact (queueOf_zeroPointers ..).trans (congrArg zeroed (queueOf_modQueue_self ..))
  · obtain ⟨c, run⟩ := write8_applies reach (by omega) (pregAt_queue hq).2.1 v.isLt (.inr stopped)
    have base := bits_written (hi := 63) (lo := 8) (r := .qCbase q) (whi := 63) (wlo := 0) .stop (by simp [pfields]) ⟨nofun, nofun⟩ (by decide)
      (readP s acc p (.qCbase q)) v.toNat
    refine ⟨_, _, congrArg Host.Outcome.next run, base, ?_⟩
    exact (queueOf_zeroPointers ..).trans (congrArg zeroed (queueOf_modQueue_self ..))

theorem baseWrite_refused {s : State} {acc : Accessor} {p q : Nat} (hq : q < 64) (runs : queueStopped (queueOf (partOf s p) q) = false)
    (v : W64) (reach : Reaches s acc (.part p) (0x1000 + 64 * q)) (other : bits v.toNat 63 8 ≠ bits (queueOf (partOf s p) q).base 63 8) :
    exec (.qBaseWrite acc p q false v) s = .next (refuseWrite (hostTlp s acc) acc (.part p) (0x1000 + 64 * q)) :=
  congrArg _ (write8_refused reach (by omega) (pregAt_queue hq).1 v.isLt (by simpa [changesStop, pfields, readP] using other) runs)

/-! ## RESUME (R191) -/

section
variable {s : State} {acc : Accessor} {p q : Nat}

/-- A set bit is a field of one bit that holds 1. -/
theorem putBit_true (w i : Nat) : putBit w i true = putBits w i i 1 := by
  have two := Nat.mod_two_eq_zero_or_one (w / 2 ^ i)
  rw [putBits, bits, Nat.add_sub_cancel_left, pow_one, putBit, bit]
  rcases two with zero | one
  · simp [zero]
  · have := Nat.div_mul_le_self w (2 ^ i)
    have : 2 ^ i ≤ w / 2 ^ i * 2 ^ i := Nat.le_mul_of_pos_left _ (Nat.pos_of_ne_zero fun none => by simp [none] at one)
    simp [one]
    omega

/-- The lower half of CC_Q_CTRL as it reads, with RESUME set. -/
def resumeWord (old : Nat) : Nat := putBit (bits old 31 0) 26 true % 2 ^ 32 * 2 ^ 0

theorem bits_resumeWord (old : Nat) {hi lo : Nat} (below : hi < 26) : bits (resumeWord old) hi lo = bits old hi lo := by
  rw [resumeWord, pow_zero, Nat.mul_one, bits_mod _ _ (by omega), putBit_true, bits_putBits_other (by omega) (.inl below), bits_low,
    bits_mod _ _ (by omega)]

theorem bit_resumeWord (old : Nat) : bit (resumeWord old) 26 = true := by
  rw [resumeWord, pow_zero, Nat.mul_one, bit_eq_bits, bits_mod _ _ (by omega), putBit_true, bits_putBits_self (by omega)]
  rfl

/-- RESUME written over what CC_Q_CTRL reads changes none of its class S fields. -/
theorem resumeWord_keepsStops (q old : Nat) : changesStop (pfields (.qCtrl q)) old 31 0 (resumeWord old) = false := by
  refine List.any_eq_false.mpr fun f hf changes => ?_
  simp only [Bool.and_eq_true, beq_iff_eq, bne_iff_ne, ne_eq] at changes
  refine changes.2 (bits_resumeWord old ?_)
  have all : ∀ f ∈ pfields (.qCtrl 0), f.kind = .stop → f.hi < 26 := by decide
  exact all f hf changes.1.1

/-- A write of CC_Q_CTRL's lower half with RESUME set fires RESUME. -/
theorem written_resume_fires (q old : Nat) {v : Nat} (set : bit v 26 = true) :
    (writtenBy (pfields (.qCtrl q)) old 31 0 v).fires 26 = true := by
  have trigger : ((pfields (.qCtrl q)).filter fun f => decide (0 ≤ f.lo ∧ f.hi ≤ 31)).filter (fun f => f.kind == .trigger) =
      [⟨26, 26, .trigger⟩] := rfl
  have trig : (writtenBy (pfields (.qCtrl q)) old 31 0 v).trig = ofSetBits [26] := by
    simp only [writtenBy, Bool.and_comm _ (bit v _), ← List.filter_filter, trigger]
    simp [set]
  rw [Written.fires, trig]
  decide

theorem pregAt_ctrl_lower (hq : q < 64) : pregAt ((0x1010 + 64 * q) / 8 * 8) = some (.qCtrl q) := by
  rw [show (0x1010 + 64 * q) / 8 * 8 = 0x1010 + 64 * q by omega]
  exact (pregAt_queue hq).2.2.1

theorem applyP_qCtrl (t : State) (acc : Accessor) (p q : Nat) (w : Written) :
    applyP t acc p w (.qCtrl q) = modQueue t p q (fun x => writeQCtrl x w) := rfl

theorem exec_qResume (s : State) (acc : Accessor) (p q : Nat) : exec (.qResume acc p q) s =
    .next (writeRegs s acc (.part p) (0x1010 + 64 * q) 4 [putBit (bits (held s acc (.part p) (0x1010 + 64 * q)) 31 0) 26 true]) := rfl

theorem resume_lands (hq : q < 64) (reach : Reaches s acc (.part p) (0x1010 + 64 * q)) : ∃ c w, w.fires 26 = true ∧
    exec (.qResume acc p q) s = .next (modQueue { s with counters := c } p q (fun x => writeQCtrl x w)) := by
  have reg := pregAt_ctrl_lower hq
  have reads : held s acc (.part p) (0x1010 + 64 * q) = readP s acc p (.qCtrl q) := readReg_word reg s
  obtain ⟨c, run⟩ := write4_applies (v := putBit (bits (readP s acc p (.qCtrl q)) 31 0) 26 true) reach (by omega) reg (whi := 31) (wlo := 0)
    (if_neg (by simp; omega)) (if_neg (by simp; omega)) (.inl (resumeWord_keepsStops ..))
  rw [← resumeWord, applyP_qCtrl] at run
  exact ⟨c, _, written_resume_fires q (readP s acc p (.qCtrl q)) (bit_resumeWord _), by rw [exec_qResume, reads, run]⟩

/-- A write that fires RESUME ends a halt. -/
theorem writeQCtrl_resumes (x : Queue) {w : Written} (fires : w.fires 26 = true) :
    (writeQCtrl x w).cause = 0 ∧ (writeQCtrl x w).head = x.head ∧ (writeQCtrl x w).tail = x.tail ∧
      (writeQCtrl x w).issued = x.issued.map (fun i => { i with stuck := false }) := by
  simp [writeQCtrl, fires]

end

/-! ## Semaphores and the error queue (R199, R488) -/

section
variable {s : State} {acc : Accessor} {p : Nat}

/-- With no waiter, a write of a semaphore register only stores the semaphore. -/
theorem applyP_sem (idle : (partOf s p).waiters = []) (acc : Accessor) (i : Nat) (w : Written) :
    applyP s acc p w (.sem i) = setSem s p i { value := bits w.value 31 0, overflow := bit w.value 32 } := by
  have idle' : (partOf (setSem s p i { value := bits w.value 31 0, overflow := bit w.value 32 }) p).waiters = [] := by
    rw [setSem, partOf_modPart_self]
    exact idle
  rw [applyP, serve_idle idle', ite_self]

/-- What O49 says of semaphores. -/
theorem semaphore_lands {i : Nat} (hi : 1 ≤ i) (hi' : i < 16) (reach : Reaches s acc (.part p) (0x80 + 8 * i))
    (idle : (partOf s p).waiters = []) (v : W64) : ∃ t, exec (.semaphoreWrite acc p i v) s = .next t ∧
      (semOf t p i).value = v.toNat % 2 ^ 32 ∧
      (semOf t p i).overflow = (bit (readReg s acc (.part p) (0x80 + 8 * i) 8) 32 && !bit v.toNat 32) ∧
      (∀ k, k ≠ i → semOf t p k = semOf s p k) := by
  have reg := pregAt_sem hi hi'
  obtain ⟨c, run⟩ := write8_applies reach (by omega) reg v.isLt (.inl rfl)
  rw [applyP_sem (s := { s with counters := c }) idle] at run
  refine ⟨_, congrArg Host.Outcome.next run, ?_, ?_, fun k hk => semOf_setSem_ne _ _ hk⟩
  · rw [semOf_setSem_self, bits_written .live (by simp [pfields]) ⟨nofun, nofun⟩ (by decide), bits_low]
  · rw [semOf_setSem_self, bit_written_w1c (by simp [pfields]) (by decide),
      readReg_word (by rw [show (0x80 + 8 * i) / 8 * 8 = 0x80 + 8 * i by omega, reg])]

/-- What O49 says of the error queue. -/
theorem errqBase_lands (reach : Reaches s acc (.part p) 0x30) (disabled : (partOf s p).errq.enable = false) (v : W64) :
    ∃ t, exec (.errqBaseWrite acc p v) s = .next t ∧ (partOf t p).errq.prod = 0 ∧ (partOf t p).errq.cons = 0 ∧
      bits (partOf t p).errq.base 63 8 = bits v.toNat 63 8 := by
  have stopped : stoppedP s p .errqBase = true := by simp [stoppedP, disabled]
  obtain ⟨c, run⟩ := write8_applies reach rfl rfl v.isLt (.inr stopped)
  refine ⟨_, congrArg Host.Outcome.next run, ?_⟩
  simp only [applyP, modErrq, partOf_modPart_self, true_and]
  exact bits_written .stop (by simp [pfields]) ⟨nofun, nofun⟩ (by decide) ..

end

/-! ## Buckets (R298, R323) -/

theorem bucketAt_frac_lt (b : Bucket) (now : Nat) : (bucketAt b now).frac < 1000000000 := Nat.mod_lt _ (by omega)

/-- A bucket with its level clipped to its size. -/
def clippedBucket (b : Bucket) : Bucket := { b with level := min b.level ((b.burst * 256 : Nat) : Int) }

/-- Brought up to date at the time it was last, a bucket's level is only clipped. -/
theorem bucketAt_last {b : Bucket} (frac : b.frac < 1000000000) : bucketAt b b.last = clippedBucket b := by
  simp [bucketAt, clippedBucket, Nat.mod_eq_of_lt frac, Nat.div_eq_of_lt frac]

section
variable {s : State} {p c : Nat} {f : Bucket → Bucket}

theorem bucketOf_writeBucket_ne {k : Nat} (hk : k ≠ c) : bucketOf (writeBucket s p c f) p k = bucketOf s p k := by
  simp only [bucketOf, writeBucket, refusedAfterWrite, setBucket, partOf_modPart_self, AMap.getD_insert_ne _ _ _ hk]
  rfl

theorem bucketOf_writeBucket (keeps : ∀ b, (f b).last = b.last ∧ (f b).frac = b.frac) :
    bucketOf (writeBucket s p c f) p c = clippedBucket (f (bucketOf s p c)) := by
  obtain ⟨last, frac⟩ := keeps (bucketOf s p c)
  have now : (f (bucketOf s p c)).last = s.now := last
  have small : (f (bucketOf s p c)).frac < 1000000000 := frac ▸ bucketAt_frac_lt ..
  have stored : bucketOf (writeBucket s p c f) p c = bucketAt (f (bucketOf s p c)) s.now := by
    simp only [bucketOf, writeBucket, refusedAfterWrite, setBucket, partOf_modPart_self, AMap.getD_insert_self]
    rfl
  rw [stored, ← now, bucketAt_last small]

end

theorem signed_of_low {a b : Nat} (low : bits a 47 0 = bits b 47 0) : signed 48 a = signed 48 (b % 2 ^ 48) := by
  rw [bits_low, bits_low] at low
  simp only [signed, Nat.mod_mod, show a % 2 ^ 48 = b % 2 ^ 48 from low]

section
variable {s : State} {acc : Accessor} {p : Nat}

/-- What a write of TS_BKT_CFG makes of a bucket. -/
def bucketCfg (w : Nat) (b : Bucket) : Bucket := { b with rate := bits w 31 0, burst := bits w 55 32, mode := bits w 57 56 }

/-- What a write of TS_BKT_LEVEL makes of a bucket. -/
def bucketLevel (w : Nat) (b : Bucket) : Bucket := { b with level := min (signed 48 w) ((b.burst * 256 : Nat) : Int) }

theorem applyP_bktCfg (t : State) (acc : Accessor) (p : Nat) (w : Written) :
    applyP t acc p w .bktCfg = writeBucket t p (selOf t acc 0x5008) (bucketCfg w.value) := rfl

theorem applyP_bktLevel (t : State) (acc : Accessor) (p : Nat) (w : Written) :
    applyP t acc p w .bktLevel = writeBucket t p (selOf t acc 0x5008) (bucketLevel w.value) := rfl

/-- A write of a bucket register that reaches its page: the accessor's bucket takes it, the others stay. -/
theorem bucketWrite_lands {off : Nat} {r : PReg} (reach : Reaches s acc (.part p) off) (aligned : off % 8 = 0) (reg : pregAt off = some r)
    {f : Nat → Bucket → Bucket} (applies : ∀ t acc p w, applyP t acc p w r = writeBucket t p (selOf t acc 0x5008) (f w.value))
    (keeps : ∀ w b, (f w b).last = b.last ∧ (f w b).frac = b.frac)
    (v : W64) (free : changesStop (pfields r) (readP s acc p r) 63 0 v.toNat = false) :
    ∃ t, write8 s acc (.part p) off v.toNat = t ∧
      bucketOf t p (selOf s acc 0x5008) =
        clippedBucket (f (writtenBy (pfields r) (readP s acc p r) 63 0 v.toNat).value (bucketOf s p (selOf s acc 0x5008))) ∧
      (∀ k, k ≠ selOf s acc 0x5008 → bucketOf t p k = bucketOf s p k) := by
  obtain ⟨c, run⟩ := write8_applies reach aligned reg v.isLt (.inl free)
  have sel : selOf { s with counters := c } acc 0x5008 = selOf s acc 0x5008 := rfl
  have old : ∀ k, bucketOf { s with counters := c } p k = bucketOf s p k := fun _ => rfl
  rw [applies, sel] at run
  refine ⟨_, run, ?_, fun k hk => (bucketOf_writeBucket_ne hk).trans (old k)⟩
  rw [bucketOf_writeBucket (keeps _), old]

/-- What O49 says of TS_BKT_CFG. -/
theorem bucketCfg_lands (reach : Reaches s acc (.part p) 0x5010) (v : W64) : ∃ t, exec (.bucketWrite acc p false v) s = .next t ∧
    (bucketOf t p (selOf s acc 0x5008)).rate = v.toNat % 2 ^ 32 ∧ (bucketOf t p (selOf s acc 0x5008)).burst = bits v.toNat 55 32 ∧
    (bucketOf t p (selOf s acc 0x5008)).mode = bits v.toNat 57 56 ∧
    (bucketOf t p (selOf s acc 0x5008)).charged = (bucketOf s p (selOf s acc 0x5008)).charged ∧
    (∀ k, k ≠ selOf s acc 0x5008 → bucketOf t p k = bucketOf s p k) := by
  obtain ⟨t, run, here, others⟩ := bucketWrite_lands reach rfl (r := .bktCfg) rfl applyP_bktCfg (fun _ _ => ⟨rfl, rfl⟩) v rfl
  refine ⟨t, congrArg Host.Outcome.next run, ?_, ?_, ?_, by rw [here]; rfl, others⟩
  · rw [here, ← bits_low]
    exact bits_written .live (by simp [pfields]) ⟨nofun, nofun⟩ (by decide) ..
  · rw [here]
    exact bits_written .live (by simp [pfields]) ⟨nofun, nofun⟩ (by decide) ..
  · rw [here]
    exact bits_written .live (by simp [pfields]) ⟨nofun, nofun⟩ (by decide) ..

/-- What O49 says of TS_BKT_LEVEL. -/
theorem bucketLevel_lands (reach : Reaches s acc (.part p) 0x5018) (v : W64) : ∃ t, exec (.bucketWrite acc p true v) s = .next t ∧
    (bucketOf t p (selOf s acc 0x5008)).level =
      min (signed 48 (v.toNat % 2 ^ 48)) (((bucketOf s p (selOf s acc 0x5008)).burst * 256 : Nat) : Int) ∧
    (bucketOf t p (selOf s acc 0x5008)).rate = (bucketOf s p (selOf s acc 0x5008)).rate := by
  obtain ⟨t, run, here, -⟩ := bucketWrite_lands reach rfl (r := .bktLevel) rfl applyP_bktLevel (fun _ _ => ⟨rfl, rfl⟩) v rfl
  refine ⟨t, congrArg Host.Outcome.next run, ?_, by rw [here]; rfl⟩
  have low := bits_written (r := .bktLevel) (hi := 47) (lo := 0) (whi := 63) (wlo := 0) .live (by simp [pfields]) ⟨nofun, nofun⟩ (by decide)
    (readP s acc p .bktLevel) v.toNat
  rw [here, ← signed_of_low low]
  exact min_eq_left (min_le_right _ _)

end

/-! ## Meters (R309, R311, R324) -/

theorem park_meters (s : State) (port part tc : Nat) (k : Parked) :
    (park s port part tc k).shaper.meters = s.shaper.meters ∧ (park s port part tc k).now = s.now := by
  cases k <;> exact ⟨rfl, rfl⟩

theorem examine_meters (s : State) (port part tc : Nat) :
    (examine s port part tc).shaper.meters = s.shaper.meters ∧ (examine s port part tc).now = s.now := by
  unfold examine
  dsimp only
  split
  · exact ⟨rfl, rfl⟩
  · split
    · exact ⟨rfl, rfl⟩
    · split <;> exact park_meters ..

/-- A meter whose levels are clipped to its sizes. -/
def clippedMeter (m : Meter) : Meter := { m with c := min m.c (m.cbs * 8000), p := min m.p (m.pbs * 8000) }

/-- A meter with clipped levels, brought up to date at the time it was last, is as it was. -/
theorem meterAt_clippedMeter (m : Meter) : meterAt (clippedMeter m) m.last = clippedMeter m := by
  simp [meterAt, clippedMeter]

theorem clippedMeter_meterAt (m : Meter) (now : Nat) : clippedMeter (meterAt m now) = meterAt m now := by
  simp [meterAt, clippedMeter]

theorem meterOf_writeMeter {s : State} {p tc port : Nat} {f : Meter → Meter} (keeps : ∀ m, (f m).last = m.last) :
    meterOf (writeMeter s p tc port f) p tc port = clippedMeter (f (meterOf s p tc port)) := by
  have last : (f (meterOf s p tc port)).last = s.now := keeps _
  have kept : (writeMeter s p tc port f).shaper.meters = AMap.insert s.shaper.meters (meterKey p tc port) (clippedMeter (f (meterOf s p tc port))) ∧
      (writeMeter s p tc port f).now = s.now := by
    unfold writeMeter
    dsimp only
    split
    · exact examine_meters ..
    · exact ⟨rfl, rfl⟩
  obtain ⟨meters, now⟩ := kept
  rw [meterOf, meters, now, AMap.getD_insert_self, ← last, meterAt_clippedMeter]

section
variable {s : State} {acc : Accessor} {p : Nat}

/-- What a write of TS_MTR_RATE makes of a meter. -/
def meterRate (w : Nat) (m : Meter) : Meter := { m with cir := bits w 23 0, pir := bits w 47 24 }

theorem clippedMeter_meterRate (w : Nat) (m : Meter) : clippedMeter (meterRate w m) = meterRate w (clippedMeter m) := rfl

/-- What a write of TS_MTR_CFG makes of a meter. -/
def meterCfg (w : Nat) (m : Meter) : Meter :=
  { m with enable := bit w 0, policy := bit w 1, cbs := bits w 31 8, pbs := bits w 55 32 }

/-- The meter that an accessor's TS_MTR_SEL names in partition p. -/
abbrev selectedMeter (t s : State) (acc : Accessor) (p : Nat) : Meter := meterOf t p (mtrSelOf s acc).1 (mtrSelOf s acc).2

theorem applyP_mtrRate (t : State) (acc : Accessor) (p : Nat) (w : Written) (named : (mtrSelOf t acc).1 ≠ 0) :
    applyP t acc p w .mtrRate = writeMeter t p (mtrSelOf t acc).1 (mtrSelOf t acc).2 (meterRate w.value) := if_neg named

theorem applyP_mtrCfg (t : State) (acc : Accessor) (p : Nat) (w : Written) (named : (mtrSelOf t acc).1 ≠ 0) :
    applyP t acc p w .mtrCfg = writeMeter t p (mtrSelOf t acc).1 (mtrSelOf t acc).2 (meterCfg w.value) := if_neg named

/-- A write of a meter register that reaches its page: the meter that the accessor has selected takes it. -/
theorem meterWrite_lands {off : Nat} {r : PReg} (reach : Reaches s acc (.part p) off) (aligned : off % 8 = 0) (reg : pregAt off = some r)
    (named : (mtrSelOf s acc).1 ≠ 0) {f : Nat → Meter → Meter} (applies : ∀ t acc p w, (mtrSelOf t acc).1 ≠ 0 →
      applyP t acc p w r = writeMeter t p (mtrSelOf t acc).1 (mtrSelOf t acc).2 (f w.value))
    (keeps : ∀ w m, (f w m).last = m.last) (v : W64) (free : changesStop (pfields r) (readP s acc p r) 63 0 v.toNat = false) :
    ∃ t, write8 s acc (.part p) off v.toNat = t ∧ selectedMeter t s acc p =
      clippedMeter (f (writtenBy (pfields r) (readP s acc p r) 63 0 v.toNat).value (selectedMeter s s acc p)) := by
  obtain ⟨c, run⟩ := write8_applies reach aligned reg v.isLt (.inl free)
  have sel : mtrSelOf { s with counters := c } acc = mtrSelOf s acc := rfl
  have old : selectedMeter { s with counters := c } s acc p = selectedMeter s s acc p := rfl
  rw [applies { s with counters := c } acc p _ (by rw [sel]; exact named), sel] at run
  exact ⟨_, run, (meterOf_writeMeter (keeps _)).trans (congrArg (fun m => clippedMeter (f _ m)) old)⟩

/-- What O49 says of TS_MTR_RATE. -/
theorem meterRate_lands (reach : Reaches s acc (.part p) 0x5048) (named : (mtrSelOf s acc).1 ≠ 0) (v : W64) :
    ∃ t, exec (.meterWrite acc p false v) s = .next t ∧
      (selectedMeter t s acc p).cir = bits v.toNat 23 0 ∧ (selectedMeter t s acc p).pir = bits v.toNat 47 24 ∧
      (selectedMeter t s acc p).c = (selectedMeter s s acc p).c ∧ (selectedMeter t s acc p).p = (selectedMeter s s acc p).p := by
  obtain ⟨t, run, here⟩ := meterWrite_lands reach rfl (r := .mtrRate) rfl named applyP_mtrRate (fun _ _ => rfl) v rfl
  have levels : clippedMeter (selectedMeter s s acc p) = selectedMeter s s acc p := clippedMeter_meterAt ..
  refine ⟨t, congrArg Host.Outcome.next run, ?_⟩
  rw [here, clippedMeter_meterRate, levels]
  exact ⟨bits_written .live (by simp [pfields]) ⟨nofun, nofun⟩ (by decide) ..,
    bits_written .live (by simp [pfields]) ⟨nofun, nofun⟩ (by decide) ..,
    rfl, rfl⟩

/-- What O49 says of TS_MTR_CFG. -/
theorem meterCfg_lands (reach : Reaches s acc (.part p) 0x5050) (named : (mtrSelOf s acc).1 ≠ 0) (v : W64) :
    ∃ t, exec (.meterWrite acc p true v) s = .next t ∧
      let n := selectedMeter t s acc p
      n.enable = bit v.toNat 0 ∧ n.policy = bit v.toNat 1 ∧ n.cbs = bits v.toNat 31 8 ∧ n.pbs = bits v.toNat 55 32 ∧
        n.c = min (selectedMeter s s acc p).c (n.cbs * 8000) ∧ n.p = min (selectedMeter s s acc p).p (n.pbs * 8000) := by
  obtain ⟨t, run, here⟩ := meterWrite_lands reach rfl (r := .mtrCfg) rfl named applyP_mtrCfg (fun _ _ => rfl) v rfl
  refine ⟨t, congrArg Host.Outcome.next run, ?_⟩
  rw [here]
  exact ⟨bit_written .live (by simp [pfields]) ⟨nofun, nofun⟩ (by decide) ..,
    bit_written .live (by simp [pfields]) ⟨nofun, nofun⟩ (by decide) ..,
    bits_written .live (by simp [pfields]) ⟨nofun, nofun⟩ (by decide) ..,
    bits_written .live (by simp [pfields]) ⟨nofun, nofun⟩ (by decide) ..,
    rfl, rfl⟩

end

/-! ## O49 -/

/-- What O49 says of RESUME. -/
theorem resume_ends_halt {s : State} {acc : Accessor} {p q : Nat} (hq : q < 64) (reach : Reaches s acc (.part p) (0x1010 + 64 * q)) :
    ∃ t, exec (.qResume acc p q) s = .next t ∧ (queueOf (partOf t p) q).cause = 0 ∧
      (queueOf (partOf t p) q).head = (queueOf (partOf s p) q).head ∧ (queueOf (partOf t p) q).tail = (queueOf (partOf s p) q).tail ∧
      (queueOf (partOf t p) q).issued = (queueOf (partOf s p) q).issued.map (fun i => { i with stuck := false }) ∧
      (∀ k, k ≠ q → queueOf (partOf t p) k = queueOf (partOf s p) k) ∧ DramSame s t := by
  obtain ⟨c, w, fires, run⟩ := resume_lands hq reach
  obtain ⟨cause, head, tail, issued⟩ := writeQCtrl_resumes (queueOf (partOf s p) q) fires
  refine ⟨_, run, ?_, ?_, ?_, ?_, fun k hk => queueOf_modQueue_ne _ _ hk, fun _ => rfl⟩ <;> rw [queueOf_modQueue_self]
  · exact cause
  · exact head
  · exact tail
  · exact issued

/-- Settles O49: each write goes through to `applyP` (`write8_applies`, `write4_applies`), and the fields that it covers hold what is
written (`bits_written`). -/
theorem queueRegisterWritesAct : Obligations.QueueRegisterWritesAct := by
  unfold Obligations.QueueRegisterWritesAct
  refine ⟨fun s acc p q v hq => ⟨doorbells s acc p q v hq,
      fun reach => ⟨fun stopped => ?_, fun runs other => baseWrite_refused hq runs v reach other⟩,
      fun reach stopped => ?_, resume_ends_halt hq⟩,
    fun s acc p v => ⟨fun i hi hi' reach idle => semaphore_lands hi hi' reach idle v, fun reach disabled => errqBase_lands reach disabled v,
      fun reach => bucketCfg_lands reach v, fun reach => bucketLevel_lands reach v, fun reach named => meterRate_lands reach named v,
      fun reach named => meterCfg_lands reach named v⟩⟩
  · obtain ⟨t, b, run, base, zero⟩ := (baseWrite_lands hq stopped v).1 reach
    refine ⟨t, run, ?_⟩
    rw [zero]
    exact ⟨base, rfl, rfl, rfl, rfl, rfl, rfl⟩
  · obtain ⟨t, b, run, base, zero⟩ := (baseWrite_lands hq stopped v).2 reach
    refine ⟨t, run, ?_⟩
    rw [zero]
    exact ⟨base, rfl, rfl, rfl, rfl, rfl⟩

end Sys2Proof.Machine
end

section
/-! PROOFS. The memory controllers: one access, the clearing of the counts, a sweep, a refresh slot and a sample (O56). -/

namespace Sys2Proof.Machine

open Sys2Proof.Safety

/-! ## A channel, and what an access leaves of it (R397) -/

@[simp] theorem chan_modChan_self (s : State) (c : Nat) (f : Channel → Channel) : chan (modChan s c f) c = f (chan s c) :=
  AMap.getD_insert_self ..

theorem chan_modChan_ne (s : State) {c k : Nat} (f : Channel → Channel) (h : k ≠ c) : chan (modChan s c f) k = chan s k :=
  AMap.getD_insert_ne _ _ _ h

/-- A channel with an access noted at a time. -/
def accessNoted (now : Nat) (uncorr exhausted : Bool) (x : Channel) : Channel :=
  { x with uncorr := (if uncorr then [now] else []) ++ x.uncorr.filter (fun t => decide (now < t + 1000000))
           crcRun := if exhausted then x.crcRun + 1 else 0 }

/-- An access noted writes its channel, and stops the module or does not. -/
theorem noteAccess_cases (s : State) (c : Nat) (uncorr exhausted : Bool) :
    noteAccess s c uncorr exhausted = stopModule (modChan s c (accessNoted s.now uncorr exhausted)) 1 ∨
      noteAccess s c uncorr exhausted = modChan s c (accessNoted s.now uncorr exhausted) := by
  unfold noteAccess
  exact ite_eq_or_eq ..

theorem noteAccess_mem (s : State) (c : Nat) (uncorr exhausted : Bool) :
    (noteAccess s c uncorr exhausted).mem = (modChan s c (accessNoted s.now uncorr exhausted)).mem := by
  rcases noteAccess_cases s c uncorr exhausted with stops | runs
  · rw [stops]
    rfl
  · rw [runs]

@[simp] theorem noteAccess_errors (s : State) (c : Nat) (uncorr exhausted : Bool) :
    (noteAccess s c uncorr exhausted).mem.errors = s.mem.errors := by rw [noteAccess_mem]; rfl

@[simp] theorem chan_noteAccess (s : State) (c : Nat) (uncorr exhausted : Bool) :
    chan (noteAccess s c uncorr exhausted) c = accessNoted s.now uncorr exhausted (chan s c) := by
  rw [chan, noteAccess_mem]
  exact chan_modChan_self ..

theorem stopModule_settled (s : State) (cause : Nat) : Settled s (stopModule s cause) := settled_of_eq

theorem noteAccess_settled (s : State) (c : Nat) (uncorr exhausted : Bool) : Settled s (noteAccess s c uncorr exhausted) := by
  rcases noteAccess_cases s c uncorr exhausted with stops | runs
  · rw [stops]
    exact (stopModule_settled ..).after (modChan_settled ..)
  · rw [runs]
    exact modChan_settled ..

/-- Where the memory controllers run, the sixteenth access in a row that exhausts its retries stops the module. -/
theorem noteAccess_stops {s : State} {c : Nat} (runs : mcRuns s = true) (long : 15 ≤ (chan s c).crcRun) (uncorr : Bool) :
    (noteAccess s c uncorr true).life.sy = .stopped := by
  have up : s.life.sy ≠ .stopped := fun stopped => by simp [mcRuns, ready, stopped] at runs
  unfold noteAccess
  dsimp only
  rw [chan_modChan_self, if_pos ⟨.inr (Nat.succ_le_succ long), up⟩]
  rfl

/-! ## Words without errors (R392, R393) -/

section
variable {s : State} (clean : s.mem.errors = [])
include clean

theorem decodeAt_clean (w : Nat) : decodeAt s w [] = .good := by
  have none_ : addErrors (storedErrors s w) [] = [] := by rw [storedErrors, clean]; rfl
  rw [decodeAt, none_]
  rfl

theorem countWord_clean (w : Nat) : countWord s w [] = s := by rw [countWord, decodeAt_clean clean]

theorem wordBytes_clean (w : Nat) : wordBytes s w [] = some (rawBytes s.mem w 16) := by rw [wordBytes, decodeAt_clean clean]

/-- A read of words without errors, through pins without noise, changes nothing. -/
theorem readWords_clean (u : MemUser) (addr : Nat) (ws : List Nat) : readWords s [] u addr ws = s := by
  induction ws with
  | nil => rfl
  | cons w ws ih =>
    have good : decodeAt s w (noiseOn [] w) = .good := decodeAt_clean clean w
    have counted : countWord s w (noiseOn [] w) = s := countWord_clean clean w
    simp only [readWords, good, counted, ih, reduceCtorEq, if_false]

end

/-! ## A read (R396, R397, R399) -/

theorem countRetries_mem (s : State) (c crcFails : Nat) : (countRetries s c crcFails).mem = s.mem := by
  unfold countRetries
  split <;> rfl

theorem countRetries_life (s : State) (c crcFails : Nat) : (countRetries s c crcFails).life = s.life := by
  unfold countRetries
  split <;> rfl

theorem countRetries_settled (s : State) (c crcFails : Nat) : Settled s (countRetries s c crcFails) := by
  unfold countRetries
  split
  · exact .refl s
  · exact countEv_settled ..

/-- The state with a read of a user's at an address counted, and its CRC retries. -/
def readCounted (s : State) (addr : Nat) (u : MemUser) (crcFails : Nat) : State :=
  let c := (channelOf s addr).1
  countEv (countRetries s c crcFails) (Isl.mc (c / 4)) 0x020 (some (c % 4)) (userPart s addr u)

theorem readCounted_mem (s : State) (addr : Nat) (u : MemUser) (crcFails : Nat) : (readCounted s addr u crcFails).mem = s.mem :=
  countRetries_mem ..

theorem readCounted_life (s : State) (addr : Nat) (u : MemUser) (crcFails : Nat) : (readCounted s addr u crcFails).life = s.life :=
  countRetries_life ..

theorem readCounted_settled (s : State) (addr : Nat) (u : MemUser) (crcFails : Nat) : Settled s (readCounted s addr u crcFails) :=
  (countEv_settled ..).after (countRetries_settled ..)

theorem chan_readCounted (s : State) (addr : Nat) (u : MemUser) (crcFails c : Nat) :
    chan (readCounted s addr u crcFails) c = chan s c := by rw [chan, chan, readCounted_mem]

section
variable {s : State} {addr n : Nat} {u : MemUser} (runs : mcRuns s = true)
include runs

/-- A read of words without errors is counted and noted, and does nothing else. -/
theorem cleanRead_runs (fits : accessFits s addr n u = true) (clean : s.mem.errors = []) (crcFails : Nat) :
    exec (.mcAccess addr (.read n) u [] crcFails) s =
      .next (noteAccess (readCounted s addr u crcFails) (channelOf s addr).1 false (decide (4 ≤ crcFails))) := by
  have clean' : (countRetries s (channelOf s addr).1 crcFails).mem.errors = [] := by rw [countRetries_mem, clean]
  have good : (wordsOf addr n).any (fun w =>
      decodeAt (countRetries s (channelOf s addr).1 crcFails) w (noiseOn [] w) == .uncorrectable) = false :=
    List.any_eq_false.mpr fun w _ => by
      have : decodeAt (countRetries s (channelOf s addr).1 crcFails) w (noiseOn [] w) = .good := decodeAt_clean clean' w
      rw [this]
      decide
  show execMcAccess addr (.read n) u [] crcFails s = _
  unfold execMcAccess
  dsimp only
  rw [if_neg (by simp [runs, fits]), good, readWords_clean clean']
  rfl

theorem cleanRead_keeps (fits : accessFits s addr n u = true) (clean : s.mem.errors = []) :
    ∃ t, exec (.mcAccess addr (.read n) u [] 0) s = .next t ∧ DramSame s t ∧ t.mem.errors = [] ∧
      (chan t (channelOf s addr).1).crcRun = 0 := by
  refine ⟨_, cleanRead_runs runs fits clean 0, ((noteAccess_settled ..).after (readCounted_settled ..)).dramSame, ?_, ?_⟩
  · rw [noteAccess_errors, readCounted_mem, clean]
  · rw [chan_noteAccess]
    rfl

theorem exhaustedRead_stops {crcFails : Nat} (fits : accessFits s addr n u = true) (clean : s.mem.errors = []) (exhausted : 4 ≤ crcFails)
    (long : 15 ≤ (chan s (channelOf s addr).1).crcRun) :
    ∃ t, exec (.mcAccess addr (.read n) u [] crcFails) s = .next t ∧ t.life.sy = .stopped := by
  refine ⟨_, cleanRead_runs runs fits clean crcFails, ?_⟩
  rw [decide_eq_true exhausted]
  refine noteAccess_stops ?_ (by rwa [chan_readCounted]) _
  rwa [mcRuns, ready, readCounted_life]

end

/-! ## An uncorrectable word that an engine reads (R396) -/

theorem uncorrectableAt_ledger (s : State) (a : Nat) (noise : WordError) (part : Option Nat) (ctx : Option ErrContext)
    (queue : Option Nat) : ledger (uncorrectableAt s a noise part ctx queue) = ledger s :=
  (report_ledger ..).trans ledger_eq

/-- The state in which the word at an address has been recorded as uncorrectable for the instruction w, and its read counted. -/
def badRecorded (s : State) (addr : Nat) (w : IRef) (noise : List PinNoise) : State :=
  let c := (channelOf s addr).1
  countEv (uncorrectableAt s addr (noiseOn noise addr) (some w.part) (ctxOf w) (some w.queue)) (Isl.mc (c / 4)) 0x020 (some (c % 4))
    (some w.part)

theorem badRecorded_ledger (s : State) (addr : Nat) (w : IRef) (noise : List PinNoise) :
    ledger (badRecorded s addr w noise) = ledger s := (ledger_eq (s := uncorrectableAt ..)).trans (uncorrectableAt_ledger ..)

theorem wordsOf_word {addr : Nat} (aligned : addr % 16 = 0) : wordsOf addr 16 = [addr] := by
  rw [wordsOf, if_neg (by decide), show (addr + 16 - 1) / 16 - addr / 16 + 1 = 1 by omega, List.range_one, List.map_singleton,
    show (addr / 16 + 0) * 16 = addr by omega]

section
variable {s : State} {addr : Nat} {w : IRef} {noise : List PinNoise} (runs : mcRuns s = true)
  (fits : accessFits s addr 16 (.engine w) = true) (aligned : addr % 16 = 0)
  (bad : decodeAt s addr (noiseOn noise addr) = .uncorrectable)
include runs fits aligned bad

/-- The word's error is recorded, its reader is answered, and the access is noted. -/
theorem badRead_runs : exec (.mcAccess addr (.read 16) (.engine w) noise 0) s =
    .next (noteAccess (uncorrectableRead (badRecorded s addr w noise) addr (.engine w)) (channelOf s addr).1 true false) := by
  show execMcAccess addr (.read 16) (.engine w) noise 0 s = _
  unfold execMcAccess
  dsimp only
  rw [if_neg (by simp [runs, fits]), wordsOf_word aligned]
  simp only [countRetries, if_true, List.any_cons, List.any_nil, bad, readWords]
  rfl

/-- The instruction that reads the word fails, or keeps the granule where it is an ATTEND. -/
theorem badRead_answers {i : Issued} (own : w.queue ≠ inboxQueue) (issued : issuedOf s w = some i) (open_ : i.status = none) :
    ∃ t, exec (.mcAccess addr (.read 16) (.engine w) noise 0) s = .next t ∧
      (opcodeOf i.words ≠ 0x20 → Finished t w St.uncorrectable 0 []) ∧
      (opcodeOf i.words = 0x20 → ∃ j, issuedOf t w = some j ∧ j.status = none ∧ j.bad = i.bad ++ [addr / 256]) := by
  have issued' : issuedOf (badRecorded s addr w noise) w = some i :=
    ((sameQueues_of_ledger (badRecorded_ledger ..)).issuedOf w).trans issued
  have answer : uncorrectableRead (badRecorded s addr w noise) addr (.engine w) =
      if opcodeOf i.words = 0x20 then modIssued (badRecorded s addr w noise) w (fun i => { i with bad := i.bad ++ [addr / 256] })
      else failWith (badRecorded s addr w noise) w St.uncorrectable := by
    simp [uncorrectableRead, own, issued', open_]
  refine ⟨_, badRead_runs runs fits aligned bad, fun other => ?_, fun attend => ?_⟩
  · rw [answer, if_neg other]
    exact ⟨_, ((noteAccess_settled ..).issuedOf w).trans (issuedOf_finish_self _ _ _ issued' open_), rfl, rfl, rfl⟩
  · rw [answer, if_pos attend]
    refine ⟨_, ((noteAccess_settled ..).issuedOf w).trans (issuedOf_modIssued_self (fun _ => rfl) issued'), ?_⟩
    rw [changeIssued_open (by exact open_)]
    exact ⟨open_, rfl⟩

/-- The attend request that is served from the inbox keeps the granule. -/
theorem badRead_inbox (inbox : w.queue = inboxQueue) (served : (partOf s w.part).attendInbox ≠ []) :
    ∃ t, exec (.mcAccess addr (.read 16) (.engine w) noise 0) s = .next t ∧
      (partOf t w.part).inboxBad = (partOf s w.part).inboxBad ++ [addr / 256] := by
  have requests := part_of_ledger (badRecorded_ledger s addr w noise) (π := Part.attendInbox) (fun _ => rfl) w.part
  have granules := part_of_ledger (badRecorded_ledger s addr w noise) (π := Part.inboxBad) (fun _ => rfl) w.part
  refine ⟨_, badRead_runs runs fits aligned bad, ?_⟩
  rw [(noteAccess_settled ..).partOf, ← granules]
  simp [uncorrectableRead, inbox, requests, served]

end

/-! ## Bytes read back (R209, R395) -/

/-- Bytes read from an address are the bytes that stand there. -/
theorem rawBytes_eq {m : Mem} {a : Nat} {bs : List Byte} (h : ∀ i (hi : i < bs.length), rawByte m (a + i) = bs[i]) :
    rawBytes m a bs.length = bs := by
  refine List.ext_getElem (length_rawBytes ..) fun i h1 hi => ?_
  unfold rawBytes at h1 ⊢
  rw [← h i hi]
  split
  · next defined =>
    rw [List.isEmpty_iff] at defined
    simp [memGetN, rawByte, defined]
  · simp

/-- No region that is left undefined holds a byte of those written. -/
theorem putRaw_defines (m : Mem) {a x : Nat} {bs : List Byte} (lo : a ≤ x) (hi : x < a + bs.length) :
    (putRaw m a bs).undef.find? (fun u => decide (u.start ≤ x ∧ x < u.start + u.len)) = none := by
  refine List.find?_eq_none.mpr fun v hv => ?_
  obtain ⟨l, hl, hv⟩ := List.mem_flatten.mp hv
  obtain ⟨u, -, rfl⟩ := List.mem_map.mp hl
  rw [decide_eq_true_iff]
  unfold carve at hv
  split at hv
  · rw [List.mem_singleton.mp hv]
    omega
  · rcases List.mem_append.mp hv with below | above
    · split at below
      · rw [List.mem_singleton.mp below]
        dsimp only
        omega
      · cases below
    · split at above
      · rw [List.mem_singleton.mp above]
        dsimp only
        omega
      · cases above

theorem rawBytes_putRaw {m : Mem} (h : memWf m.dram = true) (a : Nat) (bs : List Byte) :
    rawBytes (putRaw m a bs) a bs.length = bs := by
  refine rawBytes_eq fun i hi => ?_
  rw [rawByte, putRaw_defines m (Nat.le_add_right ..) (Nat.add_lt_add_left hi a)]
  exact memGet_putN_in h a bs hi

/-! ## A write (R395) -/

/-- The bytes of a write at an address that fall into the word w. -/
def wordPart (addr : Nat) (bs : List Byte) (w : Nat) : List Byte :=
  (bs.drop (max addr w - addr)).take (min (addr + bs.length) (w + 16) - max addr w)

theorem length_wordPart (addr : Nat) (bs : List Byte) (w : Nat) :
    (wordPart addr bs w).length = min (addr + bs.length) (w + 16) - max addr w := by
  simp only [wordPart, List.length_take, List.length_drop]
  omega

/-- A memory with the parts of a write that fall into some words. -/
def putParts (addr : Nat) (bs : List Byte) (ws : List Nat) (m : Memory) : Memory :=
  ws.foldl (fun m w => memPutN m (max addr w) (wordPart addr bs w)) m

theorem memWf_putParts (addr : Nat) (bs : List Byte) (ws : List Nat) {m : Memory} (h : memWf m = true) :
    memWf (putParts addr bs ws m) = true := by
  induction ws generalizing m with
  | nil => exact h
  | cons w ws ih => exact ih (memWf_putN h ..)

/-- A byte that the write does not cover reads as before. -/
theorem memGet_putParts_out {addr x : Nat} {bs : List Byte} (out : x < addr ∨ addr + bs.length ≤ x) (ws : List Nat) (m : Memory) :
    memGet (putParts addr bs ws m) x = memGet m x := by
  induction ws generalizing m with
  | nil => rfl
  | cons w ws ih =>
    refine (ih _).trans (memGet_putN_out _ _ _ ?_)
    rw [length_wordPart]
    omega

/-- A byte that stands already, or that falls into one of the words, stands once they are written. -/
theorem memGet_putParts_in {addr i : Nat} {bs : List Byte} (hi : i < bs.length) {ws : List Nat} {m : Memory} (h : memWf m = true)
    (covered : memGet m (addr + i) = bs[i] ∨ ∃ w ∈ ws, w ≤ addr + i ∧ addr + i < w + 16) :
    memGet (putParts addr bs ws m) (addr + i) = bs[i] := by
  induction ws generalizing m with
  | nil => simpa [putParts] using covered
  | cons w ws ih =>
    refine ih (memWf_putN h ..) ?_
    by_cases here : w ≤ addr + i ∧ addr + i < w + 16
    · left
      have inside : addr + i - max addr w < (wordPart addr bs w).length := by rw [length_wordPart]; omega
      have place : addr + i = max addr w + (addr + i - max addr w) := by omega
      rw [place, memGet_putN_in h _ _ inside]
      simp only [wordPart, List.getElem_take, List.getElem_drop]
      congr 1
      omega
    · rw [memGet_putN_out _ _ _ (by rw [length_wordPart]; omega)]
      refine covered.imp_right fun ⟨v, hv, lo, hi⟩ => ?_
      rcases List.mem_cons.mp hv with rfl | later
      · exact absurd ⟨lo, hi⟩ here
      · exact ⟨v, later, lo, hi⟩

/-- The word of a byte that n bytes at an address cover is one of theirs. -/
theorem word_mem_wordsOf {addr n x : Nat} (lo : addr ≤ x) (hi : x < addr + n) : x / 16 * 16 ∈ wordsOf addr n := by
  rw [wordsOf, if_neg (by omega), List.mem_map]
  refine ⟨x / 16 - addr / 16, List.mem_range.mpr ?_, ?_⟩ <;> omega

/-- A part of a word, or a whole one, written to good memory changes its bytes alone. -/
theorem writeWord_good {s : State} (h : GoodMemory s) (w off : Nat) (bs : List Byte) (whole : bs.length = 16 → off = 0) :
    writeWord s w off bs = ({ s with mem := { s.mem with dram := memPutN s.mem.dram (w + off) bs } }, true) := by
  obtain ⟨-, clean, disarmed, defined⟩ := h
  unfold writeWord
  split
  · next full => simp [storeWord, putRaw, whole full, clean, disarmed, defined, AMap.erase]
  · have none_ : (storedErrors s w).isEmpty = true := by rw [storedErrors, clean]; rfl
    simp [wordBytes_clean clean, countWord_clean clean, none_, putRaw, clean, defined, AMap.erase]

/-- The words of a write to good memory each take their part, and nothing else changes. -/
theorem writeWords_good {u : MemUser} (shared : privateUser u = false) (addr : Nat) (bs : List Byte) (ws : List Nat) {s : State}
    (h : GoodMemory s) : writeWords [] false u addr bs ws s =
      ({ s with mem := { s.mem with dram := putParts addr bs ws s.mem.dram } }, true) := by
  induction ws generalizing s with
  | nil => rfl
  | cons w ws ih =>
    have taken := writeWord_good h w (max addr w - w) (wordPart addr bs w) (by rw [length_wordPart]; omega)
    rw [show w + (max addr w - w) = max addr w by omega] at taken
    have rest := ih (s := { s with mem := { s.mem with dram := memPutN s.mem.dram (max addr w) (wordPart addr bs w) } })
      (goodMemory_dram h (memWf_putN h.1 ..) _)
    rw [writeWords]
    simp only [readWords_clean h.2.1, ite_self, shared, Bool.false_eq_true, if_false, false_and]
    rw [← wordPart, taken]
    simp only [rest]
    rfl

/-- The state in which a write to good memory stands and is counted. -/
def writeCounted (s : State) (addr : Nat) (bs : List Byte) (u : MemUser) : State :=
  let c := (channelOf s addr).1
  countEv { s with mem := { s.mem with dram := putParts addr bs (wordsOf addr bs.length) s.mem.dram } } (Isl.mc (c / 4)) 0x021 (some (c % 4))
    (userPart s addr u)

theorem goodWrite_runs {s : State} {addr : Nat} {bs : List Byte} {u : MemUser} (runs : mcRuns s = true)
    (fits : accessFits s addr bs.length u = true) (shared : privateUser u = false) (h : GoodMemory s) :
    exec (.mcAccess addr (.write bs) u [] 0) s =
      .next (noteAccess (writeCounted s addr bs u) (channelOf s addr).1 false false) := by
  show execMcAccess addr (.write bs) u [] 0 s = _
  unfold execMcAccess
  dsimp only
  rw [if_neg (by simp [runs, fits])]
  simp only [countRetries, if_true, show decide (4 ≤ 0) = false from rfl, writeWords_good shared _ _ _ h]
  rfl

theorem goodWrite_stores {s : State} {addr : Nat} {bs : List Byte} {u : MemUser} (runs : mcRuns s = true)
    (fits : accessFits s addr bs.length u = true) (shared : privateUser u = false) (h : GoodMemory s) :
    ∃ t, exec (.mcAccess addr (.write bs) u [] 0) s = .next t ∧ Stored s t addr bs := by
  have good : GoodMemory (writeCounted s addr bs u) := ⟨memWf_putParts _ _ _ h.1, h.2⟩
  have noted := (noteAccess_settled (writeCounted s addr bs u) (channelOf s addr).1 false false).dramSame
  refine ⟨_, goodWrite_runs runs fits shared h, ?_, fun x out => ?_⟩
  · refine rawBytes_eq fun i hi => ?_
    rw [noted, rawByte_good good]
    exact memGet_putParts_in hi h.1 (.inr ⟨_, word_mem_wordsOf (Nat.le_add_right ..) (Nat.add_lt_add_left hi addr), by omega, by omega⟩)
  · rw [noted, rawByte_good good, rawByte_good h]
    exact memGet_putParts_out out ..

/-! ## The counts, a refresh slot and a sample (R238, R394, R401) -/

/-- Channels changed one after another are each changed once. -/
theorem chan_foldl_modChan (f : Nat → Channel → Channel) (s : State) (n c : Nat) :
    chan ((List.range n).foldl (fun s c => modChan s c (f c)) s) c = if c < n then f c (chan s c) else chan s c := by
  induction n with
  | zero => rfl
  | succ n ih =>
    rw [List.range_succ, List.foldl_append, List.foldl_cons, List.foldl_nil]
    by_cases last : c = n
    · subst last
      rw [chan_modChan_self, ih, if_neg (Nat.lt_irrefl _), if_pos (Nat.lt_succ_self _)]
    · rw [chan_modChan_ne _ _ last, ih]
      simp only [show c < n + 1 ↔ c < n by omega]

section
variable {s : State} (runs : mcRuns s = true)
include runs

theorem correctionCountClear_clears :
    ∃ t, exec .correctionCountClear s = .next t ∧ (∀ c, (chan t c).counts = []) ∧ DramSame s t := by
  refine ⟨_, if_pos runs, fun c => ?_, Settled.dramSame settled_of_eq⟩
  have cleared := find?_mapValues s.mem.channels (fun x => { x with counts := [] }) c
  unfold chan AMap.getD
  dsimp only
  rw [cleared]
  cases AMap.find? s.mem.channels c <;> rfl

theorem refreshSlot_counts {c : Nat} (hc : c < 24) :
    ∃ t, exec (.refreshSlot c) s = .next t ∧ (chan t c).slots = (chan s c).slots + 1 ∧ (chan t c).hot = (chan s c).hotNext := by
  refine ⟨_, if_pos (by simp [runs, hc]), ?_⟩
  have slot := chan_modChan_self s c (fun x => { x with slots := x.slots + 1, hot := x.hotNext })
  exact ⟨congrArg Channel.slots slot, congrArg Channel.hot slot⟩

theorem dramTempSample_plans (temps : List Nat) : ∃ t, exec (.dramTempSample temps) s = .next t ∧ ∀ c, c < 24 →
    (chan t c).hotNext = hotPlan (chan s c).hotNext (temps.getD (2 * c) 0) (temps.getD (2 * c + 1) 0) := by
  refine ⟨_, if_pos runs, fun c hc => ?_⟩
  have sampled := chan_foldl_modChan
    (fun c x => { x with hotNext := hotPlan x.hotNext (temps.getD (2 * c) 0) (temps.getD (2 * c + 1) 0) }) s 24 c
  rw [if_pos hc] at sampled
  exact congrArg Channel.hotNext sampled

end

/-! ## A sweep (R398) -/

theorem foldl_keeps {α β : Type} (π : State → β) {f : State → α → State} (h : ∀ s a, π (f s a) = π s) (l : List α) (s : State) :
    π (l.foldl f s) = π s := by
  induction l generalizing s with
  | nil => rfl
  | cons a l ih => rw [List.foldl_cons, ih, h]

theorem raisePfs_mem (s : State) (vector : Nat) : (raisePfs s vector).mem = s.mem :=
  foldl_keeps State.mem (f := fun s g => emitOut s (.msix g none vector)) (fun _ _ => rfl) _ s

theorem errToLog_mem (s : State) (r : ErrRec) : (errToLog s r).1.mem = s.mem := by
  unfold errToLog
  dsimp only
  rw [countEv_mem, raisePfs_mem]
  split <;> rfl

theorem logService_mem (s : State) (etype : Nat) (body : List Byte) : (logService s etype body).mem = s.mem := by
  unfold logService
  dsimp only
  split <;> rfl

theorem countCorrection_errors (s : State) (c pin : Nat) : (countCorrection s c pin).mem.errors = s.mem.errors := by
  unfold countCorrection
  dsimp only
  split
  · rfl
  · split
    · rw [logSpare, logService_mem]
      rfl
    · split
      · rfl
      · rw [errToLog_mem]
        rfl

theorem countWord_errors (s : State) (a : Nat) (noise : WordError) : (countWord s a noise).mem.errors = s.mem.errors := by
  unfold countWord
  split
  · exact foldl_keeps (fun s => s.mem.errors) (fun _ _ => countCorrection_errors ..) _ s
  · rfl

/-- A channel whose sweep goes on to the next granule, or has ended its pass. -/
def sweptOn (x : Channel) : Channel :=
  match nextScrub x.scrubPos with
  | some n => { x with scrubPos := n }
  | none => { x with scrubPos := 0, passes := x.passes + 1 }

theorem sweptOn_scrubPos (x : Channel) : (sweptOn x).scrubPos = (nextScrub x.scrubPos).getD 0 := by
  unfold sweptOn
  cases nextScrub x.scrubPos <;> rfl

theorem sweptOn_passes {x : Channel} (last : nextScrub x.scrubPos = none) : (sweptOn x).passes = x.passes + 1 := by
  rw [sweptOn, last]

section
variable {s : State} {c : Nat} (up : ready s = true) (hc : c < 24) (within : 0 < (chan s c).scrubPos)

include up hc within in
/-- Within a pass the words of the granule that hold errors are swept, the sweep goes on, and the access is noted. -/
theorem scrubGranule_runs : ∃ bad, exec (.scrubGranule c []) s = .next (noteAccess
    (modChan ((scrubWords s c (chan s c).scrubPos []).foldl (fun s w => scrubWord s [] w) s) c sweptOn) c bad false) := by
  refine ⟨(scrubWords s c (chan s c).scrubPos []).any (fun w => decodeAt s w (noiseOn [] w) == .uncorrectable), ?_⟩
  show execScrubGranule c [] s = _
  unfold execScrubGranule
  rw [if_neg (by simp [up]; omega), if_neg within.ne']
  dsimp only
  rw [if_neg (by omega)]
  rfl

include up hc within in
theorem scrubGranule_clean (clean : s.mem.errors = []) : ∃ t, exec (.scrubGranule c []) s = .next t ∧ DramSame s t ∧
    (chan t c).scrubPos = (nextScrub (chan s c).scrubPos).getD 0 ∧
    (nextScrub (chan s c).scrubPos = none → (chan t c).passes = (chan s c).passes + 1) := by
  obtain ⟨bad, run⟩ := scrubGranule_runs up hc within
  have none_ : scrubWords s c (chan s c).scrubPos [] = [] := by rw [scrubWords, clean]; rfl
  rw [none_, List.foldl_nil] at run
  refine ⟨_, run, ((noteAccess_settled ..).after (modChan_settled ..)).dramSame, ?_, fun last => ?_⟩ <;>
    rw [chan_noteAccess, chan_modChan_self]
  · exact sweptOn_scrubPos _
  · exact sweptOn_passes last

/-- The one word with errors is swept where its granule is the sweep's next. -/
theorem scrubWords_single {w : Nat} {es : WordError} (aligned : w % 16 = 0) (single : s.mem.errors = [(w / 16, es)])
    (here : channelOf s w = (c, (channelOf s w).2)) (next_ : (channelOf s w).2 / 256 = (chan s c).scrubPos) :
    scrubWords s c (chan s c).scrubPos [] = [w] := by
  have word : 16 * (w / 16) = w := by omega
  have swept : (decide (w % 16 = 0) && channelOf s w == (c, (channelOf s w).2) && (channelOf s w).2 / 256 == (chan s c).scrubPos) = true := by
    simp [aligned, ← here, next_]
  rw [scrubWords, single]
  simp [AMap.keys, word, List.eraseDups_cons, swept]

/-- A correctable word is written back corrected. -/
theorem scrubWord_corrected {w : Nat} {fix : List (Nat × Nat)} {bs : List Byte} (corrected : decodeAt s w [] = .corrected fix)
    (delivers : wordBytes s w [] = some bs) (wf : memWf s.mem.dram = true) :
    (scrubWord s [] w).mem.errors = AMap.erase s.mem.errors (w / 16) ∧ rawBytes (scrubWord s [] w).mem w bs.length = bs := by
  have written : scrubWord s [] w = { countWord s w [] with mem := { putRaw (countWord s w []).mem w bs with
      errors := AMap.erase (countWord s w []).mem.errors (w / 16) } } := by
    unfold scrubWord
    simp only [show noiseOn [] w = [] from rfl, corrected, delivers]
    rfl
  rw [written, ← countWord_errors s w []]
  refine ⟨rfl, rawBytes_putRaw (m := (countWord s w []).mem) ?_ w bs⟩
  rwa [(countWord_settled s w []).dram]

include up hc within in
theorem scrubGranule_corrects {w : Nat} {es : WordError} {fix : List (Nat × Nat)} {bs : List Byte} (aligned : w % 16 = 0)
    (single : s.mem.errors = [(w / 16, es)]) (here : channelOf s w = (c, (channelOf s w).2))
    (next_ : (channelOf s w).2 / 256 = (chan s c).scrubPos) (corrected : decodeAt s w [] = .corrected fix)
    (delivers : wordBytes s w [] = some bs) (wf : memWf s.mem.dram = true) :
    ∃ t, exec (.scrubGranule c []) s = .next t ∧ t.mem.errors = [] ∧ rawBytes t.mem w bs.length = bs := by
  obtain ⟨bad, run⟩ := scrubGranule_runs up hc within
  rw [scrubWords_single aligned single here next_, List.foldl_cons, List.foldl_nil] at run
  obtain ⟨erased, stored⟩ := scrubWord_corrected corrected delivers wf
  refine ⟨_, run, ?_, ?_⟩
  · rw [noteAccess_errors]
    exact erased.trans (by simp [single, AMap.erase])
  · rw [noteAccess_mem]
    exact stored

end

/-! ## O56 -/

/-- Settles O56, command by command: good words leave memory as it is, a write's parts put its bytes together, and a word with
errors is answered to its reader or written back. -/
theorem memoryControllersServe : Obligations.MemoryControllersServe := by
  unfold Obligations.MemoryControllersServe
  intro s on
  have runs : mcRuns s = true := by simpa [mcRuns] using on
  exact ⟨fun _ _ _ => goodWrite_stores runs, fun _ _ _ => cleanRead_keeps runs,
    fun _ _ _ fits aligned bad => ⟨fun _ => badRead_answers runs fits aligned bad, badRead_inbox runs fits aligned bad⟩,
    fun _ _ _ _ => exhaustedRead_stops runs,
    correctionCountClear_clears runs,
    fun _ hc up => ⟨fun clean within => scrubGranule_clean up hc within clean,
      fun _ _ _ _ aligned single within => scrubGranule_corrects up hc within aligned single⟩,
    fun _ => refreshSlot_counts runs, dramTempSample_plans runs⟩

end Sys2Proof.Machine
end

section
/-! PROOFS. The Transcoder group: XSET, XSTAT and EXPAND (O35). -/

namespace Sys2Proof.Machine

open Sys2Proof.Safety

/-! ## XSET (R219, R246, R254) -/

section
variable {s : State} {w : IRef} {i : Issued} {image : List Byte}

theorem xset_stream (h : Working s w 0x40 i) (read : devRead s (addrB i.words) 64 = some image)
    (stream : bits (opA i.words) 15 8 < 0x80) :
    exec (.xset w) s = .next (if streamRecordOk (bits (opA i.words) 4 0) (streamOfImage w.part image)
      then finish s w St.ok 0 [.setStream (bits (opA i.words) 4 0) (bits (opA i.words) 15 8) image]
      else finish s w St.badOperand 0) := by
  refine (withInstr_working h).trans ?_
  dsimp only
  rw [read]
  exact congrArg _ (if_pos stream)

theorem xset_badContext (h : Working s w 0x40 i) (read : devRead s (addrB i.words) 64 = some image)
    (context : 0x80 ≤ bits (opA i.words) 15 8) (bad : rctxRecordOk (rctxOfImage image) = false) :
    exec (.xset w) s = .next (finish s w St.badOperand 0) := by
  refine (withInstr_working h).trans ?_
  dsimp only
  rw [read]
  dsimp only
  rw [if_neg (Nat.not_lt.mpr context), bad]
  rfl

theorem xset_context (h : Working s w 0x40 i) (read : devRead s (addrB i.words) 64 = some image)
    (context : 0x80 ≤ bits (opA i.words) 15 8) (ok : rctxRecordOk (rctxOfImage image) = true)
    (reach : ∀ r ∈ rctxRegions (rctxOfImage image), mayAccess s w.part r.1 r.2 = true) :
    exec (.xset w) s = .next (finish s w St.ok 0 [.setReduce (bits (opA i.words) 15 8 - 0x80) image]) := by
  have inside : (rctxRegions (rctxOfImage image)).find? (fun r => !mayAccess s w.part r.1 r.2) = none :=
    List.find?_eq_none.mpr fun r hr => by simp [reach r hr]
  refine (withInstr_working h).trans ?_
  dsimp only
  rw [read]
  dsimp only
  rw [if_neg (Nat.not_lt.mpr context), ok, inside]
  rfl

end

/-- The commits of XSET: the settings stand as the record has them, with counters of 0 (R246, R254, R260). -/
theorem xset_commits (s : State) (p port n : Nat) (image : List Byte) :
    streamOf (setStream s p port n image) port n = streamOfImage p image ∧ (streamOfImage p image).total = 0 ∧
    (streamOfImage p image).clipped = 0 ∧ (streamOfImage p image).nanBlocks = 0 ∧
    rctxOf (setReduce s p n image) p n = rctxOfImage image ∧ (rctxOfImage image).total = 0 :=
  ⟨streamOf_modStream_self .., rfl, rfl, rfl, rctxOf_modRctx_self .., rfl⟩

/-! ## XSTAT at its commit (R260) -/

theorem devPut_logs (s : State) (a : Nat) (bs : List Byte) : Logs s (devPut s a bs) := devWrite_logs s a bs

theorem devPut_alike (s : State) (a : Nat) (bs : List Byte) : Alike s (devPut s a bs) := devWrite_alike s a bs

/-- A write to device memory leaves every counter of the transcoder as it is. -/
theorem statsOf_devPut (s : State) (a : Nat) (bs : List Byte) (p port stream : Nat) :
    statsOf (devPut s a bs) p port stream = statsOf s p port stream := by
  have streams : (devPut s a bs).streams = s.streams := by
    obtain ⟨_, _, _, _, _, _, _, e⟩ := devPut_logs s a bs
    rw [e]
  simp only [statsOf, streamOf, streams, rctxOf_of_standing (devPut_alike s a bs).standing]

theorem statsOf_clearStats (s : State) (p port stream : Nat) : statsOf (clearStats s p port stream) p port stream = (0, 0, 0) := by
  unfold statsOf clearStats
  split <;> simp

theorem readStats_counters (s : State) (p port stream addr : Nat) (clear : Bool) :
    (readStats s p port stream addr clear).2 = clipShare (statsOf s p port stream).1 (statsOf s p port stream).2.1 ∧
    (clear = true → statsOf (readStats s p port stream addr clear).1 p port stream = (0, 0, 0)) ∧
    (clear = false → statsOf (readStats s p port stream addr clear).1 p port stream = statsOf s p port stream) := by
  refine ⟨rfl, fun cleared => ?_, fun kept => ?_⟩
  · rw [cleared]
    exact statsOf_clearStats ..
  · rw [kept]
    exact statsOf_devPut ..

/-! ## The STOREs of an EXPAND (R265) -/

theorem storePieces_ne_nil {fuel off : Nat} {bs : List Byte} (some_ : bs ≠ []) : storePieces (fuel + 1) off bs ≠ [] := by
  have full : ¬ bs.isEmpty = true := by simpa using some_
  rw [storePieces, if_neg full]
  exact List.cons_ne_nil _ _

section
variable {s t : State} {w : IRef} {op target : Nat} {ps : List (Nat × Nat)}

/-- Launches for a list, each of its members launching its own piece, in order. -/
theorem foldl_launches_map {α : Type} {f : State → α → State} {piece : α → Nat × Nat}
    (h : ∀ s a, Clear w target s → Launches w op target [piece a] s (f s a)) (l : List α) :
    ∀ s, Clear w target s → Launches w op target (l.map piece) s (l.foldl f s) := by
  induction l with
  | nil => exact fun s _ => .refl s
  | cons a l ih => exact fun s c => (h s a c).trans (ih _ ((h s a c).clear c))

/-- What an instruction has launched is not answered yet. -/
theorem Launches.pending (h : Launches w op target ps s t) (some_ : ps ≠ []) : fabricPending t w = true := by
  obtain ⟨ts, txns, pieces, own⟩ := h.sent
  obtain ⟨x, xs, e⟩ := List.exists_cons_of_ne_nil (l := ts) fun none_ => some_ (by rw [← pieces, none_]; rfl)
  have mine : x.w = some w := (own x (by simp [e])).1
  exact Bool.or_eq_true_iff.mpr (.inl (List.any_eq_true.mpr ⟨x, by simp [txns, e], by simp [mine]⟩))

theorem Launches.issuedOf (h : Launches w op target ps s t) (v : IRef) : issuedOf t v = issuedOf s v := by
  obtain ⟨_, _, _, _, e⟩ := h.rest
  rw [e]
  rfl

theorem Launches.dramSame (h : Launches w op target ps s t) : DramSame s t := by
  obtain ⟨_, _, _, _, e⟩ := h.rest
  rw [e]
  exact fun _ => rfl

/-- An instruction that has launched something and is changed stays open, whatever the change makes of it besides. -/
theorem closeFabric_launched {i : Issued} {f : Issued → Issued} (h : Launches w op target ps s t) (some_ : ps ≠ [])
    (hf : ∀ i, (f i).idx = i.idx) (issued : issuedOf s w = some i) (open_ : (f i).status = none) :
    issuedOf (closeFabric (modIssued t w f) w) w = some (f i) ∧ Launched s (closeFabric (modIssued t w f) w) w op target ps ∧
      DramSame s (closeFabric (modIssued t w f) w) := by
  have waits : closeFabric (modIssued t w f) w = modIssued t w f := if_pos (h.pending some_)
  rw [waits, issuedOf_modIssued_self hf ((h.issuedOf w).trans issued), changeIssued_open open_]
  exact ⟨rfl, h.sent, h.dramSame⟩

theorem sendStore_launches (c : Clear w target s) (tc off : Nat) (bs : List Byte) :
    Launches w 2 target [(off, bs.length)] s (sendStore s w tc target off bs) := by
  have own : Owned w 2 target { tag := 0, w := some w, op := 2, target := target, addr := off, len := bs.length, part := w.part, tc := tc } :=
    ⟨rfl, rfl, rfl, rfl, rfl⟩
  unfold sendStore
  dsimp only
  split <;> exact sendTxn_launches own c _

end

/-! ## EXPAND (R219, R264, R265) -/

section
variable {s : State} {w : IRef} {i : Issued} {h bs : List Byte}

theorem expand_badHeader (work : Working s w 0x42 i) (fresh : i.started = false) (len : 64 ≤ bits (opA i.words) 31 0)
    (read : devRead s (addrB i.words) 64 = some h) (bad : imageHeader h = none) :
    exec (.expand w) s = .next (finish s w St.badFormat 0) := by
  refine (withInstr_working work).trans (congrArg _ ((if_neg (by simp [fresh])).trans ((if_neg (Nat.not_lt.mpr len)).trans ?_)))
  rw [read]
  dsimp only
  rw [bad]
  rfl

/-- The STOREs of an EXPAND of bytes from an offset of a target on. -/
def expandSent (s : State) (w : IRef) (target off : Nat) (bs : List Byte) : State :=
  (storePieces (bs.length + 1) off bs).foldl (fun s e => sendStore s w 5 target e.1 e.2) s

theorem expandSent_launches {target : Nat} (c : Clear w target s) (off : Nat) (bs : List Byte) :
    Launches w 2 target ((storePieces (bs.length + 1) off bs).map (fun e => (e.1, e.2.length))) s (expandSent s w target off bs) :=
  foldl_launches_map (fun _ _ c => sendStore_launches c ..) _ s c

/-- An EXPAND whose STOREs are sent. -/
def expandStarted (now n : Nat) (i : Issued) : Issued := { i with started := true, sentAt := now, result := n }

theorem expand_whole {width nchunk : Nat} (work : Working s w 0x42 i) (fresh : i.started = false) (len : 64 ≤ bits (opA i.words) 31 0)
    (read : devRead s (addrB i.words) 64 = some h) (header : imageHeader h = some (width, bits (extHi i.words 1) 31 0, nchunk))
    (fits : 0x40 + 4 * nchunk ≤ bits (opA i.words) 31 0)
    (whole : imageChunks s (addrB i.words) (bits (opA i.words) 31 0) width (bits (extHi i.words 1) 31 0) 0 nchunk = .ok bs) :
    exec (.expand w) s = .next (if bits (extLo i.words 1) 57 48 = (me s).2
      then finish s w St.ok (bits (extHi i.words 1) 31 0) [.devWrite (extAddr i.words 1) bs]
      else closeFabric (modIssued (expandSent s w (bits (extLo i.words 1) 57 48) (extAddr i.words 1) bs) w
        (expandStarted s.now (bits (extHi i.words 1) 31 0))) w) := by
  refine (withInstr_working work).trans (congrArg _ ((if_neg (by simp [fresh])).trans ((if_neg (Nat.not_lt.mpr len)).trans ?_)))
  rw [read]
  dsimp only
  rw [header]
  dsimp only
  rw [if_neg (by simp [Nat.not_lt.mpr fits]), whole]
  rfl

end

/-- Settles O35: each instruction ends by its first check that fails, or leaves its work; what EXPAND sends elsewhere it launches
piece by piece. -/
theorem transcoderInstructionsEnd : Obligations.TranscoderInstructionsEnd := by
  refine ⟨fun s w i image work read => ⟨fun stream => ⟨fun ok => ?_, fun bad => ?_⟩,
      fun context => ⟨xset_context work read context, xset_badContext work read context⟩⟩,
    xset_commits, fun _ _ _ work => withInstr_working work, readStats_counters, ?_⟩
  · rw [xset_stream work read stream, if_pos ok]
  · rw [xset_stream work read stream, if_neg (by simp [bad])]
  · intro s w i h work fresh img len off target some_ read
    refine ⟨expand_badHeader work fresh some_ read, fun width nchunk bs header fits whole some_bytes => ?_⟩
    have run := expand_whole work fresh some_ read header fits whole
    refine ⟨fun here => run.trans (congrArg _ (if_pos here)), fun away path free held => ?_⟩
    obtain ⟨-, issued, open_, -⟩ := id work
    exact ⟨_, run.trans (congrArg _ (if_neg away)), closeFabric_launched (expandSent_launches ⟨path, free, held⟩ off bs)
      (by simpa using storePieces_ne_nil some_bytes) (fun _ => rfl) issued open_⟩

end Sys2Proof.Machine
end

section
/-! PROOFS. Poltex at a near port: frames that wait, responses, and packets taken in (O39). -/

namespace Sys2Proof.Machine

open Sys2Proof.Safety

/-! ## Frames that wait at a port (R308, R309, R319) -/

/-- What waits at a port, oldest first. -/
def waiting (s : State) (port : Nat) : List Out := (tsPort s port).frames.map (·.frame.what)

theorem waits_iff {s : State} {port : Nat} {o : Out} : Waits s port o ↔ o ∈ waiting s port := by simp [Waits, waiting]

theorem waiting_modTs {s : State} {port : Nat} {f : TsPort → TsPort}
    (h : (f (tsPort s port)).frames.map (·.frame.what) = (tsPort s port).frames.map (·.frame.what)) :
    waiting (modTs s port f) port = waiting s port := by
  rw [waiting, waiting, tsPort_modTs_self, h]

/-- A pass over frames that copies each, stamped or not, leaves what they carry as it is. -/
theorem foldl_frames {g : List QFrame × Bool → QFrame → List QFrame × Bool}
    (copies : ∀ a q, (g a q).1.map (·.frame.what) = a.1.map (·.frame.what) ++ [q.frame.what]) (l : List QFrame) :
    ∀ a, (l.foldl g a).1.map (·.frame.what) = a.1.map (·.frame.what) ++ l.map (·.frame.what) := by
  induction l with
  | nil => simp
  | cons q l ih => exact fun a => by simp [ih, copies]

theorem waiting_stampHead (s : State) (port : Nat) (l : Leaf) : waiting (stampHead s port l) port = waiting s port := by
  unfold stampHead
  dsimp only
  split
  · rfl
  · split
    · rfl
    · exact waiting_modTs (foldl_frames (fun a q => by split <;> simp) _ _)

theorem waiting_park (s : State) (port part tc : Nat) (k : Parked) : waiting (park s port part tc k) port = waiting s port := by
  cases k <;> simp [park, waiting, tsPort, modTs]

theorem waiting_examine (s : State) (port part tc : Nat) : waiting (examine s port part tc) port = waiting s port := by
  unfold examine
  dsimp only
  split
  · exact waiting_modTs rfl
  · split
    · exact waiting_modTs rfl
    · split <;> exact (waiting_park ..).trans (waiting_modTs rfl)

theorem waiting_enqueueFrame (s : State) (port part tc : Nat) (req : Option Nat) (f : TxFrame) :
    waiting (enqueueFrame s port part tc req f) port = waiting s port ++ [f.what] := by
  have queued : ∀ q : QFrame, waiting (modTs s port (fun t => { t with frames := t.frames ++ [q] })) port = waiting s port ++ [q.frame.what] :=
    fun q => by simp [waiting]
  unfold enqueueFrame
  dsimp only
  split
  · rw [waiting_stampHead, queued]
  · rw [waiting_examine, waiting_stampHead, queued]

/-! ## Responses (R36, R346) -/

/-- The response to a packet, as the module s answers it. -/
def answerTo (s : State) (k : Packet) (part op status : Nat) (payload : List Byte) : Out :=
  .packet { ownPacket s part op k.tc k.src k.tag status payload.length payload with port := k.port }

/-- Responses of t name the module and the epochs of its partitions as those of s do (R335). -/
structure SameVoice (s t : State) : Prop where
  comp  : t.comp = s.comp
  epoch : ∀ p, (partOf t p).epoch = (partOf s p).epoch

theorem SameVoice.trans {s t u : State} (h : SameVoice s t) (k : SameVoice t u) : SameVoice s u :=
  ⟨k.comp.trans h.comp, fun p => (k.epoch p).trans (h.epoch p)⟩

theorem Settled.sameVoice {s t : State} (h : Settled s t) (comp : t.comp = s.comp) : SameVoice s t := ⟨comp, fun p => by rw [h.partOf]⟩

theorem violation_sameVoice (s : State) (toPart : Option Nat) (path : Nat) (src : Nat × Nat) (addr status : Nat) :
    SameVoice s (violation s toPart path src addr none none status) :=
  ⟨(violation_kept ..).2, part_of_errless (report_errless ..) (π := Part.epoch) fun _ => rfl⟩

theorem answerTo_sameVoice {s t : State} (h : SameVoice s t) (k : Packet) (part op status : Nat) (payload : List Byte) :
    answerTo t k part op status payload = answerTo s k part op status payload := by
  simp only [answerTo, ownPacket, me, compOf, h.comp, h.epoch]

theorem respond_shapes (s : State) (k : Packet) (part op status : Nat) (payload : List Byte) :
    Shapes s (respond s k part op status payload) := enqueueFrame_shapes ..

theorem respond_settled (s : State) (k : Packet) (part op status : Nat) (payload : List Byte) :
    Settled s (respond s k part op status payload) := by
  obtain ⟨_, _, e⟩ := respond_shapes s k part op status payload
  rw [e]
  exact settled_of_eq

theorem respond_poltex (s : State) (k : Packet) (part op status : Nat) (payload : List Byte) :
    (respond s k part op status payload).poltex = s.poltex := by
  obtain ⟨_, _, e⟩ := respond_shapes s k part op status payload
  rw [e]

theorem respond_waits {s t : State} (h : SameVoice s t) (k : Packet) (part op status : Nat) (payload : List Byte) :
    Waits (respond t k part op status payload) k.port (answerTo s k part op status payload) := by
  rw [waits_iff, respond, enqueue, waiting_enqueueFrame, ← answerTo_sameVoice h]
  exact List.mem_append_right _ (List.mem_singleton.mpr rfl)

theorem denyPacket_waits {s t : State} (h : SameVoice s t) (k : Packet) (st : Nat) :
    Waits (denyPacket t k st) k.port (answerTo s k ((concernedPart s k.src k.addr).getD 0) (answerOp k) st []) := by
  have same : concernedPart t k.src k.addr = concernedPart s k.src k.addr := by
    unfold concernedPart bindOf rangeOwner inRange composed rangeBase rangeLen sliceOf compOf
    rw [h.comp]
  rw [← same]
  exact respond_waits (h.trans (violation_sameVoice ..)) ..

theorem denyPacket_poltex (s : State) (k : Packet) (st : Nat) : (denyPacket s k st).poltex = s.poltex :=
  (respond_poltex ..).trans (report_logs ..).poltex

/-! ## Packets taken in (R36, R37, R331, R343, R348) -/

/-- From s to t only Poltex and the network-on-chip change. -/
def Beside (s t : State) : Prop := ∃ x n, t = { s with poltex := x, noc := n }

section
variable {s t u : State}

theorem Beside.refl (s : State) : Beside s s := ⟨_, _, rfl⟩

theorem Beside.trans (h : Beside s t) (k : Beside t u) : Beside s u := by
  obtain ⟨_, _, rfl⟩ := h
  obtain ⟨x, n, rfl⟩ := k
  exact ⟨x, n, rfl⟩

theorem Beside.settled (h : Beside s t) : Settled s t := by
  obtain ⟨_, _, rfl⟩ := h
  exact settled_of_eq

theorem Beside.sameVoice (h : Beside s t) : SameVoice s t := by
  refine h.settled.sameVoice ?_
  obtain ⟨_, _, rfl⟩ := h
  rfl

theorem Beside.verdict (h : Beside s t) (k : Packet) : poltexVerdict t k = poltexVerdict s k := by
  obtain ⟨_, _, rfl⟩ := h
  rfl

theorem Beside.weightWindow (h : Beside s t) (port a n : Nat) : weightWindow t port a n = weightWindow s port a n := by
  obtain ⟨_, _, rfl⟩ := h
  rfl

theorem Beside.mayUseWindow (h : Beside s t) (k : Packet) (p : Nat) : mayUseWindow t k p = mayUseWindow s k p := by
  obtain ⟨_, _, rfl⟩ := h
  rfl

theorem Beside.devRead (h : Beside s t) (a n : Nat) : devRead t a n = devRead s a n := by
  obtain ⟨_, _, rfl⟩ := h
  rfl

theorem Beside.imageChunks (h : Beside s t) (img len width nlen n : Nat) :
    ∀ c, imageChunks t img len width nlen c n = imageChunks s img len width nlen c n := by
  have one : ∀ c, imageChunk t img len width nlen c = imageChunk s img len width nlen c := by
    obtain ⟨_, _, rfl⟩ := h
    exact fun _ => rfl
  induction n with
  | zero => exact fun _ => rfl
  | succ n ih => exact fun c => by simp only [Machine.imageChunks, one, ih]

theorem Beside.windowLoad (h : Beside s t) (x : Stream) (a n : Nat) : windowLoad t x a n = windowLoad s x a n := by
  have reach : mayAccess t x.part x.image 64 = mayAccess s x.part x.image 64 := by
    obtain ⟨_, _, rfl⟩ := h
    rfl
  have place : rangeBase t x.part = rangeBase s x.part ∧ rangeLen t x.part = rangeLen s x.part := by
    obtain ⟨_, _, rfl⟩ := h
    exact ⟨rfl, rfl⟩
  simp only [Machine.windowLoad, reach, place, h.devRead, h.imageChunks]

theorem Beside.segmentAccess (h : Beside s t) (k : Packet) (g : Segment) : segmentAccess t k g = segmentAccess s k g := by
  obtain ⟨_, _, rfl⟩ := h
  rfl

theorem Beside.inboxRoom (h : Beside s t) (p n : Nat) : inboxRoom t p n = inboxRoom s p n := by
  obtain ⟨_, _, rfl⟩ := h
  rfl

theorem Beside.unitsOf (h : Beside s t) (k : Packet) : unitsOf t k = unitsOf s k := by
  obtain ⟨_, _, rfl⟩ := h
  rfl

theorem Beside.mayEnter (h : Beside s t) (same : t.poltex.lineOps = s.poltex.lineOps) (ops : List LineOp) (k : Packet) :
    mayEnter t ops k = mayEnter s ops k := by
  unfold Machine.mayEnter unitLines
  rw [same, funext h.unitsOf]

end

/-- The module u has taken in a packet that came to s: nothing of the lines at work or of the trains has changed. -/
structure TakenIn (s u : State) (k : Packet) : Prop where
  beside  : Beside s u
  lineOps : u.poltex.lineOps = s.poltex.lineOps
  trains  : u.poltex.trains = s.poltex.trains
  noc     : u.noc = s.noc ∨ u.noc = dropNoc (.packet k) s.noc

theorem freeBuffer_beside (s : State) (k : Packet) : Beside s (freeBuffer s k) := ⟨_, _, rfl⟩

theorem letGo_beside (s : State) (held : Option Packet) : Beside s (letGo s held) := by
  cases held with
  | none => exact .refl s
  | some k => exact freeBuffer_beside s k

@[simp] theorem letGo_lineOps (s : State) (held : Option Packet) : (letGo s held).poltex.lineOps = s.poltex.lineOps := by
  cases held <;> rfl

/-- A packet that arrives is taken in, and its row acts on it. -/
theorem onPacket_runs {s : State} {k : Packet} (h : Arrives s k) :
    ∃ u, TakenIn s u k ∧ ∀ f : State → State, onPacket k s f = .next (f u) := by
  obtain ⟨up, first, lane, portUp, free, level, here⟩ := h
  have open_ : ¬ (!ready s || !nocFirst s (.packet k)) = true := by simp [up, first]
  have good : (k.level != (nearPort s k.port).level || decide (128 ≤ k.dst)) = false := by simp [level, here]
  unfold onPacket
  simp only [if_neg open_, if_neg (not_not.mpr portUp)]
  by_cases waits : s.noc.contains (.packet k) = true
  · simp only [if_pos waits, free, good]
    refine ⟨takeNoc (if joinsUnits k then s else freeBuffer s k) (.packet k), ?_, by simp⟩
    split <;> exact ⟨⟨_, _, rfl⟩, rfl, rfl, .inr rfl⟩
  · have alone : s.noc.any (fun x => sameLane x (.packet k)) = false := lane.resolve_left waits
    refine ⟨s, ⟨.refl s, rfl, rfl, .inl rfl⟩, fun f => ?_⟩
    rw [if_neg waits, if_neg (by simp [free, alone]), if_neg (by simp [level, here])]

end Sys2Proof.Machine
end

section
/-! PROOFS. LOAD, STORE and ATOMIC at their target, and the atomic units (O39). -/

namespace Sys2Proof.Machine

open Sys2Proof.Safety

/-- The packet of a row for packets of a type. -/
abbrev typed (k : Packet) (op : Nat) : Packet := { k with op := op }

/-! ## LOAD (R266, R345, R346) -/

theorem touchFrame_settled (s : State) (g : Nat) : Settled s (touchFrame s g) := settled_of_eq

/-- A read that the code delivers leaves memory and partitions as they are. -/
theorem outsideRead_delivers {s : State} {a n : Nat} {bs : List Byte} (x : Access) (read : devRead s a n = some bs) :
    ∃ t, outsideRead s x a n = (t, St.ok, bs) ∧ Settled s t ∧ SameVoice s t := by
  have took := tookRead_settled s a n
  have comp := (tookRead_kept s a n).2
  unfold outsideRead
  rw [read]
  dsimp only
  split
  · exact ⟨_, rfl, took.trans (touchFrame_settled ..), (took.trans (touchFrame_settled ..)).sameVoice comp⟩
  · exact ⟨_, rfl, took, took.sameVoice comp⟩

theorem windowTook_settled (s : State) (x : Stream) (a n : Nat) : Settled s (windowTook s x a n) := by
  unfold windowTook
  split
  · exact foldl_settled (fun _ _ => tookRead_settled ..) _ _
  · exact .refl s

section
variable {s : State} {k : Packet} (h : Arrives s (typed k 1))
include h

theorem poltexLoad_reads {x : Access} {bs : List Byte} (plain : weightWindow s k.port k.addr k.plen = none)
    (ok : poltexVerdict s (typed k 1) = .ok x) (read : devRead s k.addr k.plen = some bs) :
    ∃ t, exec (.poltexLoad k) s = .next t ∧ Waits t k.port (answerTo s k x.part 8 St.ok bs) ∧ DramSame s t := by
  obtain ⟨u, taken, run⟩ := onPacket_runs h
  obtain ⟨t, done, settled, voice⟩ := outsideRead_delivers x ((taken.beside.devRead ..).trans read)
  refine ⟨respond t (typed k 1) x.part 8 St.ok bs, ?_, respond_waits (taken.beside.sameVoice.trans voice) ..,
    (taken.beside.settled.trans (settled.trans (respond_settled ..))).dramSame⟩
  show execPoltexLoad k s = _
  simp only [execPoltexLoad, run, taken.beside.weightWindow, plain, taken.beside.verdict, ok, done]

theorem poltexLoad_denied {st : Nat} (plain : weightWindow s k.port k.addr k.plen = none)
    (bad : poltexVerdict s (typed k 1) = .error st) :
    ∃ t, exec (.poltexLoad k) s = .next t ∧ Waits t k.port (answerTo s k ((concernedPart s k.src k.addr).getD 0) 8 st []) := by
  obtain ⟨u, taken, run⟩ := onPacket_runs h
  refine ⟨denyPacket u (typed k 1) st, ?_, denyPacket_waits taken.beside.sameVoice ..⟩
  show execPoltexLoad k s = _
  simp only [execPoltexLoad, run, taken.beside.weightWindow, plain, taken.beside.verdict, bad]

theorem poltexLoad_window {x : Stream} {bs : List Byte} (window : weightWindow s k.port k.addr k.plen = some x)
    (may : mayUseWindow s (typed k 1) x.part = true) (granule : inGranule k.addr k.plen = true)
    (load : windowLoad s x k.addr k.plen = .ok bs) :
    ∃ t, exec (.poltexLoad k) s = .next t ∧ Waits t k.port (answerTo s k x.part 8 St.ok bs) ∧ DramSame s t := by
  obtain ⟨u, taken, run⟩ := onPacket_runs h
  have took := windowTook_settled u x k.addr k.plen
  have comp : (windowTook u x k.addr k.plen).comp = u.comp := (windowTook_kept ..).2
  refine ⟨respond (windowTook u x k.addr k.plen) (typed k 1) x.part 8 St.ok bs, ?_,
    respond_waits (taken.beside.sameVoice.trans (took.sameVoice comp)) .., (taken.beside.settled.trans (took.trans (respond_settled ..))).dramSame⟩
  show execPoltexLoad k s = _
  simp only [execPoltexLoad, run, taken.beside.weightWindow, window, taken.beside.mayUseWindow, may, granule, taken.beside.windowLoad, load]
  rfl

theorem poltexLoad_noWindow {x : Stream} (window : weightWindow s k.port k.addr k.plen = some x)
    (bad : mayUseWindow s (typed k 1) x.part = false ∨ inGranule k.addr k.plen = false) :
    ∃ t, exec (.poltexLoad k) s = .next t ∧
      Waits t k.port (answerTo s k ((concernedPart s k.src k.addr).getD 0) 8 St.address []) := by
  obtain ⟨u, taken, run⟩ := onPacket_runs h
  refine ⟨denyPacket u (typed k 1) St.address, ?_, denyPacket_waits taken.beside.sameVoice ..⟩
  have barred : (!mayUseWindow s (typed k 1) x.part || !inGranule k.addr k.plen) = true := by simpa using bad
  show execPoltexLoad k s = _
  simp only [execPoltexLoad, run, taken.beside.weightWindow, window, taken.beside.mayUseWindow, if_pos barred]

end

/-! ## STORE and ATOMIC on their way to the units (R345, R347, R348) -/

/-- A request whose line is busy has been counted. -/
def busyCounted (s : State) (k : Packet) : State :=
  if lineBusy s.poltex.lineOps k then countEv s (Isl.eq ((unitsOf s k).headD 0)) 0x015 none none else s

/-- A request that enters its units has given up its place in the receive buffer. -/
def placeGiven (s : State) (k : Packet) (held : Option Packet) : State :=
  if mayEnter s s.poltex.lineOps k then letGo (busyCounted s k) held else busyCounted s k

theorem busyCounted_keeps (s : State) (k : Packet) :
    Settled s (busyCounted s k) ∧ (busyCounted s k).poltex.lineOps = s.poltex.lineOps := by
  unfold busyCounted
  split
  · exact ⟨countEv_settled .., rfl⟩
  · exact ⟨.refl s, rfl⟩

theorem placeGiven_keeps (s : State) (k : Packet) (held : Option Packet) :
    Settled s (placeGiven s k held) ∧ (placeGiven s k held).poltex.lineOps = s.poltex.lineOps := by
  obtain ⟨settled, same⟩ := busyCounted_keeps s k
  unfold placeGiven
  split
  · exact ⟨settled.trans (letGo_beside ..).settled, (letGo_lineOps ..).trans same⟩
  · exact ⟨settled, same⟩

/-- A store or atomic joins the operations behind all the others, in its units where it may enter them. -/
theorem joinLine_joins (s : State) (k : Packet) (held : Option Packet) :
    ∃ o, (joinLine s k held).poltex.lineOps = s.poltex.lineOps ++ [o] ∧ o.pkt = k ∧ o.inUnit = mayEnter s s.poltex.lineOps k ∧
      Settled s (joinLine s k held) := by
  obtain ⟨settled, same⟩ := placeGiven_keeps s k held
  exact ⟨{ pkt := k, held := if mayEnter s s.poltex.lineOps k then none else held, inUnit := mayEnter s s.poltex.lineOps k },
    congrArg (· ++ _) same, rfl, rfl, settled.trans settled_of_eq⟩

/-- From s to t a request has joined the operations for its lines, and memory stands as it was. -/
def JoinsLines (s t : State) (k : Packet) : Prop :=
  ∃ o, DramSame s t ∧ t.poltex.lineOps = s.poltex.lineOps ++ [o] ∧ o.pkt = k ∧ o.inUnit = mayEnter s s.poltex.lineOps k

theorem joinLine_joined {s u : State} (beside : Beside s u) (same : u.poltex.lineOps = s.poltex.lineOps) (k : Packet) (held : Option Packet) :
    JoinsLines s (joinLine u k held) k := by
  obtain ⟨o, ops, pkt, unit, settled⟩ := joinLine_joins u k held
  refine ⟨o, (beside.settled.trans settled).dramSame, by rw [ops, same], pkt, ?_⟩
  rw [unit, same, beside.mayEnter same]

/-- From s to t a request has been refused with a status, and no operation has been added. -/
def Refused (s t : State) (k : Packet) (st : Nat) : Prop :=
  Waits t k.port (answerTo s k ((concernedPart s k.src k.addr).getD 0) 9 st []) ∧ t.poltex.lineOps = s.poltex.lineOps

theorem denyPacket_refused {s u : State} {k : Packet} (taken : TakenIn s u k) (op : k.op ≠ 1) (held : Option Packet) (st : Nat) :
    Refused s (denyPacket (letGo u held) k st) k st := by
  have waits := denyPacket_waits (taken.beside.trans (letGo_beside u held)).sameVoice k st
  rw [answerOp, if_neg op] at waits
  exact ⟨waits, by rw [denyPacket_poltex, letGo_lineOps, taken.lineOps]⟩

/-- A packet that has its place in the receive buffer (R347, R348). -/
abbrev heldPlace (s : State) (k : Packet) : Option Packet := if s.noc.contains (.packet k) then some k else none

/-! ## Trains (R338) -/

theorem setTrain_beside (s : State) (src tc : Nat) (bs : List Byte) : Beside s (setTrain s src tc bs) := ⟨_, _, rfl⟩

@[simp] theorem trainOf_setTrain (s : State) (src tc : Nat) (bs : List Byte) : trainOf (setTrain s src tc bs) src tc = bs := by
  have others : (s.poltex.trains.filter (fun t => !(t.1 == src && t.2.1 == tc))).find? (fun t => t.1 == src && t.2.1 == tc) = none :=
    List.find?_eq_none.mpr fun t ht => by
      simpa only [Bool.not_eq_true, Bool.not_eq_true'] using (List.mem_filter.mp ht).2
  unfold trainOf setTrain
  dsimp only
  rw [List.find?_append, others]
  cases bs <;> simp

/-- The bytes of a train with those of its next packet. -/
def trainWith (s : State) (k : Packet) : List Byte := (if k.first then [] else trainOf s k.src k.tc) ++ k.payload

theorem TakenIn.trainWith {s u : State} {k : Packet} (taken : TakenIn s u k) : trainWith u k = trainWith s k := by
  rw [Machine.trainWith, Machine.trainWith, trainOf, trainOf, taken.trains]

/-- The packets of a train are gathered. -/
theorem setTrain_gathers {s u : State} {k : Packet} (taken : TakenIn s u k) (bs : List Byte) :
    DramSame s (setTrain u k.src k.tc bs) ∧ trainOf (setTrain u k.src k.tc bs) k.src k.tc = bs :=
  ⟨(taken.beside.trans (setTrain_beside ..)).settled.dramSame, trainOf_setTrain ..⟩

section
variable {s : State} {k : Packet}

/-- A whole segment that its sender may write goes to its units with the bytes of its train. -/
theorem segmentTrain_joins {u : State} {bs : List Byte} (held : Option Packet) (level : (segmentOf bs).1.level = 1)
    (whole : (segmentOf bs).2 = (segmentOf bs).1.body.length) (short : (segmentOf bs).1.nativeLen ≤ 4096)
    (write : (segmentOf bs).1.reduce = false) (may : (segmentAccess u k (segmentOf bs).1).isSome = true) :
    segmentTrain u k bs held = joinLine u { k with payload := bs } held := by
  obtain ⟨x, access⟩ := Option.isSome_iff_exists.mp may
  simp [segmentTrain, level, access, whole, write, Nat.not_lt.mpr short]

section
variable (h : Arrives s (typed k 2))
include h

theorem poltexStore_joins {x : Access} (plain : k.seg = false) (ok : poltexVerdict s (typed k 2) = .ok x) :
    ∃ t, exec (.poltexStore k) s = .next t ∧ JoinsLines s t (typed k 2) := by
  obtain ⟨u, taken, run⟩ := onPacket_runs h
  refine ⟨_, ?_, joinLine_joined taken.beside taken.lineOps (typed k 2) (heldPlace s (typed k 2))⟩
  show execPoltexStore k s = _
  simp only [execPoltexStore, run]
  refine congrArg _ ((if_neg (by simp [plain])).trans ?_)
  simp only [taken.beside.verdict, ok]

theorem poltexStore_refused {st : Nat} (plain : k.seg = false) (bad : poltexVerdict s (typed k 2) = .error st) :
    ∃ t, exec (.poltexStore k) s = .next t ∧ Refused s t (typed k 2) st := by
  obtain ⟨u, taken, run⟩ := onPacket_runs h
  refine ⟨_, ?_, denyPacket_refused taken (by simp) (heldPlace s (typed k 2)) st⟩
  show execPoltexStore k s = _
  simp only [execPoltexStore, run]
  refine congrArg _ ((if_neg (by simp [plain])).trans ?_)
  simp only [taken.beside.verdict, bad]

theorem poltexStore_gathers (seg : k.seg = true) (more : k.last = false) :
    ∃ t, exec (.poltexStore k) s = .next t ∧ DramSame s t ∧ trainOf t k.src k.tc = trainWith s k := by
  obtain ⟨u, taken, run⟩ := onPacket_runs h
  refine ⟨setTrain u k.src k.tc (trainWith s k), ?_, setTrain_gathers taken _⟩
  have train : trainWith u (typed k 2) = trainWith s k := taken.trainWith
  show execPoltexStore k s = _
  simp only [execPoltexStore, run, ← train]
  exact congrArg _ ((if_pos seg).trans (if_neg (by simp [more])))

theorem poltexStore_segment (seg : k.seg = true) (last : k.last = true) (level : (segmentOf (trainWith s k)).1.level = 1)
    (write : (segmentOf (trainWith s k)).1.reduce = false) (whole : (segmentOf (trainWith s k)).2 = (segmentOf (trainWith s k)).1.body.length)
    (short : (segmentOf (trainWith s k)).1.nativeLen ≤ 4096)
    (may : (segmentAccess s (typed k 2) (segmentOf (trainWith s k)).1).isSome = true) :
    ∃ t, exec (.poltexStore k) s = .next t ∧ JoinsLines s t { typed k 2 with payload := trainWith s k } := by
  obtain ⟨u, taken, run⟩ := onPacket_runs h
  have beside := taken.beside.trans (setTrain_beside u k.src k.tc [])
  refine ⟨_, ?_, joinLine_joined beside taken.lineOps _ (heldPlace s (typed k 2))⟩
  rw [← segmentTrain_joins (k := typed k 2) _ level whole short write (by rw [beside.segmentAccess]; exact may)]
  have train : trainWith u (typed k 2) = trainWith s k := taken.trainWith
  show execPoltexStore k s = _
  simp only [execPoltexStore, run, ← train]
  exact congrArg _ ((if_pos seg).trans (if_pos last))

end

section
variable (h : Arrives s (typed k 3))
include h

theorem poltexAtomic_joins {x : Access} (ok : poltexVerdict s (typed k 3) = .ok x) :
    ∃ t, exec (.poltexAtomic k) s = .next t ∧ JoinsLines s t (typed k 3) := by
  obtain ⟨u, taken, run⟩ := onPacket_runs h
  refine ⟨_, ?_, joinLine_joined taken.beside taken.lineOps (typed k 3) (heldPlace s (typed k 3))⟩
  show execPoltexAtomic k s = _
  simp only [execPoltexAtomic, run]
  simp only [taken.beside.verdict, ok]

theorem poltexAtomic_refused {st : Nat} (bad : poltexVerdict s (typed k 3) = .error st) :
    ∃ t, exec (.poltexAtomic k) s = .next t ∧ Refused s t (typed k 3) st := by
  obtain ⟨u, taken, run⟩ := onPacket_runs h
  refine ⟨_, ?_, denyPacket_refused taken (by simp) (heldPlace s (typed k 3)) st⟩
  show execPoltexAtomic k s = _
  simp only [execPoltexAtomic, run]
  simp only [taken.beside.verdict, bad]

end

end

/-! ## The atomic units (R346, R348, R349) -/

/-- The operations for lines without the n-th. -/
def lineTaken (s : State) (n : Nat) : State := { s with poltex := { s.poltex with lineOps := s.poltex.lineOps.eraseIdx n } }

section
variable {s t u : State}

theorem Beside.waits (h : Beside s t) {port : Nat} {o : Out} (waits : Waits s port o) : Waits t port o := by
  obtain ⟨_, _, rfl⟩ := h
  exact waits

theorem Beside.good (h : Beside s t) (good : GoodMemory s) : GoodMemory t := by
  obtain ⟨_, _, rfl⟩ := h
  exact good

/-- What leaves device memory as it is leaves what has been stored in it. -/
theorem Settled.stored (h : Settled t u) {a : Nat} {bs : List Byte} (stored : Stored s t a bs) : Stored s u a bs := by
  have bytes : rawByte u.mem = rawByte t.mem := funext h.dramSame
  obtain ⟨inside, outside⟩ := stored
  refine ⟨?_, fun x hx => by rw [bytes, outside x hx]⟩
  rw [← inside, length_rawBytes, rawBytes, rawBytes, bytes, h.dram, h.undef]

/-- An operation that waits enters its units or stays; the packets of the operations stand as they were, in order. -/
theorem admitOp_keeps (s : State) (i : Nat) :
    Beside s (admitOp s i) ∧ (admitOp s i).poltex.lineOps.map (·.pkt) = s.poltex.lineOps.map (·.pkt) := by
  unfold admitOp
  split
  · exact ⟨.refl s, rfl⟩
  · next o found =>
    split
    · refine ⟨.trans ⟨_, _, rfl⟩ (letGo_beside ..), ?_⟩
      have here : (s.poltex.lineOps.map (·.pkt))[i]? = some o.pkt := by simp [found]
      obtain ⟨inside, value⟩ := List.getElem?_eq_some_iff.mp here
      rw [letGo_lineOps, List.map_set]
      dsimp only
      rw [← value, List.set_getElem_self]
    · exact ⟨.refl s, rfl⟩

theorem admitOps_keeps (s : State) :
    Beside s (admitOps s) ∧ (admitOps s).poltex.lineOps.map (·.pkt) = s.poltex.lineOps.map (·.pkt) := by
  unfold admitOps
  generalize List.range s.poltex.lineOps.length = is
  induction is generalizing s with
  | nil => exact ⟨.refl s, rfl⟩
  | cons i is ih =>
    obtain ⟨first, same⟩ := admitOp_keeps s i
    obtain ⟨rest, all⟩ := ih (admitOp s i)
    exact ⟨first.trans rest, all.trans same⟩

/-- An operation's bytes stand in memory and its answer waits; the other operations stand as they were, in order. -/
def Applied (s t : State) (k : Packet) (a : Nat) (bs : List Byte) (answer : Out) (left : List Packet) : Prop :=
  Stored s t a bs ∧ Waits t k.port answer ∧ t.poltex.lineOps.map (·.pkt) = left

/-- A write from outside to memory without errors takes every byte. -/
theorem outsideWrite_good (good : GoodMemory s) (x : Access) (a : Nat) (bs : List Byte) :
    ∃ t, outsideWrite s x a bs = (t, St.ok) ∧ GoodMemory t ∧ t.mem.dram = memPutN s.mem.dram a bs ∧ SameVoice s t ∧
      t.poltex = s.poltex := by
  obtain ⟨cs, wrote⟩ := devWrite_good good a bs
  rw [outsideWrite, wrote]
  exact ⟨_, rfl, goodMemory_dram good (memWf_putN good.1 a bs) cs, rfl, ⟨rfl, fun _ => rfl⟩, rfl⟩

/-- What an operation writes is stored, and answered with OK once the operations that wait have entered. -/
theorem outsideWrite_applied (good : GoodMemory s) (before : GoodMemory u) (same : u.mem.dram = s.mem.dram) (voice : SameVoice s u)
    (x : Access) (k : Packet) (a : Nat) (bs : List Byte) :
    ∃ t, outsideWrite u x a bs = (t, St.ok) ∧ ∀ payload, Applied s (admitOps (respond t k x.part 9 St.ok payload)) k a bs
      (answerTo s k x.part 9 St.ok payload) (u.poltex.lineOps.map (·.pkt)) := by
  obtain ⟨t, wrote, after_, dram, spoken, poltex⟩ := outsideWrite_good before x a bs
  have stored : Stored s t a bs := stored_of_dram good after_ (by rw [dram, same])
  refine ⟨t, wrote, fun payload => ?_⟩
  obtain ⟨beside, pkts⟩ := admitOps_keeps (respond t k x.part 9 St.ok payload)
  exact ⟨((respond_settled ..).trans beside.settled).stored stored, beside.waits (respond_waits (voice.trans spoken) ..),
    by rw [pkts, respond_poltex, poltex]⟩

end

/-- The value that an ATOMIC finds. -/
def oldValue (s : State) (k : Packet) : Nat := fromLe (rawBytes s.mem k.addr (requestLen k))

/-- The value that an ATOMIC leaves. -/
def newValue (s : State) (k : Packet) : Nat :=
  atomicValue k.aop (8 * requestLen k) (oldValue s k) (leAt k.payload 0 (requestLen k)) (leAt k.payload 8 (requestLen k))

section
variable {s : State} {line n : Nat} {o : LineOp} (up : ready s = true)
  (found : ((List.range s.poltex.lineOps.length).zip s.poltex.lineOps).find? (fun e => (opLines e.2.pkt).contains line) = some (n, o))
include up found

theorem atomicUnitApply_idle (outside : o.inUnit = false) : exec (.atomicUnitApply line) s = .next s := by
  show execAtomicUnitApply line s = _
  simp only [execAtomicUnitApply, found, outside]
  exact if_pos up

theorem atomicUnitApply_runs (inside : o.inUnit = true) :
    exec (.atomicUnitApply line) s = .next (admitOps (applyLineOp (lineTaken s n) o.pkt)) := by
  show execAtomicUnitApply line s = _
  simp only [execAtomicUnitApply, found, inside]
  exact if_pos up

variable {k : Packet} {x : Access} (inside : o.inUnit = true) (mine : o.pkt = k) (good : GoodMemory s) (ok : poltexVerdict s k = .ok x)
include inside mine good ok

theorem atomicUnitApply_store (op : k.op = 2) (plain : k.seg = false) :
    ∃ t, exec (.atomicUnitApply line) s = .next t ∧ Applied s t k k.addr k.payload (answerTo s k x.part 9 St.ok [])
      ((s.poltex.lineOps.eraseIdx n).map (·.pkt)) := by
  have beside : Beside s (lineTaken s n) := ⟨_, _, rfl⟩
  obtain ⟨t, wrote, applied⟩ := outsideWrite_applied good (beside.good good) rfl beside.sameVoice x k k.addr k.payload
  refine ⟨_, (atomicUnitApply_runs up found inside).trans ?_, applied []⟩
  have run : applyLineOp (lineTaken s n) k = respond t k x.part 9 St.ok [] := by
    simp only [applyLineOp, op, plain, applyPlainOp, beside.verdict, ok, wrote]
    rfl
  rw [mine, run]

theorem atomicUnitApply_atomic (op : k.op = 3) :
    ∃ t, exec (.atomicUnitApply line) s = .next t ∧ Applied s t k k.addr (toLe (requestLen k) (newValue s k))
      (answerTo s k x.part 9 St.ok (toLe 8 (oldValue s k))) ((s.poltex.lineOps.eraseIdx n).map (·.pkt)) := by
  have beside : Beside s (lineTaken s n) := ⟨_, _, rfl⟩
  have read : devRead (lineTaken s n) k.addr (requestLen k) = some (rawBytes s.mem k.addr (requestLen k)) := by
    rw [beside.devRead, devRead, good.2.1]
    rfl
  obtain ⟨cs, took⟩ := tookRead_channels (beside.good good) k.addr (requestLen k)
  have settled := tookRead_settled (lineTaken s n) k.addr (requestLen k)
  have comp := (tookRead_kept (lineTaken s n) k.addr (requestLen k)).2
  obtain ⟨t, wrote, applied⟩ := outsideWrite_applied good (u := tookRead (lineTaken s n) k.addr (requestLen k))
    (by rw [took]; exact beside.good good) settled.dram (beside.sameVoice.trans (settled.sameVoice comp)) x k k.addr
    (toLe (requestLen k) (newValue s k))
  have left : (tookRead (lineTaken s n) k.addr (requestLen k)).poltex = (lineTaken s n).poltex := by rw [took]
  rw [left] at applied
  refine ⟨_, (atomicUnitApply_runs up found inside).trans ?_, applied (toLe 8 (oldValue s k))⟩
  have run : applyLineOp (lineTaken s n) k = respond t k x.part 9 St.ok (toLe 8 (oldValue s k)) := by
    rw [newValue, oldValue] at wrote
    simp only [applyLineOp, op, applyPlainOp, beside.verdict, ok, read, wrote]
    rfl
  rw [mine, run]

end

end Sys2Proof.Machine
end

section
/-! PROOFS. Messages at their target, and the requests of Poltex (O39). -/

namespace Sys2Proof.Machine

open Sys2Proof.Safety

/-! ## MSG (R150, R338, R435) -/

/-- May a source deliver a message to a partition's inbox: the partition holds the arrival port and the source is a module or an
accelerator bound to it (R328, R338). -/
def MayDeliver (s : State) (k : Packet) (p : Nat) : Prop :=
  composed s p = true ∧ bit (nearPorts s p) k.port = true ∧ ((bindOf s k.src).1 = 2 ∨ bindOf s k.src = (1, p))

/-- The partition that a message names. -/
def messagePart (k : Packet) : Nat := bits k.addr 35 32

theorem messagePart_typed (k : Packet) (op : Nat) : messagePart (typed k op) = messagePart k := rfl

theorem raiseVf_settled (s : State) (p vector : Nat) : Settled s (raiseVf s p vector) := by
  unfold raiseVf
  split
  · exact settled_of_eq
  · exact .refl s

/-- A message stands in its partition's inbox, and neither memory nor an epoch changes. -/
theorem deliverInbox_delivers (s : State) (p : Nat) (bs : List Byte) : DramSame s (deliverInbox s p bs) ∧ SameVoice s (deliverInbox s p bs) ∧
    (partOf (deliverInbox s p bs) p).inbox = (partOf s p).inbox ++ [bs] := by
  have raised := raiseVf_settled (modPart s p fun P => { P with inbox := P.inbox ++ [bs] }) p 65
  refine ⟨raised.dramSame, ⟨(raiseVf_kept ..).2, fun q => ?_⟩, ?_⟩
  · rw [deliverInbox, raised.partOf]
    by_cases same : q = p
    · simp [same]
    · rw [partOf_modPart_ne _ _ same]
  · rw [deliverInbox, raised.partOf, partOf_modPart_self]

theorem filterMap_dropNoc {α : Type} {f : Out → Option α} {o : Out} (none_ : f o = none) (l : List Out) :
    (dropNoc o l).filterMap f = l.filterMap f := by
  induction l with
  | nil => rfl
  | cons x l ih =>
    unfold dropNoc
    split
    · next same => rw [List.filterMap_cons_none (by rw [same, none_])]
    · rw [List.filterMap_cons, List.filterMap_cons, ih]

/-- A packet taken in is no request that was on its way to an attend inbox (R150). -/
theorem TakenIn.attendHeld {s u : State} {k : Packet} (taken : TakenIn s u k) (bs : List Byte) : attendHeld u bs = attendHeld s bs := by
  obtain ⟨⟨x, noc, rfl⟩, -, -, same | dropped⟩ := taken
  · cases same
    rfl
  · cases dropped
    unfold Machine.attendHeld
    dsimp only
    rw [filterMap_dropNoc rfl]
    rfl

section
variable {s u : State} {k : Packet} {bs : List Byte}

theorem mayDeliver_iff (p : Nat) : MayDeliver s k p ↔ (composed s p && bit (nearPorts s p) k.port &&
    ((bindOf s k.src).1 == 2 || ((bindOf s k.src).1 == 1 && (bindOf s k.src).2 == p))) = true := by
  simp [MayDeliver, Prod.ext_iff, and_assoc]

theorem Beside.mayDeliver (h : Beside s u) (p : Nat) : MayDeliver u k p ↔ MayDeliver s k p := by
  obtain ⟨_, _, rfl⟩ := h
  exact .rfl

theorem deliverMsg_barred (plain : bits k.addr 31 0 ≠ 0xFFFFFFFF) (barred : ¬ MayDeliver u k (messagePart k)) :
    deliverMsg u k bs = some (denyPacket u k St.address) := by
  rw [mayDeliver_iff, Bool.not_eq_true, messagePart] at barred
  simp only [deliverMsg, if_neg plain, barred]
  rfl

theorem deliverMsg_plain (plain : bits k.addr 31 0 ≠ 0xFFFFFFFF) (may : MayDeliver u k (messagePart k)) (whole : k.seg = false) :
    deliverMsg u k bs = if inboxRoom u (messagePart k) bs.length
      then some (respond (deliverInbox u (messagePart k) bs) k (messagePart k) 9 St.ok []) else none := by
  rw [mayDeliver_iff, messagePart] at may
  simp only [deliverMsg, if_neg plain, may, whole, messageBytes]
  rfl

theorem deliverMsg_device {o : Out} (device : bits k.addr 31 0 = 0xFFFFFFFF) (module_ : (bindOf u k.src).1 = 2) (free : attendHeld u bs = false)
    (message : deviceMessageOf u ⟨(me u).1, k.src, k.spart, k.epoch⟩ (messagePart k) bs = some o) :
    deliverMsg u k bs = some (respond { u with noc := u.noc ++ [o] } k (messagePart k) 9 St.ok []) := by
  rw [messagePart] at message
  simp only [deliverMsg, if_pos device, if_pos module_, free, handDevice, message]
  rfl

theorem trainBound_ge (k : Packet) : 4096 ≤ trainBound k := by
  unfold trainBound
  split
  · omega
  · split <;> omega

variable (h : Arrives s (typed k 4))
include h

theorem poltexMsg_gathers (more : k.last = false) (bounded : (trainWith s k).length ≤ trainBound (typed k 4)) :
    ∃ t, exec (.poltexMsg k) s = .next t ∧ DramSame s t ∧ trainOf t k.src k.tc = trainWith s k := by
  obtain ⟨u, taken, run⟩ := onPacket_runs h
  refine ⟨setTrain u k.src k.tc (trainWith s k), ?_, setTrain_gathers taken _⟩
  have train : trainWith u (typed k 4) = trainWith s k := taken.trainWith
  show execPoltexMsg k s = _
  simp only [execPoltexMsg, run]
  rw [← train] at bounded ⊢
  exact congrArg _ ((if_neg (Nat.not_lt.mpr bounded)).trans (if_neg (by simp [more])))

/-- A message in one packet is delivered, or waits where it is. -/
theorem poltexMsg_whole (first : k.first = true) (last : k.last = true) (short : k.payload.length ≤ 4096) :
    ∃ u, Beside s u ∧ attendHeld u k.payload = attendHeld s k.payload ∧
      exec (.poltexMsg k) s = .next ((deliverMsg u (typed k 4) k.payload).getD s) := by
  obtain ⟨u, taken, run⟩ := onPacket_runs h
  refine ⟨setTrain u k.src k.tc [], taken.beside.trans (setTrain_beside ..), taken.attendHeld _, ?_⟩
  have bounded := short.trans (trainBound_ge (typed k 4))
  show execPoltexMsg k s = _
  simp only [execPoltexMsg, run, if_pos first, List.nil_append]
  refine congrArg _ ((if_neg (Nat.not_lt.mpr bounded)).trans ((if_pos last).trans ?_))
  cases deliverMsg (setTrain u k.src k.tc []) (typed k 4) k.payload <;> rfl

section
variable (first : k.first = true) (last : k.last = true) (whole : k.seg = false) (short : k.payload.length ≤ 4096)
include first last short

theorem poltexMsg_barred (plain : bits k.addr 31 0 ≠ 0xFFFFFFFF) (barred : ¬ MayDeliver s k (messagePart k)) :
    ∃ t, exec (.poltexMsg k) s = .next t ∧ Waits t k.port (answerTo s k ((concernedPart s k.src k.addr).getD 0) 9 St.address []) := by
  obtain ⟨u, beside, -, run⟩ := poltexMsg_whole h first last short
  rw [deliverMsg_barred (k := typed k 4) plain (fun may => barred ((beside.mayDeliver _).mp may))] at run
  exact ⟨_, run, denyPacket_waits beside.sameVoice (typed k 4) _⟩

theorem poltexMsg_device {o : Out} (device : bits k.addr 31 0 = 0xFFFFFFFF) (module_ : (bindOf s k.src).1 = 2)
    (free : attendHeld s k.payload = false)
    (message : deviceMessageOf s ⟨(me s).1, k.src, k.spart, k.epoch⟩ (messagePart k) k.payload = some o) :
    ∃ t, exec (.poltexMsg k) s = .next t ∧ o ∈ t.noc ∧ Waits t k.port (answerTo s k (messagePart k) 9 St.ok []) ∧ DramSame s t := by
  obtain ⟨u, beside, held, run⟩ := poltexMsg_whole h first last short
  have handed : Beside u { u with noc := u.noc ++ [o] } := ⟨_, _, rfl⟩
  rw [deliverMsg_device (k := typed k 4) (o := o) device (by obtain ⟨_, _, rfl⟩ := beside; exact module_) (held.trans free)
    (by obtain ⟨_, _, rfl⟩ := beside; exact message)] at run
  refine ⟨_, run, ?_, respond_waits (beside.trans handed).sameVoice (typed k 4) ..,
    ((beside.trans handed).settled.trans (respond_settled ..)).dramSame⟩
  obtain ⟨_, _, e⟩ := respond_shapes { u with noc := u.noc ++ [o] } (typed k 4) (messagePart k) 9 St.ok []
  rw [Option.getD_some, messagePart_typed, e]
  exact List.mem_append_right _ (List.mem_singleton.mpr rfl)

include whole

theorem poltexMsg_delivers (plain : bits k.addr 31 0 ≠ 0xFFFFFFFF) (may : MayDeliver s k (messagePart k))
    (room : inboxRoom s (messagePart k) k.payload.length = true) :
    ∃ t, exec (.poltexMsg k) s = .next t ∧ (partOf t (messagePart k)).inbox = (partOf s (messagePart k)).inbox ++ [k.payload] ∧
      Waits t k.port (answerTo s k (messagePart k) 9 St.ok []) ∧ DramSame s t := by
  obtain ⟨u, beside, -, run⟩ := poltexMsg_whole h first last short
  rw [deliverMsg_plain (k := typed k 4) plain ((beside.mayDeliver _).mpr may) whole, beside.inboxRoom, messagePart_typed, if_pos room] at run
  obtain ⟨same, voice, inbox⟩ := deliverInbox_delivers u (messagePart k) k.payload
  refine ⟨_, run, ?_, respond_waits (beside.sameVoice.trans voice) (typed k 4) .., fun a => ?_⟩
  · rw [Option.getD_some, (respond_settled ..).partOf, inbox, beside.settled.partOf]
  · rw [Option.getD_some, (respond_settled ..).dramSame, same, beside.settled.dramSame]

theorem poltexMsg_waits (plain : bits k.addr 31 0 ≠ 0xFFFFFFFF) (may : MayDeliver s k (messagePart k))
    (full : inboxRoom s (messagePart k) k.payload.length = false) : exec (.poltexMsg k) s = .next s := by
  obtain ⟨u, beside, -, run⟩ := poltexMsg_whole h first last short
  rwa [deliverMsg_plain (k := typed k 4) plain ((beside.mayDeliver _).mpr may) whole, beside.inboxRoom, messagePart_typed,
    if_neg (by simpa using full)] at run

end

end

/-- Settles O39: each row on its packet, the atomic unit on the first operation of its line, and each message on its way. -/
theorem poltexRequestsAreServed : Obligations.PoltexRequestsAreServed := by
  intro s k me_ concerned k1 k2 k3 k4
  refine ⟨fun h plain => ⟨fun x bs => poltexLoad_reads h plain, fun st => poltexLoad_denied h plain⟩,
    fun x h window => ⟨fun bs => poltexLoad_window h window, poltexLoad_noWindow h window⟩,
    fun h plain => ⟨fun x ok => ?_, fun st => poltexStore_refused h plain⟩, poltexStore_gathers, ?_,
    fun h => ⟨fun x ok => ?_, fun st => poltexAtomic_refused h⟩, ?_, ?_⟩
  · obtain ⟨t, run, o, joined⟩ := poltexStore_joins h plain ok
    exact ⟨t, o, run, joined⟩
  · intro h seg last bs g level write whole short may
    obtain ⟨t, run, o, joined⟩ := poltexStore_segment h seg last level write whole short may
    exact ⟨t, o, run, joined⟩
  · obtain ⟨t, run, o, joined⟩ := poltexAtomic_joins h ok
    exact ⟨t, o, run, joined⟩
  · intro line n o x up found left
    exact ⟨atomicUnitApply_idle up found, fun inside mine good ok =>
      ⟨atomicUnitApply_store up found inside mine good ok, atomicUnitApply_atomic up found inside mine good ok⟩⟩
  · intro h p b allowed
    exact ⟨poltexMsg_gathers h, fun first last whole short =>
      ⟨fun plain may => ⟨poltexMsg_delivers h first last whole short plain may, poltexMsg_waits h first last whole short plain may⟩,
        poltexMsg_barred h first last short, fun o => poltexMsg_device h first last short⟩⟩

end Sys2Proof.Machine
end

section
/-! PROOFS. Searches of the index, and SEEK (O32). -/

namespace Sys2Proof.Machine

open Sys2Proof.Safety

/-! ## The entries of a run (R270) -/

theorem wf_iff_pairwise {α : Type} (m : AMap α) : AMap.wf m = true ↔ m.Pairwise (fun a b => a.1 < b.1) := by
  induction m with
  | nil => exact iff_of_true rfl .nil
  | cons e m ih =>
    refine ⟨fun h => .cons (AMap.lt_of_wf h) (ih.mp (AMap.wf_tail h)), fun h => ?_⟩
    obtain ⟨first, rest⟩ := List.pairwise_cons.mp h
    exact AMap.wf_cons (ih.mpr rest) first

theorem find?_of_mem {α : Type} {m : AMap α} (h : AMap.wf m = true) {k : Nat} {v : α} (hm : (k, v) ∈ m) : AMap.find? m k = some v := by
  induction m with
  | nil => cases hm
  | cons e m ih =>
    rcases List.mem_cons.mp hm with rfl | later
    · simp [AMap.find?]
    · have above : e.1 < k := AMap.lt_of_wf h _ later
      rw [AMap.find?, if_neg above.ne, ih (AMap.wf_tail h) later]

theorem wf_runEntriesOf {m : AMap IxEntry} (h : AMap.wf m = true) (lo hi : Nat) : AMap.wf (runEntriesOf m lo hi) = true :=
  (wf_iff_pairwise _).mpr (((wf_iff_pairwise m).mp h).filter _)

theorem mem_runEntriesOf {m : AMap IxEntry} {lo hi x : Nat} {e : IxEntry} :
    (x, e) ∈ runEntriesOf m lo hi ↔ (x, e) ∈ m ∧ lo ≤ x ∧ x < hi := by
  rw [runEntriesOf, List.mem_filter, decide_eq_true_eq]

/-- The winner of a search stands in the run and matches, and no entry of the run below it does (R271). -/
theorem search_lowest {s : State} {p key x : Nat} {e : IxEntry} (wf : AMap.wf s.index.array = true) (won : search s p key = some (x, e)) :
    AMap.find? s.index.array x = some e ∧ (ixRun s p).1 ≤ x ∧ x < (ixRun s p).2 ∧ ixMatches key e = true ∧
    (∀ y y', (ixRun s p).1 ≤ y → y < x → AMap.find? s.index.array y = some y' → ixMatches key y' = false) := by
  obtain ⟨stored, lo, hi⟩ := mem_runEntriesOf.mp (List.mem_of_find?_eq_some won)
  obtain ⟨fits, before, behind, split, missed⟩ := List.find?_eq_some_iff_append.mp won
  refine ⟨find?_of_mem wf stored, lo, hi, fits, fun y y' above below found => ?_⟩
  have sorted := (wf_iff_pairwise _).mp (wf_runEntriesOf wf (ixRun s p).1 (ixRun s p).2)
  have listed : (y, y') ∈ before ++ (x, e) :: behind :=
    split ▸ mem_runEntriesOf.mpr ⟨mem_of_find? found, above, below.trans hi⟩
  rw [split, List.pairwise_append, List.pairwise_cons] at sorted
  obtain ⟨-, ⟨after, -⟩, -⟩ := sorted
  rcases List.mem_append.mp listed with earlier | here
  · simpa using missed _ earlier
  · rcases List.mem_cons.mp here with same | later
    · exact absurd (congrArg Prod.fst same) below.ne
    · exact absurd (after _ later) (Nat.lt_asymm below)

/-! ## Searches without a regulator (R272, R321) -/

section
variable {s : State} {p : Nat} (off : (regOf s p 3).1 = 0)
include off

theorem regPasses_off (place size : Nat) : regPasses s p 3 place size = true := by
  simp [regPasses, off]

theorem regTake_off (place size : Nat) : regTake s p 3 place size = s := if_pos off

/-- One search made, and the rest of them from there. -/
theorem seekFrom_cons {t : State} {verify : Bool} {k : Nat} {keys : List Nat} {x : Seeks} {bytes : List Byte} {hit refused : Bool}
    (one : seekOne s p k verify x.again = (t, some (bytes, hit, refused))) :
    seekFrom p verify (k :: keys) s x = seekFrom p verify keys t
      { bytes := x.bytes ++ bytes, count := x.count + 1, hits := x.hits + if hit && !x.refused then 1 else 0
        refused := x.refused || refused } := by
  rw [seekFrom, if_neg (by simp [regPasses_off off]), one]

end

/-- Every position stands as its shadow has it, and no shadow is lost (R289, R290). -/
def Mirrored (s : State) : Prop :=
  ∀ x, shadowLost s x = false ∧ AMap.find? s.index.array x = AMap.find? s.index.shadow x

theorem comparePos_mirrored {s : State} (h : Mirrored s) (x : Nat) : comparePos s x = (s, false) := by
  obtain ⟨kept, same⟩ := h x
  unfold comparePos
  rw [if_neg (by simp [kept])]
  exact if_pos same

/-- The state with other counts of events. -/
def recounted (s : State) (c : Counters) : State := { s with counters := c }

theorem countEv_recounts (s : State) (island code : Nat) (inst part : Option Nat) (n : Nat) :
    ∃ c, countEv s island code inst part n = recounted s c := ⟨_, rfl⟩

theorem seekOutcome_recounts (s : State) (p : Nat) (hit : Option (Nat × IxEntry)) (verified repaired : Bool) :
    ∃ c, seekOutcome s p hit verified repaired =
      (recounted s c, seekRecord hit (verified && hit.isSome) repaired false, hit.isSome) := by
  unfold seekOutcome
  split
  · exact ⟨_, rfl⟩
  · exact ⟨s.counters, rfl⟩

/-- The result record of a search that finds its hit equal to the shadow. -/
def foundRecord (s : State) (p : Nat) (verify : Bool) (key : Nat) : List Byte :=
  seekRecord (search s p key) (verify && (search s p key).isSome) false false

theorem seekOne_finds {s : State} {p : Nat} (off : (regOf s p 3).1 = 0) (cool : s.index.step ≠ 4) (h : Mirrored s) (key : Nat)
    (verify : Bool) : ∃ c, seekOne s p key verify false =
      (recounted s c, some (foundRecord s p verify key, (search s p key).isSome, false)) := by
  obtain ⟨c, counted⟩ := countEv_recounts s Isl.ix 0x070 none (some p) 1
  have once : searchOnce s p key = (recounted s c, search s p key) := by
    rw [searchOnce, regTake_off off, counted]
    rfl
  have mirrored : Mirrored (recounted s c) := h
  unfold seekOne
  rw [if_neg cool, if_neg Bool.false_ne_true, once]
  dsimp only
  unfold foundRecord
  cases hit : search s p key with
  | none =>
    obtain ⟨d, out⟩ := seekOutcome_recounts (recounted s c) p none false false
    exact ⟨d, by rw [out, Option.isSome_none, Bool.and_false, Bool.and_false]; rfl⟩
  | some e =>
    obtain ⟨d, out⟩ := seekOutcome_recounts (recounted s c) p (some e) verify false
    refine ⟨d, ?_⟩
    cases verify with
    | false => exact (if_neg Bool.false_ne_true).trans (by rw [out]; rfl)
    | true =>
      refine (if_pos rfl).trans ?_
      rw [comparePos_mirrored mirrored, out]
      rfl

theorem seekFrom_finds {p : Nat} (verify : Bool) (keys : List Nat) : ∀ {s : State} {x : Seeks}, (regOf s p 3).1 = 0 → s.index.step ≠ 4 →
    Mirrored s → x.refused = false → x.again = false → ∃ c, seekFrom p verify keys s x =
      (recounted s c, { bytes := x.bytes ++ (keys.map (foundRecord s p verify)).flatten, count := x.count + keys.length
                        hits := x.hits + (keys.filter (fun k => (search s p k).isSome)).length }) := by
  induction keys with
  | nil =>
    intro s x _ _ _ plain fresh
    refine ⟨s.counters, ?_⟩
    obtain ⟨bytes, count, hits, refused, again⟩ := x
    cases plain
    cases fresh
    simp [seekFrom, recounted]
  | cons k ks ih =>
    intro s x off cool h plain fresh
    obtain ⟨c, one⟩ := seekOne_finds off cool h k verify
    obtain ⟨d, rest⟩ := ih (s := recounted s c) (x :=
      { bytes := x.bytes ++ foundRecord s p verify k, count := x.count + 1, hits := x.hits + if (search s p k).isSome then 1 else 0 })
      off cool h rfl rfl
    refine ⟨d, ?_⟩
    rw [seekFrom_cons off (by rw [fresh]; exact one), plain]
    simp only [Bool.not_false, Bool.and_true, Bool.or_self]
    rw [rest]
    refine Prod.ext rfl ?_
    rw [Seeks.mk.injEq]
    refine ⟨List.append_assoc .., ?_, ?_, rfl, rfl⟩
    · rw [List.length_cons, Nat.add_assoc, Nat.add_comm 1]
    · rw [List.filter_cons]
      change _ + (ks.filter fun k => (search s p k).isSome).length = _
      split
      · rw [List.length_cons, Nat.add_assoc, Nat.add_comm 1]
      · rfl

/-! ## Searches at throttle step 4 (R294) -/

/-- The state with other counts of events, and n searches refused. -/
def refusing (s : State) (c : Counters) (n : Nat) : State := { s with counters := c, index := { s.index with refused := n } }

theorem seekOne_refuses {s : State} {p : Nat} (off : (regOf s p 3).1 = 0) (hot : s.index.step = 4) (key : Nat) (verify again : Bool) :
    ∃ c, seekOne s p key verify again =
      (refusing s c ((s.index.refused + 1) % 2 ^ 32), some (seekRecord none false false true, false, true)) := by
  unfold seekOne
  rw [if_pos hot, regTake_off off]
  exact ⟨_, rfl⟩

theorem seekFrom_refuses {p : Nat} (verify : Bool) (keys : List Nat) : ∀ {s : State} {x : Seeks} (k : Nat), (regOf s p 3).1 = 0 →
    s.index.step = 4 → ∃ c, seekFrom p verify (k :: keys) s x =
      (refusing s c ((s.index.refused + (k :: keys).length) % 2 ^ 32),
        { bytes := x.bytes ++ ((k :: keys).map (fun _ => seekRecord none false false true)).flatten
          count := x.count + (k :: keys).length, hits := x.hits, refused := true }) := by
  induction keys with
  | nil =>
    intro s x k off hot
    obtain ⟨c, one⟩ := seekOne_refuses off hot k verify x.again
    refine ⟨c, ?_⟩
    rw [seekFrom_cons off one]
    simp [seekFrom]
  | cons k' ks ih =>
    intro s x k off hot
    obtain ⟨c, one⟩ := seekOne_refuses off hot k verify x.again
    obtain ⟨d, rest⟩ := ih (s := refusing s c ((s.index.refused + 1) % 2 ^ 32)) (x :=
      { bytes := x.bytes ++ seekRecord none false false true, count := x.count + 1, hits := x.hits, refused := true }) k' off hot
    refine ⟨d, ?_⟩
    rw [seekFrom_cons off one]
    simp only [Bool.false_and, Bool.or_true]
    refine rest.trans (Prod.ext ?_ ?_)
    · change refusing s d (((s.index.refused + 1) % 2 ^ 32 + (k' :: ks).length) % 2 ^ 32) = _
      rw [Nat.mod_add_mod, Nat.add_assoc, Nat.add_comm 1, ← List.length_cons]
    · rw [Seeks.mk.injEq]
      exact ⟨List.append_assoc .., by simp only [List.length_cons]; omega, rfl, rfl, rfl⟩

/-! ## SEEK (R277, R294) -/

section
variable {s t : State} {w : IRef} {i : Issued} {bs : List Byte} {x : Seeks}

/-- What a SEEK notes of the searches made. -/
def seekNotes (x : Seeks) (i : Issued) : Issued :=
  { i with aux := i.aux + x.count, result := i.result + x.hits, started := x.refused, held := if x.again then [1] else []
           effects := i.effects ++ [.devWrite (extAddr i.words 1 + 16 * i.aux) x.bytes] }

/-- The end of a SEEK. -/
def seekEnds (i : Issued) : Issued := { i with status := some (if i.started then St.busy else St.ok) }

theorem seek_searches (h : Working s w 0x50 i) (read : devRead s (addrB i.words) (24 * bits (opA i.words) 15 0) = some bs)
    (run : seekFrom w.part (flagOf i.words 24 || (partOf s w.part).verifyAll) (((pieces 24 bs).map keyOf).drop i.aux) s
      { refused := i.started, again := !i.held.isEmpty } = (t, x)) :
    exec (.seek w) s = .next (if i.aux + x.count < bits (opA i.words) 15 0 then modIssued t w (seekNotes x)
      else modIssued (modIssued t w (seekNotes x)) w seekEnds) := by
  refine (withInstr_working h).trans (congrArg _ ?_)
  dsimp only
  rw [read]
  dsimp only
  rw [run]
  rfl

/-- A SEEK whose searches all enter in one run ends with their records, BUSY where one was refused. -/
theorem seek_ends (h : Working s w 0x50 i) (fresh : i.started = false) (unsearched : i.aux = 0) (zero : i.result = 0) (plain : i.effects = [])
    (once : i.held = []) (read : devRead s (addrB i.words) (24 * bits (opA i.words) 15 0) = some bs)
    (run : seekFrom w.part (flagOf i.words 24 || (partOf s w.part).verifyAll) ((pieces 24 bs).map keyOf) s {} = (t, x))
    (queues : t.parts = s.parts) (all : x.count = bits (opA i.words) 15 0) :
    ∃ u, exec (.seek w) s = .next u ∧ u.index = t.index ∧
      Finished u w (if x.refused then St.busy else St.ok) x.hits [.devWrite (extAddr i.words 1) x.bytes] := by
  obtain ⟨-, issued, open_, -⟩ := id h
  have kept : issuedOf t w = some i := by rwa [issuedOf, partOf, queues]
  have noted : issuedOf (modIssued t w (seekNotes x)) w = some (seekNotes x i) := by
    rw [issuedOf_modIssued_self (f := seekNotes x) (fun _ => rfl) kept, changeIssued_open open_]
  have ended := issuedOf_modIssued_self (f := seekEnds) (fun _ => rfl) noted
  refine ⟨_, (seek_searches h read (by rw [fresh, unsearched, once]; exact run)).trans (congrArg _ (if_neg (by omega))), rfl,
    _, ended, ?_⟩
  simp [changeIssued, seekEnds, seekNotes, open_, zero, plain, unsearched]

end

/-- Settles O32: with the regulator off no search waits, and one that finds its hit equal to the shadow is not repeated. -/
theorem seekFindsTheLowestMatch : Obligations.SeekFindsTheLowestMatch := by
  refine ⟨?_, fun s p key x e => search_lowest⟩
  intro s w i bs h fresh unsearched zero plain once off p keys verify read len
  refine ⟨fun cool mirrored => ?_, fun hot keyed => ?_⟩
  · obtain ⟨c, run⟩ := seekFrom_finds verify keys (x := {}) off cool mirrored rfl rfl
    obtain ⟨u, ran, index, ended⟩ := seek_ends h fresh unsearched zero plain once read run rfl ((Nat.zero_add _).trans len)
    simp only [Nat.zero_add] at ended
    exact ⟨u, ran, index, ended⟩
  · obtain ⟨k, ks, split⟩ := List.exists_cons_of_ne_nil keyed
    obtain ⟨c, run⟩ := seekFrom_refuses verify ks (x := {}) k off hot
    rw [← split] at run
    obtain ⟨u, ran, index, ended⟩ := seek_ends h fresh unsearched zero plain once read run rfl ((Nat.zero_add _).trans len)
    exact ⟨u, ran, by rw [index]; rfl, by rw [index]; rfl, ended⟩

end Sys2Proof.Machine
end

section
/-! PROOFS. Entries placed and removed: INSERT, DELETE and PAIR (O33). -/

namespace Sys2Proof.Machine

open Sys2Proof.Safety

/-! ## Positions written (R289) -/

theorem rewriteWords_index (s : State) (a n : Nat) : (rewriteWords s a n).index = s.index := by
  unfold rewriteWords
  induction wordsOf a n generalizing s with
  | nil => rfl
  | cons w ws ih => exact (ih _).trans rfl

theorem writePos_array (s : State) (x : Nat) (e : Option IxEntry) : (writePos s x e).index.array = putPos s.index.array x e := by
  simp only [writePos, writeShadow, rewriteWords_index]

theorem writePos_shadow (s : State) (x : Nat) (e : Option IxEntry) : (writePos s x e).index.shadow = putPos s.index.shadow x e := by
  simp only [writePos, writeShadow, rewriteWords_index]

theorem foldl_writePos_array (f : Nat → Option IxEntry) (xs : List Nat) (s : State) :
    (xs.foldl (fun s x => writePos s x (f x)) s).index.array = xs.foldl (fun m x => putPos m x (f x)) s.index.array := by
  induction xs generalizing s with
  | nil => rfl
  | cons x xs ih => rw [List.foldl_cons, ih, writePos_array, List.foldl_cons]

theorem foldl_writePos_shadow (f : Nat → Option IxEntry) (xs : List Nat) (s : State) :
    (xs.foldl (fun s x => writePos s x (f x)) s).index.shadow = xs.foldl (fun m x => putPos m x (f x)) s.index.shadow := by
  induction xs generalizing s with
  | nil => rfl
  | cons x xs ih => rw [List.foldl_cons, ih, writePos_shadow, List.foldl_cons]

theorem find?_foldl_putPos (f : Nat → Option IxEntry) (xs : List Nat) (y : Nat) : ∀ {m : AMap IxEntry}, AMap.wf m = true →
    AMap.find? (xs.foldl (fun m x => putPos m x (f x)) m) y = if y ∈ xs then f y else AMap.find? m y := by
  induction xs with
  | nil => exact fun _ => (if_neg List.not_mem_nil).symm
  | cons x xs ih =>
    intro m wf
    rw [List.foldl_cons, ih (wf_putPos wf x _)]
    by_cases later : y ∈ xs
    · rw [if_pos later, if_pos (.tail _ later)]
    · by_cases here : y = x
      · rw [if_neg later, if_pos (here ▸ .head _), here, find?_putPos_self wf]
      · rw [if_neg later, if_neg (by simp [here, later]), find?_putPos_ne _ _ here]

/-- An entry stored is found whatever form the table had. -/
theorem find?_foldl_putPos_some {f : Nat → Option IxEntry} {y : Nat} {e : IxEntry} (stored : f y = some e) (xs : List Nat) :
    ∀ {m : AMap IxEntry}, y ∈ xs ∨ AMap.find? m y = some e → AMap.find? (xs.foldl (fun m x => putPos m x (f x)) m) y = some e := by
  induction xs with
  | nil => exact fun h => h.resolve_left List.not_mem_nil
  | cons x xs ih =>
    intro m h
    refine ih (m := putPos m x (f x)) ?_
    by_cases here : y = x
    · subst here
      rw [stored]
      exact .inr (AMap.find?_insert_self ..)
    · rw [find?_putPos_ne _ _ here]
      exact h.imp_left fun mem => (List.mem_cons.mp mem).resolve_left here

/-! ## A run written back (R289) -/

theorem find?_runEntriesOf (m : AMap IxEntry) (lo hi x : Nat) :
    AMap.find? (runEntriesOf m lo hi) x = if lo ≤ x ∧ x < hi then AMap.find? m x else none := by
  induction m with
  | nil => exact (ite_self _).symm
  | cons e m ih =>
    unfold runEntriesOf at ih ⊢
    by_cases here : e.1 = x
    · subst here
      by_cases inside : lo ≤ e.1 ∧ e.1 < hi
      · simp [AMap.find?, inside]
      · rw [List.filter_cons_of_neg (by simpa using inside), ih, if_neg inside, if_neg inside]
    · by_cases kept : lo ≤ e.1 ∧ e.1 < hi
      · rw [List.filter_cons_of_pos (by simpa using kept), AMap.find?, if_neg here, ih, AMap.find?, if_neg here]
      · rw [List.filter_cons_of_neg (by simpa using kept), ih, AMap.find?, if_neg here]

/-- The positions of a run that a copy of it changes. -/
def changedBy (s : State) (r : RunCopy) : List Nat :=
  let old := runEntriesOf s.index.array r.lo r.hi
  ((AMap.keys old ++ AMap.keys r.ents).eraseDups).filter (fun x => AMap.find? old x != AMap.find? r.ents x)

theorem mem_changedBy {s : State} {r : RunCopy} {x : Nat} :
    x ∈ changedBy s r ↔ AMap.find? (runEntriesOf s.index.array r.lo r.hi) x ≠ AMap.find? r.ents x := by
  simp only [changedBy, List.mem_filter, List.mem_eraseDups, List.mem_append, bne_iff_ne, and_iff_right_iff_imp]
  intro differ
  by_cases hole : AMap.find? (runEntriesOf s.index.array r.lo r.hi) x = none
  · exact .inr (mem_keys_of_find?_ne fun none_ => differ (hole.trans none_.symm))
  · exact .inl (mem_keys_of_find?_ne hole)

theorem writeRun_index (s : State) (r : RunCopy) (moves p : Nat) :
    (writeRun s r moves p).index = ((changedBy s r).foldl (fun s x => writePos s x (AMap.find? r.ents x)) s).index :=
  (apply_ite State.index ..).trans (by rw [countEv_index]; exact ite_self _)

section
variable {s : State} {r : RunCopy} {moves p x : Nat} (wf : AMap.wf s.index.array = true)
include wf

theorem find?_writeRun : AMap.find? (writeRun s r moves p).index.array x =
    if x ∈ changedBy s r then AMap.find? r.ents x else AMap.find? s.index.array x := by
  rw [writeRun_index, foldl_writePos_array, find?_foldl_putPos _ _ _ wf]

theorem find?_writeRun_inside (lo : r.lo ≤ x) (hi : x < r.hi) :
    AMap.find? (writeRun s r moves p).index.array x = AMap.find? r.ents x := by
  rw [find?_writeRun wf]
  by_cases h : x ∈ changedBy s r
  · rw [if_pos h]
  · rw [if_neg h]
    rw [mem_changedBy, not_not, find?_runEntriesOf, if_pos ⟨lo, hi⟩] at h
    exact h

theorem find?_writeRun_same (same : AMap.find? r.ents x = AMap.find? (runEntriesOf s.index.array r.lo r.hi) x) :
    AMap.find? (writeRun s r moves p).index.array x = AMap.find? s.index.array x := by
  rw [find?_writeRun wf, if_neg (by rw [mem_changedBy, not_not, same])]

end

theorem find?_writeRun_shadow {s : State} {r : RunCopy} {moves p x : Nat} {e : IxEntry} (stored : AMap.find? r.ents x = some e)
    (hole : AMap.find? (runEntriesOf s.index.array r.lo r.hi) x = none) :
    AMap.find? (writeRun s r moves p).index.shadow x = some e := by
  rw [writeRun_index, foldl_writePos_shadow]
  exact find?_foldl_putPos_some stored _ (.inl (mem_changedBy.mpr (by simp [hole, stored])))

theorem issuedOf_writeRun (s : State) (r : RunCopy) (moves p : Nat) (w : IRef) : issuedOf (writeRun s r moves p) w = issuedOf s w := by
  simp only [issuedOf, partOf, writeRun_parts]

theorem inside_of_mem_runCopy {s : State} {p x : Nat} {o : IxEntry} (listed : (x, o) ∈ (runCopy s p).ents) :
    (runCopy s p).lo ≤ x ∧ x < (runCopy s p).hi := (mem_runEntriesOf.mp listed).2

/-- A copy of a run with one position written. -/
def withPos (r : RunCopy) (x : Nat) (e : Option IxEntry) : RunCopy := { r with ents := putPos r.ents x e }

section
variable {s : State} {p x : Nat} {e : Option IxEntry} {moves : Nat} (wf : AMap.wf s.index.array = true)
include wf

theorem wf_runCopy (p : Nat) : AMap.wf (runCopy s p).ents = true := wf_runEntriesOf wf ..

theorem withPos_written (lo : (runCopy s p).lo ≤ x) (hi : x < (runCopy s p).hi) :
    AMap.find? (writeRun s (withPos (runCopy s p) x e) moves p).index.array x = e :=
  (find?_writeRun_inside (r := withPos (runCopy s p) x e) wf lo hi).trans (find?_putPos_self (wf_runCopy wf p) ..)

theorem withPos_others {y : Nat} (other : y ≠ x) :
    AMap.find? (writeRun s (withPos (runCopy s p) x e) moves p).index.array y = AMap.find? s.index.array y :=
  find?_writeRun_same wf (find?_putPos_ne _ _ other)

end

/-! ## Bands and holes (R282, R284) -/

theorem bandRange_inside (r : RunCopy) (b : Nat) : r.lo ≤ (bandRange r b).1 ∧ (bandRange r b).2 ≤ r.hi := by
  simp only [bandRange, List.foldl_max, List.foldl_min]
  exact ⟨Nat.le_max_left .., Nat.min_le_left ..⟩

theorem lowestHole_hole {r : RunCopy} {end_ x : Nat} : ∀ {n from_ : Nat}, lowestHole r n from_ end_ = some x →
    from_ ≤ x ∧ x < end_ ∧ AMap.find? r.ents x = none := by
  intro n
  induction n with
  | zero => exact fun h => nomatch h
  | succ n ih =>
    intro from_ h
    rw [lowestHole] at h
    split at h
    · next inside =>
      split at h
      · next allowed =>
        cases h
        rw [holeAllowed, Bool.and_eq_true, Option.isNone_iff_eq_none] at allowed
        exact ⟨Nat.le_refl _, inside, allowed.1⟩
      · obtain ⟨above, rest⟩ := ih h
        exact ⟨(Nat.le_succ _).trans above, rest⟩
    · cases h

/-- A hole of a band's range lies in the run. -/
theorem bandHole_inside {r : RunCopy} {n b x : Nat} (hole : lowestHole r n (bandRange r b).1 (bandRange r b).2 = some x) :
    r.lo ≤ x ∧ x < r.hi ∧ AMap.find? r.ents x = none := by
  obtain ⟨lo, hi⟩ := bandRange_inside r b
  obtain ⟨above, below, empty⟩ := lowestHole_hole hole
  exact ⟨lo.trans above, below.trans_le hi, empty⟩

/-! ## One record on a run (R275, R285, R287) -/

theorem sameEntry_iff (a b : IxEntry) : sameEntry a b = true ↔ a.value = b.value ∧ a.mask = b.mask := by
  simp [sameEntry]

/-- The first element that a predicate takes is the first that a narrower one takes, where it does. -/
theorem find?_narrower {α : Type} {f g : α → Bool} {l : List α} {a : α} (first : l.find? f = some a) (takes : g a = true)
    (narrower : ∀ b, g b = true → f b = true) : l.find? g = some a := by
  obtain ⟨-, before, behind, split, missed⟩ := List.find?_eq_some_iff_append.mp first
  refine List.find?_eq_some_iff_append.mpr ⟨takes, before, behind, split, fun b hb => ?_⟩
  rw [Bool.not_eq_true', Bool.eq_false_iff]
  exact fun taken => absurd (narrower b taken) (by simpa using missed b hb)

section
variable {r : RunCopy} {rec : IxRecord} {x limit : Nat} {o : IxEntry} {spread : Bool}

theorem oldEntry_of_find? {e : IxEntry} {old : Option (Nat × IxEntry)}
    (found : List.find? (fun (y : Nat × IxEntry) => sameEntry y.2 e) r.ents = old) : oldEntry r e = old.map Prod.snd :=
  congrArg _ found

/-- The equal entry removed, or written in place. -/
theorem makeChange_found (found : List.find? (fun (y : Nat × IxEntry) => sameEntry y.2 rec.entry) r.ents = some (x, o)) :
    makeChange r r rec (some o) = withPos r x (if rec.op || o.band != rec.entry.band then none else some rec.entry) := by
  have same : sameEntry o rec.entry = true := by simpa using List.find?_some found
  have listed : List.find? (fun (e : Nat × IxEntry) => e.2 == o) r.ents = some (x, o) :=
    find?_narrower found (beq_self_eq_true o) fun b hb => by rw [eq_of_beq hb, same]
  simp only [makeChange, Option.bind_some, listed]
  split <;> rfl

theorem applyChange_inPlace (found : List.find? (fun (y : Nat × IxEntry) => sameEntry y.2 rec.entry) r.ents = some (x, o))
    (writes : rec.op = false) (band : o.band = rec.entry.band) :
    applyChange r rec limit spread = .done (withPos r x (some rec.entry)) [] (some o.result) := by
  simp [applyChange, planChange, oldEntry_of_find? found, makeChange_found found, writes, band]

theorem applyChange_deleted (found : List.find? (fun (y : Nat × IxEntry) => sameEntry y.2 rec.entry) r.ents = some (x, o))
    (deletes : rec.op = true) : applyChange r rec limit spread = .done (withPos r x none) [] (some o.result) := by
  simp [applyChange, planChange, oldEntry_of_find? found, makeChange_found found, deletes]

theorem applyChange_missing (found : List.find? (fun (y : Nat × IxEntry) => sameEntry y.2 rec.entry) r.ents = none)
    (deletes : rec.op = true) : applyChange r rec limit spread = .failed St.notFound := by
  simp only [applyChange, planChange, oldEntry_of_find? found, Option.map_none, deletes, if_true]

variable (found : List.find? (fun (y : Nat × IxEntry) => sameEntry y.2 rec.entry) r.ents = none) (writes : rec.op = false)
include found writes

theorem applyChange_placed
    (hole : lowestHole r (r.hi - r.lo) (bandRange r rec.entry.band).1 (bandRange r rec.entry.band).2 = some x) :
    applyChange r rec limit spread = .done (withPos r x (some rec.entry)) [] none := by
  simp only [applyChange, planChange, oldEntry_of_find? found, Option.map_none, writes, placeEntry, hole, Bool.false_eq_true, if_false]
  rfl

theorem applyChange_full
    (full : lowestHole r (r.hi - r.lo) (bandRange r rec.entry.band).1 (bandRange r rec.entry.band).2 = none)
    (none_ : nearestHole r (bandRange r rec.entry.band) = none) : applyChange r rec limit spread = .failed St.indexFull := by
  simp only [applyChange, planChange, oldEntry_of_find? found, Option.map_none, writes, placeEntry, full, none_, Bool.false_eq_true, if_false]

end

/-! ## INSERT of one record (R285) -/

/-- What an instruction writes back into a record at an address: REPLACED and the result of the entry replaced, if any (R274). -/
def replacedAt (addr word : Nat) : Option Nat → List Effect
  | some x => writeBack addr word x
  | none => []

/-- What an INSERT notes of n records written. -/
def insertNotes (n : Nat) (fx : List Effect) (i : Issued) : Issued :=
  { i with started := true, aux := 2 * (i.aux / 2 + n) + 1, result := i.result + n, effects := i.effects ++ fx }

section
variable {s t : State} {w : IRef} {i : Issued} {bs b : List Byte} {n : Nat} {fx : List Effect} {st : Option Nat}

theorem insert_runs (h : Working s w 0x51 i) (steady : (partOf s w.part).respread = false)
    (read : devRead s (addrB i.words) (48 * bits (opA i.words) 15 0) = some bs) (ok : (pieces 48 bs).any (fun r => !(ixRecord r).ok) = false)
    (run : insertFrom w.part (addrB i.words) (i.aux % 2 == 1)
      (((List.range (bits (opA i.words) 15 0)).zip (pieces 48 bs)).drop (i.aux / 2)) s [] 0 = (t, fx, n, st)) :
    exec (.insert w) s = .next (modIssued (modIssued t w (insertNotes n fx)) w (fun i => { i with status := st })) := by
  refine (withInstr_working h).trans (congrArg _ ?_)
  dsimp only
  rw [if_neg (by simp [steady]), read]
  dsimp only
  rw [if_neg (by simp [ok]), run]
  rfl

end

section
variable {s t : State} {w : IRef} {i : Issued} {bs b : List Byte} {n status : Nat} {fx : List Effect} {r : RunCopy}
  (steady : (partOf s w.part).respread = false) (read : devRead s (addrB i.words) (48 * bits (opA i.words) 15 0) = some bs)
  (one : pieces 48 bs = [b]) (count : bits (opA i.words) 15 0 = 1) (ok : (ixRecord b).ok = true)
include steady read one count ok

section
variable (h : Working s w 0x51 i) (first : i.aux = 0) (zero : i.result = 0) (plain : i.effects = [])
include h first zero plain

theorem insert_ends (run : insertFrom w.part (addrB i.words) false [(0, b)] s [] 0 = (t, fx, n, some status)) (queues : t.parts = s.parts) :
    ∃ u, exec (.insert w) s = .next u ∧ Finished u w status n fx ∧ u.index = t.index := by
  obtain ⟨-, issued, open_, -⟩ := id h
  have kept : issuedOf t w = some i := by rwa [issuedOf, partOf, queues]
  have noted : issuedOf (modIssued t w (insertNotes n fx)) w = some (insertNotes n fx i) := by
    rw [issuedOf_modIssued_self (f := insertNotes n fx) (fun _ => rfl) kept, changeIssued_open open_]
  have ended := issuedOf_modIssued_self (f := fun i => { i with status := some status }) (fun _ => rfl) noted
  refine ⟨_, insert_runs h steady read (by simp [one, ok]) (by rw [first, count, one]; exact run), ⟨_, ended, ?_⟩, rfl⟩
  simp [changeIssued, insertNotes, open_, zero, plain]

/-- A record that is written. -/
theorem insert_writes {ms : List (Nat × Nat)} {old : Option Nat}
    (change : applyChange (runCopy s w.part) { ixRecord b with op := false } (shiftLimit s w.part) false = .done r ms old) :
    ∃ u, exec (.insert w) s = .next u ∧ Finished u w St.ok 1 (replacedAt (addrB i.words) (leAt b 0x10 8) old) ∧
      u.index = (writeRun s r ms.length w.part).index := by
  refine insert_ends steady read one count ok h first zero plain ?_ (writeRun_parts s r ms.length w.part)
  rw [insertFrom, Bool.false_and, change]
  cases old <;> rfl

theorem insert_stops
    (change : applyChange (runCopy s w.part) { ixRecord b with op := false } (shiftLimit s w.part) false = .failed status) :
    ∃ u, exec (.insert w) s = .next u ∧ Finished u w status 0 [] ∧ u.index = s.index := by
  refine insert_ends steady read one count ok h first zero plain ?_ rfl
  rw [insertFrom, Bool.false_and, change]

end

/-! ## DELETE of one record (R287) -/

section
variable (h : Working s w 0x52 i)
include h

theorem delete_runs {miss : Bool}
    (run : deleteFrom w.part (addrB i.words) [(0, b)] s [] 0 false = (t, fx, n, miss)) :
    exec (.delete w) s = .next (finish t w (if miss then St.notFound else St.ok) n fx) := by
  refine (withInstr_working h).trans (congrArg _ ?_)
  dsimp only
  rw [if_neg (by simp [steady]), read]
  dsimp only
  rw [if_neg (by simp [one, ok]), one, count]
  exact congrArg (fun a => finish a.1 w (if a.2.2.2 then St.notFound else St.ok) a.2.2.1 a.2.1) run

/-- A record whose entry stands in the run. -/
theorem delete_removes {old : Nat}
    (change : applyChange (runCopy s w.part) { ixRecord b with op := true } (shiftLimit s w.part) false = .done r [] (some old)) :
    ∃ u, exec (.delete w) s = .next u ∧ Finished u w St.ok 1 (writeBack (addrB i.words) (leAt b 0x10 8) old) ∧
      u.index = (writeRun s r 0 w.part).index := by
  obtain ⟨-, issued, open_, -⟩ := id h
  refine ⟨_, delete_runs steady read one count ok h (by rw [deleteFrom, change]; rfl), ?_, rfl⟩
  exact ⟨_, issuedOf_finish_self _ _ _ ((issuedOf_writeRun ..).trans issued) open_, rfl, rfl, rfl⟩

theorem delete_misses
    (change : applyChange (runCopy s w.part) { ixRecord b with op := true } (shiftLimit s w.part) false = .failed status) :
    ∃ u, exec (.delete w) s = .next u ∧ Finished u w St.notFound 0 [] ∧ u.index = s.index := by
  obtain ⟨-, issued, open_, -⟩ := id h
  refine ⟨_, delete_runs steady read one count ok h (by rw [deleteFrom, change]; rfl), ?_, rfl⟩
  exact ⟨_, issuedOf_finish_self _ _ _ issued open_, rfl, rfl, rfl⟩

end

end

/-! ## PAIR (R288) -/

/-- The run after both changes of a PAIR, made on the run m that its moves leave. -/
def bothChanged (r m : RunCopy) (a b : IxRecord) : RunCopy :=
  makeChange m (makeChange m m a (oldEntry r a.entry)) b (oldEntry r b.entry)

/-- What a PAIR of 96 bytes at an address writes back into its records (R288). -/
def pairBack (base : Nat) (bs : List Byte) (r : RunCopy) : List Effect :=
  replacedAt base (leAt bs 0x10 8) ((oldEntry r (ixRecord (bs.take 48)).entry).map (·.result))
    ++ replacedAt (base + 48) (leAt bs (48 + 0x10) 8) ((oldEntry r (ixRecord (bs.drop 48)).entry).map (·.result))

/-- PAIR fails by what either record lacks, and else applies both. -/
theorem pair_runs {s : State} {w : IRef} {i : Issued} {bs : List Byte} (h : Working s w 0x53 i)
    (steady : (partOf s w.part).respread = false) (read : devRead s (addrB i.words) 96 = some bs)
    (okA : (ixRecord (bs.take 48)).ok = true) (okB : (ixRecord (bs.drop 48)).ok = true) :
    (∀ m1 ms1 m2 ms2,
      planChange (runCopy s w.part) (runCopy s w.part) (ixRecord (bs.take 48)) (shiftLimit s w.part) i.started = .placed m1 ms1 →
      planChange (runCopy s w.part) m1 (ixRecord (bs.drop 48)) (shiftLimit s w.part) i.started = .placed m2 ms2 →
      exec (.pair w) s = .next (finish
        (writeRun s (bothChanged (runCopy s w.part) m2 (ixRecord (bs.take 48)) (ixRecord (bs.drop 48))) (ms1.length + ms2.length) w.part)
        w St.ok 0 (pairBack (addrB i.words) bs (runCopy s w.part)))) ∧
    (∀ m1 ms1 st,
      planChange (runCopy s w.part) (runCopy s w.part) (ixRecord (bs.take 48)) (shiftLimit s w.part) i.started = .placed m1 ms1 →
      planChange (runCopy s w.part) m1 (ixRecord (bs.drop 48)) (shiftLimit s w.part) i.started = .failed st →
      exec (.pair w) s = .next (finish s w st 0)) ∧
    (∀ st, planChange (runCopy s w.part) (runCopy s w.part) (ixRecord (bs.take 48)) (shiftLimit s w.part) i.started = .failed st →
      exec (.pair w) s = .next (finish s w st 0)) := by
  have ran : exec (.pair w) s = _ := withInstr_working h
  simp only [steady, read, okA, okB, Bool.not_true, Bool.or_self, Bool.false_eq_true, if_false] at ran
  refine ⟨fun m1 ms1 m2 ms2 first second => ?_, fun m1 ms1 st first fails => ?_, fun st fails => ?_⟩
  · simp only [first, second] at ran
    refine ran.trans ?_
    unfold pairBack bothChanged
    cases oldEntry (runCopy s w.part) (ixRecord (bs.take 48)).entry <;>
      cases oldEntry (runCopy s w.part) (ixRecord (bs.drop 48)).entry <;> rfl
  · simp only [first, fails] at ran
    exact ran
  · simp only [fails] at ran
    exact ran

/-! ## The stored entry (R275) -/

theorem ixRecord_value_testBit (b : List Byte) (k : Nat) : (ixRecord b).entry.value.testBit k =
    ((leAt b 0 16 + bits (leAt b 0x10 8) 15 0 * 2 ^ 128).testBit k && (ixRecord b).entry.mask.testBit k) :=
  Nat.testBit_and ..

/-- Settles O33: a change writes one position of the copy of its run, and a run written back changes no position that its copy keeps. -/
theorem indexWritesPlaceEntries : Obligations.IndexWritesPlaceEntries := by
  refine ⟨?_, ?_, fun s x e wf => ?_, fun b k off => ?_, fun b k on => ?_, sameEntry_iff⟩
  · intro s w i bs b steady read one count ok wf p r e word old
    refine ⟨fun h _ first zero plain => ⟨fun x found hole => ?_, fun x o found band => ?_, fun found full none_ => ?_⟩,
      fun h => ⟨fun x o found => ?_, fun found => ?_⟩⟩
    · obtain ⟨lo, hi, empty⟩ := bandHole_inside hole
      obtain ⟨t, run, ended, index⟩ := insert_writes steady read one count ok h first zero plain (applyChange_placed found rfl hole)
      refine ⟨t, run, ended, ?_⟩
      rw [index]
      exact ⟨withPos_written wf lo hi, find?_writeRun_shadow (AMap.find?_insert_self ..) empty, fun y => withPos_others wf⟩
    · obtain ⟨lo, hi⟩ := inside_of_mem_runCopy (List.mem_of_find?_eq_some found)
      obtain ⟨t, run, ended, index⟩ := insert_writes steady read one count ok h first zero plain (applyChange_inPlace found rfl band)
      refine ⟨t, run, ended, ?_⟩
      rw [index]
      exact ⟨withPos_written wf lo hi, fun y => withPos_others wf⟩
    · exact insert_stops steady read one count ok h first zero plain (applyChange_full found rfl full none_)
    · obtain ⟨lo, hi⟩ := inside_of_mem_runCopy (List.mem_of_find?_eq_some found)
      obtain ⟨t, run, ended, index⟩ := delete_removes steady read one count ok h (applyChange_deleted found rfl)
      refine ⟨t, run, ended, ?_⟩
      rw [index]
      exact ⟨withPos_written wf lo hi, fun y => withPos_others wf⟩
    · exact delete_misses steady read one count ok h (applyChange_missing found rfl)
  · intro s w i bs h steady read okA okB wf p lim r a b
    obtain ⟨-, issued, open_, -⟩ := id h
    obtain ⟨both, second, first⟩ := pair_runs h steady read okA okB
    refine ⟨fun m1 ms1 m2 ms2 p1 p2 => ⟨_, pairBack (addrB i.words) bs r, both m1 ms1 m2 ms2 p1 p2, ?_, fun newA newB => ?_, fun x => ?_⟩,
      second, first⟩
    · exact ⟨_, issuedOf_finish_self _ _ _ ((issuedOf_writeRun ..).trans issued) open_, rfl, rfl, rfl⟩
    · rw [pairBack, newA, newB]
      rfl
    · exact find?_writeRun_inside wf
  · rw [writePos_array]
    exact wf_putPos wf x e
  · rw [ixRecord_value_testBit, off, Bool.and_false]
  · rw [ixRecord_value_testBit, on, Bool.and_true]

end Sys2Proof.Machine
end

section
/-! PROOFS. The shapers: a queue examined, the wheels' releases, gates and idle leaves (O55). -/

namespace Sys2Proof.Machine

open Sys2Proof.Safety

/-! ## The time for which a queue waits (R308, R309, R313) -/

/-- A place on a wheel whose interval has not begun; the other places are on no wheel. -/
def Later (now : Nat) : Parked → Prop
  | .main i _ => now < i * 128
  | .overflow i _ => now < i * 0x100000
  | _ => True

theorem parkPlace_later {now e : Nat} (h : now < e) (count : Nat) : Later now (parkPlace now e count) := by
  unfold parkPlace
  split
  · trivial
  · split
    · simp only [Later, ceilDiv, OfNat.ofNat_ne_zero, if_false]
      omega
    · split <;> simp only [Later] <;> omega

theorem lt_ceilDiv {last a b : Nat} (ha : 0 < a) (hb : b ≠ 0) : last < last + ceilDiv a b := by
  have one : 0 < (a + b - 1) / b := Nat.div_pos (by omega) (by omega)
  simpa [ceilDiv, hb] using one

theorem lt_of_bucketCovers_false {level size need : Nat} (h : bucketCovers level size need = false) : level < need := by
  simp only [bucketCovers, Bool.or_eq_false_iff, decide_eq_false_iff_not] at h
  omega

/-- A bucket that does not cover a need has what it lacks after the meter's last refill. -/
theorem bucket_waits {level size need rate last e : Nat} (h : bucketCovers level size need = false)
    (wait : (if bucketCovers level size need then some last else if rate = 0 then none else some (last + ceilDiv (need - level) rate)) =
      some e) : last < e := by
  rw [if_neg (by simp [h])] at wait
  split at wait
  · cases wait
  · next rated =>
    cases wait
    exact lt_ceilDiv (Nat.sub_pos_of_lt (lt_of_bucketCovers_false h)) rated

/-- A colour that does not meet the policy leaves a bucket that the policy needs without cover. -/
theorem uncovered_of_colour {m : Meter} {n : Nat} (h : colourOk m (colourOf m n) = false) :
    bucketCovers m.p (m.pbs * 8000) (n * 8000) = false ∨
      m.policy = false ∧ bucketCovers m.c (m.cbs * 8000) (n * 8000) = false := by
  cases hp : bucketCovers m.p (m.pbs * 8000) (n * 8000) with
  | false => exact .inl rfl
  | true =>
    refine .inr ?_
    cases he : m.enable with
    | false => simp [colourOf, colourOk, he] at h
    | true => cases hc : bucketCovers m.c (m.cbs * 8000) (n * 8000) <;> simp_all [colourOf, colourOk]

theorem eligibleAt_later {m : Meter} {n e : Nat} (red : colourOk m (colourOf m n) = false) (h : eligibleAt m n = some e) :
    m.last < e := by
  unfold eligibleAt at h
  dsimp only at h
  split at h
  · next policy =>
    exact bucket_waits ((uncovered_of_colour red).resolve_right fun c => by simp [policy] at c) h
  · split at h
    · next a b ha hb =>
      cases h
      rcases uncovered_of_colour red with hp | ⟨-, hc⟩
      · exact lt_max_of_lt_right (bucket_waits hp hb)
      · exact lt_max_of_lt_left (bucket_waits hc ha)
    · cases h

/-! ## A queue parked and examined (R308 to R310) -/

/-- A port whose queue of (part, tc) waits nowhere. -/
def unpark (part tc : Nat) (t : TsPort) : TsPort := { t with parked := t.parked.filter (fun e => e.1 != (part, tc)) }

/-- A port whose queue of (part, tc) waits in a place, behind the queues parked before it. -/
def parkIn (part tc : Nat) (k : Parked) (t : TsPort) : TsPort := { t with parked := (unpark part tc t).parked ++ [((part, tc), k)] }

theorem parkIn_unpark (part tc : Nat) (k : Parked) (t : TsPort) : parkIn part tc k (unpark part tc t) = parkIn part tc k t := by
  simp [parkIn, unpark]

theorem park_ports (s : State) (port part tc : Nat) (k : Parked) :
    (park s port part tc k).shaper.ports = (modTs s port (parkIn part tc k)).shaper.ports := by
  cases k <;> rfl

theorem tsPort_of_ports {s t : State} (h : t.shaper.ports = s.shaper.ports) (n : Nat) : tsPort t n = tsPort s n := by
  rw [tsPort, tsPort, h]

theorem tsPort_park (s : State) (port part tc : Nat) (k : Parked) :
    tsPort (park s port part tc k) port = parkIn part tc k (tsPort s port) :=
  (tsPort_of_ports (park_ports ..) port).trans (tsPort_modTs_self ..)

theorem tsPort_park_ne (s : State) {port n : Nat} (part tc : Nat) (k : Parked) (h : n ≠ port) :
    tsPort (park s port part tc k) n = tsPort s n :=
  (tsPort_of_ports (park_ports ..) n).trans (tsPort_modTs_ne _ _ h)

/-- What an examination does to its port: the queue leaves its place, and waits again for a time to come or waits nowhere. -/
theorem tsPort_examine (s : State) (port part tc : Nat) :
    tsPort (examine s port part tc) port = unpark part tc (tsPort s port) ∨
      ∃ k, Later s.now k ∧ tsPort (examine s port part tc) port = parkIn part tc k (tsPort s port) := by
  have parks : ∀ k, tsPort (park (modTs s port (unpark part tc)) port part tc k) port = parkIn part tc k (tsPort s port) := fun k => by
    rw [tsPort_park, tsPort_modTs_self, parkIn_unpark]
  unfold examine
  dsimp only
  split
  · exact .inl (tsPort_modTs_self ..)
  · split
    · exact .inl (tsPort_modTs_self ..)
    · next red =>
      split
      · exact .inr ⟨.zeroRate, trivial, parks _⟩
      · next e wait =>
        exact .inr ⟨_, parkPlace_later (eligibleAt_later (Bool.not_eq_true _ ▸ red) wait) _, parks _⟩

theorem tsPort_examine_ne (s : State) {port n : Nat} (part tc : Nat) (h : n ≠ port) :
    tsPort (examine s port part tc) n = tsPort s n := by
  have parks : ∀ k, tsPort (park (modTs s port (unpark part tc)) port part tc k) n = tsPort s n := fun k =>
    (tsPort_park_ne _ _ _ _ h).trans (tsPort_modTs_ne _ _ h)
  unfold examine
  dsimp only
  split
  · exact tsPort_modTs_ne _ _ h
  · split
    · exact tsPort_modTs_ne _ _ h
    · split <;> exact parks _

theorem frames_examine (s : State) (port part tc : Nat) : (tsPort (examine s port part tc) port).frames = (tsPort s port).frames := by
  rcases tsPort_examine s port part tc with h | ⟨k, -, h⟩ <;> rw [h] <;> rfl

theorem vtime_examine (s : State) (port part tc : Nat) : (tsPort (examine s port part tc) port).vtime = (tsPort s port).vtime := by
  rcases tsPort_examine s port part tc with h | ⟨k, -, h⟩ <;> rw [h] <;> rfl

/-- A length depends on a port's OVERHEAD alone among what TS holds. -/
theorem frameLen_modTs {s : State} {port : Nat} {g : TsPort → TsPort} (h : (g (tsPort s port)).overhead = (tsPort s port).overhead)
    (f : QFrame) : frameLen (modTs s port g) port f = frameLen s port f := by
  have size : frameSize (modTs s port g) port f.frame = frameSize s port f.frame := rfl
  simp only [frameLen, overheadOf, tsPort_modTs_self, h, size]

/-- A class queue whose head meets its meter waits nowhere after it is examined. -/
theorem examine_eligible {s : State} {port part tc : Nat} {f : QFrame} (head : classHead (tsPort s port) part tc = some f)
    (ok : colourOk (meterOf s part tc port) (colourOf (meterOf s part tc port) (frameLen s port f)) = true) :
    examine s port part tc = modTs s port (unpark part tc) := by
  have head' : classHead (tsPort (modTs s port (unpark part tc)) port) part tc = some f := by
    rw [tsPort_modTs_self]
    exact head
  have len : frameLen (modTs s port (unpark part tc)) port f = frameLen s port f := frameLen_modTs rfl f
  have ok' : colourOk (meterOf (modTs s port (unpark part tc)) part tc port)
      (colourOf (meterOf (modTs s port (unpark part tc)) part tc port) (frameLen (modTs s port (unpark part tc)) port f)) = true := by
    rw [len]
    exact ok
  unfold examine
  unfold unpark at head' ok' ⊢
  dsimp only
  rw [head']
  exact if_pos ok'

/-- What O55 says of PENDING_REEXAMINE. -/
theorem pendingReexamine_examines {s : State} {port part tc e : Nat} (h : ready s = true)
    (waits : (tsPort s port).parked = [((part, tc), .pending e)]) (due : e ≤ s.now) :
    ∃ t, exec (.pendingReexamine part tc port) s = .next t ∧
      (∀ f, classHead (tsPort s port) part tc = some f →
        colourOk (meterOf s part tc port) (colourOf (meterOf s part tc port) (frameLen s port f)) = true →
        isParked (tsPort t port) part tc = false) ∧ (tsPort t port).frames = (tsPort s port).frames := by
  have run : exec (.pendingReexamine part tc port) s = .next (examine s port part tc) := by
    change execPendingReexamine part tc port s = _
    simp [execPendingReexamine, h, waits, due]
  refine ⟨_, run, fun f head ok => ?_, frames_examine ..⟩
  rw [examine_eligible head ok, tsPort_modTs_self]
  simp [isParked, unpark]

/-! ## Slots of the wheels released (R313, R314) -/

/-- A queue of the main wheel's slot whose interval has begun. -/
def mainDue (slot now : Nat) : Parked → Bool
  | .main i _ => i % 8192 == slot % 8192 && decide (i * 128 ≤ now)
  | _ => false

/-- A queue of the overflow wheel's slot whose interval has begun. -/
def overflowDue (slot now : Nat) : Parked → Bool
  | .overflow i _ => i % 1024 == slot % 1024 && decide (i * 0x100000 ≤ now)
  | _ => false

/-- A queue of an overflow slot moves to the main wheel, or is examined where it was parked from beyond the horizon (R313). -/
def overflowStep (slot now : Nat) (s : State) (q : Nat × Nat × Nat) : State :=
  match (tsPort s q.1).parked.find? (fun e => e.1 == (q.2.1, q.2.2) && overflowDue slot now e.2) with
  | some (_, .overflow i e) =>
    if e < (i + 1) * 0x100000 then park s q.1 q.2.1 q.2.2 (.main (ceilDiv e 128) e) else examine s q.1 q.2.1 q.2.2
  | _ => s

/-- The examination of a queue of a released slot. -/
def mainStep (s : State) (q : Nat × Nat × Nat) : State := examine s q.1 q.2.1 q.2.2

theorem exec_wheelSlotRelease {s : State} (h : ready s = true) (slot : Nat) : exec (.wheelSlotRelease slot) s =
    .next ((waitersIn s (mainDue slot s.now)).foldl mainStep s) := if_pos h

theorem exec_overflowSlotRelease {s : State} (h : ready s = true) (slot : Nat) : exec (.overflowSlotRelease slot) s =
    .next ((waitersIn s (overflowDue slot s.now)).foldl (overflowStep slot s.now) s) := if_pos h

theorem mem_waitersIn {s : State} {hit : Parked → Bool} {n part tc : Nat} :
    (n, part, tc) ∈ waitersIn s hit ↔ n < 33 ∧ ∃ k, ((part, tc), k) ∈ (tsPort s n).parked ∧ hit k = true := by
  simp only [waitersIn, ← List.flatMap_def, List.mem_flatMap, List.mem_range, List.mem_map, List.mem_filter]
  constructor
  · rintro ⟨n, hn, ⟨⟨part, tc⟩, k⟩, ⟨there, due⟩, ⟨⟩⟩
    exact ⟨hn, k, there, due⟩
  · rintro ⟨hn, k, there, due⟩
    exact ⟨n, hn, _, ⟨there, due⟩, rfl⟩

theorem mainDue_of_later {slot now : Nat} {k : Parked} (h : Later now k) : mainDue slot now k = false := by
  cases k <;> simp_all [mainDue, Later]

theorem overflowDue_of_later {slot now : Nat} {k : Parked} (h : Later now k) : overflowDue slot now k = false := by
  cases k <;> simp_all [overflowDue, Later]

/-- A step that releases queue q: it ends no wait of another queue and begins none that is due. -/
structure Frees (due : Parked → Bool) (s t : State) (q : Nat × Nat × Nat) : Prop where
  now : t.now = s.now
  due_before : ∀ n, ∀ x ∈ (tsPort t n).parked, due x.2 = true → x ∈ (tsPort s n).parked ∧ (n, x.1) ≠ q
  others : ∀ n, ∀ x ∈ (tsPort s n).parked, (n, x.1) ≠ q → x ∈ (tsPort t n).parked

/-- A queue that leaves its place, and waits again nowhere or where it is not due, is released. -/
theorem frees_of_parked {due : Parked → Bool} {s t : State} {q : Nat × Nat × Nat} (now : t.now = s.now)
    (elsewhere : ∀ n, n ≠ q.1 → tsPort t n = tsPort s n) {ks : List ((Nat × Nat) × Parked)}
    (here : (tsPort t q.1).parked = (tsPort s q.1).parked.filter (fun e => e.1 != q.2) ++ ks) (fresh : ∀ x ∈ ks, due x.2 = false) :
    Frees due s t q := by
  refine ⟨now, fun n x hx hd => ?_, fun n x hx hq => ?_⟩
  · by_cases hn : n = q.1
    · subst hn
      rw [here, List.mem_append, List.mem_filter] at hx
      rcases hx with ⟨old, key⟩ | new
      · exact ⟨old, fun same => bne_iff_ne.mp key (congrArg Prod.snd same)⟩
      · rw [fresh x new] at hd
        cases hd
    · exact ⟨elsewhere n hn ▸ hx, fun same => hn (congrArg Prod.fst same)⟩
  · by_cases hn : n = q.1
    · subst hn
      rw [here, List.mem_append, List.mem_filter]
      exact .inl ⟨hx, by simpa using fun same => hq (Prod.ext rfl same)⟩
    · exact (elsewhere n hn).symm ▸ hx

theorem examine_frees {due : Parked → Bool} {s : State} (later : ∀ k, Later s.now k → due k = false) (q : Nat × Nat × Nat) :
    Frees due s (examine s q.1 q.2.1 q.2.2) q := by
  have now := (examine_meters s q.1 q.2.1 q.2.2).2
  have elsewhere : ∀ n, n ≠ q.1 → tsPort (examine s q.1 q.2.1 q.2.2) n = tsPort s n := fun n => tsPort_examine_ne s _ _
  rcases tsPort_examine s q.1 q.2.1 q.2.2 with h | ⟨k, hk, h⟩
  · exact frees_of_parked now elsewhere (ks := []) (by rw [h, List.append_nil]; rfl) (by simp)
  · exact frees_of_parked now elsewhere (by rw [h]; rfl) (by simpa using later k hk)

theorem overflowStep_frees (slot : Nat) (s : State) (q : Nat × Nat × Nat) :
    Frees (overflowDue slot s.now) s (overflowStep slot s.now s q) q := by
  unfold overflowStep
  split
  · split
    · refine frees_of_parked (park_meters ..).2 (fun n => tsPort_park_ne s _ _ _) (by rw [tsPort_park]; rfl) ?_
      simp [overflowDue]
    · exact examine_frees (fun _ => overflowDue_of_later) q
  · next none_ =>
    refine ⟨rfl, fun n x hx hd => ⟨hx, fun same => ?_⟩, fun _ _ hx _ => hx⟩
    subst same
    cases found : (tsPort s n).parked.find? (fun e => e.1 == (x.1.1, x.1.2) && overflowDue slot s.now e.2) with
    | none => simpa [hd] using List.find?_eq_none.mp found x hx
    | some y =>
      obtain ⟨key, k⟩ := y
      have hk := List.find?_some found
      cases k with
      | overflow i e => exact none_ _ i e found
      | _ => simp [overflowDue] at hk

section

variable {due : Parked → Bool} {now : Nat} {step : State → Nat × Nat × Nat → State}
  (frees : ∀ s q, s.now = now → Frees due s (step s q) q)
include frees

/-- After a run of releases what is due was so before, and is of none of the queues released. -/
theorem due_of_foldl (qs : List (Nat × Nat × Nat)) : ∀ s : State, s.now = now → ∀ n, ∀ x ∈ (tsPort (qs.foldl step s) n).parked,
    due x.2 = true → x ∈ (tsPort s n).parked ∧ (n, x.1) ∉ qs := by
  induction qs with
  | nil => exact fun _ _ _ _ hx _ => ⟨hx, List.not_mem_nil⟩
  | cons q qs ih =>
    intro s hs n x hx hd
    have one := frees s q hs
    obtain ⟨mid, rest⟩ := ih (step s q) (one.now.trans hs) n x hx hd
    obtain ⟨old, first⟩ := one.due_before n x mid hd
    exact ⟨old, List.not_mem_cons_of_ne_of_not_mem first rest⟩

theorem mem_foldl_of_others (qs : List (Nat × Nat × Nat)) : ∀ s : State, s.now = now → ∀ n, ∀ x ∈ (tsPort s n).parked,
    (n, x.1) ∉ qs → x ∈ (tsPort (qs.foldl step s) n).parked := by
  induction qs with
  | nil => exact fun _ _ _ _ hx _ => hx
  | cons q qs ih =>
    intro s hs n x hx hq
    have one := frees s q hs
    exact ih (step s q) (one.now.trans hs) n x (one.others n x hx (List.ne_of_not_mem_cons hq)) (List.not_mem_of_not_mem_cons hq)

/-- A slot that is released keeps no queue that is due. -/
theorem released_not_due {s : State} (hs : s.now = now) {port : Nat} (hp : port ≤ 32) {x : (Nat × Nat) × Parked}
    (hx : x ∈ (tsPort ((waitersIn s due).foldl step s) port).parked) : due x.2 = false := by
  by_contra hd
  obtain ⟨old, away⟩ := due_of_foldl frees _ s hs port x hx (by simpa using hd)
  exact away (mem_waitersIn.mpr ⟨by omega, x.2, old, by simpa using hd⟩)

end

/-- What O55 says of WHEEL_SLOT_RELEASE. -/
theorem wheelSlotRelease_releases {s : State} {port : Nat} (h : ready s = true) (hp : port ≤ 32) (slot : Nat) :
    ∃ t, exec (.wheelSlotRelease slot) s = .next t ∧
      (∀ part tc i e, ((part, tc), .main i e) ∈ (tsPort t port).parked → i % 8192 = slot % 8192 → s.now < i * 128) ∧
      (∀ part tc k, ((part, tc), k) ∈ (tsPort s port).parked → (∀ i e, k = .main i e → i % 8192 ≠ slot % 8192) →
        (∀ k', ((part, tc), k') ∈ (tsPort s port).parked → k' = k) → ((part, tc), k) ∈ (tsPort t port).parked) := by
  have frees : ∀ t q, t.now = s.now → Frees (mainDue slot s.now) t (mainStep t q) q := fun t q ht =>
    examine_frees (fun _ later => mainDue_of_later (ht ▸ later)) q
  refine ⟨_, exec_wheelSlotRelease h slot, fun part tc i e hx same => ?_, fun part tc k hx away only => ?_⟩
  · have kept := released_not_due frees rfl hp hx
    simpa [mainDue, same] using kept
  · refine mem_foldl_of_others frees _ s rfl port _ hx fun waits => ?_
    obtain ⟨-, k', hk', due⟩ := mem_waitersIn.mp waits
    cases only k' hk'
    cases k with
    | main i e => exact away i e rfl (by simp only [mainDue, Bool.and_eq_true, beq_iff_eq] at due; exact due.1)
    | _ => cases due

/-! ## A queue of the overflow wheel (R313) -/

/-- A release of another port's queue leaves a port as it is. -/
theorem tsPort_overflowStep_ne (slot now : Nat) (s : State) {q : Nat × Nat × Nat} {n : Nat} (h : n ≠ q.1) :
    tsPort (overflowStep slot now s q) n = tsPort s n := by
  unfold overflowStep
  split
  · split
    · exact tsPort_park_ne _ _ _ _ h
    · exact tsPort_examine_ne _ _ _ h
  · rfl

section

variable {slot now port part tc i e : Nat}

/-- A queue that stands on the main wheel is not moved again. -/
theorem overflowStep_main {s : State} (there : (tsPort s port).parked = [((part, tc), .main i e)]) :
    overflowStep slot now s (port, part, tc) = s := by
  simp [overflowStep, there, overflowDue]

theorem overflowStep_moves {s : State} (there : (tsPort s port).parked = [((part, tc), .overflow i e)]) (same : i % 1024 = slot % 1024)
    (begun : i * 0x100000 ≤ now) (inside : e < (i + 1) * 0x100000) :
    (tsPort (overflowStep slot now s (port, part, tc)) port).parked = [((part, tc), .main (ceilDiv e 128) e)] := by
  have due : overflowDue slot now (.overflow i e) = true := by simp [overflowDue, same, begun]
  have moved : overflowStep slot now s (port, part, tc) = park s port part tc (.main (ceilDiv e 128) e) := by
    simp only [overflowStep, there, List.find?_cons, due, beq_self_eq_true, Bool.and_self, inside, if_true]
  rw [moved, tsPort_park]
  simp [parkIn, unpark, there]

/-- The only queue of a port: once moved to the main wheel, it stays there through the releases that follow. -/
theorem foldl_overflowStep_main (qs : List (Nat × Nat × Nat)) (alone : ∀ q ∈ qs, q.1 = port → q = (port, part, tc)) :
    ∀ s : State, (tsPort s port).parked = [((part, tc), .main i e)] →
      (tsPort (qs.foldl (overflowStep slot now) s) port).parked = [((part, tc), .main i e)] := by
  induction qs with
  | nil => exact fun _ there => there
  | cons q qs ih =>
    intro s there
    refine ih (fun r hr => alone r (.tail _ hr)) _ ?_
    by_cases hq : q.1 = port
    · rw [alone q (.head _) hq, overflowStep_main there, there]
    · rw [tsPort_overflowStep_ne slot now s (Ne.symm hq), there]

theorem foldl_overflowStep_moves (same : i % 1024 = slot % 1024) (begun : i * 0x100000 ≤ now) (inside : e < (i + 1) * 0x100000)
    (qs : List (Nat × Nat × Nat)) (alone : ∀ q ∈ qs, q.1 = port → q = (port, part, tc)) (among : (port, part, tc) ∈ qs) :
    ∀ s : State, (tsPort s port).parked = [((part, tc), .overflow i e)] →
      (tsPort (qs.foldl (overflowStep slot now) s) port).parked = [((part, tc), .main (ceilDiv e 128) e)] := by
  induction qs with
  | nil => cases among
  | cons q qs ih =>
    intro s there
    have rest : ∀ r ∈ qs, r.1 = port → r = (port, part, tc) := fun r hr => alone r (.tail _ hr)
    by_cases hq : q.1 = port
    · rw [List.foldl_cons, alone q (.head _) hq]
      exact foldl_overflowStep_main qs rest _ (overflowStep_moves there same begun inside)
    · refine ih rest ((List.mem_cons.mp among).resolve_left fun eq => hq (congrArg Prod.fst eq).symm) _ ?_
      rw [tsPort_overflowStep_ne slot now s (Ne.symm hq), there]

end

/-- What O55 says of OVERFLOW_SLOT_RELEASE. -/
theorem overflowSlotRelease_releases {s : State} {port : Nat} (h : ready s = true) (hp : port ≤ 32) (slot : Nat) :
    ∃ t, exec (.overflowSlotRelease slot) s = .next t ∧
      (∀ part tc i e, ((part, tc), .overflow i e) ∈ (tsPort t port).parked → i % 1024 = slot % 1024 → s.now < i * 0x100000) ∧
      (∀ part tc i e, (tsPort s port).parked = [((part, tc), .overflow i e)] → i % 1024 = slot % 1024 → i * 0x100000 ≤ s.now →
        e < (i + 1) * 0x100000 → (tsPort t port).parked = [((part, tc), .main (ceilDiv e 128) e)]) := by
  have frees : ∀ t q, t.now = s.now → Frees (overflowDue slot s.now) t (overflowStep slot s.now t q) q := fun t q ht =>
    ht ▸ overflowStep_frees slot t q
  refine ⟨_, exec_overflowSlotRelease h slot, fun part tc i e hx same => ?_, fun part tc i e there same begun inside => ?_⟩
  · have kept := released_not_due frees rfl hp hx
    simpa [overflowDue, same] using kept
  · refine foldl_overflowStep_moves same begun inside _ (fun q hq here => ?_) (mem_waitersIn.mpr ⟨by omega, .overflow i e, ?_, ?_⟩) s there
    · obtain ⟨n, p, c⟩ := q
      cases here
      obtain ⟨-, k, hk, -⟩ := mem_waitersIn.mp hq
      simp only [there, List.mem_singleton, Prod.mk.injEq] at hk
      simp [hk]
    · rw [there]
      exact .head _
    · simp [overflowDue, same, begun]

/-! ## Gates and idle leaves (R315, R316, R319) -/

/-- What O55 says of GATE_ENTRY_BOUNDARY. -/
theorem gateEntryBoundary_turns {s : State} {port nent t0 : Nat} (h : ready s = true) (runs : (tsPort s port).running = some (nent, t0))
    (ended : (tsPort s port).entryAt + entryNs (gateEntry (tsPort s port) (tsPort s port).bank (tsPort s port).entry) ≤
      localTime s (portIsland port)) :
    ∃ t, exec (.gateEntryBoundary port) s = .next t ∧ tsPort t port = { tsPort s port with
      entry := if (tsPort s port).entry < nent then (tsPort s port).entry + 1 else 0
      entryAt := (tsPort s port).entryAt + entryNs (gateEntry (tsPort s port) (tsPort s port).bank (tsPort s port).entry) } := by
  have run : exec (.gateEntryBoundary port) s = .next (modTs s port (fun t => { t with
      entry := if t.entry < nent then t.entry + 1 else 0
      entryAt := (tsPort s port).entryAt + entryNs (gateEntry (tsPort s port) (tsPort s port).bank (tsPort s port).entry) })) := by
    change execGateEntryBoundary port s = _
    simp [execGateEntryBoundary, h, runs, ended]
  exact ⟨_, run, tsPort_modTs_self ..⟩

theorem takeoverAt_first {t : TsPort} {nent base at_ : Nat} (armed : t.armed = some (nent, base)) (when_ : takeoverAt t = some at_)
    (idle : t.running = none) : at_ = max base t.armedAt := by
  simp only [takeoverAt, armed, idle, Option.ite_none_right_eq_some, Option.some.injEq] at when_
  exact when_.2.symm

/-- What O55 says of GATE_TAKEOVER. -/
theorem gateTakeover_starts {s : State} {port nent base at_ : Nat} (h : ready s = true) (armed : (tsPort s port).armed = some (nent, base))
    (enabled : (tsPort s port).enable = true) (when_ : takeoverAt (tsPort s port) = some at_)
    (come : at_ ≤ localTime s (portIsland port)) :
    ∃ t, exec (.gateTakeover port) s = .next t ∧
      tsPort t port = startList (tsPort s port) nent at_ (if (tsPort s port).bank = 0 then 1 else 0) := by
  have run : exec (.gateTakeover port) s =
      .next (modTs s port (fun t => startList t nent at_ (if t.bank = 0 then 1 else 0))) := by
    change execGateTakeover port s = _
    simp [execGateTakeover, h, armed, enabled, when_, come]
  exact ⟨_, run, tsPort_modTs_self ..⟩

theorem mem_backlogged {t : TsPort} {l : Leaf} : l ∈ backlogged t ↔ ∃ f ∈ t.frames, f.tc ≠ 0 ∧ leafOf f = l := by
  simp [backlogged, and_assoc]

/-- What O55 says of LEAF_IDLE_FORGET. -/
theorem leafIdleForget_forgets {s : State} {port part tc : Nat} {req : Option Nat} (h : ready s = true)
    (idle : ∀ f ∈ (tsPort s port).frames, leafOf f ≠ (part, tc, req)) :
    ∃ t, exec (.leafIdleForget port part tc req) s = .next t ∧
      (∀ st sent, (part, tc, req, st, sent) ∈ (tsPort t port).lastStamp → s.now < sent + 1000000000) ∧
      (∀ l ∈ (tsPort s port).lastStamp, (l.1, l.2.1, l.2.2.1) ≠ (part, tc, req) → l ∈ (tsPort t port).lastStamp) ∧
      (tsPort t port).frames = (tsPort s port).frames := by
  have away : (part, tc, req) ∉ backlogged (tsPort s port) := fun hl => by
    obtain ⟨f, hf, -, same⟩ := mem_backlogged.mp hl
    exact idle f hf same
  refine ⟨_, if_pos (by simp [h, away]), fun st sent hl => ?_, fun l hl other => ?_, ?_⟩
  · rw [tsPort_modTs_self, List.mem_filter] at hl
    simpa using hl.2
  · simp [hl, other]
  · rw [tsPort_modTs_self]

end Sys2Proof.Machine
end

section
/-! PROOFS. The frame that a port sends: its link, its meter and regulator, and the port's choice; all of the shapers' statement (O55). -/

namespace Sys2Proof.Machine

open Sys2Proof.Safety

/-! ## A frame on its link (R306, R329 to R331) -/

/-- From s to t nothing of the shapers changes, and outputs are only added. -/
def Sends (s t : State) : Prop := t.shaper = s.shaper ∧ ∃ sent, t.out = s.out ++ sent

theorem sends_of_eq {s t : State} (shaper : t.shaper = s.shaper := by rfl) (out : t.out = s.out := by rfl) : Sends s t :=
  ⟨shaper, [], by rw [out, List.append_nil]⟩

theorem Sends.trans {s t u : State} (h : Sends s t) (k : Sends t u) : Sends s u := by
  obtain ⟨shaper, sent, out⟩ := h
  obtain ⟨shaper', sent', out'⟩ := k
  exact ⟨shaper'.trans shaper, sent ++ sent', by rw [out', out, List.append_assoc]⟩

theorem emitOut_sends (s : State) (o : Out) : Sends s (emitOut s o) := ⟨rfl, [o], rfl⟩

theorem laneFlit_sends (s : State) (port : Nat) (f : Flit) : Sends s (laneFlit s port f) :=
  (sends_of_eq (t := countEv (modNear s port _) Isl.np 0x030 (some port) none)).trans (emitOut_sends ..)

theorem newFlit_sends (s : State) (port : Nat) (body : List Byte) : Sends s (newFlit s port body) :=
  (laneFlit_sends ..).trans sends_of_eq

theorem drainTx_sends (port fuel : Nat) (s : State) : Sends s (drainTx port fuel s) := by
  induction fuel generalizing s with
  | zero => exact sends_of_eq
  | succ fuel ih =>
    unfold drainTx
    dsimp only
    split
    · exact sends_of_eq
    · exact (sends_of_eq (t := modNear s port _)).trans ((newFlit_sends ..).trans (ih _))

theorem linkSend_sends (s : State) (port tc units : Nat) (f : TxFrame) (more : Bool) : Sends s (linkSend s port tc units f more) := by
  unfold linkSend
  dsimp only
  have drained := fun g => (sends_of_eq (s := s) (t := modNear s port g)).trans (drainTx_sends port
    (((nearPort (modNear s port g) port).tx.length) / 256) _)
  split
  · exact drained _
  · exact (drained _).trans ((sends_of_eq (t := modNear _ port _)).trans (drainTx_sends ..))

theorem hostWrite_getD_sends (s : State) (g a : Nat) (bs : List Byte) : Sends s ((hostWrite s g a bs).getD s) := by
  unfold hostWrite
  split <;> exact sends_of_eq

theorem linkTake_sends (s : State) (port : Nat) (f : QFrame) : Sends s (linkTake s port f) := by
  unfold linkTake
  split
  · exact linkSend_sends ..
  · dsimp only
    split
    · split
      · exact (sends_of_eq (t := draw (countEv s Isl.fp 0x040 (some (port - 16)) none))).trans (emitOut_sends ..)
      · exact sends_of_eq
    · split
      · exact (sends_of_eq (t := countEv s _ _ _ _)).trans ((hostWrite_getD_sends ..).trans sends_of_eq)
      · exact sends_of_eq

/-! ## A port's one frame (R306 to R308, R318 to R320) -/

/-- What the sending of a frame leaves of the state outside the shapers: outputs, host memory and links are as they were. -/
def Outside (s t : State) : Prop := t.out = s.out ∧ t.host = s.host ∧ t.power = s.power

theorem Outside.trans {s t u : State} (h : Outside s t) (k : Outside t u) : Outside s u := by
  obtain ⟨out, host, power⟩ := h
  obtain ⟨out', host', power'⟩ := k
  exact ⟨out'.trans out, host'.trans host, power'.trans power⟩

theorem Shapes.outside {s t : State} (h : Shapes s t) : Outside s t := by
  obtain ⟨x, c, rfl⟩ := h
  exact ⟨rfl, rfl, rfl⟩

/-- What a write leaves in host memory depends on host memory and the link alone. -/
theorem hostWrite_of_outside {s t u : State} (h : Outside s t) {g a : Nat} {bs : List Byte} (lands : hostWrite s g a bs = some u) :
    ∃ w, hostWrite t g a bs = some w ∧ w.host = u.host := by
  obtain ⟨-, host, power⟩ := h
  unfold hostWrite linkUp at lands ⊢
  rw [power, host]
  split at lands
  · next up =>
    cases lands
    exact ⟨_, if_pos up, rfl⟩
  · cases lands

/-- A write that leaves the host port stands in host memory (log entry 108). -/
theorem linkTake_host {s u : State} {f : QFrame} {g a : Nat} {bs : List Byte} (what : f.frame.what = .tlp g a bs)
    (lands : hostWrite s g a bs = some u) : (linkTake s 32 f).host = u.host := by
  obtain ⟨w, lands', host⟩ := hostWrite_of_outside (s := s) (t := countEv s Isl.hp 0x050 (some g) none) ⟨rfl, rfl, rfl⟩ lands
  simp [linkTake, what, frameGroup, lands', settleHeader, host]

theorem regTake_keeps (s : State) (p i place size : Nat) :
    Outside s (regTake s p i place size) ∧ (regTake s p i place size).shaper = s.shaper := by
  unfold regTake
  split <;> exact ⟨⟨rfl, rfl, rfl⟩, rfl⟩

theorem chargeFrame_keeps (s : State) (port n : Nat) (f : QFrame) :
    Outside s (chargeFrame s port n f) ∧ (chargeFrame s port n f).shaper.ports = s.shaper.ports := by
  unfold chargeFrame
  split
  · exact ⟨⟨rfl, rfl, rfl⟩, rfl⟩
  · dsimp only
    split
    · have kept := fun t : State => regTake_keeps t f.part ‹_› port n
      exact ⟨Outside.trans ⟨rfl, rfl, rfl⟩ (kept _).1, (congrArg Shaper.ports (kept _).2).trans rfl⟩
    · exact ⟨⟨rfl, rfl, rfl⟩, rfl⟩

/-- From s to t nothing changes outside the shapers and partitions' regulators, and a port keeps its frames and virtual time. -/
structure Quiet (port : Nat) (s t : State) : Prop where
  outside : Outside s t
  frames : (tsPort t port).frames = (tsPort s port).frames
  vtime : (tsPort t port).vtime = (tsPort s port).vtime

theorem Quiet.refl (port : Nat) (s : State) : Quiet port s s := ⟨⟨rfl, rfl, rfl⟩, rfl, rfl⟩

theorem Quiet.trans {port : Nat} {s t u : State} (h : Quiet port s t) (k : Quiet port t u) : Quiet port s u :=
  ⟨h.outside.trans k.outside, k.frames.trans h.frames, k.vtime.trans h.vtime⟩

theorem examine_quiet (s : State) (port part tc : Nat) : Quiet port s (examine s port part tc) :=
  ⟨(examine_shapes ..).outside, frames_examine .., vtime_examine ..⟩

theorem chargeFrame_quiet (s : State) (port n : Nat) (f : QFrame) : Quiet port s (chargeFrame s port n f) := by
  obtain ⟨outside, ports⟩ := chargeFrame_keeps s port n f
  have same := tsPort_of_ports ports port
  exact ⟨outside, congrArg TsPort.frames same, congrArg TsPort.vtime same⟩

theorem stampHead_empty {s : State} {port : Nat} (h : (tsPort s port).frames = []) (l : Leaf) : stampHead s port l = s := by
  simp [stampHead, leafHead, h]

/-- A frame that overruns its gate is counted (R317). -/
theorem counted_quiet (s : State) (port : Nat) (overran : Bool) (part : Nat) :
    Quiet port s (if overran then countEv s Isl.ts 0x083 (some port) (some part) else s) := by
  split
  · exact ⟨⟨rfl, rfl, rfl⟩, rfl, rfl⟩
  · exact .refl ..

/-- What follows the departure of a port's last frame: its meter and regulator take, and no frame is left to be stamped. -/
theorem settle_quiet {s : State} {port : Nat} (h : (tsPort s port).frames = []) (overran : Bool) (n : Nat) (f : QFrame) :
    let t := if overran then countEv s Isl.ts 0x083 (some port) (some f.part) else s
    Quiet port s (if f.tc = 0 then stampHead (chargeFrame t port n f) port (leafOf f)
      else examine (stampHead (chargeFrame t port n f) port (leafOf f)) port f.part f.tc) := by
  have charged := (counted_quiet s port overran f.part).trans (chargeFrame_quiet _ port n f)
  dsimp only
  rw [stampHead_empty (charged.frames.trans h)]
  split
  · exact charged
  · exact charged.trans (examine_quiet ..)

/-- A port that sends its one frame: the link takes it from a state in which the port has none left. -/
theorem sendFrame_alone {s : State} {port : Nat} {f : QFrame} (alone : (tsPort s port).frames = [f]) :
    ∃ u, (sendFrame s port f).out = (linkTake u port f).out ++ f.frame.what :: f.frame.also.toList ∧
      (sendFrame s port f).shaper = (linkTake u port f).shaper ∧ (sendFrame s port f).host = (linkTake u port f).host ∧
      Outside s u ∧ (tsPort u port).frames = [] ∧
      (tsPort u port).vtime = if f.tc = 0 then (tsPort s port).vtime else (f.stamp.map Prod.fst).getD (tsPort s port).vtime := by
  have gone : ∀ u g, (g (tsPort s port)).frames = [] → Quiet port (modTs s port g) u →
      Outside s u ∧ (tsPort u port).frames = [] ∧ (tsPort u port).vtime = (g (tsPort s port)).vtime := fun u g empty quiet => by
    obtain ⟨outside, frames, vtime⟩ := quiet
    rw [tsPort_modTs_self] at frames vtime
    exact ⟨(modTs_shapes ..).outside.trans outside, frames.trans empty, vtime⟩
  have left := fun g empty overran n => gone _ g empty (settle_quiet ((congrArg TsPort.frames (tsPort_modTs_self ..)).trans empty) overran n f)
  have none_left : dropFrame f (tsPort s port).frames = [] := by simp [alone, dropFrame]
  unfold sendFrame
  dsimp only
  split
  · next o also => exact ⟨_, by simp [also, emitOut], rfl, rfl, left _ none_left _ _⟩
  · next also => exact ⟨_, by simp [also, emitOut], rfl, rfl, left _ none_left _ _⟩

/-- What a port's one frame leaves behind when it is sent. -/
theorem sendFrame_left {s : State} {port : Nat} {f : QFrame} (alone : (tsPort s port).frames = [f]) :
    Left s (sendFrame s port f) f.frame ∧ (tsPort (sendFrame s port f) port).frames = [] ∧
      (tsPort (sendFrame s port f) port).vtime =
        (if f.tc = 0 then (tsPort s port).vtime else (f.stamp.map Prod.fst).getD (tsPort s port).vtime) ∧
      ∀ g a bs w, port = 32 → f.frame.what = .tlp g a bs → hostWrite s g a bs = some w → (sendFrame s port f).host = w.host := by
  obtain ⟨u, out, shaper, host, ⟨outU, hostU, powerU⟩, frames, vtime⟩ := sendFrame_alone alone
  obtain ⟨shaperL, sent, outL⟩ := linkTake_sends u port f
  have port_ : tsPort (sendFrame s port f) port = tsPort u port := by rw [tsPort, tsPort, shaper, shaperL]
  refine ⟨⟨sent, by rw [out, outL, outU]⟩, by rw [port_, frames], by rw [port_, vtime], fun g a bs w hostPort what lands => ?_⟩
  subst hostPort
  obtain ⟨v, lands', same⟩ := hostWrite_of_outside ⟨outU, hostU, powerU⟩ lands
  rw [host, linkTake_host what lands', same]

/-! ## PORT_FRAME_SEND (R306, R318, R320) -/

theorem backlogged_alone {t : TsPort} {f : QFrame} (alone : t.frames = [f]) : backlogged t = if f.tc = 0 then [] else [leafOf f] := by
  by_cases h : f.tc = 0 <;> simp [backlogged, alone, h, List.eraseDups_cons]

theorem leafHead_alone {t : TsPort} {f : QFrame} (alone : t.frames = [f]) : leafHead t (leafOf f) = some f := by
  simp [leafHead, alone]

theorem classHead_alone {t : TsPort} {f : QFrame} (alone : t.frames = [f]) (shaped : f.tc ≠ 0) :
    classHead t f.part f.tc = some f := by
  have head := leafHead_alone alone
  rw [leafOf] at head
  simp [classHead, backlogged_alone alone, shaped, leafOf, head]

/-- The class queues whose heads the meter examines before a port sends. -/
def idleQueues (t : TsPort) : List (Nat × Nat) :=
  (((backlogged t).map (fun l => (l.1, l.2.1))).eraseDups).filter (fun q => !isParked t q.1 q.2)

theorem exec_portFrameSend {s u : State} {port : Nat} {f : QFrame} (h : ready s = true) (up : portUp s port = true)
    (pumped : 16 ≤ port → port < 32 → pump s (port - 16) = s)
    (examined : (idleQueues (tsPort s port)).foldl (fun s q => examine s port q.1 q.2) s = u) (next : nextFrame u port = some f) :
    exec (.portFrameSend port) s = .next (sendFrame u port f) := by
  have same : (if 16 ≤ port ∧ port < 32 then pump s (port - 16) else s) = s := ite_eq_right_iff.mpr fun in_ => pumped in_.1 in_.2
  change execPortFrameSend port s = _
  unfold execPortFrameSend
  unfold idleQueues at examined
  simp only [h, up, Bool.and_self, if_true, same, examined, next]

theorem nextFrame_control {s : State} {port : Nat} {f : QFrame} (alone : (tsPort s port).frames = [f]) (control : f.tc = 0)
    (may : mayStart s port f = true) : nextFrame s port = some f := by
  simp [nextFrame, alone, control, may]

theorem nextFrame_shaped {s : State} {port : Nat} {f : QFrame} (alone : (tsPort s port).frames = [f]) (shaped : f.tc ≠ 0)
    (eligible : leafEligible s port f = true) : nextFrame s port = some f := by
  simp [nextFrame, alone, shaped, backlogged_alone alone, leafHead_alone alone, eligible]

/-- A port that is listed is listed among the ports after it is written as it was, and no other port is new. -/
theorem trainFree_modTs {s : State} {port : Nat} {g : TsPort → TsPort} {f : QFrame} (same : g (tsPort s port) = tsPort s port)
    (listed : (port, tsPort s port) ∈ s.shaper.ports) (free : trainFree s port f = true) : trainFree (modTs s port g) port f = true := by
  unfold trainFree at free ⊢
  split
  · rfl
  · next k key =>
    rw [key] at free
    refine List.all_eq_true.mpr fun q hq => List.all_eq_true.mp free q ?_
    rcases AMap.mem_insert hq with rfl | there
    · exact same.symm ▸ listed
    · exact there

/-- A frame that may be sent may still be when its port has been written as it was. -/
theorem leafEligible_modTs {s : State} {port : Nat} {g : TsPort → TsPort} {f : QFrame} (same : g (tsPort s port) = tsPort s port)
    (listed : (port, tsPort s port) ∈ s.shaper.ports) (eligible : leafEligible s port f = true) :
    leafEligible (modTs s port g) port f = true := by
  have here : tsPort (modTs s port g) port = tsPort s port := (tsPort_modTs_self ..).trans same
  have len : frameLen (modTs s port g) port f = frameLen s port f := frameLen_modTs (by rw [same]) f
  have gates : gateAllows (modTs s port g) port f.tc (frameLen s port f) f.frame.what =
      gateAllows s port f.tc (frameLen s port f) f.frame.what := by
    unfold gateAllows runLeft
    rw [here]
    rfl
  simp only [leafEligible, Bool.and_eq_true, mayStart] at eligible ⊢
  obtain ⟨⟨⟨⟨parked, colour⟩, gate⟩, regulator⟩, ⟨⟨paused, link⟩, train⟩, mode⟩ := eligible
  rw [here, len, gates]
  exact ⟨⟨⟨⟨parked, colour⟩, gate⟩, regulator⟩, ⟨⟨paused, link⟩, trainFree_modTs same listed train⟩, mode⟩

theorem mem_ports {s : State} {port : Nat} {f : QFrame} (there : f ∈ (tsPort s port).frames) : (port, tsPort s port) ∈ s.shaper.ports := by
  unfold tsPort AMap.getD at there ⊢
  split
  · next t found => exact mem_of_find? found
  · next none_ => simp [none_] at there

/-- A queue that waits nowhere is left as it is. -/
theorem unpark_of_not_parked {t : TsPort} {part tc : Nat} (h : isParked t part tc = false) : unpark part tc t = t := by
  have all : t.parked.filter (fun e => e.1 != (part, tc)) = t.parked := by
    refine List.filter_eq_self.mpr fun e he => ?_
    simpa using List.any_eq_false.mp h e he
  rw [unpark, all]

/-- What O55 says of PORT_FRAME_SEND for a frame of TC0. -/
theorem portFrameSend_control {s : State} {port : Nat} {f : QFrame} (h : ready s = true) (up : portUp s port = true)
    (pumped : 16 ≤ port → port < 32 → pump s (port - 16) = s) (alone : (tsPort s port).frames = [f]) (control : f.tc = 0)
    (may : mayStart s port f = true) :
    ∃ t, exec (.portFrameSend port) s = .next t ∧ Left s t f.frame ∧ (tsPort t port).frames = [] ∧
      (tsPort t port).vtime = (tsPort s port).vtime := by
  have idle : idleQueues (tsPort s port) = [] := by simp [idleQueues, backlogged_alone alone, control]
  obtain ⟨left, frames, vtime, -⟩ := sendFrame_left alone
  exact ⟨_, exec_portFrameSend h up pumped (by rw [idle]; rfl) (nextFrame_control alone control may), left, frames,
    vtime.trans (if_pos control)⟩

/-- What O55 says of PORT_FRAME_SEND for a frame of another class: its queue, which waits nowhere, is examined and left as it is. -/
theorem portFrameSend_shaped {s : State} {port : Nat} {f : QFrame} (h : ready s = true) (up : portUp s port = true)
    (pumped : 16 ≤ port → port < 32 → pump s (port - 16) = s) (alone : (tsPort s port).frames = [f]) (shaped : f.tc ≠ 0)
    (eligible : leafEligible s port f = true) :
    ∃ t, exec (.portFrameSend port) s = .next t ∧ Left s t f.frame ∧ (tsPort t port).frames = [] ∧
      (tsPort t port).vtime = (f.stamp.map Prod.fst).getD (tsPort s port).vtime ∧
      ∀ g a bs u, port = 32 → f.frame.what = .tlp g a bs → hostWrite s g a bs = some u → t.host = u.host := by
  obtain ⟨waits, colour⟩ : isParked (tsPort s port) f.part f.tc = false ∧
      colourOk (meterOf s f.part f.tc port) (colourOf (meterOf s f.part f.tc port) (frameLen s port f)) = true := by
    simp only [leafEligible, Bool.and_eq_true, Bool.not_eq_true'] at eligible
    obtain ⟨⟨⟨⟨waits, colour⟩, -⟩, -⟩, -⟩ := eligible
    exact ⟨waits, colour⟩
  have idle : idleQueues (tsPort s port) = [(f.part, f.tc)] := by
    simp [idleQueues, backlogged_alone alone, shaped, leafOf, waits, List.eraseDups_cons]
  have same := unpark_of_not_parked waits
  have here : tsPort (modTs s port (unpark f.part f.tc)) port = tsPort s port := (tsPort_modTs_self ..).trans same
  have alone' := (congrArg TsPort.frames here).trans alone
  have eligible' := leafEligible_modTs same (mem_ports (by rw [alone]; exact .head _)) eligible
  obtain ⟨left, frames, vtime, lands⟩ := sendFrame_left alone'
  rw [here] at vtime
  refine ⟨_, exec_portFrameSend h up pumped ?_ (nextFrame_shaped alone' shaped eligible'), left, frames,
    vtime.trans (if_neg shaped), fun g a bs u hostPort what written => ?_⟩
  · rw [idle]
    exact examine_eligible (classHead_alone alone shaped) colour
  · obtain ⟨w, written', same'⟩ := hostWrite_of_outside (modTs_shapes ..).outside written
    rw [lands g a bs w hostPort what written', same']

/-- Settles O55: a port's one frame is examined, sent and taken by its link; a queue examined waits for a time to come or nowhere,
so that no released slot keeps one that is due. -/
theorem shapersReleaseAndGate : Obligations.ShapersReleaseAndGate := by
  intro s port h hp
  refine ⟨fun f up pumped alone => ⟨fun control may => ?_, fun shaped eligible => ?_⟩, fun part tc e waits due => ?_, fun slot => ?_,
    fun slot => ?_, fun nent t0 runs ended => ?_, fun nent base at_ armed enabled when_ come => ?_, fun part tc req idle => ?_⟩
  · exact portFrameSend_control h up pumped alone control may
  · exact portFrameSend_shaped h up pumped alone shaped eligible
  · exact pendingReexamine_examines h waits due
  · exact wheelSlotRelease_releases h hp slot
  · exact overflowSlotRelease_releases h hp slot
  · exact gateEntryBoundary_turns h runs ended
  · obtain ⟨t, run, starts⟩ := gateTakeover_starts h armed enabled when_ come
    exact ⟨t, run, starts, takeoverAt_first armed when_⟩
  · exact leafIdleForget_forgets h idle

end Sys2Proof.Machine
end

section
/-! PROOFS. DATA, CPL and the dead-target bound: the end of the instruction whose last transaction they settle (O38). -/

namespace Sys2Proof.Machine

open Sys2Proof.Safety

/-! ## A packet taken in leaves transactions as they are (R36, R331, R343) -/

/-- From s to t no more of Poltex changes than its near ports. -/
def PortsOnly (s t : State) : Prop := t.poltex = { s.poltex with ports := t.poltex.ports }

theorem onPacket_portsOnly {s u : State} {k : Packet} (h : onPacket k s id = .next u) : PortsOnly s u := by
  unfold PortsOnly
  unfold onPacket at h
  split at h
  · cases h; rfl
  · split at h
    · cases h; rfl
    · split at h
      · split at h
        · cases h; rfl
        · dsimp only at h
          split at h <;> cases h <;> split <;> rfl
      · split at h
        · cases h; rfl
        · split at h <;> cases h <;> rfl

/-! ## What settles a transaction (R221, R346, R350) -/

/-- Where nothing is held back, nothing is sent. -/
theorem releaseHeld_none {s : State} (h : s.poltex.held = []) : releaseHeld s = s := by
  simp only [releaseHeld, h, List.foldl_nil]
  rw [← h]

/-- What an answer gives its instruction (R346). -/
def answeredFor (x : Txn) (status : Nat) (payload : List Byte) (i : Issued) : Issued :=
  { i with
    aux := if i.aux = 0 then status else i.aux
    result := if x.op = 3 ∧ status = St.ok then fromLe payload else i.result
    effects := if x.op = 1 ∧ status = St.ok ∧ x.len ≠ 0 then i.effects ++ [.devWrite x.dst payload] else i.effects }

section
variable {s u : State} {w : IRef} {i : Issued} {x : Txn}

/-- The transaction x is the last one of w, which waits for it and has met no refusal. -/
structure LastOf (s : State) (w : IRef) (i : Issued) (x : Txn) : Prop where
  issued  : issuedOf s w = some i
  started : i.started = true
  open_   : i.status = none
  good    : i.aux = 0
  own     : x.w = some w
  alone   : ∀ y ∈ s.poltex.txns, y.tag ≠ x.tag → y.w ≠ some w
  held    : s.poltex.held = []

theorem LastOf.of_same (h : LastOf s w i x) (same : SameQueues s u) (poltex : PortsOnly s u) : LastOf u w i x :=
  { h with
    issued := (same.issuedOf w).trans h.issued
    alone := by rw [poltex]; exact h.alone
    held := by rw [poltex]; exact h.held }

theorem LastOf.clear (h : LastOf s w i x) (without : u.poltex = (withoutTxn s x).poltex) (f : Issued → Issued) :
    fabricPending (modIssued u w f) w = false := by
  have none_ : u.poltex.txns.any (fun t => t.w == some w) = false := by
    rw [without]
    refine List.any_eq_false.mpr fun y hy => ?_
    obtain ⟨mem, other⟩ := List.mem_filter.mp hy
    simpa using h.alone y mem (by simpa using other)
  rw [fabricPending, modIssued_poltex, none_, without]
  simp [withoutTxn, h.held]

/-- An instruction that is told of its last transaction ends with what it has gathered. -/
theorem LastOf.ends (h : LastOf s w i x) (same : SameQueues s u) (without : u.poltex = (withoutTxn s x).poltex)
    {f : Issued → Issued} (idx : ∀ i, (f i).idx = i.idx) (started : (f i).started = i.started) (open_ : (f i).status = i.status) :
    ∃ j, issuedOf (closeFabric (modIssued u w f) w) w = some j ∧ j.status = some (f i).aux ∧ j.effects = (f i).effects ∧
      j.result = if (f i).aux ≠ 0 ∧ opcodeOf (f i).words ≠ 0x60 ∧ opcodeOf (f i).words ≠ 0x62 then 0 else (f i).result := by
  have told : issuedOf (modIssued u w f) w = some (f i) := by
    rw [issuedOf_modIssued_self idx ((same.issuedOf w).trans h.issued), changeIssued_open (open_.trans h.open_)]
  refine ⟨_, issuedOf_closeFabric (h.clear without f) told, ?_, ?_, ?_⟩ <;>
    simp [changeIssued, fabricEnd, started, open_, h.started, h.open_]

/-- What is left of Poltex where an instruction is told of its last transaction. -/
theorem LastOf.left (h : LastOf s w i x) (without : u.poltex = (withoutTxn s x).poltex) (f : Issued → Issued) :
    (closeFabric (modIssued u w f) w).poltex = (withoutTxn s x).poltex := by
  rw [closeFabric_clear (h.clear without f)]
  exact without

end

/-! ## DATA and CPL (R346, R350) -/

theorem noteFenced_poltex (s : State) (p st : Nat) : (noteFenced s p st).poltex = s.poltex := by
  unfold noteFenced
  split <;> rfl

theorem answerTxn_told {x : Txn} {w : IRef} (own : x.w = some w) (s : State) (status : Nat) (payload : List Byte) :
    answerTxn s x status payload =
      closeFabric (modIssued (noteFenced s w.part status) w (answeredFor x status payload)) w := by
  unfold answerTxn
  rw [own]
  rfl

/-- The instruction i of w has ended as j, as the answer k to its transaction x, its last, says (R346). -/
def EndsBy (s t : State) (w : IRef) (i : Issued) (x : Txn) (k : Packet) (j : Issued) : Prop :=
  let st := bits k.addr 7 0
  issuedOf t w = some j ∧ j.status = some st ∧
    j.effects = (if x.op = 1 ∧ st = St.ok ∧ x.len ≠ 0 then i.effects ++ [.devWrite x.dst k.payload] else i.effects) ∧
    (x.op = 3 → st = St.ok → j.result = fromLe k.payload) ∧
    t.poltex.txns = s.poltex.txns.filter (fun y => y.tag != x.tag)

theorem takeAnswer_ends {s : State} {w : IRef} {i : Issued} {x : Txn} {k : Packet} (h : LastOf s w i x)
    (found : s.poltex.txns.find? (fun t => t.tag == k.tag && t.target == k.src) = some x) :
    ∃ j, EndsBy s (takeAnswer s k) w i x k j := by
  have same : SameQueues s (noteFenced (withoutTxn s x) w.part (bits k.addr 7 0)) :=
    (sameQueues_of_ledger (t := withoutTxn s x) ledger_eq).trans (noteFenced_sameQueues ..)
  have without := noteFenced_poltex (withoutTxn s x) w.part (bits k.addr 7 0)
  have left := h.left without (answeredFor x (bits k.addr 7 0) k.payload)
  have run : takeAnswer s k = closeFabric (modIssued (noteFenced (withoutTxn s x) w.part (bits k.addr 7 0)) w
      (answeredFor x (bits k.addr 7 0) k.payload)) w := by
    unfold takeAnswer
    rw [found]
    exact (congrArg releaseHeld (answerTxn_told h.own ..)).trans (releaseHeld_none ((congrArg (·.held) left).trans h.held))
  obtain ⟨j, ended, status, effects, result⟩ :=
    h.ends same without (f := answeredFor x (bits k.addr 7 0) k.payload) (fun _ => rfl) rfl rfl
  have first : (answeredFor x (bits k.addr 7 0) k.payload i).aux = bits k.addr 7 0 := if_pos h.good
  rw [first] at status result
  refine ⟨j, by rw [run, ended], status, effects, fun atomic ok => ?_, by rw [run, left]; rfl⟩
  rw [result, if_neg (by simp [ok])]
  exact if_pos ⟨atomic, ok⟩

theorem takeAnswer_late {s : State} {k : Packet} (none_ : s.poltex.txns.find? (fun t => t.tag == k.tag && t.target == k.src) = none) :
    (takeAnswer s k).poltex.late = s.poltex.late + 1 ∧ (takeAnswer s k).parts = s.parts ∧ (takeAnswer s k).mem = s.mem := by
  unfold takeAnswer
  rw [none_]
  exact ⟨rfl, rfl, rfl⟩

/-- The module takes in an answer, and nothing of its transactions has changed before it acts on it. -/
theorem answer_runs {s : State} {k : Packet} (h : Arrives s k) :
    ∃ u, Beside s u ∧ PortsOnly s u ∧ onPacket k s (fun s => takeAnswer s k) = .next (takeAnswer u k) := by
  obtain ⟨u, taken, run⟩ := onPacket_runs h
  exact ⟨u, taken.beside, onPacket_portsOnly (run id), run _⟩

theorem answer_ends {s : State} {w : IRef} {i : Issued} {x : Txn} {k : Packet} (h : LastOf s w i x) (arrives : Arrives s k)
    (found : s.poltex.txns.find? (fun t => t.tag == k.tag && t.target == k.src) = some x) :
    ∃ t j, onPacket k s (fun s => takeAnswer s k) = .next t ∧ EndsBy s t w i x k j := by
  obtain ⟨u, beside, poltex, run⟩ := answer_runs arrives
  have same : SameQueues s u := ⟨fun p => by rw [beside.settled.partOf]⟩
  obtain ⟨j, ends⟩ := takeAnswer_ends (k := k) (h.of_same same poltex) (by rw [poltex]; exact found)
  rw [EndsBy, poltex] at ends
  exact ⟨_, j, run, ends⟩

theorem answer_late {s : State} {k : Packet} (arrives : Arrives s k)
    (none_ : s.poltex.txns.find? (fun t => t.tag == k.tag && t.target == k.src) = none) :
    ∃ t, onPacket k s (fun s => takeAnswer s k) = .next t ∧ t.poltex.late = s.poltex.late + 1 ∧ t.parts = s.parts ∧
      t.mem = s.mem := by
  obtain ⟨u, beside, poltex, run⟩ := answer_runs arrives
  obtain ⟨late, parts, mem⟩ := takeAnswer_late (s := u) (k := k) (by rw [poltex]; exact none_)
  have memory : u.mem = s.mem := by
    obtain ⟨_, _, rfl⟩ := beside
    rfl
  exact ⟨_, run, late.trans (by rw [poltex]), parts.trans beside.settled.parts, mem.trans memory⟩

/-! ## The dead-target bound (R350) -/

theorem noteCopy_sameQueues (s : State) (c : Option CopyOf) (status : Nat) : SameQueues s (noteCopy s c status) := by
  unfold noteCopy
  split
  · split <;> exact sameQueues_of_ledger ledger_eq
  · exact .rfl

theorem noteCopy_poltex (s : State) (c : Option CopyOf) (status : Nat) : (noteCopy s c status).poltex = s.poltex := by
  unfold noteCopy
  split
  · split <;> rfl
  · rfl

theorem deadTxn_told {x : Txn} {w : IRef} (own : x.w = some w) (alone : x.dev = none) (s : State) :
    deadTxn s x = closeFabric (modIssued (noteCopy (txnLost s x) x.copy St.deadTarget) w (deadFor x)) w := by
  unfold deadTxn
  simp only [alone, deadForInstr, own, txnLost]
  rfl

theorem deadTxn_ends {s : State} {w : IRef} {i : Issued} {x : Txn} (h : LastOf s w i x) (alone : x.dev = none) :
    ∃ j, issuedOf (releaseHeld (deadTxn s x)) w = some j ∧ j.status = some St.deadTarget ∧
      (x.op = 1 → opcodeOf i.words = 0x60 →
        j.effects = i.effects ++ [.devWrite x.dst (List.replicate x.len 0xFF)] ∧ j.result = i.result + x.len / 64) := by
  have same : SameQueues s (noteCopy (txnLost s x) x.copy St.deadTarget) := (txnLost_sameQueues s x).trans (noteCopy_sameQueues ..)
  have without : (noteCopy (txnLost s x) x.copy St.deadTarget).poltex = (withoutTxn s x).poltex :=
    (noteCopy_poltex ..).trans (txnLost_logs s x).poltex
  have run := deadTxn_told h.own alone s
  rw [run, releaseHeld_none ((congrArg (·.held) (h.left without _)).trans h.held)]
  obtain ⟨j, ended, status, effects, result⟩ := h.ends same without (f := deadFor x) (fun _ => rfl) rfl rfl
  refine ⟨j, ended, status, fun load opcode => ⟨effects.trans (if_pos load), result.trans ?_⟩⟩
  rw [if_neg (fun refused => refused.2.1 opcode)]
  exact if_pos load

theorem deadBoundExpiry_runs {s : State} {tag : Nat} {x : Txn} (h : ready s = true)
    (found : s.poltex.txns.find? (fun t => t.tag == tag && decide (t.deadline ≤ s.now)) = some x) :
    exec (.deadBoundExpiry tag) s = .next (releaseHeld (deadTxn s x)) := by
  show execDeadBoundExpiry tag s = _
  rw [execDeadBoundExpiry, if_pos h, found]

/-- Settles O38: an answer, or the dead-target bound, settles the last transaction of its instruction, which then closes. -/
theorem fabricAnswersEndInstructions : Obligations.FabricAnswersEndInstructions := by
  intro s up held
  refine ⟨fun w i x issued started open_ good own alone others => ?_,
    fun k none_ => ⟨fun h => answer_late h none_, fun h => answer_late h none_⟩⟩
  have last : LastOf s w i x := ⟨issued, started, open_, good, own, others, held⟩
  refine ⟨fun k found => ⟨fun h => answer_ends (k := { k with op := 8 }) last h found,
    fun h => answer_ends (k := { k with op := 9 }) last h found⟩, fun tag found => ?_⟩
  obtain ⟨j, ends⟩ := deadTxn_ends last alone
  exact ⟨_, j, deadBoundExpiry_runs up found, ends⟩

end Sys2Proof.Machine
end

section
/-! PROOFS. Link state, and what traffic and flits leave of the links of near ports (O40). -/

namespace Sys2Proof.Machine

open Sys2Proof.Safety

/-! ## Traffic leaves links alone (R309, R341, R342, R350) -/

/-- From s to t no near port's link changes, nothing that endpoints reported, and nothing of the network-on-chip. -/
structure LinksKept (s t : State) : Prop where
  ports : t.poltex.ports = s.poltex.ports
  masks : t.poltex.masks = s.poltex.masks
  heard : t.poltex.heard = s.poltex.heard
  noc   : t.noc = s.noc

theorem linksKept_of_eq {s t : State} (ports : t.poltex.ports = s.poltex.ports := by rfl)
    (masks : t.poltex.masks = s.poltex.masks := by rfl) (heard : t.poltex.heard = s.poltex.heard := by rfl)
    (noc : t.noc = s.noc := by rfl) : LinksKept s t := ⟨ports, masks, heard, noc⟩

section
variable {s t u : State}

theorem LinksKept.refl (s : State) : LinksKept s s := linksKept_of_eq

theorem LinksKept.trans (h : LinksKept s t) (k : LinksKept t u) : LinksKept s u :=
  ⟨k.ports.trans h.ports, k.masks.trans h.masks, k.heard.trans h.heard, k.noc.trans h.noc⟩

theorem LinksKept.nearPort (h : LinksKept s t) (n : Nat) : nearPort t n = nearPort s n := by
  rw [Machine.nearPort, Machine.nearPort, h.ports]

theorem LinksKept.heardMask (h : LinksKept s t) (n : Nat) : heardMask t n = heardMask s n := by
  rw [Machine.heardMask, Machine.heardMask, h.masks, h.heard]

theorem foldl_linksKept {α : Type} {f : State → α → State} (h : ∀ s a, LinksKept s (f s a)) (l : List α) (s : State) :
    LinksKept s (l.foldl f s) := by
  induction l generalizing s with
  | nil => exact .refl s
  | cons a l ih => exact (h s a).trans (ih _)

theorem Shapes.linksKept (h : Shapes s t) : LinksKept s t := by
  obtain ⟨_, _, rfl⟩ := h
  exact linksKept_of_eq

theorem Logs.linksKept (h : Logs s t) : LinksKept s t := by
  obtain ⟨_, _, _, _, _, _, _, rfl⟩ := h
  exact linksKept_of_eq

theorem Logs.now (h : Logs s t) : t.now = s.now := by
  obtain ⟨_, _, _, _, _, _, _, rfl⟩ := h
  rfl

end

theorem logSpare_logs (s : State) (kind unit index : Nat) : Logs s (logSpare s kind unit index) := logService_logs ..

theorem closeFabric_linksKept (s : State) (w : IRef) : LinksKept s (closeFabric s w) := by
  unfold closeFabric
  split <;> exact linksKept_of_eq

theorem noteCopy_linksKept (s : State) (c : Option CopyOf) (status : Nat) : LinksKept s (noteCopy s c status) := by
  unfold noteCopy
  split
  · split <;> exact linksKept_of_eq
  · exact .refl s

theorem deadForInstr_linksKept (s : State) (x : Txn) : LinksKept s (deadForInstr s x) := by
  unfold deadForInstr
  split
  · exact .refl s
  · exact (linksKept_of_eq (t := modIssued s _ _)).trans (closeFabric_linksKept ..)

theorem deadTxn_linksKept (s : State) (x : Txn) : LinksKept s (deadTxn s x) := by
  have lost : LinksKept s (txnLost s x) := (linksKept_of_eq (t := withoutTxn s x)).trans (txnLost_logs s x).linksKept
  unfold deadTxn
  dsimp only
  split
  · exact lost.trans linksKept_of_eq
  · exact lost.trans ((noteCopy_linksKept ..).trans (deadForInstr_linksKept ..))

theorem launchTxn_linksKept (s : State) (x : Txn) (frames : List TxFrame) : LinksKept s (launchTxn s x frames) := by
  cases plane : planeOf (pathSet s x.part x.target) (if x.op = 4 then 0 else x.addr) x.target (me s).2 with
  | none =>
    rw [launchTxn_noPath (planeOf_eq_none_iff.mp plane)]
    exact deadTxn_linksKept ..
  | some n => exact (linksKept_of_eq (t := withSent s x n)).trans (launchTxn_shapes frames plane).linksKept

theorem launchPlain_linksKept (s : State) (x : Txn) (c : Cargo) : LinksKept s (launchPlain s x c) := by
  unfold launchPlain
  split
  · exact launchTxn_linksKept ..
  · exact foldl_linksKept (fun _ _ => launchTxn_linksKept ..) _ _

theorem launchCargo_linksKept (s : State) (x : Txn) (c : Cargo) : LinksKept s (launchCargo s x c) := by
  unfold launchCargo
  split
  · exact launchPlain_linksKept ..
  · dsimp only
    generalize (if x.op = 4 then _ else _ : Bool) = fits
    cases fits
    · exact launchPlain_linksKept ..
    · exact (linksKept_of_eq (t := modStream s _ _ _)).trans (launchTxn_linksKept ..)

theorem releaseHeld_linksKept (s : State) : LinksKept s (releaseHeld s) := by
  refine (linksKept_of_eq (t := { s with poltex := { s.poltex with held := [] } })).trans (foldl_linksKept (fun s h => ?_) _ _)
  dsimp only
  split
  · exact linksKept_of_eq
  · split
    · exact launchCargo_linksKept ..
    · exact launchTxn_linksKept ..

theorem notePaths_linksKept (s : State) : LinksKept s (notePaths s) := linksKept_of_eq

theorem resendFrame_linksKept (s : State) (f : TxFrame) : LinksKept s (resendFrame s f) := by
  unfold resendFrame
  split
  · exact .refl s
  · split
    · exact deadTxn_linksKept ..
    · exact LinksKept.trans linksKept_of_eq (enqueueFrame_shapes ..).linksKept

theorem sendLstateTo_shapes (s : State) (e : Nat × (Nat × Nat)) : Shapes s (sendLstateTo s e) :=
  foldl_shapes (fun _ _ => enqueueFrame_shapes ..) _ _

/-- The module as it sends its link state: the time is noted. -/
def lstateNoted (s : State) : State := { s with poltex := { s.poltex with lastLstate := s.now } }

theorem sendLstate_shapes (s : State) : Shapes (lstateNoted s) (sendLstate s) := foldl_shapes sendLstateTo_shapes _ _

theorem sendLstate_linksKept (s : State) : LinksKept s (sendLstate s) :=
  (linksKept_of_eq (t := lstateNoted s)).trans (sendLstate_shapes s).linksKept

/-! ## Frames that wait go on waiting (R308, R309, R319) -/

theorem tsPort_stampHead_ne (s : State) {port n : Nat} (l : Leaf) (h : n ≠ port) : tsPort (stampHead s port l) n = tsPort s n := by
  unfold stampHead
  dsimp only
  split
  · rfl
  · split
    · rfl
    · exact tsPort_modTs_ne _ _ h

theorem tsPort_enqueueFrame_ne (s : State) {port n : Nat} (part tc : Nat) (req : Option Nat) (f : TxFrame) (h : n ≠ port) :
    tsPort (enqueueFrame s port part tc req f) n = tsPort s n := by
  unfold enqueueFrame
  dsimp only
  split
  · exact (tsPort_stampHead_ne _ _ h).trans (tsPort_modTs_ne _ _ h)
  · exact (tsPort_examine_ne _ _ _ h).trans ((tsPort_stampHead_ne _ _ h).trans (tsPort_modTs_ne _ _ h))

/-- From s to t frames are only added at the ports. -/
structure Queues (s t : State) : Prop where
  shapes : Shapes s t
  waits  : ∀ {q o}, Waits s q o → Waits t q o

theorem Queues.refl (s : State) : Queues s s := ⟨.refl s, id⟩

theorem Queues.trans {s t u : State} (h : Queues s t) (k : Queues t u) : Queues s u := ⟨h.shapes.trans k.shapes, k.waits ∘ h.waits⟩

theorem enqueue_queues (s : State) (port part tc : Nat) (req : Option Nat) (len : Nat) (o : Out) :
    Queues s (enqueue s port part tc req len o) ∧ Waits (enqueue s port part tc req len o) port o := by
  have here := waiting_enqueueFrame s port part tc req { len := len, plan := len, what := o }
  refine ⟨⟨enqueueFrame_shapes .., fun {q a} waits => ?_⟩, ?_⟩
  · by_cases hq : q = port
    · subst hq
      rw [waits_iff, enqueue, here]
      exact List.mem_append_left _ (waits_iff.mp waits)
    · rw [Waits, enqueue, tsPort_enqueueFrame_ne _ _ _ _ _ hq]
      exact waits
  · rw [waits_iff, enqueue, here]
    exact List.mem_append_right _ (List.mem_singleton.mpr rfl)

/-- Frames queued for one thing after another, each of which then holds of the module (P) and goes on to. -/
theorem foldl_queues {α : Type} {f : State → α → State} {P : State → α → Prop} {s : State}
    (stays : ∀ {u v a}, Queues u v → P u a → P v a) (step : ∀ u a, Shapes s u → Queues u (f u a) ∧ P (f u a) a) (l : List α) :
    ∀ u, Shapes s u → Queues u (l.foldl f u) ∧ ∀ a ∈ l, P (l.foldl f u) a := by
  induction l with
  | nil => exact fun u _ => ⟨.refl u, nofun⟩
  | cons b l ih =>
    intro u shapes
    obtain ⟨queued, holds⟩ := step u b shapes
    obtain ⟨rest, all⟩ := ih _ (shapes.trans queued.shapes)
    refine ⟨queued.trans rest, fun a ha => ?_⟩
    rcases List.mem_cons.mp ha with rfl | ha
    · exact stays rest holds
    · exact all a ha

/-! ## Link state (R337, R341) -/

/-- The LSTATE that tells a listed endpoint e of the live planes, as it leaves by a port (R337). -/
def lstateFor (s : State) (e : Nat × (Nat × Nat)) (port : Nat) : Out :=
  let mask := if e.2.1 = 1 then Nat.land (livePlanes s) (nearPorts s e.2.2) else livePlanes s
  .packet { ownPacket s e.2.2 0xC 0 e.1 0 0 8 (toLe 8 mask) with port := port }

/-- Every live plane holds link state for the listed endpoint e, as the module s tells it. -/
def Told (s t : State) (e : Nat × (Nat × Nat)) : Prop := ∀ port ∈ setBits 16 (livePlanes s), Waits t port (lstateFor s e port)

theorem sendLstateTo_tells {s u : State} (h : Shapes s u) (e : Nat × (Nat × Nat)) :
    Queues u (sendLstateTo u e) ∧ Told s (sendLstateTo u e) e := by
  obtain ⟨x, c, rfl⟩ := h
  refine foldl_queues (s := s) (P := fun t port => Waits t port (lstateFor s e port)) (fun queued => queued.waits) (fun u port h => ?_)
    (setBits 16 (livePlanes s)) _ ⟨x, c, rfl⟩
  obtain ⟨x, c, rfl⟩ := h
  exact enqueue_queues ..

theorem sendLstate_tells (s : State) {e : Nat × (Nat × Nat)} (listed : e ∈ (compOf s).binds) (link : e.2.1 = 1 ∨ e.2.1 = 2) :
    Told s (sendLstate s) e := by
  refine (foldl_queues (s := lstateNoted s) (P := Told (lstateNoted s)) (fun queued told port live => queued.waits (told port live))
    (fun u e h => sendLstateTo_tells h e) ((compOf s).binds.filter (fun e => e.2.1 == 1 || e.2.1 == 2)) _ (.refl _)).2 e ?_
  simpa [listed] using link

theorem lstateTimer_sends {s : State} (h : ready s = true) (due : s.poltex.lastLstate + 100000 ≤ s.now) :
    exec .lstateTimer s = .next (sendLstate s) := if_pos (by simp [h, due])

/-- The module with the planes that an endpoint reports. -/
def reportHeard (s : State) (e mask : Nat) : State :=
  { s with poltex := { s.poltex with
      masks := AMap.insert s.poltex.masks e mask
      heard := if s.poltex.heard.contains e then s.poltex.heard else s.poltex.heard ++ [e] } }

theorem heardMask_reportHeard (s : State) (e mask : Nat) : heardMask (reportHeard s e mask) e = mask := by
  have known : (reportHeard s e mask).poltex.heard.contains e = true := by
    by_cases old : e ∈ s.poltex.heard <;> simp [reportHeard, old]
  rw [heardMask, if_pos known]
  exact AMap.getD_insert_self ..

/-- The module that has taken in an LSTATE acts on it where its source is a listed endpoint (R337). -/
def lstateTaken (k : Packet) (s : State) : State :=
  if (bindOf s k.src).1 = 0 then s else releaseHeld (notePaths (reportHeard s k.src (leAt k.payload 0 2)))

theorem lstate_heard {s : State} {k : Packet} (arrives : Arrives s { k with op := 0xC }) (listed : (bindOf s k.src).1 ≠ 0) :
    ∃ t, exec (.lstate k) s = .next t ∧ heardMask t k.src = leAt k.payload 0 2 := by
  obtain ⟨u, taken, run⟩ := onPacket_runs arrives
  have listed' : (bindOf u k.src).1 ≠ 0 := by
    obtain ⟨_, _, rfl⟩ := taken.beside
    exact listed
  refine ⟨_, run (lstateTaken k), ?_⟩
  rw [lstateTaken, if_neg listed']
  have kept := (notePaths_linksKept (reportHeard u k.src (leAt k.payload 0 2))).trans (releaseHeld_linksKept _)
  exact (kept.heardMask _).trans (heardMask_reportHeard ..)

end Sys2Proof.Machine
end

section
/-! PROOFS. Flits that near ports send, lanes that fail, and what both leave of what a port has received (O40). -/

namespace Sys2Proof.Machine

open Sys2Proof.Safety

/-! ## Flits that a port sends (R329 to R331) -/

/-- A near port that has put a flit on its lanes: its request for replay went with it. -/
def laneUsed (n : NearPort) : NearPort := { n with nak := false, txByte := (n.txByte + 272) % 840 }

theorem nearPort_laneFlit (s : State) (port : Nat) (f : Flit) : nearPort (laneFlit s port f) port = laneUsed (nearPort s port) :=
  nearPort_modNear_self s port laneUsed

/-- The flit that a near port makes of 256 bytes of its packet stream. -/
def flitOf (n : NearPort) (body : List Byte) : Flit :=
  { seq := n.sendSeq, cls := (creditsBack n).1, units := (creditsBack n).2, stream := body }

/-- A near port that has sent a new flit, made when it was m: the flit can be replayed, and the credits it returns are not owed. -/
def flitKept (m : NearPort) (body : List Byte) (n : NearPort) : NearPort :=
  { n with
    sendSeq := (m.sendSeq + 1) % 4096
    replay := n.replay ++ [flitOf m body]
    owed := if (creditsBack m).2 = 0 then n.owed
      else AMap.insert n.owed (creditsBack m).1 (AMap.getD n.owed (creditsBack m).1 0 - (creditsBack m).2) }

theorem nearPort_newFlit (s : State) (port : Nat) (body : List Byte) :
    nearPort (newFlit s port body) port = flitKept (nearPort s port) body (laneUsed (nearPort s port)) :=
  (nearPort_modNear_self (laneFlit s port (flitOf (nearPort s port) body)) port (flitKept (nearPort s port) body)).trans
    (congrArg (flitKept (nearPort s port) body) (nearPort_laneFlit ..))

/-- Of a near port: what the flits that it sends leave as it is. -/
def unsent (n : NearPort) : NearPort := { n with nak := false, txByte := 0, sendSeq := 0, replay := [], owed := [], tx := [] }

/-- From s to t a port does no more than send flits. -/
structure FlitsSent (port : Nat) (s t : State) : Prop where
  near  : unsent (nearPort t port) = unsent (nearPort s port)
  noc   : t.noc = s.noc
  limit : t.poltex.laneLimit = s.poltex.laneLimit

section
variable {port : Nat} {s t u : State}

theorem FlitsSent.refl (port : Nat) (s : State) : FlitsSent port s s := ⟨rfl, rfl, rfl⟩

theorem FlitsSent.trans (h : FlitsSent port s t) (k : FlitsSent port t u) : FlitsSent port s u :=
  ⟨k.near.trans h.near, k.noc.trans h.noc, k.limit.trans h.limit⟩

theorem modNear_flitsSent {f : NearPort → NearPort} (h : ∀ n, unsent (f n) = unsent n := by exact fun _ => rfl) :
    FlitsSent port s (modNear s port f) := ⟨by rw [nearPort_modNear_self, h], rfl, rfl⟩

theorem countEv_flitsSent (s : State) (island code : Nat) (inst part : Option Nat) :
    FlitsSent port s (countEv s island code inst part) := ⟨rfl, rfl, rfl⟩

theorem laneFlit_flitsSent (s : State) (port : Nat) (f : Flit) : FlitsSent port s (laneFlit s port f) :=
  ⟨by rw [nearPort_laneFlit]; rfl, rfl, rfl⟩

theorem newFlit_flitsSent (s : State) (port : Nat) (body : List Byte) : FlitsSent port s (newFlit s port body) :=
  ⟨by rw [nearPort_newFlit]; rfl, rfl, rfl⟩

theorem drainTx_flitsSent (port fuel : Nat) (s : State) : FlitsSent port s (drainTx port fuel s) := by
  induction fuel generalizing s with
  | zero => exact .refl port s
  | succ fuel ih =>
    unfold drainTx
    dsimp only
    split
    · exact .refl port s
    · exact FlitsSent.trans modNear_flitsSent ((newFlit_flitsSent ..).trans (ih _))

theorem replayFlits_flitsSent (s : State) (port : Nat) : FlitsSent port s (replayFlits s port) := by
  unfold replayFlits
  generalize (nearPort s port).replay = fs
  induction fs generalizing s with
  | nil => exact .refl port s
  | cons f fs ih => exact (laneFlit_flitsSent s port f).trans (ih _)

theorem answerFlit_flitsSent (s : State) (port : Nat) : FlitsSent port s (answerFlit s port) := by
  unfold answerFlit
  split
  · exact FlitsSent.trans modNear_flitsSent (drainTx_flitsSent ..)
  · exact .refl port s

end

/-- A flit of a near port on its lanes. -/
def flitOut (port : Nat) (n : NearPort) (f : Flit) : Out := .flit port f.seq (onLanes n (flitEncode (linkWord n f) f.stream))

theorem newFlit_out (s : State) (port : Nat) (body : List Byte) :
    (newFlit s port body).out = s.out ++ [flitOut port (nearPort s port) (flitOf (nearPort s port) body)] := rfl

/-- The IDLE packets that fill a near port's next flit (R336). -/
def idleFill (s : State) (n : NearPort) : List Byte :=
  (List.replicate (ceilDiv (256 - n.tx.length) 32) (idleBytes (me s).2 n.partner)).flatten

theorem length_idleBytes (src dst : Nat) : (idleBytes src dst).length = 32 := by
  simp [idleBytes, packetBytes, length_toLe, alignUp, ceilDiv, padTo]

/-- The next flit of a near port that has less than a flit to send. -/
def nextFlit (s : State) (n : NearPort) : Flit := flitOf n ((n.tx ++ idleFill s n).take 256)

theorem length_idleFill (s : State) (n : NearPort) : (idleFill s n).length = 32 * ((256 - n.tx.length + 31) / 32) := by
  simp [idleFill, length_idleBytes, ceilDiv, Nat.mul_comm]

/-- A packet stream of more than one flit and less than two makes one flit. -/
theorem drainTx_one {s : State} {port : Nat} (more : ¬ (nearPort s port).tx.length < 256) (less : (nearPort s port).tx.length < 512) :
    (drainTx port 2 s).out = s.out ++ [flitOut port (nearPort s port) (flitOf (nearPort s port) ((nearPort s port).tx.take 256))] := by
  have rest : ((nearPort s port).tx.drop 256).length < 256 := by rw [List.length_drop]; omega
  rw [drainTx]
  simp only [if_neg more]
  rw [drainTx]
  simp only [nearPort_newFlit, nearPort_modNear_self, flitKept, laneUsed, if_pos rest, newFlit_out]
  rfl

/-- A port whose packet stream does not fill a flit sends one that IDLE packets fill. -/
theorem idleFlit_out {s : State} {port : Nat} (short : (nearPort s port).tx.length < 256) :
    (idleFlit s port).out = s.out ++ [flitOut port (nearPort s port) (nextFlit s (nearPort s port))] := by
  have len := length_idleFill s (nearPort s port)
  have total : ((nearPort s port).tx ++ idleFill s (nearPort s port)).length =
    (nearPort s port).tx.length + 32 * ((256 - (nearPort s port).tx.length + 31) / 32) := by rw [List.length_append, len]
  rw [nextFlit]
  rw [idleFill] at total ⊢
  unfold idleFlit
  dsimp only
  rw [drainTx_one] <;> simp only [nearPort_modNear_self]
  · rfl
  · omega
  · omega

/-- A near port whose next flit may leave at a time: it is UP, its packet stream does not fill a flit, its replay buffer has room
for one, and no handshake runs (R330, R334). -/
structure Idle (now : Nat) (n : NearPort) : Prop where
  up    : n.state = .up
  short : n.tx.length < 256
  room  : n.replay.length + ceilDiv (n.tx.length + 1) 256 ≤ 2048
  quiet : n.quietUntil ≤ now

theorem idle_of_linkReady {s : State} {port : Nat} (up : (nearPort s port).state = .up) (may : linkReady s port 1 = true)
    (short : (nearPort s port).tx.length < 256) : Idle s.now (nearPort s port) := by
  obtain ⟨room, quiet⟩ := of_decide_eq_true may
  exact ⟨up, short, room, quiet⟩

theorem Idle.of_fewer {now : Nat} {n m : NearPort} (h : Idle now n) (state : m.state = n.state) (tx : m.tx = n.tx)
    (replay : m.replay.length ≤ n.replay.length) (quiet : m.quietUntil = n.quietUntil) : Idle now m := by
  obtain ⟨up, short, room, still⟩ := h
  exact ⟨state.trans up, by rwa [tx], by rw [tx]; omega, by rwa [quiet]⟩

theorem answerFlit_out {s : State} {port : Nat} {n : NearPort} (near : nearPort s port = n) (idle : Idle s.now n) :
    (answerFlit s port).out = s.out ++ [flitOut port n (nextFlit s n)] := by
  subst near
  rw [answerFlit, if_pos ⟨idle.up, decide_eq_true ⟨idle.room, idle.quiet⟩⟩]
  exact idleFlit_out idle.short

/-! ## Lanes (R333, R334) -/

/-- A near port that has come to other lanes: a handshake of at most 2 µs runs. -/
def withLanes (n : NearPort) (lanes : List Nat) (quiet : Nat) : NearPort :=
  { n with lanes := lanes, width := lanes.length, txByte := 0, rxByte := 0, quietUntil := quiet }

theorem widthChange_near (s : State) (port : Nat) (lanes : List Nat) :
    ∃ quiet, s.now ≤ quiet ∧ quiet ≤ s.now + 2000 ∧
      unsent (nearPort (widthChange s port lanes) port) = unsent (withLanes (nearPort s port) lanes quiet) := by
  have short : Config.freeWord s.freeCtr % 2001 < 2001 := Nat.mod_lt _ (by omega)
  refine ⟨s.now + Config.freeWord s.freeCtr % 2001, by omega, by omega, ?_⟩
  exact (replayFlits_flitsSent ..).near.trans (congrArg unsent (nearPort_modNear_self (draw s) port _))

/-- Two near ports agree in their state and in their lanes. -/
structure SameLanes (n m : NearPort) : Prop where
  state     : n.state = m.state
  failed    : n.failed = m.failed
  spareBusy : n.spareBusy = m.spareBusy
  spareUsed : n.spareUsed = m.spareUsed
  lanes     : n.lanes = m.lanes
  width     : n.width = m.width
  quiet     : n.quietUntil = m.quietUntil

/-- Flits that are sent leave the lanes as they are. -/
theorem sameLanes_of_unsent {n m : NearPort} (h : unsent n = unsent m) : SameLanes n m := by
  simp only [unsent, NearPort.mk.injEq] at h
  constructor <;> simp only [h]

theorem widthChange_noc (s : State) (port : Nat) (lanes : List Nat) : (widthChange s port lanes).noc = s.noc :=
  (replayFlits_flitsSent ..).noc

/-- A near port with a lane that has failed: the spare, lane 8, is bad from then on. -/
def withFailed (lane : Nat) (n : NearPort) : NearPort :=
  { n with failed := putBit n.failed lane true, spareBad := n.spareBad || lane == 8 }

/-- The module with a lane's failure noted and logged. -/
def laneNoted (s : State) (port lane : Nat) : State := logSpare (modNear s port (withFailed lane)) 4 port lane

theorem laneNoted_logs (s : State) (port lane : Nat) : Logs (modNear s port (withFailed lane)) (laneNoted s port lane) :=
  logSpare_logs ..

theorem nearPort_laneNoted (s : State) (port lane : Nat) :
    nearPort (laneNoted s port lane) port = withFailed lane (nearPort s port) :=
  ((laneNoted_logs ..).linksKept.nearPort port).trans (nearPort_modNear_self ..)

/-- A near port as it leaves the live set. -/
def downed (n : NearPort) : NearPort :=
  { n with state := .down, width := 0, level := 0, partner := 0, spareBusy := false, replay := [], unacked := [], tx := [],
           stream := [], lanes := [], rxPlan := [], segIn := [], spareUsed := false }

theorem nearDown_linksKept (s : State) (port : Nat) : LinksKept (modNear s port downed) (nearDown s port) := by
  refine LinksKept.trans ?_ ((foldl_linksKept resendFrame_linksKept _ _).trans ((releaseHeld_linksKept _).trans (sendLstate_linksKept _)))
  refine LinksKept.trans ?_ (report_logs ..).linksKept
  exact linksKept_of_eq

theorem nearPort_nearDown (s : State) (port : Nat) : nearPort (nearDown s port) port = downed (nearPort s port) :=
  ((nearDown_linksKept ..).nearPort port).trans (nearPort_modNear_self ..)

section
variable {s : State} {port lane : Nat}

/-- The lanes left to a near port by the failure of one. -/
def lanesLeft (s : State) (port lane : Nat) : List Nat := (nearPort s port).lanes.filter (· != lane)

/-- The logical lane of a physical one. -/
def laneAt (n : NearPort) (lane : Nat) : Nat := (n.lanes.takeWhile (· != lane)).length

/-- A near port whose spare is being brought in for a lane. -/
def spareComes (at_ : Nat) (n : NearPort) : NearPort := { n with spareBusy := true, spareAt := at_ }

/-- A near port without a spare to bring in for a lane. -/
def spareStays (at_ lane : Nat) (n : NearPort) : NearPort :=
  { n with spareUsed := n.spareUsed && lane != 8, spareAt := if at_ < n.spareAt then n.spareAt - 1 else n.spareAt }

/-- The spare fails where it serves no logical lane. -/
theorem laneFails_idleSpare (idle : lane = 8 ∧ (nearPort s port).spareUsed = false) :
    laneFails s port lane = modNear (laneNoted s port lane) port (fun n => { n with spareBusy := false }) := if_pos (by simpa using idle)

variable (active : lane < 8 ∨ (nearPort s port).spareUsed = true)
include active

theorem not_idleSpare : ¬ (lane = 8 ∧ (!(nearPort s port).spareUsed) = true) := by
  rintro ⟨rfl, unused⟩
  simp_all

/-- An active lane fails at the least width. -/
theorem laneFails_down (narrow : (nearPort s port).width = 4) : laneFails s port lane = nearDown (laneNoted s port lane) port :=
  (if_neg (not_idleSpare active)).trans (if_pos narrow)

/-- An active lane fails where the spare is free. -/
theorem laneFails_spare (wide : (nearPort s port).width ≠ 4)
    (free : (nearPort s port).spareUsed = false ∧ (nearPort s port).spareBad = false ∧ (nearPort s port).spareBusy = false) :
    laneFails s port lane =
      widthChange (modNear (laneNoted s port lane) port (spareComes (laneAt (nearPort s port) lane))) port (lanesLeft s port lane) :=
  (if_neg (not_idleSpare active)).trans ((if_neg wide).trans (if_pos (by simpa using free)))

/-- An active lane fails where no spare is free. -/
theorem laneFails_narrower (wide : (nearPort s port).width ≠ 4)
    (taken : (nearPort s port).spareUsed = true ∨ (nearPort s port).spareBad = true ∨ (nearPort s port).spareBusy = true) :
    laneFails s port lane =
      widthChange (modNear (laneNoted s port lane) port (spareStays (laneAt (nearPort s port) lane) lane)) port (lanesLeft s port lane) :=
  (if_neg (not_idleSpare active)).trans ((if_neg wide).trans (if_neg (by
    rintro ⟨unused, good, free⟩
    simp_all)))

end

/-- What becomes of a near port's lanes where the width changes after a lane's failure is noted. -/
theorem widthChange_laneNoted (s : State) (port lane : Nat) (f : NearPort → NearPort) (lanes : List Nat) :
    ∃ quiet, s.now ≤ quiet ∧ quiet ≤ s.now + 2000 ∧
      unsent (nearPort (widthChange (modNear (laneNoted s port lane) port f) port lanes) port) =
        unsent (withLanes (f (withFailed lane (nearPort s port))) lanes quiet) := by
  obtain ⟨quiet, low, high, near⟩ := widthChange_near (modNear (laneNoted s port lane) port f) port lanes
  have now : (modNear (laneNoted s port lane) port f).now = s.now := (laneNoted_logs ..).now
  rw [now] at low high
  rw [nearPort_modNear_self, nearPort_laneNoted] at near
  exact ⟨quiet, low, high, near⟩

/-! ## What a port has received (R330) -/

/-- Of a near port: the SEQ that it expects, the last acknowledgement, and how often it asked for replay. -/
def turnOf (n : NearPort) : Nat × Nat × Nat := (n.expSeq, n.acked, n.replays)

/-- From s to t a port takes in nothing from its link, and nothing enters the network-on-chip. -/
structure TurnKept (port : Nat) (s t : State) : Prop where
  turn : turnOf (nearPort t port) = turnOf (nearPort s port)
  noc  : t.noc = s.noc

section
variable {port : Nat} {s t u : State}

theorem TurnKept.refl (port : Nat) (s : State) : TurnKept port s s := ⟨rfl, rfl⟩

theorem TurnKept.trans (h : TurnKept port s t) (k : TurnKept port t u) : TurnKept port s u :=
  ⟨k.turn.trans h.turn, k.noc.trans h.noc⟩

theorem turnOf_of_unsent {n m : NearPort} (h : unsent n = unsent m) : turnOf n = turnOf m := by
  have kept : turnOf (unsent n) = turnOf (unsent m) := by rw [h]
  exact kept

theorem FlitsSent.turnKept (h : FlitsSent port s t) : TurnKept port s t := ⟨turnOf_of_unsent h.near, h.noc⟩

theorem modNear_turnKept {f : NearPort → NearPort} (h : ∀ n, turnOf (f n) = turnOf n := by exact fun _ => rfl) :
    TurnKept port s (modNear s port f) := ⟨by rw [nearPort_modNear_self, h], rfl⟩

theorem laneNoted_turnKept (s : State) (port lane : Nat) : TurnKept port s (laneNoted s port lane) :=
  ⟨by rw [nearPort_laneNoted]; rfl, (laneNoted_logs ..).linksKept.noc⟩

theorem nearDown_turnKept (s : State) (port : Nat) : TurnKept port s (nearDown s port) :=
  ⟨by rw [nearPort_nearDown]; rfl, (nearDown_linksKept ..).noc⟩

theorem widthChange_turnKept (s : State) (port : Nat) (lanes : List Nat) : TurnKept port s (widthChange s port lanes) := by
  obtain ⟨quiet, -, -, near⟩ := widthChange_near s port lanes
  exact ⟨(turnOf_of_unsent near).trans rfl, widthChange_noc ..⟩

theorem laneFails_turnKept (s : State) (port lane : Nat) : TurnKept port s (laneFails s port lane) := by
  have noted := laneNoted_turnKept s port lane
  unfold laneFails
  dsimp only
  split
  · exact noted.trans modNear_turnKept
  · split
    · exact noted.trans (nearDown_turnKept ..)
    · split <;> exact noted.trans (TurnKept.trans modNear_turnKept (widthChange_turnKept ..))

end

end Sys2Proof.Machine
end

section
/-! PROOFS. Flits that near ports receive: discarded with a request for replay, or taken with their packets (O40). -/

namespace Sys2Proof.Machine

open Sys2Proof.Safety

/-! ## Packets of the stream (R331, R335, R336) -/

theorem parsePackets_port (port fuel : Nat) : ∀ bs : List Byte, ∀ k ∈ (parsePackets port fuel bs).1, k.port = port := by
  induction fuel with
  | zero => exact fun bs => List.forall_mem_nil _
  | succ fuel ih =>
    intro bs
    unfold parsePackets
    split
    · exact List.forall_mem_nil _
    · exact List.forall_mem_cons.mpr ⟨rfl, ih _⟩

/-- Of a near port: its turn, and the level that its link agreed on. -/
def placeOf (n : NearPort) : (Nat × Nat × Nat) × Nat := (turnOf n, n.level)

theorem placeOf_of_unsent {n m : NearPort} (h : unsent n = unsent m) : placeOf n = placeOf m := by
  have kept : placeOf (unsent n) = placeOf (unsent m) := by rw [h]
  exact kept

/-- Is a packet handed on by a port of a level. -/
def handedOn (level : Nat) (k : Packet) : Bool := k.level == level && knownOp k.op

/-- From s to t a port takes in packets of its stream: those handed on enter the network-on-chip, in order. -/
structure Hands (port : Nat) (ks : List Packet) (s t : State) : Prop where
  place : placeOf (nearPort t port) = placeOf (nearPort s port)
  noc   : t.noc = s.noc ++ (ks.filter (handedOn (nearPort s port).level)).map Out.packet

/-- A near port that owes the credits of a packet it discards (R331, R336). -/
def owingFor (k : Packet) (n : NearPort) : NearPort :=
  { n with owed := AMap.insert n.owed k.tc (AMap.getD n.owed k.tc 0 + ceilDiv (packetSize k) 64) }

/-- A near port with a packet in its receive buffer, that takes so many units (R331). -/
def buffering (k : Packet) (a : Nat × List (Nat × Nat × Nat)) (n : NearPort) : NearPort :=
  { n with
    rxUsed := AMap.insert n.rxUsed k.tc (AMap.getD n.rxUsed k.tc 0 + a.1)
    segIn := a.2
    rxPlan := if a.1 = ceilDiv (packetSize k) 64 then n.rxPlan else n.rxPlan ++ [(k, a.1)] }

/-- A near port with a protocol error counted. -/
def blamed (n : NearPort) : NearPort := { n with protoErr := n.protoErr + 1 }

theorem nearPort_protocolError (s : State) (port : Nat) : nearPort (protocolError s port) port = blamed (nearPort s port) :=
  nearPort_modNear_self s port blamed

theorem placeOf_owingFor (k : Packet) (n : NearPort) : placeOf (owingFor k n) = placeOf n := rfl

theorem placeOf_blamed (n : NearPort) : placeOf (blamed n) = placeOf n := rfl

theorem placeOf_buffering (k : Packet) (a : Nat × List (Nat × Nat × Nat)) (n : NearPort) : placeOf (buffering k a n) = placeOf n := rfl

/-- A packet of the stream that a port discards: its level is not the agreed one, or its type is reserved (R336). -/
abbrev Discarded (s : State) (k : Packet) : Prop := k.level ≠ (nearPort s k.port).level ∨ (!(k.op == 0 || knownOp k.op)) = true

section
variable {s : State} {k : Packet}

theorem handPacket_discarded (h : Discarded s k) : Hands k.port [k] s (handPacket s k) := by
  have stays : handedOn (nearPort s k.port).level k = false := by
    rcases h with level | type
    · simp [handedOn, level]
    · simp_all [handedOn]
  have run : handPacket s k = protocolError (modNear s k.port (owingFor k)) k.port := if_pos h
  rw [run]
  refine ⟨?_, by simp [stays]; rfl⟩
  rw [nearPort_protocolError, nearPort_modNear_self, placeOf_blamed, placeOf_owingFor]

theorem handPacket_fill (known : ¬ Discarded s k) (fill : k.op = 0) : Hands k.port [k] s (handPacket s k) := by
  have run : handPacket s k = s := (if_neg known).trans (if_pos fill)
  rw [run]
  exact ⟨rfl, by simp [handedOn, fill, knownOp]⟩

theorem handPacket_taken (known : ¬ Discarded s k) (packet : k.op ≠ 0) : Hands k.port [k] s (handPacket s k) := by
  obtain ⟨level, type⟩ := not_or.mp known
  have goes : handedOn (nearPort s k.port).level k = true := by simp_all [handedOn]
  have run : handPacket s k =
      { modNear s k.port (buffering k (arrivalUnits (nearPort s k.port) k)) with noc := s.noc ++ [.packet k] } :=
    (if_neg known).trans (if_neg packet)
  have near : nearPort (handPacket s k) k.port = buffering k (arrivalUnits (nearPort s k.port) k) (nearPort s k.port) := by
    rw [run]
    exact nearPort_modNear_self s k.port (buffering k (arrivalUnits (nearPort s k.port) k))
  exact ⟨by rw [near, placeOf_buffering], by rw [run]; simp [goes]⟩

theorem handPacket_hands (s : State) (k : Packet) : Hands k.port [k] s (handPacket s k) := by
  by_cases known : Discarded s k
  · exact handPacket_discarded known
  · by_cases fill : k.op = 0
    · exact handPacket_fill known fill
    · exact handPacket_taken known fill

end

theorem foldl_hands {port : Nat} (ks : List Packet) : ∀ s, (∀ k ∈ ks, k.port = port) → Hands port ks s (ks.foldl handPacket s) := by
  induction ks with
  | nil => exact fun s _ => ⟨rfl, by simp⟩
  | cons k ks ih =>
    intro s here
    obtain ⟨rfl, rest⟩ := List.forall_mem_cons.mp here
    have first := handPacket_hands s k
    have others := ih (handPacket s k) rest
    have level : (nearPort (handPacket s k) k.port).level = (nearPort s k.port).level := congrArg Prod.snd first.place
    refine ⟨others.place.trans first.place, ?_⟩
    rw [List.foldl_cons, others.noc, first.noc, level, List.append_assoc, ← List.map_append, ← List.filter_append]
    rfl

/-! ## The end of a flit (R333) -/

/-- A near port with a flit's bytes received. -/
def rxUsedBy (n : NearPort) : NearPort := { n with rxByte := (n.rxByte + 272) % 840 }

/-- The lanes on which too much was corrected fail, after a flit is dealt with. -/
def lanesJudged (s : State) (port : Nat) : State :=
  (noisyLanes (modNear s port rxUsedBy) port).foldl (fun s l => if (nearPort s port).state = .up then laneFails s port l else s)
    (modNear s port rxUsedBy)

theorem lanesJudged_turnKept (s : State) (port : Nat) : TurnKept port s (lanesJudged s port) := by
  refine TurnKept.trans (modNear_turnKept (f := rxUsedBy)) ?_
  unfold lanesJudged
  generalize modNear s port rxUsedBy = u
  generalize noisyLanes u port = lanes
  induction lanes generalizing u with
  | nil => exact .refl port u
  | cons l lanes ih =>
    refine TurnKept.trans ?_ (ih _)
    dsimp only
    split
    · exact laneFails_turnKept ..
    · exact .refl port u

/-- A near port comes to be m from n with the same lanes and no more corrections on them. -/
structure Quieter (n m : NearPort) : Prop where
  lanes : m.lanes = n.lanes
  fewer : m.corrs.Sublist n.corrs

theorem quieter_of_unsent {n m : NearPort} (h : unsent m = unsent n) : Quieter n m := by
  simp only [unsent, NearPort.mk.injEq] at h
  constructor <;> simp only [h]
  exact .refl _

theorem noisyLanes_of_quieter {s t : State} {port : Nat} (calm : noisyLanes s port = [])
    (quieter : Quieter (nearPort s port) (nearPort t port)) (limit : t.poltex.laneLimit = s.poltex.laneLimit) : noisyLanes t port = [] := by
  refine List.filter_eq_nil_iff.mpr fun l hl => ?_
  have quiet := List.filter_eq_nil_iff.mp calm l (by rw [← quieter.lanes]; exact hl)
  have less := ((quieter.fewer.filter (fun c => c.2.1 == l)).map (fun c => c.2.2)).sum_le_sum (fun _ _ => Nat.zero_le _)
  simp only [decide_eq_true_eq, Nat.not_lt, limit] at quiet ⊢
  omega

theorem noisyLanes_modNear {s : State} {port : Nat} {f : NearPort → NearPort} (calm : noisyLanes s port = [])
    (quieter : ∀ n, Quieter n (f n)) : noisyLanes (modNear s port f) port = [] :=
  noisyLanes_of_quieter calm (by rw [nearPort_modNear_self]; exact quieter _) rfl

theorem FlitsSent.calm {s t : State} {port : Nat} (h : FlitsSent port s t) (calm : noisyLanes s port = []) : noisyLanes t port = [] :=
  noisyLanes_of_quieter calm (quieter_of_unsent h.near) h.limit

theorem lanesJudged_out {s : State} {port : Nat} (calm : noisyLanes s port = []) : (lanesJudged s port).out = s.out := by
  rw [lanesJudged, noisyLanes_modNear (f := rxUsedBy) calm fun _ => ⟨rfl, .refl _⟩]
  rfl

/-! ## Flits that arrive (R329, R330) -/

/-- A near port that asks for replay. -/
def asksReplay (n : NearPort) : NearPort := { n with nak := true, replays := min 0xFFFF (n.replays + 1) }

/-- A near port that expects the next SEQ. -/
def movedOn (n : NearPort) : NearPort := { n with expSeq := (n.expSeq + 1) % 4096, nak := false }

/-- A near port that has taken a link word. -/
def withWord (lw : Nat) (n : NearPort) : NearPort :=
  { n with acked := bits lw 23 12
           replay := n.replay.filter (fun e => afterAck (bits lw 23 12) e.seq)
           unacked := n.unacked.filter (fun e => afterAck (bits lw 23 12) e.1)
           credits := AMap.insert n.credits (bits lw 27 25) (AMap.getD n.credits (bits lw 27 25) 0 + bits lw 31 28) }

/-- A near port with what is left of its packet stream. -/
def withStream (bs : List Byte) (n : NearPort) : NearPort := { n with stream := bs }

/-- A near port with the symbols that a flit's correction changed counted on its lanes (R333). -/
def withCorrs (now : Nat) (fixed : List Nat) (n : NearPort) : NearPort :=
  let lanes := fixed.map (fun k => n.lanes.getD ((n.rxByte + k) % max 1 n.lanes.length) 0)
  { n with corrs := n.corrs.filter (fun c => decide (now < c.1 + 1000000))
                      ++ lanes.eraseDups.map (fun l => (now, l, (lanes.filter (· == l)).length)) }

theorem nearPort_noteCorrected (s : State) (port : Nat) (fixed : List Nat) :
    nearPort (noteCorrected s port fixed) port = withCorrs s.now fixed (nearPort s port) :=
  nearPort_modNear_self s port (withCorrs s.now fixed)

theorem turnOf_asksReplay (n : NearPort) : turnOf (asksReplay n) = (n.expSeq, n.acked, min 0xFFFF (n.replays + 1)) := rfl

theorem turnOf_withCorrs (now : Nat) (fixed : List Nat) (n : NearPort) : turnOf (withCorrs now fixed n) = turnOf n := rfl

theorem placeOf_withStream (bs : List Byte) (n : NearPort) : placeOf (withStream bs n) = placeOf n := rfl

/-- A near port that has taken a flit's corrections and link word in order (R330, R333). -/
def afterWord (now lw : Nat) (fixed : List Nat) (n : NearPort) : NearPort := withWord lw (withCorrs now fixed (movedOn n))

theorem placeOf_afterWord (now lw : Nat) (fixed : List Nat) (n : NearPort) :
    placeOf (afterWord now lw fixed n) = (((n.expSeq + 1) % 4096, bits lw 23 12, n.replays), n.level) := rfl

theorem stream_of_unsent_afterWord {now lw : Nat} {fixed : List Nat} {n m : NearPort} (h : unsent m = unsent (afterWord now lw fixed n)) :
    m.stream = n.stream := by
  have kept : (unsent m).stream = (unsent (afterWord now lw fixed n)).stream := by rw [h]
  simpa only [unsent, afterWord, withWord, withCorrs, movedOn] using kept

/-- A flit in which nothing was corrected makes no lane noisier. -/
theorem quieter_afterWord (now lw : Nat) (bs : List Byte) (n : NearPort) : Quieter n (withStream bs (afterWord now lw [] n)) := by
  constructor <;> dsimp only [withStream, afterWord, withWord, withCorrs, movedOn]
  rw [List.map_nil, List.eraseDups_nil, List.map_nil, List.append_nil]
  exact List.filter_sublist

/-- The module with a flit counted (R329). -/
def flitCounted (s : State) (port : Nat) : State := countEv s Isl.np 0x031 (some port) none

section
variable {s : State} {port : Nat} {flit : List Byte}

theorem flitErrors_of_decode {lw : Nat} {body : List Byte} (h : flitDecode flit = some (lw, body)) : ∃ es, flitErrors flit = some es := by
  obtain ⟨es, found, -⟩ := Option.map_eq_some_iff.mp h
  exact ⟨es, found⟩

theorem badFlit_sent (s : State) (port : Nat) : FlitsSent port (modNear s port asksReplay) (badFlit s port) :=
  (countEv_flitsSent ..).trans (answerFlit_flitsSent ..)

theorem badFlit_out (idle : Idle s.now (nearPort s port)) :
    (badFlit s port).out = s.out ++ [flitOut port (asksReplay (nearPort s port)) (nextFlit s (nearPort s port))] :=
  answerFlit_out (s := countEv (modNear s port asksReplay) Isl.np 0x032 (some port) none) (nearPort_modNear_self s port asksReplay)
    (idle.of_fewer rfl rfl le_rfl rfl)

theorem takeLinkWord_sent (s : State) (port lw : Nat) : FlitsSent port (modNear s port (withWord lw)) (takeLinkWord s port lw) := by
  unfold takeLinkWord
  dsimp only
  split
  · exact replayFlits_flitsSent ..
  · exact .refl ..

theorem takeLinkWord_plain {lw : Nat} (plain : bit lw 24 = false) (s : State) (port : Nat) :
    takeLinkWord s port lw = modNear s port (withWord lw) := if_neg (by simp [plain])

/-- The module that has taken the link word and the corrections of a flit in order (R330, R333). -/
def wordTaken (s : State) (port lw : Nat) (fixed : List Nat) : State :=
  takeLinkWord (noteCorrected (modNear s port movedOn) port fixed) port lw

theorem wordTaken_near (s : State) (port lw : Nat) (fixed : List Nat) :
    unsent (nearPort (wordTaken s port lw fixed) port) = unsent (afterWord s.now lw fixed (nearPort s port)) := by
  refine (takeLinkWord_sent ..).near.trans ?_
  rw [nearPort_modNear_self, nearPort_noteCorrected, nearPort_modNear_self]
  rfl

theorem wordTaken_noc (s : State) (port lw : Nat) (fixed : List Nat) : (wordTaken s port lw fixed).noc = s.noc :=
  (takeLinkWord_sent ..).noc

theorem wordTaken_plain {lw : Nat} (plain : bit lw 24 = false) (s : State) (port : Nat) (fixed : List Nat) :
    wordTaken s port lw fixed = modNear (noteCorrected (modNear s port movedOn) port fixed) port (withWord lw) :=
  takeLinkWord_plain plain ..

/-- The packets that a flit's body completes at a port (R335). -/
def completed (s : State) (port : Nat) (body : List Byte) : List Packet × List Byte :=
  parsePackets port 64 ((nearPort s port).stream ++ body)

theorem goodFlit_eq (s : State) (port lw : Nat) (body : List Byte) (fixed : List Nat) :
    goodFlit s port lw body fixed = answerFlit ((completed s port body).1.foldl handPacket
      (modNear (wordTaken s port lw fixed) port (withStream (completed s port body).2))) port := by
  rw [completed, ← stream_of_unsent_afterWord (wordTaken_near s port lw fixed)]
  rfl

/-- A flit in order moves the expected SEQ on, is acknowledged, and hands on its packets (R330, R331). -/
theorem goodFlit_takes (s : State) (port lw : Nat) (body : List Byte) (fixed : List Nat) :
    turnOf (nearPort (goodFlit s port lw body fixed) port) =
        (((nearPort s port).expSeq + 1) % 4096, bits lw 23 12, (nearPort s port).replays) ∧
      (goodFlit s port lw body fixed).noc =
        s.noc ++ ((completed s port body).1.filter (handedOn (nearPort s port).level)).map Out.packet := by
  have word : placeOf (nearPort (modNear (wordTaken s port lw fixed) port (withStream (completed s port body).2)) port) =
      ((((nearPort s port).expSeq + 1) % 4096, bits lw 23 12, (nearPort s port).replays), (nearPort s port).level) := by
    rw [nearPort_modNear_self, placeOf_withStream, placeOf_of_unsent (wordTaken_near ..), placeOf_afterWord]
  have hands := foldl_hands (completed s port body).1 (modNear (wordTaken s port lw fixed) port (withStream (completed s port body).2))
    (parsePackets_port port 64 _)
  have level := congrArg Prod.snd word
  have sent := (answerFlit_flitsSent ((completed s port body).1.foldl handPacket
    (modNear (wordTaken s port lw fixed) port (withStream (completed s port body).2))) port).turnKept
  rw [goodFlit_eq]
  refine ⟨sent.turn.trans (congrArg Prod.fst (hands.place.trans word)), sent.noc.trans (hands.noc.trans ?_)⟩
  exact congrArg₂ (· ++ ·) (wordTaken_noc ..) (by rw [show (nearPort _ port).level = _ from level])

section
variable {lw : Nat} {body : List Byte} (plain : bit lw 24 = false) (none_ : (completed s port body).1 = [])

/-- The module that has taken a flit in order which completes no packet and asks for no replay. -/
def plainTaken (s : State) (port lw : Nat) (body : List Byte) (fixed : List Nat) : State :=
  modNear (modNear (noteCorrected (modNear s port movedOn) port fixed) port (withWord lw)) port (withStream (completed s port body).2)

theorem nearPort_plainTaken (s : State) (port lw : Nat) (body : List Byte) (fixed : List Nat) :
    nearPort (plainTaken s port lw body fixed) port =
      withStream (completed s port body).2 (afterWord s.now lw fixed (nearPort s port)) := by
  rw [plainTaken, nearPort_modNear_self, nearPort_modNear_self, nearPort_noteCorrected, nearPort_modNear_self]
  rfl

theorem idle_afterWord {now : Nat} {n : NearPort} (idle : Idle now n) (time lw : Nat) (fixed : List Nat) (rest : List Byte) :
    Idle now (withStream rest (afterWord time lw fixed n)) := by
  apply idle.of_fewer <;> dsimp only [withStream, afterWord, withWord, withCorrs, movedOn]
  exact List.length_filter_le ..

theorem creditsBack_of_owed {n m : NearPort} (h : n.owed = m.owed) : creditsBack n = creditsBack m := by
  rw [creditsBack, creditsBack, h]

theorem nextFlit_afterWord (n : NearPort) (now lw : Nat) (fixed : List Nat) (rest : List Byte) :
    nextFlit s (withStream rest (afterWord now lw fixed n)) = nextFlit s n := by
  have back : creditsBack (withStream rest (afterWord now lw fixed n)) = creditsBack n :=
    creditsBack_of_owed (by dsimp only [withStream, afterWord, withWord, withCorrs, movedOn])
  simp only [nextFlit, flitOf, idleFill, back]
  dsimp only [withStream, afterWord, withWord, withCorrs, movedOn]

/-- Of corrections, a link word and what is left of the stream, the port's next flit shows the SEQ that is acknowledged. -/
theorem flitOut_afterWord (n : NearPort) (now lw : Nat) (fixed : List Nat) (rest : List Byte) (f : Flit) :
    flitOut port (withStream rest (afterWord now lw fixed n)) f = flitOut port (movedOn n) f := by
  simp only [flitOut, linkWord, onLanes]
  dsimp only [withStream, afterWord, withWord, withCorrs, movedOn]

theorem nextFlit_plainTaken (n : NearPort) (fixed : List Nat) : nextFlit (plainTaken s port lw body fixed) n = nextFlit s n := by
  simp only [nextFlit, idleFill, me, compOf, plainTaken, noteCorrected, modNear_comp]

theorem plainTaken_now (fixed : List Nat) : (plainTaken s port lw body fixed).now = s.now := by
  simp only [plainTaken, noteCorrected, modNear_now]

theorem plainTaken_out (fixed : List Nat) : (plainTaken s port lw body fixed).out = s.out := by
  simp only [plainTaken, noteCorrected, modNear_out]

include plain none_

theorem goodFlit_plain (fixed : List Nat) : goodFlit s port lw body fixed = answerFlit (plainTaken s port lw body fixed) port := by
  rw [goodFlit_eq, none_, wordTaken_plain plain]
  rfl

theorem goodFlit_out (fixed : List Nat) (idle : Idle s.now (nearPort s port)) :
    (goodFlit s port lw body fixed).out = s.out ++ [flitOut port (movedOn (nearPort s port)) (nextFlit s (nearPort s port))] := by
  have idle' : Idle (plainTaken s port lw body fixed).now
      (withStream (completed s port body).2 (afterWord s.now lw fixed (nearPort s port))) := by
    rw [plainTaken_now]
    exact idle_afterWord idle ..
  rw [goodFlit_plain plain none_, answerFlit_out (nearPort_plainTaken s port lw body fixed) idle', flitOut_afterWord, nextFlit_plainTaken,
    nextFlit_afterWord, plainTaken_out]

theorem goodFlit_calm (calm : noisyLanes s port = []) : noisyLanes (goodFlit s port lw body []) port = [] := by
  rw [goodFlit_plain plain none_]
  refine (answerFlit_flitsSent ..).calm (noisyLanes_of_quieter calm ?_ rfl)
  rw [nearPort_plainTaken]
  exact quieter_afterWord ..

end

/-! ## FLIT_RECEIVE (R329, R330, R333) -/

theorem badFlit_calm (calm : noisyLanes s port = []) : noisyLanes (badFlit s port) port = [] :=
  (badFlit_sent ..).calm (noisyLanes_modNear (f := asksReplay) calm fun _ => ⟨rfl, .refl _⟩)

theorem badFlit_turn (s : State) (port : Nat) :
    turnOf (nearPort (badFlit s port) port) =
        ((nearPort s port).expSeq, (nearPort s port).acked, min 0xFFFF ((nearPort s port).replays + 1)) ∧
      (badFlit s port).noc = s.noc := by
  refine ⟨(badFlit_sent s port).turnKept.turn.trans ?_, (badFlit_sent s port).noc⟩
  rw [nearPort_modNear_self, turnOf_asksReplay]

/-- What is left where a flit is discarded in the state u, in which the port expects and has counted what it did in s. -/
theorem discarded_keeps {u : State} (turn : turnOf (nearPort u port) = turnOf (nearPort s port)) (noc : u.noc = s.noc) :
    (nearPort (lanesJudged (badFlit u port) port) port).expSeq = (nearPort s port).expSeq ∧
      (nearPort (lanesJudged (badFlit u port) port) port).replays = min 0xFFFF ((nearPort s port).replays + 1) ∧
      (lanesJudged (badFlit u port) port).noc = s.noc := by
  obtain ⟨asked, same⟩ := badFlit_turn u port
  have kept := lanesJudged_turnKept (badFlit u port) port
  have whole := kept.turn.trans asked
  simp only [turnOf, Prod.mk.injEq] at turn whole
  obtain ⟨expSeq, acked, replays⟩ := turn
  obtain ⟨expSeq', acked', replays'⟩ := whole
  exact ⟨expSeq'.trans expSeq, by rw [replays', replays], kept.noc.trans (same.trans noc)⟩

variable (h : ready s = true) (up : (nearPort s port).state = .up)
include h up

theorem open_flit : ¬ ((!ready s) = true ∨ (nearPort s port).state ≠ .up) := by simp [h, up]

theorem flitReceive_uncorrected (bad : flitDecode flit = none) :
    exec (.flitReceive port flit) s = .next (lanesJudged (badFlit (flitCounted s port) port) port) := by
  refine (if_neg (open_flit h up)).trans ?_
  simp only [bad]
  rfl

theorem flitReceive_astray {lw : Nat} {body : List Byte} {es : List (Nat × Nat)} (good : flitDecode flit = some (lw, body))
    (errors : flitErrors flit = some es) (other : bits lw 11 0 ≠ (nearPort s port).expSeq) :
    exec (.flitReceive port flit) s =
      .next (lanesJudged (badFlit (noteCorrected (flitCounted s port) port (es.map Prod.fst)) port) port) := by
  refine (if_neg (open_flit h up)).trans ?_
  simp only [good, errors]
  rw [if_pos (show bits lw 11 0 ≠ (nearPort (countEv s Isl.np 0x031 (some port) none) port).expSeq from other)]
  rfl

theorem flitReceive_inOrder {lw : Nat} {body : List Byte} {es : List (Nat × Nat)} (good : flitDecode flit = some (lw, body))
    (errors : flitErrors flit = some es) (next : bits lw 11 0 = (nearPort s port).expSeq) :
    exec (.flitReceive port flit) s = .next (lanesJudged (goodFlit (flitCounted s port) port lw body (es.map Prod.fst)) port) := by
  refine (if_neg (open_flit h up)).trans ?_
  simp only [good, errors]
  rw [if_neg (show ¬ bits lw 11 0 ≠ (nearPort (countEv s Isl.np 0x031 (some port) none) port).expSeq from not_not.mpr next)]
  rfl

/-- A flit that cannot be corrected, or is out of order, is discarded, and replay is asked for (R330). -/
theorem flitReceive_discards (bad : flitDecode flit = none ∨ ∃ lw body, flitDecode flit = some (lw, body) ∧
    bits lw 11 0 ≠ (nearPort s port).expSeq) :
    ∃ t, exec (.flitReceive port flit) s = .next t ∧ (nearPort t port).expSeq = (nearPort s port).expSeq ∧
      (nearPort t port).replays = min 0xFFFF ((nearPort s port).replays + 1) ∧ t.noc = s.noc := by
  rcases bad with bad | ⟨lw, body, good, other⟩
  · exact ⟨_, flitReceive_uncorrected h up bad, discarded_keeps (u := flitCounted s port) rfl rfl⟩
  · obtain ⟨es, errors⟩ := flitErrors_of_decode good
    refine ⟨_, flitReceive_astray h up good errors other, discarded_keeps ?_ rfl⟩
    rw [nearPort_noteCorrected, turnOf_withCorrs]
    rfl

/-- The flit after one that cannot be corrected asks for replay (R330). -/
theorem flitReceive_asks (bad : flitDecode flit = none) (calm : noisyLanes s port = []) (idle : Idle s.now (nearPort s port)) :
    ∃ t, exec (.flitReceive port flit) s = .next t ∧
      t.out = s.out ++ [flitOut port (asksReplay (nearPort s port)) (nextFlit s (nearPort s port))] :=
  ⟨_, flitReceive_uncorrected h up bad, (lanesJudged_out (badFlit_calm (s := flitCounted s port) calm)).trans
    (badFlit_out (s := flitCounted s port) idle)⟩

/-- A flit in order is taken: the next SEQ is expected, and its packets are handed on (R330, R331). -/
theorem flitReceive_takes {lw : Nat} {body : List Byte} (good : flitDecode flit = some (lw, body))
    (next : bits lw 11 0 = (nearPort s port).expSeq) :
    ∃ t, exec (.flitReceive port flit) s = .next t ∧ (nearPort t port).expSeq = ((nearPort s port).expSeq + 1) % 4096 ∧
      (nearPort t port).acked = bits lw 23 12 ∧
      t.noc = s.noc ++ ((completed s port body).1.filter (handedOn (nearPort s port).level)).map Out.packet ∧
      (flitErrors flit = some [] → noisyLanes s port = [] → Idle s.now (nearPort s port) → bit lw 24 = false →
        (completed s port body).1 = [] → t.out = s.out ++ [flitOut port (movedOn (nearPort s port)) (nextFlit s (nearPort s port))]) := by
  obtain ⟨es, errors⟩ := flitErrors_of_decode good
  obtain ⟨turn, noc⟩ := goodFlit_takes (flitCounted s port) port lw body (es.map Prod.fst)
  have kept := lanesJudged_turnKept (goodFlit (flitCounted s port) port lw body (es.map Prod.fst)) port
  have whole := kept.turn.trans turn
  simp only [turnOf, Prod.mk.injEq] at whole
  obtain ⟨expSeq, acked, -⟩ := whole
  refine ⟨_, flitReceive_inOrder h up good errors next, expSeq, acked, kept.noc.trans noc, fun clean calm idle plain none_ => ?_⟩
  obtain rfl : es = [] := Option.some.inj (errors.symm.trans clean)
  exact (lanesJudged_out (goodFlit_calm (s := flitCounted s port) plain none_ calm)).trans
    (goodFlit_out (s := flitCounted s port) plain none_ _ idle)

end

end Sys2Proof.Machine
end

section
/-! PROOFS. Training and lane repair of near ports; all of the near ports' statement (O40). -/

namespace Sys2Proof.Machine

open Sys2Proof.Safety

/-! ## Training (R332) -/

/-- The lanes that did not train. -/
def badLanes (lanes : Nat) : List Nat := (List.range 9).filter (fun i => !bit lanes i)

/-- A near port of which too few lanes trained. -/
def untrained (lanes : Nat) (n : NearPort) : NearPort :=
  { n with state := .down, failed := ofSetBits (badLanes lanes), spareBad := !bit lanes 8, creditMode := true, modePend := none }

section
variable {s : State} {port lanes partner level : Nat} (h : ready s = true) (low : port < 16) (own : level ≠ 0)
  (trains : (nearPort s port).state = .training ∨ (nearPort s port).state = .noPartner)
include h low own trains

theorem mayTrain : ¬ ((!ready s) = true ∨ 16 ≤ port ∨ level = 0 ∨
    ((nearPort s port).state ≠ .training ∧ (nearPort s port).state ≠ .noPartner)) := by
  rintro (busy | high | none_ | ⟨idle, alone⟩)
  · simp [h] at busy
  · omega
  · exact own none_
  · exact trains.elim idle alone

theorem linkTraining_up (enough : 4 ≤ (setBits 9 lanes).length) :
    ∃ t, exec (.linkTraining port lanes partner level) s = .next t ∧ (nearPort t port).state = .up ∧
      (nearPort t port).width = min 8 (setBits 9 lanes).length ∧ (nearPort t port).partner = partner := by
  refine ⟨_, (if_neg (mayTrain h low own trains)).trans (if_neg (Nat.not_lt.mpr enough)), ?_⟩
  have kept : ∀ u, LinksKept u (sendLstate (releaseHeld (notePaths u))) := fun u =>
    (notePaths_linksKept u).trans ((releaseHeld_linksKept _).trans (sendLstate_linksKept _))
  rw [(kept _).nearPort, nearPort_modNear_self]
  exact ⟨rfl, rfl, rfl⟩

theorem linkTraining_down (few : (setBits 9 lanes).length < 4) :
    ∃ t, exec (.linkTraining port lanes partner level) s = .next t ∧ (nearPort t port).state = .down := by
  refine ⟨_, (if_neg (mayTrain h low own trains)).trans (if_pos few), ?_⟩
  exact congrArg NearPort.state (nearPort_modNear_self ((badLanes lanes).foldl (fun s i => logSpare s 4 port i) s) port (untrained lanes))

end

theorem partnerTimeout_ends {s : State} {port : Nat} (h : ready s = true) (trains : (nearPort s port).state = .training)
    (late : (nearPort s port).trainAt + 100000000 ≤ s.now) :
    ∃ t, exec (.partnerTimeout port) s = .next t ∧ nearPort t port = { nearPort s port with state := .noPartner } ∧
      ∀ k, k ≠ port → nearPort t k = nearPort s k :=
  ⟨_, if_pos (by simp [h, trains, late]), nearPort_modNear_self .., fun _ other => nearPort_modNear_ne _ _ other⟩

/-! ## Lane failures (R333, R334) -/

section
variable {s : State} {port lane : Nat}

theorem nearPort_laneFails_idleSpare (idle : lane = 8 ∧ (nearPort s port).spareUsed = false) :
    nearPort (laneFails s port lane) port =
      { nearPort s port with failed := putBit (nearPort s port).failed 8 true, spareBad := true, spareBusy := false } := by
  rw [laneFails_idleSpare idle, nearPort_modNear_self, nearPort_laneNoted, withFailed, idle.1]
  simp

variable (up : (nearPort s port).state = .up)
include up

theorem laneFails_comes (active : lane < 8) (wide : (nearPort s port).width ≠ 4)
    (free : (nearPort s port).spareUsed = false ∧ (nearPort s port).spareBad = false ∧ (nearPort s port).spareBusy = false) :
    let m := nearPort (laneFails s port lane) port
    m.state = .up ∧ m.failed = putBit (nearPort s port).failed lane true ∧ m.spareBusy = true ∧ m.lanes = lanesLeft s port lane ∧
      m.width = (lanesLeft s port lane).length ∧ s.now ≤ m.quietUntil ∧ m.quietUntil ≤ s.now + 2000 := by
  rw [laneFails_spare (.inl active) wide free]
  obtain ⟨quiet, low, high, near⟩ :=
    widthChange_laneNoted s port lane (spareComes (laneAt (nearPort s port) lane)) (lanesLeft s port lane)
  have same := sameLanes_of_unsent near
  exact ⟨same.state.trans up, same.failed, same.spareBusy, same.lanes, same.width,
    low.trans_eq same.quiet.symm, same.quiet.trans_le high⟩

theorem laneFails_narrows (active : lane < 8 ∨ (nearPort s port).spareUsed = true) (wide : (nearPort s port).width ≠ 4)
    (taken : (nearPort s port).spareUsed = true ∨ (nearPort s port).spareBad = true ∨ (nearPort s port).spareBusy = true) :
    let m := nearPort (laneFails s port lane) port
    m.state = .up ∧ m.failed = putBit (nearPort s port).failed lane true ∧ m.spareBusy = (nearPort s port).spareBusy ∧
      m.lanes = lanesLeft s port lane ∧ m.width = m.lanes.length := by
  rw [laneFails_narrower active wide taken]
  obtain ⟨quiet, -, -, near⟩ :=
    widthChange_laneNoted s port lane (spareStays (laneAt (nearPort s port) lane) lane) (lanesLeft s port lane)
  have same := sameLanes_of_unsent near
  exact ⟨same.state.trans up, same.failed, same.spareBusy, same.lanes, same.width.trans (congrArg List.length same.lanes.symm)⟩

theorem laneFailure_runs (h : ready s = true) (physical : lane < 9) (good : bit (nearPort s port).failed lane = false) :
    exec (.laneFailure port lane) s = .next (laneFails s port lane) := if_neg (by simp [h, up, physical, good])

end

/-! ## The spare (R334) -/

/-- A near port whose spare serves a logical lane. -/
def spareServes (n : NearPort) : NearPort := { n with spareBusy := false, spareUsed := true }

/-- The module with the spare's start noted and logged. -/
def spareNoted (s : State) (port : Nat) : State := logSpare (modNear s port spareServes) 4 port 8

theorem nearPort_spareNoted (s : State) (port : Nat) : nearPort (spareNoted s port) port = spareServes (nearPort s port) :=
  ((logSpare_logs ..).linksKept.nearPort port).trans (nearPort_modNear_self ..)

/-- The lanes of a near port with the spare in the place of the one that failed. -/
def repaired (n : NearPort) : List Nat := n.lanes.take n.spareAt ++ [8] ++ n.lanes.drop n.spareAt

theorem spareLaneTrained_serves {s : State} {port : Nat} (h : ready s = true) (up : (nearPort s port).state = .up)
    (busy : (nearPort s port).spareBusy = true) :
    ∃ t, exec (.spareLaneTrained port) s = .next t ∧
      let m := nearPort t port
      m.state = .up ∧ m.spareBusy = false ∧ m.spareUsed = true ∧ m.lanes = repaired (nearPort s port) ∧
        m.width = m.lanes.length := by
  obtain ⟨quiet, -, -, near⟩ := widthChange_near (spareNoted s port) port (repaired (nearPort s port))
  rw [nearPort_spareNoted] at near
  have same := sameLanes_of_unsent near
  exact ⟨_, if_pos (by simp [h, up, busy]), same.state.trans up, same.spareBusy, same.spareUsed, same.lanes,
    same.width.trans (congrArg List.length same.lanes.symm)⟩

/-- Settles O40: link state, flits, training and lane repair, each by the row that acts on it. -/
theorem nearPortsFollowTheirLinks : Obligations.NearPortsFollowTheirLinks := by
  intro s h
  refine ⟨fun k arrives listed => lstate_heard arrives listed, fun due => ?_, fun port flit up => ?_,
    fun port lanes partner level low own trains => ?_, fun port trains late => partnerTimeout_ends h trains late,
    fun port lane up physical good => ?_, fun port up busy => spareLaneTrained_serves h up busy⟩
  · obtain ⟨_, _, shaped⟩ := sendLstate_shapes s
    refine ⟨_, lstateTimer_sends h due, ?_, ?_, ?_, fun e listed link => sendLstate_tells s listed link⟩ <;> rw [shaped] <;> rfl
  · refine ⟨fun bad => flitReceive_discards h up bad, fun bad ⟨calm, may, short⟩ => ?_, fun lw body good next => ?_⟩
    · obtain ⟨t, run, out⟩ := flitReceive_asks h up bad calm (idle_of_linkReady up may short)
      exact ⟨t, _, run, ⟨rfl, rfl, rfl, rfl⟩, out⟩
    · obtain ⟨t, run, expSeq, acked, noc, answer⟩ := flitReceive_takes h up good next
      exact ⟨t, run, expSeq, acked, noc, fun clean ⟨calm, may, short⟩ plain none_ =>
        ⟨_, ⟨rfl, rfl, rfl, rfl⟩, answer clean calm (idle_of_linkReady up may short) plain none_⟩⟩
  · exact ⟨fun enough => linkTraining_up h low own trains enough, fun few => linkTraining_down h low own trains few⟩
  · have run := laneFailure_runs up h physical good
    refine ⟨fun spare unused => ⟨_, run, nearPort_laneFails_idleSpare ⟨spare, unused⟩⟩,
      fun active wide unused sound free => ⟨_, run, laneFails_comes up active wide ⟨unused, sound, free⟩⟩,
      fun active wide taken => ⟨_, run, laneFails_narrows up active wide taken⟩, fun active narrow => ⟨_, run, ?_⟩⟩
    rw [laneFails_down active narrow, nearPort_nearDown]
    rfl

end Sys2Proof.Machine
end
